-- ==== Sys2Proof/Word.lean ====
section
/-! DEFINITION. The word, byte and table types of the model, and the numbers that name its parts. -/

namespace Sys2Proof

/-- A register of a page is 32 bits wide (R42). -/
abbrev Word := BitVec 32

abbrev Byte := BitVec 8

/-- A table from a number to a value: pairs with rising keys, no pair holding the table's default. -/
abbrev Tab (α : Type) := List (Nat × α)

/-- A requester of R51: 0 the physical function, k = 1 to 31 virtual function k, 32 the management core. -/
abbrev Req := Fin 33

/-- A function of the endpoint (R119): 0 the physical function, k virtual function k. It owns partition k. -/
abbrev Fun := Fin 32

/-- A partition (R128). -/
abbrev PartId := Fin 32

/-- A core (R25). -/
abbrev CoreId := Fin 384

/-- A memory-side die (R22). -/
abbrev DieId := Fin 4

/-- A context slot by its physical number (R137). -/
abbrev CtxId := Fin 3072

/-- A port in the order of R9. -/
abbrev PortId := Fin 6

/-- A frame number (R85). -/
abbrev FrameNo := BitVec 64

end Sys2Proof
end

