-- ==== Sys2Proof/Config.lean ====
section
/-! DEFINITION. What a build of the module fixes: its variant, and the values the manual leaves open. -/

namespace Sys2Proof

/-- The three variants of R4. -/
inductive Variant where
  | l7160
  | l7140
  | l7120
  deriving DecidableEq, Repr

/-- The seven special functions of R168 and R243. -/
inductive SpecialFn where
  | rcp
  | sqrt
  | rsqrt
  | exp2
  | log2
  | sin
  | cos
  deriving DecidableEq, Repr

namespace Config

/-- DESIGN CHOICE (log 9). The result of a special function that R243 does not fix to the bit: one value for one
input on every core (R243), otherwise free. -/
opaque specialFn : SpecialFn → BitVec 32 → BitVec 32

/-- DESIGN CHOICE (log 10). A value the manual leaves undefined, drawn afresh from the state's counter `free`. -/
opaque freeWord : Nat → BitVec 32

/-- DESIGN CHOICE (log 11). The smaller or greater of two zeros of unlike sign under MIN and MAX of R382, where the
manual does not say which. -/
opaque minMaxZero : Bool → BitVec 32 → BitVec 32 → BitVec 32

/-- DESIGN CHOICE (log 21). A shift by 32 or more: operation, value, amount. The manual states no result. -/
opaque shiftBeyond : Nat → BitVec 32 → BitVec 32 → BitVec 32

/-- DESIGN CHOICE (log 12). Digest of the boot ROM (measurement 0 of R531), fixed in silicon. -/
opaque romDigest : BitVec 256

/-- DESIGN CHOICE (log 12). The 16 B serial number (R529, R533). -/
opaque serialNumber : BitVec 128

/-- DESIGN CHOICE (log 12). I and T[1] of a tree of an HSS key: the key of the module, or that of Motetas' manufacturing;
tree 0 is that of level 0, tree 1 + n the one of level 1 below its leaf n (R523, R529). -/
opaque treeId : Bool → Nat → BitVec 128

opaque treeRoot : Bool → Nat → BitVec 256

/-- DESIGN CHOICE (log 12). The 32 B values of an LMS signature that the private seeds give, which never leave the
security engine (R529): key, tree, leaf, message, and which value: C, the 34 chains, the 20 path nodes (R523). -/
opaque lmsValue : Bool → Nat → Nat → List (BitVec 8) → Nat → BitVec 256

/-- DESIGN CHOICE (log 12). The index with which Motetas signed the endorsement (R529). -/
opaque endorsedWith : BitVec 40

/-- DESIGN CHOICE (log 12). The SHA-256 of the firmware signer of each of the four fuse key slots, and whether its revoke
fuse is blown (R525). -/
opaque keyHash : Nat → BitVec 256

opaque keyRevoked : Nat → Bool

/-- DESIGN CHOICE (log 12). The PCI vendor ID of Motetas (R533), which the manual does not give. -/
opaque vendorId : BitVec 16

/-- DESIGN CHOICE (log 13). What a later silicon puts in STEPPING of CAP_VARIANT; R7 bounds it. -/
opaque laterStepping : BitVec 8

/-- DESIGN CHOICE (log 81). The bytes that carry the five items of a marker (R107): the manual lists the items and places
none of them in the payload. -/
opaque markerPayload : List Nat → List (BitVec 8)

/-- DESIGN CHOICE (log 83). How many flits the holding queue of a port takes (R439), which the manual does not say. -/
opaque holdSize : Nat

/-- DESIGN CHOICE (log 13). VERSION of PAGE_ID (R44), given "per block" without a number. -/
opaque pageVersion : Nat → BitVec 8

end Config

end Sys2Proof
end

