-- ==== Sys2Proof/Syntax.lean ====
section
/-! DEFINITION. The commands of the block: operand types, and one constructor of `Instr` per row of the table. -/

namespace Sys2Proof

/-- The blocks of R46, and the shard-group page that a partition window shows as NAROG (R49, R396). -/
inductive Block where
  | module | puppeteer | strings | ctxtab | coll | kite | ulink | ulane | pcie | sec | mgmt | clkrst | power
  | core | array | sparse | stall | llc | dir | hbm | narrow | dma | marble | narog | slowtier | watch | rattle | rng
  | narogSg
  deriving DecidableEq, Repr

/-- The window through which a page is reached (R46, R48). -/
inductive Window where
  | glob
  | part (p : PartId)
  deriving DecidableEq, Repr

/-- Width of a register access (R42). -/
inductive AccWidth where
  | w8 | w16 | w32 | w64
  deriving DecidableEq, Repr

/-- One register of one page, seen by one requester (R41, R51): what an address of BAR0 names. -/
structure Acc where
  req : Req
  win : Window
  blk : Block
  off : BitVec 12
  deriving DecidableEq, Repr

/-- Where an access of the register space lands (R46, R48, R49, R122, R123): an offset in BAR0, which the management core
sees as the physical function does (R50), or an offset in BAR2. -/
inductive BarAddr where
  | bar0 (o : BitVec 26)
  | bar2 (o : BitVec 24)
  deriving DecidableEq, Repr

/-- An access of a requester at an address (R42, R51). -/
structure BarAcc where
  req : Req
  addr : BarAddr
  deriving DecidableEq, Repr

/-- A write of MBX_CMD that names one listed item (R57): the item is the row's, the data words are those the
requester's MBX_D0 to MBX_D7 hold. -/
structure MbxReq where
  req : Req
  win : Window
  op : BitVec 4
  len : BitVec 4
  tag : BitVec 8
  deriving DecidableEq, Repr

/-- A tick marker (R107). -/
structure Marker where
  frame : FrameNo
  source : BitVec 15
  period : Nat
  pending : Option (FrameNo × Nat)
  hops : Nat
  delayNs : Nat
  deriving DecidableEq, Repr

/-- Bytes the host returns for reads of host memory, one list for each read, in the order of the reads (R138). -/
abbrev HostData := List (List Byte)

/-- Whose vendor ID a message carries: that of Motetas, or another one (R533). -/
inductive Vendor where
  | motetas
  | other (id : BitVec 16)
  deriving DecidableEq, Repr

/-- How an attestation message travels (R533): a DOE data object with its vendor ID and type, or an MCTP message with its
message type and vendor ID. -/
inductive Via where
  | doe (vendor : Vendor) (kind : BitVec 8)
  | mctp (kind : BitVec 8) (vendor : Vendor)
  deriving DecidableEq, Repr

/-- What stands in front of the image bytes of a FW_RECOVER (R533): how it travels, the 4 B head and the image offset. -/
structure RecoverHead where
  via : Via
  head : BitVec 32
  off : BitVec 32
  deriving DecidableEq, Repr

/-- An IDE stream (R119): a selective one or that of the link, and its number. -/
structure IdeStream where
  selective : Bool
  id : BitVec 8
  deriving DecidableEq, Repr

/-- What J1 and J3 bring when VIN comes up (R498, R504): VIN in 0.1 V, and the levels of SLOT_ID[4:0]. -/
structure Supply where
  dv : BitVec 12
  slot : BitVec 5
  deriving DecidableEq, Repr

/-- A clock domain of R503, and for HCLK, which is one per stack, the stack. -/
structure ClockId where
  dom : Fin 9
  stack : Fin 12
  deriving DecidableEq, Repr

/-- What a configuration request reads, by name: the spec gives the capabilities of R119 and R122 and no offsets. -/
inductive CfgReg where
  | totalVfs | numVfs | vfEnable | firstVfOffset | vfStride | maxPayload | maxReadRequest | linkStatus | atsQueueDepth
  | pasidWidth | msixSize | msixControl | powerState | bar4Log2 | vfBar4Log2 | aerStatus | aerCorrectable | aerHeader
  | other (reg : BitVec 12)
  deriving DecidableEq, Repr

/-- A PCI Express configuration request (R119, R122, R506), by what it touches. `bar4Size` gives the size of BAR4, or of
the virtual functions' BAR4, as a power of two; `linkTrain` is a retraining that the host asks for, with the width and
rate in which it ends; `errors` is a request in which the layers of PCI Express find errors, correctable and fatal, as
PCI Express numbers them; `doeDiscovery` is a discovery request at the DOE mailbox. -/
inductive CfgOp where
  | read (reg : CfgReg)
  | msixControl (enable mask : Bool)
  | vfControl (enable : Bool) (numVfs : Fin 32)
  | powerState (d3hot : Bool)
  | bar4Size (vf : Bool) (log2 : Fin 64)
  | aerClear
  | linkTrain (half : Bool) (speed : Fin 8)
  | errors (correctable fatal : Word)
  | doeDiscovery (index : BitVec 8)
  | other (reg : BitVec 12) (v : Word)
  deriving DecidableEq, Repr

/-- Where a data-movement command comes from: the ring of a context, or the management core (R345). -/
inductive Issuer where
  | ctx (c : CtxId)
  | mgmt (slot aux : List Byte)
  deriving DecidableEq, Repr

/-- The element types of an add-to-line (R313, R319). -/
inductive DType where
  | fp32 | int32 | bf16
  deriving DecidableEq, Repr

/-- The agents of R318. -/
inductive Agent where
  | dma | coll | narog | kite | fetch | marble | bar4
  deriving DecidableEq, Repr

/-- An agent, with the context it acts for, if any (R352). -/
structure AgentFor where
  agent : Agent
  ctx : Option CtxId
  deriving DecidableEq, Repr

/-- A group slot of a core (R162). -/
abbrev GroupSlot := Fin 256

/-- A vector register index v0 to v255 (R162). -/
abbrev VReg := Fin 256

/-- A predicate register p0 to p7 (R162). -/
abbrev PReg := Fin 8

/-- A virtual address (R150). -/
abbrev VAddr := BitVec 48

/-- A vector or memory instruction as it issues (R175): the groups whose strands stand at `pc`, and the address of the
instruction that follows it, which Oapel's encoding would give. -/
structure Bundle where
  core : CoreId
  groups : List GroupSlot
  pc : VAddr
  next : VAddr
  deriving DecidableEq, Repr

/-- An array or control instruction as it issues, for one strand (R175). -/
structure One where
  core : CoreId
  group : GroupSlot
  pc : VAddr
  next : VAddr
  deriving DecidableEq, Repr

/-- A source of a vector instruction. -/
inductive Src where
  | reg (r : VReg)
  | imm (v : Word)
  deriving DecidableEq, Repr

/-- The integer and logic operations of the first row of R168. -/
inductive IntOp where
  | add | sub | mul | and | or | xor | shl | shr | sar | mov
  deriving DecidableEq, Repr

/-- The comparisons of a predicate set (R168). -/
inductive CmpOp where
  | eq | ne | ltS | leS | ltU | leU | eqF | neF | ltF | leF
  deriving DecidableEq, Repr

/-- The vector instructions of R168 that are neither conversions nor special functions. -/
inductive AluInstr where
  | int (op : IntOp) (d : VReg) (a b : Src)
  | setp (op : CmpOp) (p : PReg) (a b : Src)
  | add32 (d : VReg) (a b : Src)
  | mul32 (d : VReg) (a b : Src)
  | fma32 (d : VReg) (a b c : Src)
  | fmaBf16 (d : VReg) (a b c : Src)
  deriving DecidableEq, Repr

/-- The special values of R161. -/
inductive SpecialVal where
  | lane | quarter | group | thread | block | blockSlot | coreLocal | scratchSlice | frameLo | frameCycle
  deriving DecidableEq, Repr

/-- The predicate of a branch: absent (taken by all), or a register and the value it must have. -/
structure BranchPred where
  p : PReg
  want : Bool
  deriving DecidableEq, Repr

/-- The space a load or store names (R169, R194, R312): the block's slice, the array region, or device memory. -/
inductive MemSpace where
  | scratch | region | device
  deriving DecidableEq, Repr

/-- The sizes of one lane's access. -/
inductive MemSize where
  | b8 | b16 | b32
  deriving DecidableEq, Repr

/-- The ten element formats of R230 (E8M0 scales them). -/
inductive Fmt where
  | fp32 | fp16 | bf16 | e4m3 | e5m2 | e3m2 | e2m3 | e2m1 | int8 | int4
  deriving DecidableEq, Repr

/-- A line of device memory: its address divided by 128 (R27). -/
abbrev Line := BitVec 34

/-- A conversion format of cvt.f: INT32, or one of the element formats. -/
inductive CvtFmt where
  | int32
  | elem (f : Fmt)
  deriving DecidableEq, Repr

/-- The scratch forms: the block's slice, or the array region (R194). -/
inductive ScrSpace where
  | slice | region
  deriving DecidableEq, Repr

/-- A slot mask, immediate or in a register (R215). -/
inductive SlotMask where
  | imm (m : BitVec 14)
  | reg (r : VReg)
  deriving DecidableEq, Repr

/-- MODE of arr.drain (R214). -/
inductive DrainMode where
  | release | keep | discard
  deriving DecidableEq, Repr

/-- A check of R222 that fails, with the cell it names: 1 row path, 2 column path, 3 stationary set. -/
structure ArrFault where
  path : Fin 4
  row : Fin 128
  col : Fin 128
  deriving DecidableEq, Repr

/-- Operands of arr.mm as they stand in the instruction (R215). -/
structure MmForm where
  col : Bool
  op : BitVec 3
  fmt : BitVec 4
  slot : Fin 16
  rows : Nat
  bank : Fin 2
  add : Bool
  sw : Bool
  rel : Bool
  pred : BitVec 2
  sparse : Bool
  deriving DecidableEq, Repr

/-- Symbols of the 288 stored bits of each sector of a line that have come into error (R350), or, of a line of the slow
tier, that its package or its link will report (R371). -/
structure Upset where
  s0 : BitVec 18
  s1 : BitVec 18
  s2 : BitVec 18
  s3 : BitVec 18
  deriving DecidableEq, Repr

/-- A 256 B flit as it stands on the link (R426): header, payload, trailer. -/
structure FlitImage where
  hdr : BitVec 64
  payload : List Byte
  tlr : BitVec 64
  deriving DecidableEq, Repr

/-- What a start-up self-test finds (R507): cores that fail check 1, 2 and 3, and whether a slice fails check 4. -/
structure SelfTest where
  check1 : List CoreId
  check2 : List CoreId
  check3 : List CoreId
  sliceFail : Bool
  deriving DecidableEq, Repr

/-- What the module measures in a window (R516, R517): the power of the compute dies and of the input over it, the input's
average over 1 ms and over 1 s, in W; VIN in 0.1 V; the hottest junction, each stack, the memory-side dies, the I/O die,
Narog and the coolant inlet, in °C. -/
structure PowerMeas where
  computeW : BitVec 12
  windowW : BitVec 12
  avgW : BitVec 12
  inputW : BitVec 12
  vinDv : BitVec 12
  junction : BitVec 8
  temps : List (BitVec 8)
  memDies : List (BitVec 8)
  ioDie : BitVec 8
  narog : BitVec 8
  coolant : BitVec 8
  deriving DecidableEq, Repr

/-- The commands of the block: one constructor per row of the table. -/
inductive Instr where
  | chselWrite (req : Req) (win : Window) (blk : Block) (v : Word)
  | statusRegisterRead (a : BarAcc) (w : AccWidth)
  | statusWriteBack (a : BarAcc) (v : Word)
  | evackWrite (req : Req) (win : Window) (blk : Block) (v : Word)
  | configRegisterWrite (a : BarAcc) (w : AccWidth) (v : BitVec 64)
  | mbxCommandFinish (req : Req) (win : Window) (blk : Block)
  | snapTake (req : Req) (win : Window) (blk : Block) (v : Word)
  | snapDone (req : Req) (win : Window) (blk : Block)
  | scrubVisit (blk : Block) (inst : Fin 8192) (off : BitVec 12) (flips : BitVec 33)
  | eventFrame (r : MbxReq) (blk : Block)
  | scrubFrame (r : MbxReq) (blk : Block)
  | tick
  | closingWindowOpen
  | waveRelease (w : Fin 8)
  | launch (c : CtxId)
  | launchStart (work : Nat) (core : CoreId)
  | blockDispatch (core : CoreId)
  | launchCoreEnd (work : Nat) (core : CoreId)
  | cancel (c : CtxId)
  | fence (c : CtxId)
  | fenceComplete (c : CtxId)
  | tlbInval (c : CtxId)
  | tlbInvalComplete (c : CtxId)
  | badOpcodeCommand (c : CtxId)
  | markerReceive (port : PortId) (m : Marker) (residenceNs : Nat)
  | stringsTakeover
  | stringsLost
  | stringsFrameNo (r : MbxReq)
  | applyFrame (r : MbxReq)
  | frameSet (r : MbxReq)
  | puppeteerFrameNo (r : MbxReq)
  | stepBase (r : MbxReq)
  | stepNo (r : MbxReq)
  | grantCtxWrite (req : Req) (win : Window) (v : Word)
  | grantCoresWrite (req : Req) (win : Window) (hi : Bool) (v : Word)
  | grantWatchWrite (req : Req) (win : Window) (v : Word)
  | grantSgWrite (req : Req) (win : Window) (v : Word)
  | grantSlowWrite (req : Req) (win : Window) (v : Word)
  | grantHbmLo (r : MbxReq)
  | grantHbmHi (r : MbxReq)
  | evtVectors (r : MbxReq)
  | measurementRecompute (p : PartId)
  | bar4Read (fn : Fun) (off : BitVec 36) (len : BitVec 13)
  | bar4Write (fn : Fun) (off : BitVec 36) (bytes : List Byte)
  | bar4BaseWrite (req : Req) (v : Word)
  | doorbellWrite (fn : Fun) (off : BitVec 24) (v : Word)
  | commandFetch (c : CtxId) (host : HostData)
  | atomicopRequest (fn : Fun)
  | configRequest (fn : Fun) (op : CfgOp)
  | atsInvalidation (fn : Fun) (tag : BitVec 5) (base len : BitVec 64)
  | vfEnableClear
  | functionLevelReset (fn : Fun)
  | createArg (r : MbxReq)
  | create (r : MbxReq)
  | destroy (r : MbxReq)
  | teardownClearStart (c : CtxId)
  | teardownClearDone (c : CtxId)
  | resume (r : MbxReq)
  | vectorAlu (b : Bundle) (i : AluInstr)
  | specialFunction (b : Bundle) (f : SpecialFn) (d a : VReg)
  | cvtF (b : Bundle) (df sf : CvtFmt) (d a w : VReg)
  | cvtBlk (b : Bundle) (f : Fmt) (d s a : VReg) (bump : PReg) (w : VReg)
  | cvtWide (b : Bundle) (f : Fmt) (d a s : VReg)
  | mskPack (b : Bundle) (d : VReg) (p : PReg)
  | branch (o : One) (pred : Option BranchPred) (target join : VAddr)
  | yieldEnd (core : CoreId) (group : GroupSlot) (pc : VAddr)
  | join (core : CoreId) (group : GroupSlot)
  | barSync (o : One) (id : Fin 16)
  | barArrive (o : One) (id : Fin 16)
  | barrierMismatch (core : CoreId) (slot : Fin 32) (id : Fin 16)
  | exit (o : One)
  | specialValueRead (o : One) (v : SpecialVal) (d : VReg)
  | groupPromote (core : CoreId) (demote : GroupSlot)
  | load (b : Bundle) (sp : MemSpace) (size : MemSize) (sext : Bool) (d a : VReg)
  | loadReturn (core : CoreId) (id : Nat)
  | store (b : Bundle) (sp : MemSpace) (size : MemSize) (v a : VReg)
  | scrCas (b : Bundle) (sp : ScrSpace) (d a cmp new : VReg)
  | scrExch (b : Bundle) (sp : ScrSpace) (d a v : VReg)
  | stAdd (b : Bundle) (t : DType) (a v : VReg)
  | scrAdd (b : Bundle) (sp : ScrSpace) (t : DType) (a v : VReg)
  | memDead (b : Bundle) (a n : VReg) (chk : Bool)
  | memFence (b : Bundle) (module : Bool)
  | ldCmp (b : Bundle) (sp : MemSpace) (nz : Bool) (f : Fmt) (d i t row blk : VReg)
  | mrPut (b : Bundle) (t : DType) (base i v : VReg)
  | spSegset (b : Bundle) (base rows : VReg)
  | spTake (b : Bundle) (s p n : VReg)
  | rngCtr (b : Bundle) (d t e : VReg)
  | rngStr (b : Bundle) (d : VReg) (st : Fin 4)
  | arrReady (o : One) (m : SlotMask)
  | arrUnready (o : One) (m : SlotMask)
  | arrLds (o : One) (slot : Fin 16) (src : VReg) (bytes : Nat)
  | arrLdsh (o : One) (slot : Fin 16) (fmt : BitVec 4) (col rel : Bool)
  | arrLdshStart (core : CoreId)
  | arrLdshComplete (core : CoreId) (bad : Option ArrFault)
  | arrMm (o : One) (f : MmForm)
  | arrPassStart (core : CoreId) (bad : Option ArrFault)
  | arrPassComplete (core : CoreId) (bad : Option ArrFault)
  | arrDrain (o : One) (bank : Fin 2) (dst : Fin 16) (ofmt : BitVec 4) (mode : DrainMode)
  | arrDrainStart (core : CoreId)
  | arrDrainComplete (core : CoreId)
  | arrStat (o : One) (d : VReg)
  | spFilt (o : One) (pid : BitVec 8) (mode : BitVec 2)
  | spLdw (o : One) (slot : Fin 16)
  | spEst (o : One) (pid : BitVec 8) (slot : Fin 16) (rows : Nat) (add : Bool)
  | spChk (o : One) (pid : BitVec 8)
  | spStat (o : One) (d : VReg)
  | rattleCheck (core : CoreId)
  | rattleSeedWrite (req : Req) (v : Word)
  | sortList (c : CtxId)
  | marbleWindowTimeout (die : DieId)
  | marbleJobInputEnd (die : DieId) (work : Nat)
  | marbleWindowEmit (die : DieId)
  | marbleJobEnd (work : Nat)
  | rd (core : CoreId) (line : Line)
  | own (core : CoreId) (line : Line)
  | ownFull (core : CoreId) (line : Line)
  | joinRequest (core : CoreId) (line : Line)
  | joinAck (core : CoreId) (line : Line)
  | wbd (core : CoreId) (line : Line)
  | wbr (core : CoreId) (line : Line)
  | deadRequest (core : CoreId) (line : Line)
  | ard (agent : Agent) (c : Option CtxId) (line : Line) (sect : BitVec 4)
  | awr (agent : AgentFor) (line : Line) (off : Fin 128) (bytes : List Byte)
  | aadd (agent : Agent) (line : Line) (t : DType) (elems : List (Fin 64 × Word))
  | vict (die : DieId) (set : Fin 32768)
  | snoopShare (core : CoreId) (line : Line)
  | snoopInval (core : CoreId) (line : Line)
  | snoopDiscard (core : CoreId) (line : Line)
  | snoopAnswer (core : CoreId) (line : Line)
  | fillArrive (line : Line)
  | fillDeliver (core : CoreId) (line : Line)
  | conversionComplete (line : Line)
  | mergeStart (line : Line)
  | mergeComplete (line : Line)
  | wbArg (r : MbxReq)
  | wbStart (r : MbxReq)
  | wbVisit (die : DieId)
  | wbScanComplete (die : DieId)
  | lookupArg (r : MbxReq)
  | lookup (r : MbxReq)
  | lastDead (r : MbxReq)
  | narrowSchedule (stack : Fin 12) (pc : Fin 32)
  | hbmReadComplete (line : Line) (upset : Upset)
  | hbmRefresh (stack : Fin 12) (pc : Fin 32) (sid : Fin 3) (bank : Fin 16)
  | hbmScrub (stack : Fin 12) (upset : BitVec 18)
  | hbmLastUncorr (r : MbxReq)
  | scrubPasses (r : MbxReq)
  | copy (i : Issuer)
  | fill (i : Issuer)
  | gather (i : Issuer)
  | storeCast (i : Issuer)
  | amax (i : Issuer)
  | transpose (i : Issuer)
  | dmaPiece (engine : Fin 32) (host : HostData)
  | dmaCommandEnd (work : Nat)
  | lastHole (r : MbxReq)
  | update (c : CtxId)
  | cast (c : CtxId)
  | narogJobStart (work : Nat)
  | narogWriteDone (work : Nat)
  | narogFlip (work : Nat)
  | narogReport (work : Nat)
  | recordAddr (r : MbxReq)
  | loadRecord (r : MbxReq)
  | init (r : MbxReq)
  | narogCommitRead (r : MbxReq)
  | narogStepRead (r : MbxReq)
  | powers (r : MbxReq)
  | narogCfgWrite (req : Req) (win : Window) (off : BitVec 12) (v : Word)
  | slowtierLastUncorr (r : MbxReq)
  | watchReport
  | stepClose (p : PartId)
  | dumpComplete (p : PartId)
  | watchCfgWrite (req : Req) (win : Window) (v : Word)
  | closedStep (r : MbxReq)
  | closed (r : MbxReq) (f : Fin 9)
  | live (r : MbxReq) (f : Fin 9)
  | dump (r : MbxReq)
  | close (r : MbxReq)
  | norm (r : MbxReq)
  | lastDisagree (r : MbxReq)
  | portEnable (req : Req) (v : Word)
  | portDisable (req : Req) (v : Word)
  | retrain (req : Req) (v : Word)
  | detourSet (req : Req) (v : Word)
  | detourClear (req : Req) (v : Word)
  | portUp (port : PortId) (peer : BitVec 15) (roundTripNs : Nat)
  | trainFail (port : PortId) (peer : Option (BitVec 15))
  | nodeDimsWrite (req : Req) (dims : Bool) (v : Word)
  | flitSlot (port : PortId)
  | flitReceive (port : PortId) (im : FlitImage)
  | retryTimeout (port : PortId)
  | noFlitTimeout (port : PortId)
  | ackTimeout (port : PortId)
  | reduceScatter (c : CtxId)
  | allGather (c : CtxId)
  | allReduce (c : CtxId)
  | put (c : CtxId)
  | collectiveStart (work : Nat)
  | collData
  | collReady
  | flowAck
  | flowAckTimer
  | rewindTimeout
  | normUp
  | normDown
  | refuse
  | collectiveEnd (work : Nat)
  | landing (r : MbxReq)
  | txFlits (r : MbxReq)
  | rxFlits (r : MbxReq)
  | sweepComplete (g : Fin 256)
  | ack
  | storeTimeout (g : Fin 256)
  | buddyPut
  | buddyAck
  | openRecord
  | rowRecord
  | sealRecord
  | abortRecord
  | restoreReq
  | replReq
  | replAns
  | restoreClearDone (part : PartId)
  | restoreCheckDone (part : PartId)
  | hostFeed (r : MbxReq)
  | stage (r : MbxReq)
  | hostRing (r : MbxReq)
  | hostConsumed (r : MbxReq)
  | hostAck (r : MbxReq)
  | feed (r : MbxReq)
  | sgSel (r : MbxReq)
  | sgTable (r : MbxReq)
  | base (r : MbxReq)
  | kiteCommits (r : MbxReq)
  | kiteDigest (r : MbxReq)
  | expect (r : MbxReq)
  | restore (r : MbxReq)
  | replica (r : MbxReq)
  | failNote (r : MbxReq)
  | adapt (r : MbxReq)
  | buddyArg (r : MbxReq)
  | buddyGet (r : MbxReq)
  | buddyDrop (r : MbxReq)
  | krecAddr (r : MbxReq)
  | krecInit (r : MbxReq)
  | wcStale (r : MbxReq)
  | kiteCfgWrite (req : Req) (win : Window) (v : Word)
  | kiteMctlWrite (req : Req) (v : Word)
  | rngSeed (r : MbxReq)
  | cursor (r : MbxReq)
  | pos (r : MbxReq) (st : Fin 4)
  | snapPos (r : MbxReq)
  | snapCursor (r : MbxReq)
  | vinApplied (x : Supply)
  | firmwareVerified
  | pwrEnAssert
  | pwrEnDeassert
  | railsUp
  | perstDeassert
  | perstAssert
  | clocksDone
  | memoryDone
  | selftestDone (r : SelfTest)
  | bootClearDone
  | supplyLow
  | supplyLoss
  | governorWindow (m : PowerMeas)
  | thermWarn (junction coolant : BitVec 8)
  | thermalTrip (junction stack : BitVec 8)
  | thermalTripRelease (junction stack : BitVec 8)
  | crossingStall (send recv : Fin 9) (inst : BitVec 9)
  | pllUnlock (send recv : Fin 9) (inst : BitVec 9)
  | relockTimeout (dom : ClockId)
  | blockRst (r : MbxReq)
  | blockResetComplete (b : Block) (inst : Fin 384)
  | moduleReset (r : MbxReq)
  | coreFailLo (r : MbxReq)
  | coreFailHi (r : MbxReq)
  | bootTime (r : MbxReq)
  | fwLoad (r : MbxReq)
  | fwLoadComplete
  | fwInfo (r : MbxReq)
  | fwCommitSvn (r : MbxReq)
  | signIndex (r : MbxReq)
  | generation (r : MbxReq)
  | measArg (r : MbxReq)
  | secMeas (r : MbxReq)
  | getMeasurements (via : Via) (bytes : List Byte)
  | getIdentity (via : Via) (bytes : List Byte)
  | fwRecover (head : RecoverHead) (bytes : List Byte)
  | reservationWriteDone
  | signatureRelease
  | treeBuildDone
  | feedCycles (r : MbxReq)
  | swaps (r : MbxReq)
  | stallCountRead (r : MbxReq) (n : Fin 80)
  | mispTotal (r : MbxReq)
  | entriesIn (r : MbxReq)
  | laneLockLost (lane : Fin 48)
  | pllRelock (dom : ClockId)
  | clockResume (dom : ClockId)
  | moduleResetRelease
  | atsCompletion (c : CtxId) (denied : Bool)
  | ideKmMessage (stream : IdeStream) (key : List Byte)
  | mctpControlMessage (bytes : List Byte)
  deriving DecidableEq, Repr

end Sys2Proof
end

