-- ==== Sys2Proof/Machine/Bits.lean ====
section
/-! DEFINITION. Bit fields, little-endian bytes and small number helpers. -/

namespace Sys2Proof

/-- Bits [hi:lo] of a word, as a number (R19). -/
def field (v : Word) (hi lo : Nat) : Nat := v.toNat / 2 ^ lo % 2 ^ (hi + 1 - lo)

/-- Bit i of a word. -/
def bit (v : Word) (i : Nat) : Bool := v.getLsbD i

/-- A number placed at bit `lo` of a word. -/
def place (n lo : Nat) : Word := BitVec.ofNat 32 (n * 2 ^ lo)

/-- One bit placed at `lo`. -/
def flag (b : Bool) (lo : Nat) : Word := if b then place 1 lo else 0

/-- The word with bits [hi:lo] set. -/
def span (hi lo : Nat) : Word := BitVec.ofNat 32 ((2 ^ (hi + 1 - lo) - 1) * 2 ^ lo)

/-- Even-parity bit of a word (R68): true when the word holds an odd number of ones. -/
def oddOnes {n : Nat} (v : BitVec n) : Bool :=
  (List.range n).foldl (fun b i => b != v.getLsbD i) false

/-- The number little-endian bytes spell. -/
def leNat : List Byte → Nat
  | [] => 0
  | b :: t => b.toNat + 256 * leNat t

/-- `n` little-endian bytes of a number. -/
def leBytes : Nat → Nat → List Byte
  | 0, _ => []
  | n + 1, v => BitVec.ofNat 8 v :: leBytes n (v / 256)

/-- `n` bytes of a list from offset `o`; zeros past its end. -/
def bytesAt (bs : List Byte) (o n : Nat) : List Byte :=
  let t := (bs.drop o).take n
  t ++ List.replicate (n - t.length) 0

/-- The little-endian number in bytes `o` to `o + n - 1`. -/
def leAt (bs : List Byte) (o n : Nat) : Nat := leNat (bytesAt bs o n)

/-- Every byte of `o` to `o + n - 1` is 0. -/
def zerosAt (bs : List Byte) (o n : Nat) : Bool := (bytesAt bs o n).all (· == 0)

/-- Replace element `i` of a list. -/
def setAt {α : Type} (l : List α) (i : Nat) (v : α) : List α := l.set i v

/-- Overwrite a list from offset `o`. -/
def overlay {α : Type} (l : List α) (o : Nat) (n : List α) : List α :=
  l.take o ++ n ++ l.drop (o + n.length)

/-- The numbers `a` to `a + n - 1`. -/
def upFrom (a n : Nat) : List Nat := (List.range n).map (a + ·)

/-- Ceiling of a quotient. -/
def ceilDiv (a b : Nat) : Nat := (a + b - 1) / b

/-- The words of a number, low word first (R59). -/
def wordsOf : Nat → Nat → List Word
  | 0, _ => []
  | n + 1, v => BitVec.ofNat 32 v :: wordsOf n (v / 2 ^ 32)

/-- The number that words spell, low word first (R59). -/
def natOf : List Word → Nat
  | [] => 0
  | w :: t => w.toNat + 2 ^ 32 * natOf t

/-- Two's-complement value of the low `w` bits of a number. -/
def signedOf (w n : Nat) : Int :=
  let m := n % 2 ^ w
  if m < 2 ^ (w - 1) then (m : Int) else (m : Int) - 2 ^ w

/-- Low `w` bits of an integer. -/
def unsignedOf (w : Nat) (i : Int) : Nat := (i % (2 ^ w : Int)).toNat

end Sys2Proof
end

