-- ==== Sys2Proof/Machine/Formats.lean ====
section
/-! DEFINITION. The number formats of R230 to R254: values, rounding, conversions, FP32 arithmetic and block casts. -/

namespace Sys2Proof

/-- Bits of an element (R230). -/
def Fmt.width : Fmt → Nat
  | .fp32 => 32 | .fp16 => 16 | .bf16 => 16 | .e4m3 => 8 | .e5m2 => 8 | .e3m2 => 6 | .e2m3 => 6 | .e2m1 => 4
  | .int8 => 8 | .int4 => 4

/-- Mantissa bits M (R230); 0 for the integers. -/
def Fmt.man : Fmt → Nat
  | .fp32 => 23 | .fp16 => 10 | .bf16 => 7 | .e4m3 => 3 | .e5m2 => 2 | .e3m2 => 2 | .e2m3 => 3 | .e2m1 => 1
  | .int8 => 0 | .int4 => 0

/-- Exponent bias (R230). -/
def Fmt.bias : Fmt → Nat
  | .fp32 => 127 | .fp16 => 15 | .bf16 => 127 | .e4m3 => 7 | .e5m2 => 15 | .e3m2 => 3 | .e2m3 => 1 | .e2m1 => 1
  | .int8 => 0 | .int4 => 0

def Fmt.isInt : Fmt → Bool
  | .int8 => true | .int4 => true | .fp32 => false | .fp16 => false | .bf16 => false | .e4m3 => false
  | .e5m2 => false | .e3m2 => false | .e2m3 => false | .e2m1 => false

/-- The seven narrow formats. -/
def Fmt.isNarrow : Fmt → Bool
  | .fp32 => false | .fp16 => false | .bf16 => false | .e4m3 => true | .e5m2 => true | .e3m2 => true
  | .e2m3 => true | .e2m1 => true | .int8 => true | .int4 => true

/-- Formats whose all-ones exponent is reserved (R231). -/
def Fmt.ieee : Fmt → Bool
  | .fp32 => true | .fp16 => true | .bf16 => true | .e5m2 => true | .e4m3 => false | .e3m2 => false
  | .e2m3 => false | .e2m1 => false | .int8 => false | .int4 => false

/-- A value: NaN, an infinity, or the exact dyadic (−1)^neg · m · 2^e, which keeps the sign of zero (R231). -/
inductive Num where
  | nan
  | inf (neg : Bool)
  | fin (neg : Bool) (m : Nat) (e : Int)
  deriving DecidableEq, Repr

/-- The value of a code (R231, R233). -/
def Num.ofCode (f : Fmt) (c : Nat) : Num :=
  if f.isInt then
    let v := signedOf f.width c
    .fin (v < 0) v.natAbs 0
  else
    let mb := f.man
    let eb := f.width - 1 - mb
    let m := c % 2 ^ mb
    let e := c / 2 ^ mb % 2 ^ eb
    let neg := c / 2 ^ (f.width - 1) % 2 = 1
    if f.ieee && e = 2 ^ eb - 1 then (if m = 0 then .inf neg else .nan)
    else if f = .e4m3 && e = 15 && m = 7 then .nan
    else if e = 0 then .fin neg m (1 - (f.bias : Int) - mb)
    else .fin neg (2 ^ mb + m) ((e : Int) - f.bias - mb)

/-- m · 2^e rounded by RNE to a multiple of 2^q: the multiple (R238). `m` may carry a sticky bit at its low end. -/
def rneAt (m : Nat) (e q : Int) : Nat :=
  if q ≤ e then m * 2 ^ (e - q).toNat
  else
    let d := (q - e).toNat
    let n := m / 2 ^ d
    let r := m % 2 ^ d
    let half := 2 ^ (d - 1)
    if r > half || (r = half && n % 2 = 1) then n + 1 else n

/-- The rounding step of a floating-point format at magnitude m · 2^e: its precision, or its subnormal spacing. -/
def Fmt.step (f : Fmt) (m : Nat) (e : Int) : Int :=
  if f.isInt then 0
  else max ((Nat.log2 m : Int) + e - f.man) (1 - (f.bias : Int) - f.man)

/-- Rounding without the upper exponent limit (R246): the multiple n and the step q. -/
def Fmt.rneUnbounded (f : Fmt) (m : Nat) (e : Int) : Nat × Int :=
  let q := f.step m e
  (rneAt m e q, q)

/-- Largest finite magnitude as m · 2^e (R230, R245). -/
def Fmt.maxFin : Fmt → Nat × Int
  | .fp32 => (2 ^ 24 - 1, 104) | .fp16 => (2047, 5) | .bf16 => (255, 120) | .e4m3 => (7, 6) | .e5m2 => (7, 13)
  | .e3m2 => (7, 2) | .e2m3 => (15, -1) | .e2m1 => (3, 1) | .int8 => (127, 0) | .int4 => (7, 0)

/-- Code of the largest finite value, sign clear. -/
def Fmt.maxCode : Fmt → Nat
  | .fp32 => 0x7F7FFFFF | .fp16 => 0x7BFF | .bf16 => 0x7F7F | .e4m3 => 0x7E | .e5m2 => 0x7B | .e3m2 => 0x1F
  | .e2m3 => 0x1F | .e2m1 => 0x7 | .int8 => 127 | .int4 => 7

/-- a · 2^i > b · 2^j. -/
def dyGt (a : Nat) (i : Int) (b : Nat) (j : Int) : Bool :=
  let l := min i j
  b * 2 ^ (j - l).toNat < a * 2 ^ (i - l).toNat

/-- a · 2^i as a signed multiple of 2^l, for l ≤ i. -/
def dyAt (neg : Bool) (a : Nat) (i l : Int) : Int :=
  let v : Int := (a * 2 ^ (i - l).toNat : Nat)
  if neg then -v else v

/-- Code of the representable value n · 2^q, sign apart (R231); an integer format takes n as the integer. -/
def Fmt.encode (f : Fmt) (neg : Bool) (n : Nat) (q : Int) : Nat :=
  if f.isInt then unsignedOf f.width (dyAt neg n q 0)
  else
    let mb := f.man
    let (n, q) := if n = 2 ^ (mb + 1) then (2 ^ mb, q + 1) else (n, q)
    let s := if neg then 2 ^ (f.width - 1) else 0
    if n < 2 ^ mb then s + n
    else s + (q + mb + f.bias).toNat * 2 ^ mb + (n - 2 ^ mb)

/-- Canonical NaN (R240); 0 where the format has none. -/
def Fmt.nanCode : Fmt → Nat
  | .fp32 => 0x7FC00000 | .fp16 => 0x7E00 | .bf16 => 0x7FC0 | .e4m3 => 0x7F | .e5m2 => 0x7F | .e3m2 => 0
  | .e2m3 => 0 | .e2m1 => 0 | .int8 => 0 | .int4 => 0

def Fmt.infCode : Fmt → Nat
  | .fp32 => 0x7F800000 | .fp16 => 0x7C00 | .bf16 => 0x7F80 | .e5m2 => 0x7C | .e4m3 => 0x7E | .e3m2 => 0x1F
  | .e2m3 => 0x1F | .e2m1 => 0x7 | .int8 => 127 | .int4 => 7

def Fmt.signed (f : Fmt) (neg : Bool) (c : Nat) : Nat :=
  if neg then (if f.isInt then unsignedOf f.width (-(c : Int)) else 2 ^ (f.width - 1) + c) else c

/-- What a narrowing conversion counts (R249). -/
structure Counts where
  sat : Nat := 0
  flush : Nat := 0
  nan : Nat := 0
  deriving DecidableEq, Repr

def Counts.add (a b : Counts) : Counts := ⟨a.sat + b.sat, a.flush + b.flush, a.nan + b.nan⟩

/-- RNE of a value to FP32, FP16 or BF16, beyond the largest finite value to an infinity (R210, R241). An infinity counts no
saturation, as in R249: DESIGN CHOICE (log 164). -/
def Num.toWide (f : Fmt) : Num → Nat × Counts
  | .nan => (f.nanCode, { nan := 1 })
  | .inf neg => (f.signed neg f.infCode, {})
  | .fin neg m e =>
    if m = 0 then (f.signed neg 0, {})
    else
      let (n, q) := f.rneUnbounded m e
      if n = 0 then (f.signed neg 0, { flush := 1 })
      else if dyGt n q f.maxFin.1 f.maxFin.2 then (f.signed neg f.infCode, { sat := 1 })
      else (f.encode neg n q, {})

/-- RNE to FP32. -/
def Num.f32 (v : Num) : Word := BitVec.ofNat 32 (v.toWide .fp32).1

def Num.ofF32 (w : Word) : Num := Num.ofCode .fp32 w.toNat

def Num.ofBf16 (w : Word) : Num := Num.ofCode .bf16 (w.toNat % 65536)

def Num.neg : Num → Num
  | .nan => .nan
  | .inf s => .inf (!s)
  | .fin s m e => .fin (!s) m e

def Num.isNan : Num → Bool
  | .nan => true | .inf _ => false | .fin _ _ _ => false

def Num.isZero : Num → Bool
  | .nan => false | .inf _ => false | .fin _ m _ => m = 0

/-- Exact sum; an exact zero from unlike operands is +0 (RNE), −0 + −0 is −0. -/
def Num.add : Num → Num → Num
  | .nan, _ => .nan
  | _, .nan => .nan
  | .inf a, .inf b => if a = b then .inf a else .nan
  | .inf a, .fin _ _ _ => .inf a
  | .fin _ _ _, .inf b => .inf b
  | .fin a m i, .fin b n j =>
    if m = 0 && n = 0 then .fin (a && b) 0 0
    else
      let l := min i j
      let s := dyAt a m i l + dyAt b n j l
      .fin (s < 0) s.natAbs l

/-- Exact product; infinity times zero is NaN. -/
def Num.mul : Num → Num → Num
  | .nan, _ => .nan
  | _, .nan => .nan
  | .inf a, .inf b => .inf (a != b)
  | .inf a, .fin b n _ => if n = 0 then .nan else .inf (a != b)
  | .fin a m _, .inf b => if m = 0 then .nan else .inf (a != b)
  | .fin a m i, .fin b n j => .fin (a != b) (m * n) (i + j)

/-- Value times 2^k, exactly. -/
def Num.scale (v : Num) (k : Int) : Num :=
  match v with
  | .nan => .nan
  | .inf s => .inf s
  | .fin s m e => .fin s m (e + k)

/-- Exact order of two values that are not NaN: a < b. Zeros are equal. -/
def Num.lt : Num → Num → Bool
  | .nan, _ => false
  | _, .nan => false
  | .inf a, .inf b => a && !b
  | .inf a, .fin _ _ _ => a
  | .fin _ _ _, .inf b => !b
  | .fin a m i, .fin b n j =>
    let l := min i j
    dyAt a m i l < dyAt b n j l

def Num.eq : Num → Num → Bool
  | .nan, _ => false
  | _, .nan => false
  | .inf a, .inf b => a = b
  | .inf _, .fin _ _ _ => false
  | .fin _ _ _, .inf _ => false
  | .fin a m i, .fin b n j =>
    let l := min i j
    dyAt a m i l = dyAt b n j l

/-- FP32 add, multiply and FMA, one rounding each (R243). -/
def fadd (a b : Word) : Word := (Num.add (.ofF32 a) (.ofF32 b)).f32
def fsub (a b : Word) : Word := (Num.add (.ofF32 a) (Num.ofF32 b).neg).f32
def fmul (a b : Word) : Word := (Num.mul (.ofF32 a) (.ofF32 b)).f32
def ffma (a b c : Word) : Word := (Num.add (Num.mul (.ofF32 a) (.ofF32 b)) (.ofF32 c)).f32

/-- BF16 FMA on 16-bit codes: exact, then one RNE to BF16 (R243). -/
def bffma (a b c : Nat) : Nat :=
  ((Num.add (Num.mul (.ofCode .bf16 a) (.ofCode .bf16 b)) (.ofCode .bf16 c)).toWide .bf16).1

/-- BF16 add on 16-bit codes (R314). -/
def bfadd (a b : Nat) : Nat := ((Num.add (.ofCode .bf16 a) (.ofCode .bf16 b)).toWide .bf16).1

/-- Quotient of two values with a sticky bit, ready for one rounding. -/
def Num.div : Num → Num → Num
  | .nan, _ => .nan
  | _, .nan => .nan
  | .inf _, .inf _ => .nan
  | .inf a, .fin b _ _ => .inf (a != b)
  | .fin a _ _, .inf b => .fin (a != b) 0 0
  | .fin a m i, .fin b n j =>
    if n = 0 then (if m = 0 then .nan else .inf (a != b))
    else
      let k := 320 + Nat.log2 n
      let q := m * 2 ^ k / n
      let sticky := if m * 2 ^ k % n = 0 then 0 else 1
      .fin (a != b) (2 * q + sticky) (i - j - k - 1)

/-- Square root with a sticky bit, ready for one rounding. -/
def Num.sqrt : Num → Num
  | .nan => .nan
  | .inf s => if s then .nan else .inf false
  | .fin s m e =>
    if m = 0 then .fin s 0 0
    else if s then .nan
    else
      let e2 := if e % 2 = 0 then e else e - 1
      let m2 := if e % 2 = 0 then m else 2 * m
      let big := m2 * 4 ^ 40
      let r := Nat.sqrt big
      let sticky := if r * r = big then 0 else 1
      .fin false (2 * r + sticky) (e2 / 2 - 41)

/-- FP32 divide and square root, correctly rounded (R243, R382). -/
def fdiv (a b : Word) : Word := (Num.div (.ofF32 a) (.ofF32 b)).f32
def fsqrt (a : Word) : Word := (Num.sqrt (.ofF32 a)).f32

/-- A value rounded by RNE to an integer, if finite. -/
def Num.toInt? : Num → Option Int
  | .nan => none
  | .inf _ => none
  | .fin s m e => some (dyAt s (rneAt m e 0) 0 0)

def clampInt (lo hi v : Int) : Int := max lo (min hi v)

/-- Conversion to INT32: RNE, saturating, NaN to 0 (R242). -/
def Num.toInt32 (v : Num) : Word :=
  match v with
  | .nan => 0
  | .inf s => if s then 0x80000000 else 0x7FFFFFFF
  | .fin s m e => BitVec.ofInt 32 (clampInt (-2 ^ 31) (2 ^ 31 - 1) (dyAt s (rneAt m e 0) 0 0))

def Num.ofInt (i : Int) : Num := .fin (i < 0) i.natAbs 0

/-- One conversion of cvt.f between FP32, FP16, BF16 (`some f`) and INT32 (`none`), and its counts (R241, R242,
R249). -/
def convert (df sf : Option Fmt) (a : Word) : Word × Counts :=
  let v := match sf with
    | some f => Num.ofCode f (a.toNat % 2 ^ f.width)
    | none => Num.ofInt a.toInt
  match df with
  | none => (match sf with | none => a | some _ => v.toInt32, {})
  | some f =>
    let (c, k) := v.toWide f
    (BitVec.ofNat 32 c, if f = .fp32 then {} else k)

/-- Value of a narrow element under its scale code (R235). -/
def elementValue (f : Fmt) (code x : Nat) : Num :=
  if x = 0xFF then .nan else (Num.ofCode f code).scale ((x : Int) - 127)

/-- Widening to FP32 (R244). -/
def widen (f : Fmt) (code x : Nat) : Word := (elementValue f (code % 2 ^ f.width) (x % 256)).f32

/-- E_max (R245). -/
def Fmt.eMax : Fmt → Int
  | .e4m3 => 8 | .e5m2 => 15 | .e3m2 => 4 | .e2m3 => 2 | .e2m1 => 2 | .int8 => 6 | .int4 => 2
  | .fp32 => 127 | .fp16 => 15 | .bf16 => 127

/-- Result of a block cast (R246). -/
structure BlockCast where
  scale : Nat
  codes : List Nat
  ovf : Bool
  /-- What each element counts. -/
  each : List Counts
  deriving DecidableEq, Repr

def BlockCast.counts (r : BlockCast) : Counts := r.each.foldl Counts.add {}

/-- The greater of two finite magnitudes. -/
def magMax (a b : Nat × Int) : Nat × Int := if dyGt b.1 b.2 a.1 a.2 then b else a

def Num.mag : Num → Option (Nat × Int)
  | .nan => none
  | .inf _ => none
  | .fin _ m e => some (m, e)

/-- One element of a block cast at scale exponent `k`. -/
def castElem (f : Fmt) (k : Int) (v : Num) : Nat × Counts :=
  match v with
  | .nan => (f.nanCode, {})
  | .inf s => (f.signed s f.infCode, if f = .e5m2 then {} else { sat := 1 })
  | .fin s m e =>
    if m = 0 then (if f.isInt then 0 else f.signed s 0, {})
    else
      let (n, q) := f.rneUnbounded m (e - k)
      if dyGt n q f.maxFin.1 f.maxFin.2 then (f.signed s f.maxCode, { sat := 1 })
      else if n = 0 then (if f.isInt then 0 else f.signed s 0, { flush := 1 })
      else (f.encode s n q, {})

/-- The block cast of R246 with bump bit `b`. -/
def blockCast (f : Fmt) (b : Bool) (a : List Num) : BlockCast :=
  if a.any Num.isNan then ⟨0xFF, a.map (fun _ => f.nanCode), false, a.map (fun v => if v.isNan then { nan := 1 } else {})⟩
  else
    let amax := (a.filterMap Num.mag).foldl magMax (0, 0)
    let x0 : Int := if amax.1 = 0 then 127 else (Nat.log2 amax.1 : Int) + amax.2 - f.eMax + 127
    let x := (clampInt 0 254 x0).toNat
    let beyond (v : Num) : Bool := match v with
      | .nan => false
      | .inf _ => false
      | .fin _ m e =>
        let (n, q) := f.rneUnbounded m (e - ((x : Int) - 127))
        m ≠ 0 && dyGt n q f.maxFin.1 f.maxFin.2
    let y := if b then min (x + 1) 254 else x
    let r := a.map (castElem f ((y : Int) - 127))
    ⟨y, r.map Prod.fst, a.any beyond, r.map Prod.snd⟩

/-- Old + v of an add-to-line element (R314): FP32 and INT32 use 32 bits, BF16 the low 16. -/
def addElem (t : DType) (old v : Word) : Word :=
  match t with
  | .fp32 => fadd old v
  | .int32 => old + v
  | .bf16 => BitVec.ofNat 32 (bfadd (old.toNat % 65536) (v.toNat % 65536))

/-- Bytes of an add-to-line element. -/
def DType.bytes : DType → Nat
  | .fp32 => 4 | .int32 => 4 | .bf16 => 2

/-- Bits [57:56] of a directory entry (R319). -/
def DType.code : DType → Nat
  | .fp32 => 0 | .int32 => 1 | .bf16 => 2

end Sys2Proof
end

