-- ==== Sys2Proof/Machine/Hash.lean ====
section
/-! DEFINITION. CRC-32 (R373, R427), SHA-256 (R476) and Philox4×32 (R479). -/

namespace Sys2Proof.Machine

/-- One bit of CRC-32 with the IEEE 802.3 polynomial, least significant bit first. -/
def crcBit (c : Word) : Word := if c.getLsbD 0 then (c >>> 1) ^^^ 0xEDB88320 else c >>> 1

def crcByte (c : Word) (b : Byte) : Word :=
  crcBit (crcBit (crcBit (crcBit (crcBit (crcBit (crcBit (crcBit (c ^^^ BitVec.setWidth 32 b))))))))

/-- CRC-32 of a byte string. -/
def crc32 (bs : List Byte) : Word := ~~~(bs.foldl crcByte (BitVec.allOnes 32))

/-- The first 64 primes, from which SHA-256 takes its constants. -/
def shaPrimes : List Nat := (List.range 312).filter (fun n => 2 ≤ n && (List.range n).all (fun d => d < 2 || n % d ≠ 0))

/-- The largest r below 2^b with r^k ≤ v, bit by bit from above. -/
def rootBelow (k v : Nat) : Nat → Nat → Nat
  | 0, r => r
  | b + 1, r => rootBelow k v b (if (r + 2 ^ b) ^ k ≤ v then r + 2 ^ b else r)

/-- First 32 bits of the fraction of the k-th root of n. -/
def rootFraction (k n : Nat) : Word := BitVec.ofNat 32 (rootBelow k (n * 2 ^ (32 * k)) 40 0)

/-- Round constants: cube roots of the 64 primes; initial value: square roots of the first eight (FIPS 180-4). -/
def shaRound : List Word := shaPrimes.map (rootFraction 3)
def shaStart : List Word := (shaPrimes.take 8).map (rootFraction 2)

/-- Exclusive or of a word's right rotations by some amounts. -/
def mixOf (x : Word) (rs : List Nat) : Word := rs.foldl (fun a r => a ^^^ x.rotateRight r) 0

/-- The word that follows sixteen words of the message schedule, oldest first. -/
def shaNext (w : List Word) : Word :=
  let near := w.getD 1 0
  let far := w.getD 14 0
  (mixOf far [17, 19] ^^^ (far >>> 10)) + w.getD 9 0 + (mixOf near [7, 18] ^^^ (near >>> 3)) + w.getD 0 0

/-- A round takes its word from the front of the schedule, which grows by one at the back: working variables `v`, the
latest first, and the window of sixteen words. -/
def shaRoundOn (q : List Word × List Word) (k : Word) : List Word × List Word :=
  let v (i : Nat) : Word := q.1.getD i 0
  let pick := v 6 ^^^ (v 4 &&& (v 5 ^^^ v 6))
  let most := (v 0 &&& v 1) ||| (v 2 &&& (v 0 ||| v 1))
  let x := v 7 + mixOf (v 4) [6, 11, 25] + pick + k + q.2.headD 0
  ((x + mixOf (v 0) [2, 13, 22] + most) :: q.1.take 3 ++ [v 3 + x] ++ (q.1.drop 4).take 3, q.2.drop 1 ++ [shaNext q.2])

/-- Big-endian 32-bit word of four bytes at an offset. -/
def beWord (bs : List Byte) (o : Nat) : Word := BitVec.ofNat 32 (leNat (bytesAt bs o 4).reverse)

/-- One block of 64 bytes. -/
def shaBlock (h : List Word) (b : List Byte) : List Word :=
  List.zipWith (· + ·) h (shaRound.foldl shaRoundOn (h, (List.range 16).map (fun i => beWord b (4 * i)))).1

def shaBlocks : Nat → List Word → List Byte → List Word
  | 0, h, _ => h
  | n + 1, h, bs => shaBlocks n (shaBlock h (bs.take 64)) (bs.drop 64)

/-- SHA-256 (FIPS 180-4). -/
def sha256 (bs : List Byte) : List Byte :=
  let n := bs.length
  let m := bs ++ [0x80] ++ List.replicate ((119 - n % 64) % 64) 0 ++ (leBytes 8 (8 * n)).reverse
  (shaBlocks (m.length / 64) shaStart m).flatMap (fun w => (leBytes 4 w.toNat).reverse)

/-- SHA-256 of each 32 KiB piece. -/
def shaPieces : Nat → List Byte → List Byte
  | 0, _ => []
  | n + 1, bs => sha256 (bs.take 32768) ++ shaPieces n (bs.drop 32768)

/-- H of R476. -/
def hashH (bs : List Byte) : List Byte := sha256 (shaPieces (ceilDiv bs.length 32768) bs)

/-- One round of Philox4×32. -/
def philoxRound (c : List Nat) (k0 k1 : Nat) : List Nat :=
  let p0 := 0xD2511F53 * c.getD 0 0
  let p1 := 0xCD9E8D57 * c.getD 2 0
  [Nat.xor (Nat.xor (p1 / 2 ^ 32) (c.getD 1 0)) k0, p1 % 2 ^ 32, Nat.xor (Nat.xor (p0 / 2 ^ 32) (c.getD 3 0)) k1, p0 % 2 ^ 32]

def philoxRounds : Nat → List Nat → Nat → Nat → List Nat
  | 0, c, _, _ => c
  | n + 1, c, k0, k1 =>
    philoxRounds n (philoxRound c k0 k1) ((k0 + 0x9E3779B9) % 2 ^ 32) ((k1 + 0xBB67AE85) % 2 ^ 32)

/-- Philox4×32 with 10 rounds (R479): the four words of a counter under a key. -/
def philox (c : List Nat) (k0 k1 : Nat) : List Nat := philoxRounds 10 c k0 k1

end Sys2Proof.Machine
end

