-- ==== Sys2Proof/Machine/State.lean ====
section
/-! DEFINITION. The state of the block as plain data, its faults and refusals, and the state after reset. -/

namespace Sys2Proof.Machine

/-- Why a step stops for good. The manual gives every command an effect, so no meaning raises one. -/
inductive Fault where
  /-- Nobody raises it: the manual describes no condition that stops the module as a whole. Safe. -/
  | none
  deriving DecidableEq, Repr

/-- Why a command has no meaning. -/
inductive Refusal where
  /-- Raised by an arm of `exec` whose command has no meaning yet. Safe: nothing can be proved of its effect. -/
  | notModelled (mnemonic : String)
  deriving DecidableEq, Repr

/-- What leaves the module: data a requester or the host receives, messages, pins and flits. -/
inductive Out where
  /-- The value of a register read (R42). -/
  | readData (req : Nat) (v : BitVec 64)
  /-- An MSI-X message of a function (R136). -/
  | msix (fn vector : Nat)
  /-- An event request that the management core receives (R134, R136). -/
  | mgmtEvent (blk inst : Nat) (code : BitVec 16)
  /-- Data of a host read through BAR4 (R127). -/
  | bar4Data (fn : Nat) (bytes : List Byte)
  /-- A host read completed with poisoned data (R352). -/
  | bar4Poison (fn : Nat)
  /-- A completion with Unsupported Request (R120, R127). -/
  | unsupported (fn : Nat)
  /-- A completion of a configuration request: its data, or Request Retry Status (R506). -/
  | cfgDone (fn : Nat) (v : Word)
  | cfgRetry (fn : Nat)
  /-- A non-fatal error logged in AER (R127). -/
  | aer (fn : Nat)
  /-- An ATS translation request of a function for a page of host memory (R119, R151). -/
  | atsRequest (fn : Nat) (pasid : Option Nat) (page : Nat)
  /-- A write of a function to host memory, under a PASID (R138, R472). -/
  | hostWrite (fn : Nat) (pasid : Option Nat) (addr : Nat) (bytes : List Byte)
  /-- Data an agent receives for a read of a line (R318). -/
  | agentData (agent : Agent) (line : Nat) (bytes : List Byte)
  /-- The completion of an ATS invalidation (R119). -/
  | atsDone (fn : Nat)
  /-- A marker sent on a port (R107, R108), and the flit that carries it (R425): header word, payload, trailer word. -/
  | marker (port : Nat) (m : Marker) (hdr : BitVec 64) (payload : List Byte) (tlr : BitVec 64)
  /-- A flit sent on a port (R430): header word, payload, trailer word. -/
  | flit (port : Nat) (hdr : BitVec 64) (payload : List Byte) (tlr : BitVec 64)
  /-- A lane transmits PRBS31 (R460). -/
  | prbs31 (lane : Nat)
  /-- A level of an output pin: PWR_GOOD, ALERT#, THERM_TRIP# (R498). -/
  | pin (name : String) (high : Bool)
  /-- A message of the DOE mailbox or of MCTP (R119, R533). -/
  | message (via : Via) (bytes : List Byte)
  /-- An answer to an MCTP control message (R533). -/
  | mctpControl (bytes : List Byte)
  /-- The rack position, reported to the management bus (R498). -/
  | slotId (id : BitVec 5)
  deriving DecidableEq, Repr

/-- An event source (R79, R82). -/
structure Source where
  num : Word := 0
  pending : Nat := 0
  lastCode : BitVec 16 := 0
  lastFrame : FrameNo := BitVec.allOnes 64
  deriving DecidableEq, Repr

/-- One requester's copies on one page (R51): CHSEL, the mailbox, SNAP_CTL and the holding registers. `result` is what
a running command will place when it finishes; `todo` is what a command that still waits for memory acts on. -/
structure ReqCopy where
  inst : BitVec 16 := 0
  bad : Bool := false
  cmd : Word := 0
  valid : Bool := false
  busy : Bool := false
  err : BitVec 2 := 0
  tag : BitVec 8 := 0
  d : List Word := List.replicate 8 0
  result : BitVec 2 × List Word := (0, [])
  todo : Option (List Nat) := none
  snapInst : BitVec 16 := 0
  snapZero : Bool := false
  snapDone : Bool := false
  snapBusy : Bool := false
  hold : Tab Word := []
  deriving DecidableEq, Repr

/-- Registers and events (R41 to R84). -/
structure RegState where
  /-- Configuration registers by `regKey`, where they differ from their reset value. -/
  cfg : Tab Word := []
  /-- Registers whose hidden parity does not match (R68), and those among them whose mismatch the scrubber has found
  (R69, R70). -/
  par : Tab Bool := []
  found : Tab Bool := []
  /-- The value a register accepted last, where bits have changed in it since (R71). -/
  accepted : Tab Word := []
  /-- Latched SQ fields of the status registers. -/
  status : Tab Word := []
  /-- Event numbers of the status registers (R75). -/
  evnum : Tab Word := []
  /-- Events latched since the register was last cleared, for MULTI (R73). -/
  latched : Tab Nat := []
  /-- One more than the event number at a requester's last read (R76). -/
  seen : Tab Nat := []
  /-- Counters, in full. -/
  count : Tab Nat := []
  /-- Event sources by `srcKey`. -/
  src : Tab Source := []
  /-- Requester copies by `copyKey`. -/
  copy : Tab ReqCopy := []
  /-- Values kept per requester by an item (CREATE_ARG, WB_ARG, ...), as words. -/
  args : Tab (List Word) := []
  /-- Instances in reset under R515. -/
  rst : List Nat := []
  deriving DecidableEq, Repr

/-- Puppeteer's and Strings's frame (R85 to R114). -/
structure FrameState where
  /-- Frame in progress. -/
  no : FrameNo := 0
  /-- Cycles elapsed in it. -/
  cycle : Nat := 0
  /-- Period P. -/
  period : Nat := 800000
  /-- Adjustment of L_f by a slew or a step (R109), in cycles. -/
  adj : Int := 0
  /-- A step put off to frame f + 1 (R109). -/
  adjNext : Int := 0
  /-- Number the next tick opens, when it is not f + 1 (R109, R111), and the one that a step put off to frame f + 1 gives
  the tick after (R109). -/
  nextNo : Option FrameNo := none
  afterNo : Option FrameNo := none
  /-- Pending frame and period (R113). -/
  pend : Option (FrameNo × Nat) := none
  closing : Bool := false
  /-- Waves released in this frame (R104). -/
  waves : BitVec 8 := 0
  /-- Ticks since reset. -/
  ticks : Nat := 0
  /-- Frame numbers of accepted markers: the last one, those since the tick and those of the frame before (R108), and
  whether one came since the tick. -/
  lastMarker : Option FrameNo := none
  marked : List FrameNo := []
  markedBefore : List FrameNo := []
  /-- Consecutive frames without an accepted marker (R112). -/
  missed : Nat := 0
  gotMarker : Bool := false
  /-- The backup master has taken over (R112). -/
  tookOver : Bool := false
  free : Bool := false
  lastErr : BitVec 16 := 0
  port : Nat := 7
  hops : Nat := 0
  sourceId : BitVec 15 := 0
  deriving DecidableEq, Repr

/-- STATE of a context slot (R137). -/
inductive CtxState where
  | free | active | stopped | destroying | clearing
  deriving DecidableEq, Repr

/-- A translation a context holds: page base, and the leaf's permissions (R150). -/
structure Leaf where
  base : Nat
  write : Bool
  exec : Bool
  host : Bool
  deriving DecidableEq, Repr

/-- A command the module has read in (R548): its slot and its parameter record. -/
structure Fetched where
  slot : List Byte
  aux : List Byte
  deriving DecidableEq, Repr

/-- A context slot (R137 to R157). -/
structure Ctx where
  st : CtxState := .free
  part : Nat := 0
  desc : Nat := 0
  ringHost : Bool := false
  ringBase : Nat := 0
  ringLog2 : Nat := 12
  pasid : Option Nat := none
  ptRoot : Nat := 0
  key : Word := 0
  irq : Nat := 0
  head : Nat := 0
  tail : Nat := 0
  fetched : Option Fetched := none
  /-- Slot and header of a FENCE that holds the fetch (R149). -/
  fence : Option (Nat × Word) := none
  /-- Slot, header, base and length of each TLB_INVAL not yet done, oldest first (R149). -/
  tlbWait : List (Nat × Word × Nat × Nat) := []
  tlb : Tab (Option Leaf) := []
  /-- Host page whose ATS translation an access waits for, and the pages ATS has granted (R151). -/
  atsWait : Option Nat := none
  ats : Tab Bool := []
  /-- One more than the tick count at which step 2 of R155 was done; 0 before. -/
  halted : Nat := 0
  /-- Units reserved per frame (R89). -/
  resv : Tab Nat := []
  deriving DecidableEq, Repr

/-- A partition's grants and tables that are no configuration register (R130, R135, R115, R405, R419, R461). -/
structure Part where
  hbm : BitVec 432 := 0
  evt : BitVec 256 := 0
  stepBase : FrameNo := 0
  /-- A step whose counts are to be closed at cycle 4,096, and the last frame of its reports (R102, R404). -/
  closeDue : Option (Nat × Nat) := none
  /-- The frame in which CLOSE was written (R405), and the number of the last close. -/
  closeAsk : Option Nat := none
  lastClosed : Option Nat := none
  /-- Dump buffer: address and capacity in records (R419); a dump under way: address, header, records (R409). -/
  dump : Nat × Nat := (0, 0)
  dumping : Option (Nat × List Byte × List Byte) := none
  /-- Step and N of the norm delivered last, VALID and DOUBLE (R411, R412). -/
  norm : Option (Nat × Word) := none
  normValid : Bool := false
  normDouble : Bool := false
  /-- Landing window: base and size (R456). -/
  landing : Nat × Nat := (0, 0)
  deriving DecidableEq, Repr

/-- An entry of the tensor watch table (R399 to R406): five counts by destination format. -/
structure WEntry where
  live : Tab (List Nat) := []
  /-- Counts of a step that has ended and is not closed yet (R404). -/
  fin : Tab (List Nat) := []
  closed : Tab (List Nat) := []
  closedStep : Option Nat := none
  zrun : Nat := 0
  run : Nat := 0
  deriving DecidableEq, Repr

/-- A shard group's record as Narog or Kite holds it (R373, R374, R488): its address, whether a copy was valid, the
values, and whether the second copy was the one taken. -/
structure Sg where
  recAddr : Nat := 0
  ready : Bool := false
  commit : Nat := 0
  step : Nat := 0
  p1 : Word := 0
  p2 : Word := 0
  second : Bool := false
  wcStale : Bool := false
  deriving DecidableEq, Repr

/-- What AER holds for a function (R119, R127): a non-fatal error, and the address and length of the request of the
first one; the correctable and fatal errors that the layers of PCI Express have logged, as it numbers them. -/
structure AerLog where
  nonFatal : Bool := false
  correctable : Word := 0
  fatal : Word := 0
  header : Option (Nat × Nat) := none
  deriving DecidableEq, Repr

/-- The endpoint (R119 to R136). -/
structure PciState where
  /-- The link is trained to half the lanes, and its rate, numbered from 1 (2.5 GT/s) to 7 (128 GT/s) (R119, R121). -/
  half : Bool := false
  speed : Nat := 7
  /-- Sizes of BAR4 and of the virtual functions' BAR4 as powers of two (R122). -/
  bar4Log2 : Nat := 36
  vfBar4Log2 : Nat := 36
  aer : Tab AerLog := []
  vfEnable : Bool := false
  numVfs : Nat := 0
  msixEnable : Tab Bool := []
  msixMask : Tab Bool := []
  /-- MSI-X table words by function and byte offset; a vector's control word resets to masked. -/
  msixTable : Tab Word := []
  /-- Messages that masked vectors hold back, by vector: the event sources whose requests they are, and none for a
  completion (R84, R136). A vector's pending bit is set while it holds one. -/
  pba : Tab (List (Option Nat)) := []
  /-- One more than the cycle of the last message of a vector (R136). -/
  lastMsg : Tab Nat := []
  d3hot : Tab Bool := []
  /-- Keys programmed by IDE_KM, by stream (R119). -/
  ide : Tab (List Byte) := []
  /-- ATS invalidation requests taken and not yet done (R119). -/
  ats : List (Nat × Nat) := []
  /-- Host reads that wait for a slice or a stack, oldest first: function, BAR4 offset, length (R127). -/
  reads : List (Nat × Nat × Nat) := []
  config : Tab (Option Word) := []
  deriving DecidableEq, Repr

/-- A segment lane since its sp.segset (R295): ROWPTR address; the first row with an untaken segment and how many of its
segments are taken from the front; the end of the rows, and how many segments of the last one are stolen. -/
structure SegLane where
  base : Nat
  lo : Nat
  taken : Nat := 0
  hi : Nat
  stolen : Nat := 0
  deriving DecidableEq, Repr

/-- A launch (R148, R159 to R165). `list` is its cores, in local order. -/
structure Launch where
  decl : Nat
  entry : Nat
  arg : Nat
  blocks : Nat
  gpb : Nat
  split : Nat
  foot : Nat
  regs : Nat
  list : List Nat
  nextBlock : Nat := 0
  started : List Nat := []
  ended : List Nat := []
  charge : Nat := 0
  /-- Segment lanes by local core number (R295, R296). -/
  lanes : Tab (Option SegLane) := []
  /-- Entries were put to a marble run (R303). -/
  puts : Bool := false
  deriving DecidableEq, Repr

/-- A SORT_LIST job (R299). -/
structure SortJob where
  vtype : DType
  list : Nat
  dest : Nat
  count : Nat
  read : Nat := 0
  deriving DecidableEq, Repr
/-- States of an L1 line that is present (R316). -/
inductive L1St where
  | s | e | m | red
  deriving DecidableEq, Repr

/-- An L1 line: line number (address div 128), way, data or delta, sector valid bits (R310, R315). -/
structure L1Line where
  line : Nat
  way : Nat
  st : L1St
  dt : DType := .fp32
  valid : BitVec 4
  data : List Byte
  used : Nat := 0
  deriving DecidableEq, Repr

/-- What a memory operation waits for (R169, R312, R335, R336). A thread of a core is named 32 × group slot + lane. -/
inductive MemKind where
  /-- A load: destination, access, the threads still without data with their physical addresses, and the data so far. -/
  | load (d : Nat) (size : MemSize) (sext : Bool) (need : List (Nat × Nat)) (got : List (Nat × Word))
  /-- Bytes of a store to one line, waiting for the line: offset and byte; whether they cover the line (R312). -/
  | store (line : Nat) (bytes : List (Nat × Byte)) (full : Bool)
  /-- Elements of an st.add to one line, in lane order, waiting for an earlier fill of the line. -/
  | add (line : Nat) (t : DType) (elems : List (Nat × Word))
  /-- An add to a RED line that waits for this many acknowledgements of the line's JOINs. -/
  | join (line acks : Nat)
  /-- A mem.dead of one line: not yet sent, or not yet accepted by its slice. -/
  | dead (line : Nat) (chk sent : Bool)
  /-- Results already known that return to registers: register, thread, value. -/
  | result (vals : List (Nat × Nat × Word))
  deriving DecidableEq, Repr

/-- A memory operation that has not finished: its number, the instruction that made it, that instruction's threads, and
those whose destination a later instruction has written since (R167); the block slot of its threads (R187). -/
structure MemOp where
  id : Nat
  ins : Nat
  bslot : Nat := 0
  thr : List Nat
  kind : MemKind
  lost : List Nat := []
  deriving DecidableEq, Repr

/-- The first cycles in which a core's four vector slots, its load/store unit, its array and its control port take
another instruction (R166, R168, R170, R311). -/
structure IssuePorts where
  vector : List Nat := [0, 0, 0, 0]
  memory : Nat := 0
  array : Nat := 0
  control : Nat := 0
  deriving DecidableEq, Repr

/-- Requests an L1 has outstanding at a slice (R312). -/
inductive MissKind where
  | rd (sect : BitVec 4)
  | own
  | ownFull
  deriving DecidableEq, Repr

/-- A request of a core that a slice has still to answer: the context whose launch made it, and its block slot. -/
structure Asker where
  ctx : Option Nat
  bslot : Nat
  deriving DecidableEq, Repr

structure Miss where
  line : Nat
  way : Nat
  kind : MissKind
  who : Asker
  deriving DecidableEq, Repr

/-- Why a strand does not issue. A yielding strand knows when it began and, for each other thread of its group, how
many instructions it still waits for (R181). -/
inductive StrandWait where
  | run
  | parked (id : Nat)
  | yielding (since : Nat) (need : List (Nat × Nat))
  deriving DecidableEq, Repr

/-- A mem.fence in force: its threads, its scope, and the number of the first operation after it (R336). -/
structure FenceRec where
  thr : List Nat
  module : Bool
  before : Nat
  deriving DecidableEq, Repr

/-- An array or sparsity instruction that was presented and could not issue, with its operands (R215, R285). -/
inductive ArrTry where
  | ldsh (slot fmt : Nat) (col rel : Bool)
  | mm (f : MmForm)
  | drain (bank dst ofmt : Nat) (mode : DrainMode)
  | ldw (slot : Nat)
  | est (pid slot rows : Nat) (add : Bool)
  | other
  deriving DecidableEq, Repr

/-- What a strand's next instruction found in its way when it was presented: nothing but that its engine was taken; a fence
(R336); a full queue, or lines without a way or a tracker (R169, R310); slots that a drain writes (R201); a conflict at the
scratch banks, or a marble run without room, up to a cycle (R194, R302); what an array instruction waits for; or the RNG in
hold (R70). -/
inductive HeldBy where
  | taken
  | fence
  | lsu (lines : List Nat)
  | region (slots : BitVec 14)
  | cause (c upTo : Nat)
  | array (t : ArrTry)
  | rng
  deriving DecidableEq, Repr

/-- What is known of a strand's next instruction once it was presented and could not issue: the engine of R183 that it
targets, the registers it reads, and what else it found. -/
structure Held where
  engine : Nat
  src : List Nat
  why : HeldBy
  deriving DecidableEq, Repr

/-- A strand (R172 to R181). After a branch its next instruction issues from cycle `ready` on (R168). -/
structure Strand where
  mask : BitVec 32
  pc : Nat
  wait : StrandWait := .run
  held : Option Held := none
  /-- One more than the cycle of its last issue; 0 before the first (R183). -/
  issued : Nat := 0
  ready : Nat := 0
  brAddr : Option Nat := none
  brCount : Nat := 0
  deriving DecidableEq, Repr

/-- An open split record (R173). -/
structure Split where
  threads : BitVec 32
  join : Nat
  deriving DecidableEq, Repr

/-- A resident group: its slot, its block slot and number in the block (R160, R171). -/
structure Group where
  gs : Nat
  bslot : Nat
  gi : Nat
  active : Bool
  strands : List Strand
  splits : List Split := []
  /-- One more than the cycle of its last issue; 0 before the first (R166). -/
  issued : Nat := 0
  /-- Cycle at which it became pending, and first cycle in which it may issue after a promotion (R171). -/
  waiting : Nat := 0
  promoted : Nat := 0
  deriving DecidableEq, Repr

/-- A resident block: arrivals per barrier and thread, and the parked threads with the completions they still need
(R176, R177). -/
structure Blk where
  slot : Nat
  no : Nat
  arrived : Tab Nat := []
  parked : List (Nat × Nat × Nat) := []
  deriving DecidableEq, Repr

/-- A loaded stationary set or the estimator tile: format, slot bytes, scale bytes (R203). -/
structure TileSet where
  fmt : Fmt
  tile : List Byte
  scales : List Byte
  deriving DecidableEq, Repr

/-- sp.filt modes (R285). -/
inductive FiltMode where
  | none | pred | makeup
  deriving DecidableEq, Repr

/-- Operands of arr.mm (R215), and the filter in force for it (R285, R289). -/
structure MmOp where
  col : Bool
  op : BitVec 3
  fmt : Fmt
  slot : Nat
  rows : Nat
  bank : Nat
  add : Bool
  sw : Bool
  pred : BitVec 2
  sparse : Bool
  rel : Bool
  pid : Nat := 0
  filt : FiltMode := .none
  deriving DecidableEq, Repr

/-- What an entry of the array queue does (R215, R285). arr.lds names its source by scratch address; arr.stat and sp.stat name
their destination register and threads, and arr.stat its value, which is read at issue (R224). -/
inductive ArrAct where
  | ready (mask : BitVec 14)
  | unready (mask : BitVec 14)
  | lds (slot src n : Nat)
  | ldsh (slot : Nat) (fmt : Fmt) (col rel : Bool)
  | mm (o : MmOp)
  | drain (bank dst : Nat) (ofmt : Fmt) (int32 : Bool) (mode : Nat)
  | filt (pid : Nat) (mode : FiltMode)
  | ldw (slot : Nat)
  | est (pid slot rows : Nat) (add : Bool)
  | chk (pid : Nat)
  | stat (d : Nat) (thr : List Nat) (v : Option Word)
  deriving DecidableEq, Repr

/-- An entry of the array queue: its number, the block slot it issued from, and the cycles of its issue and its start. -/
structure ArrEntry where
  id : Nat
  bslot : Nat
  act : ArrAct
  issued : Nat
  started : Option Nat := none
  /-- Cycle in which the action of a started entry takes effect, where no command of its own says so (R218, R285). -/
  fin : Option Nat := none
  /-- Rows a pass feeds, fixed at its start, and the saturations each of them gives; whether the row behind them breaks
  R276 (R281). -/
  fed : Nat := 0
  sats : List Nat := []
  broken : Bool := false
  /-- Bytes a drain has read, in the order in which it writes them (R214). -/
  vals : List Byte := []
  deriving DecidableEq, Repr

/-- What holds an accumulator bank (R213, R289). -/
structure BankHold where
  col : Bool
  op : BitVec 3
  int : Bool
  bad : Bool := false
  pid : Option Nat := none
  predPasses : Nat := 0
  makeupPasses : Nat := 0
  predRows : List Nat := []
  deriving DecidableEq, Repr

/-- An accumulator bank (R213): accumulators differing from the INIT value, by their index of R197. -/
structure Bank where
  hold : Option BankHold := none
  init : Word := 0
  acc : Tab Word := []
  deriving DecidableEq, Repr

/-- The matrix array of a core (R193 to R221). -/
structure ArrState where
  queue : List ArrEntry := []
  nextId : Nat := 0
  tr : BitVec 14 := 0
  sv : BitVec 14 := 0
  rs : BitVec 14 := 0
  /-- Scale companions: 2 KiB per slot (R199). -/
  comp : Tab Byte := []
  active : Option TileSet := none
  shadow : Option TileSet := none
  loading : Bool := false
  bank0 : Bank := {}
  bank1 : Bank := {}
  deriving DecidableEq, Repr

/-- A round of a predictor entry (R287 to R290). -/
structure Round where
  pid : Nat
  rows : Nat
  pred : List Nat
  ests : Nat
  checked : Bool := false
  makeup : List Nat := []
  deriving DecidableEq, Repr

/-- The sparsity unit of a core (R284 to R296). -/
structure SpState where
  /-- CNT, by 128 × PID + row. -/
  cnt : Tab Nat := []
  rounds : List Round := []
  /-- PID of the round in the estimator. -/
  open_ : Option Nat := none
  est : Tab Word := []
  bound : Tab Word := []
  estTile : Option TileSet := none
  filtPid : Nat := 0
  filt : FiltMode := .none
  misp : Nat := 0
  deriving DecidableEq, Repr

/-- A sample that Rattle has captured (R414): where it was taken, the stream row and the stationary elements as FP32
values (integers as INT32), whether one of them is not finite, and the sum. -/
structure Sample where
  frame : FrameNo
  fmt : Fmt
  ctx : Nat
  col : Bool
  row : Nat
  out : Nat
  xs : List Word
  ws : List Word
  nonfin : Bool
  sum : Word
  deriving DecidableEq, Repr

/-- A core (R158). -/
structure Core where
  /-- Sub-arrays of scratch n (R308). -/
  split : Nat := 1
  /-- Partition and SCRATCH_KEY of the last launch (R153). -/
  key : Option (Nat × Word) := none
  launch : Option Nat := none
  since : Nat := 0
  /-- Contexts for which the core clears itself (R155), and the cycle up to which it clears or changes its split for the
  launch it starts (R153, R309). -/
  clearFor : List Nat := []
  clearTo : Nat := 0
  /-- The cycle up to which it clears itself under R153. -/
  zeroTo : Nat := 0
  /-- Contexts that ran here since the core last cleared (R155). -/
  ran : List Nat := []
  /-- When its issue ports are free again, and one more than the cycle of its last promotion (R166, R171). -/
  ports : IssuePorts := {}
  promoted : Nat := 0
  blocks : List Blk := []
  groups : List Group := []
  regs : Tab Word := []
  preds : Tab (BitVec 8) := []
  /-- First cycle in which an instruction that reads a register or predicate may issue, by `depKey` (R168). -/
  usable : Tab Nat := []
  scratch : Tab Byte := []
  ops : List MemOp := []
  nextOp : Nat := 1
  fences : List FenceRec := []
  /-- JOINs sent and not yet acknowledged, by line, oldest first, with those for which they were sent (R315). -/
  joins : Tab (List Asker) := []
  miss : List Miss := []
  l1 : List L1Line := []
  /-- Engines that accepted an instruction since the last clock (R183). -/
  busy : BitVec 5 := 0
  arr : ArrState := {}
  sp : SpState := {}
  /-- One more than the tick count of the frame whose MISPREDICT has been raised (R293). -/
  mispTick : Nat := 0
  /-- Rattle's shift register; none while it holds what the seed gives (R413). -/
  lfsr : Option Word := none
  sample : Option Sample := none
  /-- The 16-cycle span of the last arr.mm issues, and their number (R517). -/
  mmSpan : Nat := 0
  mmCount : Nat := 0
  deriving DecidableEq, Repr

/-- Requests of the directory (R322). -/
inductive LReq where
  | rd (core : Nat) (sect : BitVec 4) (ctx : Option Nat)
  | own (core : Nat)
  | ownFull (core : Nat)
  | join (core : Nat) (t : DType)
  | wbd (core : Nat) (data : List Byte)
  | wbr (core : Nat) (t : DType) (mask : BitVec 4) (data : List Byte)
  | dead (core : Nat) (chk : Bool)
  | ard (agent : Agent) (sect : BitVec 4) (ctx : Option Nat)
  | awr (agent : Agent) (ctx : Option Nat) (bytes : List (Nat × Byte))
  | aadd (agent : Agent) (t : DType) (elems : List (Nat × Word))
  | vict
  | wb (inv : Bool)
  deriving DecidableEq, Repr

/-- Where an operation on a line stands (R325 to R328). -/
inductive OpPhase where
  /-- Snooped cores have still to answer. -/
  | snoop
  /-- HBM data has still to arrive; the RD and ARD requests that joined. -/
  | fill (joined : List LReq)
  /-- A conversion: waits for answers and for HBM. -/
  | conv
  /-- A RED line waits for a merge slot, or is MERGING. -/
  | mergeWait
  | merging (order : Nat)
  deriving DecidableEq, Repr

structure LOp where
  req : LReq
  phase : OpPhase
  wait : List Nat := []
  deriving DecidableEq, Repr

/-- STATE of a directory entry (R319, R321). -/
inductive LSt where
  | s | e | m | red | dead | merging
  deriving DecidableEq, Repr

/-- A line of a slice with its directory entry (R317, R319) and the requests queued behind BUSY (R323). -/
structure LLine where
  line : Nat
  way : Nat
  st : LSt
  ptr : Bool := false
  holders : Nat := 0
  dirty : Bool := false
  chk : Bool := false
  dt : DType := .fp32
  sect : BitVec 4 := 0
  data : List Byte := List.replicate 128 0
  op : Option LOp := none
  queue : List LReq := []
  used : Nat := 0
  /-- The request to be performed next has read HBM already, in its resolve (R340). -/
  resolved : Bool := false
  deriving DecidableEq, Repr

/-- An LLC slice (R317 to R339). -/
structure Slice where
  lines : List LLine := []
  /-- Requests that wait for a victim, oldest first: line and request (R329). -/
  waitq : List (Nat × LReq) := []
  /-- Lines in MERGING in the order they entered (R328). -/
  merges : List Nat := []
  clock : Nat := 0
  /-- Writes of agents that the full queue has not accepted yet (R323). -/
  late : List (Nat × LReq) := []
  /-- A write-back scan: base, length, INVAL, and the number of the entry to look at next (R339). -/
  wb : Option (Nat × Nat × Bool × Nat) := none
  lastDead : BitVec 64 := 0
  deadTick : Nat := 0
  deriving DecidableEq, Repr

/-- A message from a core to a slice (R322, R324). -/
inductive UpBody where
  | rd (sect : BitVec 4) (ctx : Option Nat)
  | own | ownFull
  | join (t : DType)
  | wbd (data : List Byte)
  | wbr (t : DType) (mask : BitVec 4) (data : List Byte)
  | dead (chk : Bool)
  | empty
  | answer (data : List Byte)
  | delta (t : DType) (mask : BitVec 4) (data : List Byte)
  | ack
  deriving DecidableEq, Repr

structure UpMsg where
  core : Nat
  line : Nat
  body : UpBody
  deriving DecidableEq, Repr

/-- A message from a slice to a core: a fill or grant, an acknowledgement, or a snoop (R316). -/
inductive DnBody where
  | fill (st : L1St) (sect : BitVec 4) (data : List Byte)
  | joinAck
  | share | inval | discard
  deriving DecidableEq, Repr

structure DnMsg where
  core : Nat
  line : Nat
  body : DnBody
  deriving DecidableEq, Repr

/-- An entry of a marble run (R297): its job (a work number), partition, address, type and value. -/
structure MEntry where
  job : Nat
  part : Nat
  addr : Nat
  t : DType
  v : Word
  deriving DecidableEq, Repr

/-- A marble run (R297 to R303). -/
structure Marble where
  fill : List MEntry := []
  first : Nat := 0
  /-- Closed windows, oldest first, with the cycle in which each closed. -/
  closed : List (Nat × List MEntry) := []
  /-- The span of 64 MCLK cycles in progress, and the input and emission slots each partition has had in it (R302). -/
  span : Nat := 0
  used : Tab Nat := []
  sent : Tab Nat := []
  /-- By partition: one more than the span in which entries of its last waited, and the slots that those have had. -/
  waits : Tab Nat := []
  taken : Tab Nat := []
  deriving DecidableEq, Repr

/-- A request in a narrow path: a line's sectors to read or write, and whether a merge asks (R347, R348). -/
structure NReq where
  line : Nat
  sect : BitVec 4
  write : Bool
  merge : Bool
  since : Nat
  issued : Bool := false
  deriving DecidableEq, Repr

/-- Stacks and controllers (R343 to R353). -/
structure HbmState where
  /-- Symbols in error among the 18 of a sector's stored bits, by address div 32 (R350); of a sector of the slow tier, what
  its package or its link will report (R371). -/
  upset : Tab (BitVec 18) := []
  nreq : List NReq := []
  /-- Open page (row + 1) by stack, pseudo-channel, stack ID and bank. -/
  openPage : Tab Nat := []
  /-- Tick ordinal + 1 and corrections counted in it, by stack, and from 16 on by package of the slow tier (R351, R371). -/
  corrTick : Tab Nat := []
  corrNow : Tab Nat := []
  lastUncorr : Tab Nat := []
  scrubPos : Tab Nat := []
  scrubPasses : Tab Nat := []
  refreshes : Tab Nat := []
  temp : Tab Nat := []
  deriving DecidableEq, Repr

/-- What a DMA command does, with its parameter record read (R359 to R364). -/
inductive DmaOp where
  | copy | fill
  | gather (index count rowBytes stride : Nat) (scatter : Bool)
  | store (dfmt sfmt : Fmt) (cmp col : Bool) (rowElems scale map amax : Nat)
  | amax (sfmt : Fmt) (rowElems amax : Nat)
  | transpose (rows cols size srcPitch dstPitch : Nat)
  deriving DecidableEq, Repr

/-- A piece in flight: its number, its engine, and what the engine has read for it so far, by address (R356). -/
structure DmaPiece where
  n : Nat
  engine : Nat
  cache : List (Nat × List Byte) := []
  deriving DecidableEq, Repr

/-- A converted element of an output: where its bytes end there, whether it is present, and what it counts (R400). -/
structure CastElem where
  fin : Nat
  nz : Bool
  counts : Counts
  deriving DecidableEq, Repr

/-- Output bytes of a block that a piece has cast and the next piece writes, with the elements that end in them (R356, R363,
R400). -/
structure DmaCarry where
  bytes : List Byte
  elems : List CastElem
  deriving DecidableEq, Repr

/-- A DMA command under way (R355, R356). `next` is the piece to be written next, `taken` the next one that an engine
takes. While an engine reads ahead, `probe` is set and `cache` takes what it reads. -/
structure DmaJob where
  op : DmaOp
  len : Nat
  src : Nat
  dst : Nat
  slot : Option (Nat × Nat)
  watch : Nat
  phys : Bool
  next : Nat := 0
  taken : Nat := 0
  flight : List DmaPiece := []
  probe : Bool := false
  cache : List (Nat × List Byte) := []
  carry : Option DmaCarry := none
  /-- Dies of pieces whose first index was read from host memory (R356). -/
  dies : Tab (Option Nat) := []
  /-- Slots written to in the launch numbered `run`, whose TR is set after the last write (R361). -/
  touched : List Nat := []
  run : Nat := 0
  deriving DecidableEq, Repr

/-- Where a Narog job stands (R389): `ended` has a RESULT and waits for its report. -/
inductive NarogPhase where
  | waiting | writing | flipping
  | ended (result : Nat)
  deriving DecidableEq, Repr

/-- An UPDATE or CAST (R385, R389), with the scalars of R378. -/
structure NarogJob where
  cast : Bool
  sg : Nat
  tlist : Nat
  tcount : Nat
  clip : Nat
  normSq : Word
  phase : NarogPhase := .waiting
  tensor : Nat := 0
  wroteWc : Bool := false
  nonfin : Bool := false
  t : Nat := 0
  p1 : Word := 0
  p2 : Word := 0
  deriving DecidableEq, Repr

/-- The opcodes of R447. -/
inductive CollOp where
  | reduceScatter | allGather | allReduce | put
  deriving DecidableEq, Repr

/-- One ring of an operation (R449, R451): its word, whether READY came from NEXT, its flow, and the DATA flits it has
consumed in each phase. -/
structure CollRing where
  p : Nat
  rank : Nat
  next : BitVec 15
  prev : BitVec 15
  ready : Bool := false
  flow : Nat
  reduced : Nat := 0
  gathered : Nat := 0
  deriving DecidableEq, Repr

/-- A collective command (R447 to R457). -/
structure CollJob where
  op : CollOp
  count : Nat
  src : Nat
  dst : Nat
  ringVa : Nat
  id : Nat
  sfmt : Fmt
  dfmt : Fmt
  norm : Bool
  rings : Nat
  started : Bool := false
  list : List CollRing := []
  /-- Parent in the norm tree, none at the root, and children (R449). -/
  parent : Option (BitVec 15) := none
  children : List (BitVec 15) := []
  /-- Squares written so far as a multiple of 2^-298, and whether a NaN or an infinity was among them (R410). -/
  sq : Nat := 0
  sqNan : Bool := false
  sqInf : Bool := false
  /-- The children's accumulators added up, with their flags, and the children heard (R457). -/
  acc : Nat := 0
  accNan : Bool := false
  accInf : Bool := false
  heard : List (BitVec 15) := []
  upSent : Bool := false
  /-- N, once formed (R457). -/
  formed : Option Word := none
  /-- All chunks of an ALL_REDUCE are reduced here, and its gather has begun. -/
  gathering : Bool := false
  deriving DecidableEq, Repr

/-- What a piece of admitted work is. -/
inductive Job where
  | launch (l : Launch)
  | sort (j : SortJob)
  | dma (j : DmaJob)
  | narog (j : NarogJob)
  | coll (j : CollJob)
  deriving DecidableEq, Repr

/-- Admitted work that has not ended (R95), in order of admission. -/
structure Work where
  id : Nat
  /-- Context, or none for a command of the management core (R345). -/
  ctx : Option Nat
  part : Nat
  frame : FrameNo
  /-- Ring slot of its completion record (R146). -/
  slot : Nat
  irqEnd : Bool
  running : Bool := false
  units : Nat := 0
  job : Job
  deriving DecidableEq, Repr

/-- States of a port (R423). -/
inductive PortSt where
  | off | training | up | dead
  deriving DecidableEq, Repr

/-- A flit but for its link sequence number and trailer (R425, R426). -/
structure Flit where
  vc : Nat
  dl : Bool := false
  det : Bool := false
  kind : Nat
  dest : BitVec 15
  src : BitVec 15
  flow : Nat := 0
  ddim : Nat := 0
  payload : List Byte
  deriving DecidableEq, Repr

/-- A flit in a queue of an output port, with the receive queue that it still occupies: input port and queue (R429). -/
structure Queued where
  flit : Flit
  at_ : Option (Nat × Nat) := none
  deriving DecidableEq, Repr

/-- An Urbenlink port (R422 to R443). -/
structure Port where
  st : PortSt := .off
  /-- Delay of the link in ns, measured when it trained (R424). -/
  delay : Nat := 0
  peer : BitVec 15 := 0
  /-- Cycle in which training began. -/
  since : Nat := 0
  /-- Markers that wait (R108). -/
  markers : List Marker := []
  /-- Flits that wait, by receive queue at the neighbour (R429), oldest first. -/
  queues : Tab (List Queued) := []
  /-- Credits in use, by queue. -/
  used : Tab Nat := []
  /-- Next SEQ; unacknowledged flits with their SEQ and the cycle in which each was first sent; SEQs due for replay; the
  SEQ and cycle of the last replay's start (R431). -/
  seq : Nat := 0
  unacked : List (Nat × Flit × Nat) := []
  replay : List Nat := []
  lastReplay : Option (Nat × Nat) := none
  /-- Receiver: next SEQ expected, whether NAK is raised, slots freed and not yet returned (R427, R432). -/
  expect : Nat := 0
  nak : Bool := false
  freed : Tab Nat := []
  /-- The holding queue (R439). -/
  held : List Queued := []
  /-- Cycle of the last flit with a good CRC. -/
  lastGood : Nat := 0
  /-- Slots since VC3 had one, turns left of VC1 and VC2 in the round robin, and the class each VC sent last (R430). -/
  idle3 : Nat := 0
  turns : Nat × Nat := (0, 0)
  lastDl : Tab Bool := []
  /-- One more than the tick count at which ROUTE_UNREACHABLE was last raised (R442). -/
  unreach : Nat := 0
  /-- Lanes whose receiver is locked (R460). -/
  lock : BitVec 8 := 0
  deriving DecidableEq, Repr

/-- One flit that a source has still to send or to see consumed: its payload, and, when its data is read from memory at
each sending (R446), the address, the bytes and the format they are widened from. -/
structure TxItem where
  payload : List Byte
  again : Option (Nat × Nat × Option Fmt) := none
  deriving DecidableEq, Repr

/-- A flow at its source (R444 to R446): number, destination, VC, KIND, its work or stream, the flits not yet covered by
BASE from FSEQ `base` on, how many of them have been sent, and the cycle of the last advance. `ready`: READY came from
NEXT (R454). `frame`: FRAME_LO of frame work, 65,536 for Kite. -/
structure TxFlow where
  num : Nat
  dest : BitVec 15
  vc : Nat
  kind : Nat
  work : Option Nat := none
  ctx : Nat := 0
  frame : Nat := 65536
  ready : Bool := true
  base : Nat := 0
  items : List TxItem := []
  sent : Nat := 0
  since : Nat := 0
  deriving DecidableEq, Repr

/-- A flow at its destination: BASE, the values above it already consumed, the BASE sent last, and the cycle of the first
advance since. For a Kite flow, the stream bytes received in order and not yet taken. -/
structure RxFlow where
  src : BitVec 15
  num : Nat
  vc : Nat := 1
  base : Nat := 0
  marks : List Nat := []
  acked : Nat := 0
  moved : Option Nat := none
  /-- FRAME_LO and COLL_ID of its flits (R453). -/
  frame : Nat := 0
  id : Nat := 0
  ahead : List (Nat × List Byte) := []
  bytes : List Byte := []
  part : Nat := 0
  /-- It carries a PUT, whose flits name no COLL_ID (R453, R456). -/
  put : Bool := false
  /-- Flits of a PUT whose zeros at the end are not written yet: FSEQ, offset in the window, bytes written (R456; log 34). -/
  tails : List (Nat × Nat × Nat) := []
  /-- Its stream began with an OPEN, so that only a SEAL or an ABORT ends it (R466, R471). -/
  opened : Bool := false
  deriving DecidableEq, Repr

/-- The collective engine and the flows of the node (R444 to R458). -/
structure CollState where
  nextFlow : Nat := 0
  tx : List TxFlow := []
  rx : List RxFlow := []
  /-- Flits delivered to this node that their consumer has not taken yet (R438), and READYs held (R454). -/
  inbox : List Flit := []
  readies : List Flit := []
  /-- Flows of collectives that are over, whose numbers no later flow has taken: number, destination, FRAME_LO (R458). -/
  gone : List (Nat × BitVec 15 × Nat) := []
  deriving DecidableEq, Repr

/-- A tensor of a Kite table (R464). -/
structure KTensor where
  state : Nat
  wc : Nat
  scale : Nat
  rows : Nat
  elems : Nat
  wcFmt : Fmt
  mom16 : Bool
  deriving DecidableEq, Repr

/-- The RNG state a commit carries (R481). -/
structure RngSnap where
  seed : BitVec 64 := 0
  mode : Bool := false
  cursor : BitVec 64 := 0
  pos : List (BitVec 64) := [0, 0, 0, 0]
  rate : List Word := [0, 0, 0, 0]
  deriving DecidableEq, Repr

/-- An open checkpoint (R466): its commit, its stream, the rows the UPDATE wrote, and whether its flip was accepted. -/
structure Ckpt where
  commit : Nat
  stream : Nat
  base : Option Nat
  rows : List (Nat × Nat) := []
  count : Nat := 0
  flipped : Bool := false
  /-- The commit header and the cycle of the flip, and how many rows the sweep has looked at (R466). -/
  header : List Byte := []
  flippedAt : Nat := 0
  swept : Nat := 0
  /-- D, once the sweep has read its last row (R466, R476). -/
  digest : Option (List Byte) := none
  deriving DecidableEq, Repr

/-- A sealed commit that is not DURABLE (R469): the cycle of its SEAL and of its flip, and the acknowledgements. -/
structure SealWait where
  commit : Nat
  sealedAt : Nat
  flippedAt : Nat
  ack : Bool := false
  buddy : Bool := false
  late : Bool := false
  deriving DecidableEq, Repr

/-- An open feed (R489, R490): its commit, its rows so far, whether it is being discarded, the stream it is sent in, and
the addresses of the tags it has written. -/
structure Feed where
  commit : Nat
  count : Nat := 0
  drop : Bool := false
  stream : Option Nat := none
  tags : List Nat := []
  deriving DecidableEq, Repr

/-- A shard group as Kite holds it (R464 to R475). -/
structure KGroup where
  shard : Nat := 0
  addr : Nat := 0
  table : List KTensor := []
  base : Option Nat := none
  sealed_ : Nat := 0
  durable : Nat := 0
  digest : List Byte := List.replicate 32 0
  ckpt : Option Ckpt := none
  waits : List SealWait := []
  /-- Costs of the last 16 sealed checkpoints and cycles of the last 17 flips; when CADENCE was last written 1; whether a
  commit was sealed since; FAIL_NOTE writes since; and I (R475). -/
  costs : List Nat := []
  flips : List Nat := []
  cadence : Nat := 0
  sealedSince : Bool := false
  fails : Nat := 0
  interval : Nat := 1
  feed : Option Feed := none
  deriving DecidableEq, Repr

/-- A stream in the staging ring (R473): destination, bytes formed and how many of them are released, whether it is
complete, and its flow. -/
structure KStream where
  id : Nat
  sg : Nat
  host : Bool
  dest : BitVec 15
  bytes : List Byte := []
  released : Nat := 0
  complete : Bool := false
  flow : Option Nat := none
  /-- Bytes of it that the host ring has taken, and, for each record taken and not released, its end in the stream and
  PRODUCED after it (R472, R473). -/
  written : Nat := 0
  ends : List (Nat × Nat) := []
  deriving DecidableEq, Repr

/-- A restore (R482 to R486): STATE and RESULT as RESTORE_STAT shows them. -/
structure Restore where
  state : Nat := 0
  result : Nat := 0
  sg : Nat := 0
  commit : Nat := 0
  host : Bool := false
  /-- Its work has begun; one written in hold begins once hold ends (R70; log 169). -/
  begun : Bool := false
  /-- SG of its stream, from the OPEN on, where the host's feeds share the byte sequence (R474, R492). -/
  num : Option Nat := none
  header : List Byte := []
  digest : List Byte := []
  peer : BitVec 15 := 0
  v : List Byte := []
  deriving DecidableEq, Repr

/-- A partition's KITE and RNG instances (R463). -/
structure KPart where
  stage : Nat × Nat := (0, 0)
  ring : Nat × Nat := (0, 0)
  ringEn : Bool := false
  pasid : Nat := 0
  produced : Nat := 0
  consumed : Nat := 0
  /-- Bytes reported by HOST_FEED or FEED, and bytes processed (R489, R492). -/
  fed : Nat := 0
  taken : Nat := 0
  streams : List KStream := []
  /-- A record that the host ring has taken in part: its stream, and its bytes still to be written (R472). -/
  mid : Option (Nat × Nat) := none
  restore : Restore := {}
  expect : List Byte := List.replicate 32 0
  seed : BitVec 64 := 0
  cursor : BitVec 64 := 0
  pos : List (BitVec 64) := [0, 0, 0, 0]
  snap : RngSnap := {}
  deriving DecidableEq, Repr

/-- A key of the buddy table: sender, partition, shard; its entries, oldest first (R478). -/
structure BuddyKey where
  node : BitVec 15
  part : Nat
  shard : Nat
  held : List (Nat × List Byte)
  deriving DecidableEq, Repr


/-- Counts of one cast on their way to a watch entry (R400, R401): the entry's physical number, the format code, the
five counts in the order CAST, NZ, FLUSH, SAT, NAN, and the frame. -/
structure Report where
  entry : Nat
  fmt : Nat
  counts : List Nat
  frame : FrameNo
  deriving DecidableEq, Repr

/-- A crossing whose sending PLL is out of lock (R513): its domains and instance, the cycle in which the PLL was found so,
and whether the attempt to relock it is over. -/
structure PllDown where
  send : Nat
  recv : Nat
  inst : Nat
  since : Nat
  tried : Bool := false
  deriving DecidableEq, Repr

/-- Supply, boot, reset and temperatures (R498 to R520). -/
structure PowerState where
  /-- The standby rail is up and the management core runs (R504). -/
  standby : Bool := false
  pwrEn : Bool := false
  /-- The main rails are up and PWR_GOOD is asserted. -/
  rails : Bool := false
  /-- PERST# is asserted. -/
  perst : Bool := true
  /-- THERM_TRIP# is asserted; the heat of a trip still holds the module in reset (R518). -/
  trip : Bool := false
  hot : Bool := false
  /-- A reset that the MODULE_RESET item started is not released yet (R510). -/
  itemReset : Bool := false
  /-- SUPPLY_LOW is live (R501). -/
  low : Bool := false
  /-- CLKRST.BOOT.PHASE (R505), and CLKRST.LAST_RESET.KIND (R520). -/
  phase : Nat := 0
  kind : Nat := 0
  /-- Cycle of the last release from reset, and the time from it to READY in µs. -/
  released : Nat := 0
  bootTime : Nat := 0
  /-- Cores marked by the last self-test, and its counts (R507, R520). -/
  coreFail : List Nat := []
  colOff : Nat := 0
  arrayOff : Nat := 0
  /-- Levels of the pins SLOT_ID[4:0], which are pulled up (R498). -/
  slotId : BitVec 5 := 31
  /-- Readings (R516): compute-die and input power of the last window and the input's average over 1 ms, in W; the
  memory-side dies, the I/O die and Narog in °C. -/
  computeW : Nat := 0
  windowW : Nat := 0
  avgW : Nat := 0
  memDies : List (BitVec 8) := []
  ioDie : Nat := 0
  narogC : Nat := 0
  /-- Readings (R519): input power in W, VIN in 0.1 V, hottest junction and stack, and coolant inlet in °C. -/
  inputW : Nat := 0
  vinDv : Nat := 0
  junction : Nat := 0
  hbmC : Nat := 0
  coolant : Nat := 0
  /-- Windows in a row without a limit, below ten (R517). -/
  quiet : Nat := 0
  /-- Thresholds of THERM_WARN that are crossed now: junction, inlet (R518). -/
  warm : Bool × Bool := (false, false)
  /-- Crossings whose sending PLL is out of lock (R513). -/
  unlocked : List PllDown := []
  /-- Open handshakes that wait on a stopped clock: sending and receiving domain, instance (R513). -/
  stalls : List (Nat × Nat × Nat) := []
  deriving DecidableEq, Repr

/-- A GET_MEASUREMENTS that waits for its signature (R534): how it came, the request, GENERATION and the blocks. -/
structure SignReq where
  via : Via
  request : List Byte
  gen : Nat
  blocks : List Byte
  deriving DecidableEq, Repr

/-- A copy of the reservation record in the flash (R529): RESERVED and the CRC-32 beside it. -/
structure ResvCopy where
  reserved : Nat
  crc : Word
  deriving DecidableEq, Repr

/-- A copy as the engine writes it: the CRC-32 is that of the eight bytes of RESERVED. -/
def ResvCopy.of (n : Nat) : ResvCopy := { reserved := n, crc := crc32 (leBytes 8 n) }

/-- The management core's firmware and flash, the security engine, and the measurements (R522 to R537). -/
structure SecState where
  /-- Image slots A and B, and whether each holds a valid image. -/
  slotA : List Byte := []
  slotB : List Byte := []
  validA : Bool := false
  validB : Bool := false
  /-- The slot that runs (true: B), the image that runs, and recovery (R526). -/
  slotRun : Option Bool := none
  image : List Byte := []
  recovery : Bool := false
  /-- FUSE_SVN (R525). -/
  fuseSvn : Nat := 0
  /-- The two copies of the reservation record, and whether the second is the one loaded (R529). -/
  copy0 : ResvCopy := ResvCopy.of 0
  copy1 : ResvCopy := ResvCopy.of 0
  loaded : Bool := false
  next : Nat := 0
  /-- The level-1 tree built last, by its level-0 leaf (R530). -/
  tree : Nat := 0
  lowRaised : Bool := false
  exhaustedRaised : Bool := false
  /-- FW_LOAD under way: the staged image, and whether it passed the check and is being written (R527). -/
  loading : Option (List Byte × Bool) := none
  generation : Nat := 0
  /-- Measurements of partitions, where they differ from those after a power-on reset, and partitions touched since they
  were last recomputed (R531, R532). -/
  meas : Tab (List Byte) := []
  touched : List Nat := []
  /-- Requests accepted and not yet answered, oldest first (R534). -/
  queue : List SignReq := []
  /-- Endpoint ID of the MCTP endpoint (R533). -/
  eid : Byte := 0
  /-- Trips recorded in the event log of the management flash (R518): the cycle of each. -/
  trips : List Nat := []
  deriving DecidableEq, Repr

/-- A core that a fault has stopped, in the cycle of the fault: its number, the cycle, the work it ran, and the core as it
was (R188). -/
structure Fallen where
  core : Nat
  cycle : Nat
  work : Work
  was : Core
  deriving DecidableEq, Repr

/-- The block (R1): every register, buffer, counter and mode the manual gives it. -/
structure State where
  /-- Which of the three variants this module is (R4). -/
  variant : Variant := .l7160
  /-- ACLK cycles since power-on. -/
  now : Nat := 0
  /-- Reads of free values made so far: the model's own field, not the manual's. -/
  free : Nat := 0
  fr : FrameState := {}
  regs : RegState := {}
  pci : PciState := {}
  parts : Tab Part := []
  ctxs : Tab Ctx := []
  works : List Work := []
  nextWork : Nat := 1
  cores : Tab Core := []
  /-- Cores that a fault has stopped in this cycle, whose own faults of the cycle are latched too (R188). -/
  fallen : List Fallen := []
  slices : Tab Slice := []
  up : List UpMsg := []
  dn : List DnMsg := []
  marbles : Tab Marble := []
  /-- Device memory, HBM and slow tier, by byte address (R36). An unlisted byte reads 0. -/
  mem : List Host.Cell := []
  hbm : HbmState := {}
  /-- Cast counts that have not reached their entry yet (R401). -/
  reports : List Report := []
  ports : Tab Port := []
  coll : CollState := {}
  /-- Tensor watch entries (R399). -/
  watch : Tab WEntry := []
  /-- Shard groups, by physical number (R373, R464), and the partitions' Kite and RNG state. -/
  sgs : Tab Sg := []
  kgroups : Tab KGroup := []
  kparts : Tab KPart := []
  nextStream : Nat := 1
  buddies : List BuddyKey := []
  /-- Addresses of the packages' most recent uncorrectable errors (R397). -/
  slowUncorr : Tab Nat := []
  /-- Admission level of the governor (R517). -/
  govLevel : Nat := 16
  /-- The module is READY (R505). -/
  ready : Bool := false
  power : PowerState := {}
  sec : SecState := {}
  /-- One more than the pieces that an engine of the DMA has served a partition, while that has pieces waiting for the
  engine's die; a partition that begins to wait starts level with the others (R302, R357). -/
  served : Tab Nat := []
  lastHole : Tab Nat := []
  /-- Words of the most recent disagreeing sample (R420). -/
  lastDisagree : List Word := List.replicate 8 0
  /-- What has left the module, newest first. -/
  out : List Out := []
  /-- Commands that wait, first in, first out. -/
  pending : List Instr := []
  deriving DecidableEq, Repr

/-- What exec answers. -/
abbrev Res := Host.Outcome State Fault Refusal

/-- The module after a power-on reset (R504): every field at its reset value. -/
def State.reset : State := {}

end Sys2Proof.Machine
end

