-- ==== Sys2Proof/Machine/Tab.lean ====
section
/-! DEFINITION. Tables with a default, the one form in which memory and every sparse register file is kept. -/

namespace Sys2Proof

/-- The value at `k`; `d` where the table lists none. -/
def Tab.get {α : Type} (d : α) : Tab α → Nat → α
  | [], _ => d
  | (i, v) :: t, k => if i = k then v else Tab.get d t k

/-- Enter `v` at `k`, keeping the keys rising. -/
def Tab.put {α : Type} (k : Nat) (v : α) : Tab α → Tab α
  | [] => [(k, v)]
  | (i, w) :: t =>
    if k = i then (k, v) :: t
    else if k < i then (k, v) :: (i, w) :: t
    else (i, w) :: Tab.put k v t

/-- Remove the entry at `k`. -/
def Tab.del {α : Type} (k : Nat) : Tab α → Tab α
  | [] => []
  | (i, w) :: t => if i = k then Tab.del k t else (i, w) :: Tab.del k t

/-- Write `v` at `k`; writing the default removes the entry. -/
def Tab.set {α : Type} [DecidableEq α] (d : α) (t : Tab α) (k : Nat) (v : α) : Tab α :=
  if v = d then Tab.del k t else Tab.put k v t

/-- The canonical form: keys strictly rising, no entry equal to the default. -/
def Tab.wf {α : Type} [DecidableEq α] (d : α) (t : Tab α) : Bool :=
  (t.map Prod.fst).Pairwise (· < ·) && t.all (fun p => p.2 != d)

end Sys2Proof
end

