-- ==== Sys2Proof/Machine/Operands.lean ====
section
/-! DEFINITION. The register map: blocks, keys, the configuration registers with their reset values and writable
bits, the status registers with their SQ bits, and how a window resolves an instance (R41 to R56). -/

namespace Sys2Proof.Machine

/-- Number of a block in the model's keys. -/
def Block.idx : Block → Nat
  | .module => 0 | .puppeteer => 1 | .strings => 2 | .ctxtab => 3 | .coll => 4 | .kite => 5 | .ulink => 6
  | .ulane => 7 | .pcie => 8 | .sec => 9 | .mgmt => 10 | .clkrst => 11 | .power => 12 | .core => 13 | .array => 14
  | .sparse => 15 | .stall => 16 | .llc => 17 | .dir => 18 | .hbm => 19 | .narrow => 20 | .dma => 21
  | .marble => 22 | .narog => 23 | .slowtier => 24 | .watch => 25 | .rattle => 26 | .rng => 27 | .narogSg => 28

/-- BLOCK code (R46); the shard-group page is NAROG's. -/
def Block.code : Block → Nat
  | .module => 0x01 | .puppeteer => 0x10 | .strings => 0x11 | .ctxtab => 0x12 | .coll => 0x13 | .kite => 0x14
  | .ulink => 0x20 | .ulane => 0x21 | .pcie => 0x22 | .sec => 0x30 | .mgmt => 0x31 | .clkrst => 0x32
  | .power => 0x33 | .core => 0x40 | .array => 0x41 | .sparse => 0x42 | .stall => 0x43 | .llc => 0x50 | .dir => 0x51
  | .hbm => 0x52 | .narrow => 0x53 | .dma => 0x54 | .marble => 0x55 | .narog => 0x60 | .slowtier => 0x61
  | .watch => 0x70 | .rattle => 0x71 | .rng => 0x72 | .narogSg => 0x60

/-- Key of a register of an instance. -/
def regKey (b : Block) (inst off : Nat) : Nat := (Block.idx b * 65536 + inst) * 4096 + off

/-- Key of an event source: an instance, or the scrubber of a page as instance 65535 (R79). -/
def srcKey (b : Block) (inst : Nat) : Nat := Block.idx b * 65536 + inst

def scrubber : Nat := 65535

def Window.idx : Window → Nat
  | .glob => 0
  | .part p => 1 + p.val

/-- Key of a requester's copies on a page (R51). -/
def copyKey (r : Req) (w : Window) (b : Block) : Nat := (r.val * 33 + Window.idx w) * 32 + Block.idx b

/-- Stacks fitted (R4, R38). -/
def stackFitted (v : Variant) (n : Nat) : Bool :=
  match v with
  | .l7120 => n < 12 && n % 3 != 2
  | .l7160 => n < 12
  | .l7140 => n < 12

/-- Ports fitted (R9). -/
def portFitted (v : Variant) (n : Nat) : Bool :=
  match v with
  | .l7120 => n < 4
  | .l7160 => n < 6
  | .l7140 => n < 6

/-- Slow-tier GiB (R8). -/
def slowGib : Variant → Nat
  | .l7160 => 1024
  | .l7140 => 512
  | .l7120 => 0

def narogPresent : Variant → Bool
  | .l7160 => true
  | .l7140 => true
  | .l7120 => false

/-- Instances of a block in the global window (R46, R47). -/
def globCount (v : Variant) : Block → Nat
  | .puppeteer => 32 | .ctxtab => 3072 | .ulink => 6 | .ulane => 48 | .core => 384 | .array => 384 | .sparse => 384
  | .stall => 384 | .llc => 4 | .dir => 4 | .hbm => 12 | .narrow => 4 | .dma => 32 | .marble => 4
  | .narog => if narogPresent v then 1 else 0
  | .slowtier => if narogPresent v then 16 else 0
  | .watch => 8192
  | .narogSg => if narogPresent v then 256 else 0
  | .module => 1 | .strings => 1 | .coll => 1 | .kite => 1 | .pcie => 1 | .sec => 1 | .mgmt => 1 | .clkrst => 1
  | .power => 1 | .rattle => 1 | .rng => 1

/-- A physical instance whose part is fitted (R47). Which eight of the sixteen slow-tier packages the 512 GiB of the
MTA-7140-L are, the spec does not say: packages 0 to 7, DESIGN CHOICE (log 128). -/
def instFitted (v : Variant) (b : Block) (i : Nat) : Bool :=
  match b with
  | .hbm => stackFitted v i
  | .ulink => portFitted v i
  | .ulane => portFitted v (i / 8)
  | .slowtier => i < slowGib v / 64
  | .kite => i < 32
  | .rng => i < 32
  | .narogSg => i < globCount v .narogSg
  | .module => true | .puppeteer => true | .strings => true | .ctxtab => true | .coll => true | .pcie => true
  | .sec => true | .mgmt => true | .clkrst => true | .power => true | .core => true | .array => true
  | .sparse => true | .stall => true | .llc => true | .dir => true | .narrow => true | .dma => true
  | .marble => true | .narog => narogPresent v | .watch => true | .rattle => true

/-- Pages that exist in a window (R46, R49). -/
def pageExists (w : Window) (b : Block) : Bool :=
  match w with
  | .glob => b != .narogSg
  | .part _ =>
    match b with
    | .module => true | .puppeteer => true | .ctxtab => true | .watch => true | .kite => true | .narogSg => true
    | .rng => true
    | .strings => false | .coll => false | .ulink => false | .ulane => false | .pcie => false | .sec => false
    | .mgmt => false | .clkrst => false | .power => false | .core => false | .array => false | .sparse => false
    | .stall => false | .llc => false | .dir => false | .hbm => false | .narrow => false | .dma => false
    | .marble => false | .narog => false | .slowtier => false | .rattle => false

/-- The pages of the global window by page number, BAR0 offset div 4,096 (R46). -/
def globPages : List (Nat × Block) :=
  [(0x00, .module), (0x01, .puppeteer), (0x02, .strings), (0x03, .ctxtab), (0x04, .coll), (0x05, .kite), (0x06, .ulink),
    (0x07, .ulane), (0x08, .pcie), (0x09, .sec), (0x0A, .mgmt), (0x0B, .clkrst), (0x0C, .power)] ++
  [(0x10, .core), (0x11, .array), (0x12, .sparse), (0x13, .stall), (0x20, .llc), (0x21, .dir), (0x22, .hbm),
    (0x23, .narrow), (0x24, .dma), (0x25, .marble)] ++
  [(0x30, .narog), (0x31, .slowtier), (0x32, .watch), (0x33, .rattle), (0x34, .rng)]

/-- The pages of a partition window by page number (R49). -/
def partPages : List (Nat × Block) :=
  [(0, .module), (1, .puppeteer), (2, .ctxtab), (3, .watch), (4, .kite), (5, .narogSg), (6, .rng)]

def pageIn (l : List (Nat × Block)) (o : Nat) : Option Block := (l.find? (·.1 = o / 4096)).map (·.2)

/-- The window that a BAR0 offset of a requester lies in, and the offset within it; none where the range is reserved
(R46, R48, R50, R122). -/
def windowAt (r : Req) (o : Nat) : Option (Window × Nat) :=
  if r.val = 0 || r.val = 32 then
    if o < 0x100000 then some (.glob, o)
    else if o < 0x2100000 then some (.part ⟨(o / 0x100000 - 1) % 32, Nat.mod_lt _ (by decide)⟩, o % 0x100000)
    else none
  else if o < 0x100000 then some (.part ⟨r.val % 32, Nat.mod_lt _ (by decide)⟩, o)
  else none

/-- The register that an address names (R46, R48, R49); none for a reserved one. -/
def BarAcc.acc (x : BarAcc) : Option Acc :=
  match x.addr with
  | .bar2 _ => none
  | .bar0 o =>
    (windowAt x.req o.toNat).bind (fun wo =>
      (pageIn (match wo.1 with | .glob => globPages | .part _ => partPages) wo.2).map (fun b =>
        { req := x.req, win := wo.1, blk := b, off := BitVec.ofNat 12 (wo.2 % 4096) }))

/-- The register behind the one that an address lies in, where a 64-bit access has its upper half; none beyond the end of
the BAR (R42). -/
def BarAcc.high (x : BarAcc) : Option BarAcc :=
  match x.addr with
  | .bar0 o =>
    if o.toNat / 4 * 4 + 4 < 2 ^ 26 then some { x with addr := .bar0 (BitVec.ofNat 26 (o.toNat / 4 * 4 + 4)) } else none
  | .bar2 o =>
    if o.toNat / 4 * 4 + 4 < 2 ^ 24 then some { x with addr := .bar2 (BitVec.ofNat 24 (o.toNat / 4 * 4 + 4)) } else none

/-- Block whose page an address lies in; MODULE where it lies in none. -/
def BarAcc.page (x : BarAcc) : Block := ((BarAcc.acc x).map (·.blk)).getD .module

/-- Byte of an address within its 4-byte register. -/
def BarAcc.byte (x : BarAcc) : Nat :=
  match x.addr with
  | .bar0 o => o.toNat % 4
  | .bar2 o => o.toNat % 4

/-- A virtual function reaches its own partition window and nothing else (R48); the physical function and the
management core reach every window (R48, R50). -/
def reaches (r : Req) (w : Window) : Bool :=
  r.val = 0 || r.val = 32 || (match w with | .glob => false | .part p => p.val = r.val)

/-- A page a requester can name. -/
def pageOk (r : Req) (w : Window) (b : Block) : Bool := reaches r w && pageExists w b

/-- The identity page of a partition window is a read-only copy (R5, R49): no write through it has an effect, its own
CHSEL, mailbox and SNAP_CTL included: DEDUCED (log 127). -/
def readOnlyPage (w : Window) (b : Block) : Bool :=
  match w with
  | .glob => false
  | .part _ => b = .module

/-- A page through which a requester can write. -/
def pageTakes (r : Req) (w : Window) (b : Block) : Bool := pageOk r w b && !(readOnlyPage w b)

/-- Reset value and writable bits of a configuration register; none where the offset is reserved. -/
def cfgSpec (b : Block) (off : Nat) : Option (Nat × Nat) :=
  match b with
  | .puppeteer =>
    if off = 0x100 then some (0, 0x80000FFF) else if off = 0x104 then some (0, 0x00FFFFFF)
    else if off = 0x108 then some (0, 0xFFFFFFFF) else if off = 0x10C then some (0, 0xFFFF)
    else if off = 0x110 then some (0, 0x3FFF1FFF) else if off = 0x114 then some (0, 0x01FF00FF)
    else if off = 0x118 then some (0, 0x07FF03FF) else none
  | .strings =>
    if off = 0x100 then some (0xC3500, 0x07FFFFFF) else if off = 0x104 then some (0, 3)
    else if off = 0x108 then some (0, 0x7FFF7FFF) else if off = 0x10C then some (0x0410, 0xFFFF) else none
  | .pcie => if off = 0x100 then some (0, 0x7FF) else none
  | .ctxtab => if off = 0x100 then some (0, 0xFFFFFFFF) else none
  | .stall => if off = 0x100 then some (1, 1) else none
  | .array => if off = 0x100 then some (0, 3) else none
  | .sparse => if off = 0x100 then some (2, 7) else none
  | .marble => if 0x100 ≤ off && off ≤ 0x10C then some (0x11111111, 0xFFFFFFFF) else none
  | .dir => if off = 0x100 then some (0, 1) else none
  | .hbm => if off = 0x100 then some (0x00101801, 0x00FFFF01) else none
  | .narrow => if off = 0x100 then some (0x400, 0xFFF) else none
  | .dma =>
    if off = 0x100 then some (1, 1)
    else if 0x140 ≤ off && off ≤ 0x14C then some (0x11111111, 0xFFFFFFFF)
    else if off = 0x200 then some (8, 0x1F) else none
  | .narog =>
    if off = 0x100 then some (1, 1)
    else if 0x140 ≤ off && off ≤ 0x14C then some (0x11111111, 0xFFFFFFFF) else none
  | .narogSg =>
    if off = 0x100 then some (0x10, 0x1F) else if off = 0x104 then some (7, 0x7F0F)
    else if off = 0x120 then some (0x3F666666, 0xFFFFFFFF) else if off = 0x124 then some (0x3DCCCCCD, 0xFFFFFFFF)
    else if off = 0x128 then some (0x3F7FBE77, 0xFFFFFFFF) else if off = 0x12C then some (0x3A83126F, 0xFFFFFFFF)
    else if off = 0x130 then some (0x322BCC77, 0xFFFFFFFF)
    else if 0x134 ≤ off && off ≤ 0x13C then some (0, 0xFFFFFFFF)
    else if off = 0x140 || off = 0x144 then some (0x3F800000, 0xFFFFFFFF)
    else if 0x180 ≤ off && off ≤ 0x1BC then some (0, 0xFFFFFFFF)
    else if 0x200 ≤ off && off ≤ 0x2FC then some (0, 0xFFFFFFFF) else none
  | .slowtier => if off = 0x100 then some (0x00100000, 0x00FF0000) else none
  | .watch => if off = 0x100 then some (0x40, 0x1FF) else none
  | .rattle =>
    if off = 0x100 then some (0x000C0C01, 0x000F1F03) else if off = 0x104 then some (0xFFFFFFFF, 0xFFFFFFFF)
    else if off = 0x108 then some (1, 0xFFFFFFFF) else none
  | .rng =>
    if off = 0x100 then some (0, 1) else if 0x110 ≤ off && off ≤ 0x11C then some (0, 0xFFFFFFFF) else none
  | .ulink =>
    if off = 0x100 then some (0, 0x1FD) else if off = 0x104 then some (0, 0x7FFF)
    else if off = 0x108 then some (0, 0x7FFF) else if off = 0x10C then some (0x31, 0xFF) else none
  | .ulane => if off = 0x100 then some (0, 1) else none
  | .coll => if off = 0x100 then some (1, 1) else if off = 0x104 then some (0x64, 0xFFFF) else none
  | .kite =>
    if off = 0x100 then some (0, 0xF0007FFF) else if off = 0x104 then some (0, 0xFFFF)
    else if off = 0x108 then some (0, 1) else if off = 0x10C then some (0x03E802D0, 0xFFFFFFFF)
    else if off = 0x300 then some (1, 1) else none
  | .power =>
    if off = 0x100 then some (0x004005DC, 0x00F00FFF) else if off = 0x104 then some (0x645F, 0xFFFF) else none
  | .module => none | .sec => none | .mgmt => none | .clkrst => none | .core => none | .llc => none

/-- A configuration register exists at this offset; registers are aligned on 4 B (R42). -/
def isCfg (b : Block) (off : Nat) : Bool := off % 4 = 0 && (cfgSpec b off).isSome

def cfgReset (b : Block) (off : Nat) : Word :=
  match cfgSpec b off with
  | some (r, _) => BitVec.ofNat 32 r
  | none => 0

def cfgMask (b : Block) (off : Nat) : Word :=
  match cfgSpec b off with
  | some (_, m) => BitVec.ofNat 32 m
  | none => 0

/-- SQ bits of a status register; none where it latches nothing. -/
def sqMask (b : Block) (off : Nat) : Word :=
  if off = 0x018 then span 22 0
  else
    match b with
    | .strings => if off = 0x800 then span 22 20 else 0
    | .puppeteer => if off = 0x804 then span 23 23 ||| span 11 0 else 0
    | .ctxtab => if off = 0x800 then span 20 18 ||| span 15 0 else 0
    | .core => if off = 0x804 then span 23 14 ||| span 11 0 else 0
    | .array => if off = 0x804 then span 23 7 else 0
    | .sparse => if off = 0x814 then span 23 23 else 0
    | .dir => if off = 0x800 then span 23 22 else 0
    | .hbm => if off = 0x800 then span 23 10 else 0
    | .slowtier => if off = 0x800 then span 23 21 else 0
    | .dma => if off = 0x800 then span 23 23 else 0
    | .narogSg => if off = 0x800 then span 20 12 else 0
    | .watch => if off = 0x800 then span 23 22 else 0
    | .rattle => if off = 0x800 then span 23 22 ||| span 8 0 else 0
    | .ulink => if off = 0x800 then span 21 17 else 0
    | .ulane => if off = 0x800 then span 22 22 else 0
    | .kite => if off = 0x800 then span 23 16 ||| span 7 0 else 0
    | .power => if off = 0x800 then span 22 21 else 0
    | .clkrst => if off = 0x804 then span 23 4 else if off = 0x808 then span 23 23 else 0
    | .sec => if off = 0x800 then span 23 20 else 0
    | .module => 0 | .coll => 0 | .pcie => 0 | .mgmt => 0 | .stall => 0 | .llc => 0 | .narrow => 0 | .marble => 0
    | .narog => 0 | .rng => 0

/-- Divisor of a counter register; none where the offset holds no counter. -/
def counterUnit (b : Block) (off : Nat) : Option Nat :=
  match b with
  | .puppeteer => if 0x808 ≤ off && off ≤ 0x810 then some 1 else none
  | .core => if off = 0x808 then some 1 else none
  | .stall => if 0x800 ≤ off && off < 0x940 then some 64 else none
  | .array => if off = 0x808 then some 1 else none
  | .sparse => if 0x800 ≤ off && off ≤ 0x810 then some 1 else none
  | .marble => if 0x804 ≤ off && off ≤ 0x80C then some 1 else none
  | .llc => if 0x804 ≤ off && off ≤ 0x818 then some 1 else none
  | .dir => if off = 0x804 || off = 0x808 then some 1 else none
  | .hbm => if off = 0x804 || off = 0x808 then some 1 else none
  | .slowtier => if off = 0x804 || off = 0x808 then some 1 else none
  | .narrow => if 0x800 ≤ off && off ≤ 0x80C then some 1024 else none
  | .dma => if off = 0x804 then some 4096 else if off = 0x808 then some 1 else none
  | .narog => if off = 0x804 || off = 0x808 then some 1 else if off = 0x80C then some 1048576 else none
  | .rattle => if 0x804 ≤ off && off ≤ 0x814 then some 1 else none
  | .ulink => if 0x808 ≤ off && off ≤ 0x814 then some 1 else if off = 0x818 || off = 0x81C then some 1024 else none
  | .ulane => if off = 0x804 || off = 0x808 then some 1 else none
  | .coll => if 0x804 ≤ off && off ≤ 0x810 then some 1 else none
  | .kite => if 0x80C ≤ off && off ≤ 0x818 then some 1 else if off = 0xA00 then some 1048576 else if off = 0xA04 then some 1 else none
  | .module => none | .strings => none | .ctxtab => none | .pcie => none | .sec => none | .mgmt => none
  | .clkrst => none | .power => none | .watch => none | .rng => none | .narogSg => none

/-- A configuration register's value. -/
def State.cfg (s : State) (b : Block) (inst off : Nat) : Word :=
  Tab.get (cfgReset b off) s.regs.cfg (regKey b inst off)

/-- Store a configuration register with fresh parity (R68, R71). -/
def State.setCfg (s : State) (b : Block) (inst off : Nat) (v : Word) : State :=
  { s with regs := { s.regs with
      cfg := Tab.set (cfgReset b off) s.regs.cfg (regKey b inst off) v
      par := Tab.del (regKey b inst off) s.regs.par
      found := Tab.del (regKey b inst off) s.regs.found
      accepted := Tab.del (regKey b inst off) s.regs.accepted } }

/-- The value that a configuration register accepted last: what it holds, but for bits that have changed without a
write (R71). -/
def State.cfgAccepted (s : State) (b : Block) (inst off : Nat) : Word :=
  ((s.regs.accepted.find? (·.1 = regKey b inst off)).map (·.2)).getD (s.cfg b inst off)

/-- CTX_BASE and CTX_COUNT of a partition (R129). -/
def State.ctxBase (s : State) (p : Nat) : Nat := field (s.cfg .puppeteer p 0x104) 11 0
def State.ctxCount (s : State) (p : Nat) : Nat := field (s.cfg .puppeteer p 0x104) 23 12

/-- Clusters granted, as 48 bits (R129). -/
def State.clusters (s : State) (p : Nat) : Nat :=
  (s.cfg .puppeteer p 0x108).toNat + field (s.cfg .puppeteer p 0x10C) 15 0 * 2 ^ 32

def State.watchBase (s : State) (p : Nat) : Nat := field (s.cfg .puppeteer p 0x110) 12 0
def State.watchCount (s : State) (p : Nat) : Nat := field (s.cfg .puppeteer p 0x110) 29 16

/-- Shard groups granted (R369). -/
def State.sgBase (s : State) (p : Nat) : Nat := field (s.cfg .puppeteer p 0x114) 7 0
def State.sgCount (s : State) (p : Nat) : Nat := field (s.cfg .puppeteer p 0x114) 24 16

/-- Slow-tier granules granted (R369). -/
def State.slowBase (s : State) (p : Nat) : Nat := field (s.cfg .puppeteer p 0x118) 9 0
def State.slowCount (s : State) (p : Nat) : Nat := field (s.cfg .puppeteer p 0x118) 26 16

/-- A requester's copies of a page. -/
def State.copyOf (s : State) (r : Req) (w : Window) (b : Block) : ReqCopy :=
  Tab.get {} s.regs.copy (copyKey r w b)

def State.setCopy (s : State) (r : Req) (w : Window) (b : Block) (c : ReqCopy) : State :=
  { s with regs := { s.regs with copy := Tab.set {} s.regs.copy (copyKey r w b) c } }

/-- CHCOUNT a requester reads (R46, R49, R53). -/
def State.chCount (s : State) (w : Window) (b : Block) : Nat :=
  match w with
  | .glob => globCount s.variant b
  | .part p =>
    match b with
    | .ctxtab => s.ctxCount p.val
    | .watch => s.watchCount p.val
    | .narogSg => if narogPresent s.variant then s.sgCount p.val else 0
    | .module => 1 | .puppeteer => 1 | .kite => 1 | .rng => 1
    | .strings => 0 | .coll => 0 | .ulink => 0 | .ulane => 0 | .pcie => 0 | .sec => 0 | .mgmt => 0 | .clkrst => 0
    | .power => 0 | .core => 0 | .array => 0 | .sparse => 0 | .stall => 0 | .llc => 0 | .dir => 0 | .hbm => 0
    | .narrow => 0 | .dma => 0 | .marble => 0 | .narog => 0 | .slowtier => 0 | .rattle => 0

/-- The partition that a page of one instance acts for in the global window: the one the requester's global
PUPPETEER.CHSEL selects (R141). -/
def State.selPart (s : State) (r : Req) (w : Window) : Nat :=
  match w with
  | .glob => (s.copyOf r .glob .puppeteer).inst.toNat % 32
  | .part p => p.val

/-- The physical instance that local instance `i` of a page names; none where the requester holds no such instance
(R46, R49, R54). -/
def State.instAt (s : State) (r : Req) (w : Window) (b : Block) (i : Nat) : Option Nat :=
  if i < s.chCount w b then
    match b with
    | .kite => some (s.selPart r w)
    | .rng => some (s.selPart r w)
    | .puppeteer => some (match w with | .glob => i | .part p => p.val)
    | .ctxtab => some (match w with | .glob => i | .part p => s.ctxBase p.val + i)
    | .watch => some (match w with | .glob => i | .part p => s.watchBase p.val + i)
    | .narogSg => some (match w with | .glob => i | .part p => s.sgBase p.val + i)
    | .module => some i | .strings => some i | .coll => some i | .ulink => some i | .ulane => some i
    | .pcie => some i | .sec => some i | .mgmt => some i | .clkrst => some i | .power => some i | .core => some i
    | .array => some i | .sparse => some i | .stall => some i | .llc => some i | .dir => some i | .hbm => some i
    | .narrow => some i | .dma => some i | .marble => some i | .narog => some i | .slowtier => some i
    | .rattle => some i
  else none

/-- A requester reaches the pages: the host from READY on (R506) unless its function is in D3hot (log 129), the
management core while the module is out of reset, and the page of the reset controller in reset too (R509, R511, R520). -/
def State.hears (s : State) (r : Req) (b : Block) : Bool :=
  if r.val = 32 then s.ready || s.power.phase ≠ 0 || (b = .clkrst && s.power.standby) else s.ready && !(Tab.get false s.pci.d3hot r.val)

/-- An instance is in a block reset (R515). -/
def State.inReset (s : State) (b : Block) (i : Nat) : Bool := s.regs.rst.contains (srcKey b i)

/-- Some instance of a page is in hold (R73). -/
def State.pageHold (s : State) (b : Block) : Bool :=
  s.regs.found.any (fun p => p.2 && p.1 / 4096 / 65536 = Block.idx b)

/-- An instance is in hold while a mismatch found in one of its configuration registers lasts (R70, R71). KITE and RNG
have one instance, which is held as a whole, whichever partition's register it is. -/
def State.inHold (s : State) (b : Block) (inst : Nat) : Bool :=
  if b = .kite || b = .rng then s.pageHold b
  else s.regs.found.any (fun p => p.2 && p.1 / 4096 = srcKey b inst)

/-- The instance that the requester's CHSEL selects now (R54). -/
def State.selInst (s : State) (r : Req) (w : Window) (b : Block) : Option Nat :=
  if s.hears r b && pageOk r w b then s.instAt r w b (s.copyOf r w b).inst.toNat else none

/-- Live partition of a context, a watch entry or a shard group: the one whose grant holds it (R129, R134, R137). -/
def State.partWith (s : State) (base count : State → Nat → Nat) (i : Nat) : Option Nat :=
  (List.range 32).find? (fun p => base s p ≤ i && i < base s p + count s p)

def State.partOfCtx (s : State) (c : Nat) : Option Nat := s.partWith State.ctxBase State.ctxCount c
def State.partOfWatch (s : State) (e : Nat) : Option Nat := s.partWith State.watchBase State.watchCount e
def State.partOfSg (s : State) (g : Nat) : Option Nat := s.partWith State.sgBase State.sgCount g

/-- Cores granted to a partition in ascending order (R26, R148). -/
def State.grantedCores (s : State) (p : Nat) : List Nat :=
  (List.range 384).filter (fun c => (s.clusters p).testBit (c / 8))

/-- Arguments an item keeps per requester, by block, item and instance; the window plays no part. -/
def argKey (r : Req) (b : Block) (item inst : Nat) : Nat :=
  ((r.val * 32 + Block.idx b) * 65536 + item) * 65536 + inst

def State.arg (s : State) (r : Req) (b : Block) (item inst : Nat) : List Word :=
  Tab.get [] s.regs.args (argKey r b item inst)

def State.setArg (s : State) (r : Req) (b : Block) (item inst : Nat) (v : List Word) : State :=
  { s with regs := { s.regs with args := Tab.set [] s.regs.args (argKey r b item inst) v } }

end Sys2Proof.Machine
end

