-- ==== Sys2Proof/Machine/Flags.lean ====
section
/-! DEFINITION. Latches and events: status registers, event numbers, counters, event sources and their delivery
(R73 to R84, R116, R134 to R136). -/

namespace Sys2Proof.Machine

def State.emit (s : State) (o : Out) : State := { s with out := o :: s.out }

/-- Latched SQ fields of a status register. -/
def State.sq (s : State) (b : Block) (inst off : Nat) : Word := Tab.get 0 s.regs.status (regKey b inst off)

/-- Event number of a status register (R75). -/
def State.evnum (s : State) (b : Block) (inst off : Nat) : Word := Tab.get 0 s.regs.evnum (regKey b inst off)

/-- An event latches bits of a status register: its number rises by one (R75). -/
def State.latch (s : State) (b : Block) (inst off : Nat) (f : Word → Word) : State :=
  let k := regKey b inst off
  { s with regs := { s.regs with
      status := Tab.set 0 s.regs.status k (f (s.sq b inst off))
      evnum := Tab.set 0 s.regs.evnum k (s.evnum b inst off + 1)
      latched := Tab.set 0 s.regs.latched k (Tab.get 0 s.regs.latched k + 1) } }

/-- An event has latched here since the register was last cleared, as MULTI fields ask. -/
def State.latchedBefore (s : State) (b : Block) (inst off : Nat) : Bool :=
  Tab.get 0 s.regs.latched (regKey b inst off) != 0

/-- Latch a field set where MULTI is `multi` and the last-event fields are `v` (R73). -/
def State.latchLast (s : State) (b : Block) (inst off multi : Nat) (v : Word) : State :=
  let m := s.latchedBefore b inst off
  s.latch b inst off (fun o => (o &&& flag true multi) ||| flag m multi ||| v)

def State.counter (s : State) (b : Block) (inst off : Nat) : Nat := Tab.get 0 s.regs.count (regKey b inst off)

def State.addCount (s : State) (b : Block) (inst off n : Nat) : State :=
  { s with regs := { s.regs with
      count := Tab.set 0 s.regs.count (regKey b inst off) (s.counter b inst off + n) } }

/-- COUNT as a register shows it: in its unit, saturating at 0xFF_FFFF (R115). -/
def State.counterView (s : State) (b : Block) (inst off unit : Nat) : Word :=
  BitVec.ofNat 32 (min 0xFFFFFF (s.counter b inst off / unit))

def State.source (s : State) (k : Nat) : Source := Tab.get {} s.regs.src k

def State.setSource (s : State) (k : Nat) (v : Source) : State :=
  { s with regs := { s.regs with src := Tab.set {} s.regs.src k v } }

def State.part (s : State) (p : Nat) : Part := Tab.get {} s.parts p
def State.setPart (s : State) (p : Nat) (v : Part) : State := { s with parts := Tab.set {} s.parts p v }

/-- A function is enabled (R133, R134). -/
def State.fnEnabled (s : State) (f : Nat) : Bool := f = 0 || (s.pci.vfEnable && f ≤ s.pci.numVfs)

/-- MSI-X table size (R119). -/
def msixSize (f : Nat) : Nat := if f = 0 then 2048 else 64

/-- Reset value of an MSI-X table word: vectors start masked. -/
def msixDefault (o : Nat) : Word := if o % 16 = 12 then 1 else 0

def msixKey (f v : Nat) : Nat := f * 4096 + v

/-- The mask of a vector: its function's mask, or bit 0 of its control word, which resets to 1 (R136). -/
def State.vectorMasked (s : State) (f v : Nat) : Bool :=
  Tab.get false s.pci.msixMask f || (Tab.get 1 s.pci.msixTable (f * 65536 + 16 * v + 12)).getLsbD 0

/-- Messages that a vector holds back; its pending bit is set while there is one (R136). -/
def State.heldMsgs (s : State) (f v : Nat) : List (Option Nat) := Tab.get [] s.pci.pba (msixKey f v)

/-- A source withdraws its event request (R84): no vector holds a message of it back any more. -/
def State.withdraw (s : State) (k : Nat) : State :=
  { s with pci := { s.pci with
      pba := (s.pci.pba.map (fun x => (x.1, x.2.filter (fun y => y ≠ some k)))).filter (fun x => x.2 ≠ []) } }

/-- Send a message on a vector (R136) for a source's event request, or for a completion: nothing while MSI-X is off or the
function is in D3hot (log 129), a pending bit while masked, and no second message within 1 µs (800 cycles) of the previous
one. -/
def State.sendMsix (s : State) (f v : Nat) (why : Option Nat) : State :=
  let k := msixKey f v
  let last := Tab.get 0 s.pci.lastMsg k
  if !(Tab.get false s.pci.msixEnable f) || Tab.get false s.pci.d3hot f then s
  else if s.vectorMasked f v then 
    { s with pci := { s.pci with pba := Tab.set [] s.pci.pba k ((s.heldMsgs f v).insert why) } }
  else if last ≠ 0 && s.now + 1 < last + 800 then s
  else { s with
    pci := { s.pci with lastMsg := Tab.set 0 s.pci.lastMsg k (s.now + 1) }
    out := .msix f v :: s.out }

/-- Entry `k` of a partition's EVT_VECTORS (R135). -/
def evtEntry (e : BitVec 256) (k : Nat) : Nat := e.toNat / 2 ^ (16 * k) % 65536

/-- Signal an event of class `k` of a source to a function through its table (R135). -/
def State.signal (s : State) (src f k : Nat) : State :=
  let e := evtEntry (s.part f).evt k
  if e / 32768 = 1 then s.sendMsix f (e % 2048) (some src) else s

/-- The partition that owns a source; none for a module-wide source (R134). -/
def State.owner (s : State) (b : Block) (inst : Nat) : Option Nat :=
  if inst = scrubber then none
  else
    match b with
    | .ctxtab => s.partOfCtx inst
    | .puppeteer => some inst
    | .watch => s.partOfWatch inst
    | .narogSg => s.partOfSg inst
    | .kite => some inst
    | .rng => some inst
    | .module => none | .strings => none | .coll => none | .ulink => none | .ulane => none | .pcie => none
    | .sec => none | .mgmt => none | .clkrst => none | .power => none | .core => none | .array => none
    | .sparse => none | .stall => none | .llc => none | .dir => none | .hbm => none | .narrow => none | .dma => none
    | .marble => none | .narog => none | .slowtier => none | .rattle => none

/-- Deliver an event request (R134, R136). -/
def State.deliver (s : State) (b : Block) (inst : Nat) (code : BitVec 16) : State :=
  let k := code.toNat / 4096
  match s.owner b inst with
  | some p => s.signal (srcKey b inst) (if s.fnEnabled p then p else 0) k
  | none => (s.signal (srcKey b inst) 0 k).emit (.mgmtEvent (Block.idx b) inst code)

/-- Sources whose unacknowledged events hold ALERT# asserted: those of class 0x2 (R498, R541). -/
def State.alert (s : State) : Bool :=
  (s.source (srcKey .clkrst 0)).pending ≠ 0 || (s.source (srcKey .power 0)).pending ≠ 0

/-- Record an event with the frame it carries: number it, keep it pending, deliver it (R79 to R84, R116). -/
def State.raiseAt (s : State) (b : Block) (inst : Nat) (code : BitVec 16) (frame : FrameNo) : State :=
  let k := srcKey b inst
  let o := s.source k
  let t := s.setSource k { num := o.num + 1, pending := o.pending + 1, lastCode := code, lastFrame := frame }
  let u := t.deliver b inst code
  if t.alert && !s.alert then u.emit (.pin "ALERT#" false) else u

/-- Record an event of the frame in progress. -/
def State.raise (s : State) (b : Block) (inst : Nat) (code : BitVec 16) : State :=
  s.raiseAt b inst code s.fr.no

/-- Key of what a requester last read of a status register (R76). -/
def seenKey (k : Nat) (r : Req) : Nat := k * 33 + r.val

/-- Record the event number at a requester's read; 0 stands for no read since reset (R76). -/
def State.noteRead (s : State) (k : Nat) (r : Req) (n : Word) : State :=
  { s with regs := { s.regs with seen := Tab.set 0 s.regs.seen (seenKey k r) (n.toNat + 1) } }

/-- The comparison of R76: the written SEQ is that of the recorded number, and nothing has latched since. -/
def State.matchesRead (s : State) (k : Nat) (r : Req) (now : Word) (seq : Nat) : Bool :=
  let m := Tab.get 0 s.regs.seen (seenKey k r)
  m = now.toNat + 1 && now.toNat % 256 = seq

/-- Clear the SQ fields of a status register. -/
def State.clearSq (s : State) (b : Block) (inst off : Nat) : State :=
  let k := regKey b inst off
  { s with regs := { s.regs with
      status := Tab.del k s.regs.status
      latched := Tab.del k s.regs.latched } }

end Sys2Proof.Machine
end

