-- ==== Sys2Proof/Machine/Ops.lean ====
section
/-! DEFINITION. The named operations over memory: the address map (R36 to R40), HBM sectors, and the coherent reads
and writes that agents make through a home slice (R318, R325). -/

namespace Sys2Proof.Machine

/-- One byte of device memory. -/
def State.memByte (s : State) (a : Nat) : Byte := Tab.get 0 s.mem a

def State.setByte (s : State) (a : Nat) (v : Byte) : State := { s with mem := Tab.set 0 s.mem a v }

/-- The memory after bytes are written from `a` upward. -/
def Memory.write (m : List Host.Cell) (a : Nat) : List Byte → List Host.Cell
  | [] => m
  | b :: t => Memory.write (Tab.set 0 m a b) (a + 1) t

/-- The canonical form of memory: addresses rising, no listed byte equal to 0. -/
def Memory.wf (m : List Host.Cell) : Bool := Tab.wf 0 m

def State.memRead (s : State) (a n : Nat) : List Byte := (List.range n).map (fun i => s.memByte (a + i))

def State.memWrite (s : State) (a : Nat) (bs : List Byte) : State := { s with mem := Memory.write s.mem a bs }

/-- What an address is (R36, R38). -/
inductive AddrKind where
  | stack (n : Nat)
  | slow
  | hole
  deriving DecidableEq, Repr

/-- The device physical address map (R36 to R38). -/
def addrKind (v : Variant) (a : Nat) : AddrKind :=
  if a < 0xC000000000 then
    let n := a / 0x1000000000
    if a % 0x1000000000 < 0x900000000 && stackFitted v n then .stack n else .hole
  else if 0x10000000000 ≤ a && a < 0x10000000000 + slowGib v * 0x40000000 then .slow
  else .hole

/-- Granule of an HBM address (R130). -/
def granuleOf (a : Nat) : Nat := 36 * (a / 0x1000000000) + a % 0x1000000000 / 0x40000000

def granuleAddr (g : Nat) : Nat := g / 36 * 0x1000000000 + g % 36 * 0x40000000

/-- Slow-tier granules of 1 GiB are numbered from the window's base (R369). -/
def slowGranule (a : Nat) : Nat := (a - 0x10000000000) / 0x40000000

def isStack (v : Variant) (a : Nat) : Bool :=
  match addrKind v a with
  | .stack _ => true
  | .slow => false
  | .hole => false

def isSlow (v : Variant) (a : Nat) : Bool :=
  match addrKind v a with
  | .stack _ => false
  | .slow => true
  | .hole => false

/-- An address inside a partition's granted HBM granules (R132). -/
def State.grantedHbm (s : State) (p a : Nat) : Bool :=
  isStack s.variant a && (s.part p).hbm.getLsbD (granuleOf a)

/-- An address inside a partition's slow-tier grant (R369). -/
def State.grantedSlow (s : State) (p a : Nat) : Bool :=
  isSlow s.variant a && s.slowBase p ≤ slowGranule a && slowGranule a < s.slowBase p + s.slowCount p

/-- Every byte of a range lies in granted HBM. -/
def State.grantedRange (s : State) (p a n : Nat) : Bool :=
  n = 0 ||
    (upFrom (a / 0x40000000) ((a + n - 1) / 0x40000000 + 1 - a / 0x40000000)).all
      (fun g => s.grantedHbm p (max a (g * 0x40000000)))

/-- Home die of a line of a stack (R24, R39). -/
def homeDie (line : Nat) : Nat := line * 128 / 0x1000000000 / 3

/-- Where a line lies in its stack (R344). -/
structure HbmAddr where
  stack : Nat
  pc : Nat
  bank : Nat
  sid : Nat
  row : Nat
  deriving DecidableEq, Repr

def hbmAddr (line : Nat) : HbmAddr :=
  let a := 128 * line
  let o := a % 0x1000000000
  { stack := a / 0x1000000000, pc := o / 128 % 32, bank := o / 32768 % 16, sid := o / 0x300000000
    row := o % 0x300000000 / 524288 }

/-- Key of a bank of a stack. -/
def bankKey (stack pc sid bank : Nat) : Nat := ((stack * 32 + pc) * 3 + sid) * 16 + bank

def HbmAddr.key (a : HbmAddr) : Nat := bankKey a.stack a.pc a.sid a.bank

def State.core (s : State) (c : Nat) : Core := Tab.get {} s.cores c
def State.setCore (s : State) (c : Nat) (v : Core) : State := { s with cores := Tab.set {} s.cores c v }
def State.slice (s : State) (d : Nat) : Slice := Tab.get {} s.slices d
def State.setSlice (s : State) (d : Nat) (v : Slice) : State := { s with slices := Tab.set {} s.slices d v }
def State.ctx (s : State) (c : Nat) : Ctx := Tab.get {} s.ctxs c
def State.setCtx (s : State) (c : Nat) (v : Ctx) : State := { s with ctxs := Tab.set {} s.ctxs c v }
def State.marble (s : State) (d : Nat) : Marble := Tab.get {} s.marbles d
def State.setMarble (s : State) (d : Nat) (v : Marble) : State := { s with marbles := Tab.set {} s.marbles d v }

/-- Symbols of a sector that are in error (R350). -/
def State.upsetOf (s : State) (sector : Nat) : BitVec 18 := Tab.get 0 s.hbm.upset sector

def State.setUpset (s : State) (sector : Nat) (m : BitVec 18) : State :=
  { s with hbm := { s.hbm with upset := Tab.set 0 s.hbm.upset sector m } }

/-- Symbols set in a mask. -/
def symbols (m : BitVec 18) : Nat := ((List.range 18).filter (fun i => m.getLsbD i)).length

/-- A sector with errors in more than one symbol: it reads as uncorrectable (R350, R352). -/
def State.poisoned (s : State) (sector : Nat) : Bool := 1 < symbols (s.upsetOf sector)

/-- Some sector of a line among `mask` reads as uncorrectable. -/
def State.linePoison (s : State) (line : Nat) (mask : BitVec 4) : Bool :=
  (List.range 4).any (fun i => mask.getLsbD i && s.poisoned (4 * line + i))

def State.hbmLine (s : State) (line : Nat) : List Byte := s.memRead (128 * line) 128

/-- A whole-sector write of the sectors of `mask` of a line; it ends their errors (R346, R352). -/
def State.hbmWrite (s : State) (line : Nat) (mask : BitVec 4) (data : List Byte) : State :=
  (List.range 4).foldl (fun t i =>
    if mask.getLsbD i then
      (t.memWrite (128 * line + 32 * i) (bytesAt data (32 * i) 32)).setUpset (4 * line + i) 0
    else t) s

/-- Sectors of `mask` from `a`, the others from `b`. -/
def mergeSectors (mask : BitVec 4) (a b : List Byte) : List Byte :=
  (List.range 4).flatMap (fun i => bytesAt (if mask.getLsbD i then a else b) (32 * i) 32)

/-- A delta added to a line element by element in the masked sectors (R314). -/
def addDelta (t : DType) (mask : BitVec 4) (old delta : List Byte) : List Byte :=
  let n := DType.bytes t
  (List.range (128 / n)).flatMap (fun e =>
    let o := bytesAt old (n * e) n
    if mask.getLsbD (n * e / 32) then
      leBytes n (addElem t (BitVec.ofNat 32 (leNat o)) (BitVec.ofNat 32 (leAt delta (n * e) n))).toNat
    else o)

/-- Sectors of a line that some addresses touch. -/
def sectorsOf (as : List Nat) : BitVec 4 := as.foldl (fun m a => m ||| BitVec.ofNat 4 (2 ^ (a % 128 / 32))) 0

/-- Add elements to bytes of a line, in order (R313, R314). -/
def addElems (t : DType) (data : List Byte) (es : List (Nat × Word)) : List Byte :=
  let n := DType.bytes t
  es.foldl (fun d e =>
    overlay d (n * e.1) (leBytes n (addElem t (BitVec.ofNat 32 (leAt d (n * e.1) n)) e.2).toNat)) data

/-- Sectors that elements lie in. -/
def elemSectors (t : DType) (es : List (Nat × Word)) : BitVec 4 := sectorsOf (es.map (fun e => DType.bytes t * e.1))

/-- The entry of a line in its slice (R319). -/
def Slice.find (x : Slice) (line : Nat) : Option LLine := x.lines.find? (·.line = line)

def Slice.put (x : Slice) (l : LLine) : Slice :=
  if x.lines.any (·.line = l.line) then
    { x with lines := x.lines.map (fun m => if m.line = l.line then l else m) }
  else { x with lines := l :: x.lines }

def Slice.drop (x : Slice) (line : Nat) : Slice := { x with lines := x.lines.filter (·.line ≠ line) }

def State.lline (s : State) (line : Nat) : Option LLine := (s.slice (homeDie line)).find line
def State.putLine (s : State) (l : LLine) : State :=
  s.setSlice (homeDie l.line) ((s.slice (homeDie l.line)).put l)
def State.dropLine (s : State) (line : Nat) : State :=
  s.setSlice (homeDie line) ((s.slice (homeDie line)).drop line)

def Core.l1Find (c : Core) (line : Nat) : Option L1Line := c.l1.find? (·.line = line)
def Core.l1Put (c : Core) (l : L1Line) : Core :=
  if c.l1.any (·.line = l.line) then { c with l1 := c.l1.map (fun m => if m.line = l.line then l else m) }
  else { c with l1 := l :: c.l1 }
def Core.l1Drop (c : Core) (line : Nat) : Core := { c with l1 := c.l1.filter (·.line ≠ line) }

/-- L1 copies of a line: the cores in ascending order with their lines. -/
def State.l1Copies (s : State) (line : Nat) : List (Nat × L1Line) :=
  s.cores.filterMap (fun p => (p.2.l1Find line).map (fun l => (p.1, l)))

/-- Remove every L1 copy of a line. -/
def State.l1Purge (s : State) (line : Nat) : State :=
  (s.l1Copies line).foldl (fun t p => t.setCore p.1 ((t.core p.1).l1Drop line)) s

/-- Deltas of a line on their way to its slice, oldest first. -/
def State.flyingDeltas (s : State) (line : Nat) : List (DType × BitVec 4 × List Byte) :=
  s.up.filterMap (fun m =>
    if m.line = line then
      match m.body with
      | .wbr t k d => some (t, k, d)
      | .delta t k d => some (t, k, d)
      | .rd _ _ => none | .own => none | .ownFull => none | .join _ => none | .wbd _ => none | .dead _ => none
      | .empty => none | .answer _ => none | .ack => none
    else none)

/-- Written data of a line on its way to its slice. -/
def State.flyingData (s : State) (line : Nat) : Option (List Byte) :=
  s.up.findSome? (fun m =>
    if m.line = line then
      match m.body with
      | .wbd d => some d
      | .answer d => some d
      | .rd _ _ => none | .own => none | .ownFull => none | .join _ => none | .wbr _ _ _ => none | .dead _ => none
      | .empty => none | .delta _ _ _ => none | .ack => none
    else none)

/-- Requests for a line that a slice holds and has not performed, in the order of arrival (R323, R329). -/
def State.heldReqs (s : State) (line : Nat) : List LReq :=
  let x := s.slice (homeDie line)
  let of (q : List (Nat × LReq)) := (q.filter (fun p => p.1 = line)).map (·.2)
  (match s.lline line with
    | none => []
    | some l => (l.op.map (fun o => [o.req])).getD [] ++ l.queue) ++ of x.waitq ++ of x.late

/-- What a request that is still to be performed makes of a line. -/
def LReq.applyTo (d : List Byte) (r : LReq) : List Byte :=
  match r with
  | .awr _ _ bs => bs.foldl (fun d p => setAt d p.1 p.2) d
  | .aadd _ t es => addElems t d es
  | .wbr _ t m x => addDelta t m d x
  | .wbd _ x => x
  | .rd _ _ _ => d
  | .own _ => d
  | .ownFull _ => d
  | .join _ _ => d
  | .dead _ _ => d
  | .ard _ _ _ => d
  | .vict => d
  | .wb _ => d

/-- The value a line holds for a coherent reader: an owner's written data, the LLC's valid sectors over HBM, every delta
over the HBM value, those of the slice first and those of cores in core order, and then the writes and adds that the slice
has still to perform (R254, R325, R327). -/
def State.cohLine (s : State) (line : Nat) : List Byte :=
  let base := s.hbmLine line
  let copies := s.l1Copies line
  let own := copies.findSome? (fun p => if p.2.st = .m then some p.2.data else none)
  let deltas := s.flyingDeltas line ++
    copies.filterMap (fun p => if p.2.st = .red then some (p.2.dt, p.2.valid, p.2.data) else none)
  let v := match s.lline line with
    | none => base
    | some l =>
      match l.st with
      | .s => mergeSectors l.sect l.data base
      | .e => mergeSectors l.sect l.data base
      | .m => mergeSectors l.sect l.data base
      | .red => addDelta l.dt l.sect base l.data
      | .merging => addDelta l.dt l.sect base l.data
      | .dead => base
  let here := match own, s.flyingData line with
    | some d, _ => d
    | none, some d => d
    | none, none => deltas.foldl (fun b x => addDelta x.1 x.2.1 b x.2.2) v
  (s.heldReqs line).foldl LReq.applyTo here

/-- The LLC or an L1 holds valid data of a sector, so that a coherent read does not need HBM for it. -/
def State.covered (s : State) (sector : Nat) : Bool :=
  (s.flyingData (sector / 4)).isSome || (s.l1Copies (sector / 4)).any (fun p => p.2.st = .m) ||
    (match s.lline (sector / 4) with
      | none => false
      | some l => (l.st = .s || l.st = .e || l.st = .m) && l.sect.getLsbD (sector % 4))

/-- A coherent read of the sector meets an uncorrectable error (R352). -/
def State.badSector (s : State) (sector : Nat) : Bool := s.poisoned sector && !(s.covered sector)

/-- Some sector of a range reads as uncorrectable. -/
def State.rangePoison (s : State) (a n : Nat) : Bool :=
  n ≠ 0 && (upFrom (a / 32) ((a + n - 1) / 32 + 1 - a / 32)).any s.badSector

/-- Coherent read of `n` bytes from `a` (R318). -/
def State.cohRead (s : State) (a n : Nat) : List Byte :=
  if n = 0 then []
  else
    let l0 := a / 128
    let ls := upFrom l0 ((a + n - 1) / 128 + 1 - l0)
    bytesAt (ls.flatMap s.cohLine) (a % 128) n

/-- A line is quiet: no operation on it, no request for it held, and no message of it under way. -/
def State.quiet (s : State) (line : Nat) : Bool :=
  s.heldReqs line = [] && s.up.all (fun m => m.line ≠ line) && s.dn.all (fun m => m.line ≠ line)

end Sys2Proof.Machine
end

