-- ==== Sys2Proof/Machine/Agent.lean ====
section
/-! DEFINITION. The home slice as agents meet it: directory entries (R319, R320), victims (R329), the reads and writes of
stacks and packages with their errors (R347 to R352, R371), and the ARD and AWR rows of R325 performed at once over a line
that is still (R318, R334, R346; log 141). -/

namespace Sys2Proof.Machine

/-- The line has no holders (R320). -/
def LLine.noHolders (l : LLine) : Bool := !l.ptr && l.holders = 0

/-- The owner of a line in pointer form (R319). -/
def LLine.owner (l : LLine) : Option Nat := if l.ptr then some l.holders else none

/-- Cores that a snoop of the line goes to: one in pointer form, all 8 of each marked cluster in vector form (R320). -/
def LLine.targets (l : LLine) : List Nat :=
  if l.ptr then [l.holders] else (List.range 384).filter (fun k => l.holders.testBit (k / 8))

def setBit (n i : Nat) : Nat := if n.testBit i then n else n + 2 ^ i

/-- Add a holder (R320): pointer form for the only core, vector form from the second on. -/
def LLine.addHolder (l : LLine) (k : Nat) : LLine :=
  if l.noHolders then { l with ptr := true, holders := k }
  else if l.ptr then
    (if l.holders = k then l else { l with ptr := false, holders := setBit (setBit 0 (l.holders / 8)) (k / 8) })
  else { l with holders := setBit l.holders (k / 8) }

def LLine.noOne (l : LLine) : LLine := { l with ptr := false, holders := 0 }

/-- An entry as a line gets it from I: no data, no holders. -/
def LLine.fresh (l : LLine) : LLine :=
  { l.noOne with st := .s, dirty := false, chk := false, sect := 0, resolved := false, data := List.replicate 128 0 }

/-- Is a value line held by one owner that may have written (R321)? -/
def LLine.owned (l : LLine) : Bool := l.st = .e || l.st = .m

/-- LLC set of a line (R317). -/
def llcSet (line : Nat) : Nat := Nat.xor (line % 32768) (line / 32768 % 32768)

def State.dnSend (s : State) (k line : Nat) (b : DnBody) : State :=
  { s with dn := s.dn ++ [{ core := k, line := line, body := b }] }

/-- Count an LLC event of R340 or a DIR event of R341. -/
def State.llcCount (s : State) (line off : Nat) : State := s.addCount .llc (homeDie line) off 1

def State.bumpClock (s : State) (die : Nat) : State :=
  s.setSlice die { s.slice die with clock := (s.slice die).clock + 1 }

/-- Elements of the masked sectors of a delta. -/
def deltaElems (t : DType) (mask : BitVec 4) (d : List Byte) : List (Nat × Word) :=
  let n := DType.bytes t
  (List.range (128 / n)).filterMap (fun e =>
    if mask.getLsbD (n * e / 32) then some (e, BitVec.ofNat 32 (leAt d (n * e) n)) else none)

/-- A delta that the operation in progress cannot absorb, as an AADD of its own type (R324). -/
def asAadd (t : DType) (mask : BitVec 4) (d : List Byte) : LReq := .aadd .marble t (deltaElems t mask d)

/-- Sectors of a write's bytes, and those it covers whole. -/
def writtenSectors (bs : List (Nat × Byte)) : BitVec 4 := sectorsOf (bs.map (·.1))
def wholeSectors (bs : List (Nat × Byte)) : BitVec 4 :=
  (List.range 4).foldl (fun m i =>
    if (List.range 32).all (fun j => bs.any (·.1 = 32 * i + j)) then m ||| BitVec.ofNat 4 (2 ^ i) else m) 0

/-- Add a delta into a RED line (R314, R325). -/
def LLine.absorb (l : LLine) (t : DType) (mask : BitVec 4) (d : List Byte) : LLine :=
  { l with sect := l.sect ||| mask, data := addDelta t mask l.data d }

/-- The request has read HBM or not (R340): MISS or HIT. -/
def State.countServed (s : State) (line : Nat) (read : Bool) : State := s.llcCount line (if read then 0x808 else 0x804)

/-- Sectors of a line that a read still queued will bring: no write of them has been queued since (R348). -/
def askedSectors (line : Nat) : BitVec 4 → List NReq → BitVec 4
  | m, [] => m
  | m, r :: rs =>
    askedSectors line (if r.line ≠ line then m else if r.write then m &&& ~~~r.sect else m ||| r.sect) rs

/-- A read request goes to the narrow path (R347); sectors that a queued read brings are served by that read (R348). -/
def State.hbmAsk (s : State) (line : Nat) (sect : BitVec 4) (merge : Bool) : State :=
  let need := sect &&& ~~~(askedSectors line 0 s.hbm.nreq)
  if need = 0 then s
  else { s with hbm := { s.hbm with nreq := s.hbm.nreq ++
    [{ line := line, sect := need, write := false, merge := merge, since := s.now }] } }

/-- The controller accepts a write of valid sectors (R317, R326, R327); `merge` says that a merge wrote it (R328). -/
def State.hbmPut (s : State) (line : Nat) (sect : BitVec 4) (data : List Byte) (merge : Bool) : State :=
  if sect = 0 then s
  else
    let t := s.hbmWrite line sect data
    { t with hbm := { t.hbm with nreq := t.hbm.nreq ++
      [{ line := line, sect := sect, write := true, merge := merge, since := t.now }] } }

/-- A request for a line that reaches its narrow path is performed at once: no request waits at its pseudo-channel, and
the path is not in hold (R70, R348). A write of another line that came in this very cycle does not hold it up. -/
def State.hbmOpen (s : State) (line : Nat) : Bool :=
  let a := hbmAddr line
  !(s.inHold .narrow (homeDie line)) &&
    s.hbm.nreq.all (fun r => r.issued || (hbmAddr r.line).stack ≠ a.stack || (hbmAddr r.line).pc ≠ a.pc ||
      (r.write && r.since = s.now && r.line ≠ line))

/-- A way of a set that can be taken at once: that of a DEAD line, else a free way (R329). -/
def Slice.openWay (x : Slice) (set : Nat) : Option (Nat × Option LLine) :=
  let ls := x.lines.filter (fun l => llcSet l.line = set)
  match ls.find? (fun l => l.st = .dead && l.op.isNone) with
  | some l => some (l.way, some l)
  | none => ((List.range 16).find? (fun w => ls.all (·.way ≠ w))).map (fun w => (w, none))

/-- The least recently used of some lines of a slice. -/
def lruLine (ls : List LLine) : Option LLine :=
  ls.foldl (fun o l => match o with | none => some l | some m => if l.used < m.used then some l else some m) none

/-- The victim of a set in the order of R329, after DEAD lines and free ways. -/
def Slice.victim (x : Slice) (set : Nat) : Option LLine :=
  let ls := x.lines.filter (fun l => llcSet l.line = set && l.op.isNone && l.queue = [])
  match lruLine (ls.filter (fun l => l.st = .s && l.noHolders)) with
  | some l => some l
  | none =>
    match lruLine (ls.filter (fun l => l.st = .s || l.owned)) with
    | some l => some l
    | none => if x.merges.length < 64 then lruLine (ls.filter (fun l => l.st = .red)) else none

/-- Sectors of a line that read as uncorrectable. -/
def State.badSectors (s : State) (line : Nat) : BitVec 4 :=
  (List.range 4).foldl (fun m i => if s.poisoned (4 * line + i) then m ||| BitVec.ofNat 4 (2 ^ i) else m) 0

/-- The page of an address is open. -/
def State.pageOpen (s : State) (a : HbmAddr) : Bool := Tab.get 0 s.hbm.openPage a.key = a.row + 1

def bitsOf (m : BitVec 4) : Nat := ((List.range 4).filter (fun i => m.getLsbD i)).length

/-- Back-to-back bursts of a pseudo-channel on some sectors of a line (R347): the first opens the page where it is closed,
and every burst that finds it open is a hit (R366, log 142). -/
def State.burst (s : State) (line : Nat) (sect : BitVec 4) (write : Bool) : State :=
  let a := hbmAddr line
  let d := homeDie line
  let n := bitsOf sect
  let t := if s.pageOpen a then s.addCount .narrow d 0x808 n
    else (s.addCount .narrow d 0x80C 1).addCount .narrow d 0x808 (n - 1)
  let u := t.addCount .narrow d (if write then 0x804 else 0x800) n
  { u with hbm := { u.hbm with openPage := Tab.set 0 u.hbm.openPage a.key (a.row + 1) } }

/-- Who reports the errors of a sector: the stack it lies in, or the package of the slow tier (R351, R371; log 144). -/
def eccAt (a : Nat) : Block × Nat :=
  if a < 0x10000000000 then (.hbm, a / 0x1000000000) else (.slowtier, (a - 0x10000000000) / 0x1000000000)

/-- Where corrections in a frame are counted. -/
def eccKey (a : Nat) : Nat := if a < 0x10000000000 then (eccAt a).2 else 16 + (eccAt a).2

/-- A corrected sector (R351, R371): counted, latched, and one event when the frame's corrections reach the limit. -/
def State.correction (s : State) (a : Nat) : State :=
  let (b, n) := eccAt a
  let tick := s.fr.ticks + 1
  let before := if Tab.get 0 s.hbm.corrTick (eccKey a) = tick then Tab.get 0 s.hbm.corrNow (eccKey a) else 0
  let t := (s.addCount b n 0x804 1).latch b n 0x800 (· ||| flag true 22)
  let u := { t with hbm := { t.hbm with
    corrTick := Tab.set 0 t.hbm.corrTick (eccKey a) tick, corrNow := Tab.set 0 t.hbm.corrNow (eccKey a) (before + 1) } }
  let lim := field (u.cfg b n 0x100) 23 16
  if lim ≠ 0 && before + 1 = lim then u.raise b n 0x5002 else u

/-- UNCORR is latched already (MULTI of R365). -/
def State.latchedUncorr (s : State) (a : Nat) : Bool := bit (s.sq (eccAt a).1 (eccAt a).2 0x800) 23

/-- LAST_PC, LAST_SID and LAST_BANK of HBM.ECC (R365); a package's register has no such fields (R397). -/
def lastEcc (a : Nat) : Word :=
  let o := a % 0x1000000000
  if a < 0x10000000000 then place (o / 128 % 32) 16 ||| place (o / 0x300000000) 14 ||| place (o / 32768 % 16) 10 else 0

/-- An uncorrectable sector is read: latched, counted, recorded and reported (R352, R371). -/
def State.reportUncorr (s : State) (a : Nat) : State :=
  let (b, n) := eccAt a
  let m := s.latchedUncorr a
  let t := s.latch b n 0x800 (fun w => (w &&& flag true 22) ||| flag true 23 ||| flag m 21 ||| lastEcc a)
  let u := (t.addCount b n 0x808 1).raise b n 0x5003
  if a < 0x10000000000 then { u with hbm := { u.hbm with lastUncorr := Tab.set 0 u.hbm.lastUncorr n a } }
  else { u with slowUncorr := Tab.set 0 u.slowUncorr n a }

/-- A sector as it is read (R350 to R352): with one symbol in error it is corrected and written back, with more it is
uncorrectable. -/
def State.readSector (s : State) (sector : Nat) : State :=
  if s.poisoned sector then s.reportUncorr (32 * sector)
  else if s.upsetOf sector = 0 then s
  else
    let t := (s.setUpset sector 0).correction (32 * sector)
    let queued := t.hbm.nreq.any (fun r => r.write && r.line = sector / 4 && r.sect.getLsbD (sector % 4))
    if 32 * sector < 0x10000000000 && !queued then t.burst (sector / 4) (BitVec.ofNat 4 (2 ^ (sector % 4))) true else t

/-- Bytes of free values (log 143). -/
def State.freeBytes (s : State) (n : Nat) : List Byte :=
  (List.range n).map (fun i => BitVec.setWidth 8 (Config.freeWord (s.free + i)))

/-- Symbols of a sector come into error (R350). Two are always detected; whether more are, and what the sector then reads,
is free (log 143). -/
def State.strike (s : State) (sector : Nat) (m : BitVec 18) : State :=
  let all := s.upsetOf sector ||| m
  if m = 0 || addrKind s.variant (32 * sector) = .hole then s
  else if symbols all ≤ 2 then s.setUpset sector all
  else if (Config.freeWord s.free).getLsbD 0 then ({ s with free := s.free + 1 } : State).setUpset sector all
  else
    let t := (s.memWrite (32 * sector) (({ s with free := s.free + 1 } : State).freeBytes 32)).setUpset sector
      (if (Config.freeWord s.free).getLsbD 1 then 1 else 0)
    { t with free := s.free + 33 }

/-- The sectors of a line that `p` names. -/
def sectorMask (p : Nat → Bool) : BitVec 4 :=
  (List.range 4).foldl (fun m i => if p i then m ||| BitVec.ofNat 4 (2 ^ i) else m) 0

/-- Sectors of a line that a range of device memory touches. -/
def rangeSectors (line a n : Nat) : BitVec 4 :=
  sectorMask (fun i => a < 128 * line + 32 * (i + 1) && 128 * line + 32 * i < a + n)

/-- Read sectors of a line from its stack at once: the bursts, and the errors found (R347, R350). -/
def State.hbmFetch (s : State) (line : Nat) (sect : BitVec 4) : State :=
  if sect = 0 then s
  else (List.range 4).foldl (fun t i => if sect.getLsbD i then t.readSector (4 * line + i) else t) (s.burst line sect false)

/-- A dead read is counted and recorded (R334): `fault` says whether it faulted. -/
def State.deadRead (s : State) (line : Nat) (fault : Bool) : State :=
  let d := homeDie line
  let t := (s.latch .dir d 0x800 (fun w => w ||| flag true (if fault then 22 else 23))).addCount .dir d 0x804 1
  let x := t.slice d
  let first := x.deadTick ≠ t.fr.ticks + 1
  let u := t.setSlice d { x with
    lastDead := BitVec.ofNat 64 (128 * line + (if fault then 2 ^ 63 else 0)), deadTick := t.fr.ticks + 1 }
  if first && bit (u.cfg .dir d 0x100) 0 then u.raise .dir d 0x5001 else u

/-- DEAD lines of a range (R334). -/
def State.deadIn (s : State) (a n : Nat) : List LLine :=
  if n = 0 then []
  else (upFrom (a / 128) ((a + n - 1) / 128 + 1 - a / 128)).filterMap (fun x => (s.lline x).filter (·.st = .dead))

/-- The fault that an agent's read of a range for a context meets: DEAD_READ_FAULT (R334) or MEM_POISON (R352). -/
def State.bulkFault (s : State) (a n : Nat) : Option (BitVec 16) :=
  if (s.deadIn a n).any (·.chk) then some 0x300B else if s.rangePoison a n then some 0x300C else none

/-- No operation and no message is under way on any line of a range. -/
def State.rangeQuiet (s : State) (a n : Nat) : Bool :=
  n = 0 || (upFrom (a / 128) ((a + n - 1) / 128 + 1 - a / 128)).all s.quiet

/-- A message that asks the slice for an operation of its own. -/
def UpBody.isRequest : UpBody → Bool
  | .rd _ _ => true
  | .own => true
  | .ownFull => true
  | .join _ => true
  | .dead _ => true
  | .wbd _ => false
  | .wbr _ _ _ => false
  | .empty => false
  | .answer _ => false
  | .delta _ _ _ => false
  | .ack => false

/-- A line on which nothing is in progress and of which no copy or answer is under way, so that every copy stands where the
directory says. -/
def State.still (s : State) (line : Nat) : Bool :=
  (match s.lline line with
    | none => true
    | some l => l.op.isNone && l.queue = []) &&
  s.dn.all (fun m => m.line ≠ line) && s.up.all (fun m => m.line ≠ line || m.body.isRequest) &&
  (s.slice (homeDie line)).waitq.all (fun p => p.1 ≠ line) && (s.slice (homeDie line)).late.all (fun p => p.1 ≠ line)

/-- One core of a recall: the INVAL row of R316. A copy that waits for its JOIN to be performed stays with its deltas. -/
def recallOne (q : State × LLine) (k : Nat) : State × LLine :=
  let (s, l) := q
  match (s.core k).l1Find l.line with
  | none => q
  | some x =>
    let t := s.setCore k ((s.core k).l1Drop l.line)
    match x.st with
    | .s => (t, l)
    | .e => (t, l)
    | .m => (t, { l with dirty := true, sect := 0xF, data := x.data })
    | .red => if l.st = .red && l.dt = x.dt then (t.llcCount l.line 0x810, l.absorb x.dt x.valid x.data) else q

/-- One core of a SHARE (R316). -/
def shareOne (q : State × LLine) (k : Nat) : State × LLine :=
  let (s, l) := q
  match (s.core k).l1Find l.line with
  | none => q
  | some x =>
    let t := s.setCore k ((s.core k).l1Put { x with st := .s })
    match x.st with
    | .s => q
    | .e => (t, l)
    | .m => (t, { l with dirty := true, sect := 0xF, data := x.data })
    | .red => q

/-- Snoop every holder of a still line and take the answers (R320, R324, R341). -/
def State.snoopAll (s : State) (l : LLine) (f : State × LLine → Nat → State × LLine) : State × LLine :=
  l.targets.foldl f (s.addCount .dir (homeDie l.line) 0x808 l.targets.length, l)

/-- Recall a still line: it has no holders afterwards. -/
def State.recall (s : State) (l : LLine) : State × LLine :=
  let (t, m) := s.snoopAll l recallOne
  (t, m.noOne)

/-- Resolve a still RED line (R327): S, dirty, with the touched sectors; those that cannot be read lose their delta
(R352). -/
def State.resolve (s : State) (l : LLine) : State × LLine :=
  let (t, m) := s.recall l
  let u := (t.hbmFetch l.line m.sect).llcCount l.line 0x814
  let ok := m.sect &&& ~~~(t.badSectors l.line)
  (u, { m.fresh with sect := ok, dirty := true, resolved := m.sect ≠ 0, data := addDelta m.dt ok (t.hbmLine l.line) m.data })

/-- A line that an access of an agent can change at once: still, and where it must be resolved, no merge in progress
(R328) and its stack free to be read; `free` says of which lines that holds. -/
def State.ready_ (s : State) (free : Nat → Bool) (line : Nat) : Bool :=
  s.still line &&
  (match s.lline line with
    | none => true
    | some l => l.st ≠ .merging && (l.st ≠ .red || ((s.slice (homeDie line)).merges = [] && free line)))

/-- A still victim leaves (R325): its holders are recalled, and what HBM lacks is written. -/
def State.evict (s : State) (l : LLine) : State :=
  let (t, m) := if l.st = .red then s.resolve l else s.recall l
  let u := t.addCount .llc (homeDie l.line) 0x818 l.targets.length
  (if m.dirty then u.hbmPut l.line m.sect m.data (l.st = .red) else u).dropLine l.line

/-- A way for a line that has no entry, where one can be given at once (R329). -/
def State.takeWay (s : State) (free : Nat → Bool) (line : Nat) : Option (State × Nat) :=
  let x := s.slice (homeDie line)
  let set := llcSet line
  if x.waitq.any (fun p => llcSet p.1 = set) then none
  else
    match x.openWay set with
    | some (w, some l) => some (s.dropLine l.line, w)
    | some (w, none) => some (s, w)
    | none =>
      match x.victim set with
      | none => none
      | some l => if s.ready_ free l.line then some (s.evict l, l.way) else none

/-- Enter a line after an agent's access, most recently used. -/
def State.touchLine (s : State) (l : LLine) : State :=
  let t := s.bumpClock (homeDie l.line)
  t.putLine { l with used := (t.slice (homeDie l.line)).clock, resolved := false }

/-- Fetch sectors that a line lacks: those without an uncorrectable error become valid (R317, R352). -/
def State.fillNow (s : State) (l : LLine) (need : BitVec 4) : State × LLine :=
  let ok := need &&& ~~~(s.badSectors l.line)
  (s.hbmFetch l.line need, { l with
    sect := l.sect ||| ok, data := mergeSectors ok (s.hbmLine l.line) l.data })

/-- Requests that a slice queues (R323, R340). -/
def Slice.queued (x : Slice) : Nat := x.waitq.length + (x.lines.map (fun l => l.queue.length)).sum

/-- The slice takes a request of the kinds that a full queue holds back (R323). -/
def State.accepts (s : State) (line : Nat) : Bool := (s.slice (homeDie line)).queued < 4096

/-- The S row of ARD (R325); none while a sector that it needs cannot be read at once. -/
def State.ardValue (s : State) (free : Nat → Bool) (l : LLine) (m : BitVec 4) : Option State :=
  let need := m &&& ~~~l.sect
  if need ≠ 0 && !(free l.line) then none
  else
    let (t, n) := s.fillNow l need
    some ((t.touchLine { n with st := .s }).countServed l.line (need ≠ 0 || l.resolved))

/-- ARD of some sectors of a line (R325, R334), performed as it reaches the slice. `ctx`: the read carries a context. None
where the request would be refused or would queue: at a BUSY line, for a way, for a merge, or at the stack. An agent sends
it once none of that holds it up (R323, R329, R348; log 141). -/
def State.ardLine (s : State) (free : Nat → Bool) (ctx : Bool) (line : Nat) (m : BitVec 4) : Option State :=
  if !(s.ready_ free line) || !(s.accepts line) then none
  else
    match s.lline line with
    | none => (s.takeWay free line).bind (fun tw => tw.1.ardValue free { line := line, way := tw.2, st := .s } m)
    | some l =>
      match l.st with
      | .s => s.ardValue free l m
      | .e => let (t, n) := s.snoopAll l shareOne; t.ardValue free n m
      | .m => let (t, n) := s.snoopAll l shareOne; t.ardValue free n m
      | .red => let (t, n) := s.resolve l; t.ardValue free n m
      | .dead => if l.chk && ctx then some (s.deadRead line true) else (s.deadRead line false).ardValue free l.fresh m
      | .merging => none

/-- Lines that a range touches. -/
def linesOf (a n : Nat) : List Nat := if n = 0 then [] else upFrom (a / 128) ((a + n - 1) / 128 + 1 - a / 128)

/-- The bursts of the slow tier that a range touches are read: corrections and uncorrectable errors (R371). -/
def State.readSlow (s : State) (a n : Nat) : State :=
  if n = 0 then s else (upFrom (a / 32) ((a + n - 1) / 32 + 1 - a / 32)).foldl State.readSector s

/-- An agent reads a range (R318, R371): the ARD row of R325 on each line, or the packages; a hole changes nothing. -/
def State.readRange (s : State) (free : Nat → Bool) (ctx : Bool) (a n : Nat) : Option State :=
  match addrKind s.variant a with
  | .stack _ => (linesOf a n).foldl
      (fun o line => o.bind (fun t => t.ardLine free ctx line (rangeSectors line a n))) (some s)
  | .slow => some (s.readSlow a n)
  | .hole => some s

/-- An agent reads several ranges, by address and length; none while some of it cannot be read at once. -/
def State.agentReads (s : State) (ctx : Bool) (ps : List (Nat × Nat)) : Option State :=
  ps.foldl (fun o p => o.bind (fun t => t.readRange s.hbmOpen ctx p.1 p.2)) (some s)

def State.agentRead (s : State) (ctx : Bool) (a n : Nat) : Option State := s.agentReads ctx [(a, n)]

/-- The line after bytes are written, over sectors that are there or are written whole (R325, R346). -/
def LLine.written (l : LLine) (bs : List (Nat × Byte)) : LLine :=
  let ok := wholeSectors bs ||| (writtenSectors bs &&& l.sect)
  { l.noOne with
    st := .s, dirty := true, chk := false, sect := l.sect ||| ok
    data := (bs.filter (fun p => ok.getLsbD (p.1 / 32))).foldl (fun d p => setAt d p.1 p.2) l.data }

/-- The S row of AWR over a line without copies (R325, R346): sectors written in part are fetched, at once where the stack
can be read so, and otherwise the write waits for its fill. -/
def State.awrValue (s : State) (who : Agent × Option Nat) (l : LLine) (bs : List (Nat × Byte)) : State :=
  let need := writtenSectors bs &&& ~~~(wholeSectors bs) &&& ~~~l.sect
  if need = 0 || s.hbmOpen l.line then
    let (t, n) := s.fillNow l need
    (t.touchLine (n.written bs)).countServed l.line (need ≠ 0 || l.resolved)
  else
    let r : LReq := .awr who.1 who.2 bs
    ((s.touchLine { l.noOne with st := .s, op := some { req := r, phase := .fill [r] } }).countServed l.line true).hbmAsk
      l.line need false

/-- A write that cannot be performed at once queues at its line, or for a way of its set, once the slice accepts it
(R323, R329). It starts at a line on which nothing is in progress. -/
def State.awrLater (s : State) (who : Agent × Option Nat) (line : Nat) (bs : List (Nat × Byte)) : State :=
  let d := homeDie line
  let x := s.slice d
  let r : LReq := .awr who.1 who.2 bs
  if !(s.accepts line) || x.late ≠ [] then s.setSlice d { x with late := x.late ++ [(line, r)] }
  else
    match s.lline line with
    | none => s.setSlice d { x with waitq := x.waitq ++ [(line, r)] }
    | some l =>
      if l.op.isSome || l.queue ≠ [] then s.putLine { l with queue := l.queue ++ [r] }
      else if l.st = .red then s.putLine { l with op := some { req := r, phase := .mergeWait } }
      else if l.st = .dead then s.awrValue who l.fresh bs
      else if l.targets = [] then s.awrValue who l bs
      else (l.targets.foldl (fun t k => (t.dnSend k line .inval).addCount .dir d 0x808 1) s).putLine
        { l with op := some { req := r, phase := .snoop, wait := l.targets } }

/-- AWR of bytes of a line by their offsets, performed at once on a line that is ready (R325). -/
def State.awrLine (s : State) (who : Agent × Option Nat) (line : Nat) (bs : List (Nat × Byte)) : State :=
  if !(s.ready_ s.hbmOpen line) || !(s.accepts line) || (s.slice (homeDie line)).late ≠ [] then s.awrLater who line bs
  else
    match s.lline line with
    | none =>
      (match s.takeWay s.hbmOpen line with
        | none => s.awrLater who line bs
        | some (t, w) => t.awrValue who { line := line, way := w, st := .s } bs)
    | some l =>
      match l.st with
      | .s => let (t, n) := s.recall l; t.awrValue who n bs
      | .e => let (t, n) := s.recall l; t.awrValue who n bs
      | .m => let (t, n) := s.recall l; t.awrValue who n bs
      | .red => let (t, n) := s.resolve l; t.awrValue who n bs
      | .dead => s.awrValue who l.fresh bs
      | .merging => s.awrLater who line bs

/-- A write of an agent for a context, or for none. -/
def LReq.isAwrOf (who : Agent × Option Nat) (r : LReq) : Bool :=
  match r with
  | .awr a c _ => a = who.1 && c = who.2
  | .rd _ _ _ => false | .own _ => false | .ownFull _ => false | .join _ _ => false | .wbr _ _ _ _ => false
  | .ard _ _ _ => false | .aadd _ _ _ => false | .wbd _ _ => false | .dead _ _ => false | .vict => false
  | .wb _ => false

/-- A write of an agent for a context is still to be performed at some slice: its command has not ended (R338, R355). -/
def State.writesLeft (s : State) (who : Agent × Option Nat) : Bool :=
  s.slices.any (fun x => x.2.late.any (·.2.isAwrOf who) || x.2.waitq.any (·.2.isAwrOf who) ||
    x.2.lines.any (fun l => l.queue.any (·.isAwrOf who) || (match l.op with | some o => o.req.isAwrOf who | none => false)))

/-- A slice has not accepted a write of an agent for a context yet (R323, R355). -/
def State.writesHeld (s : State) (who : Agent × Option Nat) : Bool :=
  s.slices.any (fun x => x.2.late.any (·.2.isAwrOf who))

/-- Bytes with their offsets in a line. -/
def placed (off : Nat) (bs : List Byte) : List (Nat × Byte) := bs.zipIdx.map (fun x => (off + x.2, x.1))

/-- Split a byte string at line boundaries: line, offset, bytes. -/
def splitLines (a : Nat) (bs : List Byte) : List (Nat × Nat × List Byte) :=
  if bs.length = 0 then []
  else
    (upFrom (a / 128) ((a + bs.length - 1) / 128 + 1 - a / 128)).map (fun l =>
      let lo := max a (128 * l)
      let hi := min (a + bs.length) (128 * (l + 1))
      (l, lo - 128 * l, (bs.drop (lo - a)).take (hi - lo)))

/-- Bytes written to the slow tier (R40); a burst written whole has no error any more. -/
def State.slowWrite (s : State) (a : Nat) (bs : List Byte) : State :=
  (upFrom (ceilDiv a 32) ((a + bs.length) / 32 - ceilDiv a 32)).foldl (fun t k => t.setUpset k 0) (s.memWrite a bs)

/-- Coherent write of bytes to device memory (R318, R346). The slow tier is written directly (R40). -/
def State.cohWrite (s : State) (who : Agent × Option Nat) (a : Nat) (bs : List Byte) : State :=
  if isSlow s.variant a then s.slowWrite a bs
  else (splitLines a bs).foldl (fun t x => t.awrLine who x.1 (placed x.2.1 x.2.2)) s

/-- A partial write of a range needs a sector that reads as uncorrectable (R352). -/
def State.edgePoison (s : State) (a n : Nat) : Bool :=
  n ≠ 0 && isStack s.variant a &&
    ((a % 32 ≠ 0 && s.badSector (a / 32)) || ((a + n) % 32 ≠ 0 && s.badSector ((a + n) / 32)))

/-- Report every uncorrectable sector of a range that a read of it meets. -/
def State.reportRange (s : State) (a n : Nat) : State :=
  if n = 0 then s
  else (upFrom (a / 32) ((a + n - 1) / 32 + 1 - a / 32)).foldl
    (fun t k => if s.badSector k then t.reportUncorr (32 * k) else t) s

/-- What an agent's read that ends in a fault leaves at the directory or the stack (R334, R352): a read that meets an
uncorrectable sector is performed, and a RED line resolved, as far as that can be. -/
def State.noteFault (s : State) (a n : Nat) (code : BitVec 16) : State :=
  if code = 0x300B then (s.deadIn a n).foldl (fun t l => if l.chk then t.deadRead l.line true else t) s
  else if code = 0x300C then (s.agentRead true a n).getD (s.reportRange a n)
  else s

/-- Read bytes wherever they lie: coherently from HBM, directly from the slow tier; a hole reads zeros (R345). -/
def State.devRead (s : State) (a n : Nat) : List Byte :=
  match addrKind s.variant a with
  | .stack _ => s.cohRead a n
  | .slow => s.memRead a n
  | .hole => List.replicate n 0

/-- Write bytes wherever they lie; a write to a hole is dropped (R345). -/
def State.devWrite (s : State) (who : Agent × Option Nat) (a : Nat) (bs : List Byte) : State :=
  match addrKind s.variant a with
  | .stack _ => s.cohWrite who a bs
  | .slow => s.cohWrite who a bs
  | .hole => s

end Sys2Proof.Machine
end

