-- ==== Sys2Proof/Machine/Fault.lean ====
section
/-! DEFINITION. Page tables and translation (R150, R151), completion records (R145 to R147), the stopping of work
(R96, R152, R155) and the context fault, the one way in which a fault stops a context (R152, R157). -/

namespace Sys2Proof.Machine

/-- What an access through a context's tables does (R151). -/
inductive AccKind where
  | read | write | exec
  deriving DecidableEq, Repr

/-- Who makes it: a core, which reaches no HOST page (R151); a DMA command or a Narog job, which alone reach the slow tier
(R40, R370); or another agent. -/
inductive Party where
  | core | mover | agent
  deriving DecidableEq, Repr

/-- A walk from a table downwards, one shift per level; the result is the leaf of one 4 KiB page, or a fault code
(R150, R151). -/
def State.walkFrom (s : State) (p va : Nat) : List Nat → Nat → Except (BitVec 16) Leaf
  | [], _ => .error 0x3013
  | sh :: rest, tab =>
    if !(s.grantedHbm p tab) then .error 0x3014
    else
      let ea := tab + 8 * (va / 2 ^ sh % 512)
      match s.bulkFault ea 8 with
      | some e => .error e
      | none =>
        let e := leNat (s.cohRead ea 8)
        let addr := e / 4096 % 2 ^ 40 * 4096
        let isLeaf := sh = 12 || e / 128 % 2 = 1
        let host := e / 8 % 2 = 1
        if e % 2 = 0 || e / 2 ^ 52 ≠ 0 || e / 256 % 16 ≠ 0 || e / 16 % 8 ≠ 0 then .error 0x3013
        else if isLeaf then
          if sh = 39 || addr % 2 ^ sh ≠ 0 then .error 0x3013
          else
            let page := addr + va % 2 ^ sh / 4096 * 4096
            if !host && !(s.grantedHbm p page) && !(s.grantedSlow p page) then .error 0x3014
            else .ok { base := page, write := e / 2 % 2 = 1, exec := e / 4 % 2 = 1, host := host }
        else if host then .error 0x3013
        else s.walkFrom p va rest addr

/-- Entries that a walk reads: those it goes through, and the one it ends at. -/
def State.tableReads (s : State) (p va : Nat) : List Nat → Nat → List Nat
  | [], _ => []
  | sh :: rest, tab =>
    if !(s.grantedHbm p tab) then []
    else
      let ea := tab + 8 * (va / 2 ^ sh % 512)
      let e := leNat (s.cohRead ea 8)
      if (s.bulkFault ea 8).isSome || e % 2 = 0 || sh = 12 || e / 128 % 2 = 1 || e / 8 % 2 = 1 then [ea]
      else ea :: s.tableReads p va rest (e / 4096 % 2 ^ 40 * 4096)

/-- A walk reads an entry: where neither the LLC nor an L1 holds its sector, from its stack, with the errors that it finds
(R347, R350 to R352). The spec does not say by which request a walk reaches the slice: DESIGN CHOICE (log 156). -/
def State.readTable (s : State) (ea : Nat) : State :=
  if s.bulkFault ea 8 = some 0x300B then s.noteFault ea 8 0x300B
  else if s.covered (ea / 32) then s
  else s.hbmFetch (ea / 128) (sectorsOf [ea])

/-- Partition of a context: the one it was created in (R137, R141). -/
def State.partOf (s : State) (c : Nat) : Nat := (s.ctx c).part

/-- The leaf for an address of a context: a held translation, or a walk (R149, R150). -/
def State.leafOf (s : State) (c va : Nat) : Except (BitVec 16) Leaf :=
  match Tab.get none (s.ctx c).tlb (va / 4096) with
  | some l => .ok l
  | none => s.walkFrom (s.partOf c) va [39, 30, 21, 12] (s.ctx c).ptRoot

/-- An address translated for one access, with the permissions of R151: the leaf and the address. -/
def State.xlate (s : State) (c va : Nat) (k : AccKind) (who : Party) : Except (BitVec 16) (Leaf × Nat) :=
  match s.leafOf c va with
  | .error e => .error e
  | .ok l =>
    let a := l.base + va % 4096
    if k = .write && !l.write then .error 0x3013
    else if k = .exec && !l.exec then .error 0x3013
    else if who = .core && l.host then .error 0x3013
    else if who ≠ .mover && isSlow s.variant a then .error 0x3014
    else .ok (l, a)

/-- The walk for an address, if no translation is held for it: the entries are read. -/
def State.walkReads (s : State) (c va : Nat) : State :=
  match Tab.get none (s.ctx c).tlb (va / 4096) with
  | some _ => s
  | none => (s.tableReads (s.partOf c) va [39, 30, 21, 12] (s.ctx c).ptRoot).foldl State.readTable s

/-- Walk for an address, and hold the translation until a TLB_INVAL ends it (R149). -/
def State.holdTlb (s : State) (c va : Nat) (l : Leaf) : State :=
  let t := s.walkReads c va
  let x := t.ctx c
  t.setCtx c { x with tlb := Tab.set none x.tlb (va / 4096) (some l) }

/-- A range translated page by page: the pieces (host, address, length), or the first fault. -/
def State.xlateRange (s : State) (c va n : Nat) (k : AccKind) (who : Party) :
    Except (BitVec 16) (List (Bool × Nat × Nat)) :=
  if n = 0 then .ok []
  else
    (upFrom (va / 4096) ((va + n - 1) / 4096 + 1 - va / 4096)).mapM (fun pg =>
      let lo := max va (pg * 4096)
      let hi := min (va + n) ((pg + 1) * 4096)
      match s.xlate c lo k who with
      | .error e => .error e
      | .ok (l, a) => .ok (l.host, a, hi - lo))

/-- The walks for a range: page by page, up to the first that fails. -/
def State.walkRange (s : State) (c va n : Nat) : State :=
  let pages := if n = 0 then [] else upFrom (va / 4096) ((va + n - 1) / 4096 + 1 - va / 4096)
  let good := pages.takeWhile (fun pg => (s.leafOf c (4096 * pg)).isOk)
  (pages.take (good.length + 1)).foldl (fun t pg => t.walkReads c (4096 * pg)) s

/-- The host page an access needs is translated (R151); otherwise the context waits for ATS. -/
def State.atsReady (s : State) (c hostAddr : Nat) : Bool := Tab.get false (s.ctx c).ats (hostAddr / 4096)

def State.askAts (s : State) (c hostAddr : Nat) : State :=
  (s.setCtx c { s.ctx c with atsWait := some (hostAddr / 4096) }).emit
    (.atsRequest (s.ctx c).part (s.ctx c).pasid (hostAddr / 4096))

/-- Address of a ring slot. -/
def Ctx.slotAddr (x : Ctx) (i : Nat) : Nat := x.ringBase + 64 * i

/-- Slots of a ring (R143). -/
def Ctx.slots (x : Ctx) : Nat := 2 ^ (x.ringLog2 - 6)

/-- Write bytes of a context's ring, in device or host memory (R138, R146). -/
def State.ringWrite (s : State) (c slot off : Nat) (bs : List Byte) : State :=
  let x := s.ctx c
  if x.ringHost then s.emit (.hostWrite x.part x.pasid (x.slotAddr slot + off) bs)
  else s.cohWrite (.fetch, some c) (x.slotAddr slot + off) bs

/-- A completion interrupt on the context's vector (R146). -/
def State.ctxIrq (s : State) (c : Nat) : State := s.sendMsix (s.partOf c) (s.ctx c).irq none

/-- Bytes 48 and 56 to 63 of a completion record (R146). -/
def State.writeAdmit (s : State) (c slot : Nat) (status : Byte) (result : Nat) (irq : Bool) : State :=
  let t := (s.ringWrite c slot 56 (leBytes 8 result)).ringWrite c slot 48 [status]
  if irq then t.ctxIrq c else t

/-- Byte 49 of a completion record (R146). -/
def State.writeEnd (s : State) (c slot : Nat) (status : Byte) (irq : Bool) : State :=
  let t := s.ringWrite c slot 49 [status]
  if irq then t.ctxIrq c else t

/-- Bytes 48 and 49 written together, bytes 56 to 63 alongside, and the messages after (R146). -/
def State.writeBoth (s : State) (c slot : Nat) (adm fin : Byte) (result : Nat) (irqAdmit irqEnd : Bool) : State :=
  let t := (s.ringWrite c slot 56 (leBytes 8 result)).ringWrite c slot 48 [adm, fin]
  let u := if irqAdmit then t.ctxIrq c else t
  if irqEnd then u.ctxIrq c else u

/-- ENDED, STOPPED_AT_TICK, CANCELLED, FAULTED, NONE (R147). -/
def stEnded : Byte := 0x40
def stTick : Byte := 0x41
def stCancelled : Byte := 0x42
def stFaulted : Byte := 0x43
def stNone : Byte := 0xFE

def State.work (s : State) (id : Nat) : Option Work := s.works.find? (·.id = id)

def State.setWork (s : State) (w : Work) : State :=
  { s with works := s.works.map (fun x => if x.id = w.id then w else x) }

def State.dropWork (s : State) (id : Nat) : State := { s with works := s.works.filter (·.id ≠ id) }

/-- Return a reservation to the budget of its frame (R89, R149, R152). -/
def State.unreserve (s : State) (c : Nat) (f : FrameNo) (units : Nat) : State :=
  let x := s.ctx c
  s.setCtx c { x with resv := Tab.set 0 x.resv f.toNat (Tab.get 0 x.resv f.toNat - units) }

/-- A Kite record: TYPE, partition-local group, COMMIT, body (R470). -/
def kRecord (type sg commit : Nat) (body : List Byte) : List Byte :=
  leBytes 1 type ++ leBytes 1 sg ++ [0, 0] ++ leBytes 4 body.length ++ leBytes 8 commit ++ body

def State.kgroup (s : State) (g : Nat) : KGroup := Tab.get {} s.kgroups g
def State.setKgroup (s : State) (g : Nat) (v : KGroup) : State := { s with kgroups := Tab.set {} s.kgroups g v }
def State.kpart (s : State) (p : Nat) : KPart := Tab.get {} s.kparts p
def State.setKpart (s : State) (p : Nat) (v : KPart) : State := { s with kparts := Tab.set {} s.kparts p v }
def State.sg (s : State) (g : Nat) : Sg := Tab.get {} s.sgs g
def State.setSg (s : State) (g : Nat) (v : Sg) : State := { s with sgs := Tab.set {} s.sgs g v }

/-- Append bytes to a stream of a partition's staging ring; `last` completes it (R466, R473). -/
def State.kAppend (s : State) (p id : Nat) (bs : List Byte) (last : Bool) : State :=
  let k := s.kpart p
  s.setKpart p { k with streams := k.streams.map (fun x =>
    if x.id = id then { x with bytes := x.bytes ++ bs, complete := x.complete || last } else x) }

/-- An open checkpoint is abandoned: its stream ends with ABORT (R467). -/
def State.kAbandon (s : State) (p g : Nat) : State :=
  let k := s.kgroup g
  match k.ckpt with
  | none => s
  | some c =>
    ((s.setKgroup g { k with ckpt := none }).kAppend p c.stream (kRecord 0x04 (g - s.sgBase p) c.commit []) true).addCount
      .kite p 0x814 1

/-- RESULT of a Narog job that ends now (R391): its own, or STOPPED. -/
def NarogJob.result (j : NarogJob) : Nat :=
  match j.phase with
  | .ended r => r
  | .waiting => 7
  | .writing => 7
  | .flipping => 7

/-- END_STATUS of a job that ends now: a job with a RESULT has ended. -/
def Job.endStatus (j : Job) (status : Byte) : Byte :=
  match j with
  | .narog n => if n.result = 7 then status else stEnded
  | .launch _ => status
  | .sort _ => status
  | .dma _ => status
  | .coll _ => status

/-- The checkpoint that an UPDATE of a group opened is abandoned when it ends without a flip (R467); that of an earlier
commit goes on (R487), and so does that of an earlier job while one that waits for its turn ends. -/
def State.kUncommitted (s : State) (p g : Nat) (j : NarogJob) : State :=
  if j.phase ≠ .waiting && (s.kgroup g).ckpt.any (fun c => c.commit = (s.sg g).commit + 1) then s.kAbandon p g else s

/-- What the end of a Narog job changes beside its record (R389, R391, R395, R396): LAST_RESULT, WC_STALE, and for an
UPDATE that did not commit the abort, its event and the end of its checkpoint. -/
def State.narogEnded (s : State) (w : Work) (j : NarogJob) : State :=
  let r := j.result
  let g := s.sg j.sg
  let t := s.latch .narogSg j.sg 0x800 (fun v => (v &&& ~~~(span 19 12)) ||| place r 12 ||| flag (r ≠ 0 && !j.cast) 20)
  let u := t.setSg j.sg { g with wcStale := if r ≠ 0 then g.wcStale || j.wroteWc else g.wcStale && !j.cast }
  if r ≠ 0 && !j.cast then
    ((u.addCount .narog 0 0x808 1).raise .narogSg j.sg 0x5005).kUncommitted w.part j.sg j
  else u

/-- END_INFO of a Narog job (R391). -/
def NarogJob.info (j : NarogJob) : List Byte := leBytes 4 (j.result * 2 ^ 24 + j.tensor * 2 ^ 12)

/-- Work ends: END_STATUS is written, with END_INFO for a Narog job, and the work leaves the list; cancelled work
returns its reservation. -/
def State.endWork (s : State) (w : Work) (status : Byte) : State :=
  let t := match w.job with
    | .narog j => (s.dropWork w.id).narogEnded w j
    | .launch _ => s.dropWork w.id
    | .sort _ => s.dropWork w.id
    | .dma _ => s.dropWork w.id
    | .coll _ => s.dropWork w.id
  match w.ctx with
  | none => t
  | some c =>
    let v := match w.job with
      | .narog j => t.ringWrite c w.slot 52 j.info
      | .launch _ => t
      | .sort _ => t
      | .dma _ => t
      | .coll _ => t
    let u := v.writeEnd c w.slot (w.job.endStatus status) w.irqEnd
    if status = stCancelled then u.unreserve c w.frame w.units else u

/-- The core's kernel stops: instructions in flight, banks, queue, sets and slot bits go; registers and scratch stay
(R96, R221). Requests its L1 has outstanding run on (R97). -/
def Core.halt (c : Core) : Core :=
  { c with
    launch := none, blocks := [], groups := [], ops := [], fences := [], usable := []
    arr := { ({} : ArrState) with comp := c.arr.comp }
    sp := { c.sp with rounds := [], open_ := none, est := [], bound := [], estTile := none } }

def Core.scrRead (c : Core) (a n : Nat) : List Byte := (List.range n).map (fun i => Tab.get 0 c.scratch (a + i))

def Core.scrWrite (c : Core) (a : Nat) (bs : List Byte) : Core :=
  { c with scratch := (bs.zipIdx).foldl (fun m p => Tab.set 0 m (a + p.2) p.1) c.scratch }

/-- First byte of the array region (R193). -/
def Launch.regionBase (l : Launch) : Nat := 1024 * (128 * l.split - l.foot)

/-- What a drain has written by cycle `now`: the 128 values read in cycle start + i are accepted 8 cycles later (R214,
R221). -/
def Core.flushDrain (c : Core) (l : Launch) (now : Nat) (e : ArrEntry) : Core :=
  match e.act, e.started with
  | .drain _ dst _ _ _, some d =>
    c.scrWrite (l.regionBase + 32768 * dst) (e.vals.take (e.vals.length / 128 * min 128 (now - d - 8)))
  | _, _ => c

/-- Rows of a pass that have entered before cycle `now`, and the saturations among the sums it has written by then: row
m enters m cycles after the first and is written 131 cycles later (R206, R207, R228). -/
def ArrEntry.rowsIn (e : ArrEntry) (now : Nat) : Nat :=
  match e.started with
  | some t => min e.fed (now - t)
  | none => 0

def ArrEntry.satsIn (e : ArrEntry) (now : Nat) : Nat :=
  match e.started with
  | some t => (e.sats.take (now - (t + 131))).sum
  | none => 0

/-- SAT_COUNT restarts while a pass runs: what its rows have written so far counts no more (R228). -/
def ArrEntry.restart (e : ArrEntry) (now : Nat) : ArrEntry :=
  match e.started with
  | some t => { e with sats := e.sats.zipIdx.map (fun x => if x.2 < now - (t + 131) then 0 else x.1) }
  | none => e

/-- A pass leaves the array: FEED_CYCLES and SAT_COUNT keep what it has done (R228). -/
def State.notePass (s : State) (k : Nat) (e : ArrEntry) : State :=
  (s.addCount .array k 0xF01 (e.rowsIn s.now)).addCount .array k 0x808 (e.satsIn s.now)

/-- Unwritten entries of a job leave the marble runs and are counted (R303). -/
def State.dropEntries (s : State) (job : Nat) : State :=
  (List.range 4).foldl (fun t d =>
    let m := t.marble d
    let n := ((m.fill :: m.closed.map (·.2)).map (fun l => (l.filter (·.job = job)).length)).sum
    if n = 0 then t
    else (t.setMarble d { m with
        fill := m.fill.filter (·.job ≠ job)
        closed := m.closed.map (fun l => (l.1, l.2.filter (·.job ≠ job))) }).addCount .marble d 0x804 n) s

/-- A flit that an operation has handed to a port and that has not been sent (R458): its DATA, and for an operation on
rings its READY, NORM_UP and NORM_DOWN. -/
def Queued.ofOp (q : Queued) (node : BitVec 15) (flows : List Nat) (id : Option Nat) (frame part : Nat) : Bool :=
  q.at_.isNone && q.flit.src = node &&
    ((q.flit.kind = 2 && flows.contains q.flit.flow) ||
      (q.flit.kind = 3 && (leAt q.flit.payload 0 1 = 1 || leAt q.flit.payload 0 1 = 3 || leAt q.flit.payload 0 1 = 4) &&
        id = some (leAt q.flit.payload 4 2) && leAt q.flit.payload 6 2 = frame && leAt q.flit.payload 8 1 % 32 = part))

/-- COLL_ID of an operation on rings; a PUT has none. -/
def CollJob.ringId (j : CollJob) : Option Nat := if j.op = .put then none else some j.id

/-- A port without the flits of an operation, in its queues and among those it holds. -/
def Port.without (x : Port) (f : Queued → Bool) : Port :=
  { x with
    held := x.held.filter (fun q => !(f q))
    queues := (x.queues.map (fun q => (q.1, q.2.filter (fun g => !(f g))))).filter (fun q => q.2 ≠ []) }

/-- Flows of this node give their slots back; those of collectives are known as over until their numbers are taken again
(R444, R458). -/
def CollState.endTx (c : CollState) (p : TxFlow → Bool) : CollState :=
  { c with
    tx := c.tx.filter (fun x => !(p x))
    gone := c.gone ++ (c.tx.filter (fun x => p x && x.kind = 2)).map (fun x => (x.num, x.dest, x.frame)) }

/-- A stopped collective releases its flow slots and sends nothing more (R458). -/
def State.stopColl (s : State) (w : Work) (j : CollJob) : State :=
  let frame := w.frame.toNat % 65536
  let flows := (s.coll.tx.filter (fun x => x.work = some w.id)).map (·.num)
  let node := BitVec.setWidth 15 (s.cfg .ulink 0 0x104)
  { s with
    coll := { s.coll.endTx (fun x => x.work = some w.id) with
      rx := s.coll.rx.filter (fun x => !(!x.put && x.part = w.part && x.frame = frame && some x.id = j.ringId)) }
    ports := s.ports.map (fun x => (x.1, x.2.without (fun q => q.ofOp node flows j.ringId frame w.part))) }

/-- A launch is charged more than it reserved (R93). -/
def State.countOverdraw (s : State) (w : Work) (charge : Nat) : State :=
  if w.units * 4096 < charge then s.addCount .puppeteer w.part 0x810 1 else s

/-- Charge of a launch up to now: what its ended cores were charged, and the cycles of those that run it (R93). -/
def State.chargeOf (s : State) (w : Work) (l : Launch) : Nat :=
  l.charge + (l.list.map (fun k => if (s.core k).launch = some w.id then s.now - (s.core k).since else 0)).sum

/-- Stop one piece of running work with the effects of the table in R96. A launch that is over on every core, and waits
for its entries in a marble run alone, has been charged already (R93). -/
def State.stopWork (s : State) (w : Work) : State :=
  match w.job with
  | .launch l =>
    (l.list.foldl (fun t k =>
      if (t.core k).launch = some w.id then
        let q := (t.core k).arr.queue
        (q.foldl (fun u e => u.notePass k e) t).setCore k ((q.foldl (fun c e => c.flushDrain l t.now e) (t.core k)).halt)
      else t) (if l.ended.length = l.list.length then s else s.countOverdraw w (s.chargeOf w l))).dropEntries w.id
  | .sort _ => s.dropEntries w.id
  | .dma _ => s
  | .narog _ => s
  | .coll j => s.stopColl w j

/-- End a context's work: running work with one status, work that has not started with CANCELLED. -/
def State.stopCtxWork (s : State) (c : Nat) (runStatus : Byte) : State :=
  (s.works.filter (·.ctx = some c)).foldl (fun t w =>
    if w.running then (t.stopWork w).endWork w runStatus
    else t.endWork w stCancelled) s

/-- CTX_STATUS after a fault: FAULT set, LAST_CODE the code (R154). In DESTROYING too, where R157 names LAST_CODE alone:
DESIGN CHOICE (log 157). -/
def ctxFaultBits (code : BitVec 16) (o : Word) : Word :=
  (o &&& ~~~(span 15 0)) ||| flag true 20 ||| BitVec.setWidth 32 code

/-- The cores that a fault of a context stops are kept as they were for the rest of the cycle, in which faults of their own
are latched too (R188). -/
def State.noteFallen (s : State) (c : Nat) : State :=
  { s with fallen := s.fallen.filter (·.cycle = s.now) ++ (s.works.filter (·.ctx = some c)).flatMap (fun w =>
      match w.job with
      | .launch l => (l.list.filter (fun k => (s.core k).launch = some w.id)).map (fun k =>
          { core := k, cycle := s.now, work := w, was := s.core k })
      | .sort _ => [] | .dma _ => [] | .narog _ => [] | .coll _ => []) }

/-- A fault stops its context (R152); in DESTROYING the teardown goes on and its work ends CANCELLED (R157). -/
def State.ctxFault (s : State) (c : Nat) (code : BitVec 16) : State :=
  match (s.ctx c).st with
  | .active =>
    let t := (s.latch .ctxtab c 0x800 (ctxFaultBits code)).raise .ctxtab c code
    let x := t.ctx c
    ((t.setCtx c { x with st := .stopped, fetched := none, atsWait := none }).noteFallen c).stopCtxWork c stFaulted
  | .destroying =>
    (((s.latch .ctxtab c 0x800 (ctxFaultBits code)).raise .ctxtab c code).noteFallen c).stopCtxWork c stCancelled
  | .stopped => s
  | .free => s
  | .clearing => s

/-- Context of the launch a core runs. -/
def State.coreCtx (s : State) (k : Nat) : Option Nat :=
  (s.core k).launch.bind (fun i => (s.work i).bind (·.ctx))

/-- A fault that a core detects: latched in CORE.FAULT, then the context's fault (R187, R188). -/
def State.coreFault (s : State) (k bslot barrier : Nat) (code : BitVec 16) : State :=
  let t := s.latchLast .core k 0x804 23 (place bslot 18 ||| place barrier 14 ||| place (code.toNat % 4096) 0)
  match s.coreCtx k with
  | some c => t.ctxFault c code
  | none => t

end Sys2Proof.Machine
end

