-- ==== Sys2Proof/Machine/Mailbox.lean ====
section
/-! DEFINITION. The mailbox: how a write of MBX_CMD that names a listed item runs (R57 to R60). -/

namespace Sys2Proof.Machine

/-- ERR of R58. -/
def errDone : BitVec 2 := 0
def errNoItem : BitVec 2 := 1
def errBadCmd : BitVec 2 := 2
def errDenied : BitVec 2 := 3

/-- What an item's own rule gives: ERR, the words of a READ, and the state a WRITE leaves. -/
abbrev ItemRes := BitVec 2 × List Word × State

def itemBad (s : State) : ItemRes := (errBadCmd, [], s)
def itemDenied (s : State) : ItemRes := (errDenied, [], s)
def itemRead (s : State) (ws : List Word) : ItemRes := (errDone, ws, s)
def itemDone (s : State) : ItemRes := (errDone, [], s)

/-- An item as its chapter lists it: number, operations, length, whether it follows CHSEL. -/
structure Item where
  num : Nat
  read : Bool
  write : Bool
  len : Nat
  follows : Bool := true
  deriving DecidableEq, Repr

/-- The command word of a request for an item (R57). -/
def mbxWord (r : MbxReq) (item : Nat) : Word :=
  place r.tag.toNat 24 ||| place r.op.toNat 20 ||| place r.len.toNat 16 ||| place item 0

/-- LEN as a number of words; 0 means 8 (R57). -/
def mbxLen (r : MbxReq) : Nat := if r.len = 0 then 8 else r.len.toNat

/-- Start a command: VALID falls, BUSY rises, and its outcome is kept until it finishes (R59). -/
def State.mbxBegin (s : State) (r : MbxReq) (b : Block) (item : Nat) (err : BitVec 2) (ws : List Word) : State :=
  let c := s.copyOf r.req r.win b
  s.setCopy r.req r.win b { c with cmd := mbxWord r item, valid := false, busy := true, result := (err, ws) }

/-- A write of MBX_CMD reaches the page: the requester reaches it, its block is there, and no command of the requester
runs on it (R47, R48, R60). -/
def State.mbxReady (s : State) (r : MbxReq) (b : Block) : Bool :=
  s.hears r.req b && pageTakes r.req r.win b && globCount s.variant b ≠ 0 && !(s.copyOf r.req r.win b).busy

/-- The instance that CHSEL selects is in a block reset, so that every mailbox command finishes DENIED (R515). -/
def State.mbxInReset (s : State) (r : MbxReq) (b : Block) : Bool :=
  (s.selInst r.req r.win b).any (fun k => s.inReset b k)

/-- ERR that R58 gives before the item's own rule: an instance in reset, an operation or a length not listed, or no
instance of the requester's. R58 gives no order between the last two and the item's own DENIED: BAD_CMD goes first,
DESIGN CHOICE (log 130). -/
def State.mbxErr (s : State) (r : MbxReq) (b : Block) (i : Item) : BitVec 2 :=
  if s.mbxInReset r b then errDenied
  else if !((r.op = 1 && i.read) || (r.op = 2 && i.write)) then errBadCmd
  else if mbxLen r ≠ i.len then errBadCmd
  else if i.follows && (s.selInst r.req r.win b).isNone then errDenied
  else errDone

/-- Run a command on a listed item: `act` is the item's own rule, given the instance, whether it is a WRITE, and the
data words (R54, R59). -/
def State.mbxRun (s : State) (r : MbxReq) (b : Block) (i : Item)
    (act : Nat → Bool → List Word → State → ItemRes) : State :=
  if !(s.mbxReady r b) then s
  else
    let e := s.mbxErr r b i
    if e ≠ errDone then s.mbxBegin r b i.num e []
    else
      let (err, ws, t) := act ((s.selInst r.req r.win b).getD 0) (r.op = 2) ((s.copyOf r.req r.win b).d.take i.len) s
      t.mbxBegin r b i.num err ws

/-- Run a command on an item whose own rule reads memory: `prep` is what the rule acts on, and where `act` has to wait the
command stays BUSY with that, and is carried out when it finishes. -/
def State.mbxRead (s : State) (r : MbxReq) (b : Block) (i : Item)
    (prep : Nat → Bool → List Word → State → List Nat) (act : List Nat → State → Option ItemRes) : State :=
  s.mbxRun r b i (fun k wr ws t =>
    match act (prep k wr ws t) t with
    | some x => x
    | none =>
      (errDone, [], t.setCopy r.req r.win b { t.copyOf r.req r.win b with todo := some (prep k wr ws t) }))

/-- A READ-only item. -/
def State.mbxGet (s : State) (r : MbxReq) (b : Block) (num len : Nat) (f : State → Nat → Nat) : State :=
  s.mbxRun r b { num := num, read := true, write := false, len := len }
    (fun k _ _ t => itemRead t (wordsOf len (f t k)))

/-- A command finishes: BUSY falls, VALID rises, ERR is set, a READ places its words (R59). -/
def ReqCopy.finish (c : ReqCopy) : ReqCopy :=
  if c.busy then
    let (e, ws) := c.result
    { c with
      busy := false, valid := true, err := e, tag := BitVec.ofNat 8 (c.cmd.toNat / 2 ^ 24)
      d := if e = errDone then ws ++ c.d.drop ws.length else c.d
      result := (0, []) }
  else c

/-- A command that waits for memory is carried out, if it can be by now; `act` is its item's own rule. -/
def State.mbxCarryOut (s : State) (r : Req) (w : Window) (b : Block) (act : List Nat → State → Option ItemRes) : State :=
  match (s.copyOf r w b).todo with
  | none => s
  | some a =>
    match act a s with
    | none => s
    | some (err, ws, t) => t.setCopy r w b { t.copyOf r w b with todo := none, result := (err, ws) }

end Sys2Proof.Machine
end

