-- ==== Sys2Proof/Machine/Pages.lean ====
section
/-! DEFINITION. The commands of every register page that need no block's own rule: CHSEL, write-back, EVACK, mailbox
completion, SNAP completion, the scrubber, and the two items every page has (R55, R59, R62, R69 to R84, R117). -/

namespace Sys2Proof.Machine

/-- R55: a value at or above CHCOUNT is ignored and sets BAD. -/
def State.chsel (s : State) (r : Req) (w : Window) (b : Block) (v : Word) : State :=
  if !(s.hears r b) || !(pageTakes r w b) || globCount s.variant b = 0 then s
  else
    let c := s.copyOf r w b
    let n := v.toNat % 65536
    if n < s.chCount w b then s.setCopy r w b { c with inst := BitVec.ofNat 16 n, bad := false }
    else s.setCopy r w b { c with bad := true }

/-- CHSEL_WRITE (R55). -/
def execChselWrite (r : Req) (w : Window) (b : Block) (v : Word) (s : State) : Res := .next (s.chsel r w b v)

/-- The instance whose latch a status offset of a page shows: PARITY_STATUS is the page's, the rest follow CHSEL
(R54, R73). -/
def State.statusInst (s : State) (r : Req) (w : Window) (b : Block) (off : Nat) : Option Nat :=
  if off = 0x018 then (if s.hears r b && pageOk r w b then some scrubber else none) else s.selInst r w b

/-- Number that SEQ of a status register shows: its own, or for EVSEQ its source's (R75, R82). -/
def State.seqNum (s : State) (b : Block) (inst off : Nat) : Word :=
  if off = 0x010 then (s.source (srcKey b inst)).num else s.evnum b inst off

/-- A write to a status register clears its SQ fields when the comparison of R76 holds, and nothing else. -/
def State.writeBack (s : State) (r : Req) (w : Window) (b : Block) (off : Nat) (v : Word) : State :=
  match s.statusInst r w b off with
  | none => s
  | some i =>
    if !(readOnlyPage w b) && s.matchesRead (regKey b i off) r (s.seqNum b i off) (field v 31 24) then s.clearSq b i off
    else s

/-- STATUS_WRITE_BACK (R76). -/
def execStatusWriteBack (x : BarAcc) (v : Word) (s : State) : Res :=
  .next (match BarAcc.acc x with
    | some a => s.writeBack a.req a.win a.blk (a.off.toNat / 4 * 4) v
    | none => s)

/-- R84: on a match PENDING returns to 0 and the request is withdrawn, so that a masked vector no longer holds its message:
DEDUCED (log 131). No EVACK reaches the scrubber's source, which CHSEL cannot select: DESIGN CHOICE (log 132). -/
def State.evack (s : State) (r : Req) (w : Window) (b : Block) (v : Word) : State :=
  match s.selInst r w b with
  | none => s
  | some i =>
    let k := srcKey b i
    let o := s.source k
    if !(readOnlyPage w b) && s.matchesRead (regKey b i 0x010) r o.num (field v 31 24) then
      let t := (s.setSource k { o with pending := 0 }).withdraw k
      if s.alert && !t.alert then t.emit (.pin "ALERT#" true) else t
    else s

/-- EVACK_WRITE (R84). -/
def execEvackWrite (r : Req) (w : Window) (b : Block) (v : Word) (s : State) : Res := .next (s.evack r w b v)

/-- SNAP_DONE (R62): DONE becomes 1 after a TAKE. -/
def execSnapDone (r : Req) (w : Window) (b : Block) (s : State) : Res :=
  let c := s.copyOf r w b
  .next (if c.snapBusy then s.setCopy r w b { c with snapDone := true, snapBusy := false } else s)

/-- A configuration register whose parity does not match, and one whose mismatch the scrubber has found. -/
def State.mismatched (s : State) (b : Block) (inst off : Nat) : Bool := Tab.get false s.regs.par (regKey b inst off)
def State.mismatchFound (s : State) (b : Block) (inst off : Nat) : Bool :=
  Tab.get false s.regs.found (regKey b inst off)

/-- While VANISH_OFF is 1 an entry's ZRUN and run are held at 0 (R406). -/
def State.holdVanish (s : State) (b : Block) (inst off : Nat) : State :=
  if b = .watch && off = 0x100 && bit (s.cfg .watch inst 0x100) 8 then
    { s with watch := Tab.set {} s.watch inst { Tab.get {} s.watch inst with zrun := 0, run := 0 } }
  else s

/-- Bits of a configuration register change without a write (R69): bit 32 is the hidden parity bit. What a reserved bit
holds shows nowhere but in the parity. -/
def State.flip (s : State) (b : Block) (inst off : Nat) (f : BitVec 33) : State :=
  let k := regKey b inst off
  let m := s.mismatched b inst off != oddOnes f
  let g := BitVec.setWidth 32 f &&& cfgMask b off
  State.holdVanish { s with regs := { s.regs with
      cfg := Tab.set (cfgReset b off) s.regs.cfg k (s.cfg b inst off ^^^ g)
      par := Tab.set false s.regs.par k m
      found := if m then s.regs.found else Tab.del k s.regs.found
      accepted := if g = 0 || s.regs.accepted.any (·.1 = k) then s.regs.accepted
        else Tab.put k (s.cfg b inst off) s.regs.accepted } } b inst off

/-- The scrubber finds a mismatch: PARITY_STATUS and the CFG_PARITY event of the page's scrubber (R70, R73). -/
def State.parityEvent (s : State) (b : Block) (inst off : Nat) : State :=
  (s.latchLast b scrubber 0x018 22 (place inst 9 ||| place (off / 4) 0)).raise b scrubber 0x1002

/-- The scrubber checks one register (R69, R70): a mismatch that is new raises CFG_PARITY and puts the instance into
hold. -/
def State.scrubCheck (s : State) (b : Block) (inst off : Nat) : State :=
  if s.mismatched b inst off && !(s.mismatchFound b inst off) then
    State.parityEvent { s with regs := { s.regs with found := Tab.set false s.regs.found (regKey b inst off) true } }
      b inst off
  else s

/-- The registers that the scrubber visits from phase MEMORY on (R69, R505): every one of every instance that is fitted and
not in a block reset (R515). KITE and RNG have one instance (R46) and registers for each of 32 partitions, of which
KITE.MCTL is one for all: that the scrubber names them by the partition, so that LAST_INST of R73 shows it, is a DESIGN
CHOICE (log 43). -/
def State.scrubbed (s : State) (b : Block) (inst off : Nat) : Bool :=
  2 ≤ s.power.phase && !(s.inReset b inst) && isCfg b off && inst < max (globCount s.variant b) (if b = .kite || b = .rng then 32 else 0) &&
    instFitted s.variant b inst && !(b = .kite && off = 0x300 && inst ≠ 0)

/-- The scrubber visits one register (R69); `f` is what changes in it without a write between this visit and the next, so
that the block uses the changed value, and a write may replace it, until the next visit finds it (log 27). -/
def State.scrub (s : State) (b : Block) (inst off : Nat) (f : BitVec 33) : State :=
  if s.scrubbed b inst off then (s.scrubCheck b inst off).flip b inst off f else s

/-- SCRUB_VISIT (R69, R70). -/
def execScrubVisit (b : Block) (inst : Fin 8192) (off : BitVec 12) (f : BitVec 33) (s : State) : Res :=
  .next (s.scrub b inst.val off.toNat f)

/-- EVENT_FRAME (R117): the frame of the last event of the selected instance. -/
def execEventFrame (r : MbxReq) (b : Block) (s : State) : Res :=
  .next (s.mbxGet r b 0xFFF0 2 (fun t k => (t.source (srcKey b k)).lastFrame.toNat))

/-- SCRUB_FRAME (R117): the frame of the last event of the page's scrubber. -/
def execScrubFrame (r : MbxReq) (b : Block) (s : State) : Res :=
  .next (s.mbxRun r b { num := 0xFFF1, read := true, write := false, len := 2, follows := false }
    (fun _ _ _ t => itemRead t (wordsOf 2 (t.source (srcKey b scrubber)).lastFrame.toNat)))

end Sys2Proof.Machine
end

