-- ==== Sys2Proof/Machine/Checks.lean ====
section
/-! DEFINITION. What decides whether an instruction may issue, on the core alone: the load/store queue, trackers and ways
(R169, R310), fences (R336), and the checks of array and sparsity instructions on the projected state (R191, R194, R200,
R202, R212 to R217, R224, R285, R286, R289). -/

namespace Sys2Proof.Machine

/-- The launch of a work, if it is one. -/
def Work.launch? (w : Work) : Option Launch :=
  match w.job with
  | .launch l => some l
  | .sort _ => none
  | .dma _ => none
  | .narog _ => none
  | .coll _ => none

/-- The launch a core runs, with its work. -/
def State.running (s : State) (k : Nat) : Option (Work × Launch) :=
  (s.core k).launch.bind (fun i => (s.work i).bind (fun w => w.launch?.map (fun l => (w, l))))

/-- Lanes of a mask, lowest first. -/
def lanesOf (m : BitVec 32) : List Nat := (List.range 32).filter (fun i => m.getLsbD i)

/-- A thread of a core: 32 × group slot + lane. -/
def thrOf (gs lane : Nat) : Nat := 32 * gs + lane

/-- An operation holds back a fence of this scope (R336). -/
def MemKind.holds (k : MemKind) (module : Bool) : Bool :=
  match k with
  | .load _ _ _ _ _ => true
  | .store _ _ _ => true
  | .add _ _ _ => true
  | .result _ => true
  | .join _ _ => module
  | .dead _ _ _ => module

/-- A fence has completed (R336). -/
def FenceRec.done (f : FenceRec) (c : Core) : Bool :=
  c.ops.all (fun o => f.before ≤ o.id || !(o.kind.holds f.module) || o.thr.all (fun t => !(f.thr.contains t)))

/-- A fence that holds one of these threads is not complete. -/
def Core.fenced (c : Core) (thr : List Nat) : Bool :=
  c.fences.any (fun f => f.thr.any thr.contains && !(f.done c))

/-- Non-empty quarters of a mask (R160, R175). -/
def quarters (m : BitVec 32) : Nat := ((List.range 4).filter (fun q => m.toNat / 2 ^ (8 * q) % 256 ≠ 0)).length

/-- Ways an L1 loses or keeps: sub-array s holds ways 2s and 2s + 1 (R308). -/
def wayIn (n way : Nat) : Bool := way < 2 * n


/-- Ways of a core's L1 (R308). -/
def Core.ways (c : Core) : List Nat := (List.range 16).filter (fun w => !(wayIn c.split w))

def l1Set (line : Nat) : Nat := line % 512

/-- A way of a set with a request outstanding (R310). -/
def Core.wayBusy (c : Core) (set w : Nat) : Bool := c.miss.any (fun m => l1Set m.line = set && m.way = w)

/-- A JOIN of a line is not acknowledged yet. -/
def Core.joinsOf (c : Core) (line : Nat) : Nat := (Tab.get [] c.joins line).length
def Core.joinOut (c : Core) (line : Nat) : Bool := c.joinsOf line ≠ 0

/-- The least recently used of some lines. -/
def lruOf (ls : List L1Line) : Option L1Line :=
  ls.foldl (fun o l => match o with | none => some l | some m => if l.used < m.used then some l else some m) none

/-- A way for a line, and the line that leaves it (R310). -/
def Core.pickWay (c : Core) (line : Nat) : Option (Nat × Option L1Line) :=
  let set := l1Set line
  match c.ways.find? (fun w => !(c.wayBusy set w) && c.l1.all (fun l => l1Set l.line ≠ set || l.way ≠ w)) with
  | some w => some (w, none)
  | none =>
    (lruOf (c.l1.filter (fun l => l1Set l.line = set && c.ways.contains l.way && !(c.wayBusy set l.way) &&
      !(c.joinOut l.line)))).map (fun l => (l.way, some l))

/-- Lines that an operation still waits for. -/
def MemOp.lines (o : MemOp) : List Nat :=
  match o.kind with
  | .load _ _ _ need _ => (need.map (·.2 / 128)).dedup
  | .store l _ _ => [l]
  | .add l _ _ => [l]
  | .dead l _ sent => if sent then [] else [l]
  | .join _ _ => []
  | .result _ => []

/-- Operations of which a request has still to be sent: their instructions are in the load/store queue (R169). -/
def Core.unsent (c : Core) : List MemOp := c.ops.filter (fun o => o.lines.any (fun l => c.miss.all (·.line ≠ l)))

/-- The load/store queue holds 64 memory instructions (R169). -/
def Core.lsuFull (c : Core) : Bool := 64 ≤ (c.unsent.map (·.ins)).dedup.length

/-- A request of some threads has still to be sent (R310). -/
def Core.stalled (c : Core) (ts : List Nat) : Bool := c.unsent.any (fun o => o.thr.any ts.contains)

/-- A line that is absent from the L1 and asked for by nobody finds a way and a tracker (R169, R310). -/
def Core.lineRoom (c : Core) (line : Nat) : Bool :=
  c.miss.any (·.line = line) || (c.l1Find line).isSome || (c.miss.length < 256 && (c.pickWay line).isSome)

/-- Operand format of a code (R190). -/
def arrFmt? (c : Nat) : Option Fmt := [Fmt.bf16, .fp16, .e4m3, .e5m2, .e3m2, .e2m3, .e2m1, .int8, .int4][c]?

/-- Class k of an operand format (R189). -/
def classOf : Fmt → Nat
  | .bf16 => 1 | .fp16 => 1 | .fp32 => 1 | .e4m3 => 2 | .e5m2 => 2 | .e3m2 => 2 | .e2m3 => 2 | .int8 => 2
  | .e2m1 => 4 | .int4 => 4

/-- A narrow floating-point format, which reads scales (R192). -/
def scaled (f : Fmt) : Bool := f.isNarrow && !f.isInt

def slotBit (n : Nat) : BitVec 14 := BitVec.ofNat 14 (2 ^ n)

/-- Bytes of a slot, running on into the next one. -/
def Core.slotBytes (c : Core) (l : Launch) (slot n : Nat) : List Byte := c.scrRead (l.regionBase + 32768 * slot) n

/-- HDR of a compressed tile names a second slot (R275). -/
def Core.twoSlots (c : Core) (l : Launch) (slot : Nat) : Bool := (leAt (c.slotBytes l slot 20) 16 4).testBit 16

/-- Slots that a pass reads (R281). -/
def Core.passSlots (c : Core) (l : Launch) (o : MmOp) : BitVec 14 :=
  slotBit o.slot ||| (if o.sparse && c.twoSlots l o.slot then slotBit (o.slot + 1) else 0)


/-- Slots of a launch (R193). -/
def Launch.slots (l : Launch) : Nat := l.foot / 32


/-- Destination slots of a drain (R214). -/
def drainSlots (dst : Nat) (ofmt : Fmt) (int32 : Bool) : BitVec 14 :=
  slotBit dst ||| (if int32 || ofmt = .fp32 then slotBit (dst + 1) else 0)

/-- A round as the issue checks see it: its PID, rows, sp.est count, and whether sp.chk was issued. -/
structure ProjRound where
  pid : Nat
  rows : Nat
  ests : Nat
  checked : Bool
  deriving DecidableEq, Repr

/-- The state that every issued instruction leaves once it has finished (R202). -/
structure Proj where
  tr : BitVec 14
  sv : BitVec 14
  rs : BitVec 14
  act : Option Fmt
  sh : Option Fmt
  bank0 : Option BankHold
  bank1 : Option BankHold
  estTile : Bool
  rounds : List ProjRound
  open_ : Option Nat
  filtPid : Nat
  filt : FiltMode
  deriving DecidableEq, Repr

def Proj.bank (p : Proj) (b : Nat) : Option BankHold := if b = 0 then p.bank0 else p.bank1
def Proj.setBank (p : Proj) (b : Nat) (h : Option BankHold) : Proj :=
  if b = 0 then { p with bank0 := h } else { p with bank1 := h }

def Proj.untile (p : Proj) (m : BitVec 14) : Proj := { p with tr := p.tr &&& ~~~m, sv := p.sv &&& ~~~m }

/-- The bank of a pass: INIT takes it, with the tag of a filtered pass; PRED and MAKEUP passes count (R213, R289). -/
def holdAfter (h : Option BankHold) (o : MmOp) : BankHold :=
  let base : BankHold := match h with
    | some x => if o.add then x else { col := o.col, op := o.op, int := o.fmt.isInt || o.op = 5 }
    | none => { col := o.col, op := o.op, int := o.fmt.isInt || o.op = 5 }
  if !o.sparse then base
  else
    match o.filt with
    | .none => base
    | .pred => { base with pid := some o.pid, predPasses := base.predPasses + 1 }
    | .makeup => { base with pid := some o.pid, makeupPasses := base.makeupPasses + 1 }

/-- A round closes when its bank is drained (R290). -/
def Proj.closeRound (p : Proj) (pid : Option Nat) : Proj :=
  match pid with
  | none => p
  | some q => { p with rounds := p.rounds.filter (·.pid ≠ q), open_ := if p.open_ = some q then none else p.open_ }

/-- What remains for an entry to do, done. -/
def Proj.entry (c : Core) (l : Launch) (p : Proj) (e : ArrEntry) : Proj :=
  match e.act with
  | .ready m => { p with tr := p.tr ||| m }
  | .unready m => p.untile m
  | .lds slot _ _ => { p with sv := p.sv ||| slotBit slot }
  | .ldsh slot f _ rel =>
    let q := if e.started.isSome then p else { p with sh := some f }
    if rel then q.untile (slotBit slot) else q
  | .mm o =>
    let q := if e.started.isSome then p
      else
        let r := if o.sw then { p with act := p.sh, sh := p.act } else p
        r.setBank o.bank (some (holdAfter (r.bank o.bank) o))
    if o.rel then q.untile (c.passSlots l o) else q
  | .drain bank dst ofmt int32 mode =>
    let m := if mode = 2 then 0 else drainSlots dst ofmt int32
    let q := { p with tr := p.tr ||| m, rs := p.rs &&& ~~~m }
    if e.started.isSome then q
    else
      let r := q.closeRound ((q.bank bank).bind (·.pid))
      if mode = 1 then r else r.setBank bank none
  | .filt pid mode => { p with filtPid := pid, filt := mode }
  | .ldw _ => { p with estTile := true }
  | .stat _ _ _ => p
  | .est pid _ rows add =>
    if e.started.isSome then p
    else if add then { p with rounds := p.rounds.map (fun r => if r.pid = pid then { r with ests := r.ests + 1 } else r) }
    else { p with
      rounds := { pid := pid, rows := rows, ests := 1, checked := false } :: p.rounds.filter (·.pid ≠ pid)
      open_ := some pid }
  | .chk pid => { p with
      rounds := p.rounds.map (fun r => if r.pid = pid then { r with checked := true } else r)
      open_ := if p.open_ = some pid then none else p.open_ }

/-- The projected state of a core (R202). -/
def Core.proj (c : Core) (l : Launch) : Proj :=
  c.arr.queue.foldl (Proj.entry c l)
    { tr := c.arr.tr, sv := c.arr.sv, rs := c.arr.rs
      act := c.arr.active.map (·.fmt), sh := c.arr.shadow.map (·.fmt)
      bank0 := c.arr.bank0.hold, bank1 := c.arr.bank1.hold
      estTile := c.sp.estTile.isSome
      rounds := c.sp.rounds.map (fun r => { pid := r.pid, rows := r.rows, ests := r.ests, checked := r.checked })
      open_ := c.sp.open_, filtPid := c.sp.filtPid, filt := c.sp.filt }

/-- Outcome of an issue check: a fault code, not ready with the cause of R184 charged, or the action to queue and the
slots it reserves. -/
inductive ArrChk where
  | fault (code : BitVec 16)
  | wait (cause : Nat)
  | ok (a : ArrAct) (rs : BitVec 14)
  deriving DecidableEq, Repr

def illegal : ArrChk := .fault 0x3002
def outside : ArrChk := .fault 0x3003

/-- Formats that operations other than MAC accept (R212). -/
def opFmt : Fmt → Bool
  | .int8 => true | .e4m3 => true | .e5m2 => true | .bf16 => true
  | .fp32 => false | .fp16 => false | .e3m2 => false | .e2m3 => false | .e2m1 => false | .int4 => false

/-- Two different formats that may meet: E4M3 with E5M2 or either FP6 format, and BF16 with FP16 (R191). -/
def mixOk (a b : Fmt) : Bool :=
  (a = .e4m3 && (b = .e5m2 || b = .e3m2 || b = .e2m3)) || (a = .bf16 && b = .fp16)

/-- Streamed and stationary formats that may meet (R191, R212). -/
def pairOk (op : Nat) (x w : Fmt) : Bool :=
  (x = w || mixOk x w || mixOk w x) && (op = 0 || (opFmt x && opFmt w))

/-- Row limit of an axis (R215). -/
def rowLimit (f : Fmt) (col : Bool) : Nat := if col then 128 / classOf f else 128

/-- The filter rules of a SPARSE pass (R289). -/
def Proj.filterOk (p : Proj) (o : MmOp) : Bool :=
  !o.sparse || p.filt = .none ||
    (!o.col &&
      (!o.add || (match p.bank o.bank with
        | some h => h.pid = some p.filtPid && h.predPasses + h.makeupPasses < 1024
        | none => false)) &&
      (p.filt ≠ .makeup || p.rounds.any (fun r => r.pid = p.filtPid && r.checked)))

/-- ADD needs a bank held with the same axis, OP and accumulator type (R213). -/
def Proj.addOk (p : Proj) (o : MmOp) : Bool :=
  !o.add || (match p.bank o.bank with
    | some h => h.col = o.col && h.op = o.op && h.int = (o.fmt.isInt || o.op = 5)
    | none => false)

/-- The checks of arr.mm (R191, R212, R213, R215 to R217, R224, R278, R289). Which fault an instruction with several takes is
not stated: DESIGN CHOICE (log 160). -/
def Proj.mmCheck (p : Proj) (l : Launch) (colOff : Bool) (f : MmForm) : ArrChk :=
  if l.slots ≤ f.slot.val then outside
  else if f.col && colOff then .fault 0x3006
  else
    match arrFmt? f.fmt.toNat, (if f.sw then p.sh else p.act) with
    | some x, some w =>
      let o : MmOp := { col := f.col, op := f.op, fmt := x, slot := f.slot.val, rows := f.rows, bank := f.bank.val
                        add := f.add, sw := f.sw, pred := f.pred, sparse := f.sparse, rel := f.rel
                        pid := p.filtPid, filt := p.filt }
      if 5 < f.op.toNat || !(pairOk f.op.toNat x w) || f.rows = 0 || rowLimit x f.col < f.rows ||
          (f.sparse && f.op ≠ 0) || !(p.addOk o) || !(p.filterOk o) then illegal
      else if !(p.tr.getLsbD o.slot) || (scaled x && !(p.sv.getLsbD o.slot)) then .wait 8
      else if !o.add && (p.bank o.bank).isSome then .wait 9
      else .ok (.mm o) 0
    | _, _ => illegal

/-- The checks of arr.ldsh (R190, R194, R216, R217). -/
def Proj.ldshCheck (p : Proj) (l : Launch) (slot fmt : Nat) (col rel : Bool) : ArrChk :=
  if l.slots ≤ slot then outside
  else
    match arrFmt? fmt with
    | none => illegal
    | some f =>
      if !(p.tr.getLsbD slot) || (scaled f && !(p.sv.getLsbD slot)) then .wait 8 else .ok (.ldsh slot f col rel) 0

/-- The output format of a drain code (R190): the format and whether it is INT32. -/
def drainFmt? (c : Nat) : Option (Fmt × Bool) :=
  if c = 0 then some (.bf16, false)
  else if c = 1 then some (.fp16, false)
  else if c = 9 then some (.fp32, false)
  else if c = 10 then some (.fp32, true)
  else none

def DrainMode.num : DrainMode → Nat
  | .release => 0
  | .keep => 1
  | .discard => 2

/-- The checks of arr.drain (R194, R214, R216, R217), illegal operands before those out of range (log 160). DISCARD ignores
DST and OFMT (log 25). -/
def Proj.drainCheck (p : Proj) (l : Launch) (bank dst ofmt : Nat) (mode : DrainMode) : ArrChk :=
  match p.bank bank with
  | none => illegal
  | some h =>
    if mode = .discard then .ok (.drain bank 0 .fp32 h.int 2) 0
    else
      match drainFmt? ofmt with
      | none => illegal
      | some (f, int32) =>
        let wide := int32 || f = .fp32
        if h.int ≠ int32 then illegal
        else if l.slots < dst + (if wide then 2 else 1) then outside
        else
          let m := drainSlots dst f int32
          if (p.tr ||| p.rs) &&& m ≠ 0 then .wait 9 else .ok (.drain bank dst f int32 (DrainMode.num mode)) m

/-- Slots of a mask beyond the slot count. -/
def maskOutside (l : Launch) (m : BitVec 14) : Bool := m.toNat / 2 ^ l.slots ≠ 0

/-- The estimator and check instructions (R285, R286). -/
def Proj.estCheck (p : Proj) (l : Launch) (pid slot rows : Nat) (add : Bool) : ArrChk :=
  if l.slots ≤ slot then outside
  else if 63 < pid || rows = 0 || 128 < rows then illegal
  else if add && !(p.open_ = some pid && p.rounds.any (fun r => r.pid = pid && r.rows = rows && r.ests < 256)) then illegal
  else if !(p.tr.getLsbD slot) || !(p.sv.getLsbD slot) || !p.estTile || (!add && p.open_.isSome) then .wait 8
  else .ok (.est pid slot rows add) 0

/-- The governor admits an arr.mm: no more than A in 16 cycles (R105, R517). -/
def Core.govAdmits (c : Core) (now level : Nat) : Bool :=
  16 ≤ level || c.mmSpan ≠ now / 16 + 1 || c.mmCount < level

/-- The check of sp.ldw (R285, R286). -/
def Proj.ldwCheck (p : Proj) (l : Launch) (slot : Nat) : ArrChk :=
  if l.slots ≤ slot then outside
  else if !(p.tr.getLsbD slot) || !(p.sv.getLsbD slot) then .wait 8
  else .ok (.ldw slot) 0

/-- The check of an array or sparsity instruction by its operands; `colOff` is COL_PATH_OFF (R224). -/
def ArrTry.check (c : Core) (l : Launch) (colOff : Bool) (now level : Nat) : ArrTry → ArrChk
  | .ldsh slot fmt col rel => (c.proj l).ldshCheck l slot fmt col rel
  | .mm f =>
    match (c.proj l).mmCheck l colOff f with
    | .ok a rs => if c.govAdmits now level || 8 ≤ c.arr.queue.length then .ok a rs else .wait 12
    | .wait x => .wait x
    | .fault e => .fault e
  | .drain bank dst ofmt mode => (c.proj l).drainCheck l bank dst ofmt mode
  | .ldw slot => (c.proj l).ldwCheck l slot
  | .est pid slot rows add => (c.proj l).estCheck l pid slot rows add
  | .other => .ok (.filt 0 .none) 0

/-- The cause of R184 for which an array or sparsity instruction cannot issue now: what its check gives, else that the
queue of eight is full; 0 when nothing holds it. -/
def ArrTry.cause (c : Core) (l : Launch) (colOff sparse : Bool) (now level : Nat) (t : ArrTry) : Nat :=
  match t.check c l colOff now level with
  | .wait x => x
  | .fault _ => 0
  | .ok _ _ => if 8 ≤ c.arr.queue.length then (if sparse then 8 else 9) else 0

/-- The load/store unit is held by an instruction of an earlier cycle, whose lines or words conflict in a bank (R170,
R311); an instruction that took it in this cycle leaves no cause. -/
def Core.bankBusy (c : Core) (now : Nat) : Bool := now < c.ports.memory && !(c.busy.getLsbD 2)

/-- What holds a presented instruction now, as a cause of R184, its registers being there: 0 when it is nothing of that
list. -/
def Core.heldCause (c : Core) (l : Launch) (colOff : Bool) (now level : Nat) (h : Held) : Nat :=
  let port := if h.engine = 2 && c.bankBusy now then 6 else 0
  match h.why with
  | .taken => port
  | .fence => port
  | .lsu ls => if c.lsuFull || ls.any (fun x => !(c.lineRoom x)) then 7 else port
  | .region m => if c.arr.rs &&& m ≠ 0 then 4 else port
  | .cause x n => if now < n then x else port
  | .array t => t.cause c l colOff (h.engine = 4) now level
  | .rng => port

end Sys2Proof.Machine
end

