-- ==== Sys2Proof/Machine/Clock.lean ====
section
/-! DEFINITION. The passing of ACLK cycles, and the causes that the stall counters are charged with (R183, R184, R186). -/

namespace Sys2Proof.Machine

/-- A thread waits for a load that missed in L1. -/
def Core.waitsFar (c : Core) (t : Nat) : Bool :=
  c.ops.any (fun o =>
    match o.kind with
    | .load _ _ _ need _ => need.any (·.1 = t)
    | .store _ _ _ => false
    | .add _ _ _ => false
    | .join _ _ => false
    | .dead _ _ _ => false
    | .result _ => false)

/-- The core clears itself for some context (R155). -/
def Core.clearing (c : Core) : Bool := c.clearFor ≠ []

/-- A thread waits for data that scratch or an L1 hit is about to return. -/
def Core.waitsNear (c : Core) (t : Nat) : Bool :=
  c.ops.any (fun o =>
    match o.kind with
    | .load _ _ _ need _ => need = [] && o.thr.contains t
    | .result vals => vals.any (·.2.1 = t)
    | .store _ _ _ => false
    | .add _ _ _ => false
    | .join _ _ => false
    | .dead _ _ _ => false)

/-- Causes that an engine may be charged while its core runs a launch and it accepts nothing (R184): all but BUSY, IDLE
and CLEAR. -/
def engineCauses : Nat → List Nat
  | 0 => [2, 3, 4, 5, 6, 7, 8, 9, 10, 11, 12, 13, 15]
  | 1 => [2, 3, 4, 5, 10, 11, 13, 15]
  | 2 => [2, 3, 4, 5, 6, 7, 10, 11, 13, 15]
  | 3 => [2, 3, 4, 5, 8, 9, 10, 11, 12, 13, 15]
  | _ => [2, 3, 4, 5, 8, 10, 11, 13, 15]

/-- Key of a register of a thread among a core's registers and predicates; predicate p stands as number 257 + p. -/
def depKey (t r : Nat) : Nat := 512 * t + r

/-- A load has still to bring register r to thread t: from beyond L1 (`far`), or from scratch or an L1 hit (R167). -/
def Core.loadPending (c : Core) (far : Bool) (t r : Nat) : Bool :=
  c.ops.any (fun o =>
    match o.kind with
    | .load d _ _ need _ => d = r && o.thr.contains t && !(o.lost.contains t) && need.any (·.1 = t) = far
    | .result vals => !far && vals.any (fun v => v.1 = r && v.2.1 = t)
    | .store _ _ _ => false
    | .add _ _ _ => false
    | .join _ _ => false
    | .dead _ _ _ => false)

/-- A status instruction in the array queue has still to write register r of thread t (R285). -/
def ArrEntry.statOf (e : ArrEntry) (t r : Nat) : Bool :=
  match e.act with
  | .stat d thr _ => d = r && thr.contains t
  | _ => false

/-- An instruction other than a load has still to deliver register or predicate r to thread t (R168, R285). -/
def Core.depPending (c : Core) (now t r : Nat) : Bool :=
  now < Tab.get 0 c.usable (depKey t r) || c.arr.queue.any (·.statOf t r)

/-- A register or predicate that an earlier instruction has still to write (R167). -/
def Core.pendingReg (c : Core) (now t r : Nat) : Bool :=
  c.loadPending true t r || c.loadPending false t r || c.depPending now t r

/-- The cause of a strand whose next instruction is known, in the order of R183: what it waits for among the registers
it reads, then what holds it now, or a request of its own that has found no way or no tracker (R310). An engine that is
merely taken by other work leaves no cause of R184 (log 38). -/
def Core.heldCauses (c : Core) (l : Launch) (colOff : Bool) (now level : Nat) (ts : List Nat) (h : Held) : List Nat :=
  let x := c.heldCause l colOff now level h
  if ts.any (fun t => h.src.any (c.loadPending true t)) then [5]
  else if ts.any (fun t => h.src.any (c.loadPending false t)) then [4]
  else if ts.any (fun t => h.src.any (c.depPending now t)) then [3]
  else if x ≠ 0 && x ≠ 6 then [x]
  else if c.stalled ts then [7]
  else if x = 6 then [6]
  else [15, 3]

/-- Causes that the state of a strand leaves open (R183, R184). PROMOTE, BARRIER and YIELD shut out what stands behind
them in the order of R183; FETCH stands in front of them, and only an instruction that was presented is known to have
been fetched (log 38). -/
def Core.strandCauses (c : Core) (l : Launch) (colOff : Bool) (now level : Nat) (g : Group) (t : Strand) : List Nat :=
  let fetch := if t.held.isSome then [] else [15]
  if !g.active || now < g.promoted then fetch ++ [13]
  else
    match t.wait with
    | .parked _ => fetch ++ [10]
    | .yielding _ _ => fetch ++ [11]
    | .run =>
      let ts := (lanesOf t.mask).map (thrOf g.gs)
      match t.held with
      | some h => c.heldCauses l colOff now level ts h
      | none =>
        (if ts.any c.waitsFar then [5] else []) ++ (if ts.any c.waitsNear then [4] else []) ++ [15, 3, 8, 9] ++
          (if c.govAdmits now level then [] else [12]) ++
          (if c.lsuFull || c.stalled ts || 256 ≤ c.miss.length then [7] else []) ++
          (if c.bankBusy now then [6] else [])

/-- Every strand of a core with its group. -/
def Core.allStrands (c : Core) : List (Group × Strand) := c.groups.flatMap (fun g => g.strands.map (fun t => (g, t)))

/-- Strands in the order of R183: the least recently issued first, ties to the lower group slot. -/
def byAge (ps : List (Group × Strand)) : List (Group × Strand) :=
  List.insertionSort (fun p q => p.2.issued < q.2.issued || (p.2.issued = q.2.issued && p.1.gs ≤ q.1.gs)) ps

/-- Causes that an engine e other than ISSUE may be charged, from the strands in the order of R183 with the causes that each
leaves open: the first whose next instruction targets it settles the cause, one with an unknown next instruction may be
that strand, and NO_WORK is charged when there is none. -/
def engineFrom (e : Nat) : List (Strand × List Nat) → List Nat
  | [] => [2]
  | (t, cs) :: ps =>
    let mine := (engineCauses e).filter cs.contains
    match t.held with
    | some h => if h.engine = e then mine else engineFrom e ps
    | none => (mine ++ engineFrom e ps).dedup

/-- Causes that an engine may be charged in a cycle (R183): ISSUE takes its own from the least recently issued strand of
all. -/
def Core.causes (c : Core) (l : Launch) (colOff : Bool) (now level e : Nat) : List Nat :=
  let ps := (byAge c.allStrands).map (fun p => (p.2, c.strandCauses l colOff now level p.1 p.2))
  if e = 0 then
    match ps with
    | [] => [2]
    | p :: _ => (engineCauses 0).filter p.2.contains
  else engineFrom e ps

/-- A number of cycles shared out freely over the causes that are open (log 38). -/
def shareOut : List Nat → Nat → Nat → List (Nat × Nat)
  | [], _, _ => []
  | [c], n, _ => [(c, n)]
  | c :: cs, n, k =>
    let x := (Config.freeWord k).toNat % (n + 1)
    (c, x) :: shareOut cs (n - x) (k + 1)

/-- What `n` cycles from `now` on, in which nothing changes, charge to an engine of a core (R183): CLEAR during a clear of
a teardown or of a launch's start (R153, R155, R309). -/
def Core.charges (c : Core) (l? : Option Launch) (colOff : Bool) (now level e n free : Nat) : List (Nat × Nat) :=
  if c.clearing then [(14, n)]
  else
    match l? with
    | none => [(1, n)]
    | some l =>
      if now < c.clearTo then [(14, n)]
      else if c.busy.getLsbD e then [(0, n)]
      else shareOut (c.causes l colOff now level e) n free

/-- The cycles at which a core's causes may change by time alone: the end of the cycle in progress, of a clear, of a bank
conflict, of a promotion, of a latency, of a wait up to a cycle, and of a span of the governor. -/
def Core.edges (c : Core) (now : Nat) : List Nat :=
  let waits := c.allStrands.filterMap (fun p => p.2.held.bind (fun h =>
    match h.why with
    | .cause _ n => some n
    | .array _ => some ((now / 16 + 1) * 16)
    | .taken => none | .fence => none | .lsu _ => none | .region _ => none | .rng => none))
  [now + 1, c.clearTo, c.ports.memory] ++ c.groups.map (·.promoted) ++ c.usable.map (·.2) ++ waits

/-- Spans of cycles from `now` up to `fin`, cut at some cycles in between: start and length. -/
def spansOf (now fin : Nat) : List Nat → List (Nat × Nat)
  | [] => [(now, fin - now)]
  | x :: xs => (now, x - now) :: spansOf x fin xs

/-- Charge the five engines of a core for a span in which nothing changes. -/
def State.chargeSpan (s : State) (k : Nat) (c : Core) (l? : Option Launch) (now n : Nat) : State :=
  (List.range 5).foldl (fun t e =>
    let cs := c.charges l? (bit (s.cfg .array k 0x100) 1) now s.govLevel e n t.free
    let u := cs.foldl (fun u x => u.addCount .stall k (0x800 + 4 * (16 * e + x.1)) x.2) t
    { u with free := u.free + 16 }) s

/-- Charge the five engines of a core for `n` cycles, unless its counters hold (R185). An engine that accepted an
instruction did so in the cycle that comes first. -/
def State.chargeCore (s : State) (n k : Nat) : State :=
  if !(bit (s.cfg .stall k 0x100) 0) || s.inReset .stall k then s
  else
    let c := s.core k
    let l? := (s.running k).map (·.2)
    let cuts := if l?.isNone then []
      else (List.insertionSort (· ≤ ·) (c.edges s.now).dedup).filter (fun x => s.now < x && x < s.now + n)
    (spansOf s.now (s.now + n) cuts).foldl (fun t x =>
      t.chargeSpan k (if x.1 = s.now then c else { c with busy := 0 }) l? x.1 x.2) s

/-- The engines' acceptances belong to the cycle that ends. -/
def State.endBusy (s : State) : State := { s with cores := s.cores.map (fun p => (p.1, { p.2 with busy := 0 })) }

/-- Charge every core for `n` cycles. -/
def State.charge (s : State) (n : Nat) : State :=
  if s.ready && n ≠ 0 then ((List.range 384).foldl (fun t k => t.chargeCore n k) s).endBusy else s

end Sys2Proof.Machine
end

