-- ==== Sys2Proof/Machine/Frame.lean ====
section
/-! DEFINITION. The frame tick, the steps laid out as frames, the start waves, and Strings (R85 to R118). -/

namespace Sys2Proof.Machine

/-- L_f (R86). -/
def FrameState.len (fr : FrameState) : Nat := ((fr.period : Int) + fr.adj).toNat

def State.frameLen (s : State) : Nat := s.fr.len

/-- The closing window has begun, so that L_f is fixed (R86, R87). -/
def FrameState.closed (fr : FrameState) : Bool := fr.closing || fr.len - 2048 ≤ fr.cycle

/-- Admission into frame f of the work is closed (R86, R91 check 3). -/
def State.closedNow (s : State) : Bool := s.fr.closed

/-- Let the frame reach a cycle: the cycles up to it pass. -/
def State.toCycle (s : State) (n : Nat) : State :=
  if s.fr.cycle < n then
    let t := s.charge (n - s.fr.cycle)
    { t with now := t.now + (n - s.fr.cycle), fr := { t.fr with cycle := n } }
  else s

/-- Kinds of frame, numbered as FRAME_STAT.KIND (R101, R115). -/
inductive FrameKind where
  | general | forward | reduce | update | gather
  deriving DecidableEq, Repr

def FrameKind.code : FrameKind → Nat
  | .general => 0 | .forward => 1 | .reduce => 2 | .update => 3 | .gather => 4

/-- MODE and FB_FRAMES of a partition (R101). -/
def State.stepMode (s : State) (p : Nat) : Bool := bit (s.cfg .puppeteer p 0x100) 31
def State.fbFrames (s : State) (p : Nat) : Nat := field (s.cfg .puppeteer p 0x100) 11 0

/-- Kind of frame f for a partition, from the layout in force (R101, R103). -/
def State.kindOf (s : State) (p : Nat) (f : FrameNo) : FrameKind :=
  let base := (s.part p).stepBase.toNat
  if !(s.stepMode p) || f.toNat < base then .general
  else
    let n := s.fbFrames p
    let pos := (f.toNat - base) % (n + 3)
    if pos < n then .forward else if pos = n then .reduce else if pos = n + 1 then .update else .gather

/-- Step number of frame f; 0 in MODE 0 and before STEP_BASE (R101, R115). -/
def State.stepOf (s : State) (p : Nat) (f : FrameNo) : Nat :=
  let base := (s.part p).stepBase.toNat
  if !(s.stepMode p) || f.toNat < base then 0 else (f.toNat - base) / (s.fbFrames p + 3)

/-- STRINGS.ROLE (R106). -/
def State.role (s : State) : Nat := field (s.cfg .strings 0 0x104) 1 0

/-- The node sends markers: the master, or a backup master that has taken over (R107, R112). A takeover outlives a
rewrite of ROLE: DESIGN CHOICE (log 136). -/
def State.isMaster (s : State) : Bool := s.role = 2 || (s.role = 3 && s.fr.tookOver)

/-- The node follows markers: a follower, or a backup master that has not taken over (R106). -/
def State.isFollower (s : State) : Bool := s.role = 1 || (s.role = 3 && !s.fr.tookOver)

/-- A node that begins to follow while FREE is 0: a period that it set for itself before has no effect on it (R113). -/
def State.beginsFollowing (s : State) (old : State) : State :=
  if s.isFollower && !old.isFollower && !s.fr.free then { s with fr := { s.fr with pend := none } } else s

def State.port (s : State) (i : Nat) : Port := Tab.get {} s.ports i
def State.setPort (s : State) (i : Nat) (v : Port) : State := { s with ports := Tab.set {} s.ports i v }

/-- Trained ports: those that are UP (R107, R423). -/
def State.upPorts (s : State) : List Nat := (List.range 6).filter (fun i => (s.port i).st = .up)

def State.nodeId (s : State) : BitVec 15 := BitVec.setWidth 15 (s.cfg .ulink 0 0x104)

/-- Send a marker on some ports (R107, R108). -/
def State.sendMarker (s : State) (ps : List Nat) (m : Marker) : State :=
  ps.foldl (fun t p => t.setPort p { t.port p with markers := (t.port p).markers ++ [m] }) s

/-- FRAME_OVERRUN of a context for the frame that ended: the partition's instance records it, and CTX_STATUS latches
OVERRUN (R98, R115, R154, R540). -/
def State.overrun (s : State) (p c : Nat) (f : FrameNo) : State :=
  (((s.latchLast .puppeteer p 0x804 23 (place c 0)).addCount .puppeteer p 0x808 1).latch .ctxtab c 0x800
    (· ||| flag true 19)).raiseAt .puppeteer p 0x1001 f

/-- Frame work of the frame that ends is stopped, and each context with work that is stopped, not complete, has one
FRAME_OVERRUN (R96, R98). Work whose last write has been accepted (`done`) is complete, and ends once its writes are visible
(R338). -/
def State.stopFrame (s : State) (f : FrameNo) (done : Work → Bool) : State :=
  let ws := s.works.filter (fun w => w.frame = f && w.ctx.isSome && !(done w))
  let t := ws.foldl (fun t w => (if w.running then t.stopWork w else t).endWork w stTick) s
  let cut := ws.filter (fun w => w.job.endStatus stTick = stTick)
  let cs := (cut.filterMap (fun w => w.ctx.map (fun c => (w.part, c)))).dedup
  cs.foldl (fun t x => t.overrun x.1 x.2 f) t

/-- Commands admitted into skipped numbers are cancelled, with their reservations returned (R111). -/
def State.cancelSkipped (s : State) (f g : FrameNo) : State :=
  (s.works.filter (fun w => w.ctx.isSome && f.toNat < w.frame.toNat && w.frame.toNat < g.toNat)).foldl
    (fun t w => t.endWork w stCancelled) s

/-- Number the next tick opens (R85, R109, R111). -/
def State.nextFrame (s : State) : FrameNo := s.fr.nextNo.getD (s.fr.no + 1)

/-- Period and pending pair after the tick that opens frame g (R113). -/
def FrameState.opened (fr : FrameState) (g : FrameNo) : Nat × Option (FrameNo × Nat) :=
  match fr.pend with
  | some (a, p) => if a.toNat ≤ g.toNat then (p, none) else (fr.period, fr.pend)
  | none => (fr.period, none)

/-- Sort jobs and DMA commands start when their frame opens (R299, R355). -/
def State.openWork (s : State) (g : FrameNo) : State :=
  { s with works := s.works.map (fun w =>
      match w.job with
      | .launch _ => w
      | .sort _ => if w.frame = g then { w with running := true } else w
      | .dma _ => if w.frame = g then { w with running := true } else w
      | .narog _ => w
      | .coll _ => w) }

def State.entry (s : State) (e : Nat) : WEntry := Tab.get {} s.watch e
def State.setEntry (s : State) (e : Nat) (v : WEntry) : State := { s with watch := Tab.set {} s.watch e v }

/-- Add five counts, each saturating at its width (R400). -/
def addCounts (a b : List Nat) : List Nat :=
  (List.range 5).map (fun i => min (2 ^ (if i < 3 then 48 else 32) - 1) (a.getD i 0 + b.getD i 0))

/-- Add counts to a set, by format. -/
def addTo (t : Tab (List Nat)) (f : Nat) (c : List Nat) : Tab (List Nat) := Tab.set [] t f (addCounts (Tab.get [] t f) c)

/-- Every entry of a partition starts a new live set (R404). -/
def State.newLive (s : State) (p : Nat) : State :=
  (upFrom (s.watchBase p) (s.watchCount p)).foldl (fun t e =>
    let w := t.entry e
    t.setEntry e { w with live := [], fin := w.live.foldl (fun a x => addTo a x.1 x.2) w.fin }) s

/-- The tick after frame f puts closes in motion: of step s, when f is the reduce frame of s, or of the next number when
CLOSE asks for one (R102, R404, R405). -/
def State.closeSteps (s : State) (f : FrameNo) : State :=
  (List.range 32).foldl (fun t p =>
    let x := t.part p
    if s.kindOf p f = .reduce then
      (t.setPart p { x with closeDue := some (s.stepOf p f, f.toNat) }).newLive p
    else
      match x.closeAsk with
      | none => t
      | some g =>
        (t.setPart p { x with
          closeAsk := none, closeDue := some ((match x.lastClosed with | none => 0 | some n => n + 1), g) }).newLive p) s

/-- The RNG latches its snapshot at the tick that opens an update frame (R481). -/
def State.latchSnaps (s : State) (g : FrameNo) : State :=
  (List.range 32).foldl (fun t p =>
    if s.kindOf p g = .update then
      let k := t.kpart p
      t.setKpart p { k with snap := {
        seed := k.seed, mode := bit (s.cfg .rng p 0x100) 0, cursor := k.cursor, pos := k.pos
        rate := (List.range 4).map (fun i => s.cfg .rng p (0x110 + 4 * i)) } }
    else t) s

/-- READYs of a frame that has ended are no longer held, and its flows are forgotten (R446, R454, R458). -/
def State.forgetReadies (s : State) (f : FrameNo) : State :=
  { s with coll := { s.coll.endTx (fun x => x.frame = f.toNat % 65536) with
      readies := s.coll.readies.filter (fun x => leAt x.payload 6 2 ≠ f.toNat % 65536)
      rx := s.coll.rx.filter (fun x => x.frame ≠ f.toNat % 65536) } }

/-- Reservations of a frame that has ended are forgotten (R89). -/
def State.forgetFrame (s : State) (f : FrameNo) : State :=
  { s with ctxs := s.ctxs.map (fun p => (p.1, { p.2 with resv := Tab.del f.toNat p.2.resv })) }

/-- The marker of the frame in progress (R107). -/
def State.ownMarker (s : State) : Marker :=
  { frame := s.fr.no, source := s.nodeId, period := s.fr.period, pending := s.fr.pend, hops := 0, delayNs := 0 }

/-- The frame's own state after the tick that opens g. -/
def FrameState.tick (fr : FrameState) (follower : Bool) (g : FrameNo) : FrameState :=
  { fr with
    no := g, cycle := 0, period := (fr.opened g).1, pend := (fr.opened g).2, adj := fr.adjNext, adjNext := 0
    nextNo := fr.afterNo, afterNo := none, closing := false, waves := 0, ticks := fr.ticks + 1
    missed := if follower then (if fr.gotMarker then 0 else fr.missed + 1) else 0
    gotMarker := false, marked := [], markedBefore := fr.marked }

/-- First cycle of the closing window (R86). -/
def State.closeCycle (s : State) : Nat := s.frameLen - 2048

/-- CLOSING_WINDOW_OPEN (R86, R87): admission into the frame ends and L_f is fixed. -/
def execClosingWindowOpen (s : State) : Res :=
  .next (if s.ready && !s.fr.closing then
      let t := s.toCycle s.closeCycle
      { t with fr := { t.fr with closing := true } }
    else s)

/-- WAVE_RELEASE (R104). -/
def execWaveRelease (w : Fin 8) (s : State) : Res :=
  .next (if s.ready then
      let t := s.toCycle (32 * w.val)
      { t with fr := { t.fr with waves := t.fr.waves ||| BitVec.ofNat 8 (2 ^ w.val) } }
    else s)

/-- A quotient rounded to the nearest integer, halves upward. -/
def roundDiv (a : Int) (b : Int) : Int := (2 * a + b) / (2 * b)

/-- err of a marker in ns (R109): arrival against the local tick of the marker's frame and the accumulated delay, which
includes the arrival link. The local tick of a frame other than the one in progress and the next is taken as that of
the frame in progress: DEDUCED (log 31). -/
def State.markerErr (s : State) (m : Marker) (link : Nat) : Int :=
  let tickCycle : Int := if m.frame = s.fr.no + 1 then (s.frameLen : Int) else 0
  roundDiv (((s.fr.cycle : Int) - tickCycle) * 5) 4 - (m.delayNs + link : Nat)

/-- −err in whole cycles (R109): 1 ns is 4/5 of a cycle. -/
def errCycles (err : Int) : Int := roundDiv (-err * 4) 5

/-- Slew: −err, limited to ±floor(P ÷ 1,024) (R109). Once the closing window has fixed L_f the change waits for the
next frame (log 32). A second correction in a frame replaces the first, since each err is measured against the same
local tick: DESIGN CHOICE (log 137). -/
def FrameState.slew (fr : FrameState) (err : Int) : FrameState :=
  let lim : Int := (fr.period / 1024 : Nat)
  let d := clampInt (-lim) lim (errCycles err)
  if fr.closed then { fr with adjNext := d } else { fr with adj := d }

/-- Step: the whole error, and the marker's number for the frame the next tick opens; both are put off to frame f + 1
when f would be left too short (R109) or its length is fixed (log 32). -/
def FrameState.step (fr : FrameState) (err : Int) (f : FrameNo) : FrameState :=
  let d := errCycles err
  if fr.closed || (fr.period : Int) + d < fr.cycle + 2048 then { fr with adjNext := d, afterNo := some f }
  else { fr with adj := d, nextNo := some f }

/-- LAST_ERR: two's complement, saturating (R114). -/
def lastErrOf (err : Int) : BitVec 16 := BitVec.ofInt 16 (clampInt (-32767) 32767 err)

/-- A follower adopts the pending period a marker carries, or the marker's own period from its next frame on (R107,
R113; log 33). A pair of its own, written while FREE was 1, has no effect once a marker clears FREE (R113). -/
def FrameState.adopt (fr : FrameState) (m : Marker) : FrameState :=
  match m.pending with
  | some x => { fr with pend := some x }
  | none => { fr with pend := if m.period = fr.period then none else some (fr.no + 1, m.period) }

/-- A marker is accepted: from a known master, the first for its frame number, on a trained port, by a node that
follows (R106, R108) and is not in hold (R70). A node remembers the numbers of this frame and the one before, since a
number may come round again under R111: DEDUCED (log 138). A master drops every marker: DESIGN CHOICE (log 136). -/
def State.acceptsMarker (s : State) (port : Nat) (m : Marker) : Bool :=
  s.ready && s.isFollower && !(s.inHold .strings 0) && (s.port port).st = .up &&
  (m.source.toNat = field (s.cfg .strings 0 0x108) 14 0 || m.source.toNat = field (s.cfg .strings 0 0x108) 30 16) &&
  !(s.fr.marked.contains m.frame) && !(s.fr.markedBefore.contains m.frame)

/-- The node steps when the numbers differ or |err| exceeds 16 µs (R109). -/
def State.markerSteps (s : State) (m : Marker) (err : Int) : Bool := m.frame ≠ s.fr.no || err.natAbs > 16000

/-- What an accepted marker does to the frame. -/
def State.markerFrame (s : State) (port : Nat) (m : Marker) (err : Int) : FrameState :=
  let fr := if s.markerSteps m err then s.fr.step err m.frame else s.fr.slew err
  { fr.adopt m with
    lastMarker := some m.frame, marked := m.frame :: fr.marked, gotMarker := true, missed := 0, free := false
    lastErr := lastErrOf err
    port := port, hops := m.hops, sourceId := m.source }

/-- The marker as the node forwards it (R108). -/
def Marker.forward (m : Marker) (link residence : Nat) : Marker :=
  { m with hops := m.hops + 1, delayNs := m.delayNs + link + residence }

/-- Take an accepted marker in and forward it on every other trained port (R108, R109). -/
def State.takeMarker (s : State) (port : Nat) (m : Marker) (residence : Nat) : State :=
  let link := (s.port port).delay
  let err := s.markerErr m link
  let t : State := { s with fr := s.markerFrame port m err }
  let u := if s.markerSteps m err then t.latch .strings 0 0x800 (· ||| flag true 21) else t
  u.sendMarker (u.upPorts.filter (· ≠ port)) (Marker.forward m link residence)

/-- MARKER_RECEIVE (R108). -/
def execMarkerReceive (port : PortId) (m : Marker) (residence : Nat) (s : State) : Res :=
  .next (if s.acceptsMarker port.val m then s.takeMarker port.val m residence else s)

/-- TAKEOVER_FRAMES and LOST_FRAMES (R114). -/
def State.takeoverFrames (s : State) : Nat := field (s.cfg .strings 0 0x10C) 15 8
def State.lostFrames (s : State) : Nat := field (s.cfg .strings 0 0x10C) 7 0

/-- STRINGS_TAKEOVER (R112). -/
def execStringsTakeover (s : State) : Res :=
  .next (if s.ready && s.role = 3 && !s.fr.tookOver && s.takeoverFrames ≤ s.fr.missed then
      ({ s with fr := { s.fr with tookOver := true, free := false } }).latch .strings 0 0x800 (· ||| flag true 20)
    else s)

/-- STRINGS_LOST (R112). -/
def execStringsLost (s : State) : Res :=
  .next (if s.ready && s.isFollower && !s.fr.free && s.lostFrames ≤ s.fr.missed then
      (({ s with fr := { s.fr with free := true } }).latch .strings 0 0x800 (· ||| flag true 22)).raise .strings 0
        0x1003
    else s)

/-- STRINGS_FRAME_NO (R114). -/
def execStringsFrameNo (r : MbxReq) (s : State) : Res := .next (s.mbxGet r .strings 1 2 (fun t _ => t.fr.no.toNat))

/-- APPLY_FRAME (R113): a WRITE latches PERIOD_NEXT for a frame at least 4 ahead. A follower's WRITE takes effect only
while FREE. A READ with no frame pending gives 0: DESIGN CHOICE (log 139). -/
def State.applyFrame (s : State) (f : Nat) : ItemRes :=
  if f < s.fr.no.toNat + 4 then itemBad s
  else if s.isFollower && !s.fr.free then itemDone s
  else itemDone { s with fr := { s.fr with
    pend := some (BitVec.ofNat 64 f, field (s.cfg .strings 0 0x100) 26 0) } }

def execApplyFrame (r : MbxReq) (s : State) : Res :=
  .next (s.mbxRun r .strings { num := 2, read := true, write := true, len := 2 } (fun _ wr ws t =>
    if wr then t.applyFrame (natOf ws)
    else itemRead t (wordsOf 2 (match t.fr.pend with | some x => x.1.toNat | none => 0))))

/-- FRAME_SET (R111, R114). -/
def execFrameSet (r : MbxReq) (s : State) : Res :=
  .next (s.mbxRun r .strings { num := 3, read := false, write := true, len := 2 } (fun _ _ ws t =>
    if t.isFollower then itemDenied t
    else itemDone (({ t with fr := { t.fr with nextNo := some (BitVec.ofNat 64 (natOf ws)) } }).latch .strings 0 0x800
      (· ||| flag true 21))))

/-- PUPPETEER_FRAME_NO (R115). -/
def execPuppeteerFrameNo (r : MbxReq) (s : State) : Res :=
  .next (s.mbxGet r .puppeteer 1 2 (fun t _ => t.fr.no.toNat))

/-- STEP_BASE (R103, R115). -/
def execStepBase (r : MbxReq) (s : State) : Res :=
  .next (s.mbxRun r .puppeteer { num := 2, read := true, write := true, len := 2 } (fun p wr ws t =>
    if wr then itemDone (t.setPart p { t.part p with stepBase := BitVec.ofNat 64 (natOf ws) })
    else itemRead t (wordsOf 2 (t.part p).stepBase.toNat)))

/-- STEP_NO (R115). -/
def execStepNo (r : MbxReq) (s : State) : Res :=
  .next (s.mbxGet r .puppeteer 3 2 (fun t p => t.stepOf p t.fr.no))

end Sys2Proof.Machine
end

