-- ==== Sys2Proof/Machine/Launch.lean ====
section
/-! DEFINITION. Commands of a context ring and their admission (R88 to R94, R143 to R149, R549), launches on cores
(R153, R159 to R165, R308, R309) and the fetch of commands (R548). -/

namespace Sys2Proof.Machine

/-- A value that the manual does not state, drawn afresh (log 10). -/
def State.freeWord (s : State) : Word := Config.freeWord s.free
def State.useFree (s : State) (n : Nat) : State := { s with free := s.free + n }

/-- Opcode, flags of a command header (R145). -/
def hdrOf (slot : List Byte) : Word := BitVec.ofNat 32 (leAt slot 0 4)
def opcodeOf (slot : List Byte) : Nat := leAt slot 3 1
def hdrSlide (h : Word) : Bool := bit h 16
def hdrCurrent (h : Word) : Bool := bit h 17
def hdrIrqAdmit (h : Word) : Bool := bit h 18
def hdrIrqEnd (h : Word) : Bool := bit h 19

/-- FLAGS [23:20] are outside the bits R145 names and must be 0 (R549). -/
def hdrBad (h : Word) : Bool := field h 23 20 ≠ 0

/-- A 48-bit address field of 8 bytes breaks R549. -/
def vaBad (slot : List Byte) (o : Nat) : Bool := leAt slot (o + 6) 2 ≠ 0

/-- A command of a context is waiting to be carried out: it is fetched and the context is ACTIVE (R144, R548). -/
def State.command (s : State) (c : Nat) : Option Fetched :=
  match (s.ctx c).st with
  | .active => (s.ctx c).fetched
  | .free => none | .stopped => none | .destroying => none | .clearing => none

/-- The command is consumed: HEAD moves past its slot and is written to the descriptor (R139). -/
def State.consume (s : State) (c : Nat) : State :=
  let x := s.ctx c
  let h := (x.head + 1) % x.slots
  (s.setCtx c { x with head := h, fetched := none }).cohWrite (.fetch, some c) (x.desc + 0x40) (leBytes 8 h)

/-- A command with no end phase: CANCEL, FENCE or TLB_INVAL (R146). -/
def hdrNoEnd (h : Word) : Bool := 2 ≤ field h 31 24 && field h 31 24 ≤ 4

/-- Refuse a command at byte 48; byte 49 is NONE, written together with byte 48 where the command has no end phase (R146,
R147). Bytes 56 to 63 hold nothing the manual states. -/
def State.refuse (s : State) (c : Nat) (h : Word) (status : Byte) : State :=
  let slot := (s.ctx c).head
  let v := s.freeWord.toNat
  let t := s.useFree 1
  if hdrNoEnd h then (t.writeBoth c slot status stNone v (hdrIrqAdmit h) (hdrIrqEnd h)).consume c
  else ((t.writeAdmit c slot status v (hdrIrqAdmit h)).writeEnd c slot stNone (hdrIrqEnd h)).consume c

/-- A command with no end phase is done (R146). -/
def State.doneNow (s : State) (c slot : Nat) (h : Word) (result : Nat) : State :=
  s.writeBoth c slot 0 stEnded result (hdrIrqAdmit h) (hdrIrqEnd h)

/-- FENCE and TLB_INVAL define no result, so bytes 56 to 63 hold nothing the manual states (log 10). -/
def State.doneOpen (s : State) (c slot : Nat) (h : Word) : State := (s.useFree 1).doneNow c slot h s.freeWord.toNat


/-- Checks 1 to 4 of R91 for a target frame; 0 when all pass. -/
def State.frameCheck (s : State) (f : Nat) (kindOk : FrameNo → Bool) : Nat :=
  let n := s.fr.no.toNat
  if f < n then 1
  else if n + 255 < f then 2
  else if f = n && s.closedNow then 3
  else if !(kindOk (BitVec.ofNat 64 f)) then 4
  else 0

/-- Period in force for frame f (R90, R113). -/
def State.periodFor (s : State) (f : Nat) : Nat :=
  match s.fr.pend with
  | some (a, p) => if a.toNat ≤ f then p else s.fr.period
  | none => s.fr.period

/-- R90: the launch fits. -/
def State.fits (s : State) (f decl : Nat) : Bool :=
  let start := if f = s.fr.no.toNat then max 224 s.fr.cycle else 224
  start + decl ≤ s.periodFor f * 1023 / 1024

/-- Units reserved by cores × declared cycles (R89). -/
def unitsOf (cores decl : Nat) : Nat := ceilDiv (cores * decl) 4096

/-- Frame budget of a context (R89, R154). -/
def State.budget (s : State) (c : Nat) : Nat := (s.cfg .ctxtab c 0x100).toNat

/-- Admitted launches of a context that have not started (R91 check 7). -/
def State.waitingLaunches (s : State) (c : Nat) : Nat :=
  (s.works.filter (fun w => w.ctx = some c && !w.running &&
    (match w.job with | .launch _ => true | .sort _ => false | .dma _ => false | .narog _ => false | .coll _ => false))).length

/-- Checks 1 to 7 of R91 for a launch into frame f. -/
def State.launchCheck (s : State) (c f cores decl : Nat) : Nat :=
  let k := s.frameCheck f (fun _ => true)
  if k ≠ 0 then k
  else if !(s.fits f decl) then 5
  else if s.budget c < Tab.get 0 (s.ctx c).resv f + unitsOf cores decl then 6
  else if 64 ≤ s.waitingLaunches c then 7
  else 0

/-- Target frame of a command (R88). -/
def State.targetFrame (s : State) (h : Word) (slot : List Byte) : Nat :=
  if hdrCurrent h then s.fr.no.toNat else leAt slot 8 8

/-- SLIDE (R92): the first later frame that passes `check`, when the named one failed check 3, 4, 5 or 6. -/
def State.slide (s : State) (h : Word) (f : Nat) (check : Nat → Nat) : Nat × Nat :=
  let k := check f
  if k = 0 then (0, f)
  else if hdrSlide h && (k = 3 || k = 4 || k = 5 || k = 6) then
    match (upFrom (f + 1) (s.fr.no.toNat + 255 - f)).find? (fun g => check g = 0) with
    | some g => (0, g)
    | none => (k, f)
  else (k, f)

/-- Accept a piece of work (R88): it takes the next number, its record is written, its slot consumed. -/
def State.accept (s : State) (c : Nat) (h : Word) (f units : Nat) (running : Bool) (j : Job) : State :=
  let x := s.ctx c
  let w : Work := {
    id := s.nextWork, ctx := some c, part := s.partOf c, frame := BitVec.ofNat 64 f, slot := x.head
    irqEnd := hdrIrqEnd h, running := running, units := units, job := j }
  let t : State := { s with works := s.works ++ [w], nextWork := s.nextWork + 1 }
  let u := t.setCtx c { x with resv := Tab.set 0 x.resv f (Tab.get 0 x.resv f + units) }
  (u.writeAdmit c x.head 0 f (hdrIrqAdmit h)).consume c

/-- Groups a core holds for REGS registers a thread (R162). -/
def groupsFor (regs : Nat) : Nat := min 256 (4096 / regs)

/-- Resident blocks of a launch (R163). -/
def Launch.resident (l : Launch) : Nat := min 32 (min (groupsFor l.regs / l.gpb) (ceilDiv l.blocks l.list.length))

/-- Sub-arrays of scratch a SCRATCH_SPLIT gives (R308). -/
def splitArrays (k : Nat) : Nat := [1, 2, 4, 6, 7].getD k 1

/-- Fields of a LAUNCH that R148, R162, R163, R195 and R549 bound. -/
def launchBad (slot : List Byte) : Bool :=
  let decl := leAt slot 4 4
  let cores := leAt slot 36 2
  let gpb := leAt slot 38 1
  let foot := leAt slot 40 2
  let regs := leAt slot 42 2
  hdrBad (hdrOf slot) || decl = 0 || 80000000 < decl || vaBad slot 16 || vaBad slot 24 || leAt slot 32 4 = 0 ||
    cores = 0 || 384 < cores || gpb = 0 || 32 < gpb || 4 < leAt slot 39 1 || foot % 32 ≠ 0 || 448 < foot ||
    regs % 8 ≠ 0 || regs < 16 || 256 < regs || groupsFor regs / gpb = 0 || !(zerosAt slot 46 2)

/-- The launch a slot describes, on its selected cores (R148). -/
def launchOf (slot : List Byte) (granted : List Nat) : Launch :=
  { decl := leAt slot 4 4, entry := leAt slot 16 8, arg := leAt slot 24 8, blocks := leAt slot 32 4
    gpb := leAt slot 38 1, split := splitArrays (leAt slot 39 1), foot := leAt slot 40 2, regs := leAt slot 42 2
    list := (granted.drop (leAt slot 44 2)).take (leAt slot 36 2) }

/-- Outcome of a LAUNCH at byte 48 and its frame, in the order of R196. -/
def State.launchOutcome (s : State) (c : Nat) (slot : List Byte) : Byte × Nat :=
  let cores := leAt slot 36 2
  if launchBad slot then (0x11, 0)
  else if (s.grantedCores (s.partOf c)).length < leAt slot 44 2 + cores then (0x12, 0)
  else if 128 * splitArrays (leAt slot 39 1) < leAt slot 40 2 then (0x08, 0)
  else
    let h := hdrOf slot
    let (k, f) := s.slide h (s.targetFrame h slot) (fun g => s.launchCheck c g cores (leAt slot 4 4))
    (BitVec.ofNat 8 k, f)

/-- Carry out a fetched LAUNCH (R148, R196). -/
def State.doLaunch (s : State) (c : Nat) (slot : List Byte) : State :=
  let (k, f) := s.launchOutcome c slot
  if k = 0 then
    s.accept c (hdrOf slot) f (unitsOf (leAt slot 36 2) (leAt slot 4 4)) false
      (.launch (launchOf slot (s.grantedCores (s.partOf c))))
  else (s.addCount .puppeteer (s.partOf c) 0x80C 1).refuse c (hdrOf slot) k

/-- A fetched command with one opcode, and what it does. -/
def State.onCommand (s : State) (c op : Nat) (f : List Byte → State) : State :=
  match s.command c with
  | some x => if opcodeOf x.slot = op then f x.slot else s
  | none => s

/-- LAUNCH (R148). -/
def execLaunch (c : CtxId) (s : State) : Res := .next (s.onCommand c.val 0x01 (s.doLaunch c.val))

/-- Zero the register file and scratch, and with them the sparsity unit's counters and rounds (R153, R284). -/
def Core.zero (k : Core) : Core := { k with regs := [], preds := [], scratch := [], sp := {} }

/-- Write-backs of L1 lines: written lines as WBD, deltas as WBR, the rest silently (R309, R316). -/
def writeBacks (k : Nat) (ls : List L1Line) : List UpMsg :=
  ls.filterMap (fun l =>
    match l.st with
    | .m => some { core := k, line := l.line, body := .wbd l.data }
    | .red => some { core := k, line := l.line, body := .wbr l.dt l.valid l.data }
    | .s => none
    | .e => none)

/-- Change a core's split to n′ sub-arrays of scratch (R309). -/
def State.changeSplit (s : State) (k n : Nat) : State :=
  let x := s.core k
  let gone := x.l1.filter (fun l => wayIn n l.way)
  let y := { x with
    split := n
    l1 := x.l1.filter (fun l => !(wayIn n l.way))
    scratch := x.scratch.filter (fun p => p.1 < 131072 * min x.split n) }
  ({ s with up := s.up ++ writeBacks k gone }).setCore k y

/-- A resident group at its start: one strand of 32 threads at the entry address; a pending one waits from now on (R160,
R171, R172). -/
def newGroup (gpb bslot gi entry now : Nat) (active : Bool) : Group :=
  { gs := bslot * gpb + gi, bslot := bslot, gi := gi, active := active, waiting := now
    strands := [{ mask := BitVec.allOnes 32, pc := entry }] }

/-- Place a block in a slot (R165): its groups enter the active set at once while it has room, ahead of pending groups and
without the two cycles of a promotion; R171 does not say how a new block's groups begin: DESIGN CHOICE (log 161). -/
def Core.placeBlock (k : Core) (l : Launch) (now bslot no : Nat) : Core :=
  let have_ := (k.groups.filter (·.active)).length
  { k with
    blocks := k.blocks ++ [{ slot := bslot, no := no }]
    groups := k.groups ++ (List.range l.gpb).map (fun g => newGroup l.gpb bslot g l.entry now (have_ + g < 16)) }

/-- Blocks dispatched to local core j at the start of a launch: j, j + C, ... up to B of them (R165). -/
def Launch.firstBlocks (l : Launch) (j : Nat) : List Nat :=
  ((List.range l.resident).map (fun i => j + i * l.list.length)).filter (· < l.blocks)

/-- Local number of a core in a launch (R159). -/
def Launch.localOf (l : Launch) (k : Nat) : Nat := l.list.idxOf k

/-- A core still awaits its clear for a context whose teardown has stopped it, since the first tick after the stop
(R155, R156). -/
def State.awaitsClear (s : State) (k : Nat) : Bool :=
  (s.core k).ran.any (fun c => (s.ctx c).st = .destroying && (s.ctx c).halted ≠ 0 && (s.ctx c).halted ≤ s.fr.ticks)

/-- A core may start this launch now (R93, R104, R156, R159): its wave is released, it is free and no clear of a teardown
is due or under way on it, and no launch admitted earlier into the frame still has this core to run. -/
def State.mayStart (s : State) (w : Work) (l : Launch) (k : Nat) : Bool :=
  w.frame = s.fr.no && s.fr.waves.getLsbD (k % 8) && l.list.contains k && !(l.started.contains k) &&
  !(s.inHold .puppeteer w.part) && (s.core k).launch.isNone && !(s.core k).clearing && !(s.awaitsClear k) &&
  !(s.inReset .core k) &&
  s.works.all (fun v => v.id ≥ w.id || v.frame ≠ w.frame ||
    (match v.launch? with | some m => !(m.list.contains k) || m.ended.contains k | none => true))

/-- A launch finds another partition, another key or a key of 0 on a core, which zeroes itself (R153). -/
def Core.needsClear (c : Core) (p : Nat) (key : Word) : Bool := !(c.key = some (p, key) && key ≠ 0)

/-- Cycles that a launch's start spends on the clear of R153, 768, and on a change of the split, at most 4,096 and
otherwise not stated (R309, log 140): the longer of the two. -/
def State.startCycles (s : State) (k p : Nat) (key : Word) (n : Nat) : Nat :=
  max (if (s.core k).needsClear p key then 768 else 0)
    (if (s.core k).split = n then 0 else 1 + s.freeWord.toNat % 4096)

/-- Contents of a core as a launch finds them: the clear of R153 and the split of R309. -/
def State.prepareCore (s : State) (k p : Nat) (key : Word) (n : Nat) : State :=
  let d := s.startCycles k p key n
  let t := if (s.core k).split = n then s else (s.useFree 1).changeSplit k n
  let c := if (t.core k).needsClear p key then { (t.core k).zero with zeroTo := t.now + 768 } else t.core k
  t.setCore k { c with clearTo := t.now + d }

/-- A launch begins on a core (R93, R153, R165, R203, R213, R220, R284). -/
def State.startLaunch (s : State) (w : Work) (l : Launch) (k : Nat) : State :=
  let c := w.ctx.getD 0
  let key := (s.ctx c).key
  let t := s.prepareCore k w.part key l.split
  let x := t.core k
  let y := { x with
    key := some (w.part, key), launch := some w.id, since := t.now, ran := (c :: x.ran).dedup
    blocks := [], groups := [], ops := [], fences := [], usable := []
    arr := { ({} : ArrState) with comp := x.arr.comp }
    sp := { x.sp with rounds := [], open_ := none, est := [], bound := [], estTile := none, filt := .none, misp := 0 } }
  let bs := l.firstBlocks (l.localOf k)
  let z := (bs.zipIdx).foldl (fun q b => q.placeBlock l t.now b.2 b.1) y
  (t.setCore k z).setWork { w with
    running := true
    job := .launch { l with started := k :: l.started, nextBlock := max l.nextBlock (min l.blocks (l.resident * l.list.length)) } }

/-- LAUNCH_START (R93). -/
def execLaunchStart (id : Nat) (k : CoreId) (s : State) : Res :=
  .next (match s.work id with
    | some w =>
      match w.launch? with
      | some l => if s.mayStart w l k.val then s.startLaunch w l k.val else s
      | none => s
    | none => s)

/-- A store or an add that no L1 has accepted yet. -/
def MemOp.unaccepted (o : MemOp) : Bool :=
  match o.kind with
  | .store _ _ _ => true
  | .add _ _ _ => true
  | .load _ _ _ _ _ => false
  | .join _ _ => false
  | .dead _ _ _ => false
  | .result _ => false

/-- Blocks that have ended leave: every group has exited and every store of the block is accepted (R165). -/
def Core.sweep (k : Core) (gpb : Nat) : Core :=
  { k with blocks := k.blocks.filter (fun b =>
      k.groups.any (·.bslot = b.slot) ||
        k.ops.any (fun o => o.unaccepted && o.thr.any (fun t => t / 32 / gpb = b.slot))) }

/-- BLOCK_DISPATCH (R165): a freed slot takes the lowest-numbered block not yet dispatched. -/
def State.dispatch (s : State) (k : Nat) : State :=
  match s.running k with
  | none => s
  | some (w, l) =>
    let x := (s.core k).sweep l.gpb
    match (List.range l.resident).find? (fun i => x.blocks.all (·.slot ≠ i)) with
    | some i =>
      if l.nextBlock < l.blocks then
        (s.setCore k (x.placeBlock l s.now i l.nextBlock)).setWork
          { w with job := .launch { l with nextBlock := l.nextBlock + 1 } }
      else s
    | none => s

def execBlockDispatch (k : CoreId) (s : State) : Res := .next (s.dispatch k.val)

/-- A launch whose cores have all ended: charged (R93), and ENDED unless entries of its own wait in a marble run
(R303). -/
def State.launchOver (s : State) (w : Work) (l : Launch) : State :=
  let t := s.countOverdraw w l.charge
  if l.puts then t.setWork { w with job := .launch l } else t.endWork w stEnded

/-- Its part of the launch has ended on a core (R159, R221, R338). -/
def State.coreEnds (s : State) (w : Work) (l : Launch) (k : Nat) : State :=
  let x := s.core k
  let m := { l with ended := k :: l.ended, charge := l.charge + (s.now - x.since) }
  let t := s.setCore k { x.halt with ops := [] }
  if m.ended.length = m.list.length then t.launchOver w m else t.setWork { w with job := .launch m }

/-- LAUNCH_CORE_END (R159). -/
def execLaunchCoreEnd (id : Nat) (k : CoreId) (s : State) : Res :=
  .next (match s.running k.val with
    | some (w, l) =>
      let x := (s.core k.val).sweep l.gpb
      if w.id = id && x.blocks = [] && l.blocks ≤ l.nextBlock && x.arr.queue = [] && x.ops = [] then
        s.coreEnds w l k.val
      else s
    | none => s)

/-- Bytes of a slot outside `used` ranges, up to the completion record, that must be 0. -/
def othersZero (slot : List Byte) (used : List (Nat × Nat)) : Bool :=
  (upFrom 4 44).all (fun i => used.any (fun u => u.1 ≤ i && i < u.1 + u.2) || slot.getD i 0 = 0)

/-- CANCEL ends unstarted launches at or after FRAME (R149). -/
def State.doCancel (s : State) (c : Nat) (slot : List Byte) : State :=
  let h := hdrOf slot
  if hdrBad h || !(othersZero slot [(8, 8)]) then s.refuse c h 0x11
  else
    let ws := s.works.filter (fun w => w.ctx = some c && !w.running && w.launch?.isSome && leAt slot 8 8 ≤ w.frame.toNat)
    let t := ws.foldl (fun t w => t.endWork w stCancelled) s
    (t.doneNow c (t.ctx c).head h ws.length).consume c

def execCancel (c : CtxId) (s : State) : Res := .next (s.onCommand c.val 0x02 (s.doCancel c.val))

/-- FENCE holds the fetch of later commands (R149). -/
def State.doFence (s : State) (c : Nat) (slot : List Byte) : State :=
  let h := hdrOf slot
  if hdrBad h || !(othersZero slot []) then s.refuse c h 0x11
  else
    let t := s.setCtx c { s.ctx c with fence := some ((s.ctx c).head, h) }
    t.consume c

def execFence (c : CtxId) (s : State) : Res := .next (s.onCommand c.val 0x03 (s.doFence c.val))

/-- FENCE_COMPLETE (R149): every earlier command with an end phase has its END_STATUS. -/
def execFenceComplete (c : CtxId) (s : State) : Res :=
  .next (match (s.ctx c.val).fence with
    | some (slot, h) =>
      if s.works.all (·.ctx ≠ some c.val) then
        (s.setCtx c.val { s.ctx c.val with fence := none }).doneOpen c.val slot h
      else s
    | none => s)

/-- TLB_INVAL (R149). -/
def State.doTlbInval (s : State) (c : Nat) (slot : List Byte) : State :=
  let h := hdrOf slot
  let base := leAt slot 16 8
  let len := leAt slot 24 8
  if hdrBad h || !(othersZero slot [(16, 16)]) || base % 4096 ≠ 0 || len % 4096 ≠ 0 then s.refuse c h 0x11
  else
    let x := s.ctx c
    (s.setCtx c { x with tlbWait := x.tlbWait ++ [(x.head, h, base, len)] }).consume c

def execTlbInval (c : CtxId) (s : State) : Res := .next (s.onCommand c.val 0x04 (s.doTlbInval c.val))

/-- TLB_INVAL_COMPLETE (R149): no unit holds a translation of the range any more. -/
def execTlbInvalComplete (c : CtxId) (s : State) : Res :=
  .next (match (s.ctx c.val).tlbWait with
    | (slot, h, base, len) :: rest =>
      let x := s.ctx c.val
      (s.setCtx c.val { x with
        tlbWait := rest
        tlb := x.tlb.filter (fun p => p.1 * 4096 < base || base + len ≤ p.1 * 4096) }).doneOpen c.val slot h
    | [] => s)

/-- Opcodes the module recognises and supports on the variant (R145, R299, R355, R387). -/
def opcodeKnown (v : Variant) (op : Nat) : Bool :=
  (1 ≤ op && op ≤ 4) || (0x10 ≤ op && op ≤ 0x15) || op = 0x20 || (0x30 ≤ op && op ≤ 0x33) ||
    (narogPresent v && (op = 0x40 || op = 0x41))

/-- BAD_OPCODE_COMMAND (R145). -/
def execBadOpcodeCommand (c : CtxId) (s : State) : Res :=
  .next (match s.command c.val with
    | some x => if opcodeKnown s.variant (opcodeOf x.slot) then s else s.refuse c.val (hdrOf x.slot) 0x10
    | none => s)

/-- Opcodes with a parameter record (R359 to R364). -/
def usesAux (op : Nat) : Bool := 0x12 ≤ op && op ≤ 0x15

/-- The fetch of a context may go on (R144, R149, R548). -/
def State.mayFetch (s : State) (c : Nat) : Bool :=
  let x := s.ctx c
  !(s.inHold .ctxtab c) && x.st = .active && x.head ≠ x.tail && x.fetched.isNone && x.fence.isNone && x.atsWait.isNone

/-- What a read of 64 B for the fetcher gives: bytes, a wait for ATS, or a fault. -/
inductive FetchRes where
  | ok (bs : List Byte) (rest : HostData)
  | ats (addr : Nat)
  | bad (code : BitVec 16)
  deriving DecidableEq, Repr

/-- Read 64 B from the ring or from a record; host bytes come from the environment. -/
def State.fetch64 (s : State) (c : Nat) (host : Bool) (addr : Nat) (resp : HostData) : FetchRes :=
  if host then
    if s.atsReady c addr then .ok (bytesAt (resp.headD []) 0 64) resp.tail else .ats addr
  else
    match s.bulkFault addr 64 with
    | some e => .bad e
    | none => .ok (s.devRead addr 64) resp

/-- The parameter record of a command, where its opcode uses one and its address is well formed (R548). -/
def State.fetchAux (s : State) (c : Nat) (slot : List Byte) (resp : HostData) : FetchRes × Option Leaf :=
  if usesAux (opcodeOf slot) && !(vaBad slot 32) && leAt slot 32 8 % 64 = 0 then
    match s.xlate c (leAt slot 32 8) .read .mover with
    | .error e => (.bad e, none)
    | .ok (l, a) => (s.fetch64 c l.host a resp, some l)
  else (.ok [] resp, none)

/-- A failed read of the fetcher: it waits for ATS, or the fault stops the context before the command is consumed
(R548). -/
def State.fetchFail (s : State) (c : Nat) (r : FetchRes) (addr : Nat) : State :=
  match r with
  | .ok _ _ => s
  | .ats a => s.askAts c a
  | .bad e => (s.noteFault addr 64 e).ctxFault c e

/-- Ranges of device memory that the fetcher reads through the home slice for a command: its slot and its record (R318). -/
def Ctx.fetchReads (x : Ctx) (aux : Option (Bool × Nat)) : List (Nat × Nat) :=
  (if x.ringHost then [] else [(x.slotAddr x.head, 64)]) ++
    (match aux with
      | some (false, a) => [(a, 64)]
      | some (true, _) => []
      | none => [])

/-- A command is read in: its slot, and its record behind the leaf `l`. A slice or a stack that cannot take a read yet holds
the fetch up (R323, R348). -/
def State.fetchDone (s : State) (c : Nat) (slot aux : List Byte) (l : Option Leaf) : State :=
  match s.agentReads true ((s.ctx c).fetchReads (l.map (fun l => (l.host, l.base + leAt slot 32 8 % 4096)))) with
  | none => s
  | some r =>
    let t := match l with
      | some l => r.holdTlb c (leAt slot 32 8) l
      | none => r
    t.setCtx c { t.ctx c with fetched := some { slot := slot, aux := aux } }

/-- COMMAND_FETCH (R548): the slot and its record are read in. -/
def State.fetchCommand (s : State) (c : Nat) (resp : HostData) : State :=
  let x := s.ctx c
  match s.fetch64 c x.ringHost (x.slotAddr x.head) resp with
  | .ok slot rest =>
    match s.fetchAux c slot rest with
    | (.ok aux _, l) => s.fetchDone c slot aux l
    | (.ats a, _) => s.fetchFail c (.ats a) 0
    | (.bad e, some l) => s.fetchFail c (.bad e) (l.base + leAt slot 32 8 % 4096)
    | (.bad e, none) => (s.walkReads c (leAt slot 32 8)).ctxFault c e
  | .ats a => s.fetchFail c (.ats a) 0
  | .bad e => s.fetchFail c (.bad e) (x.slotAddr x.head)

def execCommandFetch (c : CtxId) (resp : HostData) (s : State) : Res :=
  .next (if s.mayFetch c.val then s.fetchCommand c.val resp else s)

end Sys2Proof.Machine
end

