-- ==== Sys2Proof/Machine/Host.lean ====
section
/-! DEFINITION. The endpoint, partitions and contexts: windows, grants of contexts, cores and HBM, events' vectors,
BAR4, doorbells, resets of functions, and the life of a context (R119 to R157). -/

namespace Sys2Proof.Machine

/-- A partition holds a context in a state other than FREE (R131). -/
def State.live (s : State) (p : Nat) : Bool :=
  s.ctxs.any (fun x => x.2.st != .free && s.ctxBase p ≤ x.1 && x.1 < s.ctxBase p + s.ctxCount p)

/-- Range [a, a+n) lies inside [b, b+m). -/
def rangeIn (a n b m : Nat) : Bool := n = 0 || (b ≤ a && a + n ≤ b + m)

/-- Two ranges share a member. -/
def rangesMeet (a n b m : Nat) : Bool := n ≠ 0 && m ≠ 0 && a < b + m && b < a + n

/-- A grant of a range to partition p is refused (R131): past the limit, meeting another partition's range, or taking
something from a live partition. -/
def State.rangeRefused (s : State) (p base count limit : Nat) (ob oc : State → Nat → Nat) : Bool :=
  limit < base + count ||
    (List.range 32).any (fun q => q ≠ p && rangesMeet base count (ob s q) (oc s q)) ||
    (s.live p && !(rangeIn (ob s p) (oc s p) base count))

/-- The state with every configuration register at the value it accepted last, so that a change without a write is no
ground to refuse a rewrite (R71). -/
def State.recorded (s : State) : State :=
  { s with regs := { s.regs with cfg := s.regs.accepted.foldl (fun t x => Tab.put x.1 x.2 t) s.regs.cfg } }

/-- A grant register of the global window is written by a requester that reaches it: the partition (R128). -/
def State.grantTarget (s : State) (r : Req) (w : Window) : Option Nat :=
  match w with
  | .glob => s.selInst r w .puppeteer
  | .part _ => none

/-- A partition's measurement is to be recomputed: a grant was written, or its function changed (R532). -/
def State.touch (s : State) (p : Nat) : State :=
  if s.sec.touched.contains p then s else { s with sec := { s.sec with touched := s.sec.touched ++ [p] } }

/-- GRANT_CTX_WRITE (R129, R131). -/
def State.grantCtx (s : State) (p : Nat) (v : Word) : State :=
  let n := field v 23 12
  if (if p = 0 then 3072 else 768) < n ||
      s.recorded.rangeRefused p (field v 11 0) n 3072 State.ctxBase State.ctxCount then s
  else (s.setCfg .puppeteer p 0x104 (v &&& cfgMask .puppeteer 0x104)).touch p

def execGrantCtxWrite (r : Req) (w : Window) (v : Word) (s : State) : Res :=
  .next (match s.grantTarget r w with | some p => s.grantCtx p v | none => s)

/-- A grant of a bit set is refused (R131). -/
def State.maskRefused (s : State) (p old new : Nat) (others : Nat → Nat) : Bool :=
  (List.range 32).any (fun q => q ≠ p && (others q &&& new) ≠ 0) || (s.live p && (old &&& new) ≠ old)

/-- GRANT_CORES_WRITE (R129, R131): the half that is written, the other half kept. -/
def State.grantCores (s : State) (p : Nat) (hi : Bool) (v : Word) : State :=
  let off := if hi then 0x10C else 0x108
  let w := v &&& cfgMask .puppeteer off
  let r := s.recorded
  let old := r.clusters p
  let new := if hi then old % 2 ^ 32 + w.toNat * 2 ^ 32 else old / 2 ^ 32 * 2 ^ 32 + w.toNat
  if r.maskRefused p old new r.clusters then s else (s.setCfg .puppeteer p off w).touch p

def execGrantCoresWrite (r : Req) (w : Window) (hi : Bool) (v : Word) (s : State) : Res :=
  .next (match s.grantTarget r w with | some p => s.grantCores p hi v | none => s)

/-- Granules of stacks that are fitted (R131). -/
def fittedGranules (v : Variant) : Nat :=
  (List.range 12).foldl (fun m n => if stackFitted v n then m + (2 ^ 36 - 1) * 2 ^ (36 * n) else m) 0

/-- Grant HBM granules (R130, R131). -/
def State.grantHbm (s : State) (p new : Nat) : ItemRes :=
  let old := (s.part p).hbm.toNat
  if s.maskRefused p old new (fun q => (s.part q).hbm.toNat) || (fittedGranules s.variant &&& new) ≠ new then itemBad s
  else itemDone ((s.setPart p { s.part p with hbm := BitVec.ofNat 432 new }).touch p)

/-- GRANT_HBM_LO (R130). -/
def execGrantHbmLo (r : MbxReq) (s : State) : Res :=
  .next (s.mbxRun r .puppeteer { num := 0x10, read := true, write := true, len := 8 } (fun p wr ws t =>
    let h := (t.part p).hbm.toNat
    if wr then
      match r.win with
      | .glob => t.grantHbm p (h / 2 ^ 256 * 2 ^ 256 + natOf ws)
      | .part _ => itemDenied t
    else itemRead t (wordsOf 8 h)))

/-- GRANT_HBM_HI (R130): 176 bits. -/
def execGrantHbmHi (r : MbxReq) (s : State) : Res :=
  .next (s.mbxRun r .puppeteer { num := 0x11, read := true, write := true, len := 8 } (fun p wr ws t =>
    let h := (t.part p).hbm.toNat
    if wr then
      match r.win with
      | .glob => if natOf ws < 2 ^ 176 then t.grantHbm p (h % 2 ^ 256 + natOf ws * 2 ^ 256) else itemBad t
      | .part _ => itemDenied t
    else itemRead t (wordsOf 8 (h / 2 ^ 256))))

/-- EVT_VECTORS (R135). -/
def execEvtVectors (r : MbxReq) (s : State) : Res :=
  .next (s.mbxRun r .puppeteer { num := 0x20, read := true, write := true, len := 8 } (fun p wr ws t =>
    let e : BitVec 256 := BitVec.ofNat 256 (natOf ws)
    if wr then
      if (List.range 16).any (fun k => evtEntry e k / 32768 = 1 && msixSize p ≤ evtEntry e k % 2048) then itemBad t
      else itemDone (t.setPart p { t.part p with evt := e })
    else itemRead t (wordsOf 8 (t.part p).evt.toNat)))

/-- Granules of a partition in ascending order (R126). -/
def State.granules (s : State) (p : Nat) : List Nat := (List.range 432).filter (fun g => (s.part p).hbm.getLsbD g)

/-- Size of a function's BAR4 (R122). -/
def State.bar4Size (s : State) (f : Nat) : Nat := 2 ^ (if f = 0 then s.pci.bar4Log2 else s.pci.vfBar4Log2)

/-- Device address of a BAR4 offset (R122, R125, R126). -/
def State.bar4Addr (s : State) (f o : Nat) : Option Nat :=
  if s.bar4Size f ≤ o then none
  else if f = 0 then
    let a := field (s.cfg .pcie 0 0x100) 10 0 * 0x40000000 + o
    if isStack s.variant a then some a else none
  else ((s.granules f)[o / 0x40000000]?).map (fun g => granuleAddr g + o % 0x40000000)

/-- Pieces of a BAR4 access by GiB: address and length; none when a part of it maps nowhere (R127). -/
def State.bar4Map (s : State) (f o n : Nat) : Option (List (Nat × Nat)) :=
  if n = 0 then some []
  else
    (upFrom (o / 0x40000000) ((o + n - 1) / 0x40000000 + 1 - o / 0x40000000)).mapM (fun g =>
      let lo := max o (g * 0x40000000)
      let hi := min (o + n) ((g + 1) * 0x40000000)
      match s.bar4Addr f lo, s.bar4Addr f (hi - 1) with
      | some a, some _ => some (a, hi - lo)
      | some _, none => none
      | none, _ => none)

/-- A function logs a non-fatal error in AER, with the address and length of the first request that met one (R119,
R127). -/
def State.logAer (s : State) (f o n : Nat) : State :=
  let x := Tab.get {} s.pci.aer f
  let y := { x with nonFatal := true, header := if x.nonFatal then x.header else some (o, n) }
  ({ s with pci := { s.pci with aer := Tab.set {} s.pci.aer f y } } : State).emit (.aer f)

/-- A host read of BAR4 (R127, R334, R352); none while some of it cannot be read at once. -/
def State.bar4Try (s : State) (f o n : Nat) : Option State :=
  match s.bar4Map f o n with
  | none => some (s.emit (.unsupported f))
  | some ps => (s.agentReads false ps).map (fun t =>
      if ps.any (fun p => s.rangePoison p.1 p.2) then (t.emit (.bar4Poison f)).logAer f o n
      else t.emit (.bar4Data f (ps.flatMap (fun p => s.cohRead p.1 p.2))))

/-- BAR4_READ (R127): a read that a slice or a stack does not take yet waits (log 141). -/
def State.bar4Read (s : State) (f o n : Nat) : State :=
  (s.bar4Try f o n).getD { s with pci := { s.pci with reads := s.pci.reads ++ [(f, o, n)] } }

/-- Host reads that wait are performed as they can be. -/
def State.serveHostReads (s : State) : State :=
  s.pci.reads.foldl (fun t x =>
    match t.bar4Try x.1 x.2.1 x.2.2 with
    | some u => { u with pci := { u.pci with reads := u.pci.reads.erase x } }
    | none => t) s

/-- Host requests are performed once the module is READY and the function enabled (R133, R506) and in D0 (R119,
log 129). -/
def State.hostOk (s : State) (f : Nat) : Bool := s.ready && s.fnEnabled f && !(Tab.get false s.pci.d3hot f)

def execBar4Read (f : Fun) (o : BitVec 36) (n : BitVec 13) (s : State) : Res :=
  .next (if s.hostOk f.val then s.bar4Read f.val o.toNat n.toNat else s)

/-- BAR4_WRITE (R127): performed coherently, or dropped with a non-fatal error in AER. -/
def State.bar4Write (s : State) (f o : Nat) (bs : List Byte) : State :=
  match s.bar4Map f o bs.length with
  | none => s.logAer f o bs.length
  | some ps => (ps.foldl (fun (x : State × List Byte) p => (x.1.cohWrite (.bar4, none) p.1 (x.2.take p.2), x.2.drop p.2)) (s, bs)).1

def execBar4Write (f : Fun) (o : BitVec 36) (bs : List Byte) (s : State) : Res :=
  .next (if s.hostOk f.val then s.bar4Write f.val o.toNat bs else s)

/-- A doorbell value (R143, R144). -/
def State.doorbell (s : State) (c : Nat) (v : Word) : State :=
  let x := s.ctx c
  let i := field v 17 0
  let act : State := if i < x.slots then s.setCtx c { x with tail := i } else s.latch .ctxtab c 0x800 (· ||| flag true 18)
  match x.st with
  | .active => act
  | .stopped => act
  | .destroying => s
  | .clearing => s
  | .free => s


/-- Send what a pending bit holds once its vector is unmasked. -/
def State.flushVector (s : State) (f v : Nat) : State :=
  if s.heldMsgs f v ≠ [] && !(s.vectorMasked f v) then
    ({ s with pci := { s.pci with pba := Tab.del (msixKey f v) s.pci.pba } }).sendMsix f v none
  else s

/-- A write into the MSI-X table (R123, R136). -/
def State.msixWrite (s : State) (f o : Nat) (v : Word) : State :=
  ({ s with pci := { s.pci with msixTable := Tab.set (msixDefault o) s.pci.msixTable (f * 65536 + o) v } }).flushVector
    f (o / 16)

/-- DOORBELL_WRITE (R123, R124, R144): a write into BAR2, doorbell pages first, the MSI-X table behind them. -/
def State.bar2Write (s : State) (f o : Nat) (v : Word) : State :=
  let pages := if f = 0 then 3072 else 768
  if o < pages * 4096 then
    if o % 4096 = 0 && o / 4096 < s.ctxCount f then s.doorbell (s.ctxBase f + o / 4096) v else s
  else if o - pages * 4096 < 16 * msixSize f && o % 4 = 0 then s.msixWrite f (o - pages * 4096) v
  else s

def execDoorbellWrite (f : Fun) (o : BitVec 24) (v : Word) (s : State) : Res :=
  .next (if s.hostOk f.val then s.bar2Write f.val o.toNat v else s)

/-- ATOMICOP_REQUEST (R120). -/
def execAtomicopRequest (f : Fun) (s : State) : Res := .next (s.emit (.unsupported f.val))

/-- Steps 1 and 2 of a teardown (R155): the slot enters DESTROYING, its commands are discarded, its work is stopped and
receives CANCELLED. An ATS answer that is under way still comes, and a denial is a fault (R151, R157). -/
def State.beginTeardown (s : State) (c : Nat) : State :=
  let x := s.ctx c
  match x.st with
  | .active =>
    (s.setCtx c { x with st := .destroying, fetched := none, halted := s.fr.ticks + 1 }).stopCtxWork c stCancelled
  | .stopped =>
    (s.setCtx c { x with st := .destroying, fetched := none, halted := s.fr.ticks + 1 }).stopCtxWork c stCancelled
  | .destroying => s
  | .clearing => s
  | .free => s

/-- Contexts of a partition that hold something. -/
def State.ctxsOf (s : State) (p : Nat) : List Nat :=
  s.ctxs.filterMap (fun x => if x.2.st != .free && x.2.part = p then some x.1 else none)

/-- A requester's copies return to their reset values (R133). -/
def State.resetCopies (s : State) (r : Nat) : State :=
  { s with regs := { s.regs with
      copy := s.regs.copy.filter (fun p => p.1 / 32 / 33 ≠ r)
      args := s.regs.args.filter (fun p => p.1 / 2 ^ 32 / 32 ≠ r) } }

/-- Every context of a partition is destroyed, its requester's copies reset (R133); its function's reads are forgotten. -/
def State.resetFunction (s : State) (p : Nat) : State :=
  let t := ((s.ctxsOf p).foldl (fun t c => t.beginTeardown c) s).resetCopies p
  { t with pci := { t.pci with reads := t.pci.reads.filter (·.1 ≠ p) } }

/-- Clearing VF Enable (R133). -/
def State.clearVfs (s : State) : State :=
  let t := (upFrom 1 31).foldl (fun t p => (t.resetFunction p).touch p) s
  { t with pci := { t.pci with vfEnable := false } }

/-- VF_ENABLE_CLEAR (R133). -/
def execVfEnableClear (s : State) : Res := .next (if s.ready && s.pci.vfEnable then s.clearVfs else s)

/-- Offsets of the grant registers of R129 and R369. -/
def grantOffsets : List Nat := [0x104, 0x108, 0x10C, 0x110, 0x114, 0x118]

/-- Every grant of a partition returns to its reset value (R133). -/
def State.ungrant (s : State) (p : Nat) : State :=
  let t := grantOffsets.foldl (fun t o => t.setCfg .puppeteer p o 0) s
  t.setPart p { t.part p with hbm := 0 }

/-- MSI-X of a function is off again after its reset. -/
def State.msixOff (s : State) (f : Nat) : State :=
  { s with pci := { s.pci with
      msixEnable := Tab.del f s.pci.msixEnable, msixMask := Tab.del f s.pci.msixMask
      d3hot := Tab.del f s.pci.d3hot
      msixTable := s.pci.msixTable.filter (fun p => p.1 / 65536 ≠ f)
      pba := s.pci.pba.filter (fun p => p.1 / 4096 ≠ f) } }

/-- A reset of one function (R133). -/
def State.flr (s : State) (f : Nat) : State :=
  if f = 0 then
    let t := (List.range 32).foldl (fun t p => ((t.resetFunction p).ungrant p).touch p) s
    ({ t with pci := { t.pci with vfEnable := false, numVfs := 0 } }.setCfg .pcie 0 0x100 0).msixOff 0
  else ((s.resetFunction f).touch f).msixOff f

/-- FUNCTION_LEVEL_RESET (R133), in D3hot too. -/
def execFunctionLevelReset (f : Fun) (s : State) : Res :=
  .next (if s.ready && s.fnEnabled f.val then s.flr f.val else s)

/-- What a function's configuration space holds (R119, R121, R122), as numbers; link status, MSI-X control and AER status
in the layout of PCI Express (log 129). None where the spec gives no value. -/
def State.configWord (s : State) (f : Nat) : CfgReg → Option Word
  | .totalVfs => if f = 0 then some 31 else none
  | .numVfs => if f = 0 then some (BitVec.ofNat 32 s.pci.numVfs) else none
  | .vfEnable => if f = 0 then some (flag s.pci.vfEnable 0) else none
  | .firstVfOffset => if f = 0 then some 1 else none
  | .vfStride => if f = 0 then some 1 else none
  | .maxPayload => some 512
  | .maxReadRequest => some 4096
  | .linkStatus => some (place (if s.pci.half then 8 else 16) 4 ||| place s.pci.speed 0)
  | .atsQueueDepth => some 32
  | .pasidWidth => some 20
  | .msixSize => some (BitVec.ofNat 32 (msixSize f))
  | .msixControl =>
    some (flag (Tab.get false s.pci.msixEnable f) 15 ||| flag (Tab.get false s.pci.msixMask f) 14 |||
      place (msixSize f - 1) 0)
  | .powerState => some (if Tab.get false s.pci.d3hot f then 3 else 0)
  | .bar4Log2 => if f = 0 then some (BitVec.ofNat 32 s.pci.bar4Log2) else none
  | .vfBar4Log2 => if f = 0 then some (BitVec.ofNat 32 s.pci.vfBar4Log2) else none
  | .aerStatus => some (flag (Tab.get {} s.pci.aer f).nonFatal 20 ||| (Tab.get {} s.pci.aer f).fatal)
  | .aerCorrectable => some (Tab.get {} s.pci.aer f).correctable
  | .aerHeader =>
    match (Tab.get {} s.pci.aer f).header with
    | some x => some (BitVec.ofNat 32 x.1)
    | none => some 0
  | .other reg => Tab.get none s.pci.config (f * 4096 + reg.toNat)

/-- What the DOE mailbox carries, as data object types (R119): discovery and what IDE_KM travels in, under the vendor ID and
with the numbers of PCI Express (PRESUMED, log 129), and the attestation exchange of R533. -/
def doeTypes : List (Nat × Nat) := [(1, 0), (1, 1), (1, 2), (Config.vendorId.toNat, 0x80)]

/-- Answer to a DOE discovery request (R119): vendor ID, type and the next index, 0 after the last (log 129). -/
def doeDiscovery (i : Nat) : List Byte :=
  let x := doeTypes.getD i (0xFFFF, 0)
  leBytes 2 x.1 ++ leBytes 1 x.2 ++ leBytes 1 (if i + 1 < doeTypes.length then i + 1 else 0)

/-- CONFIG_REQUEST after READY (R119, R122, R506). -/
def State.configOp (s : State) (f : Nat) : CfgOp → State
  | .read reg =>
    match s.configWord f reg with
    | some v => s.emit (.cfgDone f v)
    | none => (s.useFree 1).emit (.cfgDone f s.freeWord)
  | .bar4Size vf n =>
    let t : State := if f ≠ 0 then s
      else if vf then { s with pci := { s.pci with vfBar4Log2 := n.val } }
      else { s with pci := { s.pci with bar4Log2 := n.val } }
    t.emit (.cfgDone f 0)
  | .aerClear => ({ s with pci := { s.pci with aer := Tab.del f s.pci.aer } }).emit (.cfgDone f 0)
  | .errors c n =>
    let x : AerLog := Tab.get {} s.pci.aer f
    let y : AerLog := { x with correctable := x.correctable ||| c, fatal := x.fatal ||| n }
    ({ s with pci := { s.pci with aer := Tab.set {} s.pci.aer f y } } : State).emit (.cfgDone f 0)
  | .doeDiscovery i =>
    if f = 0 then (s.emit (.message (.doe (.other 1) 0) (doeDiscovery i.toNat))).emit (.cfgDone f 0) else s.emit (.unsupported f)
  | .linkTrain half speed => ({ s with pci := { s.pci with half := half, speed := speed.val } }).emit (.cfgDone f 0)
  | .msixControl en mask =>
    let t : State := { s with pci := { s.pci with
      msixEnable := Tab.set false s.pci.msixEnable f en, msixMask := Tab.set false s.pci.msixMask f mask } }
    ((t.pci.pba.filter (fun p => p.1 / 4096 = f)).foldl (fun u p => u.flushVector f (p.1 % 4096)) t).emit
      (.cfgDone f 0)
  | .vfControl en n =>
    let t := if f ≠ 0 then s
      else if en then
        (upFrom 1 31).foldl (fun t p => t.touch p) { s with pci := { s.pci with vfEnable := true, numVfs := n.val } }
      else if s.pci.vfEnable then s.clearVfs else s
    t.emit (.cfgDone f 0)
  | .powerState d3 => ({ s with pci := { s.pci with d3hot := Tab.set false s.pci.d3hot f d3 } }).emit (.cfgDone f 0)
  | .other reg v =>
    ({ s with pci := { s.pci with config := Tab.set none s.pci.config (f * 4096 + reg.toNat) (some v) } }).emit
      (.cfgDone f 0)

/-- CONFIG_REQUEST (R506): Request Retry Status before READY. -/
def execConfigRequest (f : Fun) (op : CfgOp) (s : State) : Res :=
  .next (if !s.ready then s.emit (.cfgRetry f.val)
    else if s.fnEnabled f.val then s.configOp f.val op
    else s.emit (.unsupported f.val))

/-- ATS_INVALIDATION (R119): taken into the queue of depth 32, and the translations of the range go. -/
def State.atsInvalidate (s : State) (f tag base len : Nat) : State :=
  { s with
    pci := { s.pci with ats := s.pci.ats ++ [(f, tag)] }
    ctxs := s.ctxs.map (fun x =>
      if x.2.part = f then
        (x.1, { x.2 with ats := x.2.ats.filter (fun p => p.1 * 4096 + 4096 ≤ base || base + len ≤ p.1 * 4096) })
      else x) }

def execAtsInvalidation (f : Fun) (tag : BitVec 5) (base len : BitVec 64) (s : State) : Res :=
  .next (if s.hostOk f.val && s.pci.ats.length < 32 then s.atsInvalidate f.val tag.toNat base.toNat len.toNat else s)

/-- ATS_COMPLETION (R151): the waiting access may proceed, or the context faults. -/
def execAtsCompletion (c : CtxId) (denied : Bool) (s : State) : Res :=
  let x := s.ctx c.val
  .next (match x.atsWait with
    | none => s
    | some pg =>
      if denied then (s.setCtx c.val { x with atsWait := none }).ctxFault c.val 0x3013
      else s.setCtx c.val { x with atsWait := none, ats := Tab.set false x.ats pg true })

/-- CREATE_ARG (R140). -/
def execCreateArg (r : MbxReq) (s : State) : Res :=
  .next (s.mbxRun r .ctxtab { num := 1, read := false, write := true, len := 2, follows := false } (fun _ _ ws t =>
    itemDone (t.setArg r.req .ctxtab 1 0 ws)))

/-- Reserved bits or bytes of a descriptor are set, or a field is out of its range (R138, R141). -/
def descBad (d : List Byte) (desc p : Nat) : Bool :=
  let log2 := leAt d 8 4
  let irq := leAt d 0x20 2
  desc % 256 ≠ 0 || 31 < log2 || log2 < 12 || 24 < log2 || leAt d 0 8 / 2 * 2 % 2 ^ (log2 % 32) ≠ 0 ||
    leAt d 0x0C 4 / 2 ^ 20 % 2 ^ 11 ≠ 0 || leAt d 0x10 8 % 4096 ≠ 0 || 2048 ≤ irq || msixSize p ≤ irq ||
    !(zerosAt d 0x22 2) || leAt d 0x24 1 ≠ p || !(zerosAt d 0x25 27) || !(zerosAt d 0x48 184)

/-- The descriptor, the ring in device memory or PT_ROOT lies outside the grant (R141). -/
def State.descAddrBad (s : State) (d : List Byte) (desc p : Nat) : Bool :=
  !(s.grantedRange p desc 256) ||
    (leAt d 0 8 % 2 = 0 && !(s.grantedRange p (leAt d 0 8) (2 ^ (leAt d 8 1 % 32)))) ||
    !(s.grantedHbm p (leAt d 0x10 8))

/-- Lowest FREE slot of a partition, as a local number (R141, R142). -/
def State.freeCtxSlot (s : State) (p : Nat) : Option Nat :=
  (List.range (s.ctxCount p)).find? (fun i => (s.ctx (s.ctxBase p + i)).st = .free)

/-- The context a descriptor describes (R138). -/
def ctxOf (d : List Byte) (desc p : Nat) : Ctx :=
  let pasid := leAt d 0x0C 4
  { st := .active, part := p, desc := desc, ringHost := leAt d 0 1 % 2 = 1, ringBase := leAt d 0 8 / 2 * 2
    ringLog2 := leAt d 8 4, pasid := if pasid / 2 ^ 31 = 1 then some (pasid % 2 ^ 20) else none
    ptRoot := leAt d 0x10 8, key := BitVec.ofNat 32 (leAt d 0x1C 4), irq := leAt d 0x20 2 }

/-- CREATE (R141), once the descriptor is read: word 0 and the state after. -/
def State.doCreate (s : State) (p desc : Nat) : Word × State :=
  let d := if s.grantedRange p desc 256 then s.cohRead desc 256 else []
  if s.descAddrBad d desc p then (place 0x22 24, s)
  else if descBad d desc p then (place 0x21 24, s)
  else
    match s.freeCtxSlot p with
    | none => (place 0x20 24, s)
    | some i =>
      let c := s.ctxBase p + i
      (place i 0, ((s.setCtx c (ctxOf d desc p)).setCfg .ctxtab c 0x100 (BitVec.ofNat 32 (leAt d 0x18 4))).cohWrite
        (.fetch, some c) (desc + 0x40) (leBytes 8 0))

/-- CREATE for a partition and a descriptor; none while that cannot be read. -/
def createAct (a : List Nat) (s : State) : Option ItemRes :=
  let p := a.getD 0 0
  let desc := a.getD 1 0
  (if s.grantedRange p desc 256 then s.agentRead false desc 256 else some s).map (fun t =>
    let (w, u) := t.doCreate p desc
    (errDone, [w, 0], u))

def execCreate (r : MbxReq) (s : State) : Res :=
  .next (s.mbxRead r .ctxtab { num := 2, read := true, write := false, len := 2, follows := false }
    (fun _ _ _ t => [t.selPart r.req r.win, natOf (t.arg r.req .ctxtab 1 0)]) createAct)

/-- DESTROY (R155). -/
def execDestroy (r : MbxReq) (s : State) : Res :=
  .next (s.mbxRun r .ctxtab { num := 3, read := false, write := true, len := 1 } (fun c _ _ t =>
    match (t.ctx c).st with
    | .active => itemDone (t.beginTeardown c)
    | .stopped => itemDone (t.beginTeardown c)
    | .destroying => itemDenied t
    | .clearing => itemDenied t
    | .free => itemDenied t))

/-- Cores that ran a context since they last cleared (R155). -/
def State.coresRan (s : State) (c : Nat) : List Nat :=
  s.cores.filterMap (fun p => if p.2.ran.contains c then some p.1 else none)

/-- A core writes back and zeroes its L1, its registers and its scratch (R155). -/
def State.clearCore (s : State) (k : Nat) : State :=
  let x := s.core k
  ({ s with up := s.up ++ writeBacks k x.l1 }).setCore k { x.zero with l1 := [], ran := [] }

/-- A core is marked as clearing for a context until the context's teardown ends (R155). -/
def State.markClear (s : State) (c k : Nat) : State :=
  (s.clearCore k).setCore k { (s.clearCore k).core k with clearFor := c :: (s.core k).clearFor }

/-- TEARDOWN_CLEAR_START (R155): at the first tick after the stop. -/
def execTeardownClearStart (c : CtxId) (s : State) : Res :=
  let x := s.ctx c.val
  .next (if x.st = .destroying && x.halted ≠ 0 && x.halted ≤ s.fr.ticks &&
      (s.coresRan c.val).all (fun k => (s.core k).launch.isNone) then
      ((s.coresRan c.val).foldl (fun t k => t.markClear c.val k) s).setCtx c.val
        { x with st := .clearing, tlb := [], ats := [], atsWait := none }
    else s)

/-- TEARDOWN_CLEAR_DONE (R155): registers and SQ fields return to reset, SEQ goes on, the slot is FREE. The cores that
cleared for this context are done with it, whatever is granted meanwhile. -/
def execTeardownClearDone (c : CtxId) (s : State) : Res :=
  .next (if (s.ctx c.val).st = .clearing then
      let t : State := { s with cores := s.cores.map (fun p =>
        (p.1, { p.2 with clearFor := p.2.clearFor.filter (· ≠ c.val) })) }
      ((t.setCfg .ctxtab c.val 0x100 0).clearSq .ctxtab c.val 0x800).setCtx c.val {}
    else s)

/-- RESUME (R140, R152). -/
def execResume (r : MbxReq) (s : State) : Res :=
  .next (s.mbxRun r .ctxtab { num := 4, read := false, write := true, len := 1 } (fun c _ _ t =>
    match (t.ctx c).st with
    | .stopped => itemDone (t.setCtx c { t.ctx c with st := .active })
    | .active => itemDenied t
    | .destroying => itemDenied t
    | .clearing => itemDenied t
    | .free => itemDenied t))

end Sys2Proof.Machine
end

