-- ==== Sys2Proof/Machine/Hss.lean ====
section
/-! DEFINITION. HSS signatures (RFC 8554) with the one set of parameters of R523: their verification, and the form of
those that the module and Motetas make. -/

namespace Sys2Proof.Machine

/-- Big-endian bytes of a number. -/
def beBytes (n v : Nat) : List Byte := (leBytes n v).reverse

/-- Big-endian number in bytes `o` to `o + n - 1`. -/
def beAt (bs : List Byte) (o n : Nat) : Nat := leNat (bytesAt bs o n).reverse

/-- Types of R523: LMS_SHA256_M32_H20 and LMOTS_SHA256_N32_W8. -/
def lmsType : List Byte := beBytes 4 8
def otsType : List Byte := beBytes 4 4

/-- LMS public key of a tree of the module's key or the manufacturing key, 56 B. -/
def lmsPublic (maker : Bool) (tree : Nat) : List Byte :=
  lmsType ++ otsType ++ leBytes 16 (Config.treeId maker tree).toNat ++ leBytes 32 (Config.treeRoot maker tree).toNat

/-- HSS public key, 60 B: two levels, and the tree of level 0. -/
def hssPublic (maker : Bool) : List Byte := beBytes 4 2 ++ lmsPublic maker 0

/-- LMS signature of a leaf of a tree over a message, 1,772 B. -/
def lmsSign (maker : Bool) (tree leaf : Nat) (msg : List Byte) : List Byte :=
  let v := fun i => leBytes 32 (Config.lmsValue maker tree leaf msg i).toNat
  beBytes 4 leaf ++ otsType ++ (List.range 35).flatMap v ++ lmsType ++ (List.range 20).flatMap (fun i => v (35 + i))

/-- HSS signature with index q, 3,604 B: the leaf of level 0 is q div 2^20, and signs the level-1 key; that of level 1 is q
mod 2^20 (R523). -/
def hssSign (maker : Bool) (q : Nat) (msg : List Byte) : List Byte :=
  let leaf := q / 2 ^ 20
  let key := lmsPublic maker (1 + leaf)
  beBytes 4 1 ++ lmsSign maker 0 leaf key ++ key ++ lmsSign maker (1 + leaf) (q % 2 ^ 20) msg

/-- One chain of LM-OTS from step `j` for `n` more steps. -/
def otsChain (i : List Byte) (q k : Nat) : Nat → Nat → List Byte → List Byte
  | 0, _, t => t
  | n + 1, j, t => otsChain i q k n (j + 1) (sha256 (i ++ beBytes 4 q ++ beBytes 2 k ++ beBytes 1 j ++ t))

/-- Checksum of LM-OTS with w = 8. -/
def otsSum (h : List Byte) : Nat := (h.map (fun b => 255 - b.toNat)).sum

/-- LM-OTS public key candidate of a signature (type 4 B, C 32 B, 34 chains of 32 B) over a message. -/
def otsKey (i : List Byte) (q : Nat) (sig msg : List Byte) : List Byte :=
  let h := sha256 (i ++ beBytes 4 q ++ [0x81, 0x81] ++ bytesAt sig 4 32 ++ msg)
  let d := h ++ beBytes 2 (otsSum h)
  let z := (List.range 34).flatMap (fun k =>
    let a := (d.getD k 0).toNat
    otsChain i q k (255 - a) a (bytesAt sig (36 + 32 * k) 32))
  sha256 (i ++ beBytes 4 q ++ [0x80, 0x80] ++ z)

/-- Root over a leaf's path, from a node upwards. -/
def lmsRoot (i : List Byte) : List (List Byte) → Nat → List Byte → List Byte
  | [], _, t => t
  | p :: ps, n, t =>
    let pair := if n % 2 = 1 then p ++ t else t ++ p
    lmsRoot i ps (n / 2) (sha256 (i ++ beBytes 4 (n / 2) ++ [0x83, 0x83] ++ pair))

/-- An LMS signature (q 4 B, LM-OTS signature 1,124 B, type 4 B, path 640 B) verifies under a public key of 56 B. -/
def lmsVerify (key msg sig : List Byte) : Bool :=
  let i := bytesAt key 8 16
  let q := beAt sig 0 4
  let leaf := sha256 (i ++ beBytes 4 (2 ^ 20 + q) ++ [0x82, 0x82] ++ otsKey i q (bytesAt sig 4 1124) msg)
  let path := (List.range 20).map (fun k => bytesAt sig (1132 + 32 * k) 32)
  key.length = 56 && sig.length = 1772 && beAt key 0 4 = 8 && beAt key 4 4 = 4 && q < 2 ^ 20 && beAt sig 4 4 = 4 &&
    beAt sig 1128 4 = 8 && lmsRoot i path (2 ^ 20 + q) leaf = bytesAt key 24 32

/-- An HSS signature of 3,604 B verifies under a public key of 60 B. -/
def hssVerify (key msg sig : List Byte) : Bool :=
  key.length = 60 && sig.length = 3604 && beAt key 0 4 = 2 && beAt sig 0 4 = 1 &&
    lmsVerify (key.drop 4) (bytesAt sig 1776 56) (bytesAt sig 4 1772) &&
    lmsVerify (bytesAt sig 1776 56) msg (bytesAt sig 1832 1772)

end Sys2Proof.Machine
end

