-- ==== Sys2Proof/Machine/Elementary.lean ====
section
/-! DEFINITION. The special functions of R168 and R243: reciprocal and square root to the bit, the other five within one
unit in the last place. -/

namespace Sys2Proof

/-- Fraction bits of the fixed-point values that bound a result. -/
def fxBits : Nat := 640
def fxOne : Nat := 2 ^ fxBits
def fxMul (a b : Nat) : Nat := a * b / fxOne

/-- 1/n ± 1/(3 n³) + 1/(5 n⁵) ± ...: the arc tangent of 1/n, or with `alt` false its hyperbolic one. -/
def arcSeries (alt : Bool) (n : Nat) : Nat → Nat → Nat → Int
  | 0, _, _ => 0
  | f + 1, k, t =>
    (if alt && k % 2 = 1 then -1 else 1) * ((t / (2 * k + 1) : Nat) : Int) + arcSeries alt n f (k + 1) (t / (n * n))

/-- π/2 by Machin's formula, and the natural logarithm of 2. -/
def halfPi : Nat := (8 * arcSeries true 5 150 0 (fxOne / 5) - 2 * arcSeries true 239 50 0 (fxOne / 239)).toNat
def lnTwo : Nat := (2 * arcSeries false 3 210 0 (fxOne / 3)).toNat

/-- Sum of `pick k` · y^k / k! over k. -/
def powerSeries (y : Nat) (pick : Nat → Int) : Nat → Nat → Nat → Int
  | 0, _, _ => 0
  | f + 1, k, t => pick k * t + powerSeries y pick f (k + 1) (fxMul t y / (k + 1))

def fxSum (y : Nat) (pick : Nat → Int) : Int := powerSeries y pick 160 0 fxOne
def fxExp (y : Nat) : Int := fxSum y (fun _ => 1)
def fxSin (y : Nat) : Int := fxSum y (fun k => if k % 4 = 1 then 1 else if k % 4 = 3 then -1 else 0)
def fxCos (y : Nat) : Int := fxSum y (fun k => if k % 4 = 0 then 1 else if k % 4 = 2 then -1 else 0)

/-- n bits of the logarithm to base 2 of a value of at least 1 and below 2, by squaring. -/
def logBits : Nat → Nat → Nat → Nat
  | 0, _, acc => acc
  | n + 1, m, acc =>
    let q := fxMul m m
    if 2 * fxOne ≤ q then logBits n (q / 2) (2 * acc + 1) else logBits n q (2 * acc)

/-- Code of the largest FP32 value not above m · 2^e. -/
def floor32 (m : Nat) (e : Int) : Nat :=
  if m = 0 then 0
  else
    let q := Fmt.step .fp32 m e
    Fmt.encode .fp32 false (if q ≤ e then m * 2 ^ (e - q).toNat else m / 2 ^ (q - e).toNat) q

/-- A NaN result is the canonical one (R240). -/
def canonicalNan (w : Word) : Word := if (Num.ofF32 w).isNan then 0x7FC00000 else w

/-- What an operation gives where the manual states no result (log 9). -/
def openResult (f : SpecialFn) (a : Word) : Word := canonicalNan (Config.specialFn f a)

/-- Code of one of two neighbours: `down`, or the next one up that is finite; 0 only where RNE of the exact value gives 0
(R239), which `zero` says. -/
def eitherSide (f : SpecialFn) (a : Word) (neg zero : Bool) (down : Nat) : Word :=
  let code := min (down + (Config.specialFn f a).toNat % 2) (Fmt.maxCode .fp32)
  BitVec.ofNat 32 (Fmt.signed .fp32 neg (if code = 0 && !zero then 1 else code))

/-- A result within one unit in the last place of a value between v and v + 2 · err, which no FP32 value equals: a
neighbour of it, free between the two (R243, log 9). -/
def nearValue (f : SpecialFn) (a : Word) (neg : Bool) (v err : Nat) : Word :=
  eitherSide f a neg (v + err ≤ 2 ^ (fxBits - 150)) (floor32 (v - err) (-(fxBits : Int)))

/-- The same where the exact value is the FP32 value of a code, 0 among them; a value other than 0 does not become 0
(R239). -/
def nearExact (f : SpecialFn) (a : Word) (neg : Bool) (code : Nat) : Word :=
  let k := (Config.specialFn f a).toNat
  if code = 0 then ([0, 0x80000000, 1, 0x80000001] : List Word).getD (k % 4) 0
  else BitVec.ofNat 32 (Fmt.signed .fp32 neg (max 1 (code + k % 3 - 1)))

/-- Error left in the values computed below, in units of 2^-640. -/
def fxErr : Nat := 2 ^ 200

/-- 1/√(m · 2^e) for m above 0. -/
def rsqrtOf (a : Word) (m : Nat) (e : Int) : Word :=
  let e2 := if e % 2 = 0 then e else e - 1
  let m2 := if e % 2 = 0 then m else 2 * m
  let r := Nat.sqrt (4 ^ 100 / m2)
  let c := floor32 r (-100 - e2 / 2)
  if r * r * m2 = 4 ^ 100 then nearExact .rsqrt a false c else eitherSide .rsqrt a false false c

/-- 2^x for x = ±m · 2^e. -/
def exp2Of (a : Word) (neg : Bool) (m : Nat) (e : Int) : Word :=
  if dyGt m e 200 0 then (if neg then eitherSide .exp2 a false true 0 else openResult .exp2 a)
  else
    let v := dyAt neg m (e + fxBits) 0
    let n := v / fxOne
    let frac := (v - n * fxOne).toNat
    if 128 ≤ n then openResult .exp2 a
    else if frac = 0 then
      (if n < -149 then eitherSide .exp2 a false true 0 else nearExact .exp2 a false (floor32 1 n))
    else eitherSide .exp2 a false (n < -150) (floor32 ((fxExp (fxMul frac lnTwo)).toNat - fxErr) (n - fxBits))

/-- log2 (m · 2^e) for m above 0. -/
def log2Of (a : Word) (m : Nat) (e : Int) : Word :=
  let l := Nat.log2 m
  let k : Int := e + l
  if m = 2 ^ l then nearExact .log2 a (k < 0) (floor32 k.natAbs 0)
  else
    let v : Int := k * (2 : Int) ^ 200 + logBits 200 (m * 2 ^ (fxBits - l)) 0
    nearValue .log2 a (v < 0) (v.natAbs * 2 ^ 440) (2 ^ 450)

/-- Sine (`turn` 0) or cosine (`turn` 1) of ±m · 2^e radians for m above 0. -/
def sineOf (f : SpecialFn) (a : Word) (turn : Nat) (neg : Bool) (m : Nat) (e : Int) : Word :=
  let x := m * 2 ^ (e + fxBits).toNat
  let r := x % halfPi
  let q := (x / halfPi + turn) % 4
  let v := if q % 2 = 0 then fxSin r else fxCos r
  nearValue f a ((2 ≤ q) != (turn = 0 && neg)) v.natAbs fxErr

/-- Reciprocal (R243). The manual states no result for a zero or an infinity. -/
def frcp (a : Word) : Word :=
  match Num.ofF32 a with
  | .nan => 0x7FC00000
  | .inf _ => openResult .rcp a
  | .fin _ m _ => if m = 0 then openResult .rcp a else fdiv 0x3F800000 a

/-- Square root (R243). The manual states no result for an infinity or a negative operand, and no sign for the root of −0,
which is −0: DESIGN CHOICE (log 163). -/
def froot (a : Word) : Word :=
  match Num.ofF32 a with
  | .nan => 0x7FC00000
  | .inf _ => openResult .sqrt a
  | .fin s m _ => if s && m ≠ 0 then openResult .sqrt a else fsqrt a

/-- The seven special functions (R168, R240, R243). A NaN gives the canonical NaN; an infinity, and an operand outside a
function's domain, gives what the manual leaves open (log 9); angles are in radians (log 148). -/
def special (f : SpecialFn) (a : Word) : Word :=
  match f, Num.ofF32 a with
  | .rcp, _ => frcp a
  | .sqrt, _ => froot a
  | .rsqrt, .nan => 0x7FC00000
  | .exp2, .nan => 0x7FC00000
  | .log2, .nan => 0x7FC00000
  | .sin, .nan => 0x7FC00000
  | .cos, .nan => 0x7FC00000
  | .rsqrt, .fin false (m + 1) e => rsqrtOf a (m + 1) e
  | .exp2, .fin s m e => if m = 0 then nearExact .exp2 a false 0x3F800000 else exp2Of a s m e
  | .log2, .fin false (m + 1) e => log2Of a (m + 1) e
  | .sin, .fin s m e => if m = 0 then nearExact .sin a s 0 else sineOf .sin a 0 s m e
  | .cos, .fin s m e => if m = 0 then nearExact .cos a false 0x3F800000 else sineOf .cos a 1 s m e
  | g, _ => openResult g a

end Sys2Proof
end

