-- ==== Sys2Proof/Machine/Threads.lean ====
section
/-! DEFINITION. Threads of a core: issue of bundles and single strands (R166, R167, R175), divergence (R172 to R174),
forward progress (R180 to R182), barriers (R176 to R178), exit, special values, and the active set (R171). -/

namespace Sys2Proof.Machine

/-- Mask of the lanes that satisfy a condition. -/
def maskWhere (f : Nat → Bool) : BitVec 32 :=
  BitVec.ofNat 32 ((List.range 32).foldl (fun a i => if f i then a + 2 ^ i else a) 0)

def Core.reg (c : Core) (t r : Nat) : Word := Tab.get 0 c.regs (256 * t + r)
def Core.setReg (c : Core) (t r : Nat) (v : Word) : Core := { c with regs := Tab.set 0 c.regs (256 * t + r) v }
def Core.pred (c : Core) (t p : Nat) : Bool := (Tab.get 0 c.preds t).getLsbD p
def Core.setPred (c : Core) (t p : Nat) (v : Bool) : Core :=
  let o := Tab.get 0 c.preds t
  let m : BitVec 8 := BitVec.ofNat 8 (2 ^ p)
  { c with preds := Tab.set 0 c.preds t (if v then o ||| m else o &&& ~~~m) }

/-- 64-bit value of registers r and r + 1. -/
def Core.reg64 (c : Core) (t r : Nat) : Nat := (c.reg t r).toNat + 2 ^ 32 * (c.reg t (r + 1)).toNat


/-- Threads write some registers: what an earlier load has still to bring to them is lost, so that each register ends
with the value of its last instruction (R167, log 50). -/
def MemOp.overwrite (o : MemOp) (ts dst : List Nat) : MemOp :=
  match o.kind with
  | .load d _ _ _ _ => if dst.contains d then { o with lost := o.lost ++ o.thr.filter ts.contains } else o
  | .result vals => { o with kind := .result (vals.filter (fun v => !(dst.contains v.1 && ts.contains v.2.1))) }
  | .store _ _ _ => o
  | .add _ _ _ => o
  | .join _ _ => o
  | .dead _ _ _ => o

/-- A status instruction writes no register of these threads any more: all of them (`none`), or those among `dst`. -/
def ArrEntry.overwrite (e : ArrEntry) (ts : List Nat) (dst : Option (List Nat)) : ArrEntry :=
  match e.act with
  | .stat d thr v =>
    if dst.all (·.contains d) then { e with act := .stat d (thr.filter (fun t => !(ts.contains t))) v } else e
  | _ => e

def Core.overwrite (c : Core) (ts dst : List Nat) : Core :=
  if dst = [] then c
  else { c with
    ops := c.ops.map (fun o => o.overwrite ts dst)
    arr := { c.arr with queue := c.arr.queue.map (fun e => e.overwrite ts (some dst)) } }

/-- Threads write registers that are ready for other instructions from cycle `at_` on (R168). -/
def Core.delay (c : Core) (ts dst : List Nat) (at_ : Nat) : Core :=
  { c with usable := ts.foldl (fun u t => dst.foldl (fun u r => Tab.set 0 u (depKey t r) at_) u) c.usable }

/-- Put a fence in force; those that have completed leave. -/
def Core.addFence (c : Core) (thr : List Nat) (module : Bool) : Core :=
  { c with fences := c.fences.filter (fun f => !(f.done c)) ++ [{ thr := thr, module := module, before := c.nextOp }] }

/-- The innermost open record that holds threads of a strand (R174). -/
def Group.inner (g : Group) (m : BitVec 32) : Option Split := g.splits.find? (fun r => r.threads &&& m ≠ 0)

/-- A strand stands at the join it must wait for (R174). -/
def Group.atJoin (g : Group) (t : Strand) : Bool :=
  match g.inner t.mask with
  | some r => r.join = t.pc
  | none => false

/-- A strand that may issue: neither parked, nor yielding, nor waiting at a join (R167, R174). -/
def Group.runnable (g : Group) (t : Strand) : Bool := t.wait = .run && !(g.atJoin t)

def Group.strandAt (g : Group) (pc : Nat) : Option Strand := g.strands.find? (fun t => t.pc = pc && g.runnable t)

def Core.group (c : Core) (gs : Nat) : Option Group := c.groups.find? (·.gs = gs)

def Core.setGroup (c : Core) (g : Group) : Core :=
  { c with groups := c.groups.map (fun h => if h.gs = g.gs then g else h) }

/-- What issues: the launch with its work, and the strands with their groups. -/
structure Issue where
  work : Work
  l : Launch
  sel : List (Group × Strand)
  deriving DecidableEq, Repr

/-- Threads of the issuing strands, group by group, lowest lane first. -/
def Issue.threads (i : Issue) : List Nat := i.sel.flatMap (fun p => (lanesOf p.2.mask).map (thrOf p.1.gs))

/-- Block slot of the issuing strands. -/
def Issue.bslot (i : Issue) : Nat := (i.sel.head?.map (·.1.bslot)).getD 0

/-- The strands a bundle names, if they can issue together (R153, R166 to R168, R171, R175, R309): each group issues once
in a cycle, none before the launch's clear is over or in the cycles after its branch. -/
def State.bundleOf (s : State) (b : Bundle) : Option Issue :=
  let k := b.core.val
  (s.running k).bind (fun wl =>
    (b.groups.mapM (fun g => ((s.core k).group g.val).bind (fun g => (g.strandAt b.pc.toNat).map (fun t => (g, t))))).bind
      (fun sel =>
        if sel ≠ [] && b.groups.Nodup && (s.core k).clearTo ≤ s.now &&
            sel.all (fun p => p.1.active && p.1.promoted ≤ s.now && p.1.issued ≤ s.now && p.2.ready ≤ s.now) &&
            sel.all (fun p => p.1.bslot = (sel.head?.map (·.1.bslot)).getD 0) &&
            (sel.map (fun p => quarters p.2.mask)).sum ≤ 4 then
          some { work := wl.1, l := wl.2, sel := sel }
        else none))

/-- Context of an issuing launch. -/
def Issue.ctx (i : Issue) : Nat := i.work.ctx.getD 0

/-- The engines that instructions target (R183). -/
inductive IssueKind where
  | control | vector | memory | array | sparse
  deriving DecidableEq, Repr

/-- Number of an engine (R183); control instructions target ISSUE alone. -/
def IssueKind.num : IssueKind → Nat
  | .control => 0 | .vector => 1 | .memory => 2 | .array => 3 | .sparse => 4

def onVector : BitVec 5 := 2
def onLsu : BitVec 5 := 4
def onArray : BitVec 5 := 8
def onSparse : BitVec 5 := 16
def onControl : BitVec 5 := 0

/-- A port for an engine is free in cycle `now`; an instruction for the sparsity unit counts as the cycle's array
instruction (R166, R285). -/
def IssuePorts.free (x : IssuePorts) (k : IssueKind) (now : Nat) : Bool :=
  match k with
  | .vector => x.vector.any (· ≤ now)
  | .memory => x.memory ≤ now
  | .array => x.array ≤ now
  | .sparse => x.array ≤ now
  | .control => x.control ≤ now

/-- The first vector slot that is free is taken up to cycle `fin`. -/
def takeSlot (now fin : Nat) : List Nat → List Nat
  | [] => []
  | v :: vs => if v ≤ now then fin :: vs else v :: takeSlot now fin vs

/-- An instruction for an engine holds its port for `n` cycles. -/
def IssuePorts.take (x : IssuePorts) (engine : BitVec 5) (now n : Nat) : IssuePorts :=
  if engine = onVector then { x with vector := takeSlot now (now + n) x.vector }
  else if engine = onLsu then { x with memory := now + n }
  else if engine = onControl then { x with control := now + n }
  else { x with array := now + n }

/-- Engines of R183 that accept an instruction this cycle, ISSUE with the engine itself, and the port it holds for `n`
cycles. -/
def Core.accept (c : Core) (engine : BitVec 5) (now n : Nat) : Core :=
  { c with busy := c.busy ||| 1 ||| engine, ports := c.ports.take engine now n }

/-- A strand among those that issue. -/
def Issue.has (i : Issue) (gs : Nat) (t : Strand) : Bool := i.sel.any (fun p => p.1.gs = gs && p.2.mask = t.mask)

/-- A bundle cannot issue now: its strands keep what their next instruction targets and waits for (R183). -/
def State.held (s : State) (k : Nat) (i : Issue) (h : Held) : State :=
  let c := s.core k
  s.setCore k { c with groups := c.groups.map (fun g =>
    { g with strands := g.strands.map (fun t => if i.has g.gs t then { t with held := some h } else t) }) }

/-- A register that is not below REGS (R188), 256 among them, which the pair of register 255 would name; numbers from 257
upward are predicates. -/
def breaksRegs (regs r : Nat) : Bool := regs ≤ r && r ≤ 256

/-- A register, or from number 257 upward a predicate, of a thread takes a word. -/
def Core.doubtReg (c : Core) (t r : Nat) (w : Word) : Core :=
  if r < 257 then c.setReg t r w else c.setPred t (r - 257) (w.getLsbD 0)

/-- What an instruction reads on a core marked in CORE_FAIL: free values, for the results there are not defined (R508,
log 155). -/
def State.doubt (s : State) (k : Nat) (threads src : List Nat) : State :=
  if s.power.coreFail.contains k then
    let rs := threads.flatMap (fun t => src.map (fun r => (t, r)))
    (s.setCore k (rs.zipIdx.foldl (fun c x => c.doubtReg x.1.1 x.1.2 (Config.freeWord (s.free + x.2))) (s.core k))).useFree
      rs.length
  else s

/-- Ports of R166: the sparsity unit shares the array's (R285). -/
def portOf (engine : Nat) : Nat := if engine = 4 then 3 else engine

/-- A strand is known to be ready for a port (R167): its next instruction was presented, and nothing that held it is left. -/
def Core.readyFor (c : Core) (l : Launch) (colOff : Bool) (now level port : Nat) (g : Group) (t : Strand) : Bool :=
  match t.held with
  | none => false
  | some h =>
    let ts := (lanesOf t.mask).map (thrOf g.gs)
    portOf h.engine = port && g.runnable t && t.ready ≤ now && ts.all (fun x => h.src.all (fun r => !(c.pendingReg now x r))) &&
      c.heldCause l colOff now level h = 0 && !(h.engine = 2 && c.fenced ts)

/-- A record is complete: each of its threads stands at the join, in a strand for which it is the innermost (R174). -/
def Group.complete (g : Group) (r : Split) : Bool :=
  (lanesOf r.threads).all (fun l => g.strands.any (fun t =>
    t.mask.getLsbD l && t.wait = .run && t.pc = r.join && g.inner t.mask = some r))

/-- A group may issue in this cycle (R166, R171). -/
def Group.mayIssue (g : Group) (now : Nat) : Bool := g.active && g.promoted ≤ now && g.issued ≤ now

/-- One group comes before another in the order of R166: issued less recently, ties to the lower slot. -/
def Group.before (g h : Group) : Bool := g.issued < h.issued || (g.issued = h.issued && g.gs < h.gs)

/-- Strands that R166 picks before those of group `h` for a port: of each group, one that is known to be ready. -/
def Core.elders (c : Core) (l : Launch) (colOff : Bool) (now level port : Nat) (h : Group) : List (Group × Strand) :=
  c.groups.filterMap (fun g =>
    if g.mayIssue now && g.before h then
      (g.strands.find? (c.readyFor l colOff now level port g)).map (fun t => (g, t))
    else none)

/-- Vector slots that strands take, those of one block at one address packed as closely as their quarters allow (R175). -/
def packedSlots (ps : List (Group × Strand)) : Nat :=
  ((ps.map (fun p => (p.1.bslot, p.2.pc))).dedup.map (fun x =>
    ceilDiv ((ps.filter (fun p => (p.1.bslot, p.2.pc) = x)).map (fun p => quarters p.2.mask)).sum 4)).sum

/-- Groups with a complete record are as ready for the control port as a strand is (R166, R174). -/
def Core.joinsBefore (c : Core) (now port : Nat) (h : Group) : Bool :=
  port = 0 && c.groups.any (fun g => g.mayIssue now && g.before h && g.splits.any g.complete)

/-- Strands known to be ready that issued less recently take all that is free of a port, so that group `h` is not picked
(R166). -/
def State.outranked (s : State) (k : Nat) (l : Launch) (port : Nat) (h : Group) : Bool :=
  let c := s.core k
  let es := (c.elders l (bit (s.cfg .array k 0x100) 1) s.now s.govLevel port h).filter (fun p => p.2.held.all (fun x =>
    !((x.engine = 3 && s.inHold .array k) || (x.engine = 4 && s.inHold .sparse k) ||
      (x.why = .rng && s.inHold .rng 0))))
  let free := if port = 1 then (c.ports.vector.filter (· ≤ s.now)).length else 1
  c.joinsBefore s.now port h || free ≤ (if port = 1 then packedSlots es else es.length)

/-- The group of a bundle that comes first in the order of R166. -/
def Issue.eldest (i : Issue) : Option Group :=
  i.sel.foldl (fun o p => match o with | none => some p.1 | some g => if g.before p.1 then some g else some p.1) none

/-- Issue of a bundle: its fetch is translated with EXEC (R150), every register it names is below REGS (R188), every
register and predicate it reads has been written (R167), a port of its kind is free and R166 picks it, and for a memory
instruction no fence holds its threads (R336) and the queue has room (R169). A bundle that cannot issue now leaves only a
note of what it waits for. Among strands whose next instructions were never presented the commands choose (log 49). -/
def State.issueNow (s : State) (b : Bundle) (dst src : List Nat) (kind : IssueKind) (f : Issue → State → State) : State :=
  match s.bundleOf b with
  | none => s
  | some i =>
    let k := b.core.val
    let c := s.core k
    let hold (why : HeldBy) : State := s.held k i { engine := kind.num, src := src, why := why }
    match s.xlate i.ctx b.pc.toNat .exec .core with
    | .error e => (s.walkReads i.ctx b.pc.toNat).coreFault k i.bslot 0 e
    | .ok (lf, _) =>
      if (dst ++ src).any (breaksRegs i.l.regs) then s.coreFault k i.bslot 0 0x3002
      else if i.threads.any (fun t => src.any (c.pendingReg s.now t)) then hold .taken
      else if !(c.ports.free kind s.now) || i.eldest.any (s.outranked k i.l (portOf kind.num)) then hold .taken
      else if kind = .memory && c.fenced i.threads then hold .fence
      else if kind = .memory && c.lsuFull then hold (.lsu [])
      else f i ((s.holdTlb i.ctx b.pc.toNat lf).doubt k i.threads src)

/-- A core that a fault has stopped in this cycle, with its launch, as it was. -/
def State.ghost (s : State) (k : Nat) : Option State :=
  if (s.core k).launch.isSome then none
  else
    (s.fallen.find? (fun x => x.core = k && x.cycle = s.now)).map (fun x =>
      ({ s with works := x.work :: s.works } : State).setCore k x.was)

/-- What a core that has fallen does in state `t`: a fault is latched and reported as there (R187), and nothing else is left
but the core as it was. -/
def State.takeFault (s t : State) (k : Nat) : State :=
  let u : State := if Tab.get 0 t.regs.latched (regKey .core k 0x804) = Tab.get 0 s.regs.latched (regKey .core k 0x804) then s
    else { s with regs := t.regs, pci := t.pci, out := t.out }
  { u with fallen := s.fallen.map (fun x =>
      if x.core = k && x.cycle = s.now && (t.core k).launch.isSome then { x with was := t.core k } else x) }

/-- What a core does in a cycle; one that the fault of another core has stopped in this very cycle still latches faults of
its own, and leaves nothing else (R188). -/
def State.orGhost (s : State) (k : Nat) (f : State → State) : State :=
  match s.ghost k with
  | none => f s
  | some g => s.takeFault (f g) k

/-- Issue of a bundle on its core. -/
def State.issue (s : State) (b : Bundle) (dst src : List Nat) (kind : IssueKind) (f : Issue → State → State) : State :=
  s.orGhost b.core.val (fun t => t.issueNow b dst src kind f)

/-- An instruction whose registers are there and that its engine cannot accept now. -/
def State.turnAway (s : State) (b : Bundle) (i : Issue) (kind : IssueKind) (why : HeldBy) : State :=
  s.held b.core.val i { engine := kind.num, src := [], why := why }

/-- A control or array instruction as a bundle of one strand. -/
def oneBundle (o : One) : Bundle := { core := o.core, groups := [o.group], pc := o.pc, next := o.next }

/-- Two strands that stand at one address merge, unless one is parked or yielding; the count starts again (R172,
R180). -/
def mergeInto (ts : List Strand) (x : Strand) : List Strand :=
  if x.wait = .run && ts.any (fun y => y.wait = .run && y.pc = x.pc) then
    ts.map (fun y => if y.wait = .run && y.pc = x.pc then
      { y with
        mask := y.mask ||| x.mask, brAddr := none, brCount := 0
        ready := max y.ready x.ready, issued := max y.issued x.issued
        held := if y.held.isSome then y.held else x.held } else y)
  else ts ++ [x]

def Group.merge (g : Group) : Group := { g with strands := g.strands.foldl mergeInto [] }

/-- An instruction of the threads of a mask counts towards the strands that yield to them (R181). -/
def noteIssue (m : BitVec 32) (t : Strand) : Strand :=
  match t.wait with
  | .run => t
  | .parked _ => t
  | .yielding c need => { t with wait := .yielding c (need.map (fun p => if m.getLsbD p.1 then (p.1, p.2 - 1) else p)) }

/-- A strand of a group has issued and becomes `after`. -/
def Group.replace (g : Group) (t : Strand) (after : List Strand) (now : Nat) : Group :=
  Group.merge { g with
    issued := now + 1
    strands := (g.strands.flatMap (fun x => if x.mask = t.mask then after else [noteIssue t.mask x])) }

/-- The issuing strands go on at the next instruction. -/
def Core.advance (c : Core) (sel : List (Group × Strand)) (next now : Nat) : Core :=
  sel.foldl (fun d p =>
    match d.group p.1.gs with
    | some g => d.setGroup (g.replace p.2 [{ p.2 with pc := next, held := none, issued := now + 1 }] now)
    | none => d) c

/-- A bundle's effect on registers, thread by thread, and its advance: it holds its port for `n` cycles and writes the
registers and predicates `dst`, which a dependent instruction may read `lat` cycles later (R168). -/
def State.bundleDone (s : State) (b : Bundle) (i : Issue) (engine : BitVec 5) (n lat : Nat) (dst : List Nat)
    (f : Core → Core) : State :=
  let k := b.core.val
  let c := f (((s.core k).overwrite i.threads dst).delay i.threads dst (s.now + lat))
  s.setCore k ((c.accept engine s.now n).advance i.sel b.next.toNat s.now)

def Core.forThreads (c : Core) (ts : List Nat) (f : Nat → Core → Core) : Core := ts.foldl (fun d t => f t d) c

/-- Value of a source in a thread. -/
def Core.src (c : Core) (t : Nat) : Src → Word
  | .reg r => c.reg t r.val
  | .imm v => v

def Src.regs : Src → List Nat
  | .reg r => [r.val]
  | .imm _ => []

/-- A shift by `n`; the manual states no result from 32 upward (log 21). -/
def shiftBy (code : Nat) (a n : Word) (f : Nat → Word) : Word :=
  if n.toNat < 32 then f n.toNat else Config.shiftBeyond code a n

/-- Integer and logic operations of 32 bits (R168). DESIGN CHOICE (log 22): the manual names the class only. -/
def intOp (op : IntOp) (a b : Word) : Word :=
  match op with
  | .add => a + b
  | .sub => a - b
  | .mul => a * b
  | .and => a &&& b
  | .or => a ||| b
  | .xor => a ^^^ b
  | .shl => shiftBy 0 a b (fun n => a <<< n)
  | .shr => shiftBy 1 a b (fun n => a >>> n)
  | .sar => shiftBy 2 a b (fun n => a.sshiftRight n)
  | .mov => a

/-- Comparisons of a predicate set (R168); one that involves a NaN is false, but for not-equal (log 22). -/
def cmpOp (op : CmpOp) (a b : Word) : Bool :=
  let x := Num.ofF32 a
  let y := Num.ofF32 b
  match op with
  | .eq => a = b
  | .ne => a ≠ b
  | .ltS => a.toInt < b.toInt
  | .leS => a.toInt ≤ b.toInt
  | .ltU => a.toNat < b.toNat
  | .leU => a.toNat ≤ b.toNat
  | .eqF => x.eq y
  | .neF => !(x.eq y)
  | .ltF => x.lt y
  | .leF => x.lt y || x.eq y

/-- Two BF16 FMAs of one lane, in the two halves of the register (R168, log 22). -/
def bf16Pair (a b c : Word) : Word :=
  let h (w : Word) : Nat := w.toNat / 65536
  let l (w : Word) : Nat := w.toNat % 65536
  BitVec.ofNat 32 (65536 * bffma (h a) (h b) (h c) + bffma (l a) (l b) (l c))

/-- Registers a vector instruction reads, and those it writes. -/
def AluInstr.reads : AluInstr → List Nat
  | .int _ _ a b => Src.regs a ++ Src.regs b
  | .setp _ _ a b => Src.regs a ++ Src.regs b
  | .add32 _ a b => Src.regs a ++ Src.regs b
  | .mul32 _ a b => Src.regs a ++ Src.regs b
  | .fma32 _ a b c => Src.regs a ++ Src.regs b ++ Src.regs c
  | .fmaBf16 _ a b c => Src.regs a ++ Src.regs b ++ Src.regs c

/-- Cycles from issue to the earliest issue of a dependent instruction (R168). -/
def AluInstr.latency : AluInstr → Nat
  | .int _ _ _ _ => 2
  | .setp _ _ _ _ => 2
  | .add32 _ _ _ => 4
  | .mul32 _ _ _ => 4
  | .fma32 _ _ _ _ => 4
  | .fmaBf16 _ _ _ _ => 4

/-- Number of a predicate among registers and predicates. -/
def predNum (p : PReg) : Nat := 257 + p.val

def AluInstr.writes : AluInstr → List Nat
  | .int _ d _ _ => [d.val]
  | .setp _ p _ _ => [predNum p]
  | .add32 d _ _ => [d.val]
  | .mul32 d _ _ => [d.val]
  | .fma32 d _ _ _ => [d.val]
  | .fmaBf16 d _ _ _ => [d.val]

/-- A vector instruction in one thread (R168, R243). -/
def Core.alu (c : Core) (t : Nat) (i : AluInstr) : Core :=
  match i with
  | .int op d a b => c.setReg t d.val (intOp op (c.src t a) (c.src t b))
  | .setp op p a b => c.setPred t p.val (cmpOp op (c.src t a) (c.src t b))
  | .add32 d a b => c.setReg t d.val (fadd (c.src t a) (c.src t b))
  | .mul32 d a b => c.setReg t d.val (fmul (c.src t a) (c.src t b))
  | .fma32 d a b e => c.setReg t d.val (ffma (c.src t a) (c.src t b) (c.src t e))
  | .fmaBf16 d a b e => c.setReg t d.val (bf16Pair (c.src t a) (c.src t b) (c.src t e))

/-- VECTOR_ALU (R168, R175). -/
def execVectorAlu (b : Bundle) (i : AluInstr) (s : State) : Res :=
  .next (s.issue b (AluInstr.writes i) (AluInstr.reads i) .vector (fun u t => t.bundleDone b u onVector 1
    (AluInstr.latency i) (AluInstr.writes i) (fun c => c.forThreads u.threads (fun x d => d.alu x i))))

/-- SPECIAL_FUNCTION (R168, R243): it holds its vector slot for 4 cycles. -/
def execSpecialFunction (b : Bundle) (f : SpecialFn) (d a : VReg) (s : State) : Res :=
  .next (s.issue b [d.val] [a.val] .vector (fun u t => t.bundleDone b u onVector 4 16 [d.val]
    (fun c => c.forThreads u.threads (fun x e => e.setReg x d.val (special f (e.reg x a.val))))))

/-- Array format code of R190, by which the watch table counts (R399); FP32 is 0x9. -/
def fmtCode : Fmt → Nat
  | .bf16 => 0 | .fp16 => 1 | .e4m3 => 2 | .e5m2 => 3 | .e3m2 => 4 | .e2m3 => 5 | .e2m1 => 6 | .int8 => 7
  | .int4 => 8 | .fp32 => 9

/-- An element is present (R273): `x` is the scale code of its block, 0 for the wide formats. -/
def present (f : Fmt) (code x : Nat) : Bool :=
  (f.isNarrow && x = 0xFF) || (if f.isInt then code ≠ 0 else code % 2 ^ (f.width - 1) ≠ 0)

/-- Report the counts of a cast to the entry that `w` names in its low 16 bits (R249, R399, R401): none for 0xFFFF or
beyond the grant. -/
def State.report (s : State) (p : Nat) (frame : FrameNo) (w : Nat) (f : Fmt) (cast nz : Nat) (k : Counts) : State :=
  if w = 0xFFFF || s.watchCount p ≤ w || cast = 0 then s
  else { s with reports := s.reports ++
    [{ entry := s.watchBase p + w, fmt := fmtCode f, counts := [cast, nz, k.flush, k.sat, k.nan], frame := frame }] }

/-- Lowest lane of a mask. -/
def lowLane (m : BitVec 32) : Nat := (lanesOf m).headD 0

/-- Threads of one issuing strand. -/
def strandThreads (p : Group × Strand) : List Nat := (lanesOf p.2.mask).map (thrOf p.1.gs)

/-- The thread whose registers a strand's scalar operands come from (R215, R250). -/
def leadOf (p : Group × Strand) : Nat := thrOf p.1.gs (lowLane p.2.mask)

def CvtFmt.fmt? : CvtFmt → Option Fmt
  | .int32 => none
  | .elem f => some f

/-- FP32, FP16, BF16 or INT32 (R250). -/
def CvtFmt.ok : CvtFmt → Bool
  | .int32 => true
  | .elem f => !f.isNarrow

/-- Counts of a cvt.f strand: elements present and the sum of what each lane counts. -/
def cvtCounts (c : Core) (df sf : Option Fmt) (f : Fmt) (a : Nat) (ts : List Nat) : Nat × Counts :=
  let rs := ts.map (fun t => convert df sf (c.reg t a))
  ((rs.filter (fun r => present f r.1.toNat 0)).length, rs.foldl (fun k r => k.add r.2) {})

/-- The report of one strand of cvt.f: conversions into FP16 and BF16 only (R249, R399). -/
def State.cvtReport (s : State) (i : Issue) (df sf : Option Fmt) (a w : Nat) (c : Core) (p : Group × Strand) : State :=
  match df with
  | none => s
  | some .fp32 => s
  | some f =>
    let (nz, k) := cvtCounts c df sf f a (strandThreads p)
    s.report i.work.part i.work.frame ((c.reg (leadOf p) w).toNat % 65536) f (strandThreads p).length nz k

/-- CVT_F (R241, R242, R249, R250). -/
def execCvtF (b : Bundle) (df sf : CvtFmt) (d a w : VReg) (s : State) : Res :=
  .next (s.issue b [d.val] [a.val, w.val] .vector (fun u t =>
    let k := b.core.val
    let c := t.core k
    if !(CvtFmt.ok df) || !(CvtFmt.ok sf) then t.coreFault k u.bslot 0 0x3002
    else
      u.sel.foldl (fun q p => q.cvtReport u (CvtFmt.fmt? df) (CvtFmt.fmt? sf) a.val w.val c p)
        (t.bundleDone b u onVector 1 4 [d.val] (fun c => c.forThreads u.threads (fun x e =>
          e.setReg x d.val (convert (CvtFmt.fmt? df) (CvtFmt.fmt? sf) (e.reg x a.val)).1)))))

/-- The block cast of one strand of cvt.blk: lanes outside it take part as +0 (R251). -/
def Core.castOf (c : Core) (f : Fmt) (a bump : Nat) (p : Group × Strand) : BlockCast :=
  blockCast f (c.pred (leadOf p) bump)
    ((List.range 32).map (fun l => if p.2.mask.getLsbD l then Num.ofF32 (c.reg (thrOf p.1.gs l) a) else .fin false 0 0))

/-- Bits [9:0] of vS (R251). -/
def castWord (r : BlockCast) : Word := flag (r.counts.sat ≠ 0) 9 ||| flag r.ovf 8 ||| place r.scale 0

/-- CVT_BLK (R246, R251). The code is written first, so that the scale word remains where vD and vS name one register:
DESIGN CHOICE (log 162). -/
def execCvtBlk (b : Bundle) (f : Fmt) (d v a : VReg) (bump : PReg) (w : VReg) (s : State) : Res :=
  .next (s.issue b [d.val, v.val] [a.val, w.val, predNum bump] .vector (fun u t =>
    let k := b.core.val
    let c := t.core k
    if !f.isNarrow then t.coreFault k u.bslot 0 0x3002
    else
      u.sel.foldl (fun q p =>
        let r := c.castOf f a.val bump.val p
        let ls := lanesOf p.2.mask
        q.report u.work.part u.work.frame ((c.reg (leadOf p) w.val).toNat % 65536) f ls.length
          (ls.filter (fun l => present f (r.codes.getD l 0) r.scale)).length r.counts)
        (t.bundleDone b u onVector 1 4 [d.val, v.val] (fun c0 => u.sel.foldl (fun e p =>
          let r := c.castOf f a.val bump.val p
          (lanesOf p.2.mask).foldl (fun e l =>
            (e.setReg (thrOf p.1.gs l) d.val (BitVec.ofNat 32 (r.codes.getD l 0))).setReg (thrOf p.1.gs l) v.val
              (castWord r)) e) c0))))

/-- CVT_WIDE (R244, R250). -/
def execCvtWide (b : Bundle) (f : Fmt) (d a v : VReg) (s : State) : Res :=
  .next (s.issue b [d.val] [a.val, v.val] .vector (fun u t =>
    if !f.isNarrow then t.coreFault b.core.val u.bslot 0 0x3002
    else t.bundleDone b u onVector 1 4 [d.val] (fun c => c.forThreads u.threads (fun x e =>
      e.setReg x d.val (widen f (e.reg x a.val).toNat (e.reg x v.val).toNat)))))

/-- MSK_PACK (R269): bit l is predicate p of lane l; lanes outside the strand give 0. -/
def execMskPack (b : Bundle) (d : VReg) (p : PReg) (s : State) : Res :=
  .next (s.issue b [d.val] [predNum p] .vector (fun u t => t.bundleDone b u onVector 1 2 [d.val] (fun c =>
    u.sel.foldl (fun e q =>
      let m := maskWhere (fun l => q.2.mask.getLsbD l && c.pred (thrOf q.1.gs l) p.val)
      e.forThreads (strandThreads q) (fun x g => g.setReg x d.val m)) c)))

/-- Remove threads from every open record; a record that holds none closes (R174, R181). -/
def Group.detach (g : Group) (m : BitVec 32) : Group :=
  { g with splits := (g.splits.map (fun r => { r with threads := r.threads &&& ~~~m })).filter (·.threads ≠ 0) }

/-- The lanes a branch sends to its target. -/
def takenOf (c : Core) (gs : Nat) (m : BitVec 32) (p : Option BranchPred) : BitVec 32 :=
  match p with
  | none => m
  | some q => maskWhere (fun l => m.getLsbD l && c.pred (thrOf gs l) q.p.val = q.want)

/-- The count of R180 after a taken branch at `pc`; a changed mask or another branch starts it again. -/
def branchCount (t : Strand) (whole back : Bool) (pc : Nat) : Option Nat × Nat :=
  if back then (some pc, if whole && t.brAddr = some pc then t.brCount + 1 else 1)
  else if whole then (t.brAddr, t.brCount)
  else (none, 0)

/-- Open a split record when the branch diverges and fewer than 16 are open (R173). -/
def Group.openSplit (g : Group) (m : BitVec 32) (join : Nat) : Group :=
  if g.splits.length < 16 then { g with splits := { threads := m, join := join } :: g.splits } else g

/-- R181: the strand is detached and yields to each other thread of its group. -/
def Group.spinSplit (g : Group) (x : Strand) (now : Nat) : Group :=
  let others := (g.strands.filter (·.mask ≠ x.mask)).flatMap (fun t => lanesOf t.mask)
  let y := { x with wait := .yielding now (others.map (fun l => (l, 32))), brAddr := none, brCount := 0 }
  { (g.detach x.mask) with strands := g.strands.map (fun t => if t.mask = x.mask then y else t) }

/-- Groups of a core after a branch of one strand; whether a spin split was applied (R168, R173, R180, R181). A branch
whose target is the next instruction sends all threads to one address and opens no record. -/
def Group.branch (g : Group) (t : Strand) (taken : BitVec 32) (pc target next join now : Nat) : Group × Bool :=
  let back := target ≤ pc
  let rest := t.mask &&& ~~~taken
  let whole := rest = 0
  let (ba, bc) := branchCount t whole back pc
  let x : Strand := { mask := taken, pc := target, brAddr := ba, brCount := bc, ready := now + 4, issued := now + 1 }
  let y : Strand := { mask := rest, pc := next, brAddr := if back || taken ≠ 0 then none else t.brAddr
                      brCount := if back || taken ≠ 0 then 0 else t.brCount, ready := now + 4, issued := now + 1 }
  let after := (if taken = 0 then [] else [x]) ++ (if rest = 0 then [] else [y])
  let h := if taken ≠ 0 && rest ≠ 0 && target ≠ next then g.openSplit t.mask join else g
  let put (g : Group) : Group :=
    { g with issued := now + 1
             strands := g.strands.flatMap (fun z => if z.mask = t.mask then after else [noteIssue t.mask z]) }
  if taken ≠ 0 && bc = 64 then
    if (put h).strands.length = 1 then
      (Group.merge { put h with strands := [{ x with brAddr := none, brCount := 0 }] }, false)
    else (((put h).spinSplit x now).merge, true)
  else ((put h).merge, false)

/-- A single strand that issues: its group, and the strand. -/
def Issue.only (i : Issue) : Option (Group × Strand) := i.sel.head?

/-- BRANCH (R173, R180, R181). -/
def execBranch (o : One) (p : Option BranchPred) (target join : VAddr) (s : State) : Res :=
  .next (s.issue (oneBundle o) [] (p.toList.map (fun q => predNum q.p)) .control (fun u t =>
    match u.only with
    | none => t
    | some (g, x) =>
      let k := o.core.val
      let c := t.core k
      let (h, spun) := g.branch x (takenOf c g.gs x.mask p) o.pc.toNat target.toNat o.next.toNat join.toNat t.now
      let v := t.setCore k ((c.accept onControl t.now 1).setGroup h)
      if spun then v.addCount .core k 0x808 1 else v))

/-- Threads of a group that have not exited. -/
def Group.live (g : Group) : List Nat := g.strands.flatMap (fun t => lanesOf t.mask)

/-- A lane of a group is parked at a barrier. -/
def Group.laneParked (g : Group) (lane : Nat) : Bool :=
  g.strands.any (fun t => t.mask.getLsbD lane && (match t.wait with | .run => false | .parked _ => true | .yielding _ _ => false))

/-- A yielding strand may go on (R181). -/
def Group.yieldOver (g : Group) (now : Nat) (t : Strand) : Bool :=
  match t.wait with
  | .run => false
  | .parked _ => false
  | .yielding c need => c + 256 ≤ now || need.all (fun p => p.2 = 0 || !(g.live.contains p.1) || g.laneParked p.1)

/-- YIELD_END (R181). -/
def execYieldEnd (core : CoreId) (gs : GroupSlot) (pc : VAddr) (s : State) : Res :=
  let k := core.val
  .next (match (s.core k).group gs.val with
    | none => s
    | some g =>
      match g.strands.find? (fun t => t.pc = pc.toNat && g.yieldOver s.now t) with
      | none => s
      | some t => s.setCore k ((s.core k).setGroup (Group.merge { g with
          strands := g.strands.map (fun x => if x.mask = t.mask then { x with wait := .run } else x) })))

/-- A join issues as a control instruction of its group: a complete record closes (R166, R174). -/
def State.joinGroup (s : State) (k : Nat) (l : Launch) (g : Group) : State :=
  let c := s.core k
  if g.mayIssue s.now && c.clearTo ≤ s.now && c.ports.free .control s.now && !(s.outranked k l 0 g) then
    match g.splits.find? g.complete with
    | none => s
    | some r =>
      s.setCore k ((c.accept onControl s.now 1).setGroup
        (Group.merge { g with splits := g.splits.erase r, issued := s.now + 1 }))
  else s

/-- JOIN (R174). -/
def execJoin (core : CoreId) (gs : GroupSlot) (s : State) : Res :=
  let k := core.val
  .next (match s.running k, (s.core k).group gs.val with
    | some (_, l), some g => s.joinGroup k l g
    | some _, none => s
    | none, _ => s)

/-- Live threads of a block: thread number in the block (R160). -/
def Core.blockThreads (c : Core) (bslot : Nat) : List Nat :=
  (c.groups.filter (·.bslot = bslot)).flatMap (fun g => g.live.map (fun l => 32 * g.gi + l))

/-- The same threads as threads of the core. -/
def Core.blockThrs (c : Core) (bslot : Nat) : List Nat :=
  (c.groups.filter (·.bslot = bslot)).flatMap (fun g => g.live.map (thrOf g.gs))

def arrKey (id th : Nat) : Nat := 1024 * id + th

/-- Arrivals of a thread at a barrier that no completion has used yet (R177). -/
def Blk.count (b : Blk) (id th : Nat) : Nat := Tab.get 0 b.arrived (arrKey id th)

def Core.block (c : Core) (bslot : Nat) : Option Blk := c.blocks.find? (·.slot = bslot)

def Core.setBlock (c : Core) (b : Blk) : Core :=
  { c with blocks := c.blocks.map (fun x => if x.slot = b.slot then b else x) }

/-- Every thread of the block that has not exited has arrived (R176). -/
def Core.barrierDone (c : Core) (b : Blk) (id : Nat) : Bool :=
  let ts := c.blockThreads b.slot
  ts ≠ [] && ts.all (fun t => b.count id t ≠ 0)

/-- Parked lanes that a completion releases run on; the rest of their strand stays parked. -/
def Group.release (g : Group) (id : Nat) (rel : BitVec 32) : Group :=
  Group.merge { g with strands := g.strands.flatMap (fun t =>
    if t.wait = .parked id && t.mask &&& rel ≠ 0 then
      { t with mask := t.mask &&& rel, wait := .run } ::
        (if t.mask &&& ~~~rel = 0 then [] else [{ t with mask := t.mask &&& ~~~rel }])
    else [t]) }

/-- One completion of a barrier (R176, R337): the next generation opens, parked threads whose turn it was run on, and a
BLOCK fence holds every thread that arrived. -/
def Core.completeOnce (c : Core) (b : Blk) (id : Nat) : Core :=
  let ts := c.blockThreads b.slot
  let nb : Blk := { b with
    arrived := ts.foldl (fun a t => Tab.set 0 a (arrKey id t) (b.count id t - 1)) b.arrived
    parked := (b.parked.map (fun p => if p.1 = id then (p.1, p.2.1, p.2.2 - 1) else p)).filter
      (fun p => p.1 ≠ id || p.2.2 ≠ 0) }
  let rel := (b.parked.filter (fun p => p.1 = id && p.2.2 = 1)).map (·.2.1)
  let d := (c.setBlock nb).addFence (c.blockThrs b.slot) false
  { d with groups := d.groups.map (fun g =>
      if g.bslot = b.slot then g.release id (maskWhere (fun l => rel.contains (32 * g.gi + l))) else g) }

/-- Complete a barrier as often as its arrivals allow; `fuel` bounds the generations. -/
def Core.complete : Nat → Core → Nat → Nat → Core
  | 0, c, _, _ => c
  | n + 1, c, bslot, id =>
    match c.block bslot with
    | none => c
    | some b => if c.barrierDone b id then Core.complete n (c.completeOnce b id) bslot id else c

/-- Generations that arrivals may have made ready. -/
def Blk.generations (b : Blk) : Nat := (b.arrived.map (·.2)).foldl max 0 + 1

def Core.settleBarrier (c : Core) (bslot id : Nat) : Core :=
  match c.block bslot with
  | none => c
  | some b => c.complete b.generations bslot id

/-- Threads arrive at a barrier, and park there with `bar.sync` (R176, R177). -/
def Core.arrive (c : Core) (bslot id : Nat) (ths : List Nat) (park : Bool) : Core :=
  match c.block bslot with
  | none => c
  | some b =>
    let a := ths.foldl (fun a t => Tab.set 0 a (arrKey id t) (b.count id t + 1)) b.arrived
    c.setBlock { b with
      arrived := a
      parked := if park then b.parked ++ ths.map (fun t => (id, t, b.count id t + 1)) else b.parked }

/-- The effect of bar.sync and bar.arrive. -/
def State.barrier (s : State) (o : One) (id : Nat) (park : Bool) : State :=
  s.issue (oneBundle o) [] [] .control (fun u t =>
    match u.only with
    | none => t
    | some (g, x) =>
      let k := o.core.val
      let y : Strand := { x with
        pc := o.next.toNat, wait := if park then .parked id else .run, held := none, issued := t.now + 1 }
      let c := ((t.core k).accept onControl t.now 1).setGroup (g.replace x [y] t.now)
      let ths := (lanesOf x.mask).map (fun l => 32 * g.gi + l)
      t.setCore k ((c.arrive g.bslot id ths park).settleBarrier g.bslot id))

/-- BAR_SYNC (R176). -/
def execBarSync (o : One) (id : Fin 16) (s : State) : Res := .next (s.barrier o id.val true)

/-- BAR_ARRIVE (R176). -/
def execBarArrive (o : One) (id : Fin 16) (s : State) : Res := .next (s.barrier o id.val false)

/-- The condition of R178. -/
def Core.mismatch (c : Core) (b : Blk) (id : Nat) : Bool :=
  b.parked.any (·.1 = id) &&
    (c.blockThreads b.slot).all (fun t => b.count id t ≠ 0 || b.parked.any (fun p => p.2.1 = t && p.1 ≠ id))

/-- BARRIER_MISMATCH (R178). -/
def execBarrierMismatch (core : CoreId) (slot : Fin 32) (id : Fin 16) (s : State) : Res :=
  .next (s.orGhost core.val (fun t =>
    match (t.core core.val).block slot.val with
    | none => t
    | some b => if (t.core core.val).mismatch b id.val then t.coreFault core.val slot.val id.val 0x3001 else t))

/-- Exited threads take no more load data. -/
def MemOp.forget (o : MemOp) (ts : List Nat) : Option MemOp :=
  match o.kind with
  | .load d z x need got =>
    let th := o.thr.filter (fun t => !(ts.contains t))
    if th = [] then none
    else some { o with thr := th, kind := .load d z x (need.filter (fun p => !(ts.contains p.1)))
                                            (got.filter (fun p => !(ts.contains p.1))) }
  | .result vals =>
    let v := vals.filter (fun v => !(ts.contains v.2.1))
    if v = [] then none else some { o with thr := o.thr.filter (fun t => !(ts.contains t)), kind := .result v }
  | .store _ _ _ => some o
  | .add _ _ _ => some o
  | .join _ _ => some o
  | .dead _ _ _ => some o

/-- Threads of a strand exit (R165, R174, R177): a group without threads leaves and frees its registers. -/
def Core.exitStrand (c : Core) (g : Group) (x : Strand) (now : Nat) : Core :=
  let h := (g.replace x [] now).detach x.mask
  let d := if h.strands = [] then { c with groups := c.groups.filter (·.gs ≠ g.gs) } else c.setGroup h
  let ts := (lanesOf x.mask).map (thrOf g.gs)
  let e := { d with
    ops := d.ops.filterMap (fun o => o.forget ts)
    arr := { d.arr with queue := d.arr.queue.map (fun q => q.overwrite ts none) }
    usable := d.usable.filter (fun q => !(ts.contains (q.1 / 512))) }
  (List.range 16).foldl (fun q id => q.settleBarrier g.bslot id) e

/-- EXIT (R177). -/
def execExit (o : One) (s : State) : Res :=
  .next (s.issue (oneBundle o) [] [] .control (fun u t =>
    match u.only with
    | none => t
    | some (g, x) => t.setCore o.core.val (((t.core o.core.val).accept onControl t.now 1).exitStrand g x t.now)))

/-- Size of a block's scratch slice in KiB (R164). -/
def Launch.sliceKib (l : Launch) : Nat := (128 * l.split - l.foot) / l.resident

/-- A special value of a thread (R161). -/
def State.specialVal (s : State) (l : Launch) (core : Nat) (b : Blk) (g : Group) (lane : Nat) (v : SpecialVal) : Word :=
  BitVec.ofNat 32 (match v with
    | .lane => lane
    | .quarter => lane / 8
    | .group => g.gi
    | .thread => 32 * g.gi + lane
    | .block => b.no
    | .blockSlot => b.slot
    | .coreLocal => l.localOf core
    | .scratchSlice => l.sliceKib
    | .frameLo => s.fr.no.toNat
    | .frameCycle => s.fr.cycle)

/-- SPECIAL_VALUE_READ (R161). -/
def execSpecialValueRead (o : One) (v : SpecialVal) (d : VReg) (s : State) : Res :=
  .next (s.issue (oneBundle o) [d.val] [] .control (fun u t =>
    match u.only with
    | none => t
    | some (g, x) =>
      match (t.core o.core.val).block g.bslot with
      | none => t
      | some b => t.bundleDone (oneBundle o) u onControl 1 2 [d.val] (fun c => (lanesOf x.mask).foldl (fun e l =>
          e.setReg (thrOf g.gs l) d.val (t.specialVal u.l o.core.val b g l v)) c)))

/-- A strand waits on a load that missed in L1 (R171): for a register that its next instruction reads, where that was
presented; one whose next instruction is not known is taken to wait while any such load of its threads is under way
(log 23). -/
def Core.strandFar (c : Core) (g : Group) (t : Strand) : Bool :=
  let ts := (lanesOf t.mask).map (thrOf g.gs)
  match t.held with
  | some h => ts.any (fun x => h.src.any (c.loadPending true x))
  | none => ts.any c.waitsFar

/-- A strand keeps its group from being demoted: it runs and waits for no load that missed (R171). -/
def Core.strandBusy (c : Core) (g : Group) (t : Strand) : Bool := t.wait = .run && !(c.strandFar g t)

/-- A pending strand is ready but for its group's place in the active set (R167, R171): it runs, and nothing that is known
of its next instruction is missing; `free` says whether anything else still holds that instruction. -/
def Core.strandReady (c : Core) (free : Held → Bool) (now : Nat) (g : Group) (t : Strand) : Bool :=
  let ts := (lanesOf t.mask).map (thrOf g.gs)
  g.runnable t && (match t.held with
    | some h => ts.all (fun x => h.src.all (fun r => !(c.pendingReg now x r))) && free h && !(h.engine = 2 && c.fenced ts)
    | none => !(c.strandFar g t))

/-- A pending group with a ready strand, or with a join to issue; what a next instruction that was not presented reads is
not known (log 23). -/
def Core.promotable (c : Core) (free : Held → Bool) (now : Nat) (g : Group) : Bool :=
  !g.active && (g.strands.any (c.strandReady free now g) || g.splits.any g.complete)

/-- The ready pending group that has waited longest, ties to the lower slot (R171). -/
def Core.nextPending (c : Core) (free : Held → Bool) (now : Nat) : Option Group :=
  (c.groups.filter (c.promotable free now)).foldl (fun o g =>
    match o with
    | none => some g
    | some h => if g.waiting < h.waiting || (g.waiting = h.waiting && g.gs < h.gs) then some g else some h) none

/-- The group slot named can give up its place: an active group that is blocked, or, while the active set has room, no
active group at all. -/
def Core.mayDemote (c : Core) (gs : Nat) : Bool :=
  match c.group gs with
  | some g => if g.active then g.strands.all (fun t => !(c.strandBusy g t)) else (c.groups.filter (·.active)).length < 16
  | none => (c.groups.filter (·.active)).length < 16

/-- GROUP_PROMOTE (R171): at most one group is demoted and one promoted in a cycle. -/
def execGroupPromote (core : CoreId) (gs : GroupSlot) (s : State) : Res :=
  let c := s.core core.val
  let free (h : Held) : Bool := match s.running core.val with
    | some (_, l) => c.heldCause l (bit (s.cfg .array core.val 0x100) 1) s.now s.govLevel h = 0
    | none => false
  .next (match c.nextPending free s.now with
    | none => s
    | some h =>
      if c.mayDemote gs.val && h.gs ≠ gs.val && c.promoted ≤ s.now then
        s.setCore core.val { c with promoted := s.now + 1, groups := c.groups.map (fun g =>
          if g.gs = h.gs then { g with active := true, promoted := s.now + 2 }
          else if g.gs = gs.val && g.active then { g with active := false, waiting := s.now }
          else g) }
      else s)

end Sys2Proof.Machine
end

