-- ==== Sys2Proof/Machine/L1.lean ====
section
/-! DEFINITION. The load/store unit and the L1 of a core: scratch accesses (R164, R170, R194, R201), loads, stores and
adds through the L1 (R310 to R316), dead lines (R332), fences (R336) and the answers to snoops (R316, R324). -/

namespace Sys2Proof.Machine

/-- A core sends a message to a line's home slice, behind those it sent before (R323). -/
def State.send (s : State) (k line : Nat) (b : UpBody) : State :=
  { s with up := s.up ++ [{ core := k, line := line, body := b }] }

/-- The order in which the request sorter groups the misses of its window (R170): by memory-side die, stack, DRAM bank and
page. -/
def sortKey (line : Nat) : List Nat :=
  let a := hbmAddr line
  [homeDie line, a.stack, a.pc, a.sid, a.bank, a.row]

def keyLe : List Nat → List Nat → Bool
  | [], _ => true
  | _ :: _, [] => false
  | a :: as, b :: bs => a < b || (a = b && keyLe as bs)

/-- A message that asks for a line that missed. -/
def UpBody.isMiss : UpBody → Bool
  | .rd _ _ => true | .own => true | .ownFull => true | .join _ => true
  | .wbd _ => false | .wbr _ _ _ => false | .dead _ => false | .empty => false | .answer _ => false | .delta _ _ _ => false
  | .ack => false

/-- Put a miss among the misses of its core that have not reached a slice, newest first: it passes those that come after it
in the sorter's order, among the last 64, and no message of its own line (R170). -/
def sortIn (m : UpMsg) : Nat → List UpMsg → List UpMsg
  | _, [] => [m]
  | 0, xs => m :: xs
  | n + 1, x :: xs =>
    if x.core ≠ m.core then x :: sortIn m (n + 1) xs
    else if x.line = m.line || (x.body.isMiss && keyLe (sortKey x.line) (sortKey m.line)) then m :: x :: xs
    else x :: sortIn m (if x.body.isMiss then n else n + 1) xs

/-- A core sends a miss through the request sorter, whose 64-entry window holds what no slice has taken yet (R170, log
165). -/
def State.sendMiss (s : State) (k line : Nat) (b : UpBody) : State :=
  { s with up := (sortIn { core := k, line := line, body := b } 64 s.up.reverse).reverse }

/-- An L1 line leaves with its write-back (R316). -/
def State.l1Evict (s : State) (k : Nat) (l : L1Line) : State :=
  { s.setCore k ((s.core k).l1Drop l.line) with up := s.up ++ writeBacks k [l] }

/-- An L1 copy leaves silently (R312, R315, R316). -/
def State.l1Quit (s : State) (k line : Nat) : State := s.setCore k ((s.core k).l1Drop line)

def missBody (c : Option Nat) : MissKind → UpBody
  | .rd m => .rd m c
  | .own => .own
  | .ownFull => .ownFull

/-- Who asks for an operation: the context of the core's launch and the block slot of its instruction (R187). -/
def State.askerOf (s : State) (k : Nat) (o : MemOp) : Asker := { ctx := s.coreCtx k, bslot := o.bslot }

/-- Send a miss of a line (R310, R312): in place over a copy it upgrades, else in a way it takes; none when no way or
no tracker of R169 is free. -/
def State.l1Ask (s : State) (k line : Nat) (kind : MissKind) (who : Asker) : Option State :=
  let c := s.core k
  if 256 ≤ c.miss.length then none
  else
    match c.l1Find line with
    | some l =>
      some ((s.setCore k { c with miss := c.miss ++ [{ line := line, way := l.way, kind := kind, who := who }] }).sendMiss k
        line (missBody who.ctx kind))
    | none =>
      match c.pickWay line with
      | none => none
      | some (w, v) =>
        let t := match v with
          | none => s
          | some l => s.l1Evict k l
        some ((t.setCore k { t.core k with
          miss := (t.core k).miss ++ [{ line := line, way := w, kind := kind, who := who }] }).sendMiss k line
            (missBody who.ctx kind))

/-- An operation waits for this line. -/
def MemOp.waitsOn (o : MemOp) (line : Nat) : Bool :=
  match o.kind with
  | .load _ _ _ need _ => need.any (fun p => p.2 / 128 = line)
  | .store l _ _ => l = line
  | .add l _ _ => l = line
  | .dead l _ sent => l = line && !sent
  | .join _ _ => false
  | .result _ => false

def Core.setOp (c : Core) (o : MemOp) : Core := { c with ops := c.ops.map (fun x => if x.id = o.id then o else x) }
def Core.dropOp (c : Core) (id : Nat) : Core := { c with ops := c.ops.filter (·.id ≠ id) }

/-- Bytes of an access size. -/
def MemSize.bytes : MemSize → Nat
  | .b8 => 1 | .b16 => 2 | .b32 => 4

/-- The register value a load of these bytes gives. -/
def loadWord (size : MemSize) (sext : Bool) (bs : List Byte) : Word :=
  let n := MemSize.bytes size
  let v := leAt bs 0 n
  if sext then BitVec.ofInt 32 (signedOf (8 * n) v) else BitVec.ofNat 32 v

/-- What one operation does when the line's state decides it: it goes on, or it has sent a request and waits (none: no
way is free for it). -/
inductive Pump where
  | go (s : State)
  | wait (s : Option State)
  deriving DecidableEq, Repr

/-- A load on one line (R312, R316). -/
def State.pumpLoad (s : State) (k line : Nat) (o : MemOp) (d : Nat) (size : MemSize) (sext : Bool)
    (need : List (Nat × Nat)) (got : List (Nat × Word)) : Pump :=
  let c := s.core k
  let mine := need.filter (fun p => p.2 / 128 = line)
  let m := sectorsOf (mine.map (·.2))
  match c.l1Find line with
  | none => .wait (s.l1Ask k line (.rd m) (s.askerOf k o))
  | some l =>
    if l.st = .red then .wait ((s.l1Evict k l).l1Ask k line (.rd m) (s.askerOf k o))
    else if m &&& ~~~l.valid ≠ 0 then .wait ((s.l1Quit k line).l1Ask k line (.rd (m ||| l.valid)) (s.askerOf k o))
    else
      let vals := mine.map (fun p => (p.1, loadWord size sext (bytesAt l.data (p.2 % 128) 4)))
      .go (s.setCore k ((c.l1Put { l with used := o.id }).setOp
        { o with kind := .load d size sext (need.filter (fun p => p.2 / 128 ≠ line)) (got ++ vals) }))

/-- A store on its line: it needs E or M (R310, R312, R316). -/
def State.pumpStore (s : State) (k line : Nat) (o : MemOp) (bytes : List (Nat × Byte)) (full : Bool) : Pump :=
  let c := s.core k
  let kind : MissKind := if full then .ownFull else .own
  match c.l1Find line with
  | none => .wait (s.l1Ask k line kind (s.askerOf k o))
  | some l =>
    match l.st with
    | .s => .wait (s.l1Ask k line kind (s.askerOf k o))
    | .red => .wait ((s.l1Evict k l).l1Ask k line kind (s.askerOf k o))
    | .e =>
      if l.valid = 0xF then
        .go (s.setCore k ((c.l1Put { l with
          st := .m, used := o.id, data := bytes.foldl (fun d p => setAt d p.1 p.2) l.data }).dropOp o.id))
      else .wait ((s.l1Quit k line).l1Ask k line kind (s.askerOf k o))
    | .m =>
      .go (s.setCore k ((c.l1Put { l with
        used := o.id, data := bytes.foldl (fun d p => setAt d p.1 p.2) l.data }).dropOp o.id))

/-- A RED line of zeros is allocated in I, the adds are made at once, and JOIN is sent (R315). -/
def State.allocRed (s : State) (k line : Nat) (o : MemOp) (t : DType) (es : List (Nat × Word)) : Pump :=
  match (s.core k).pickWay line with
  | none => .wait none
  | some (w, v) =>
    let u := match v with
      | none => s
      | some l => s.l1Evict k l
    let c := u.core k
    let l : L1Line := {
      line := line, way := w, st := .red, dt := t, valid := elemSectors t es, used := o.id
      data := addElems t (List.replicate 128 0) es }
    let d := (c.l1Put l).setOp { o with kind := .join line (c.joinsOf line + 1) }
    .go ((u.setCore k { d with joins := Tab.set [] d.joins line (Tab.get [] c.joins line ++ [s.askerOf k o]) }).sendMiss k
      line (.join t))

/-- An st.add on its line (R315). -/
def State.pumpAdd (s : State) (k line : Nat) (o : MemOp) (t : DType) (es : List (Nat × Word)) : Pump :=
  let c := s.core k
  match c.l1Find line with
  | none => s.allocRed k line o t es
  | some l =>
    match l.st with
    | .s => (s.l1Quit k line).allocRed k line o t es
    | .e =>
      if l.valid = 0xF then
        .go (s.setCore k ((c.l1Put { l with st := .m, used := o.id, data := addElems t l.data es }).dropOp o.id))
      else (s.l1Quit k line).allocRed k line o t es
    | .m => .go (s.setCore k ((c.l1Put { l with used := o.id, data := addElems t l.data es }).dropOp o.id))
    | .red =>
      if l.dt = t then
        let d := c.l1Put { l with used := o.id, valid := l.valid ||| elemSectors t es, data := addElems t l.data es }
        .go (s.setCore k (if c.joinOut line then d.setOp { o with kind := .join line (c.joinsOf line) } else d.dropOp o.id))
      else (s.l1Evict k l).allocRed k line o t es

/-- A mem.dead of one line: its copy goes with no write-back, and DEAD is sent (R316, R332). -/
def State.pumpDead (s : State) (k line : Nat) (o : MemOp) (chk : Bool) : Pump :=
  .go (((s.l1Quit k line).setCore k (((s.core k).l1Drop line).setOp { o with kind := .dead line chk true })).send k line
    (.dead chk))

def State.pumpOp (s : State) (k line : Nat) (o : MemOp) : Pump :=
  match o.kind with
  | .load d size sext need got => s.pumpLoad k line o d size sext need got
  | .store _ bytes full => s.pumpStore k line o bytes full
  | .add _ t es => s.pumpAdd k line o t es
  | .dead _ chk _ => s.pumpDead k line o chk
  | .join _ _ => .go s
  | .result _ => .go s

/-- Perform the operations that wait for a line in the order of their instructions (R335), until one must wait for the
slice; while a request for the line is outstanding they have joined it (R312). -/
def State.pumpLine : Nat → State → Nat → Nat → State
  | 0, s, _, _ => s
  | n + 1, s, k, line =>
    if (s.core k).miss.any (·.line = line) then s
    else
      match (s.core k).ops.find? (·.waitsOn line) with
      | none => s
      | some o =>
        match s.pumpOp k line o with
        | .go t => State.pumpLine n t k line
        | .wait t => t.getD s

def State.pump (s : State) (k line : Nat) : State := State.pumpLine ((s.core k).ops.length + 1) s k line

/-- Requests that found every way of their set, or the miss tracking, in use are tried again, oldest first (R169,
R310). -/
def State.pumpStalled (s : State) (k : Nat) : State :=
  ((s.core k).ops.flatMap MemOp.lines).dedup.foldl (fun t l => t.pump k l) s

/-- Queue the operations of one memory instruction, with its block slot and threads. -/
def Core.pushOps (c : Core) (bslot : Nat) (ks : List (List Nat × MemKind)) : Core :=
  { c with
    ops := c.ops ++ ks.zipIdx.map (fun x =>
      { id := c.nextOp + x.2, ins := c.nextOp, bslot := bslot, thr := x.1.1, kind := x.1.2 })
    nextOp := c.nextOp + ks.length + 1 }

/-- The lines of an instruction, grouped by L1 bank (R170). -/
def byBank (lines : List Nat) : List Nat := (List.range 8).flatMap (fun b => lines.filter (fun l => l % 8 = b))

/-- The most loaded of `n` banks: distinct lines or words in it (R170, R311). -/
def bankCycles (n : Nat) (xs : List Nat) : Nat :=
  (List.range n).foldl (fun m b => max m (xs.dedup.filter (fun x => x % n = b)).length) 1

/-- Lanes beyond the first that name an element, each of which costs an add one cycle more (R313). -/
def repeats (xs : List Nat) : Nat := xs.length - xs.dedup.length

/-- Queue operations and start them on their lines, bank by bank; those whose line can get no way now wait (R170, R310). -/
def State.memStart (s : State) (k bslot : Nat) (ks : List (List Nat × MemKind)) (lines : List Nat) : State :=
  (byBank lines).foldl (fun t line => t.pump k line) (s.setCore k ((s.core k).pushOps bslot ks))

/-- A memory instruction finds no way or no tracker for one of its lines, and waits (R169, R310). -/
def Core.crowded (c : Core) (lines : List Nat) : Bool := lines.any (fun l => !(c.lineRoom l))

/-- Device address of a thread: registers a (low 32 bits) and a + 1 (bits [47:32]), element size and below ignored
(R313; log 24). -/
def Core.devAddr (c : Core) (t a n : Nat) : Nat :=
  ((c.reg t a).toNat + 2 ^ 32 * ((c.reg t (a + 1)).toNat % 65536)) / n * n

/-- Translate the addresses of an instruction's threads; the first fault in thread order. -/
def State.xlateAll (s : State) (c : Nat) (k : AccKind) (as : List (Nat × Nat)) :
    Except (BitVec 16) (List (Nat × Nat × Leaf)) :=
  as.mapM (fun p =>
    match s.xlate c p.2 k .core with
    | .error e => .error e
    | .ok (l, a) => .ok (p.1, a, l))

/-- Hold the translations an instruction used (R149). -/
def State.holdAll (s : State) (c : Nat) (as : List (Nat × Nat)) : State :=
  as.foldl (fun t p => match t.leafOf c p.2 with | .ok l => t.holdTlb c p.2 l | .error _ => t) s

/-- The walks of an instruction's accesses, page by page, up to the first that fails (R150). -/
def State.walkAll (s : State) (c : Nat) (as : List (Nat × Nat)) : State :=
  let pages := (as.map (·.2 / 4096)).dedup
  let good := pages.takeWhile (fun pg => (s.leafOf c (4096 * pg)).isOk)
  (pages.take (good.length + 1)).foldl (fun t pg => t.walkReads c (4096 * pg)) s

/-- Where a scratch offset lies (R164, R193, R194); none at or beyond its limit. -/
def Launch.scrAddr (l : Launch) (bslot : Nat) (region : Bool) (off : Nat) : Option Nat :=
  if region then
    (if off < 1024 * l.foot then some (1024 * (128 * l.split - l.foot) + off) else none)
  else if off < 1024 * l.sliceKib then some (1024 * l.sliceKib * bslot + off)
  else none

/-- Replace an entry of the array queue by its number. -/
def Core.setEntry (c : Core) (n : ArrEntry) : Core :=
  { c with arr := { c.arr with queue := c.arr.queue.map (fun x => if x.id = n.id then n else x) } }

def Core.dropEntry (c : Core) (e : ArrEntry) : Core :=
  { c with arr := { c.arr with queue := c.arr.queue.filter (·.id ≠ e.id) } }

/-- TR and SV of slots are cleared (R200). -/
def Core.untile (c : Core) (m : BitVec 14) : Core :=
  { c with arr := { c.arr with tr := c.arr.tr &&& ~~~m, sv := c.arr.sv &&& ~~~m } }

/-- A pass with REL whose last row has entered releases its slots (R218, R281). -/
def Core.releaseEntry (l : Launch) (now : Nat) (c : Core) (e : ArrEntry) : Core :=
  match e.act, e.started with
  | .mm o, some t =>
    if o.rel && t + e.fed ≤ now then
      (c.untile (c.passSlots l o)).setEntry { e with act := .mm { o with rel := false } }
    else c
  | _, _ => c

/-- The core after every release that is due (R218, R281). -/
def Core.released (c : Core) (l : Launch) (now : Nat) : Core := c.arr.queue.foldl (Core.releaseEntry l now) c

/-- A scratch access by an instruction's threads. -/
inductive ScrRes where
  | fault (code : BitVec 16)
  | wait (slots : BitVec 14)
  | ok (as : List (Nat × Nat))
  deriving DecidableEq, Repr

/-- Resolve scratch offsets: SCRATCH_RANGE beyond the limit, TILE_WRITE for a store into a slot with TR or RS set, and a
wait for a load from a slot with RS set (R164, R194, R201). -/
def Core.scrAccess (c : Core) (l : Launch) (bslot : Nat) (region write : Bool) (offs : List (Nat × Nat)) : ScrRes :=
  match offs.mapM (fun p => (l.scrAddr bslot region p.2).map (fun a => (p.1, a))) with
  | none => .fault 0x3003
  | some as =>
    if region && write && offs.any (fun p => (c.arr.tr ||| c.arr.rs).getLsbD (p.2 / 32768)) then .fault 0x3004
    else if region && !write && offs.any (fun p => c.arr.rs.getLsbD (p.2 / 32768)) then
      .wait (offs.foldl (fun m p => m ||| slotBit (p.2 / 32768)) 0)
    else .ok as

/-- Offset of a scratch access, its low bits ignored. -/
def Core.scrOff (c : Core) (t a n : Nat) : Nat := (c.reg t a).toNat / n * n

/-- The bundle has issued to the load/store unit, which it holds for `n` cycles (R170, R311), and goes on. -/
def State.lsuDone (s : State) (b : Bundle) (i : Issue) (n : Nat) : State := s.bundleDone b i onLsu n 0 [] id

/-- The registers that a memory instruction's threads will write lose what earlier loads have still to bring. -/
def State.claim (s : State) (b : Bundle) (u : Issue) (dst : List Nat) : State :=
  s.setCore b.core.val ((s.core b.core.val).overwrite u.threads dst)

/-- An entry uses the array's port to scratch in cycle `now` (R204, R206, R214, R218, R285). -/
def ArrEntry.onPort (e : ArrEntry) (now : Nat) : Bool :=
  match e.act, e.started, e.fin with
  | .ldsh _ _ _ _, some t, _ => now < t + 128
  | .mm _, some t, _ => now < t + e.fed
  | .drain _ _ _ _ _, some t, _ => now < t + 136
  | _, some _, some d => now < d
  | _, _, _ => false

/-- A scratch access loses this cycle to the array's own port, which wins (R194). Which banks the port wants is not
stated, so while it is in use the answer is free (log 145). -/
def State.portWins (s : State) (c : Core) : Bool := c.arr.queue.any (·.onPort s.now) && bit s.freeWord 0

/-- A memory instruction on scratch: what each thread's access does to the core, and the values that return; `extra` gives the cycles beyond
those of its banks. -/
def State.scrInstr (s : State) (b : Bundle) (u : Issue) (region write : Bool) (dst : List Nat) (a n : Nat)
    (extra : List Nat → Nat) (f : Core → Nat → Nat → Core × Option (Nat × Nat × Word)) : State :=
  let k := b.core.val
  let c := (s.core k).released u.l s.now
  match c.scrAccess u.l u.bslot region write (u.threads.map (fun t => (t, c.scrOff t a n))) with
  | .fault e => s.coreFault k u.bslot 0 e
  | .wait m => s.turnAway b u .memory (.region m)
  | .ok as =>
    if s.portWins c then (s.useFree 1).turnAway b u .memory (.cause 6 (s.now + 1))
    else
      let (d, vals) := as.foldl (fun q p =>
        let (d, v) := f q.1 p.1 p.2
        (d, q.2 ++ v.toList)) (c.overwrite u.threads dst, [])
      ((s.useFree 1).setCore k (if vals = [] then d else d.pushOps u.bslot [(u.threads, .result vals)])).lsuDone b u
        (bankCycles 32 (as.map (·.2 / 4)) + extra (as.map (·.2)))

/-- A load from device memory (R169, R312). -/
def State.devLoad (s : State) (b : Bundle) (u : Issue) (size : MemSize) (sext : Bool) (d a : Nat) : State :=
  let k := b.core.val
  let as := u.threads.map (fun t => (t, (s.core k).devAddr t a (MemSize.bytes size)))
  match s.xlateAll u.ctx .read as with
  | .error e => (s.walkAll u.ctx as).coreFault k u.bslot 0 e
  | .ok ps =>
    let need := ps.map (fun p => (p.1, p.2.1))
    let lines := (need.map (·.2 / 128)).dedup
    if (s.core k).crowded lines then s.turnAway b u .memory (.lsu lines)
    else (((s.claim b u [d]).holdAll u.ctx as).memStart k u.bslot [(u.threads, .load d size sext need [])] lines).lsuDone b u
      (bankCycles 8 lines)

/-- LOAD (R164, R169, R194, R201, R312). -/
def execLoad (b : Bundle) (sp : MemSpace) (size : MemSize) (sext : Bool) (d a : VReg) (s : State) : Res :=
  .next (match sp with
    | .scratch => s.issue b [d.val] [a.val] .memory (fun u t =>
        t.scrInstr b u false false [d.val] a.val (MemSize.bytes size) (fun _ => 0) (fun c x p =>
          (c, some (d.val, x, loadWord size sext (c.scrRead p 4)))))
    | .region => s.issue b [d.val] [a.val] .memory (fun u t =>
        t.scrInstr b u true false [d.val] a.val (MemSize.bytes size) (fun _ => 0) (fun c x p =>
          (c, some (d.val, x, loadWord size sext (c.scrRead p 4)))))
    | .device => s.issue b [d.val] [a.val, a.val + 1] .memory (fun u t => t.devLoad b u size sext d.val a.val))

/-- LOAD_RETURN (R169): the data of a finished load reaches its registers. -/
def execLoadReturn (core : CoreId) (id : Nat) (s : State) : Res :=
  let c := s.core core.val
  .next (match c.ops.find? (·.id = id) with
    | none => s
    | some o =>
      match o.kind with
      | .load d _ _ need got =>
        if need = [] then
          s.setCore core.val ((got.foldl (fun e p =>
            if o.lost.contains p.1 then e else e.setReg p.1 d p.2) c).dropOp id)
        else s
      | .result vals => s.setCore core.val ((vals.foldl (fun e v => e.setReg v.2.1 v.1 v.2.2) c).dropOp id)
      | .store _ _ _ => s
      | .add _ _ _ => s
      | .join _ _ => s
      | .dead _ _ _ => s)

/-- Bytes that an instruction's threads store to one line, in thread order. -/
def storeBytes (c : Core) (size : MemSize) (v line : Nat) (ps : List (Nat × Nat)) : List (Nat × Byte) :=
  (ps.filter (fun p => p.2 / 128 = line)).flatMap (fun p =>
    ((leBytes (MemSize.bytes size) (c.reg p.1 v).toNat).zipIdx).map (fun x => (p.2 % 128 + x.2, x.1)))

/-- The bytes cover a whole line (R312). -/
def coversLine (bs : List (Nat × Byte)) : Bool := (List.range 128).all (fun i => bs.any (·.1 = i))

/-- A store to device memory: one operation for each line (R312). -/
def State.devStore (s : State) (b : Bundle) (u : Issue) (size : MemSize) (v a : Nat) : State :=
  let k := b.core.val
  let c := s.core k
  let as := u.threads.map (fun t => (t, c.devAddr t a (MemSize.bytes size)))
  match s.xlateAll u.ctx .write as with
  | .error e => (s.walkAll u.ctx as).coreFault k u.bslot 0 e
  | .ok qs =>
    let ps := qs.map (fun p => (p.1, p.2.1))
    let lines := (ps.map (·.2 / 128)).dedup
    let ks := lines.map (fun line =>
      let bs := storeBytes c size v line ps
      ((ps.filter (fun p => p.2 / 128 = line)).map (·.1), MemKind.store line bs (coversLine bs)))
    if c.crowded lines then s.turnAway b u .memory (.lsu lines)
    else ((s.holdAll u.ctx as).memStart k u.bslot ks lines).lsuDone b u (bankCycles 8 lines)

/-- STORE (R164, R194, R201, R312). -/
def execStore (b : Bundle) (sp : MemSpace) (size : MemSize) (v a : VReg) (s : State) : Res :=
  .next (match sp with
    | .scratch => s.issue b [] [v.val, a.val] .memory (fun u t =>
        t.scrInstr b u false true [] a.val (MemSize.bytes size) (fun _ => 0) (fun c x p =>
          (c.scrWrite p (leBytes (MemSize.bytes size) (c.reg x v.val).toNat), none)))
    | .region => s.issue b [] [v.val, a.val] .memory (fun u t =>
        t.scrInstr b u true true [] a.val (MemSize.bytes size) (fun _ => 0) (fun c x p =>
          (c.scrWrite p (leBytes (MemSize.bytes size) (c.reg x v.val).toNat), none)))
    | .device => s.issue b [] [v.val, a.val, a.val + 1] .memory (fun u t => t.devStore b u size v.val a.val))

def ScrSpace.isRegion : ScrSpace → Bool
  | .slice => false
  | .region => true

/-- SCR_CAS (R170): the old word returns; it is replaced where it equals `cmp`. -/
def execScrCas (b : Bundle) (sp : ScrSpace) (d a cmp new : VReg) (s : State) : Res :=
  .next (s.issue b [d.val] [a.val, cmp.val, new.val] .memory (fun u t =>
    t.scrInstr b u (ScrSpace.isRegion sp) true [d.val] a.val 4 (fun _ => 0) (fun c x p =>
      let old : Word := BitVec.ofNat 32 (leAt (c.scrRead p 4) 0 4)
      (if old = c.reg x cmp.val then c.scrWrite p (leBytes 4 (c.reg x new.val).toNat) else c, some (d.val, x, old)))))

/-- SCR_EXCH (R170). -/
def execScrExch (b : Bundle) (sp : ScrSpace) (d a v : VReg) (s : State) : Res :=
  .next (s.issue b [d.val] [a.val, v.val] .memory (fun u t =>
    t.scrInstr b u (ScrSpace.isRegion sp) true [d.val] a.val 4 (fun _ => 0) (fun c x p =>
      (c.scrWrite p (leBytes 4 (c.reg x v.val).toNat),
        some (d.val, x, BitVec.ofNat 32 (leAt (c.scrRead p 4) 0 4))))))

/-- SCR_ADD (R313, R314). -/
def execScrAdd (b : Bundle) (sp : ScrSpace) (t : DType) (a v : VReg) (s : State) : Res :=
  .next (s.issue b [] [a.val, v.val] .memory (fun u q =>
    let n := DType.bytes t
    q.scrInstr b u (ScrSpace.isRegion sp) true [] a.val n repeats (fun c x p =>
      (c.scrWrite p (leBytes n (addElem t (BitVec.ofNat 32 (leAt (c.scrRead p n) 0 n)) (c.reg x v.val)).toNat),
        none))))

/-- ST_ADD (R313, R315). -/
def execStAdd (b : Bundle) (t : DType) (a v : VReg) (s : State) : Res :=
  .next (s.issue b [] [a.val, a.val + 1, v.val] .memory (fun u q =>
    let k := b.core.val
    let c := q.core k
    let n := DType.bytes t
    let as := u.threads.map (fun x => (x, c.devAddr x a.val n))
    match q.xlateAll u.ctx .write as with
    | .error e => (q.walkAll u.ctx as).coreFault k u.bslot 0 e
    | .ok ps =>
      let lines := (ps.map (·.2.1 / 128)).dedup
      let ks := lines.map (fun line =>
        let mine := ps.filter (fun p => p.2.1 / 128 = line)
        (mine.map (·.1), MemKind.add line t (mine.map (fun p => (p.2.1 % 128 / n, c.reg p.1 v.val)))))
      if c.crowded lines then q.turnAway b u .memory (.lsu lines)
      else ((q.holdAll u.ctx as).memStart k u.bslot ks lines).lsuDone b u
        (bankCycles 8 lines + repeats (ps.map (·.2.1)))))

/-- Lines that the strands of a mem.dead name, with the strand's threads; none when a count is 0 or above 64 (R332). -/
def Core.deadLines (c : Core) (u : Issue) (a n : Nat) : Option (List (List Nat × Nat)) :=
  (u.sel.mapM (fun p =>
    let cnt := (c.reg (leadOf p) n).toNat
    if cnt = 0 || 64 < cnt then none
    else some ((List.range cnt).map (fun i => (strandThreads p, c.devAddr (leadOf p) a 128 + 128 * i))))).map List.flatten

/-- MEM_DEAD (R316, R332). -/
def execMemDead (b : Bundle) (a n : VReg) (chk : Bool) (s : State) : Res :=
  .next (s.issue b [] [a.val, a.val + 1, n.val] .memory (fun u q =>
    let k := b.core.val
    match (q.core k).deadLines u a.val n.val with
    | none => q.coreFault k u.bslot 0 0x3002
    | some ls =>
      let as := ls.map (fun p => (p.1.headD 0, p.2))
      match q.xlateAll u.ctx .write as with
      | .error e => (q.walkAll u.ctx as).coreFault k u.bslot 0 e
      | .ok ps =>
        let ks := (ls.zip ps).map (fun x => (x.1.1, MemKind.dead (x.2.2.1 / 128) chk false))
        let lines := (ps.map (·.2.1 / 128)).dedup
        ((q.holdAll u.ctx as).memStart k u.bslot ks lines).lsuDone b u (bankCycles 8 lines)))

/-- MEM_FENCE (R336). -/
def execMemFence (b : Bundle) (module : Bool) (s : State) : Res :=
  .next (s.issue b [] [] .memory (fun u t =>
    (t.setCore b.core.val ((t.core b.core.val).addFence u.threads module)).lsuDone b u 1))

/-- The oldest message to a core of a line, when no older message to the same core and line is under way. -/
def State.dnFirst (s : State) (k line : Nat) : Option DnMsg := s.dn.find? (fun m => m.core = k && m.line = line)

def State.dnTake (s : State) (m : DnMsg) : State := { s with dn := s.dn.erase m }

/-- Install a granted line in the way its miss holds (R312, R316). A grant of OWN_FULL whose store has been stopped
carries no data and installs nothing, nor does a fill without sectors. -/
def Core.install (c : Core) (m : Miss) (st : L1St) (sect : BitVec 4) (data : List Byte) : Core :=
  let d := { (c.l1Drop m.line) with miss := c.miss.erase m }
  let keep := !(wayIn c.split m.way) && sect ≠ 0 && (m.kind ≠ .ownFull || c.ops.any (fun o => o.waitsOn m.line))
  if keep then d.l1Put { line := m.line, way := m.way, st := st, valid := sect, data := data } else d

/-- FILL_DELIVER (R312): a fill or grant reaches the L1, and the operations that joined it are performed in order. -/
def execFillDeliver (core : CoreId) (line : Line) (s : State) : Res :=
  let k := core.val
  let n := line.toNat
  .next (match s.dnFirst k n with
    | none => s
    | some m =>
      match m.body with
      | .fill st sect data =>
        let t := s.dnTake m
        match (t.core k).miss.find? (·.line = n) with
        | none => t
        | some x =>
          let u := t.setCore k ((t.core k).install x st sect data)
          (u.pump k n).pumpStalled k
      | .joinAck => s
      | .share => s
      | .inval => s
      | .discard => s)

/-- One acknowledgement less to wait for; none when it was the last. -/
def MemOp.acked (o : MemOp) (line : Nat) : Option MemOp :=
  match o.kind with
  | .join l n => if l = line then (if n ≤ 1 then none else some { o with kind := .join l (n - 1) }) else some o
  | .load _ _ _ _ _ => some o
  | .store _ _ _ => some o
  | .add _ _ _ => some o
  | .dead _ _ _ => some o
  | .result _ => some o

/-- The oldest JOIN of a line is acknowledged: the adds that waited for it are done (R315, R336). -/
def Core.joined (c : Core) (line : Nat) : Core :=
  { c with ops := c.ops.filterMap (fun o => o.acked line), joins := Tab.set [] c.joins line ((Tab.get [] c.joins line).drop 1) }

/-- JOIN_ACK (R315). -/
def execJoinAck (core : CoreId) (line : Line) (s : State) : Res :=
  let k := core.val
  .next (match s.dnFirst k line.toNat with
    | none => s
    | some m =>
      match m.body with
      | .joinAck => ((s.dnTake m).setCore k ((s.core k).joined line.toNat)).pumpStalled k
      | .fill _ _ _ => s
      | .share => s
      | .inval => s
      | .discard => s)

/-- What a core answers to INVAL, and its L1 afterwards (R316). -/
def Core.answerInval (c : Core) (line : Nat) : UpBody × Core :=
  match c.l1Find line with
  | none => (.empty, c)
  | some l =>
    let d := c.l1Drop line
    match l.st with
    | .s => (.empty, d)
    | .e => (.empty, d)
    | .m => (.answer l.data, d)
    | .red => (.delta l.dt l.valid l.data, d)

/-- What a core answers to SHARE (R316). -/
def Core.answerShare (c : Core) (line : Nat) : UpBody × Core :=
  match c.l1Find line with
  | none => (.empty, c)
  | some l =>
    match l.st with
    | .s => (.empty, c)
    | .e => (.empty, c.l1Put { l with st := .s })
    | .m => (.answer l.data, c.l1Put { l with st := .s })
    | .red => (.empty, c)

/-- A snoop reaches a core, which answers (R316, R324). -/
def State.snooped (s : State) (k line : Nat) (m : DnMsg) (r : UpBody × Core) : State :=
  ((s.dnTake m).setCore k r.2).send k line r.1

/-- SNOOP_SHARE (R316). -/
def execSnoopShare (core : CoreId) (line : Line) (s : State) : Res :=
  let k := core.val
  .next (match s.dnFirst k line.toNat with
    | none => s
    | some m =>
      match m.body with
      | .share => s.snooped k line.toNat m ((s.core k).answerShare line.toNat)
      | .fill _ _ _ => s
      | .joinAck => s
      | .inval => s
      | .discard => s)

/-- SNOOP_INVAL (R316). -/
def execSnoopInval (core : CoreId) (line : Line) (s : State) : Res :=
  let k := core.val
  .next (match s.dnFirst k line.toNat with
    | none => s
    | some m =>
      match m.body with
      | .inval => s.snooped k line.toNat m ((s.core k).answerInval line.toNat)
      | .fill _ _ _ => s
      | .joinAck => s
      | .share => s
      | .discard => s)

/-- What a core answers to DISCARD (R316): ACK, and its copy goes. Deltas whose JOIN the slice has still to perform were
added after the line died, and stay (R331, R335; log 54). -/
def Core.answerDiscard (c : Core) (line : Nat) : UpBody × Core :=
  (.ack, if (c.l1Find line).any (fun l => l.st = .red) && c.joinOut line then c else c.l1Drop line)

/-- SNOOP_DISCARD (R316). -/
def execSnoopDiscard (core : CoreId) (line : Line) (s : State) : Res :=
  let k := core.val
  .next (match s.dnFirst k line.toNat with
    | none => s
    | some m =>
      match m.body with
      | .discard => s.snooped k line.toNat m ((s.core k).answerDiscard line.toNat)
      | .fill _ _ _ => s
      | .joinAck => s
      | .share => s
      | .inval => s)

end Sys2Proof.Machine
end

