-- ==== Sys2Proof/Machine/Llc.lean ====
section
/-! DEFINITION. The LLC slices and their directory: requests and their order (R322 to R324), the transitions of R325,
conversion, resolve and merge (R326 to R328), victims (R329), merged fills (R330), dead lines (R332 to R334), and the
events of R342. -/

namespace Sys2Proof.Machine

/-- The core that sent a request. -/
def LReq.core : LReq → Option Nat
  | .rd k _ _ => some k
  | .own k => some k
  | .ownFull k => some k
  | .join k _ => some k
  | .wbd k _ => some k
  | .wbr k _ _ _ => some k
  | .dead k _ => some k
  | .ard _ _ _ => none
  | .awr _ _ _ => none
  | .aadd _ _ _ => none
  | .vict => none
  | .wb _ => none

/-- A request that needs an entry in state I (R325). -/
def LReq.allocates : LReq → Bool
  | .rd _ _ _ => true
  | .own _ => true
  | .ownFull _ => true
  | .join _ _ => true
  | .wbr _ _ _ _ => true
  | .ard _ _ _ => true
  | .awr _ _ _ => true
  | .aadd _ _ _ => true
  | .wbd _ _ => false
  | .dead _ _ => false
  | .vict => false
  | .wb _ => false

def LReq.isVict : LReq → Bool
  | .vict => true
  | .rd _ _ _ => false | .own _ => false | .ownFull _ => false | .join _ _ => false | .wbr _ _ _ _ => false
  | .ard _ _ _ => false | .awr _ _ _ => false | .aadd _ _ _ => false | .wbd _ _ => false | .dead _ _ => false
  | .wb _ => false

def LReq.isWb : LReq → Bool
  | .wb _ => true
  | .rd _ _ _ => false | .own _ => false | .ownFull _ => false | .join _ _ => false | .wbr _ _ _ _ => false
  | .ard _ _ _ => false | .awr _ _ _ => false | .aadd _ _ _ => false | .wbd _ _ => false | .dead _ _ => false
  | .vict => false

def LReq.isRead : LReq → Bool
  | .rd _ _ _ => true
  | .ard _ _ _ => true
  | .own _ => false | .ownFull _ => false | .join _ _ => false | .wbr _ _ _ _ => false | .awr _ _ _ => false
  | .aadd _ _ _ => false | .wbd _ _ => false | .dead _ _ => false | .vict => false | .wb _ => false

/-- Sectors that a request needs and that are not valid in the LLC (R317, R325). -/
def LReq.fills (r : LReq) (valid : BitVec 4) : BitVec 4 :=
  match r with
  | .rd _ m _ => m &&& ~~~valid
  | .ard _ m _ => m &&& ~~~valid
  | .own _ => ~~~valid
  | .awr _ _ bs => writtenSectors bs &&& ~~~(wholeSectors bs) &&& ~~~valid
  | .ownFull _ => 0 | .join _ _ => 0 | .wbr _ _ _ _ => 0 | .aadd _ _ _ => 0 | .wbd _ _ => 0 | .dead _ _ => 0
  | .vict => 0 | .wb _ => 0

/-- Who asked for a line on a core: the instruction that sent the request, the oldest of those that wait on it. Which block
slot CORE.FAULT shows when several wait is not stated: DESIGN CHOICE (log 166). -/
def State.missAsker (s : State) (k line : Nat) : Asker :=
  (((s.core k).miss.find? (·.line = line)).map (·.who)).getD { ctx := none, bslot := 0 }

/-- Who sent the JOIN of a line that its slice performs: the oldest that is not acknowledged (R315). -/
def State.joinAsker (s : State) (k line : Nat) : Asker :=
  (Tab.get [] (s.core k).joins line).headD { ctx := none, bslot := 0 }

/-- A fault found at a slice for a core's access: latched in CORE.FAULT, and the context's (R187, R334, R352). -/
def State.remoteFault (s : State) (k : Nat) (who : Asker) (code : BitVec 16) : State :=
  let t := s.latchLast .core k 0x804 23 (place who.bslot 18 ||| place (code.toNat % 4096) 0)
  match who.ctx with
  | none => t
  | some c => t.ctxFault c code

/-- A reader meets an uncorrectable sector (R352). -/
def State.readerFault (s : State) (line : Nat) (r : LReq) : State :=
  match r with
  | .rd k _ _ => s.remoteFault k (s.missAsker k line) 0x300C
  | .own k => s.remoteFault k (s.missAsker k line) 0x300C
  | .join k _ => s.remoteFault k (s.joinAsker k line) 0x300C
  | .ard a _ c => if a = .bar4 then (s.emit (.bar4Poison 0)).emit (.aer 0) else
      match c with
      | none => s
      | some c => s.ctxFault c 0x300C
  | .awr _ c _ =>
      match c with
      | none => s
      | some c => s.ctxFault c 0x300C
  | .ownFull _ => s | .wbr _ _ _ _ => s | .aadd _ _ _ => s | .wbd _ _ => s | .dead _ _ => s
  | .vict => s | .wb _ => s

/-- Snoop some cores for an operation and set it in progress (R320, R323). -/
def State.startOp (s : State) (l : LLine) (r : LReq) (phase : OpPhase) (ks : List Nat) (b : DnBody) : State :=
  let t := ks.foldl (fun t k => (t.dnSend k l.line b).addCount .dir (homeDie l.line) 0x808 1) s
  let u := if r.isVict then t.addCount .llc (homeDie l.line) 0x818 ks.length else t
  u.putLine { l with op := some { req := r, phase := phase, wait := ks } }

/-- Remove an entry. Requests that reached it since it was chosen wait in the slice's queue, in the order in which they
arrived there (R329); what is queued at the entry itself came before them. -/
def State.freeLine (s : State) (l : LLine) : State :=
  let t := s.dropLine l.line
  let d := homeDie l.line
  let held := (t.slice d).waitq.span (fun p => p.1 ≠ l.line)
  t.setSlice d { t.slice d with waitq := held.1 ++ l.queue.map (fun r => (l.line, r)) ++ held.2 }

/-- Grant a read to a core (R325, R330): its named sectors, as far as they are valid. -/
def State.grantRead (s : State) (l : LLine) (st : L1St) (k : Nat) (m : BitVec 4) : State :=
  s.dnSend k l.line (.fill st (m &&& l.sect) l.data)

/-- Supply an agent (R325). -/
def State.supply (s : State) (l : LLine) (a : Agent) (m : BitVec 4) : State :=
  s.emit (.agentData a l.line (mergeSectors (m &&& l.sect) l.data (List.replicate 128 0)))

/-- Distinct cores among read requests. -/
def readCores (rs : List LReq) : List Nat :=
  (rs.filterMap (fun r => match r with
    | .rd k _ _ => some k
    | .own _ => none | .ownFull _ => none | .join _ _ => none | .wbr _ _ _ _ => none | .ard _ _ _ => none
    | .awr _ _ _ => none | .aadd _ _ _ => none | .wbd _ _ => none | .dead _ _ => none | .vict => none
    | .wb _ => none)).dedup

/-- Every reader of one fill, or one reader that needs none, is served (R325, R330): a line without holders becomes E
for exactly one core, otherwise S. -/
def State.serveReads (s : State) (l : LLine) (rs : List LReq) : State :=
  let ks := readCores rs
  let alone := l.noHolders && ks.length = 1
  let m := ks.foldl LLine.addHolder { l with st := .s, op := none }
  let n := { m with st := if alone then .e else .s }
  rs.foldl (fun t r =>
    match r with
    | .rd k sect _ => t.grantRead n (if alone then .e else .s) k sect
    | .ard a sect _ => t.supply n a sect
    | .own _ => t | .ownFull _ => t | .join _ _ => t | .wbr _ _ _ _ => t | .awr _ _ _ => t | .aadd _ _ _ => t
    | .wbd _ _ => t | .dead _ _ => t | .vict => t | .wb _ => t) (s.putLine n)

/-- A line becomes RED over what HBM holds (R326 steps 3 and 4). -/
def State.toRed (s : State) (l : LLine) (r : LReq) : State :=
  let base := { l.fresh with st := .red, op := none }
  match r with
  | .join k t =>
    (s.putLine { base with dt := t, ptr := true, holders := k }).dnSend k l.line .joinAck
  | .aadd _ t es =>
    (s.putLine { base with dt := t, sect := elemSectors t es, data := addElems t base.data es }).llcCount l.line 0x810
  | .rd _ _ _ => s | .own _ => s | .ownFull _ => s | .wbr _ _ _ _ => s | .ard _ _ _ => s | .awr _ _ _ => s
  | .wbd _ _ => s | .dead _ _ => s | .vict => s | .wb _ => s

/-- The rows of R325 for a value line once every snooped core has answered and every sector needed is valid. -/
def State.finishValue (s : State) (l : LLine) (r : LReq) : State :=
  let idle := { l with op := none }
  match r with
  | .rd _ _ _ => s.serveReads l [r]
  | .ard _ _ _ => s.serveReads l [r]
  | .own k => (s.putLine { idle with st := .m, ptr := true, holders := k }).dnSend k l.line (.fill .m 0xF l.data)
  | .ownFull k => (s.putLine { idle with st := .m, ptr := true, holders := k }).dnSend k l.line (.fill .m 0xF l.data)
  | .awr _ _ bs => s.putLine (idle.written bs)
  | .dead _ chk => s.putLine { l.fresh with st := .dead, chk := chk, op := none }
  | .vict => (if l.dirty then s.hbmPut l.line l.sect l.data false else s).freeLine idle
  | .wb inv =>
    let t := if l.dirty then s.hbmPut l.line l.sect l.data false else s
    if inv then t.freeLine idle else t.putLine { idle with st := .s, dirty := false }
  | .join _ _ => s.toRed l r
  | .aadd _ _ _ => s.toRed l r
  | .wbd _ _ => s.putLine idle
  | .wbr _ _ _ _ => s.putLine idle

/-- An operation whose snoops are answered goes on to its fill, or finishes (R325); a request is counted as a hit or a
miss when that is known (R340). -/
def State.llcAdvance (s : State) (line : Nat) : State :=
  match s.lline line with
  | none => s
  | some l =>
    match l.op with
    | none => s
    | some o =>
      if o.wait ≠ [] then s
      else
        match o.phase with
        | .snoop =>
          let need := o.req.fills l.sect
          let m := { l with resolved := false }
          if need = 0 then
            (if o.req.isVict || o.req.isWb then s else s.countServed line l.resolved).finishValue m o.req
          else ((s.countServed line true).putLine { m with op := some { o with phase := .fill [o.req] } }).hbmAsk line need false
        | .conv => s
        | .fill _ => s
        | .mergeWait => s
        | .merging _ => s

/-- Snoop and go on. -/
def State.opSnoop (s : State) (l : LLine) (r : LReq) (ks : List Nat) (b : DnBody) : State :=
  (s.startOp l r .snoop ks b).llcAdvance l.line

/-- A conversion: at once over a clean line that nobody holds, else CONVERSION_COMPLETE ends it (R326). -/
def State.convert (s : State) (l : LLine) (r : LReq) : State :=
  if l.targets = [] && !l.dirty then (s.countServed l.line l.resolved).toRed l r
  else s.startOp l r .conv l.targets .inval

/-- The rows of R325 for S, E and M. -/
def State.performValue (s : State) (l : LLine) (r : LReq) : State :=
  match r with
  | .rd _ _ _ => s.opSnoop l r (if l.owned then l.targets else []) .share
  | .ard _ _ _ => s.opSnoop l r (if l.owned then l.targets else []) .share
  | .own k => s.opSnoop l r (if l.owned then l.targets else l.targets.filter (· ≠ k)) .inval
  | .ownFull k => s.opSnoop l r (if l.owned then l.targets else l.targets.filter (· ≠ k)) .inval
  | .join _ _ => s.convert l r
  | .aadd _ _ _ => s.convert l r
  | .wbr _ t m d => s.convert l (asAadd t m d)
  | .wbd k d =>
    if l.owned && l.owner = some k then
      (s.putLine { l.noOne with st := .s, dirty := true, sect := 0xF, data := d }).llcCount l.line 0x804
    else s
  | .awr _ _ _ => s.opSnoop l r l.targets .inval
  | .dead _ _ => s.opSnoop l r l.targets .discard
  | .vict => s.opSnoop l r l.targets .inval
  | .wb inv => s.opSnoop l r (if inv then l.targets else if l.owned then l.targets else [])
      (if inv then .inval else .share)

/-- A RED line must be resolved or merged first (R327). -/
def State.toMerge (s : State) (l : LLine) (r : LReq) : State :=
  s.putLine { l with op := some { req := r, phase := .mergeWait } }

/-- The rows of R325 for RED. -/
def State.performRed (s : State) (l : LLine) (r : LReq) : State :=
  match r with
  | .join k t =>
    if t = l.dt then
      ((s.putLine (l.addHolder k)).dnSend k l.line .joinAck).llcCount l.line 0x804
    else s.toMerge l r
  | .aadd _ t es =>
    if t = l.dt then
      ((s.putLine { l with sect := l.sect ||| elemSectors t es, data := addElems t l.data es }).llcCount l.line
        0x810).llcCount l.line 0x804
    else s.toMerge l r
  | .wbr k t m d =>
    if t = l.dt then
      let n := l.absorb t m d
      ((s.putLine (if n.owner = some k then n.noOne else n)).llcCount l.line 0x810).llcCount l.line 0x804
    else s.toMerge l (asAadd t m d)
  | .dead _ _ => s.opSnoop l r l.targets .discard
  | .rd _ _ _ => s.toMerge l r
  | .ard _ _ _ => s.toMerge l r
  | .own _ => s.toMerge l r
  | .ownFull _ => s.toMerge l r
  | .awr _ _ _ => s.toMerge l r
  | .vict => s.toMerge l r
  | .wb _ => s.toMerge l r
  | .wbd _ _ => s

/-- The context a read carries. -/
def LReq.ctx : LReq → Option Nat
  | .rd _ _ c => c
  | .ard _ _ c => c
  | .own _ => none | .ownFull _ => none | .join _ _ => none | .wbr _ _ _ _ => none | .awr _ _ _ => none
  | .aadd _ _ _ => none | .wbd _ _ => none | .dead _ _ => none | .vict => none | .wb _ => none

/-- A read that is not served (R334): the context is faulted, and the core's miss ends without data. -/
def State.deadFault (s : State) (l : LLine) (r : LReq) (c : Nat) : State :=
  let t := s.deadRead l.line true
  match r with
  | .rd k _ _ => (t.remoteFault k { ctx := some c, bslot := (t.missAsker k l.line).bslot } 0x300B).dnSend k l.line (.fill .s 0 l.data)
  | .ard _ _ _ => t.ctxFault c 0x300B
  | .own _ => t | .ownFull _ => t | .join _ _ => t | .wbr _ _ _ _ => t | .awr _ _ _ => t | .aadd _ _ _ => t
  | .wbd _ _ => t | .dead _ _ => t | .vict => t | .wb _ => t

/-- RD and ARD on a DEAD line (R334). -/
def State.performDeadRead (s : State) (l : LLine) (r : LReq) : State :=
  match l.chk, r.ctx with
  | true, some c => s.deadFault l r c
  | _, _ => (s.deadRead l.line false).performValue l.fresh r

/-- The rows of R325 for DEAD. -/
def State.performDead (s : State) (l : LLine) (r : LReq) : State :=
  match r with
  | .rd _ _ _ => s.performDeadRead l r
  | .ard _ _ _ => s.performDeadRead l r
  | .own _ => s.performValue l.fresh r
  | .ownFull _ => s.performValue l.fresh r
  | .awr _ _ _ => s.performValue l.fresh r
  | .join _ _ => s.performValue l.fresh r
  | .aadd _ _ _ => s.performValue l.fresh r
  | .wbr _ _ _ _ => s.performValue l.fresh r
  | .dead _ chk => s.putLine { l with chk := chk }
  | .vict => s.freeLine l
  | .wb inv => if inv then s.freeLine l else s
  | .wbd _ _ => s

/-- Perform a request on a line that is not BUSY (R323, R325). -/
def State.perform (s : State) (l0 : LLine) (r : LReq) : State :=
  let d := homeDie l0.line
  let t := s.bumpClock d
  let l := { l0 with used := (t.slice d).clock }
  let u := t.putLine l
  match l.st with
  | .s => u.performValue l r
  | .e => u.performValue l r
  | .m => u.performValue l r
  | .red => u.performRed l r
  | .dead => u.performDead l r
  | .merging => u.putLine { l with queue := l.queue ++ [r] }

/-- Requests queued behind a line are performed while it is not BUSY (R323). -/
def State.drainLine : Nat → State → Nat → State
  | 0, s, _ => s
  | n + 1, s, line =>
    match s.lline line with
    | none => s
    | some l =>
      match l.op, l.queue with
      | none, r :: q => State.drainLine n ((s.putLine { l with queue := q }).perform { l with queue := q } r) line
      | none, [] => s
      | some _, _ => s

/-- The entry leaves when the operation on it ends (R325): requests for the line will need an entry again. -/
def LLine.leaving (l : LLine) : Bool :=
  match l.op with
  | some o => o.req = .vict || o.req = .wb true
  | none => false

/-- A core has an earlier request for the line queued, behind the line or in the slice's queue (R323). -/
def State.queuedFrom (s : State) (l : LLine) (k : Nat) : Bool :=
  l.queue.any (fun r => r.core = some k) ||
    (s.slice (homeDie l.line)).waitq.any (fun p => p.1 = l.line && p.2.core = some k)

/-- A request queues behind BUSY: at the line, or for a way when the entry is leaving (R323, R329). -/
def State.queueAt (s : State) (l : LLine) (r : LReq) : State :=
  if l.leaving then
    let d := homeDie l.line
    s.setSlice d { s.slice d with waitq := (s.slice d).waitq ++ [(l.line, r)] }
  else s.putLine { l with queue := l.queue ++ [r] }

/-- A read joins a fill in progress, whatever request started it (R330), unless an earlier request of its core waits
behind that fill: a thread's accesses keep their order (R335). -/
def State.joinFill (s : State) (l : LLine) (o : LOp) (r : LReq) : Option LLine :=
  match o.phase with
  | .fill rs =>
    match r with
    | .rd k _ _ =>
      if s.queuedFrom l k then none else some { l with op := some { o with phase := .fill (rs ++ [r]) } }
    | .ard _ _ _ => some { l with op := some { o with phase := .fill (rs ++ [r]) } }
    | .own _ => none | .ownFull _ => none | .join _ _ => none | .wbr _ _ _ _ => none | .awr _ _ _ => none
    | .aadd _ _ _ => none | .wbd _ _ => none | .dead _ _ => none | .vict => none | .wb _ => none
  | .snoop => none
  | .conv => none
  | .mergeWait => none
  | .merging _ => none

/-- A RED or MERGING line can take a delta of this type (R324, R327). -/
def LLine.takesDelta (l : LLine) (t : DType) : Bool := (l.st = .red || l.st = .merging) && l.dt = t

/-- A delta brings a line that merges sectors that it had not: the merge reads those too (R327, R347). -/
def State.mergeMore (s : State) (l : LLine) (m : BitVec 4) : State :=
  if l.st = .merging then s.hbmAsk l.line (m &&& ~~~l.sect) true else s

/-- A request reaches a BUSY line (R323, R324, R330). -/
def State.atBusy (s : State) (l : LLine) (o : LOp) (r : LReq) : State :=
  let queued := s.queueAt l r
  let joined : State :=
    match s.joinFill l o r with
    | some n => ((s.putLine n).llcCount l.line 0x80C).hbmAsk l.line (r.fills l.sect) false
    | none => queued
  match r with
  | .wbd k d =>
    if s.queuedFrom l k then queued
    else if o.wait.contains k || (l.owned && l.owner = some k) then
      s.putLine { l with dirty := true, sect := 0xF, data := d }
    else s
  | .wbr k t m d =>
    if s.queuedFrom l k then queued
    else if l.takesDelta t then ((s.putLine (l.absorb t m d)).llcCount l.line 0x810).mergeMore l m
    else s.queueAt l (asAadd t m d)
  | .rd _ _ _ => joined
  | .ard _ _ _ => joined
  | .own _ => queued | .ownFull _ => queued | .join _ _ => queued | .awr _ _ _ => queued | .aadd _ _ _ => queued
  | .dead _ _ => queued | .vict => queued | .wb _ => queued

/-- A request reaches a line that has an entry. -/
def State.atEntry (s : State) (l : LLine) (r : LReq) : State :=
  match l.op with
  | some o => s.atBusy l o r
  | none => s.perform l r

/-- Give ways of a set to the requests that wait for one, in their order; a request whose line has an entry by now is
performed at it, and one that needs no entry and finds none does nothing (R325, R329). -/
def State.giveWays : Nat → State → Nat → Nat → State
  | 0, s, _, _ => s
  | n + 1, s, die, set =>
    let x := s.slice die
    match x.waitq.find? (fun p => llcSet p.1 = set && ((s.lline p.1).any (fun l => !l.leaving))) with
    | some (line, r) =>
      let t := s.setSlice die { x with waitq := x.waitq.erase (line, r) }
      (match t.lline line with
        | some l => State.giveWays n (t.atEntry l r) die set
        | none => t)
    | none =>
      match x.waitq.find? (fun p => llcSet p.1 = set && (s.lline p.1).isNone), x.openWay set with
      | some (line, r), some (w, gone) =>
        let y := match gone with
          | none => x
          | some l => x.drop l.line
        if r.allocates then
          let t := s.setSlice die { y with waitq := y.waitq.erase (line, r) }
          let l : LLine := { line := line, way := w, st := .s, sect := 0 }
          State.giveWays n ((t.putLine l).perform l r) die set
        else State.giveWays n (s.setSlice die { x with waitq := x.waitq.erase (line, r) }) die set
      | some _, none => s
      | none, some _ => s
      | none, none => s

/-- What follows a change of a line: queued requests of the line, then requests that wait for a way of its set. -/
def State.settleLine (s : State) (line : Nat) : State :=
  let n := match s.lline line with
    | none => 0
    | some l => l.queue.length
  let t := s.drainLine (n + 1) line
  let d := homeDie line
  t.giveWays ((t.slice d).waitq.length + 1) d (llcSet line)

/-- A request reaches the slice (R322 to R325). -/
def State.arrive (s : State) (line : Nat) (r : LReq) : State :=
  match s.lline line with
  | some l => (s.atEntry l r).settleLine line
  | none =>
    let d := homeDie line
    let x := s.slice d
    if r.allocates || x.waitq.any (fun p => p.1 = line) then
      (s.setSlice d { x with waitq := x.waitq ++ [(line, r)] }).settleLine line
    else s

/-- An agent's write that a full queue held back is accepted once space has freed (R323). -/
def State.admitLate (s : State) (d : Nat) : State :=
  let x := s.slice d
  match x.late with
  | [] => s
  | (line, r) :: rest => if x.queued < 4096 then (s.setSlice d { x with late := rest }).arrive line r else s

/-- An operation of a line has ended: what waits for the line, for its set, and for room in the slice's queue. -/
def State.ended (s : State) (line : Nat) : State := (s.settleLine line).admitLate (homeDie line)

/-- A line of HBM that some slice homes. -/
def State.homed (s : State) (line : Nat) : Bool := isStack s.variant (128 * line)

/-- The message of a core that its slice takes next (R323): the oldest, or, while the queue is full, the oldest of those
that it always accepts. -/
def State.upFirst (s : State) (k line : Nat) : Option UpMsg :=
  (s.up.find? (fun m => m.core = k && homeDie m.line = homeDie line && (s.accepts line || !m.body.isRequest))).filter
    (fun m => m.line = line)

def State.upTake (s : State) (m : UpMsg) : State := { s with up := s.up.erase m }

/-- The next message of a core to the slice is of the kind `f` takes. -/
def State.onUp (s : State) (k line : Nat) (f : UpMsg → Option State) : State :=
  match s.upFirst k line with
  | none => s
  | some m => (f m).getD s

/-- RD (R325, R330, R334). -/
def execRd (core : CoreId) (line : Line) (s : State) : Res :=
  .next (s.onUp core.val line.toNat (fun m =>
    match m.body with
    | .rd sect c => if s.accepts m.line then some ((s.upTake m).arrive m.line (.rd m.core sect c)) else none
    | .own => none | .ownFull => none | .join _ => none | .wbd _ => none | .wbr _ _ _ => none | .dead _ => none
    | .empty => none | .answer _ => none | .delta _ _ _ => none | .ack => none))

/-- OWN (R325). -/
def execOwn (core : CoreId) (line : Line) (s : State) : Res :=
  .next (s.onUp core.val line.toNat (fun m =>
    match m.body with
    | .own => if s.accepts m.line then some ((s.upTake m).arrive m.line (.own m.core)) else none
    | .rd _ _ => none | .ownFull => none | .join _ => none | .wbd _ => none | .wbr _ _ _ => none | .dead _ => none
    | .empty => none | .answer _ => none | .delta _ _ _ => none | .ack => none))

/-- OWN_FULL (R325). -/
def execOwnFull (core : CoreId) (line : Line) (s : State) : Res :=
  .next (s.onUp core.val line.toNat (fun m =>
    match m.body with
    | .ownFull => if s.accepts m.line then some ((s.upTake m).arrive m.line (.ownFull m.core)) else none
    | .rd _ _ => none | .own => none | .join _ => none | .wbd _ => none | .wbr _ _ _ => none | .dead _ => none
    | .empty => none | .answer _ => none | .delta _ _ _ => none | .ack => none))

/-- JOIN_REQUEST (R325, R326). -/
def execJoinRequest (core : CoreId) (line : Line) (s : State) : Res :=
  .next (s.onUp core.val line.toNat (fun m =>
    match m.body with
    | .join t => if s.accepts m.line then some ((s.upTake m).arrive m.line (.join m.core t)) else none
    | .rd _ _ => none | .own => none | .ownFull => none | .wbd _ => none | .wbr _ _ _ => none | .dead _ => none
    | .empty => none | .answer _ => none | .delta _ _ _ => none | .ack => none))

/-- WBD (R324, R325). -/
def execWbd (core : CoreId) (line : Line) (s : State) : Res :=
  .next (s.onUp core.val line.toNat (fun m =>
    match m.body with
    | .wbd d => some ((s.upTake m).arrive m.line (.wbd m.core d))
    | .rd _ _ => none | .own => none | .ownFull => none | .join _ => none | .wbr _ _ _ => none | .dead _ => none
    | .empty => none | .answer _ => none | .delta _ _ _ => none | .ack => none))

/-- WBR (R324, R325). -/
def execWbr (core : CoreId) (line : Line) (s : State) : Res :=
  .next (s.onUp core.val line.toNat (fun m =>
    match m.body with
    | .wbr t k d => some ((s.upTake m).arrive m.line (.wbr m.core t k d))
    | .rd _ _ => none | .own => none | .ownFull => none | .join _ => none | .wbd _ => none | .dead _ => none
    | .empty => none | .answer _ => none | .delta _ _ _ => none | .ack => none))

/-- The oldest mem.dead of a line that its slice accepts is done (R336). -/
def Core.deadAccepted (c : Core) (line : Nat) : Core :=
  match c.ops.find? (fun o => o.kind = .dead line true true || o.kind = .dead line false true) with
  | none => c
  | some o => c.dropOp o.id

/-- DEAD_REQUEST (R325, R332). -/
def execDeadRequest (core : CoreId) (line : Line) (s : State) : Res :=
  .next (s.onUp core.val line.toNat (fun m =>
    match m.body with
    | .dead chk =>
      if s.accepts m.line then
        let t := s.upTake m
        some ((t.setCore m.core ((t.core m.core).deadAccepted m.line)).arrive m.line (.dead m.core chk))
      else none
    | .rd _ _ => none | .own => none | .ownFull => none | .join _ => none | .wbd _ => none | .wbr _ _ _ => none
    | .empty => none | .answer _ => none | .delta _ _ _ => none | .ack => none))

/-- An agent's request reaches the home slice (R318). -/
def State.agentReq (s : State) (line : Nat) (r : LReq) : State :=
  if s.homed line && s.accepts line then s.arrive line r else s

/-- ARD (R318, R325, R330, R334). -/
def execArd (a : Agent) (c : Option CtxId) (line : Line) (sect : BitVec 4) (s : State) : Res :=
  .next (s.agentReq line.toNat (.ard a sect (c.map (·.val))))

/-- AWR (R318, R325): bytes from an offset within the line. -/
def execAwr (a : AgentFor) (line : Line) (off : Fin 128) (bytes : List Byte) (s : State) : Res :=
  .next (s.agentReq line.toNat (.awr a.agent (a.ctx.map (·.val)) (placed off.val (bytes.take (128 - off.val)))))

/-- AADD (R318, R325): elements of one line. -/
def execAadd (a : Agent) (line : Line) (t : DType) (es : List (Fin 64 × Word)) (s : State) : Res :=
  .next (s.agentReq line.toNat
    (.aadd a t ((es.filter (fun e => DType.bytes t * e.1.val < 128)).map (fun e => (e.1.val, e.2)))))

/-- VICT (R325, R329): due while more requests wait for a way of the set than evictions are under way. -/
def execVict (die : DieId) (set : Fin 32768) (s : State) : Res :=
  let x := s.slice die.val
  let going := (x.lines.filter (fun l => llcSet l.line = set.val &&
    (match l.op with | some o => o.req.isVict | none => false))).length
  .next (if going < (x.waitq.filter (fun p => llcSet p.1 = set.val)).length then
      match x.victim set.val with
      | none => s
      | some l => (s.perform l .vict).ended l.line
    else s)

/-- A snoop answer is taken into the operation in progress (R324, R327). -/
def LLine.answered (l : LLine) (o : LOp) (k : Nat) (b : UpBody) : LLine :=
  let n := { l with op := some { o with wait := o.wait.erase k } }
  match b with
  | .answer d => { n with dirty := true, sect := 0xF, data := d }
  | .delta t m d =>
    if l.takesDelta t then n.absorb t m d
    else if l.leaving then n else { n with queue := n.queue ++ [asAadd t m d] }
  | .empty => n
  | .ack => n
  | .rd _ _ => n | .own => n | .ownFull => n | .join _ => n | .wbd _ => n | .wbr _ _ _ => n | .dead _ => n

/-- A delta that an answer brings: counted where the operation absorbs it (R340), with the sectors that a merge has still to
read; of a line that is leaving, queued for
a way where it does not (R324, R329). -/
def State.noteDelta (s : State) (l : LLine) (b : UpBody) : State :=
  match b with
  | .delta t m d =>
    if l.takesDelta t then (s.llcCount l.line 0x810).mergeMore l m else if l.leaving then s.queueAt l (asAadd t m d) else s
  | .answer _ => s | .empty => s | .ack => s | .rd _ _ => s | .own => s | .ownFull => s | .join _ => s | .wbd _ => s
  | .wbr _ _ _ => s | .dead _ => s

/-- A delta that meets no operation is an AADD of its own type (R324). -/
def State.strayAnswer (s : State) (m : UpMsg) : State :=
  match m.body with
  | .delta t k d => s.arrive m.line (asAadd t k d)
  | .answer _ => s | .empty => s | .ack => s | .rd _ _ => s | .own => s | .ownFull => s | .join _ => s | .wbd _ => s
  | .wbr _ _ _ => s | .dead _ => s

/-- An answer reaches the slice (R324). -/
def State.takeAnswer (s : State) (m : UpMsg) : State :=
  let t := s.upTake m
  match t.lline m.line with
  | some l =>
    match l.op with
    | some o => (((t.putLine (l.answered o m.core m.body)).noteDelta l m.body).llcAdvance m.line).ended m.line
    | none => t.strayAnswer m
  | none => t.strayAnswer m

/-- SNOOP_ANSWER (R324). -/
def execSnoopAnswer (core : CoreId) (line : Line) (s : State) : Res :=
  .next (s.onUp core.val line.toNat (fun m =>
    match m.body with
    | .empty => some (s.takeAnswer m)
    | .answer _ => some (s.takeAnswer m)
    | .delta _ _ _ => some (s.takeAnswer m)
    | .ack => some (s.takeAnswer m)
    | .rd _ _ => none | .own => none | .ownFull => none | .join _ => none | .wbd _ => none | .wbr _ _ _ => none
    | .dead _ => none))

/-- HBM reads of a line are still under way. -/
def State.hbmBusy (s : State) (line : Nat) : Bool := s.hbm.nreq.any (fun r => r.line = line && !r.write)

/-- The end of an OWN or AWR whose fill met an uncorrectable sector: the store is not granted (R352). -/
def State.fillFailed (s : State) (l : LLine) (r : LReq) : State :=
  match r with
  | .own k => ((s.putLine { l with op := none, st := .s }).readerFault l.line r).dnSend k l.line (.fill .s 0 l.data)
  | .awr _ _ _ => (s.finishValue l r).readerFault l.line r
  | .rd _ _ _ => s | .ownFull _ => s | .join _ _ => s | .wbr _ _ _ _ => s | .ard _ _ _ => s | .aadd _ _ _ => s
  | .wbd _ _ => s | .dead _ _ => s | .vict => s | .wb _ => s

/-- Sectors that the requests of a fill need. -/
def fillNeeds (rs : List LReq) (valid : BitVec 4) : BitVec 4 := rs.foldl (fun m r => m ||| r.fills valid) 0

/-- Readers that a fill leaves without a sector they named (R352). -/
def State.fillFaults (s : State) (line : Nat) (rs : List LReq) (valid bad : BitVec 4) : State :=
  (rs.filter (fun r => LReq.fills r valid &&& bad ≠ 0)).foldl (fun t r => State.readerFault t line r) s

/-- Requests go to the front of a line's queue. -/
def State.requeue (s : State) (line : Nat) (rs : List LReq) : State :=
  match s.lline line with
  | none => s
  | some l => s.putLine { l with queue := rs ++ l.queue }

/-- FILL_ARRIVE (R317, R330, R352): the sectors become valid, but for uncorrectable ones. The grants of readers are decided
from those that have joined. The readers that joined the fill of a write follow it, on the sectors that it brought. -/
def State.fillArrive (s : State) (line : Nat) : State :=
  match s.lline line with
  | none => s
  | some l =>
    match l.op with
    | none => s
    | some o =>
      match o.phase with
      | .fill rs =>
        if s.hbmBusy line then s
        else
          let need := fillNeeds rs l.sect
          let bad := need &&& s.badSectors line
          let n := { l with sect := l.sect ||| (need &&& ~~~bad), data := mergeSectors (need &&& ~~~bad) (s.hbmLine line) l.data }
          let reads := rs.filter LReq.isRead
          let write (s : State) : State :=
            if o.req.fills n.sect = 0 then s.finishValue n o.req else s.fillFailed n o.req
          let t := match o.req with
            | .rd _ _ _ => (s.serveReads n rs).fillFaults line rs n.sect bad
            | .ard _ _ _ => (s.serveReads n rs).fillFaults line rs n.sect bad
            | .own _ => (write s).requeue line reads
            | .awr _ _ _ => (write s).requeue line reads
            | .ownFull _ => s | .join _ _ => s | .wbr _ _ _ _ => s | .aadd _ _ _ => s | .wbd _ _ => s
            | .dead _ _ => s | .vict => s | .wb _ => s
          t.ended line
      | .snoop => s
      | .conv => s
      | .mergeWait => s
      | .merging _ => s

def execFillArrive (line : Line) (s : State) : Res := .next (s.fillArrive line.toNat)

/-- CONVERSION_COMPLETE (R326): every holder has answered, and HBM accepts the dirty sectors. -/
def State.conversionDone (s : State) (line : Nat) : State :=
  match s.lline line with
  | none => s
  | some l =>
    match l.op with
    | none => s
    | some o =>
      if o.phase = .conv && o.wait = [] then
        let t := if l.dirty then s.hbmPut line l.sect l.data false else s
        ((t.countServed line l.resolved).finishValue l o.req).ended line
      else s

def execConversionComplete (line : Line) (s : State) : Res := .next (s.conversionDone line.toNat)

/-- MERGE_START (R327, R328). -/
def State.mergeStart (s : State) (line : Nat) : State :=
  match s.lline line with
  | none => s
  | some l =>
    match l.op with
    | none => s
    | some o =>
      let d := homeDie line
      let x := s.slice d
      if o.phase = .mergeWait && x.merges.length < 64 then
        let t := s.setSlice d { x with merges := x.merges ++ [line] }
        (t.startOp { l with st := .merging } o.req (.merging x.merges.length) l.targets .inval).hbmAsk line l.sect true
      else s

def execMergeStart (line : Line) (s : State) : Res := .next (s.mergeStart line.toNat)

/-- Sectors of a merge that cannot be read: the delta is discarded and the sector stays uncorrectable (R352). -/
def State.mergeResult (s : State) (l : LLine) : BitVec 4 × List Byte :=
  let ok := l.sect &&& ~~~(s.badSectors l.line)
  (ok, addDelta l.dt ok (s.hbmLine l.line) l.data)

/-- MERGE_COMPLETE (R327, R328): in the order in which merges began, once every snooped core has answered and the HBM
data is there. -/
def State.mergeDone (s : State) (line : Nat) : State :=
  match s.lline line with
  | none => s
  | some l =>
    match l.op with
    | none => s
    | some o =>
      let d := homeDie line
      let x := s.slice d
      match o.phase with
      | .merging _ =>
        if o.wait = [] && x.merges.head? = some line && !(s.hbmBusy line) then
          let t := (s.setSlice d { x with merges := x.merges.drop 1 }).llcCount line 0x814
          let (ok, v) := s.mergeResult l
          let clean := { l.fresh with op := none, queue := l.queue }
          let full := { clean with sect := ok, data := v, dirty := true, resolved := l.sect ≠ 0 }
          let u := match o.req with
            | .vict => (t.hbmPut line ok v true).freeLine clean
            | .wb inv =>
              let q := t.hbmPut line ok v true
              if inv then q.freeLine clean else q.putLine { clean with sect := ok, data := v }
            | .rd _ _ _ => t.perform full o.req
            | .ard _ _ _ => t.perform full o.req
            | .own _ => t.perform full o.req
            | .ownFull _ => t.perform full o.req
            | .awr _ _ _ => t.perform full o.req
            | .join _ _ => (if ok = l.sect then t else t.readerFault line o.req).perform full o.req
            | .aadd _ _ _ => t.perform full o.req
            | .wbr _ _ _ _ => t.perform full o.req
            | .wbd _ _ => t.putLine { full with resolved := false }
            | .dead _ _ => t.perform full o.req
          u.ended line
        else s
      | .fill _ => s
      | .snoop => s
      | .conv => s
      | .mergeWait => s

def execMergeComplete (line : Line) (s : State) : Res := .next (s.mergeDone line.toNat)

/-- WB_ARG (R340): base and length. -/
def execWbArg (r : MbxReq) (s : State) : Res :=
  .next (s.mbxRun r .llc { num := 1, read := false, write := true, len := 4 } (fun k _ ws t =>
    let b := natOf (ws.take 2)
    let n := natOf ((ws.drop 2).take 2)
    if b % 128 ≠ 0 || n % 128 ≠ 0 || n = 0 || 0x20000000000 < b + n then itemBad t
    else itemDone (t.setArg r.req .llc 1 k ws)))

/-- WB_START (R339, R340). -/
def execWbStart (r : MbxReq) (s : State) : Res :=
  .next (s.mbxRun r .llc { num := 2, read := false, write := true, len := 1 } (fun k _ ws t =>
    let a := t.arg r.req .llc 1 k
    let x := t.slice k
    if x.wb.isSome || a = [] then itemBad t
    else
      let b := natOf (a.take 2)
      let n := natOf ((a.drop 2).take 2)
      itemDone (t.setSlice k { x with wb := some (b, n, bit (ws.headD 0) 0, 0) })))

/-- Number of an entry in the order in which a scan looks at the 524,288 entries of a slice (R317, R339). -/
def LLine.entryNo (l : LLine) : Nat := 16 * llcSet l.line + l.way

/-- The entry of the range that the scan comes to next: the lowest from `pos` on (R339). -/
def Slice.scanNext (x : Slice) (b n pos : Nat) : Option LLine :=
  (x.lines.filter (fun l => pos ≤ l.entryNo && b ≤ 128 * l.line && 128 * l.line < b + n)).foldl
    (fun o l => match o with
      | none => some l
      | some m => if l.entryNo < m.entryNo then some l else some m) none

/-- Entries of a slice (R317). -/
def sliceEntries : Nat := 524288

/-- WB_VISIT (R325, R339): the scan goes on to the next entry whose line lies in the range, and visits it once it is not
BUSY; where there is none, it has looked at every entry. -/
def execWbVisit (die : DieId) (s : State) : Res :=
  let x := s.slice die.val
  .next (match x.wb with
    | none => s
    | some (b, n, inv, pos) =>
      match x.scanNext b n pos with
      | none => s.setSlice die.val { x with wb := some (b, n, inv, sliceEntries) }
      | some l =>
        if l.op.isNone then
          ((s.setSlice die.val { x with wb := some (b, n, inv, l.entryNo + 1) }).perform l (.wb inv)).ended l.line
        else s)

/-- WB_SCAN_COMPLETE (R339): the scan and what it started are done. -/
def execWbScanComplete (die : DieId) (s : State) : Res :=
  let x := s.slice die.val
  .next (match x.wb with
    | none => s
    | some (b, n, _, pos) =>
      if (x.scanNext b n pos).isNone &&
          x.lines.all (fun l => match l.op with | some o => !o.req.isWb | none => true) then
        s.setSlice die.val { x with wb := none }
      else s)

/-- LOOKUP_ARG (R341). -/
def execLookupArg (r : MbxReq) (s : State) : Res :=
  .next (s.mbxRun r .dir { num := 1, read := false, write := true, len := 2 } (fun k _ ws t =>
    let a := natOf ws
    if isStack t.variant a && homeDie (a / 128) = k then itemDone (t.setArg r.req .dir 1 k (wordsOf 2 (a / 128 * 128)))
    else itemBad t))

def LSt.code : LSt → Nat
  | .s => 1 | .e => 2 | .m => 3 | .red => 4 | .dead => 5 | .merging => 6

/-- The directory entry of R319 as a number. SECT counts value and RED lines only. -/
def LLine.entry (l : LLine) : Nat :=
  let red := l.st = .red || l.st = .merging
  LSt.code l.st * 2 ^ 61 + (if l.ptr then 2 ^ 60 else 0) + (if l.dirty then 2 ^ 59 else 0) +
    (if l.chk then 2 ^ 58 else 0) + (if red then DType.code l.dt * 2 ^ 56 else 0) +
    (if l.op.isSome then 2 ^ 55 else 0) + l.sect.toNat * 2 ^ 48 + l.holders

/-- LOOKUP (R341). -/
def execLookup (r : MbxReq) (s : State) : Res :=
  .next (s.mbxRun r .dir { num := 2, read := true, write := false, len := 4 } (fun k _ _ t =>
    let w := t.arg r.req .dir 1 k
    if w = [] then itemBad t
    else
      let a := natOf w
      match t.lline (a / 128) with
      | none => itemRead t (wordsOf 2 0 ++ wordsOf 2 a)
      | some l => itemRead t (wordsOf 2 l.entry ++ wordsOf 2 (a + 2 ^ 63))))

/-- LAST_DEAD (R341). -/
def execLastDead (r : MbxReq) (s : State) : Res :=
  .next (s.mbxGet r .dir 3 2 (fun t k => (t.slice k).lastDead.toNat))

end Sys2Proof.Machine
end

