-- ==== Sys2Proof/Machine/Arith.lean ====
section
/-! DEFINITION. Arithmetic of the matrix array: formats and classes (R189, R190), tile layouts (R197, R198), and what
one streamed row does to one accumulator (R209 to R212). -/

namespace Sys2Proof.Machine

/-- Code of element `e` in packed bytes (R198). -/
def elemAt (f : Fmt) (bs : List Byte) (e : Nat) : Nat :=
  let w := f.width
  if w = 6 then leAt bs (e / 4 * 3) 3 / 2 ^ (6 * (e % 4)) % 64
  else if w = 4 then leAt bs (e / 2) 1 / 2 ^ (4 * (e % 2)) % 16
  else leAt bs (e * (w / 8)) (w / 8)

/-- Bytes of a tile in its slot (R198). -/
def tileBytes (f : Fmt) : Nat := if f.width = 6 then 24576 else 32768

/-- Value of a tile element: its code, and in a narrow floating-point format its block's scale (R192). -/
def tileVal (f : Fmt) (tile scales : List Byte) (i si : Nat) : Num :=
  let c := elemAt f tile i
  if scaled f then elementValue f c (leAt scales si 1) else Num.ofCode f c

/-- Elements of one streamed row (R197). -/
def rowLen (f : Fmt) (col : Bool) : Nat := if col then 128 else 128 * classOf f

/-- Stream row m of a dense tile. -/
def streamRow (f : Fmt) (col : Bool) (tile scales : List Byte) (m : Nat) : List Num :=
  let n := rowLen f col
  (List.range n).map (fun i => tileVal f tile scales (n * m + i) (n / 32 * m + i / 32))

/-- Stationary element W[r][j] (R197). -/
def TileSet.at (s : TileSet) (r j : Nat) : Num :=
  let k := classOf s.fmt
  tileVal s.fmt s.tile s.scales (128 * k * j + r) (4 * k * j + r / 32)

/-- The stationary elements that feed output `o` of an axis (R206, R207). -/
def TileSet.feeds (s : TileSet) (col : Bool) (o : Nat) : List Num :=
  if col then (List.range 128).map (fun j => s.at o j) else (List.range (128 * classOf s.fmt)).map (fun r => s.at r o)

/-- Outputs of an axis (R197). -/
def outsOf (f : Fmt) (col : Bool) : Nat := if col then 128 * classOf f else 128

def absVal : Num → Num
  | .nan => .nan
  | .inf _ => .inf false
  | .fin _ m e => .fin false m e

/-- A term of MAC, ABSDIFF or SQDIFF, exactly (R212). -/
def termOf (op : Nat) (x w : Num) : Num :=
  if op = 0 then Num.mul x w
  else
    let d := Num.add x w.neg
    if op = 1 then absVal d else Num.mul d d

/-- Exponent of a nonzero finite value. -/
def expOf : Num → Option Int
  | .nan => none
  | .inf _ => none
  | .fin _ m e => if m = 0 then none else some ((Nat.log2 m : Int) + e)

/-- A term truncated toward zero to a multiple of 2^q, as that multiple. -/
def truncAt (q : Int) : Num → Int
  | .nan => 0
  | .inf _ => 0
  | .fin s m e =>
    let v : Int := ((if q ≤ e then m * 2 ^ (e - q).toNat else m / 2 ^ (q - e).toNat : Nat) : Int)
    if s then -v else v

def isInf (neg : Bool) : Num → Bool
  | .nan => false
  | .inf s => s = neg
  | .fin _ _ _ => false

def isNegZero : Num → Bool
  | .nan => false
  | .inf _ => false
  | .fin s m _ => s && m = 0

/-- The sum S of R209 with the special cases of R210. -/
def sumTerms (ts : List Num) : Num :=
  if ts.any Num.isNan || (ts.any (isInf true) && ts.any (isInf false)) then .nan
  else if ts.any (isInf true) then .inf true
  else if ts.any (isInf false) then .inf false
  else
    match (ts.filterMap expOf).max? with
    | none => .fin (ts.all isNegZero && ts ≠ []) 0 0
    | some e =>
      let q := e - 60
      let s := (ts.map (truncAt q)).sum
      .fin (s < 0) s.natAbs q

/-- A value below another, with −0 below +0 (R212). -/
def zlt (a b : Num) : Bool := a.lt b || (a.eq b && isNegZero a && !(isNegZero b) && b.isZero)

/-- The lesser, or the greater, of two values. -/
def pick (least : Bool) (a b : Num) : Num := if least then (if zlt b a then b else a) else (if zlt a b then b else a)

/-- INT32 result with its saturation (R211). -/
def sat32 (v : Int) : Word × Bool :=
  let c := clampInt (-2 ^ 31) (2 ^ 31 - 1) v
  (BitVec.ofInt 32 c, c ≠ v)

def numInt (v : Num) : Int := (Num.toInt? v).getD 0

/-- PRED of CMPCNT (R212). -/
def predHolds (p : Nat) (x w : Num) : Bool :=
  if p = 0 then x.lt w
  else if p = 1 then x.lt w || x.eq w
  else if p = 2 then x.eq w
  else !(x.eq w)

/-- What one streamed row does to one accumulator: the new value, and whether an integer result saturated (R209 to
R212). -/
def accumulate (op pred : Nat) (int : Bool) (acc : Word) (xs ws : List Num) : Word × Bool :=
  let ps := xs.zip ws
  if op = 5 then sat32 (acc.toInt + (ps.filter (fun p => predHolds pred p.1 p.2)).length)
  else if int then
    if op = 3 then sat32 ((ps.map (fun p => numInt p.1 + numInt p.2)).foldl min acc.toInt)
    else if op = 4 then sat32 ((ps.map (fun p => numInt p.1 + numInt p.2)).foldl max acc.toInt)
    else sat32 (acc.toInt + (ps.map (fun p => numInt (termOf op p.1 p.2))).sum)
  else if op = 3 || op = 4 then
    let ts := ps.map (fun p => Num.add p.1 p.2)
    match ts with
    | [] => (acc, false)
    | t :: rest =>
      if ts.any Num.isNan || (Num.ofF32 acc).isNan then (0x7FC00000, false)
      else
        let r : Word := (rest.foldl (pick (op = 3)) t).f32
        (if op = 3 then (if zlt (.ofF32 r) (.ofF32 acc) then r else acc)
          else (if zlt (.ofF32 acc) (.ofF32 r) then r else acc), false)
  else (Num.f32 (Num.add (.ofF32 acc) (sumTerms (ps.map (fun p => termOf op p.1 p.2)))), false)

/-- INIT value of a bank (R212). -/
def initValue (op : Nat) (int : Bool) : Word :=
  if op = 3 then (if int then 0x7FFFFFFF else 0x7F800000)
  else if op = 4 then (if int then 0x80000000 else 0xFF800000)
  else 0

/-- The set is NONFIN (R280): it holds an infinite or NaN element, or a scale of 0xFF. -/
def TileSet.nonfin (s : TileSet) : Bool :=
  let k := classOf s.fmt
  (List.range (128 * 128 * k)).any (fun i =>
    match tileVal s.fmt s.tile s.scales i (i / 32) with
    | .nan => true
    | .inf _ => true
    | .fin _ _ _ => false)

/-- Accumulator of a bank. -/
def Bank.at (b : Bank) (i : Nat) : Word := Tab.get b.init b.acc i

/-- Feed one row into a bank (R206, R207): every output of the row; the number of saturations. -/
def Bank.feed (b : Bank) (op pred : Nat) (int col : Bool) (set : TileSet) (m : Nat) (xs : List Num) : Bank × Nat :=
  let n := outsOf set.fmt col
  (List.range n).foldl (fun q o =>
    let i := n * m + o
    let (v, sat) := accumulate op pred int (q.1.at i) xs (set.feeds col o)
    ({ q.1 with acc := Tab.set q.1.init q.1.acc i v }, q.2 + (if sat then 1 else 0))) (b, 0)

/-- Bytes that a drain writes, in the order of R197 (R214). -/
def Bank.drained (b : Bank) (ofmt : Fmt) (int : Bool) : List Byte :=
  (List.range 16384).flatMap (fun i =>
    let v := b.at i
    if int || ofmt = .fp32 then leBytes 4 v.toNat else leBytes 2 ((Num.ofF32 v).toWide ofmt).1)

end Sys2Proof.Machine
end

