-- ==== Sys2Proof/Machine/Rattle.lean ====
section
/-! DEFINITION. Rattle: the sampling of array passes and the check of a captured sample (R413 to R417, R420). -/

namespace Sys2Proof.Machine

/-- What a core's shift register loads from the seed (R413). -/
def lfsrSeed (seed : Word) (k : Nat) : Word :=
  let v := seed ^^^ BitVec.ofNat 32 (k * 0x9E3779B9)
  if v = 0 then 1 else v

/-- One step of the Galois LFSR (R413). -/
def lfsrStep (s : Word) : Word := if s.getLsbD 0 then (s >>> 1) ^^^ 0x80200003 else s >>> 1

def lfsrSteps : Nat → Word → Word
  | 0, s => s
  | n + 1, s => lfsrSteps n (lfsrStep s)

/-- The register of a core; before its first step, what it loaded at reset or at the last write of SEED (R413). -/
def State.lfsrOf (s : State) (k : Nat) : Word := ((s.core k).lfsr).getD (lfsrSeed (s.cfgAccepted .rattle 0 0x108) k)

/-- RATTLE.CTL (R420). -/
def State.rattleK (s : State) : Nat := field (s.cfg .rattle 0 0x100) 12 8
def State.rattleOn (s : State) (p : Nat) : Bool :=
  bit (s.cfg .rattle 0 0x100) 0 && (s.cfg .rattle 0 0x104).getLsbD p && !(s.inHold .rattle 0)

def numWord (int : Bool) (v : Num) : Word := if int then BitVec.ofInt 32 (numInt v) else v.f32

def notFinite : Num → Bool
  | .nan => true
  | .inf _ => true
  | .fin _ _ _ => false

/-- The sample of output `o` of a row (R414). -/
def sampleOf (w : Work) (op : MmOp) (set : TileSet) (m o : Nat) (xs : List Num) : Sample :=
  let ws := set.feeds op.col o
  let int := op.fmt.isInt
  let ts := (xs.zip ws).map (fun p => termOf 0 p.1 p.2)
  { frame := w.frame, fmt := op.fmt, ctx := w.ctx.getD 0, col := op.col, row := m, out := o
    xs := xs.map (numWord int), ws := ws.map (numWord int), nonfin := xs.any notFinite || ws.any notFinite
    sum := if int then BitVec.ofInt 32 ((ts.map numInt).sum) else (sumTerms ts).f32 }

/-- A MAC pass steps the core's register once; when the pass is sampled, 32 steps more choose row and output (R413).
`rows` are the rows it feeds. -/
def State.rattlePass (s : State) (k : Nat) (w : Work) (op : MmOp) (set : TileSet) (rows : List (Nat × List Num)) :
    State :=
  if op.op ≠ 0 then s
  else
    let a := lfsrStep (s.lfsrOf k)
    let hit := s.rattleOn w.part && a.toNat % 2 ^ s.rattleK = 0
    let b := if hit then lfsrSteps 32 a else a
    let t := s.setCore k { s.core k with lfsr := some b }
    if !hit then t
    else
      let u := t.addCount .rattle 0 0x804 1
      let m := b.toNat % 128
      let o := b.toNat / 128 % 512 % outsOf set.fmt op.col
      match rows.find? (·.1 = m) with
      | none => u.addCount .rattle 0 0x80C 1
      | some r =>
        if (u.core k).sample.isSome then u.addCount .rattle 0 0x810 1
        else u.setCore k { u.core k with sample := some (sampleOf w op set m o r.2) }

/-- A nonzero product outside the FP32 normal range (R416); one of an operand that widens to an infinity is outside. -/
def outOfRange (x w : Word) : Bool :=
  let p := Num.mul (.ofF32 x) (.ofF32 w)
  match expOf p with
  | none => notFinite p
  | some e => e < -126 || 127 < e

def fabs (w : Word) : Word := w &&& 0x7FFFFFFF

/-- Terms of one lane: l, l + 32, l + 64, ... -/
def laneTerms (ps : List (Word × Word)) (l : Nat) : List (Word × Word) :=
  (ps.zipIdx.filter (fun q => q.2 % 32 = l)).map (·.1)

/-- Reference sum and magnitude (R415). -/
def refAndMag (ps : List (Word × Word)) : Word × Word :=
  let lanes := (List.range 32).map (fun l => (laneTerms ps l).foldl (fun (q : Word × Word) p =>
    let m := fmul p.1 p.2
    (fadd q.1 m, fadd q.2 (fabs m))) (0, 0))
  ((lanes.drop 1).foldl (fun a q => fadd a q.1) (lanes.headD (0, 0)).1,
   (lanes.drop 1).foldl (fun a q => fadd a q.2) (lanes.headD (0, 0)).2)

/-- Result of a check: skipped, or reference, magnitude and whether the sample disagrees (R415, R416). -/
def Sample.check (x : Sample) (thresh : Nat) : Option (Word × Word × Bool) :=
  let ps := x.xs.zip x.ws
  if x.fmt.isInt then
    let r : Word := BitVec.ofInt 32 ((ps.map (fun p => p.1.toInt * p.2.toInt)).sum)
    some (r, 0, x.sum ≠ r)
  else if x.nonfin || ps.any (fun p => outOfRange p.1 p.2) then none
  else
    let (r, m) := refAndMag ps
    let err := fabs (fsub x.sum r)
    some (r, m, if (Num.ofF32 m).isZero then !(Num.ofF32 x.sum).isZero
      else (Num.ofF32 (fmul m (place (127 - thresh) 23))).lt (.ofF32 err))

/-- Words of LAST_DISAGREE (R420). -/
def Sample.words (x : Sample) (k : Nat) (r m : Word) : List Word :=
  wordsOf 2 x.frame.toNat ++ [place (fmtCode x.fmt) 28 ||| place x.ctx 12 ||| place k 0,
    flag x.col 23 ||| place x.row 16 ||| place x.out 0, x.sum, r, m, 0]

/-- A sample disagrees (R417). -/
def State.disagree (s : State) (k : Nat) (x : Sample) (r m : Word) : State :=
  let t := ((s.addCount .rattle 0 0x814 1).latchLast .rattle 0 0x800 22 (flag true 23 ||| place k 0)).raise .rattle 0 0x5009
  let u := { t with lastDisagree := x.words k r m }
  if bit (u.cfg .rattle 0 0x100) 1 then u.setCfg .array k 0x100 (u.cfg .array k 0x100 ||| 1) else u

/-- RATTLE_CHECK (R415 to R417). -/
def execRattleCheck (core : CoreId) (s : State) : Res :=
  let k := core.val
  .next (match (s.core k).sample with
    | none => s
    | some x =>
      let t := s.setCore k { s.core k with sample := none }
      match x.check (field (s.cfg .rattle 0 0x100) 19 16) with
      | none => t.addCount .rattle 0 0x80C 1
      | some (r, m, bad) =>
        let u := t.addCount .rattle 0 0x808 1
        if bad then u.disagree k x r m else u)

/-- Every core loads its register from the seed (R413). -/
def State.reseed (s : State) : State :=
  { s with cores := s.cores.map (fun p => (p.1, { p.2 with lfsr := none })) }

/-- LAST_DISAGREE (R420). -/
def execLastDisagree (r : MbxReq) (s : State) : Res :=
  .next (s.mbxRun r .rattle { num := 1, read := true, write := false, len := 8 } (fun _ _ _ t => itemRead t t.lastDisagree))

end Sys2Proof.Machine
end

