-- ==== Sys2Proof/Machine/Array.lean ====
section
/-! DEFINITION. The matrix array and the sparsity unit: issue checks on the projected state (R200, R202, R215 to R217,
R224, R285, R286, R289), passes, loads and drains (R203 to R214, R218, R278 to R281), rounds (R284 to R293). -/

namespace Sys2Proof.Machine

/-- Scale companion of a slot (R199). -/
def Core.companion (c : Core) (slot : Nat) : List Byte :=
  (List.range 2048).map (fun i => Tab.get 0 c.arr.comp (2048 * slot + i))

/-- The tile of a slot with its scales (R204). -/
def Core.tileOf (c : Core) (l : Launch) (slot : Nat) (f : Fmt) : TileSet :=
  { fmt := f, tile := c.slotBytes l slot (tileBytes f), scales := c.companion slot }

/-- A pass or load has still to read for `n` cycles from its start. -/
def ArrEntry.readsFor (e : ArrEntry) (now n : Nat) : Bool :=
  match e.started with
  | none => true
  | some t => now < t + n

/-- What carries an entry out: the slot bits, the scale port, the load path, the feed, the drain path, the filter, the
estimator or a register (R215, R218, R285). -/
inductive ArrPath where
  | bits | scale | load | feed | drain | filter | tile | estimate | check | status
  deriving DecidableEq, Repr

def ArrEntry.path (e : ArrEntry) : ArrPath :=
  match e.act with
  | .ready _ => .bits | .unready _ => .bits | .lds _ _ _ => .scale | .ldsh _ _ _ _ => .load | .mm _ => .feed
  | .drain _ _ _ _ _ => .drain | .filt _ _ => .filter | .ldw _ => .tile | .est _ _ _ _ => .estimate | .chk _ => .check
  | .stat _ _ _ => .status

/-- Slots that an entry has still to read (R215). -/
def ArrEntry.reads (c : Core) (l : Launch) (now : Nat) (e : ArrEntry) : BitVec 14 :=
  match e.act with
  | .ldsh slot _ _ _ => if e.readsFor now 128 then slotBit slot else 0
  | .mm o => if e.readsFor now e.fed then c.passSlots l o else 0
  | .ldw slot => slotBit slot
  | .est _ slot _ _ => slotBit slot
  | _ => 0

/-- Slots whose TR, SV, scales or contents an entry has still to change (R200, R214, R215). -/
def ArrEntry.alters (c : Core) (l : Launch) (e : ArrEntry) : BitVec 14 :=
  match e.act with
  | .ready m => m
  | .unready m => m
  | .lds slot _ _ => slotBit slot
  | .ldsh slot _ _ rel => if rel then slotBit slot else 0
  | .mm o => if o.rel then c.passSlots l o else 0
  | .drain _ dst ofmt int32 mode => if mode = 2 then 0 else drainSlots dst ofmt int32
  | _ => 0

/-- No entry of a list has still to read, or to change, slots of a mask. -/
def noReader (c : Core) (l : Launch) (now : Nat) (es : List ArrEntry) (m : BitVec 14) : Bool :=
  es.all (fun e => e.reads c l now &&& m = 0)

def noChange (c : Core) (l : Launch) (es : List ArrEntry) (m : BitVec 14) : Bool :=
  es.all (fun e => e.alters c l &&& m = 0)

/-- A tile may be read: what earlier entries do to its slot is done, and TR is 1, with SV where scales are read (R200,
R216). -/
def tileReady (c : Core) (l : Launch) (before : List ArrEntry) (slot : Nat) (scales : Bool) : Bool :=
  noChange c l before (slotBit slot) && c.arr.tr.getLsbD slot && (!scales || c.arr.sv.getLsbD slot)

/-- An entry for the estimator: sp.ldw, sp.est or sp.chk. -/
def ArrEntry.onEst (e : ArrEntry) : Bool := e.path = .tile || e.path = .estimate || e.path = .check

/-- An entry that has not begun. -/
def ArrEntry.waits (e : ArrEntry) : Bool := e.started.isNone

/-- A filtered pass on a PID. -/
def ArrEntry.filteredOn (pid : Nat) (e : ArrEntry) : Bool :=
  match e.act with
  | .mm o => o.sparse && o.filt ≠ .none && o.pid = pid
  | _ => false

/-- Rows predicted inactive (R284). -/
def Core.predicted (c : Core) (min pid rows : Nat) : List Nat :=
  (List.range rows).filter (fun m => min ≠ 0 && min ≤ Tab.get 0 c.sp.cnt (128 * pid + m))

/-- H of a magnitude code times the block scale (R287), as an exact value. -/
def halfWidth (code scale : Nat) : Num :=
  let (m, e) : Nat × Int := if code % 8 < 4 then (1, -2) else if code % 8 < 6 then (1, -1) else if code % 8 = 6 then (1, 0) else (1, 1)
  if scale = 0xFF then .nan else (Num.fin false m e).scale ((scale : Int) - 127)

/-- Value and half-width of an FP4 element. -/
def fp4Pair (t : TileSet) (i si : Nat) : Num × Num :=
  (tileVal .e2m1 t.tile t.scales i si, halfWidth (elemAt .e2m1 t.tile i) (leAt t.scales si 1))

/-- Bound term |x̂| × h_w + |ŵ| × h_x + h_x × h_w (R287). -/
def boundTerm (x w : Num × Num) : Num :=
  Num.add (Num.add (Num.mul (absVal x.1) w.2) (Num.mul (absVal w.1) x.2)) (Num.mul x.2 w.2)

/-- Add the estimates and bounds of one row (R287). -/
def SpState.estRow (p : SpState) (x w : TileSet) (m : Nat) : SpState :=
  let xs := (List.range 512).map (fun r => fp4Pair x (512 * m + r) (16 * m + r / 32))
  (List.range 128).foldl (fun q j =>
    let ws := (List.range 512).map (fun r => fp4Pair w (512 * j + r) (16 * j + r / 32))
    let i := 128 * m + j
    let ps := xs.zip ws
    { q with
      est := Tab.set 0 q.est i (Num.f32 (Num.add (.ofF32 (Tab.get 0 q.est i)) (sumTerms (ps.map (fun z => Num.mul z.1.1 z.2.1)))))
      bound := Tab.set 0 q.bound i
        (Num.f32 (Num.add (.ofF32 (Tab.get 0 q.bound i)) (sumTerms (ps.map (fun z => boundTerm z.1 z.2))))) }) p

/-- Rows that an sp.est estimates: the set P of its round (R287). -/
def Core.estimated (c : Core) (min pid rows : Nat) (add : Bool) : List Nat :=
  if add then ((c.sp.rounds.find? (·.pid = pid)).map (·.pred)).getD [] else c.predicted min pid rows

/-- sp.est is carried out (R287). -/
def Core.doEst (c : Core) (l : Launch) (min pid slot rows : Nat) (add : Bool) : Core :=
  let sp := if add then { c.sp with
      rounds := c.sp.rounds.map (fun r => if r.pid = pid then { r with ests := r.ests + 1 } else r) }
    else { c.sp with
      rounds := { pid := pid, rows := rows, pred := c.predicted min pid rows, ests := 1 } :: c.sp.rounds.filter (·.pid ≠ pid)
      open_ := some pid, est := [], bound := [] }
  match sp.estTile with
  | some w => { c with sp := (c.estimated min pid rows add).foldl (fun q m => q.estRow (c.tileOf l slot .e2m1) w m) sp }
  | none => { c with sp := sp }

/-- A row is certified: U ≤ 0 for all 128 outputs (R288). -/
def SpState.certified (p : SpState) (m : Nat) : Bool :=
  (List.range 128).all (fun j =>
    let u := Num.ofF32 (ffma (Tab.get 0 p.bound (128 * m + j)) 0x3F880000 (Tab.get 0 p.est (128 * m + j)))
    u.lt (.fin false 0 0) || u.isZero)

/-- The first misprediction of a core in a frame (R293). -/
def State.mispredictEvent (s : State) (k : Nat) : State :=
  let c := s.core k
  let first := c.mispTick ≠ s.fr.ticks + 1
  let t := s.setCore k { c with mispTick := s.fr.ticks + 1 }
  if first && bit (t.cfg .sparse k 0x100) 2 then
    (t.latch .sparse k 0x814 (fun w => w ||| flag true 23)).raise .sparse k 0x3010
  else t

/-- The outcome of the check for a row (R288). A round that was checked before has no accumulators any more: the manual
states no outcome, and it is free (log 147). -/
def State.certifies (s : State) (k pid m : Nat) : Bool :=
  let p := (s.core k).sp
  if p.open_ = some pid then p.certified m else bit (Config.freeWord (s.free + m)) 0

/-- sp.chk is carried out (R288, R293). -/
def State.doChk (s : State) (k pid : Nat) : State :=
  let c := s.core k
  match c.sp.rounds.find? (·.pid = pid) with
  | none => s
  | some r =>
    let good := r.pred.filter (s.certifies k pid)
    let bad := r.pred.filter (fun m => !(s.certifies k pid m))
    let cnt := bad.foldl (fun t m => Tab.set 0 t (128 * pid + m) 0)
      (good.foldl (fun t m => Tab.set 0 t (128 * pid + m) (min 3 (Tab.get 0 t (128 * pid + m) + 1))) c.sp.cnt)
    let mine := c.sp.open_ = some pid
    let sp := { c.sp with
      cnt := cnt, est := if mine then [] else c.sp.est, bound := if mine then [] else c.sp.bound
      open_ := if mine then none else c.sp.open_
      misp := c.sp.misp + bad.length
      rounds := c.sp.rounds.map (fun x =>
        if x.pid = pid then { x with checked := true, makeup := (x.makeup ++ bad).dedup } else x) }
    let t := ((((s.useFree 128).setCore k { c with sp := sp }).addCount .sparse k 0x804 good.length).addCount .sparse k
      0x808 bad.length).addCount .sparse k 0xF01 bad.length
    if bad = [] then t else t.mispredictEvent k

def ArrState.bankOf (a : ArrState) (b : Nat) : Bank := if b = 0 then a.bank0 else a.bank1
def ArrState.setBankOf (a : ArrState) (b : Nat) (v : Bank) : ArrState :=
  if b = 0 then { a with bank0 := v } else { a with bank1 := v }

/-- A drain that has not begun, of a bank that a PID's passes hold: it closes the PID's round (R290). -/
def Core.drainsRound (c : Core) (pid : Nat) (e : ArrEntry) : Bool :=
  match e.act with
  | .drain bank _ _ _ _ => e.waits && ((c.arr.bankOf bank).hold.bind (·.pid)) = some pid
  | _ => false

/-- The cycle in which a queued entry takes effect if it starts now; none while what it waits for is not over, and for a
load, a pass or a drain, which commands start (R215, R216, R218, R285, R287, R288). An arr.unready that no earlier reader
holds up starts in the cycle after its issue: DESIGN CHOICE (log 160). -/
def Core.startAt (c : Core) (l : Launch) (now min : Nat) (before : List ArrEntry) (e : ArrEntry) : Option Nat :=
  let from_ (n : Nat) (ok : Bool) (fin : Nat) : Option Nat := if e.issued + n ≤ now && ok then some fin else none
  match e.act with
  | .ready m => from_ 1 (noChange c l before m) (now + 3)
  | .unready m => from_ 1 (noChange c l before m && noReader c l now before m) (now + 1)
  | .lds slot _ n =>
    from_ 8 (noChange c l before (slotBit slot) && noReader c l now before (slotBit slot) &&
      before.all (·.path ≠ .scale)) (now + ceilDiv n 256 + 3)
  | .filt _ _ => from_ 1 (before.all (·.path ≠ .filter)) now
  | .ldw slot =>
    from_ 8 (tileReady c l before slot true && before.all (fun b => b.path ≠ .load && !b.onEst)) (now + 128)
  | .est pid slot rows add =>
    from_ 1 (tileReady c l before slot true && c.sp.estTile.isSome && (add || c.sp.open_.isNone) &&
      before.all (fun b => !b.onEst && !(b.waits && b.filteredOn pid) && !(c.drainsRound pid b))) (now + 8 * (c.estimated min pid rows add).length)
  | .chk pid =>
    from_ 1 (before.all (fun b => !b.onEst && !(b.path = .drain && b.waits)))
      (now + 8 + (((c.sp.rounds.find? (·.pid = pid)).map (·.pred)).getD []).length)
  | .stat _ _ v => from_ 2 (v.isSome || before.all (·.path ≠ .check)) now
  | .ldsh _ _ _ _ => none
  | .mm _ => none
  | .drain _ _ _ _ _ => none

/-- The first entry that starts now, with the cycle of its effect. -/
def Core.nextStart (c : Core) (l : Launch) (now min : Nat) : List ArrEntry → List ArrEntry → Option (ArrEntry × Nat)
  | _, [] => none
  | before, e :: rest =>
    match (if e.waits then c.startAt l now min before e else none) with
    | some d => some (e, d)
    | none => c.nextStart l now min (before ++ [e]) rest

/-- An entry starts: scale bytes are copied, and sp.est reads its tile (R215, R287). -/
def Core.begin (c : Core) (l : Launch) (now min : Nat) (e : ArrEntry) (fin : Nat) : Core :=
  let d := c.setEntry { e with started := some now, fin := some fin }
  match e.act with
  | .lds slot src n =>
    { d with arr := { d.arr with
      comp := ((c.scrRead src n).zipIdx).foldl (fun t p => Tab.set 0 t (2048 * slot + p.2) p.1) d.arr.comp } }
  | .est pid slot rows add => d.doEst l min pid slot rows add
  | _ => d

/-- A started entry takes effect and leaves (R215, R218, R285). -/
def State.takeEffect (s : State) (k : Nat) (l : Launch) (e : ArrEntry) : State :=
  let c := (s.core k).dropEntry e
  match e.act with
  | .ready m => s.setCore k { c with arr := { c.arr with tr := c.arr.tr ||| m } }
  | .unready m => s.setCore k (c.untile m)
  | .lds slot _ _ => s.setCore k { c with arr := { c.arr with sv := c.arr.sv ||| slotBit slot } }
  | .filt pid mode => s.setCore k { c with sp := { c.sp with filtPid := pid, filt := mode } }
  | .ldw slot => s.setCore k { c with sp := { c.sp with estTile := some (c.tileOf l slot .e2m1) } }
  | .stat d thr v =>
    s.setCore k (c.forThreads thr (fun x q => q.setReg x d (v.getD (BitVec.ofNat 32 (min 0xFFFFFFFF c.sp.misp)))))
  | .chk pid => (s.setCore k c).doChk k pid
  | _ => s.setCore k c

/-- A fault stops the launch, and the bank that the failed sum was bound for is left HELD, its accumulators unreliable
(R223, R281). -/
def State.leaveHeld (s : State) (k bank : Nat) (f : State → State) : State :=
  let b := (s.core k).arr.bankOf bank
  let t := f s
  t.setCore k { t.core k with arr := (t.core k).arr.setBankOf bank b }

/-- The decoder reaches the row of a pass that breaks R276 (R281). -/
def State.cmpFault (s : State) (k : Nat) (e : ArrEntry) : State :=
  match e.act with
  | .mm o => s.leaveHeld k o.bank (fun t => t.coreFault k e.bslot 0 0x3008)
  | _ => s

/-- One thing that happens in the array in this cycle, if something does. -/
def State.arrStep (s : State) (k : Nat) (l : Launch) : Option State :=
  let c := s.core k
  let lim := field (s.cfg .sparse k 0x100) 1 0
  match c.arr.queue.find? (fun e => e.broken && e.started.any (· + e.fed ≤ s.now)) with
  | some e => some (s.cmpFault k e)
  | none =>
    match c.arr.queue.find? (fun e => e.fin.any (· ≤ s.now)) with
    | some e => some (s.takeEffect k l e)
    | none => (c.nextStart l s.now lim [] c.arr.queue).map (fun p => s.setCore k (c.begin l s.now lim p.1 p.2))

def State.arrPump : Nat → State → Nat → Launch → State
  | 0, s, _, _ => s
  | n + 1, s, k, l =>
    match s.arrStep k l with
    | none => s
    | some t => State.arrPump n t k l

/-- Everything that is due in a core's array by this cycle; an entry starts once and takes effect once. -/
def State.arrSettle (s : State) (k : Nat) : State :=
  match s.running k with
  | none => s
  | some (_, l) => (s.setCore k ((s.core k).released l s.now)).arrPump 17 k l

/-- The same for every core. -/
def State.arrTick (s : State) : State :=
  (s.cores.filter (fun p => p.2.arr.queue ≠ [])).foldl (fun t p => t.orGhost p.1 (fun u => u.arrSettle p.1)) s

/-- An entry joins the queue, and reserves slots (R200, R216). -/
def Core.enqueue (c : Core) (bslot now : Nat) (a : ArrAct) (rs : BitVec 14) : Core :=
  { c with arr := { c.arr with
      queue := c.arr.queue ++ [{ id := c.arr.nextId, bslot := bslot, act := a, issued := now }]
      nextId := c.arr.nextId + 1, rs := c.arr.rs ||| rs } }

/-- Issue of an array or sparsity instruction that reads `src` and writes `dst`: ARRAY_OFF, where it is subject to it
(R224), its own checks, a free entry of the queue (R216), then it is queued. `try_` is what a strand that is turned away
keeps of it. -/
def State.arrIssue (s : State) (o : One) (kind : IssueKind) (dst src : List Nat) (off : Bool) (try_ : ArrTry)
    (chk : Issue → Core → ArrChk) : State :=
  let k := o.core.val
  ((s.arrSettle k).issue (oneBundle o) dst src kind (fun u t =>
    let c := t.core k
    if t.inHold (if kind = .sparse then .sparse else .array) k then t
    else if off && bit (t.cfg .array k 0x100) 0 then t.coreFault k u.bslot 0 0x3007
    else
      match chk u c with
      | .fault e => t.coreFault k u.bslot 0 e
      | .wait _ => t.turnAway (oneBundle o) u kind (.array try_)
      | .ok a rs =>
        if 8 ≤ c.arr.queue.length then t.turnAway (oneBundle o) u kind (.array try_)
        else t.bundleDone (oneBundle o) u (if kind = .sparse then onSparse else onArray) 1 0 dst
          (fun d => d.enqueue u.bslot t.now a rs))).arrSettle k

/-- Issue of one whose operands decide its checks (R202). -/
def State.tryIssue (s : State) (o : One) (kind : IssueKind) (off : Bool) (try_ : ArrTry) : State :=
  s.arrIssue o kind [] [] off try_ (fun u c =>
    try_.check c u.l (bit (s.cfg .array o.core.val 0x100) 1) s.now s.govLevel)

/-- Thread whose registers an array instruction reads (R215). -/
def Issue.lead (u : Issue) : Nat := (u.sel.head?.map leadOf).getD 0

/-- A slot mask (R215). -/
def SlotMask.regs : SlotMask → List Nat
  | .imm _ => []
  | .reg r => [r.val]

def maskValue (c : Core) (t : Nat) : SlotMask → BitVec 14
  | .imm m => m
  | .reg r => BitVec.setWidth 14 (c.reg t r.val)

/-- ARR_READY (R215). -/
def execArrReady (o : One) (m : SlotMask) (s : State) : Res :=
  .next (s.arrIssue o .array [] (SlotMask.regs m) true .other (fun u c =>
    let v := maskValue c u.lead m
    if maskOutside u.l v then outside else .ok (.ready v) 0))

/-- ARR_UNREADY (R215). -/
def execArrUnready (o : One) (m : SlotMask) (s : State) : Res :=
  .next (s.arrIssue o .array [] (SlotMask.regs m) true .other (fun u c =>
    let v := maskValue c u.lead m
    if maskOutside u.l v then outside else .ok (.unready v) 0))

/-- ARR_LDS (R199, R215, R217). BYTES 0, which is below the range of R215, is refused, and an instruction that is both
illegal and out of range is illegal: DESIGN CHOICE (log 160). -/
def execArrLds (o : One) (slot : Fin 16) (src : VReg) (bytes : Nat) (s : State) : Res :=
  .next (s.arrIssue o .array [] [src.val] true .other (fun u c =>
    let a := (c.reg u.lead src.val).toNat
    if bytes % 64 ≠ 0 || 2048 < bytes || bytes = 0 then illegal
    else if u.l.slots ≤ slot.val || a % 64 ≠ 0 || 1024 * u.l.sliceKib < a + bytes then outside
    else .ok (.lds slot.val (1024 * u.l.sliceKib * u.bslot + a) bytes) 0))

/-- ARR_LDSH (R204). -/
def execArrLdsh (o : One) (slot : Fin 16) (fmt : BitVec 4) (col rel : Bool) (s : State) : Res :=
  .next (s.tryIssue o .array true (.ldsh slot.val fmt.toNat col rel))

/-- Count an arr.mm issue for the governor, where it was queued. -/
def State.noteMm (s : State) (k before : Nat) : State :=
  let c := s.core k
  if before < c.arr.nextId then
    s.setCore k { c with
      mmSpan := s.now / 16 + 1, mmCount := if c.mmSpan = s.now / 16 + 1 then c.mmCount + 1 else 1 }
  else s

/-- ARR_MM (R215 to R217). -/
def execArrMm (o : One) (f : MmForm) (s : State) : Res :=
  .next ((s.tryIssue o .array true (.mm f)).noteMm o.core.val (s.core o.core.val).arr.nextId)

/-- ARR_DRAIN (R214, R215). -/
def execArrDrain (o : One) (bank : Fin 2) (dst : Fin 16) (ofmt : BitVec 4) (mode : DrainMode) (s : State) : Res :=
  .next (s.tryIssue o .array true (.drain bank.val dst.val ofmt.toNat mode))

/-- ARR_STAT (R224, R229): it works while ARRAY_OFF is set. -/
def execArrStat (o : One) (d : VReg) (s : State) : Res :=
  .next (s.arrIssue o .array [d.val] [] false .other (fun u _ =>
    .ok (.stat d.val u.threads (some (place u.l.slots 2 ||| (s.cfg .array o.core.val 0x100 &&& 3)))) 0))

/-- SP_FILT (R285, R286). -/
def execSpFilt (o : One) (pid : BitVec 8) (mode : BitVec 2) (s : State) : Res :=
  .next (s.arrIssue o .sparse [] [] false .other (fun _ _ =>
    if 63 < pid.toNat || mode = 3 then illegal
    else .ok (.filt pid.toNat (if mode = 0 then .none else if mode = 1 then .pred else .makeup)) 0))

/-- SP_LDW (R285). -/
def execSpLdw (o : One) (slot : Fin 16) (s : State) : Res :=
  .next (s.tryIssue o .sparse false (.ldw slot.val))

/-- SP_EST (R285 to R287). -/
def execSpEst (o : One) (pid : BitVec 8) (slot : Fin 16) (rows : Nat) (add : Bool) (s : State) : Res :=
  .next (s.tryIssue o .sparse false (.est pid.toNat slot.val rows add))

/-- SP_CHK (R286, R288): due on a PID with an open round. -/
def execSpChk (o : One) (pid : BitVec 8) (s : State) : Res :=
  .next (s.arrIssue o .sparse [] [] false .other (fun u c =>
    if 63 < pid.toNat || !((c.proj u.l).rounds.any (·.pid = pid.toNat)) then illegal else .ok (.chk pid.toNat) 0))

/-- SP_STAT (R285). -/
def execSpStat (o : One) (d : VReg) (s : State) : Res :=
  .next (s.arrIssue o .sparse [d.val] [] false .other (fun u _ => .ok (.stat d.val u.threads none) 0))

/-- A failed check of the array (R222, R223): latched and raised, the failing path is switched off, the context stops,
and the bank that a failed sum of a pass was bound for is left HELD. Path 0 names no failure. -/
def State.arrayFault (s : State) (k : Nat) (e : ArrEntry) (f : ArrFault) : State :=
  if f.path = 0 then s
  else
    let t := s.latchLast .array k 0x804 23 (place f.path.val 21 ||| place f.row.val 14 ||| place f.col.val 7)
    let u := t.setCfg .array k 0x100 (t.cfg .array k 0x100 ||| flag true (if f.path = 2 then 1 else 0))
    let stop (v : State) : State := (v.raise .array k 0x3005).coreFault k e.bslot 0 0x3005
    match e.act with
    | .mm o => u.leaveHeld k o.bank stop
    | _ => stop u

def State.arrayBad (s : State) (k : Nat) (e : ArrEntry) (bad : Option ArrFault) : State :=
  match bad with
  | none => s
  | some f => s.arrayFault k e f

/-- Entries in front of the first one that satisfies a test, and that one. -/
def splitAt (f : ArrEntry → Bool) : List ArrEntry → Option (List ArrEntry × ArrEntry)
  | [] => none
  | e :: rest => if f e then some ([], e) else (splitAt f rest).map (fun p => (e :: p.1, p.2))

def ArrEntry.mm? (e : ArrEntry) : Option MmOp :=
  match e.act with
  | .mm o => some o
  | _ => none

def ArrEntry.drainBank? (e : ArrEntry) : Option Nat :=
  match e.act with
  | .drain b _ _ _ _ => some b
  | _ => none

/-- The load of an entry may begin now (R204, R285): its tile is ready, no load in front is unfinished, and every swap in
front has begun, by 127 cycles where the orders differ. -/
def ldshDue (now : Nat) (c : Core) (l : Launch) (before : List ArrEntry) (e : ArrEntry) (slot : Nat) (f : Fmt) (col : Bool) :
    Bool :=
  e.issued + 8 ≤ now && tileReady c l before slot (scaled f) &&
    before.all (fun b => b.path ≠ .load && b.path ≠ .tile &&
      (match b.mm? with
        | some o => !o.sw || (match b.started with | some t => (if o.col = col then t else t + 127) ≤ now | none => false)
        | none => true))

/-- ARR_LDSH_START (R204). -/
def execArrLdshStart (core : CoreId) (s : State) : Res :=
  let k := core.val
  let c := s.core k
  .next (match s.running k, splitAt (fun e => e.path = .load && e.waits) c.arr.queue with
    | some (_, l), some (before, e) =>
      (match e.act with
        | .ldsh slot f col _ =>
          if ldshDue s.now c l before e slot f col then
            let d := c.setEntry { e with started := some s.now }
            s.setCore k { d with arr := { d.arr with shadow := some (c.tileOf l slot f), loading := true } }
          else s
        | _ => s)
    | _, _ => s)

/-- ARR_LDSH_COMPLETE (R204, R218, R222). -/
def execArrLdshComplete (core : CoreId) (bad : Option ArrFault) (s0 : State) : Res :=
  let k := core.val
  .next (s0.orGhost k (fun s =>
    let c := s.core k
    match c.arr.queue.find? (fun e => e.path = .load && e.started.any (· + 128 ≤ s.now)) with
    | none => s
    | some e =>
      match e.act with
      | .ldsh slot _ _ rel =>
        let d := (if rel then c.untile (slotBit slot) else c).dropEntry e
        ((s.setCore k { d with arr := { d.arr with loading := false } }).arrayBad k e bad).arrSettle k
      | _ => s))

/-- V0 of a compressed tile with W blocks a row (R275). -/
def cmpV0 (w : Nat) : Nat := 0x120 + 512 * w

/-- Word b of row m of a compressed tile's bitmap. -/
def cmpWord (t : List Byte) (w m b : Nat) : Nat := leAt t (0x120 + 4 * (w * m + b)) 4

/-- Present elements of a row, in order. -/
def cmpPresent (t : List Byte) (w m : Nat) : List Nat :=
  (List.range (32 * w)).filter (fun i => (cmpWord t w m (i / 32)).testBit (i % 32))

def cmpRowBit (t : List Byte) (m : Nat) : Bool := (leAt t (m / 8) 1).testBit (m % 8)

/-- Bytes of n packed codes. -/
def packedBytes (f : Fmt) (n : Nat) : Nat := if f.width = 6 then ceilDiv n 4 * 3 else ceilDiv (n * f.width) 8

/-- Row m of a compressed tile keeps R276: its map bit, its offset, and its end before the next present row. -/
def cmpRowOk (f : Fmt) (t : List Byte) (w rows m : Nat) : Bool :=
  let here := cmpPresent t w m
  let off := leAt t (0x020 + 2 * m) 2
  let fin := off + packedBytes f here.length
  let next := (upFrom (m + 1) (rows - m - 1)).find? (cmpRowBit t)
  cmpRowBit t m = (here ≠ []) &&
    (here = [] || (off % 4 = 0 && cmpV0 w ≤ off &&
      (match next with
        | some n => fin ≤ leAt t (0x020 + 2 * n) 2
        | none => fin ≤ cmpV0 w + leAt t 0x10 2)))

/-- The header keeps R276. -/
def cmpHdrOk (t : List Byte) (w : Nat) : Bool :=
  leAt t 0x12 2 / 2 = 0 && zerosAt t 0x14 12 && (leAt t 0x12 1 % 2 = 1) = (32768 < cmpV0 w + leAt t 0x10 2)

/-- Code of element i of row m, 0 where it is absent (R274). -/
def cmpCode (f : Fmt) (t : List Byte) (w m i : Nat) : Nat :=
  if (cmpWord t w m (i / 32)).testBit (i % 32) then
    elemAt f (t.drop (leAt t (0x020 + 2 * m) 2)) ((cmpPresent t w m).idxOf i)
  else 0

/-- A row of a compressed tile as a stream row (R279). -/
def cmpStreamRow (f : Fmt) (w : Nat) (t scales : List Byte) (m : Nat) : List Num :=
  (List.range (32 * w)).map (fun i =>
    let c := cmpCode f t w m i
    if scaled f then elementValue f c (leAt scales (w * m + i / 32) 1) else Num.ofCode f c)

/-- Rows that the filter of a pass admits (R289). -/
def admits (c : Core) (o : MmOp) (m : Nat) : Bool :=
  let round := c.sp.rounds.find? (·.pid = o.pid)
  match o.filt with
  | .none => true
  | .pred => (match round with | some r => !(r.pred.contains m) | none => true)
  | .makeup => (match round with | some r => r.makeup.contains m | none => false)

/-- The rows that a pass feeds, with their elements (R280, R289). -/
def passRows (c : Core) (l : Launch) (o : MmOp) (set : TileSet) : List (Nat × List Num) :=
  let scales := c.companion o.slot
  if !o.sparse then
    let tile := c.slotBytes l o.slot (tileBytes o.fmt)
    (List.range o.rows).map (fun m => (m, streamRow o.fmt o.col tile scales m))
  else
    let w := rowLen o.fmt o.col / 32
    let tile := c.slotBytes l o.slot 65536
    (List.range o.rows).filterMap (fun m =>
      if !(admits c o m) then none
      else if cmpRowBit tile m then some (m, cmpStreamRow o.fmt w tile scales m)
      else if set.nonfin then some (m, List.replicate (32 * w) (.fin false 0 0))
      else none)

/-- Absent rows that a SPARSE pass does not feed (R305). -/
def skippedRows (c : Core) (l : Launch) (o : MmOp) (fed : List Nat) : Nat :=
  if o.sparse then
    let tile := c.slotBytes l o.slot 16
    ((List.range o.rows).filter (fun m => !(cmpRowBit tile m) && !(fed.contains m))).length
  else 0

/-- The row of a SPARSE pass at which the decoder finds its tile to break R276; the header is read with row 0. -/
def brokenRow (c : Core) (l : Launch) (o : MmOp) : Option Nat :=
  if !o.sparse then none
  else
    let w := rowLen o.fmt o.col / 32
    let tile := c.slotBytes l o.slot 65536
    if cmpHdrOk tile w then (List.range o.rows).find? (fun m => !(cmpRowOk o.fmt tile w o.rows m)) else some 0

/-- A pass may start now (R205, R208, R213, R218, R281, R289): its tile is ready, and what its filter needs is settled. -/
def passDue (now : Nat) (c : Core) (l : Launch) (before : List ArrEntry) (e : ArrEntry) (o : MmOp) : Bool :=
  e.issued + (if o.sparse then 12 else 8) ≤ now && tileReady c l before o.slot (scaled o.fmt) &&
    (!(o.sparse && c.twoSlots l o.slot) || tileReady c l before (o.slot + 1) false) &&
    before.all (fun b => !(o.sw && b.path = .load) &&
      !(o.sparse && o.filt ≠ .none && (b.path = .check || (b.path = .estimate && b.waits))) &&
      (match b.mm?, b.started with
        | some p, some t => t + b.fed + (if p.col = o.col then 0 else 127) ≤ now
        | some _, none => false
        | none, _ => true) &&
      (match b.drainBank?, b.started with
        | some d, some t => d ≠ o.bank || t + 128 ≤ now + 131
        | some d, none => d ≠ o.bank
        | none, _ => true))

/-- The bank a pass works on: INIT sets every accumulator first (R213). -/
def startBank (c : Core) (o : MmOp) : Bank :=
  let b := c.arr.bankOf o.bank
  let h := holdAfter b.hold o
  if o.add then { b with hold := some h }
  else { hold := some h, init := initValue o.op.toNat h.int, acc := [] }

/-- The sets after the swap of a pass (R205). -/
def swapped (a : ArrState) (o : MmOp) : ArrState := if o.sw then { a with active := a.shadow, shadow := a.active } else a

/-- A pass runs (R205 to R213, R279, R281, R289, R305): its accumulators, its counts, and Rattle's sample. A broken tile
feeds the rows in front of the break. -/
def State.runPass (s : State) (k : Nat) (w : Work) (l : Launch) (e : ArrEntry) (o : MmOp) : State :=
  let c := s.core k
  let a := swapped c.arr o
  match a.active with
  | none => s
  | some set =>
    let stop := brokenRow c l o
    let rows := (passRows c l o set).filter (fun r => stop.all (r.1 < ·))
    let (b, sats) := rows.foldl (fun q r =>
      let (b, n) := q.1.feed o.op.toNat o.pred.toNat (o.fmt.isInt) o.col set r.1 r.2
      (b, q.2 ++ [n])) (startBank c o, [])
    let fed := rows.map (·.1)
    let h := b.hold.map (fun h =>
      if o.sparse && o.filt = .pred then { h with predRows := (h.predRows ++ fed).dedup } else h)
    let d : Core := { c with arr := a.setBankOf o.bank { b with hold := h } }
    let f := d.setEntry { e with started := some s.now, fed := fed.length, sats := sats, broken := stop.isSome }
    let t := (s.setCore k f).addCount .array k 0xF02 (if o.sw then 1 else 0)
    (t.addCount .sparse k 0x800 (skippedRows c l o fed)).rattlePass k w o set rows

/-- ARR_PASS_START (R205, R213, R222, R281). -/
def execArrPassStart (core : CoreId) (bad : Option ArrFault) (s0 : State) : Res :=
  let k := core.val
  .next (s0.orGhost k (fun s =>
    let c := s.core k
    match s.running k, splitAt (fun e => e.path = .feed && e.waits) c.arr.queue with
    | some (w, l), some (before, e) =>
      (match e.mm? with
        | some o => if passDue s.now c l before e o then ((s.runPass k w l e o).arrayBad k e bad).arrSettle k else s
        | none => s)
    | _, _ => s))

/-- ARR_PASS_COMPLETE (R206, R207, R218, R222): the cycle of the last bank write is over. -/
def execArrPassComplete (core : CoreId) (bad : Option ArrFault) (s0 : State) : Res :=
  let k := core.val
  .next (s0.orGhost k (fun s =>
    let c := s.core k
    match s.running k,
      c.arr.queue.find? (fun e => e.path = .feed && !e.broken && e.started.any (· + e.fed + 131 ≤ s.now)) with
    | some (_, l), some e =>
      (match e.mm? with
        | some o =>
          (((s.notePass k e).setCore k ((if o.rel then c.untile (c.passSlots l o) else c).dropEntry e)).arrayBad k e
            bad).arrSettle k
        | none => s)
    | _, _ => s))

/-- A drain may start now (R214, R216, R290): earlier passes on its bank and earlier drains are over, its destination is
free, and earlier checks are done. -/
def drainDue (now : Nat) (c : Core) (l : Launch) (before : List ArrEntry) (bank : Nat) (m : BitVec 14) : Bool :=
  noReader c l now before m && noChange c l before m &&
  before.all (fun b => b.path ≠ .check && !(b.path = .estimate && b.waits) &&
    (match b.mm? with | some o => o.bank ≠ bank | none => true) &&
    (match b.drainBank?, b.started with
      | some _, some t => t + 128 ≤ now
      | some _, none => false
      | none, _ => true))

/-- The guard of R290. -/
def makeupPending (p : SpState) (h : BankHold) : Bool :=
  match h.pid.bind (fun q => p.rounds.find? (·.pid = q)) with
  | none => false
  | some r => (r.pred ≠ [] && !r.checked) || (r.makeup ≠ [] && h.makeupPasses ≠ h.predPasses)

/-- Every output of a row is at or below zero and none is NaN (R290). -/
def Bank.rowInactive (b : Bank) (int : Bool) (m : Nat) : Bool :=
  (List.range 128).all (fun j =>
    let v := b.at (128 * m + j)
    if int then v.toInt ≤ 0 else (Num.ofF32 v).isZero || (Num.ofF32 v).lt (.fin false 0 0))

/-- The round of a drained bank closes (R290). -/
def SpState.closeRound (p : SpState) (pid : Option Nat) : SpState :=
  match pid with
  | none => p
  | some q => { p with rounds := p.rounds.filter (·.pid ≠ q), open_ := if p.open_ = some q then none else p.open_ }

/-- Counters of the rows that PRED passes fed (R290). -/
def SpState.learn (p : SpState) (b : Bank) (h : BankHold) : SpState :=
  match h.pid with
  | none => p
  | some q => { p with cnt := h.predRows.foldl (fun t m =>
      Tab.set 0 t (128 * q + m) (if b.rowInactive h.int m then min 3 (Tab.get 0 t (128 * q + m) + 1) else 0)) p.cnt }

/-- A drain begins (R214, R290). -/
def State.runDrain (s : State) (k : Nat) (e : ArrEntry) (bank : Nat) (ofmt : Fmt) (int32 : Bool) (mode : Nat) : State :=
  let c := s.core k
  let b := c.arr.bankOf bank
  match b.hold with
  | none => s.setCore k (c.dropEntry e)
  | some h =>
    if mode = 2 then
      let d := c.dropEntry e
      s.setCore k { d with arr := d.arr.setBankOf bank {}, sp := d.sp.closeRound h.pid }
    else if makeupPending c.sp h then s.coreFault k e.bslot 0 0x3009
    else
      let d := c.setEntry { e with started := some s.now, vals := b.drained ofmt int32 }
      let nb : Bank := if mode = 0 then {} else b
      s.setCore k { d with arr := d.arr.setBankOf bank nb, sp := (d.sp.learn b h).closeRound h.pid }

/-- ARR_DRAIN_START (R214). -/
def execArrDrainStart (core : CoreId) (s0 : State) : Res :=
  let k := core.val
  .next (s0.orGhost k (fun s =>
    let c := s.core k
    match s.running k, splitAt (fun e => e.path = .drain && e.waits) c.arr.queue with
    | some (_, l), some (before, e) =>
      (match e.act with
        | .drain bank _ ofmt int32 mode =>
          if drainDue s.now c l before bank (e.alters c l) then (s.runDrain k e bank ofmt int32 mode).arrSettle k else s
        | _ => s)
    | _, _ => s))

/-- ARR_DRAIN_COMPLETE (R214). -/
def execArrDrainComplete (core : CoreId) (s : State) : Res :=
  let k := core.val
  let c := s.core k
  .next (match s.running k, c.arr.queue.find? (fun e => e.path = .drain && e.started.any (· + 136 ≤ s.now)) with
    | some (_, l), some e =>
      (match e.act with
        | .drain _ dst ofmt int32 _ =>
          let m := drainSlots dst ofmt int32
          let d := ((c.released l s.now).scrWrite (l.regionBase + 32768 * dst) e.vals).dropEntry e
          (s.setCore k { d with arr := { d.arr with tr := d.arr.tr ||| m, rs := d.arr.rs &&& ~~~m } }).arrSettle k
        | _ => s)
    | _, _ => s)

/-- Rows that passes under way have fed so far are counted with those of passes that are over (R228). -/
def State.feedCycles (s : State) (k : Nat) : Nat :=
  s.counter .array k 0xF01 + ((s.core k).arr.queue.map (·.rowsIn s.now)).sum

/-- FEED_CYCLES (ARRAY mailbox item 1). -/
def execFeedCycles (r : MbxReq) (s : State) : Res :=
  .next (s.mbxGet r .array 1 2 State.feedCycles)

/-- SWAPS (ARRAY mailbox item 2). -/
def execSwaps (r : MbxReq) (s : State) : Res :=
  .next (s.mbxGet r .array 2 2 (fun t k => t.counter .array k 0xF02))

end Sys2Proof.Machine
end

