-- ==== Sys2Proof/Machine/Sparse.lean ====
section
/-! DEFINITION. Compressed blocks on the vector units (R283), segments and stealing (R294 to R296), and the marble runs
(R297 to R303). -/

namespace Sys2Proof.Machine

/-- A part of a read, within a page: its device address and length, none where its walk failed, and its virtual address. -/
structure SrcPart where
  addr : Nat
  len : Nat
  va : Nat
  deriving DecidableEq, Repr

/-- What a memory instruction finds where it reads: bytes with the parts of device memory they lie in, a fault with the
parts read so far, or a wait. -/
inductive SrcRes (α : Type) where
  | ok (v : α) (ps : List SrcPart)
  | fault (code : BitVec 16) (ps : List SrcPart)
  | wait (why : HeldBy)
  deriving DecidableEq, Repr

def SrcRes.andThen {α β : Type} (r : SrcRes α) (f : α → SrcRes β) : SrcRes β :=
  match r with
  | .wait h => .wait h
  | .fault e ps => .fault e ps
  | .ok v ps =>
    match f v with
    | .wait h => .wait h
    | .fault e qs => .fault e (ps ++ qs)
    | .ok w qs => .ok w (ps ++ qs)

/-- Read scratch bytes of an issuing instruction (R164, R194, R201). -/
def Core.scrSrc (c : Core) (u : Issue) (region : Bool) (a n : Nat) : SrcRes (List Byte) :=
  match u.l.scrAddr u.bslot region a, u.l.scrAddr u.bslot region (a + n - 1) with
  | some p, some _ =>
    let slots := upFrom (a / 32768) ((a + n - 1) / 32768 + 1 - a / 32768)
    if region && slots.any (c.arr.rs.getLsbD ·) then .wait (.region (slots.foldl (fun m i => m ||| slotBit i) 0))
    else .ok (c.scrRead p n) []
  | some _, none => .fault 0x3003 []
  | none, _ => .fault 0x3003 []

/-- Read device bytes of an issuing instruction coherently, behind the core's own accesses to their lines (R335). -/
def State.devSrc (s : State) (k : Nat) (u : Issue) (a n : Nat) : SrcRes (List Byte) :=
  let pages := upFrom (a / 4096) ((a + n - 1) / 4096 + 1 - a / 4096)
  match s.xlateRange u.ctx a n .read .core with
  | .error e => .fault e (pages.map (fun pg => { addr := 0, len := 0, va := 4096 * pg }))
  | .ok ps =>
    let qs := (ps.zip pages).map (fun x => ({ addr := x.1.2.1, len := x.1.2.2, va := 4096 * x.2 } : SrcPart))
    match qs.findSome? (fun p => s.bulkFault p.addr p.len) with
    | some e => .fault e qs
    | none =>
      if qs.any (fun p => !(s.rangeQuiet p.addr p.len) ||
          (linesOf p.addr p.len).any (fun l => (s.core k).ops.any (fun o => o.waitsOn l))) then .wait .taken
      else .ok (qs.flatMap (fun p => s.cohRead p.addr p.len)) qs

def State.srcRead (s : State) (k : Nat) (u : Issue) (sp : MemSpace) (a n : Nat) : SrcRes (List Byte) :=
  if n = 0 then .ok [] []
  else
    match sp with
    | .scratch => (s.core k).scrSrc u false a n
    | .region => (s.core k).scrSrc u true a n
    | .device => s.devSrc k u a n

/-- What the parts of a compressed tile that concern one row say: its map bit, VBYTES with HDR's upper half, its offset,
and its bitmap words. -/
structure CmpRow where
  map : Bool
  vbytes : Nat
  hdrHi : Nat
  off : Nat
  words : List Nat
  deriving DecidableEq, Repr

/-- Present elements of the row, in order. -/
def CmpRow.present (r : CmpRow) : List Nat :=
  (List.range (32 * r.words.length)).filter (fun i => (r.words.getD (i / 32) 0).testBit (i % 32))

/-- Bytes of the row's packed codes. -/
def CmpRow.size (r : CmpRow) (f : Fmt) : Nat := packedBytes f r.present.length

/-- The bytes read keep R276. -/
def CmpRow.ok (r : CmpRow) (f : Fmt) (w : Nat) : Bool :=
  r.hdrHi / 2 = 0 && (r.hdrHi % 2 = 1) = (32768 < cmpV0 w + r.vbytes) && r.map = (r.present ≠ []) &&
    (!r.map || (r.off % 4 = 0 && cmpV0 w ≤ r.off && r.off + r.size f ≤ cmpV0 w + r.vbytes))

/-- Code and register vI of each lane (R283): EXP by element, NZ by rank among the block's present elements. -/
def CmpRow.lanes (r : CmpRow) (f : Fmt) (nz : Bool) (blk : Nat) (vals : List Byte) : List (Word × Word) :=
  let all := r.present
  let mine := all.filter (fun i => i / 32 = blk)
  let code (i : Nat) : Word := BitVec.ofNat 32 (elemAt f vals (all.idxOf i))
  (List.range 32).map (fun l =>
    if nz then
      match mine[l]? with
      | some i => (code i, BitVec.ofNat 32 (i % 32))
      | none => (0, BitVec.allOnes 32)
    else if mine.contains (32 * blk + l) then (code (32 * blk + l), 1)
    else (0, 0))

/-- Read one block of one row of the compressed tile at `base` (R275, R283). -/
def State.cmpBlock (s : State) (k : Nat) (u : Issue) (sp : MemSpace) (nz : Bool) (f : Fmt) (base row blk : Nat) :
    SrcRes (List (Word × Word)) :=
  let w := rowLen f false / 32
  (s.srcRead k u sp (base + row / 8) 1).andThen fun m =>
  (s.srcRead k u sp (base + 0x10) 4).andThen fun h =>
  (s.srcRead k u sp (base + 0x20 + 2 * row) 2).andThen fun o =>
  (s.srcRead k u sp (base + 0x120 + 4 * w * row) (4 * w)).andThen fun b =>
    let r : CmpRow := {
      map := (leAt m 0 1).testBit (row % 8), vbytes := leAt h 0 2, hdrHi := leAt h 2 2, off := leAt o 0 2
      words := (List.range w).map (fun i => leAt b (4 * i) 4) }
    if !(r.ok f w) then .fault 0x3008 []
    else (s.srcRead k u sp (base + r.off) (r.size f)).andThen fun v => .ok (r.lanes f nz blk v) []

/-- The values ld.cmp returns to the threads of one strand. -/
def cmpVals (p : Group × Strand) (d i : Nat) (ls : List (Word × Word)) : List (Nat × Nat × Word) :=
  (lanesOf p.2.mask).flatMap (fun l =>
    [(d, thrOf p.1.gs l, (ls.getD l (0, 0)).1), (i, thrOf p.1.gs l, (ls.getD l (0, 0)).2)])

/-- Free values for 32 lanes, where row or block lies outside the tile (log 26). -/
def State.freeLanes (s : State) : List (Word × Word) :=
  (List.range 32).map (fun l => (Config.freeWord (s.free + 2 * l), Config.freeWord (s.free + 2 * l + 1)))

/-- One strand of ld.cmp. -/
def State.cmpStrand (s : State) (k : Nat) (u : Issue) (sp : MemSpace) (nz : Bool) (f : Fmt) (d i t row blk : Nat)
    (p : Group × Strand) : SrcRes (List (Nat × Nat × Word)) :=
  let c := s.core k
  let th := leadOf p
  let base := match sp with
    | .scratch => (c.reg th t).toNat
    | .region => (c.reg th t).toNat
    | .device => (c.reg64 th t) % 2 ^ 48
  let m := (c.reg th row).toNat
  let b := (c.reg th blk).toNat
  if 128 ≤ m || rowLen f false / 32 ≤ b then .ok (cmpVals p d i s.freeLanes) []
  else (s.cmpBlock k u sp nz f base m b).andThen fun ls => .ok (cmpVals p d i ls) []

/-- The strands of a bundle one after the other. -/
def eachStrand {α : Type} (f : Group × Strand → SrcRes (List α)) : List (Group × Strand) → SrcRes (List α)
  | [] => .ok [] []
  | p :: ps => (f p).andThen fun a => (eachStrand f ps).andThen fun b => .ok (a ++ b) []

/-- The walks of the parts of a read, up to the first that fails. -/
def State.walkParts (s : State) (u : Issue) (ps : List SrcPart) : State := s.walkAll u.ctx (ps.map (fun p => (0, p.va)))

/-- A memory instruction goes on with what it has read, through the home slices (R318): it faults, or waits, also while a
slice or a stack cannot take the reads yet. -/
def State.whenRead {α : Type} (s : State) (b : Bundle) (u : Issue) (r : SrcRes α) (f : α → State → State) : State :=
  match r with
  | .wait h => s.turnAway b u .memory h
  | .fault e ps =>
    (ps.foldl (fun t p => t.noteFault p.addr p.len e) (s.walkParts u ps)).coreFault b.core.val u.bslot 0 e
  | .ok v ps =>
    match s.agentReads true (ps.map (fun p => (p.addr, p.len))) with
    | none => s.turnAway b u .memory .taken
    | some t => (f v (t.holdAll u.ctx (ps.map (fun p => (0, p.va))))).lsuDone b u
        (bankCycles 8 (ps.flatMap (fun p => linesOf p.addr p.len)))

/-- Values on their way to the registers `dst` of an instruction. -/
def State.results (s : State) (b : Bundle) (u : Issue) (dst : List Nat) (vals : List (Nat × Nat × Word)) : State :=
  let t := s.claim b u dst
  t.setCore b.core.val ((t.core b.core.val).pushOps u.bslot [(u.threads, .result vals)])

/-- LD_CMP (R283). FP32 is no format of the array, so a bundle that names it is refused as ILLEGAL_INSTR. -/
def execLdCmp (b : Bundle) (sp : MemSpace) (nz : Bool) (f : Fmt) (d i t row blk : VReg) (s : State) : Res :=
  let src := [t.val, row.val, blk.val] ++ (if sp = .device then [t.val + 1] else [])
  .next (s.issue b [d.val, i.val] src .memory (fun u q =>
    if f = .fp32 then q.coreFault b.core.val u.bslot 0 0x3002
    else (q.whenRead b u (eachStrand (q.cmpStrand b.core.val u sp nz f d.val i.val t.val row.val blk.val) u.sel)
      (fun vals x => x.results b u [d.val, i.val] vals)).useFree 64))

/-- Entries of a core's thread puts: the translated address and the value (R298). -/
def entryOf (w : Work) (t : DType) (a : Nat) (v : Word) : MEntry :=
  { job := w.id, part := w.part, addr := a, t := t, v := if t = .bf16 then v &&& 0xFFFF else v }

/-- Entries a window holds (R300). -/
def windowSize : Nat := 65536

/-- The run can take n more entries: the filling window may fill up while one closed window is emitted (R300). -/
def Marble.canTake (m : Marble) (n : Nat) : Bool :=
  m.closed.length ≤ 1 && (m.closed = [] || m.fill.length + n ≤ windowSize)

/-- One entry enters a run (R300): the window closes when it is full. -/
def Marble.take (m : Marble) (e : MEntry) (now : Nat) : Marble :=
  let fill := m.fill ++ [e]
  let first := if m.fill = [] then now else m.first
  if windowSize ≤ fill.length then { m with fill := [], first := first, closed := m.closed ++ [(now, fill)] }
  else { m with fill := fill, first := first }

/-- Weight of a partition in a run (R302, R306). -/
def State.marbleWeight (s : State) (d p : Nat) : Nat :=
  field (s.cfg .marble d (0x100 + 4 * (p / 8))) (4 * (p % 8) + 3) (4 * (p % 8))

/-- The span of 64 MCLK cycles, 3/128 of them a cycle of ACLK; in a new one no slot is used yet (R302). -/
def Marble.turn (m : Marble) (now : Nat) : Marble :=
  if m.span = 3 * now / 128 then m else { m with span := 3 * now / 128, used := [], sent := [] }

/-- The first cycle of the span after the one in progress. -/
def nextSpan (now : Nat) : Nat := ceilDiv (128 * (3 * now / 128 + 1)) 3

/-- Partitions whose entries have waited in this span or the one before. -/
def Marble.waiting (m : Marble) : List Nat := (m.waits.filter (fun x => m.span ≤ x.2)).map (·.1)

/-- Slots of a span that a partition may still have: what is left of the `total` once the other partitions with entries
waiting can have their shares, by weight (R302). -/
def slotsLeft (total : Nat) (weight : Nat → Nat) (used : Tab Nat) (waiting : List Nat) (p : Nat) : Nat :=
  let ps := (p :: waiting).dedup
  let sum := (ps.map weight).sum
  let owed := ((ps.filter (· ≠ p)).map (fun q => total * weight q / max 1 sum - Tab.get 0 used q)).sum
  total - (used.map (·.2)).sum - owed

/-- Input slots that a partition may still have: the run accepts 32 entries in an MCLK cycle (R300, R302). -/
def State.inputLeft (s : State) (d p : Nat) (m : Marble) : Nat := slotsLeft 2048 (s.marbleWeight d) m.used m.waiting p

/-- Entries that wait keep the slots they get until they have one for each (R302). -/
def Marble.hold (m : Marble) (p left : Nat) : Marble :=
  { m with
    used := Tab.set 0 m.used p (Tab.get 0 m.used p + left), taken := Tab.set 0 m.taken p (Tab.get 0 m.taken p + left)
    waits := Tab.set 0 m.waits p (m.span + 1) }

/-- Entries that are accepted use the slots they still lack. -/
def Marble.spend (m : Marble) (p n : Nat) : Marble :=
  { m with
    used := Tab.set 0 m.used p (Tab.get 0 m.used p + (n - Tab.get 0 m.taken p)), taken := Tab.set 0 m.taken p 0
    waits := Tab.set 0 m.waits p 0 }

def dieOf (e : MEntry) : Nat := homeDie (e.addr / 128)

/-- Put entries of one job, each to the run of the die that homes its line (R297, R302); whether the runs accept them. -/
def State.putEntries (s : State) (p : Nat) (es : List MEntry) : State × Bool :=
  let n (d : Nat) : Nat := (es.filter (fun e => dieOf e = d)).length
  let ds := (List.range 4).filter (fun d => n d ≠ 0)
  let t := ds.foldl (fun t d => t.setMarble d ((t.marble d).turn t.now)) s
  let short (d : Nat) : Bool := t.inputLeft d p (t.marble d) + Tab.get 0 (t.marble d).taken p < n d
  if ds.all (fun d => (t.marble d).canTake (n d) && !(short d)) then
    let v := ds.foldl (fun v d => v.setMarble d ((v.marble d).spend p (n d))) t
    (es.foldl (fun v e =>
      (v.setMarble (dieOf e) ((v.marble (dieOf e)).take e v.now)).addCount .marble (dieOf e) 0xF01 1) v, true)
  else
    (ds.foldl (fun v d =>
      v.setMarble d ((v.marble d).hold p (if short d then t.inputLeft d p (t.marble d) else 0))) t, false)

/-- Addresses of mr.put: base of the strand's lowest lane plus index times the element size (R298). -/
def Core.putAddrs (c : Core) (u : Issue) (t : DType) (base i : Nat) : List (Nat × Nat) :=
  u.sel.flatMap (fun p => (strandThreads p).map (fun x =>
    (x, (c.reg64 (leadOf p) base + (c.reg x i).toNat * DType.bytes t) % 2 ^ 48 / DType.bytes t * DType.bytes t)))

/-- MR_PUT (R298, R303). -/
def execMrPut (b : Bundle) (t : DType) (base i v : VReg) (s : State) : Res :=
  .next (s.issue b [] [base.val, base.val + 1, i.val, v.val] .memory (fun u q =>
    let k := b.core.val
    let c := q.core k
    let as := c.putAddrs u t base.val i.val
    match q.xlateAll u.ctx .write as with
    | .error e => (q.walkAll u.ctx as).coreFault k u.bslot 0 e
    | .ok ps =>
      let es := ps.map (fun p => entryOf u.work t p.2.1 (c.reg p.1 v.val))
      match (q.holdAll u.ctx as).putEntries u.work.part es with
      | (r, false) => r.turnAway b u .memory (.cause 7 (nextSpan r.now))
      | (r, true) =>
        (r.setWork { u.work with job := .launch { u.l with puts := true } }).lsuDone b u
          (bankCycles 8 (es.map (·.addr / 128)))))

/-- A lane of a launch changes. -/
def State.setLane (s : State) (u : Issue) (n : Nat) (x : SegLane) : State :=
  s.setWork { u.work with job := .launch { u.l with lanes := Tab.set none u.l.lanes n (some x) } }

/-- SP_SEGSET (R295, R296): lane L takes rows floor(L R / C) up to floor((L + 1) R / C). Bounding entries that are
neighbours must not decrease. -/
def execSpSegset (b : Bundle) (base rows : VReg) (s : State) : Res :=
  .next (s.issue b [] [base.val, base.val + 1, rows.val] .memory (fun u q =>
    let k := b.core.val
    let c := q.core k
    let l := u.l.localOf k
    if (Tab.get none u.l.lanes l).isSome then q.coreFault k u.bslot 0 0x3002
    else
      let th := (u.sel.head?.map leadOf).getD 0
      let a := c.reg64 th base.val % 2 ^ 48
      let r := (c.reg th rows.val).toNat
      let n := u.l.list.length
      let lo := l * r / n
      let hi := (l + 1) * r / n
      let bounds : SrcRes Bool :=
        (q.devSrc k u (a + 4 * lo) 4).andThen fun x => (q.devSrc k u (a + 4 * hi) 4).andThen fun y =>
          if hi = lo + 1 && leAt y 0 4 < leAt x 0 4 then .fault 0x300A [] else .ok true []
      q.whenRead b u bounds (fun _ x => x.setLane u l { base := a, lo := lo, hi := hi })))

/-- Segments of a row of n nonzeros (R294). -/
def segments (n : Nat) : Nat := ceilDiv n 256

/-- ROWPTR entries of a row: its first position and its nonzeros; SEG_FORMAT when they decrease (R296). -/
def State.rowNonzeros (s : State) (k : Nat) (u : Issue) (base row : Nat) : SrcRes (Nat × Nat) :=
  (s.devSrc k u (base + 4 * row) 8).andThen fun bs =>
    let a := leAt bs 0 4
    let b := leAt bs 4 4
    if b < a then .fault 0x300A [] else .ok (a, b - a) []

/-- A segment: row, first position, count. -/
def segOf (row a n j : Nat) : Nat × Nat × Nat := (row, a + 256 * j, min 256 (n - 256 * j))

/-- A lane's next segment from the front, looking over at most `fuel` rows, with the lane afterwards (R295). -/
def State.segFront (s : State) (k : Nat) (u : Issue) : Nat → SegLane → SrcRes (Option (Nat × Nat × Nat) × SegLane)
  | 0, p => .ok (none, p) []
  | f + 1, p =>
    if p.hi ≤ p.lo then .ok (none, p) []
    else (s.rowNonzeros k u p.base p.lo).andThen fun x =>
      let left := segments x.2 - (if p.lo + 1 = p.hi then p.stolen else 0)
      if p.taken < left then .ok (some (segOf p.lo x.1 x.2 p.taken), { p with taken := p.taken + 1 }) []
      else s.segFront k u f { p with lo := p.lo + 1, taken := 0 }

/-- A lane's last untaken segment, for a thief (R296). -/
def State.segBack (s : State) (k : Nat) (u : Issue) : Nat → SegLane → SrcRes (Option (Nat × Nat × Nat) × SegLane)
  | 0, p => .ok (none, p) []
  | f + 1, p =>
    if p.hi ≤ p.lo then .ok (none, p) []
    else (s.rowNonzeros k u p.base (p.hi - 1)).andThen fun x =>
      let first := if p.lo + 1 = p.hi then p.taken else 0
      let left := segments x.2 - p.stolen
      if first < left then
        .ok (some (segOf (p.hi - 1) x.1 x.2 (left - 1)), { p with stolen := p.stolen + 1 }) []
      else s.segBack k u f { p with hi := p.hi - 1, stolen := 0 }

def SegLane.rowsLeft (p : SegLane) : Nat := p.hi - p.lo + 1

/-- The first lane with an untaken segment among `ls` gives up its last one: its number, the segment, the lane (R296). A
lane keeps its segments when its core's part of the launch has ended. -/
def State.steal (s : State) (k : Nat) (u : Issue) : List Nat → SrcRes (Option (Nat × (Nat × Nat × Nat) × SegLane))
  | [] => .ok none []
  | v :: vs =>
    match Tab.get none u.l.lanes v with
    | none => s.steal k u vs
    | some p =>
      (s.segBack k u p.rowsLeft p).andThen fun r =>
        match r.1 with
        | some g => .ok (some (v, g, r.2)) []
        | none => s.steal k u vs

/-- The segment a lane gets: from which lane, the segment, and that lane afterwards. -/
def State.takeSeg (s : State) (k : Nat) (u : Issue) (p : SegLane) : SrcRes (Option (Nat × (Nat × Nat × Nat) × SegLane)) :=
  let l := u.l.localOf k
  let n := u.l.list.length
  (s.segFront k u p.rowsLeft p).andThen fun r =>
    match r.1 with
    | some g => .ok (some (l, g, r.2)) []
    | none => s.steal k u ((upFrom 1 (n - 1)).map (fun i => (l + i) % n))

/-- Row, position and count to every active lane. -/
def segVals (u : Issue) (d p n : Nat) (r q c : Nat → Word) : List (Nat × Nat × Word) :=
  u.threads.zipIdx.flatMap (fun t => [(d, t.1, r t.2), (p, t.1, q t.2), (n, t.1, c t.2)])

/-- SP_TAKE (R295, R296). With no segment left the count is 0, and row and position are free values (log 26). -/
def execSpTake (b : Bundle) (d p n : VReg) (s : State) : Res :=
  .next (s.issue b [d.val, p.val, n.val] [] .memory (fun u q =>
    let k := b.core.val
    let l := u.l.localOf k
    let dst := [d.val, p.val, n.val]
    match Tab.get none u.l.lanes l with
    | none => q.coreFault k u.bslot 0 0x3002
    | some lane =>
      q.whenRead b u (q.takeSeg k u lane) (fun r x =>
        match r with
        | none =>
          (x.results b u dst (segVals u d.val p.val n.val (fun i => Config.freeWord (x.free + 2 * i))
            (fun i => Config.freeWord (x.free + 2 * i + 1)) (fun _ => 0))).useFree (2 * u.threads.length)
        | some (v, (row, pos, cnt), y) =>
          ((x.setLane u v y).addCount .sparse k (if v = l then 0x80C else 0x810) 1).results b u dst
            (segVals u d.val p.val n.val (fun _ => BitVec.ofNat 32 row) (fun _ => BitVec.ofNat 32 pos)
              (fun _ => BitVec.ofNat 32 cnt)))))

/-- Element type of a VTYPE code (R299). -/
def vtype? (c : Nat) : Option DType := [DType.fp32, .int32, .bf16][c]?

/-- The job a SORT_LIST slot describes; none when a field breaks R299 (R549). -/
def sortOf (slot : List Byte) : Option SortJob :=
  match vtype? (leAt slot 4 1) with
  | none => none
  | some t =>
    if hdrBad (hdrOf slot) || !(othersZero slot [(4, 1), (8, 8), (16, 8), (24, 8), (32, 4)]) || vaBad slot 16 ||
        vaBad slot 24 || leAt slot 16 8 % 8 ≠ 0 || leAt slot 24 8 % DType.bytes t ≠ 0 || leAt slot 32 4 = 0 ||
        2 ^ 28 < leAt slot 32 4 then none
    else some { vtype := t, list := leAt slot 16 8, dest := leAt slot 24 8, count := leAt slot 32 4 }

/-- Accept a command by checks 1 to 4 with SLIDE, charged to no budget; it runs at once in the current frame (R91, R92,
R299). -/
def State.admitPlain (s : State) (c : Nat) (slot : List Byte) (kindOk : FrameNo → Bool) (j : Job) : State :=
  let h := hdrOf slot
  let (k, f) := s.slide h (s.targetFrame h slot) (fun g => s.frameCheck g kindOk)
  if k = 0 then s.accept c h f 0 (f = s.fr.no.toNat) j else s.refuse c h (BitVec.ofNat 8 k)

/-- The same for a command that starts by an event of its own. -/
def State.admitNotStarted (s : State) (c : Nat) (slot : List Byte) (kindOk : FrameNo → Bool) (j : Job) : State :=
  let h := hdrOf slot
  let (k, f) := s.slide h (s.targetFrame h slot) (fun g => s.frameCheck g kindOk)
  if k = 0 then s.accept c h f 0 false j else s.refuse c h (BitVec.ofNat 8 k)

/-- SORT_LIST (R299). -/
def execSortList (c : CtxId) (s : State) : Res :=
  .next (s.onCommand c.val 0x20 (fun slot =>
    match sortOf slot with
    | none => s.refuse c.val (hdrOf slot) 0x11
    | some j => s.admitPlain c.val slot (fun _ => true) (.sort j)))

/-- MARBLE_WINDOW_TIMEOUT (R300): 4,096 MCLK cycles after the window's first entry. -/
def execMarbleWindowTimeout (die : DieId) (s : State) : Res :=
  let m := s.marble die.val
  .next (if m.fill ≠ [] && m.closed.length ≤ 1 && 8192 ≤ 3 * (s.now - m.first) then
    s.setMarble die.val { m with fill := [], closed := m.closed ++ [(s.now, m.fill)] }
  else s)

/-- One list entry read and routed (R299): an outcome, a fault, or a wait. -/
inductive SortRead where
  | ok (s : State)
  | fault (code : BitVec 16) (s : State)
  | wait (s : State)
  deriving DecidableEq, Repr

/-- Read list entry n of a sort job and put it. -/
def State.sortEntry (s : State) (w : Work) (j : SortJob) (n : Nat) : SortRead :=
  let c := w.ctx.getD 0
  match s.xlate c (j.list + 8 * n) .read .core with
  | .error e => .fault e (s.walkReads c (j.list + 8 * n))
  | .ok (lf, a) =>
    match s.bulkFault a 8, s.agentRead true a 8 with
    | some e, _ => .fault e ((s.walkReads c (j.list + 8 * n)).noteFault a 8 e)
    | none, none => .wait s
    | none, some t =>
      let bs := s.cohRead a 8
      let va := (j.dest + leAt bs 4 4 * DType.bytes j.vtype) % 2 ^ 48
      let u := t.holdTlb c (j.list + 8 * n) lf
      match u.xlate c va .write .core with
      | .error e => .fault e (u.walkReads c va)
      | .ok (lg, d) =>
        let es := [entryOf w j.vtype d (BitVec.ofNat 32 (leAt bs 0 4))]
        match (u.holdTlb c va lg).putEntries w.part es with
        | (_, false) => .wait (s.putEntries w.part es).1
        | (v, true) => .ok (v.setWork { w with job := .sort { j with read := n + 1 } })

/-- A sort job reads on from entry n until its list ends or it must wait. -/
def State.sortRun : Nat → State → Work → SortJob → State
  | 0, s, _, _ => s
  | f + 1, s, w, j =>
    match s.sortEntry w j j.read with
    | .ok t => State.sortRun f t w { j with read := j.read + 1 }
    | .fault e t => t.ctxFault (w.ctx.getD 0) e
    | .wait t => t

/-- Close the filling window of a run where a job has entries in it (R300). -/
def State.closeFor (s : State) (die job : Nat) : State :=
  let m := s.marble die
  if m.fill.any (·.job = job) && m.closed.length ≤ 1 then
    s.setMarble die { m with fill := [], closed := m.closed ++ [(s.now, m.fill)] }
  else s

/-- A job has ended its input (R300): all cores of the launch have ended, or the list is read. -/
def Job.inputEnded : Job → Bool
  | .launch l => l.puts && l.ended.length = l.list.length
  | .sort j => j.read = j.count
  | .dma _ => false
  | .narog _ => false
  | .coll _ => false

/-- MARBLE_JOB_INPUT_END (R300): a sort job reads what is left of its list; a job that has ended its input closes the
window of the run. -/
def execMarbleJobInputEnd (die : DieId) (work : Nat) (s : State) : Res :=
  .next (match s.work work with
    | none => s
    | some w =>
      let t := match w.job with
        | .sort j => if w.running && !(s.inHold .marble die.val) then State.sortRun (j.count - j.read) s w j else s
        | .launch _ => s
        | .dma _ => s
        | .narog _ => s
        | .coll _ => s
      match t.work work with
      | some x => if x.job.inputEnded then t.closeFor die.val work else t
      | none => t)

/-- Sum of the duplicates of one address, in their order (R297). -/
def sumDups (t : DType) : List Word → Word
  | [] => 0
  | [v] => v
  | v :: vs =>
    match t with
    | .fp32 => vs.foldl fadd v
    | .int32 => vs.foldl (addElem .int32) v
    | .bf16 =>
      BitVec.ofNat 32 ((Num.ofF32 (vs.foldl (fun a b => fadd a (Num.ofBf16 b).f32) (Num.ofBf16 v).f32)).toWide .bf16).1

/-- An add of a window: line, type, elements, and the entries it adds up. -/
structure WindowAdd where
  line : Nat
  t : DType
  elems : List (Nat × Word)
  of : List MEntry
  deriving DecidableEq, Repr

/-- The adds of one window, one for each destination line of each job, in address order. -/
def windowAdds (es : List MEntry) : List WindowAdd :=
  let keys := List.insertionSort (fun (a b : Nat × Nat × DType) => a.1 ≤ b.1) (es.map (fun e => (e.addr / 128, e.job, e.t))).dedup
  keys.map (fun q =>
    let mine := es.filter (fun e => (e.addr / 128, e.job, e.t) = q)
    let addrs := (mine.map (·.addr)).dedup
    { line := q.1, t := q.2.2, of := mine
      elems := addrs.map (fun a =>
        (a % 128 / DType.bytes q.2.2, sumDups q.2.2 ((mine.filter (·.addr = a)).map (·.v)))) })

/-- Emit one add of a run's oldest window, where a slot is left to its partition and its slice accepts it; else its
entries stay (R300, R302). -/
def State.emitAdd (d : Nat) (waiting : List Nat) (q : State × List MEntry) (x : WindowAdd) : State × List MEntry :=
  let s := q.1
  let m := s.marble d
  let p := (x.of.head?.map (·.part)).getD 0
  if slotsLeft 256 (s.marbleWeight d) m.sent waiting p = 0 || !(s.accepts x.line) then (s, q.2 ++ x.of)
  else
    let t := ((s.setMarble d { m with sent := Tab.set 0 m.sent p (Tab.get 0 m.sent p + 1) }).addCount .marble d 0x80C
      1).addCount .marble d 0x808 (x.of.length - x.elems.length)
    (t.arrive x.line (.aadd .marble x.t x.elems), q.2)

/-- Emit a closed window as far as the slots of the span go: the entries left stay in it. -/
def State.emitWindow (d : Nat) (waiting : List Nat) (q : State × List (Nat × List MEntry)) (w : Nat × List MEntry) :
    State × List (Nat × List MEntry) :=
  let (u, left) := (windowAdds w.2).foldl (State.emitAdd d waiting) (q.1, [])
  (u, if left = [] then q.2 else q.2 ++ [(w.1, left)])

/-- MARBLE_WINDOW_EMIT (R300, R302): from 128 MCLK cycles after it closed, each destination line of a window takes one
add-to-line, the older window first; a span of 64 MCLK cycles has 256 slots, and what finds none stays. -/
def execMarbleWindowEmit (die : DieId) (s : State) : Res :=
  let d := die.val
  let due := (s.marble d).closed.filter (fun w => 256 ≤ 3 * (s.now - w.1))
  .next (if due ≠ [] && !(s.inHold .marble d) then
      let t := s.setMarble d ((s.marble d).turn s.now)
      let (u, left) := due.foldl (State.emitWindow d ((due.flatMap (·.2)).map (·.part)).dedup) (t, [])
      u.setMarble d { u.marble d with closed := left ++ (s.marble d).closed.filter (fun w => 3 * (s.now - w.1) < 256) }
    else s)

/-- Entries of a job wait in no run. -/
def State.noEntries (s : State) (job : Nat) : Bool :=
  (List.range 4).all (fun d =>
    (s.marble d).fill.all (·.job ≠ job) && (s.marble d).closed.all (fun w => w.2.all (·.job ≠ job)))

/-- MARBLE_JOB_END (R299, R303). -/
def execMarbleJobEnd (work : Nat) (s : State) : Res :=
  .next (match s.work work with
    | none => s
    | some w => if w.job.inputEnded && s.noEntries work then s.endWork w stEnded else s)

/-- MISP_TOTAL (R305). -/
def execMispTotal (r : MbxReq) (s : State) : Res :=
  .next (s.mbxGet r .sparse 1 2 (fun t k => t.counter .sparse k 0xF01))

/-- ENTRIES_IN (R306). -/
def execEntriesIn (r : MbxReq) (s : State) : Res :=
  .next (s.mbxGet r .marble 1 2 (fun t d => t.counter .marble d 0xF01))

end Sys2Proof.Machine
end

