-- ==== Sys2Proof/Machine/Hbm.lean ====
section
/-! DEFINITION. Stack controllers (R343 to R346, R350 to R353) and the narrow path that feeds them (R347, R348). -/

namespace Sys2Proof.Machine

/-- Requests of one pseudo-channel that its queue of 64 holds and that have not been chosen (R348). -/
def State.pcQueue (s : State) (stack pc : Nat) : List NReq :=
  (s.hbm.nreq.filter (fun r => (hbmAddr r.line).stack = stack && (hbmAddr r.line).pc = pc)).take 64

/-- A request may not pass an earlier one of the same sector that is still to be performed (R348). -/
def notBehind : List NReq → List NReq → List NReq
  | _, [] => []
  | before, r :: rs =>
    let ok := !r.issued && before.all (fun b => b.line ≠ r.line || b.sect &&& r.sect = 0 || (!b.write && !r.write))
    (if ok then [r] else []) ++ notBehind (before ++ [r]) rs

/-- A request has waited AGE_LIMIT MCLK cycles (R348, R366). -/
def State.aged (s : State) (die : Nat) (r : NReq) : Bool :=
  2 * field (s.cfg .narrow die 0x100) 11 0 ≤ 3 * (s.now - r.since)

/-- The order of R348 over the candidates, which stand oldest first. -/
def State.chooseReq (s : State) (die : Nat) (rs : List NReq) : Option NReq :=
  match rs.find? (·.merge), rs.find? (s.aged die), rs.find? (fun r => s.pageOpen (hbmAddr r.line)), rs.head? with
  | some r, _, _, _ => some r
  | none, some r, _, _ => some r
  | none, none, some r, _ => some r
  | none, none, none, r => r

/-- Replace the oldest queued request equal to `r`. -/
def replaceFirst (r : NReq) (by_ : List NReq) : List NReq → List NReq
  | [] => []
  | x :: xs => if x = r then by_ ++ xs else x :: replaceFirst r by_ xs

/-- Reads of a line queued ahead of any write of the same sectors need not read again what a chosen read brings (R348). -/
def servedBy (r : NReq) : List NReq → List NReq
  | [] => []
  | x :: xs =>
    if x.line = r.line && !x.write && !x.issued then
      (if x.sect &&& ~~~r.sect = 0 then [] else [{ x with sect := x.sect &&& ~~~r.sect }]) ++ servedBy r xs
    else if x.line = r.line && x.write && x.sect &&& r.sect ≠ 0 then x :: xs
    else x :: servedBy r xs

/-- A chosen request is performed (R347): a write is done, and a read returns later; queued reads that it serves, wholly or
in part, go with it (R348). -/
def State.performReq (s : State) (r : NReq) : State :=
  let u := s.burst r.line r.sect r.write
  let q := replaceFirst r (if r.write then [] else [{ r with issued := true }]) u.hbm.nreq
  { u with hbm := { u.hbm with nreq := if r.write then q else servedBy r q } }

/-- NARROW_SCHEDULE (R348). -/
def execNarrowSchedule (stack : Fin 12) (pc : Fin 32) (s : State) : Res :=
  let die := stack.val / 3
  .next (if s.inHold .narrow die then s
    else match s.chooseReq die (notBehind [] (s.pcQueue stack.val pc.val)) with
      | none => s
      | some r => s.performReq r)

/-- Symbols of a line come into error (R350). -/
def State.strikeLine (s : State) (line : Nat) (u : Upset) : State :=
  (((s.strike (4 * line) u.s0).strike (4 * line + 1) u.s1).strike (4 * line + 2) u.s2).strike (4 * line + 3) u.s3

/-- HBM_READ_COMPLETE (R350 to R352): the sectors of the oldest chosen read of a line return, with the errors that stand in
them by now. -/
def State.readComplete (s : State) (line : Nat) : State :=
  match s.hbm.nreq.find? (fun r => r.line = line && r.issued && !r.write) with
  | none => s
  | some r =>
    let t := (List.range 4).foldl (fun t i => if r.sect.getLsbD i then t.readSector (4 * line + i) else t) s
    { t with hbm := { t.hbm with nreq := t.hbm.nreq.erase r } }

def execHbmReadComplete (line : Line) (upset : Upset) (s : State) : Res :=
  .next ((s.strikeLine line.toNat upset).readComplete line.toNat)

/-- HBM_REFRESH (R343): a bank is refreshed, and its page closes. -/
def execHbmRefresh (stack : Fin 12) (pc : Fin 32) (sid : Fin 3) (bank : Fin 16) (s : State) : Res :=
  .next (if stackFitted s.variant stack.val then
    { s with hbm := { s.hbm with
        openPage := Tab.set 0 s.hbm.openPage (bankKey stack.val pc.val sid.val bank.val) 0
        refreshes := Tab.set 0 s.hbm.refreshes stack.val (Tab.get 0 s.hbm.refreshes stack.val + 1) } }
  else s)

/-- Sectors of a stack. -/
def stackSectors : Nat := 0x900000000 / 32

/-- HBM_SCRUB (R353): the scrubber reads its next sector in a slot that no request wants. -/
def execHbmScrub (stack : Fin 12) (upset : BitVec 18) (s : State) : Res :=
  let n := stack.val
  let pos := Tab.get 0 s.hbm.scrubPos n
  let sector := n * 0x1000000000 / 32 + pos
  let a := hbmAddr (sector / 4)
  .next (if stackFitted s.variant n && bit (s.cfg .hbm n 0x100) 0 && !(s.inHold .hbm n) &&
      (s.pcQueue n a.pc).all (·.issued) then
    let t := ((s.strike sector upset).burst (sector / 4) (BitVec.ofNat 4 (2 ^ (sector % 4))) false).readSector sector
    let next := (pos + 1) % stackSectors
    { t with hbm := { t.hbm with
        scrubPos := Tab.set 0 t.hbm.scrubPos n next
        scrubPasses := Tab.set 0 t.hbm.scrubPasses n (Tab.get 0 t.hbm.scrubPasses n + (if next = 0 then 1 else 0)) } }
  else s)

/-- HBM_LAST_UNCORR (R365). -/
def execHbmLastUncorr (r : MbxReq) (s : State) : Res :=
  .next (s.mbxGet r .hbm 1 2 (fun t n => Tab.get 0 t.hbm.lastUncorr n))

/-- SCRUB_PASSES (R365). -/
def execScrubPasses (r : MbxReq) (s : State) : Res :=
  .next (s.mbxGet r .hbm 2 2 (fun t n => Tab.get 0 t.hbm.scrubPasses n))

end Sys2Proof.Machine
end

