-- ==== Sys2Proof/Machine/Dma.lean ====
section
/-! DEFINITION. DMA engines: descriptors and their admission (R355, R359 to R364), pieces (R356, R357), slot writes
(R361), and what each opcode moves. -/

namespace Sys2Proof.Machine

/-- What part of a piece comes to. A fault keeps the writes made before it; a wait leaves the piece to be taken again. -/
inductive DmaRes (α : Type) where
  | ok (v : α) (s : State) (j : DmaJob) (host : HostData)
  | fault (code : BitVec 16) (s : State)
  | ats (addr : Nat)
  | wait
  deriving DecidableEq, Repr

def DmaRes.andThen {α β : Type} (r : DmaRes α) (f : α → State → DmaJob → HostData → DmaRes β) : DmaRes β :=
  match r with
  | .ok v s j h => f v s j h
  | .fault c s => .fault c s
  | .ats a => .ats a
  | .wait => .wait

/-- A step of a piece, from the state, the job and the host's data. -/
abbrev DmaM (α : Type) := State → DmaJob → HostData → DmaRes α

/-- An access to a hole is latched, recorded and raised at the engine (R345). -/
def State.holeAccess (s : State) (e a : Nat) : State :=
  let t := (s.latch .dma e 0x800 (· ||| flag true 23)).raise .dma e 0x5004
  { t with lastHole := Tab.set 0 t.lastHole e a }

/-- A part of a range inside one page. -/
structure Part1 where
  host : Bool
  addr : Nat
  len : Nat
  deriving DecidableEq, Repr

/-- A physical range cut where it leaves a GiB: stacks, slow tier and holes begin and end there (R36, R345). -/
def physParts (a n : Nat) : List Part1 :=
  if n = 0 then []
  else
    let m := min n (0x40000000 - a % 0x40000000)
    { host := false, addr := a, len := m } :: (if m < n then [{ host := false, addr := a + m, len := n - m }] else [])

/-- Where a range of an address space lies: physical, or through the context's tables, whose translations it holds. -/
def dmaMap (w : Work) (va n : Nat) (k : AccKind) : DmaM (List Part1) := fun s j h =>
  if j.phys then .ok (physParts va n) s j h
  else
    let c := w.ctx.getD 0
    match s.xlateRange c va n k .mover with
    | .error e => .fault e (s.walkRange c va n)
    | .ok ps => .ok (ps.map (fun p => { host := p.1, addr := p.2.1, len := p.2.2 }))
        (s.holdAll c (if n = 0 then [] else
          (upFrom (va / 4096) ((va + n - 1) / 4096 + 1 - va / 4096)).map (fun g => (0, 4096 * g)))) j h

/-- The engines write as agents, for the context of their command (R318). -/
def dmaFor (w : Work) : Agent × Option Nat := (.dma, w.ctx)

/-- Read one part (R318, R334, R345, R352, R354, R371); it waits while a slice or a stack cannot take the read. A command of
the management core carries no context. -/
def readPart (w : Work) (e : Nat) (p : Part1) : DmaM (List Byte) := fun s j h =>
  if p.host then
    if s.atsReady (w.ctx.getD 0) p.addr then .ok (bytesAt (h.headD []) 0 p.len) s j h.tail else .ats p.addr
  else if addrKind s.variant p.addr = .hole then .ok (List.replicate p.len 0) (s.holeAccess e p.addr) j h
  else
    match (if j.phys then (if s.rangePoison p.addr p.len then some 0x300C else none) else s.bulkFault p.addr p.len) with
    | some c =>
      if c = 0x300C && (s.agentRead (!j.phys) p.addr p.len).isNone then .wait else .fault c (s.noteFault p.addr p.len c)
    | none =>
      match s.agentRead (!j.phys) p.addr p.len with
      | some t => .ok (s.devRead p.addr p.len) t j h
      | none => .wait

/-- Run a step over a list, joining the bytes. -/
def eachPart (f : Part1 → DmaM (List Byte)) : List Part1 → DmaM (List Byte)
  | [] => fun s j h => .ok [] s j h
  | p :: ps => fun s j h => (f p s j h).andThen fun a t k g => (eachPart f ps t k g).andThen fun b u l i => .ok (a ++ b) u l i

def dmaRead (w : Work) (e va n : Nat) : DmaM (List Byte) := fun s j h =>
  (dmaMap w va n .read s j h).andThen fun ps t k g => eachPart (readPart w e) ps t k g

/-- Bytes of a source or of an index list: what its engine has read ahead, or a read now (R356). -/
def dmaSrc (w : Work) (e va n : Nat) : DmaM (List Byte) := fun s j h =>
  match j.cache.find? (fun c => c.1 = va && c.2.length = n) with
  | some c => .ok c.2 s j h
  | none =>
    (dmaRead w e va n s j h).andThen fun bs t k g =>
      .ok bs t (if k.probe then { k with cache := k.cache ++ [(va, bs)] } else k) g

/-- Write bytes to one part (R318, R345, R346, R352); a slice that cannot perform the write queues it (R323). -/
def writePart (w : Work) (e : Nat) (p : Part1) (bs : List Byte) : DmaM Unit := fun s j h =>
  let x := s.ctx (w.ctx.getD 0)
  if p.host then
    if s.atsReady (w.ctx.getD 0) p.addr then .ok () (s.emit (.hostWrite x.part x.pasid p.addr bs)) j h else .ats p.addr
  else if addrKind s.variant p.addr = .hole then .ok () (s.holeAccess e p.addr) j h
  else if s.edgePoison p.addr bs.length then .fault 0x300C (s.noteFault p.addr bs.length 0x300C)
  else .ok () (s.cohWrite (dmaFor w) p.addr bs) j h

/-- What a command notes of an output when the bytes from one offset of it up to another are written. -/
abbrev Noted := Nat → Nat → DmaJob → State → State

def nothing : Noted := fun _ _ _ s => s

def writeParts (w : Work) (e : Nat) (f : Noted) (off : Nat) : List Part1 → List Byte → DmaM Unit
  | [], _ => fun s j h => .ok () s j h
  | p :: ps, bs => fun s j h =>
    (writePart w e p (bs.take p.len) s j h).andThen fun _ t k g =>
      writeParts w e f (off + p.len) ps (bs.drop p.len) (f off (off + p.len) k t) k g

/-- Write bytes at an address; DMA.BYTES counts them (R367). -/
def dmaPut (w : Work) (e : Nat) (f : Noted) (va : Nat) (bs : List Byte) : DmaM Unit := fun s j h =>
  if j.probe then .ok () s j h
  else (dmaMap w va bs.length .write s j h).andThen fun ps t k g =>
    writeParts w e (fun a b k t => (f a b k t).addCount .dma e 0x804 (b - a)) 0 ps bs t k g

def dmaWrite (w : Work) (e va : Nat) (bs : List Byte) : DmaM Unit := dmaPut w e nothing va bs

/-- Slots that bytes from an offset of a slot's base lie in. -/
def slotsOf (slot off n : Nat) : List Nat := upFrom (slot + off / 32768) ((off + n - 1) / 32768 + 1 - off / 32768)

/-- A store into a tile that the array may be reading, made by a DMA write: latched at the core (R201, R227). -/
def State.noteTileWrite (s : State) (core : Nat) : State := s.latchLast .core core 0x804 23 (place 0x004 0)

/-- Write into an array slot (R361): a launch of the same context runs on the core, the slots are below its slot count,
the end is within 64 KiB, and no slot has TR or RS set (R201). -/
def slotWrite (w : Work) (e core slot off : Nat) (bs : List Byte) : DmaM Unit := fun s j h =>
  match s.running core with
  | none => .fault 0x300D s
  | some (v, l) =>
    let ss := slotsOf slot off bs.length
    let c := (s.core core).released l s.now
    if v.ctx ≠ w.ctx || ss.any (l.slots ≤ ·) || 65536 < off + bs.length then .fault 0x300D s
    else if ss.any (fun n => (c.arr.tr ||| c.arr.rs).getLsbD n) then .fault 0x3004 (s.noteTileWrite core)
    else .ok () ((s.setCore core (c.scrWrite (l.regionBase + 32768 * slot + off) bs)).addCount .dma e 0x804 bs.length)
      { j with run := v.id, touched := ((if j.run = v.id then j.touched else []) ++ ss).dedup } h

/-- Write at an offset of the destination. -/
def dmaOut (w : Work) (e : Nat) (f : Noted) (off : Nat) (bs : List Byte) : DmaM Unit := fun s j h =>
  if bs = [] || j.probe then .ok () s j h
  else
    match j.slot with
    | some (core, slot) =>
      (slotWrite w e core slot off bs s j h).andThen fun _ t k g => .ok () (f 0 bs.length k t) k g
    | none => dmaPut w e f (j.dst + off) bs s j h

/-- Run a step for each item of a list, in order. -/
def eachItem {α : Type} (f : α → DmaM Unit) : List α → DmaM Unit
  | [] => fun s j h => .ok () s j h
  | x :: xs => fun s j h => (f x s j h).andThen fun _ t k g => eachItem f xs t k g

/-- Sizes of an output sequence, in bytes (R360 to R364). -/
def pieceBytes : Nat := 65536

def srcSize (f : Fmt) : Nat := f.width / 8

def blocksOf (j : DmaJob) (f : Fmt) : Nat := j.len / srcSize f / 32

def DmaJob.outBytes (j : DmaJob) : Nat :=
  match j.op with
  | .copy => j.len
  | .fill => j.len
  | .gather _ n rb _ _ => n * rb
  | .store d f cmp _ _ _ _ _ => if cmp then pieceBytes else blocksOf j f * (4 * d.width)
  | .amax f _ _ => 4 * blocksOf j f
  | .transpose r c z _ _ => r * c * z

def DmaJob.pieces (j : DmaJob) : Nat := ceilDiv j.outBytes pieceBytes

/-- Output offsets of a piece. -/
def DmaJob.lo (j : DmaJob) : Nat := pieceBytes * j.next
def DmaJob.hi (j : DmaJob) : Nat := min j.outBytes (pieceBytes * (j.next + 1))

/-- Units of `size` output bytes that begin in a piece. -/
def DmaJob.units (j : DmaJob) (size : Nat) : List Nat :=
  upFrom (ceilDiv j.lo size) (ceilDiv j.hi size - ceilDiv j.lo size)

/-- The 32-bit pattern over n bytes (R360). -/
def fillBytes (pat n : Nat) : List Byte := (List.range n).map (fun i => BitVec.ofNat 8 (pat / 2 ^ (8 * (i % 4))))

/-- The part of row i that lies in a piece: offset in the row and length (R356, R362). -/
def rowPart (j : DmaJob) (rb i : Nat) : Nat × Nat :=
  let a := max j.lo (i * rb)
  let b := min j.hi ((i + 1) * rb)
  (a - i * rb, b - a)

/-- One row of a GATHER (R362). -/
def gatherRow (w : Work) (e index rb stride : Nat) (scatter : Bool) (i : Nat) : DmaM Unit := fun s j h =>
  let (o, n) := rowPart j rb i
  (dmaSrc w e (index + 4 * i) 4 s j h).andThen fun x t k g =>
    let far := leAt x 0 4 * stride + o
    let near := i * rb + o
    (dmaSrc w e (k.src + (if scatter then near else far)) n t k g).andThen fun bs u l m =>
      dmaOut w e nothing (if scatter then far else near) bs u l m

/-- FP32 magnitude of a block (R363). -/
def blockAmax (a : List Num) : Word :=
  if a.any Num.isNan then 0x7FC00000
  else if a.any notFinite then 0x7F800000
  else
    let m := (a.filterMap Num.mag).foldl magMax (0, 0)
    (Num.fin false m.1 m.2).f32

/-- The 32 values of source block b, widened (R241, R363). -/
def readBlock (w : Work) (e : Nat) (f : Fmt) (b : Nat) : DmaM (List Num) := fun s j h =>
  (dmaSrc w e (j.src + 32 * srcSize f * b) (32 * srcSize f) s j h).andThen fun bs t k g =>
    .ok ((List.range 32).map (fun i => Num.ofCode f (leAt bs (srcSize f * i) (srcSize f)))) t k g

/-- Codes packed as R198 packs them. -/
def packCodes (f : Fmt) (cs : List Nat) : List Byte :=
  let n := cs.zipIdx.foldl (fun a c => a + c.1 % 2 ^ f.width * 2 ^ (f.width * c.2)) 0
  leBytes (packedBytes f cs.length) n

/-- Write a magnitude where AMAX_VA names a place. -/
def putAmax (w : Work) (e amax b : Nat) (a : List Num) : DmaM Unit := fun s j h =>
  if amax = 0 then .ok () s j h else dmaWrite w e (amax + 4 * b) (leBytes 4 (blockAmax a).toNat) s j h

/-- The bump bit of a block (R237, R247). -/
def readBump (w : Work) (e map b : Nat) : DmaM Bool := fun s j h =>
  if map = 0 || j.probe then .ok false s j h
  else (dmaRead w e (map + b / 8) 1 s j h).andThen fun x t k g => .ok ((leAt x 0 1).testBit (b % 8)) t k g

/-- Write ovf into the same bit (R247, R248). -/
def writeBump (w : Work) (e map b : Nat) (ovf : Bool) : DmaM Unit := fun s j h =>
  if map = 0 || j.probe then .ok () s j h
  else (dmaRead w e (map + b / 8) 1 s j h).andThen fun x t k g =>
    let v := leAt x 0 1
    dmaWrite w e (map + b / 8) [BitVec.ofNat 8 ((if v.testBit (b % 8) then v - 2 ^ (b % 8) else v) +
      (if ovf then 2 ^ (b % 8) else 0))] t k g

/-- The cast of one block: scale code, element codes, counts, and ovf (R241, R246). -/
def dmaCast (d f : Fmt) (bump : Bool) (a : List Num) : BlockCast :=
  if d.isNarrow then blockCast d bump a
  else
    let rs := a.map (fun v => convert (some d) (some f) (BitVec.ofNat 32 (v.toWide f).1))
    ⟨0, rs.map (fun r => r.1.toNat), false, rs.map Prod.snd⟩

/-- Cast one block, with its magnitude, scale and flag (R363). -/
def castBlock (w : Work) (e : Nat) (d f : Fmt) (scale map amax b : Nat) : DmaM BlockCast := fun s j h =>
  (readBlock w e f b s j h).andThen fun a t k g =>
  (putAmax w e amax b a t k g).andThen fun _ t k g =>
  (readBump w e (if d.isNarrow then map else 0) b t k g).andThen fun bump t k g =>
    let r := dmaCast d f bump a
    (writeBump w e (if d.isNarrow then map else 0) b r.ovf t k g).andThen fun _ t k g =>
    (if d.isNarrow then dmaWrite w e (scale + b) [BitVec.ofNat 8 r.scale] t k g else .ok () t k g).andThen fun _ t k g =>
      .ok r t k g

/-- The elements of a block whose codes are packed from the start of its output on (R236, R273). -/
def castElems (d : Fmt) (r : BlockCast) : List CastElem :=
  (r.codes.zip r.each).zipIdx.map (fun x =>
    { fin := ceilDiv ((x.2 + 1) * d.width) 8, nz := present d x.1.1 r.scale, counts := x.1.2 })

/-- Report the elements that have been written (R249, R400, R401). A command of the management core names an entry of the
whole table, and its report carries the frame in which it runs (log 149). -/
def State.dmaReport (s : State) (w : Work) (j : DmaJob) (d : Fmt) (es : List CastElem) : State :=
  let k := es.foldl (fun k x => k.add x.counts) ({} : Counts)
  let nz := (es.filter (·.nz)).length
  if j.probe || es = [] then s
  else if w.ctx.isSome then s.report w.part w.frame j.watch d es.length nz k
  else if 8192 ≤ j.watch then s
  else { s with reports := s.reports ++
    [{ entry := j.watch, fmt := fmtCode d, counts := [es.length, nz, k.flush, k.sat, k.nan], frame := s.fr.no }] }

/-- Elements are reported as the last of their bytes are written (R400, R401). -/
def noteElems (w : Work) (d : Fmt) (es : List CastElem) : Noted := fun a b j s =>
  s.dmaReport w j d (es.filter (fun x => a < x.fin && x.fin ≤ b))

/-- Write the output of one block: what lies beyond the piece is left to the next one (R356). -/
def blockOut (w : Work) (e off : Nat) (d : Fmt) (c : DmaCarry) : DmaM Unit := fun s j h =>
  let n := j.hi - off
  (dmaOut w e (noteElems w d c.elems) off (c.bytes.take n) s j h).andThen fun _ t k g =>
    if c.bytes.length ≤ n then .ok () t { k with carry := none } g
    else .ok () t { k with carry := some {
      bytes := c.bytes.drop n
      elems := (c.elems.filter (fun x => n < x.fin)).map (fun x => { x with fin := x.fin - n }) } } g

/-- One block of a STORE that does not compress. -/
def storeBlock (w : Work) (e : Nat) (d f : Fmt) (scale map amax b : Nat) : DmaM Unit := fun s j h =>
  (castBlock w e d f scale map amax b s j h).andThen fun r t k g =>
    blockOut w e (4 * d.width * b) d { bytes := packCodes d r.codes, elems := castElems d r } t k g

/-- The blocks of a piece of such a STORE, behind what the piece before has left. -/
def storeBlocks (w : Work) (e : Nat) (d f : Fmt) (scale map amax : Nat) : DmaM Unit := fun s j h =>
  (match j.carry with
    | some c => blockOut w e j.lo d c s j h
    | none => .ok () s j h).andThen fun _ t k g =>
    eachItem (storeBlock w e d f scale map amax) (k.units (4 * d.width)) t k g

/-- Cast every block of a compressed tile. -/
def castAll (w : Work) (e : Nat) (d f : Fmt) (scale map amax : Nat) : List Nat → DmaM (List BlockCast)
  | [] => fun s j h => .ok [] s j h
  | b :: bs => fun s j h =>
    (castBlock w e d f scale map amax b s j h).andThen fun r t k g =>
      (castAll w e d f scale map amax bs t k g).andThen fun rs u l i => .ok (r :: rs) u l i

/-- Present elements of a row's blocks: index in the row, code. -/
def rowPresent (d : Fmt) (row : List (List Nat × Nat)) : List (Nat × Nat) :=
  row.zipIdx.flatMap (fun b => b.1.1.zipIdx.filterMap (fun c =>
    if present d c.1 b.1.2 then some (32 * b.2 + c.2, c.1) else none))

/-- Values of a row, padded to a multiple of 4 B (R275). -/
def rowValues (d : Fmt) (ps : List (Nat × Nat)) : List Byte :=
  let v := packCodes d (ps.map (·.2))
  v ++ List.replicate ((4 - v.length % 4) % 4) 0

/-- Offset of each row's values: where those of the rows before it end. -/
def rowOffsets : Nat → List (List Byte) → List Nat
  | _, [] => []
  | o, v :: vs => o :: rowOffsets (o + v.length) vs

/-- A compressed tile of rows of w blocks (R275): rows beyond the last are absent. -/
def cmpTile (d : Fmt) (w : Nat) (blocks : List (List Nat × Nat)) : List Byte :=
  let rows := (List.range 128).map (fun m => rowPresent d ((blocks.drop (w * m)).take w))
  let vals := rows.map (rowValues d)
  let vbytes := (vals.map List.length).sum
  let mapN := rows.zipIdx.foldl (fun a r => a + (if r.1 = [] then 0 else 2 ^ r.2)) 0
  let word (m b : Nat) : Nat := ((rows.getD m []).filter (fun p => p.1 / 32 = b)).foldl (fun a p => a + 2 ^ (p.1 % 32)) 0
  leBytes 16 mapN ++ leBytes 4 (vbytes + (if 32768 < cmpV0 w + vbytes then 65536 else 0)) ++ List.replicate 12 0 ++
    (rowOffsets (cmpV0 w) vals).flatMap (leBytes 2) ++
    (List.range 128).flatMap (fun m => (List.range w).flatMap (fun b => leBytes 4 (word m b))) ++ vals.flatten

/-- The elements of a compressed tile of rows of w blocks (R275): one is written with its bit of the bitmap, and with its
code where it is present. -/
def tileElems (d : Fmt) (w : Nat) (bs : List BlockCast) : List CastElem :=
  let row (m : Nat) : List BlockCast := (bs.drop (w * m)).take w
  let ps (m : Nat) : List (Nat × Nat) := rowPresent d ((row m).map (fun r => (r.codes, r.scale)))
  let offs := rowOffsets (cmpV0 w) ((List.range 128).map (fun m => rowValues d (ps m)))
  (List.range (ceilDiv bs.length w)).flatMap (fun m =>
    (row m).zipIdx.flatMap (fun rb => (castElems d rb.1).zipIdx.map (fun x =>
      let bitEnd := 0x120 + 4 * (w * m + rb.2) + x.2 / 8 + 1
      let valEnd := offs.getD m 0 + ceilDiv ((((ps m).map (·.1)).idxOf (32 * rb.2 + x.2) + 1) * d.width) 8
      { x.1 with fin := bif x.1.nz then max bitEnd valEnd else bitEnd })))

/-- The compressed form of a STORE, in one piece (R363). -/
def storeTile (w : Work) (e : Nat) (d f : Fmt) (rowElems scale map amax : Nat) : DmaM Unit := fun s j h =>
  (castAll w e d f scale map amax (List.range (blocksOf j f)) s j h).andThen fun bs t k g =>
    dmaOut w e (noteElems w d (tileElems d (rowElems / 32) bs)) 0
      (cmpTile d (rowElems / 32) (bs.map (fun r => (r.codes, r.scale)))) t k g

/-- One block of an AMAX. -/
def amaxBlock (w : Work) (e : Nat) (f : Fmt) (amax b : Nat) : DmaM Unit := fun s j h =>
  (readBlock w e f b s j h).andThen fun a t k g => putAmax w e amax b a t k g

/-- One element of a TRANSPOSE (R364): output element n is (r, c) = (n mod ROWS, n div ROWS). -/
def transElem (w : Work) (e rows size sp dp n : Nat) : DmaM Unit := fun s j h =>
  (dmaSrc w e (j.src + n % rows * sp + n / rows * size) size s j h).andThen fun bs t k g =>
    dmaOut w e nothing (n / rows * dp + n % rows * size) bs t k g

/-- Everything one piece does (R356, R360). -/
def runPiece (w : Work) (e : Nat) : DmaM Unit := fun s j h =>
  match j.op with
  | .copy => (dmaSrc w e (j.src + j.lo) (j.hi - j.lo) s j h).andThen fun bs t k g => dmaOut w e nothing k.lo bs t k g
  | .fill => dmaOut w e nothing j.lo (fillBytes j.src (j.hi - j.lo)) s j h
  | .gather index _ rb stride sc =>
    eachItem (gatherRow w e index rb stride sc) (upFrom (j.lo / rb) (ceilDiv j.hi rb - j.lo / rb)) s j h
  | .store d f cmp _ re scale map amax =>
    if cmp then storeTile w e d f re scale map amax s j h
    else storeBlocks w e d f scale map amax s j h
  | .amax f _ amax => eachItem (amaxBlock w e f amax) (j.units 4) s j h
  | .transpose rows _ z sp dp => eachItem (transElem w e rows z sp dp) (j.units z) s j h

/-- First source address a piece reads, and first destination address it writes (none for a slot): R356. For GATHER the
row's index is read. -/
def DmaJob.firsts (j : DmaJob) (idx : Nat) : Nat × Option Nat :=
  let n := j.lo
  let dst (o : Nat) : Option Nat := if j.slot.isSome then none else some (j.dst + o)
  match j.op with
  | .copy => (j.src + n, dst n)
  | .fill => (0, dst n)
  | .gather _ _ rb stride sc =>
    if sc then (j.src + n, dst (idx * stride + n % rb)) else (j.src + idx * stride + n % rb, dst n)
  | .store d f _ _ _ _ _ _ => (j.src + n / (4 * d.width) * 32 * srcSize f, dst n)
  | .amax f _ amax => (j.src + n / 4 * 32 * srcSize f, if amax = 0 then none else some (amax + n))
  | .transpose rows _ z sp dp =>
    let m := ceilDiv n z
    (j.src + m % rows * sp + m / rows * z, dst (m / rows * dp + m % rows * z))

/-- Home die of an address in HBM. -/
def State.dieAt (s : State) (w : Work) (j : DmaJob) (va : Nat) : Option Nat :=
  if j.phys then (if isStack s.variant va then some (homeDie (va / 128)) else none)
  else
    match s.xlate (w.ctx.getD 0) va .read .mover with
    | .error _ => none
    | .ok (l, a) => if !l.host && isStack s.variant a then some (homeDie (a / 128)) else none

/-- An entry of an index list as it stands: none while an operation on its line is under way, and, where it lies in host
memory, until it comes as the first data of a command (R151, R356). An entry that a fault hides is taken as 0. -/
def State.peekIndex (s : State) (w : Work) (j : DmaJob) (va : Nat) (host : HostData) : Option Nat :=
  let c := w.ctx.getD 0
  let at_ (a : Nat) : Option Nat := if s.rangeQuiet a 4 then some (leAt (s.devRead a 4) 0 4) else none
  if j.phys then (if isSlow s.variant va then some (leAt (s.devRead va 4) 0 4) else at_ va)
  else
    match s.xlate c va .read .mover with
    | .error _ => some 0
    | .ok (l, a) =>
      if l.host then (if s.atsReady c a && host ≠ [] then some (leAt (host.headD []) 0 4) else none)
      else if isSlow s.variant a then some (leAt (s.devRead a 4) 0 4)
      else at_ a

/-- Where the index of the first row lies that piece n of a GATHER reads. -/
def DmaJob.indexAt (j : DmaJob) (n : Nat) : Option Nat :=
  match j.op with
  | .gather index _ rb _ _ => some (index + 4 * (pieceBytes * n / rb))
  | .copy => none | .fill => none | .store _ _ _ _ _ _ _ _ => none | .amax _ _ _ => none
  | .transpose _ _ _ _ _ => none

/-- The die of a piece whose first index is known; FILL reads no source line (R356). -/
def State.dieFrom (s : State) (w : Work) (j : DmaJob) (n idx : Nat) : Nat :=
  let (src, dst) := ({ j with next := n } : DmaJob).firsts idx
  match dst.bind (s.dieAt w j) with
  | some d => d
  | none => if j.op = .fill then 0 else (s.dieAt w j src).getD 0

/-- Die whose engines take piece n of a command (R356): none while the index that decides it has still to be read. -/
def State.pieceDie (s : State) (w : Work) (j : DmaJob) (n : Nat) (host : HostData) : Option Nat :=
  match j.indexAt n with
  | none => some (s.dieFrom w j n 0)
  | some va =>
    match Tab.get none j.dies n with
    | some d => some d
    | none => (s.peekIndex w j va host).map (s.dieFrom w j n)

/-- Weight of a partition in the SHARE registers at 0x100 or 0x140 of a unit (R302, R306, R367). -/
def State.weight (s : State) (b : Block) (inst base p : Nat) : Nat :=
  field (s.cfg b inst (base + 4 * (p / 8))) (4 * (p % 8) + 3) (4 * (p % 8))

def servedKey (e p : Nat) : Nat := 32 * e + p

/-- DMA work of running commands. -/
def State.dmaJobs (s : State) : List (Work × DmaJob) :=
  s.works.filterMap (fun w =>
    match w.job with
    | .dma j => if w.running then some (w, j) else none
    | _ => none)

/-- Commands whose next piece waits for an engine of a die, in order of admission: at most 16 pieces of one are in flight
(R356). -/
def State.waitingPieces (s : State) (die : Nat) (host : HostData) : List (Work × DmaJob) :=
  s.dmaJobs.filter (fun x =>
    x.2.taken < x.2.pieces && x.2.flight.length < 16 && s.pieceDie x.1 x.2 x.2.taken host = some die)

/-- Pieces that wait for the engines of a die (R356, R367): every one that no engine has taken yet and whose die is known;
one that awaits its index waits for no engine yet. -/
def State.queuedPieces (s : State) (die : Nat) : Nat :=
  (s.dmaJobs.map (fun x =>
    ((upFrom x.2.taken (x.2.pieces - x.2.taken)).filter (fun n => s.pieceDie x.1 x.2 n [] = some die)).length)).sum

/-- The least service per weight among the partitions that already wait for an engine: service and weight (R302). -/
def State.servedLevel (s : State) (e : Nat) (ps : List Nat) : Nat × Nat :=
  (ps.filter (fun q => Tab.get 0 s.served (servedKey e q) ≠ 0 && s.weight .dma e 0x140 q ≠ 0)).foldl (fun o q =>
    let x := Tab.get 0 s.served (servedKey e q) - 1
    let w := s.weight .dma e 0x140 q
    if o.2 = 0 || x * o.2 < o.1 * w then (x, w) else o) (0, 0)

/-- Service of a partition that waits; one that begins to wait is level with the others. -/
def State.servedOf (s : State) (e : Nat) (ps : List Nat) (p : Nat) : Nat :=
  let x := Tab.get 0 s.served (servedKey e p)
  let l := s.servedLevel e ps
  if x ≠ 0 then x - 1 else if l.2 = 0 then 0 else ceilDiv (l.1 * s.weight .dma e 0x140 p) l.2

/-- Before in the weighted order of R302: a partition of weight 0 after every other; else the least service per weight. -/
def State.servedBefore (s : State) (e : Nat) (ps : List Nat) (p q : Nat) : Bool :=
  let wp := s.weight .dma e 0x140 p
  let wq := s.weight .dma e 0x140 q
  if wq = 0 then wp ≠ 0 || p < q
  else if wp = 0 then false
  else s.servedOf e ps p * wq < s.servedOf e ps q * wp

/-- An engine serves a piece of partition p, one of those with pieces waiting. -/
def State.serve (s : State) (e : Nat) (ps : List Nat) (p : Nat) : State :=
  { s with served := (List.range 32).foldl (fun t q =>
      Tab.set 0 t (servedKey e q) (if ps.contains q then s.servedOf e ps q + 1 + (if q = p then 1 else 0) else 0)) s.served }

/-- The command whose piece an engine takes next, among those with pieces waiting (R357). -/
def State.nextPiece (s : State) (e : Nat) (xs : List (Work × DmaJob)) : Option (Work × DmaJob) :=
  let ps := (xs.map (·.1.part)).dedup
  xs.foldl (fun o x =>
    match o with
    | none => some x
    | some y => if s.servedBefore e ps x.1.part y.1.part then some x else some y) none

/-- Pieces an engine works on (R367). -/
def State.engineLoad (s : State) (e : Nat) : Nat :=
  (s.dmaJobs.map (fun x => (x.2.flight.filter (·.engine = e)).length)).sum

def DmaJob.setFlight (j : DmaJob) (p : DmaPiece) : DmaJob :=
  { j with flight := j.flight.map (fun x => if x.n = p.n then p else x) }

/-- A fault of a data-movement command: the context's (R152). A command of the management core just ends. -/
def State.dmaFault (s : State) (w : Work) (code : BitVec 16) : State :=
  match w.ctx with
  | some c => s.ctxFault c code
  | none => s.dropWork w.id

/-- The pieces' reads have no order, and whether an engine reads for a piece when it takes it, or only when the writes
before it have been accepted, is free (R356; log 64). Where the read must wait, it is made later. -/
def State.readAhead (s : State) (w : Work) (j : DmaJob) (p : DmaPiece) (host : HostData) : State × HostData :=
  if !(bit s.freeWord 0) then (s.useFree 1, host)
  else
    match runPiece w p.engine (s.useFree 1) { j with next := p.n, probe := true, cache := [] } host with
    | .ok _ t k h => (t.setWork { w with job := .dma (j.setFlight { p with cache := k.cache }) }, h)
    | .fault c t => (t.dmaFault w c, host)
    | .ats _ => (s.useFree 1, host)
    | .wait => (s.useFree 1, host)

/-- An engine takes pieces while it may work on more at once (R356, R357, R367); one that is held, disabled or in reset
takes none. -/
def State.takePieces : Nat → State → Nat → HostData → State × HostData
  | 0, s, _, host => (s, host)
  | n + 1, s, e, host =>
    if !(bit (s.cfg .dma e 0x100) 0) || s.inHold .dma e || s.inReset .dma e ||
        field (s.cfg .dma e 0x200) 4 0 ≤ s.engineLoad e then (s, host)
    else
      let xs := s.waitingPieces (e / 8) host
      match s.nextPiece e xs with
      | none => (s, host)
      | some (w, j) =>
        let p : DmaPiece := { n := j.taken, engine := e }
        let k := { j with taken := j.taken + 1, flight := j.flight ++ [p] }
        let t := (s.serve e (xs.map (·.1.part)).dedup w.part).setWork { w with job := .dma k }
        let (u, h) := t.readAhead w k p host
        State.takePieces n u e h

/-- The piece of an engine whose writes are next in its command's output sequence (R356). -/
def State.duePiece (s : State) (e : Nat) : Option (Work × DmaJob × DmaPiece) :=
  s.dmaJobs.findSome? (fun x => (x.2.flight.find? (fun p => p.engine = e && p.n = x.2.next)).map (fun p => (x.1, x.2, p)))

/-- Slots that the pieces of a command still to be moved write, from the base of slot n: rows that an index has still to place
may reach any slot (R361). -/
def State.slotsLater (s : State) (w : Work) (j : DmaJob) (n : Nat) : List Nat :=
  if j.pieces ≤ j.next then []
  else
    match j.op with
    | .gather index count rb stride true =>
      (upFrom (j.lo / rb) (count - j.lo / rb)).flatMap (fun i =>
        match s.peekIndex w j (index + 4 * i) [] with
        | some x => slotsOf n (x * stride) rb
        | none => List.range 14)
    | .gather _ _ _ _ false => slotsOf n j.lo (j.outBytes - j.lo)
    | .copy => slotsOf n j.lo (j.outBytes - j.lo)
    | .fill => slotsOf n j.lo (j.outBytes - j.lo)
    | .store _ _ _ _ _ _ _ _ => slotsOf n j.lo (j.outBytes - j.lo)
    | .amax _ _ _ => []
    | .transpose _ _ _ _ _ => List.range 14

/-- Set TR of the slots into which a command has made its last write, where the launch that it wrote for still runs (R200,
R361). -/
def State.slotsReady (s : State) (w : Work) (j : DmaJob) : State :=
  match j.slot with
  | none => s
  | some (k, n) =>
    let later := s.slotsLater w j n
    let done := j.touched.filter (fun x => !(later.contains x))
    if done = [] || (s.core k).launch ≠ some j.run then s
    else
      let c := match s.running k with
        | none => s.core k
        | some (_, l) => (s.core k).released l s.now
      ((s.setCore k { c with arr := { c.arr with tr := done.foldl (fun m x => m ||| slotBit x) c.arr.tr } }).setWork
        { w with job := .dma { j with touched := j.touched.filter later.contains } }).arrSettle k

/-- A piece is moved; slots into which it made the last write become ready (R361). -/
def State.pieceMoved (s : State) (w : Work) (k : DmaJob) (p : DmaPiece) : State :=
  let d := { k with next := p.n + 1, flight := k.flight.filter (·.n ≠ p.n), cache := [] }
  ((s.setWork { w with job := .dma d }).addCount .dma p.engine 0x808 1).slotsReady w d

/-- An engine moves its piece whose turn it is. -/
def State.movePiece (s : State) (e : Nat) (host : HostData) : State :=
  match s.duePiece e with
  | none => s
  | some (w, j, p) =>
    match runPiece w e s { j with cache := p.cache } host with
    | .wait => s
    | .ats a => s.askAts (w.ctx.getD 0) a
    | .fault c t => t.dmaFault w c
    | .ok _ t k _ => t.pieceMoved w k p

/-- The die of a command's next piece is decided by an index in host memory: it is asked for, and kept once it is there (R151,
R356). -/
def State.planPiece (host : HostData) (s : State) (x : Work × DmaJob) : State :=
  let (w, j) := x
  let c := w.ctx.getD 0
  match j.indexAt j.taken with
  | none => s
  | some va =>
    if j.phys || j.pieces ≤ j.taken || (Tab.get none j.dies j.taken).isSome then s
    else
      match s.xlate c va .read .mover with
      | .error _ => s
      | .ok (l, a) =>
        if !l.host then s
        else if !(s.atsReady c a) then (if (s.ctx c).atsWait.isNone then s.askAts c a else s)
        else if host = [] then s
        else s.setWork { w with job := .dma { j with
          dies := Tab.set none j.dies j.taken ((s.peekIndex w j va host).map (s.dieFrom w j j.taken)) } }

/-- DMA_PIECE (R356, R357): an engine takes the pieces it may, and moves one. -/
def execDmaPiece (engine : Fin 32) (host : HostData) (s : State) : Res :=
  let (t, h) := State.takePieces 16 (s.dmaJobs.foldl (State.planPiece host) s) engine.val host
  .next (t.movePiece engine.val h)

/-- DMA_COMMAND_END (R338, R355): every write of it has been performed. -/
def execDmaCommandEnd (work : Nat) (s : State) : Res :=
  .next (match s.work work with
    | none => s
    | some w =>
      match w.job with
      | .dma j => if w.running && j.pieces ≤ j.next && !(s.writesLeft (dmaFor w)) then s.endWork w stEnded else s
      | _ => s)

/-- LAST_HOLE (R367). -/
def execLastHole (r : MbxReq) (s : State) : Res :=
  .next (s.mbxGet r .dma 1 2 (fun t e => Tab.get 0 t.lastHole e))

/-- LEN of a descriptor (R359). -/
def dmaLen (slot : List Byte) : Nat := if leAt slot 4 4 = 0 then 2 ^ 32 else leAt slot 4 4

/-- DST_SLOT: the core and the slot, where EN is set (R359). -/
def dstSlot (slot : List Byte) : Option (Nat × Nat) :=
  let v := leAt slot 40 2
  if v.testBit 15 then some (v / 16 % 512, v % 16) else none

/-- Fields that every descriptor bounds (R359, R361, R549). -/
def State.dmaBad (s : State) (c : Option Nat) (slot : List Byte) : Bool :=
  let v := leAt slot 40 2
  hdrBad (hdrOf slot) || !(zerosAt slot 44 4) || v / 8192 % 4 ≠ 0 || vaBad slot 24 ||
    (match dstSlot slot with
      | none => false
      | some (k, n) => 14 ≤ n || (match c with
        | none => true
        | some x => !((s.grantedCores (s.partOf x)).contains k)))

/-- A slot's output extent is within 64 KiB (R361). -/
def extentOk (slot : List Byte) (n : Nat) : Bool := (dstSlot slot).isNone || n ≤ 65536

/-- The destination is aligned, unless it is a slot. -/
def dstAligned (slot : List Byte) (n : Nat) : Bool := (dstSlot slot).isSome || leAt slot 24 8 % n = 0

/-- The parameter record's address is well formed (R359). -/
def auxOk (slot : List Byte) : Bool := !(vaBad slot 32) && leAt slot 32 8 % 64 = 0

/-- The job of a descriptor whose operation is known. -/
def dmaJobOf (c : Option Nat) (slot : List Byte) (op : DmaOp) : DmaJob :=
  { op := op, len := dmaLen slot, src := leAt slot 16 8, dst := leAt slot 24 8, slot := dstSlot slot
    watch := leAt slot 42 2, phys := c.isNone }

/-- COPY and FILL (R360). -/
def copyOf? (slot : List Byte) : Option DmaOp :=
  if leAt slot 32 8 = 0 && !(vaBad slot 16) && leAt slot 16 8 % 32 = 0 && dstAligned slot 32 && dmaLen slot % 32 = 0 &&
    extentOk slot (dmaLen slot) then some .copy else none

def fillOf? (slot : List Byte) : Option DmaOp :=
  if leAt slot 32 8 = 0 && leAt slot 20 4 = 0 && dstAligned slot 32 && dmaLen slot % 32 = 0 &&
    extentOk slot (dmaLen slot) then some .fill else none

/-- GATHER (R362). -/
def gatherOf? (slot aux : List Byte) : Option DmaOp :=
  let n := leAt aux 8 4
  let rb := leAt aux 12 4
  let sc := (leAt aux 24 1).testBit 0
  if auxOk slot && !(vaBad slot 16) && leAt slot 16 8 % 32 = 0 && dstAligned slot 32 && !(vaBad aux 0) &&
      leAt aux 0 8 % 4 = 0 && 1 ≤ n && n ≤ 2 ^ 24 && rb % 32 = 0 && 32 ≤ rb && rb ≤ 65536 && leAt aux 16 8 % 32 = 0 &&
      leAt aux 24 1 / 2 = 0 && zerosAt aux 25 39 && n * rb ≤ 2 ^ 32 && (sc || extentOk slot (n * rb)) then
    some (.gather (leAt aux 0 8) n rb (leAt aux 16 8) sc)
  else none

/-- Source format of STORE and AMAX (R363). -/
def srcFmt? (c : Nat) : Option Fmt := if c = 0 then some .bf16 else if c = 1 then some .fp16 else if c = 9 then some .fp32 else none

/-- Rows of a STORE or AMAX: ROW_ELEMS a multiple of 32, LEN a whole number of rows (R363). -/
def rowsOk (slot aux : List Byte) (f : Fmt) : Bool :=
  let n := leAt aux 4 4
  auxOk slot && n ≠ 0 && n % 32 = 0 && dmaLen slot % (n * srcSize f) = 0 && !(vaBad slot 16) && leAt slot 16 8 % 64 = 0 &&
    !(vaBad aux 24) && zerosAt aux 32 32 && zerosAt aux 3 1

/-- STORE (R363). -/
def storeOf? (slot aux : List Byte) : Option DmaOp :=
  let flags := leAt aux 2 1
  let cmp := flags.testBit 0
  let col := flags.testBit 1
  let re := leAt aux 4 4
  match arrFmt? (leAt aux 0 1), srcFmt? (leAt aux 1 1) with
  | some d, some f =>
    if rowsOk slot aux f && dstAligned slot 64 && flags / 4 = 0 && !(vaBad aux 8) && !(vaBad aux 16) && (d ≠ f || cmp) &&
        (!cmp || (re = rowLen d col && dmaLen slot / srcSize f / re ≤ 128)) then
      some (.store d f cmp col re (leAt aux 8 8) (leAt aux 16 8) (leAt aux 24 8))
    else none
  | some _, none => none
  | none, _ => none

/-- AMAX (R363). -/
def amaxOf? (slot aux : List Byte) : Option DmaOp :=
  match srcFmt? (leAt aux 1 1) with
  | some f => if rowsOk slot aux f then some (.amax f (leAt aux 4 4) (leAt aux 24 8)) else none
  | none => none

/-- TRANSPOSE (R364). -/
def transOf? (slot aux : List Byte) : Option DmaOp :=
  let r := leAt aux 0 4
  let c := leAt aux 4 4
  let z := 2 ^ leAt aux 8 1
  let sp := leAt aux 16 8
  let dp := leAt aux 24 8
  if auxOk slot && 1 ≤ r && r ≤ 65536 && 1 ≤ c && c ≤ 65536 && leAt aux 8 1 ≤ 2 && c * z ≤ sp && r * z ≤ dp &&
      !(vaBad slot 16) && leAt slot 16 8 % z = 0 && dstAligned slot z && zerosAt aux 9 7 && zerosAt aux 32 32 &&
      extentOk slot ((c - 1) * dp + r * z) then
    some (.transpose r c z sp dp)
  else none

/-- Some core granted to the context's partition has COL_PATH_OFF set (R226, R364). -/
def State.colPathOff (s : State) (p : Nat) : Bool := (s.grantedCores p).any (fun k => bit (s.cfg .array k 0x100) 1)

/-- Accept a data-movement command of a context (R355). -/
def State.dmaFromCtx (s : State) (c op : Nat) (parse : List Byte → List Byte → Option DmaOp) : State :=
  match s.command c with
  | none => s
  | some x =>
    if opcodeOf x.slot ≠ op then s
    else
      match (if s.dmaBad (some c) x.slot then none else parse x.slot x.aux) with
      | none => s.refuse c (hdrOf x.slot) 0x11
      | some o => s.admitPlain c x.slot (fun _ => true) (.dma (dmaJobOf (some c) x.slot o))

/-- Accept a command of the management core (R345): it has no ring slot, and is not frame work of a context. -/
def State.dmaFromMgmt (s : State) (slot aux : List Byte) (parse : List Byte → List Byte → Option DmaOp) : State :=
  let h := hdrOf slot
  match (if s.dmaBad none slot then none else parse slot aux) with
  | none => s
  | some o =>
    let (k, f) := s.slide h (s.targetFrame h slot) (fun g => s.frameCheck g (fun _ => true))
    if k = 0 then
      { s with
        works := s.works ++ [{
          id := s.nextWork, ctx := none, part := 0, frame := BitVec.ofNat 64 f, slot := 0, irqEnd := false
          running := f = s.fr.no.toNat, job := .dma (dmaJobOf none slot o) }]
        nextWork := s.nextWork + 1 }
    else s

def State.dmaCommand (s : State) (i : Issuer) (op : Nat) (parse : List Byte → List Byte → Option DmaOp) : State :=
  match i with
  | .ctx c => s.dmaFromCtx c.val op parse
  | .mgmt slot aux => s.dmaFromMgmt slot aux parse

/-- COPY (R360). -/
def execCopy (i : Issuer) (s : State) : Res := .next (s.dmaCommand i 0x10 (fun slot _ => copyOf? slot))

/-- FILL (R360). -/
def execFill (i : Issuer) (s : State) : Res := .next (s.dmaCommand i 0x11 (fun slot _ => fillOf? slot))

/-- GATHER (R362). -/
def execGather (i : Issuer) (s : State) : Res := .next (s.dmaCommand i 0x12 gatherOf?)

/-- STORE (R363). -/
def execStoreCast (i : Issuer) (s : State) : Res := .next (s.dmaCommand i 0x13 storeOf?)

/-- AMAX (R363). -/
def execAmax (i : Issuer) (s : State) : Res := .next (s.dmaCommand i 0x14 amaxOf?)

/-- TRANSPOSE (R226, R364). -/
def execTranspose (i : Issuer) (s : State) : Res :=
  .next (match i with
    | .ctx c =>
      if s.colPathOff (s.partOf c.val) then s.dmaCommand i 0x15 transOf? else s.dmaCommand i 0x15 (fun _ _ => none)
    | .mgmt _ _ => s.dmaCommand i 0x15 transOf?)

end Sys2Proof.Machine
end

