-- ==== Sys2Proof/Machine/KiteBase.lean ====
section
/-! DEFINITION. Shard groups and their records (R373, R374), the layout of a tensor's state (R375, R464, R488), leaves
(R465, R476), and the streams of Kite's staging ring (R466, R467, R470, R473). -/

namespace Sys2Proof.Machine

/-- The narrow end of a round-up. -/
def roundUp (n a : Nat) : Nat := ceilDiv n a * a

/-- SLOT_BYTES of a tensor with n elements and moments of `m` bytes (R375). -/
def slotBytes (n m : Nat) : Nat := roundUp (n * (4 + 2 * m)) 4096

/-- Offset of a row's tag pair (R375). -/
def tagOff (n m row : Nat) : Nat := 2 * slotBytes n m + 16 * row

/-- Offset of leaf k of a row (R464). -/
def leafOff (n m rows row k : Nat) : Nat := roundUp (2 * slotBytes n m + 16 * rows) 4096 + 64 * row + 32 * k

/-- Bytes of a record copy (R373). -/
def recordBytes (commit step : Nat) (p1 p2 : Word) : List Byte :=
  let b := leBytes 8 commit ++ leBytes 8 step ++ leBytes 4 p1.toNat ++ leBytes 4 p2.toNat ++ List.replicate 36 0
  b ++ leBytes 4 (crc32 b).toNat

/-- A copy is valid: its CRC matches and it reads without an uncorrectable error (R374). -/
def State.copyValid (s : State) (a : Nat) : Bool :=
  let b := s.devRead a 64
  !(s.rangePoison a 64) && leAt b 60 4 = (crc32 (b.take 60)).toNat

/-- A record's values taken from one copy. -/
def State.takeCopy (s : State) (g : Nat) (second : Bool) : State :=
  let x := s.sg g
  let b := s.devRead (x.recAddr + if second then 64 else 0) 64
  s.setSg g { x with
    ready := true, commit := leAt b 0 8, step := leAt b 8 8, p1 := BitVec.ofNat 32 (leAt b 16 4)
    p2 := BitVec.ofNat 32 (leAt b 20 4), second := second }

/-- Load a group's record (R374): the valid copy with the greater COMMIT, the first when they are equal; with no valid
copy the group is INVALID, and a Narog group raises RECORD_INVALID. Both copies are read (R371); none while a slice or a stack
cannot take the reads. -/
def State.loadRecord (s : State) (g : Nat) : Option State :=
  let a := (s.sg g).recAddr
  let v0 := s.copyValid a
  let v1 := s.copyValid (a + 64)
  let c0 := leAt (s.devRead a 64) 0 8
  let c1 := leAt (s.devRead (a + 64) 64) 0 8
  (s.agentRead false a 128).map (fun r =>
    if v0 && (!v1 || c1 ≤ c0) then r.takeCopy g false
    else if v1 then r.takeCopy g true
    else
      let t := r.setSg g { r.sg g with ready := false }
      if narogPresent s.variant then t.raise .narogSg g 0x5006 else t)

/-- The agent that writes a group's record: Narog, or Kite for a host-fed group (R374, R488). -/
def State.recordAgent (s : State) : Agent × Option Nat := (if narogPresent s.variant then .narog else .kite, none)

/-- Write the copy that was not taken, which then is the one taken (R374, R389, R490). -/
def State.flipRecord (s : State) (g commit step : Nat) (p1 p2 : Word) : State :=
  let x := s.sg g
  (s.devWrite s.recordAgent (x.recAddr + if x.second then 0 else 64) (recordBytes commit step p1 p2)).setSg g
    { x with commit := commit, step := step, p1 := p1, p2 := p2, second := !x.second }

/-- Write both copies, as INIT does (R374, R396). -/
def State.initRecord (s : State) (g commit step : Nat) (p1 p2 : Word) : State :=
  let x := s.sg g
  let b := recordBytes commit step p1 p2
  (s.devWrite s.recordAgent x.recAddr (b ++ b)).setSg g
    { x with ready := true, commit := commit, step := step, p1 := p1, p2 := p2, second := false }

/-- Current slot of a row by its tags (R377). -/
def currentSlot (commit t0 t1 : Nat) : Option Nat :=
  if t0 ≤ commit && t1 ≤ commit then some (if t0 < t1 then 1 else 0)
  else if t0 ≤ commit then some 0
  else if t1 ≤ commit then some 1
  else none

/-- KITE.CFG of a partition (R493). -/
def State.kDest (s : State) (p : Nat) : Nat := field (s.cfg .kite p 0x100) 30 29
def State.kOn (s : State) (p : Nat) : Bool := bit (s.cfg .kite p 0x100) 31 && bit (s.cfg .kite 0 0x300) 0
def State.kGateway (s : State) (p : Nat) : BitVec 15 := BitVec.setWidth 15 (s.cfg .kite p 0x100)
def State.kAdaptive (s : State) (p : Nat) : Bool := bit (s.cfg .kite p 0x100) 28

/-- An event of a KITE instance, with the group it concerns (R493, R497). -/
def State.kEvent (s : State) (p g bitNo : Nat) (code : BitVec 16) : State :=
  let m := s.latchedBefore .kite p 0x800
  (s.latch .kite p 0x800 (fun o => (o &&& ~~~(span 7 0)) ||| flag true bitNo ||| flag m 16 |||
    place ((g - s.sgBase p) % 256) 0)).raise .kite p code

/-- Bytes of the staging ring in use (R473). -/
def KPart.used (k : KPart) : Nat := (k.streams.map (fun x => x.bytes.length - x.released)).sum

/-- The staging ring has room for n bytes. -/
def KPart.room (k : KPart) (n : Nat) : Bool := k.used + n ≤ k.stage.2

/-- Open a stream of a partition: torus or host, as DEST says. -/
def State.kOpen (s : State) (p g : Nat) (host : Bool) (dest : BitVec 15) (bs : List Byte) (whole : Bool) : State :=
  let k := s.kpart p
  { s.setKpart p { k with streams := k.streams ++
      [{ id := s.nextStream, sg := g, host := host, dest := dest, bytes := bs, complete := whole }] } with
    nextStream := s.nextStream + 1 }

/-- BASE as records carry it: all ones when K is not VALID (R470). -/
def baseNum (k : Option Nat) : Nat := k.getD (2 ^ 64 - 1)

/-- OPEN of a checkpoint. -/
def KGroup.openRecord (x : KGroup) (local_ commit : Nat) : List Byte :=
  kRecord 0x01 local_ commit (leBytes 8 x.shard ++ leBytes 8 (baseNum x.base) ++ leBytes 4 x.table.length ++ [0, 0, 0, 0])

/-- ROW of a stream: row bytes padded to a multiple of 8 B (R470). -/
def rowRecord (local_ commit tensor row : Nat) (bs : List Byte) : List Byte :=
  kRecord 0x02 local_ commit (leBytes 2 tensor ++ [0, 0] ++ leBytes 4 row ++ bs ++
    List.replicate ((8 - bs.length % 8) % 8) 0)

/-- The cadence chooses a commit (R475). -/
def State.cadenceChooses (s : State) (p : Nat) (x : KGroup) (commit : Nat) : Bool :=
  !(s.kAdaptive p) || !x.sealedSince || x.base.isNone || x.interval ≤ commit - x.sealed_

/-- No room for a record of part 2: the checkpoint is abandoned and CKPT_GAP raised (R467). -/
def State.kGap (s : State) (p g : Nat) : State := ((s.kAbandon p g).addCount .kite p 0x810 1).kEvent p g 23 0x7001

/-- Phase 1 of a commit begins: an OPEN is sent when the commit is a checkpoint (R466, R467). -/
def State.kBegin (s : State) (p g commit : Nat) : State :=
  let x := s.kgroup g
  if x.shard = 0 || x.ckpt.isSome || s.inHold .kite p || s.kDest p = 0 || !(s.kOn p) || !(s.cadenceChooses p x commit) then s
  else
    let r := x.openRecord (g - s.sgBase p) commit
    if (s.kpart p).room r.length then
      (s.setKgroup g { x with ckpt := some { commit := commit, stream := s.nextStream, base := x.base } }).kOpen p g
        (s.kDest p = 2) (s.kGateway p) r false
    else s.kGap p g

/-- A row that phase 1 writes joins the open checkpoint of its commit. -/
def State.kRow (s : State) (p g commit tensor row : Nat) (bs : List Byte) : State :=
  let x := s.kgroup g
  match x.ckpt with
  | none => s
  | some c =>
    if c.commit ≠ commit || c.flipped then s
    else
      let r := rowRecord (g - s.sgBase p) commit tensor row bs
      if (s.kpart p).room r.length then
        (s.setKgroup g { x with ckpt := some { c with rows := c.rows ++ [(tensor, row)], count := c.count + 1 } }).kAppend
          p c.stream r false
      else s.kGap p g

/-- The commit header (R466). -/
def kHeader (shard commit step : Nat) (p1 p2 : Word) (n : RngSnap) (tcount : Nat) : List Byte :=
  leBytes 8 shard ++ leBytes 8 commit ++ leBytes 8 step ++ leBytes 4 p1.toNat ++ leBytes 4 p2.toNat ++
    leBytes 8 n.cursor.toNat ++ leBytes 8 n.seed.toNat ++ leBytes 1 (if n.mode then 1 else 0) ++ [0, 0, 0] ++
    leBytes 4 tcount ++ n.pos.flatMap (fun v => leBytes 8 v.toNat) ++ n.rate.flatMap (fun v => leBytes 4 v.toNat) ++
    List.replicate 24 0

/-- The flips a group keeps for its cadence: the last 17 (R475). -/
def KGroup.noteFlip (x : KGroup) (now : Nat) : KGroup :=
  { x with flips := (x.flips ++ [now]).drop ((x.flips.length + 1) - 17) }

/-- Header of the commit that a group's record holds now. -/
def State.headerNow (s : State) (p g : Nat) : List Byte :=
  let r := s.sg g
  let x := s.kgroup g
  kHeader x.shard r.commit r.step r.p1 r.p2 (s.kpart p).snap x.table.length

/-- A flip: the open checkpoint takes its header and goes on to its sweep (R466, R475). -/
def State.kFlipped (s : State) (p g commit : Nat) : State :=
  let x := (s.kgroup g).noteFlip s.now
  s.setKgroup g { x with ckpt := x.ckpt.map (fun c =>
    if c.commit = commit then { c with flipped := true, header := s.headerNow p g, flippedAt := s.now } else c) }

/-- Rows of an armed group's table. -/
def KGroup.rows (x : KGroup) : Nat := (x.table.map (·.rows)).sum

/-- The sweep of C holds back phase 1 of commit C + 2 and later until it has read its last row (R468). -/
def KGroup.sweepHolds (x : KGroup) (commit : Nat) : Bool :=
  match x.ckpt with
  | none => false
  | some c => c.flipped && c.commit + 2 ≤ commit && c.swept < x.rows

end Sys2Proof.Machine
end

