-- ==== Sys2Proof/Machine/Narog.lean ====
section
/-! DEFINITION. The Narog update companion: commands and their admission (R385, R387), the recurrence and rule programs
(R378 to R383), working copies (R384), the commit and its outcomes (R389 to R391), and the items of a group (R396). -/

namespace Sys2Proof.Machine

/-- A step of a job: what it answers, or the fault that ends it. A step that waits changes nothing and is made again. -/
inductive NRes (α : Type) where
  | ok (v : α) (s : State)
  | fault (code : BitVec 16) (s : State)
  | wait
  deriving DecidableEq, Repr

def NRes.andThen {α β : Type} (r : NRes α) (f : α → State → NRes β) : NRes β :=
  match r with
  | .ok v s => f v s
  | .fault c s => .fault c s
  | .wait => .wait

/-- Run a step for each item, in order. -/
def nEach {α : Type} (f : α → State → NRes Unit) : List α → State → NRes Unit
  | [], s => .ok () s
  | x :: xs, s => (f x s).andThen fun _ t => nEach f xs t

/-- Pages of a range, to hold their translations. -/
def pagesOf (va n : Nat) : List (Nat × Nat) :=
  if n = 0 then [] else (upFrom (va / 4096) ((va + n - 1) / 4096 + 1 - va / 4096)).map (fun g => (0, 4096 * g))

/-- Read a range of a context as `k`: the errors of R151, R334, R352 and R371; a read that a slice or a stack cannot take
is made again (R323, R329, R348); each line is read as ARD or from its package (R318). R151 says nothing of a HOST page
that a collective or Narog meets: it is a TRANSLATE_FAULT, as for a core. DESIGN CHOICE (log 167). -/
def State.vaRead (s : State) (k : Party) (c va n : Nat) : NRes (List Byte) :=
  match s.xlateRange c va n .read k with
  | .error e => .fault e (s.walkRange c va n)
  | .ok ps =>
    if ps.any (·.1) then .fault 0x3013 (s.walkRange c va n)
    else
      match ps.findSome? (fun p => s.bulkFault p.2.1 p.2.2), s.agentReads true (ps.map (·.2)) with
      | some e, r => if e = 0x300C && r.isNone then .wait else .fault e (ps.foldl (fun t p => t.noteFault p.2.1 p.2.2 e) s)
      | none, some t => .ok (ps.flatMap (fun p => s.devRead p.2.1 p.2.2)) (t.holdAll c (pagesOf va n))
      | none, none => .wait

/-- Write a range of a context as `k`, for the agent `who` (R318, R346, R352). -/
def State.vaWrite (s : State) (k : Party) (who : Agent) (c va : Nat) (bs : List Byte) : NRes Unit :=
  match s.xlateRange c va bs.length .write k with
  | .error e => .fault e (s.walkRange c va bs.length)
  | .ok ps =>
    if ps.any (·.1) then .fault 0x3013 (s.walkRange c va bs.length)
    else if ps.any (fun p => s.edgePoison p.2.1 p.2.2) then
      .fault 0x300C (ps.foldl (fun t p => if s.edgePoison p.2.1 p.2.2 then t.noteFault p.2.1 p.2.2 0x300C else t) s)
    else .ok () ((ps.foldl (fun (q : State × List Byte) p => (q.1.devWrite (who, some c) p.2.1 (q.2.take p.2.2), q.2.drop p.2.2))
      (s, bs)).1.holdAll c (pagesOf va bs.length))

/-- Narog's reads and writes (R370). -/
def State.narogRead (s : State) (c va n : Nat) : NRes (List Byte) := s.vaRead .mover c va n
def State.narogWrite (s : State) (c va : Nat) (bs : List Byte) : NRes Unit := s.vaWrite .mover .narog c va bs

/-- A Narog job by its work number. -/
def State.narogJob (s : State) (id : Nat) : Option (Work × NarogJob) :=
  match s.work id with
  | none => none
  | some w =>
    match w.job with
    | .narog j => some (w, j)
    | .launch _ => none
    | .sort _ => none
    | .dma _ => none
    | .coll _ => none

/-- Change a Narog job. -/
def State.updNarog (s : State) (id : Nat) (f : NarogJob → NarogJob) : State :=
  match s.narogJob id with
  | none => s
  | some (w, j) => s.setWork { w with job := .narog (f j) }

/-- NAROG.SG_CFG as it reads (R394, R396). -/
def State.sgCfg (s : State) (g : Nat) : Word :=
  s.cfg .narogSg g 0x100 ||| (if s.variant = .l7140 then 4 else 0)

def State.sgReg (s : State) (g off : Nat) : Word := s.cfg .narogSg g off

/-- Bytes of a moment. -/
def State.msz (s : State) (g : Nat) : Nat := if bit (s.sgCfg g) 3 then 2 else 4

def one32 : Word := 0x3F800000

/-- Scalars of an UPDATE (R378): clip, bc1, bc2. -/
structure Scalars where
  clip : Word
  bc1 : Word
  bc2 : Word
  deriving DecidableEq, Repr

/-- a ≤ b of two FP32 values. -/
def fle (a b : Word) : Bool := Num.lt (.ofF32 a) (.ofF32 b) || Num.eq (.ofF32 a) (.ofF32 b)

/-- clip from the global sum (R378). -/
def clipOf (max n : Word) : Word := if fle n (fmul max max) then one32 else fmul max (special .rsqrt n)

/-- Bias correction (R378). -/
def biasOf (en : Bool) (p : Word) : Word := if en then special .rcp (fsub one32 p) else one32

/-- Scalars of a group whose new products are p1 and p2. -/
def State.scalars (s : State) (g : Nat) (n : Option Word) (p1 p2 : Word) : Scalars :=
  { clip := match n with | none => one32 | some v => clipOf (s.sgReg g 0x144) v
    bc1 := biasOf (bit (s.sgReg g 0x104) 0) p1, bc2 := biasOf (bit (s.sgReg g 0x104) 1) p2 }

/-- Master, m and v of one element. -/
structure Elem where
  w : Word
  m : Word
  v : Word
  deriving DecidableEq, Repr

/-- A nonzero coefficient: the rule compares its value with 0. -/
def nonzero (a : Word) : Bool := !((Num.ofF32 a).isZero)

/-- One element in rule-table mode (R379). -/
def State.ruleTable (s : State) (g : Nat) (k : Scalars) (dec : Bool) (grad : Word) (e : Elem) : Elem :=
  let r := s.sgReg g
  let g0 := fmul (fmul grad k.clip) (r 0x140)
  let g1 := if nonzero (r 0x13C) && dec then ffma (r 0x13C) e.w g0 else g0
  let m := ffma (r 0x124) g1 (fmul (r 0x120) e.m)
  let v := ffma (r 0x12C) (fmul g1 g1) (fmul (r 0x128) e.v)
  let mh := fmul m k.bc1
  let vh := fmul v k.bc2
  let mode := field (r 0x104) 3 2
  let d :=
    if mode = 0 then mh
    else if mode = 1 then fmul mh (special .rcp (fadd (special .sqrt vh) (r 0x130)))
    else fmul mh (special .rsqrt (fadd vh (r 0x130)))
  let u := if nonzero (r 0x138) && dec then ffma (r 0x138) e.w d else d
  { w := ffma (Num.ofF32 (r 0x134)).neg.f32 u e.w, m := m, v := v }

/-- What a program reads and writes (R381): r0 to r7, G, W, M, V. -/
structure ProgState where
  r : List Word
  g : Word
  e : Elem
  deriving DecidableEq, Repr

/-- Value of an operand code (R381). -/
def ProgState.read (x : ProgState) (k : Scalars) (dec : Bool) (consts : List Word) (c : Nat) : Word :=
  if c < 8 then x.r.getD c 0
  else if c = 8 then x.g
  else if c = 9 then x.e.w
  else if c = 10 then x.e.m
  else if c = 11 then x.e.v
  else if c = 12 then k.clip
  else if c = 13 then k.bc1
  else if c = 14 then k.bc2
  else if c = 15 then (if dec then one32 else 0)
  else consts.getD (c - 16) 0

def ProgState.write (x : ProgState) (c : Nat) (v : Word) : ProgState :=
  if c < 8 then { x with r := x.r.set c v }
  else if c = 9 then { x with e := { x.e with w := v } }
  else if c = 10 then { x with e := { x.e with m := v } }
  else if c = 11 then { x with e := { x.e with v := v } }
  else x

/-- MIN and MAX of R382: NaN if either is NaN; of two zeros of unlike sign, a value the manual leaves open (log 11). -/
def minMax (max : Bool) (a b : Word) : Word :=
  let x := Num.ofF32 a
  let y := Num.ofF32 b
  if x.isNan || y.isNan then 0x7FC00000
  else if x.isZero && y.isZero && a ≠ b then Config.minMaxZero max a b
  else if Num.lt x y then (if max then b else a)
  else (if max then a else b)

/-- A value as an operation hands it on: a NaN loses its sign and payload (R240). -/
def canon32 (a : Word) : Word := (Num.ofF32 a).f32

/-- Result of an operation (R382), a NaN result canonical (R240); NOP is handled by its caller. -/
def progOp (op : Nat) (a b c : Word) : Word :=
  match op with
  | 0x01 => fadd a b
  | 0x02 => fsub a b
  | 0x03 => fmul a b
  | 0x04 => ffma a b c
  | 0x05 => ffma (Num.ofF32 a).neg.f32 b c
  | 0x06 => minMax false a b
  | 0x07 => minMax true a b
  | 0x08 => (absVal (.ofF32 a)).f32
  | 0x09 => (Num.ofF32 a).neg.f32
  | 0x0A =>
    if Num.lt (.ofF32 0) (.ofF32 a) then one32 else if Num.lt (.ofF32 a) (.ofF32 0) then 0xBF800000 else canon32 a
  | 0x0B => special .rcp a
  | 0x0C => special .sqrt a
  | 0x0D => special .rsqrt a
  | 0x0E => special .exp2 a
  | 0x0F => special .log2 a
  | 0x10 => canon32 (if Num.lt (.ofF32 0) (.ofF32 a) then b else c)
  | _ => canon32 a

/-- A word is defined (R382, R383). -/
def progWordOk (i : Word) : Bool :=
  let d := field i 25 21
  field i 31 26 ≤ 0x11 && field i 5 0 = 0 && (d < 8 || (9 ≤ d && d ≤ 11))

/-- The program of a group. -/
def State.program (s : State) (g : Nat) : List Word :=
  (List.range (field (s.sgReg g 0x104) 14 8)).map (fun i => s.sgReg g (0x200 + 4 * i))

def State.programOk (s : State) (g : Nat) : Bool :=
  let n := field (s.sgReg g 0x104) 14 8
  1 ≤ n && n ≤ 64 && (s.program g).all progWordOk

/-- One word of a program. -/
def progStep (k : Scalars) (dec : Bool) (consts : List Word) (x : ProgState) (i : Word) : ProgState :=
  let rd (hi lo : Nat) := x.read k dec consts (field i hi lo)
  if field i 31 26 = 0 then x
  else x.write (field i 25 21) (progOp (field i 31 26) (rd 20 16) (rd 15 11) (rd 10 6))

/-- One element in rule-program mode (R381). -/
def State.ruleProgram (s : State) (g : Nat) (k : Scalars) (dec : Bool) (grad : Word) (e : Elem) : Elem :=
  let consts := (List.range 16).map (fun i => s.sgReg g (0x180 + 4 * i))
  ((s.program g).foldl (progStep k dec consts) { r := List.replicate 8 0, g := grad, e := e }).e

/-- A tensor record (R386). -/
structure TRec where
  state : Nat
  grad : Nat
  wc : Nat
  scale : Nat
  rows : Nat
  elems : Nat
  listVa : Nat
  listN : Nat
  wcFmt : Fmt
  noDecay : Bool
  watch : Nat
  deriving DecidableEq, Repr

/-- Format of a working copy (R386). -/
def wcFmt? (c : Nat) : Option Fmt := if c = 0 then some .bf16 else if c = 2 then some .e4m3 else if c = 3 then some .e5m2 else none

/-- Decode a tensor record; none where it breaks R386: a bit outside a field breaks it whatever uses the field (R549). -/
def tRecOf (cast : Bool) (b : List Byte) : Option TRec :=
  match wcFmt? (leAt b 52 1) with
  | none => none
  | some f =>
    let rows := leAt b 32 4
    let el := leAt b 36 4
    let lv := leAt b 40 8
    let ln := leAt b 48 4
    if vaBad b 0 || leAt b 0 8 % 4096 ≠ 0 || vaBad b 8 || (!cast && leAt b 8 8 % 128 ≠ 0) || vaBad b 16 ||
        leAt b 16 8 % 128 ≠ 0 || vaBad b 24 || rows = 0 || 2 ^ 28 < rows || el % 32 ≠ 0 || el < 32 ||
        65536 < el || vaBad b 40 || lv % 4 ≠ 0 || (lv ≠ 0 && (ln = 0 || rows < ln)) || leAt b 53 1 / 2 ≠ 0 ||
        !(zerosAt b 56 8) then none
    else some { state := leAt b 0 8, grad := leAt b 8 8, wc := leAt b 16 8, scale := leAt b 24 8, rows := rows, elems := el
                listVa := lv, listN := ln, wcFmt := f, noDecay := leAt b 53 1 % 2 = 1, watch := leAt b 54 2 }

/-- Bytes of a tensor's state area (R375). -/
def TRec.area (t : TRec) (m : Nat) : Nat := 2 * slotBytes (t.rows * t.elems) m + 16 * t.rows

/-- The leaf at which a walk ends names a page of the slow-tier window. -/
def State.leafSlow (s : State) (c va : Nat) : Bool :=
  let l := s.tableReads (s.partOf c) va [39, 30, 21, 12] (s.ctx c).ptRoot
  match l.getLast? with
  | none => false
  | some ea =>
    let e := leNat (s.cohRead ea 8)
    (l.length = 4 || e / 128 % 2 = 1) && isSlow s.variant (e / 4096 % 2 ^ 40 * 4096 +
      va % 2 ^ ([39, 30, 21, 12].getD (l.length - 1) 12) / 4096 * 4096)

/-- The state area translates wholly into the slow-tier window (R386). What reaches elsewhere, or nowhere, breaks the
record; a leaf in the window outside the grant is a GRANT_FAULT (R370), and what the walk itself meets stays what it is
(R334, R352). -/
def State.areaCheck (s : State) (c : Nat) (t : TRec) (m : Nat) : Option (BitVec 16) :=
  (upFrom (t.state / 4096) (ceilDiv (t.area m) 4096)).findSome? (fun g =>
    match s.xlate c (4096 * g) .read .mover with
    | .error e => some (if e = 0x3013 || (e = 0x3014 && !(s.leafSlow c (4096 * g))) then 0x300E else e)
    | .ok (l, a) => if l.host || !(isSlow s.variant a) then some 0x300E else none)

/-- Physical address of a virtual one, for the match with a Kite table: none for a HOST page; or the fault of its walk
(R151). -/
def State.physOf (s : State) (c va : Nat) : Except (BitVec 16) (Option Nat) :=
  match s.xlate c va .read .mover with
  | .error e => .error e
  | .ok (l, a) => .ok (if l.host then none else some a)

/-- The entry of an armed group's table that a record matches (R464); none is a NAROG_FORMAT. -/
def State.kiteEntry (s : State) (c : Nat) (x : KGroup) (t : TRec) : Except (BitVec 16) (Option (Nat × KTensor)) :=
  match x.table.zipIdx.find? (fun e => s.physOf c t.state = .ok (some e.1.state)) with
  | none => .ok none
  | some e =>
    if e.1.rows ≠ t.rows || e.1.elems ≠ t.elems || e.1.wcFmt ≠ t.wcFmt then .ok none
    else
      match s.physOf c t.wc, (if t.wcFmt = .bf16 then .ok (some e.1.scale) else s.physOf c t.scale) with
      | .error f, _ => .error f
      | .ok _, .error f => .error f
      | .ok a, .ok b => .ok (if a = some e.1.wc && b = some e.1.scale then some (e.2, e.1) else none)

/-- The rows of a record: all, or those of its list, strictly ascending and below ROWS (R386). -/
def State.rowsOf (s : State) (c : Nat) (t : TRec) : NRes (List Nat) :=
  if t.listVa = 0 then .ok (List.range t.rows) s
  else (s.narogRead c t.listVa (4 * t.listN)).andThen fun b u =>
    let rs := (List.range t.listN).map (fun i => leAt b (4 * i) 4)
    if rs.all (· < t.rows) && (rs.zip rs.tail).all (fun p => p.1 < p.2) then .ok rs u else .fault 0x300E u

def words32 (b : List Byte) (n : Nat) : List Word := (List.range n).map (fun i => BitVec.ofNat 32 (leAt b (4 * i) 4))
def words16 (b : List Byte) (n : Nat) : List Word := (List.range n).map (fun i => BitVec.ofNat 32 (leAt b (2 * i) 2))

/-- Masters of a row in a slot, rejoined (R375, R376). -/
def State.readMasters (s : State) (c : Nat) (split : Bool) (base n row el : Nat) : NRes (List Word) :=
  if split then
    (s.narogRead c (base + 2 * row * el) (2 * el)).andThen fun h t =>
    (t.narogRead c (base + 2 * n + 2 * row * el) (2 * el)).andThen fun l u =>
      .ok (((words16 h el).zip (words16 l el)).map (fun (p : Word × Word) => (p.1 <<< (16 : Nat)) ||| p.2)) u
  else (s.narogRead c (base + 4 * row * el) (4 * el)).andThen fun b t => .ok (words32 b el) t

/-- Moments of a row, widened (R375, R376). -/
def State.readMoments (s : State) (c : Nat) (m16 : Bool) (va el : Nat) : NRes (List Word) :=
  if m16 then (s.narogRead c va (2 * el)).andThen fun b t => .ok ((words16 b el).map (fun w => (Num.ofBf16 w).f32)) t
  else (s.narogRead c va (4 * el)).andThen fun b t => .ok (words32 b el) t

/-- Bytes of moments as stored (R376). -/
def momentBytes (m16 : Bool) (ws : List Word) : List Byte :=
  if m16 then ws.flatMap (fun w => leBytes 2 ((Num.ofF32 w).toWide .bf16).1) else ws.flatMap (fun w => leBytes 4 w.toNat)

/-- A stored moment is not finite. -/
def momentBad (m16 : Bool) (w : Word) : Bool :=
  notFinite (if m16 then Num.ofCode .bf16 ((Num.ofF32 w).toWide .bf16).1 else .ofF32 w)

def State.writeMasters (s : State) (c : Nat) (split : Bool) (base n row el : Nat) (ws : List Word) : NRes Unit :=
  if split then
    (s.narogWrite c (base + 2 * row * el) (ws.flatMap (fun w => leBytes 2 (w.toNat / 65536)))).andThen fun _ t =>
      t.narogWrite c (base + 2 * n + 2 * row * el) (ws.flatMap (fun w => leBytes 2 (w.toNat % 65536)))
  else s.narogWrite c (base + 4 * row * el) (ws.flatMap (fun w => leBytes 4 w.toNat))

/-- One block of 32 elements of a working copy: its bytes, its scale, its counts (R384). -/
structure WcBlock where
  bytes : List Byte
  scale : Nat
  nz : Nat
  counts : Counts
  deriving DecidableEq, Repr

def wcBlock (f : Fmt) (ws : List Word) : WcBlock :=
  let r := dmaCast f .fp32 false (ws.map Num.ofF32)
  { bytes := packCodes f r.codes, scale := r.scale, nz := (r.codes.filter (fun x => present f x r.scale)).length
    counts := r.counts }

/-- Working copies of a row (R384), with the counts of the codes written (R249, R401). -/
def State.writeCopies (s : State) (w : Work) (t : TRec) (row : Nat) (ws : List Word) : NRes Unit :=
  let c := w.ctx.getD 0
  let f := t.wcFmt
  nEach (fun i u =>
    let b := wcBlock f ((ws.drop (32 * i)).take 32)
    let n := row * (t.elems / 32) + i
    (u.narogWrite c (t.wc + 4 * f.width * n) b.bytes).andThen fun _ u =>
    let u := (u.report w.part w.frame t.watch f 32 b.nz b.counts).updNarog w.id (fun j => { j with wroteWc := true })
    if f.isNarrow then u.narogWrite c (t.scale + n) [BitVec.ofNat 8 b.scale] else .ok () u)
    (List.range (t.elems / 32)) s

/-- Where the parts of a row's state lie. -/
structure RowPlace where
  split : Bool
  m16 : Bool
  n : Nat
  slot : Nat
  deriving DecidableEq, Repr

def State.placeOf (s : State) (g : Nat) (t : TRec) : RowPlace :=
  { split := bit (s.sgCfg g) 2, m16 := bit (s.sgCfg g) 3, n := t.rows * t.elems
    slot := slotBytes (t.rows * t.elems) (s.msz g) }

def RowPlace.m (p : RowPlace) : Nat := if p.m16 then 2 else 4

/-- Address of the moments of a row in a slot: m, then v (R375). -/
def RowPlace.mom (p : RowPlace) (base row el which : Nat) : Nat := base + 4 * p.n + which * p.n * p.m + row * el * p.m

/-- New values of a row's elements. -/
def State.newRow (s : State) (g : Nat) (k : Scalars) (dec : Bool) (grads : List Word) (es : List Elem) : List Elem :=
  (grads.zip es).map (fun x =>
    if field (s.sgCfg g) 1 0 = 1 then s.ruleProgram g k dec x.1 x.2 else s.ruleTable g k dec x.1 x.2)

/-- Row bytes of R476. -/
def rowBytes (m16 : Bool) (es : List Elem) : List Byte :=
  es.flatMap (fun e => leBytes 4 e.w.toNat) ++ momentBytes m16 (es.map (·.m)) ++ momentBytes m16 (es.map (·.v))

/-- The row's leaf and its record, for an armed group (R465, R466). -/
def State.teeRow (s : State) (w : Work) (j : NarogJob) (p : RowPlace) (entry : Option (Nat × KTensor)) (row sh : Nat)
    (es : List Elem) : State :=
  match entry with
  | none => s
  | some (i, x) =>
    let bs := rowBytes p.m16 es
    (s.devWrite (.kite, none) (x.state + leafOff p.n p.m x.rows row sh) (sha256 bs)).kRow w.part j.sg ((s.sg j.sg).commit + 1) i row bs

/-- Process one row (R377, R389): tags and current slot, the rule, the shadow slot and its tag, the working copies. A
CAST reads the masters alone. -/
def State.narogRow (s : State) (w : Work) (j : NarogJob) (k : Scalars) (t : TRec) (entry : Option (Nat × KTensor))
    (row : Nat) : NRes Unit :=
  let c := w.ctx.getD 0
  let p := s.placeOf j.sg t
  let commit := (s.sg j.sg).commit
  let el := t.elems
  (s.narogRead c (t.state + 2 * p.slot + 16 * row) 16).andThen fun tg s =>
  match currentSlot commit (leAt tg 0 8) (leAt tg 8 8) with
  | none => .fault 0x300E s
  | some cur =>
    let base := t.state + cur * p.slot
    (s.readMasters c p.split base p.n row el).andThen fun ws s =>
    if j.cast then
      (s.writeCopies w t row ws).andThen fun _ s => .ok () (s.addCount .narog 0 0x80C el)
    else
      (s.narogRead c (t.grad + 4 * row * el) (4 * el)).andThen fun gb s =>
      (s.readMoments c p.m16 (p.mom base row el 0) el).andThen fun ms s =>
      (s.readMoments c p.m16 (p.mom base row el 1) el).andThen fun vs s =>
        let old := (ws.zip (ms.zip vs)).map (fun x => ({ w := x.1, m := x.2.1, v := x.2.2 } : Elem))
        let new := s.newRow j.sg k (!t.noDecay) (words32 gb el) old
        let sh := 1 - cur
        let out := t.state + sh * p.slot
        (s.writeMasters c p.split out p.n row el (new.map (·.w))).andThen fun _ s =>
        (s.narogWrite c (p.mom out row el 0) (momentBytes p.m16 (new.map (·.m)))).andThen fun _ s =>
        (s.narogWrite c (p.mom out row el 1) (momentBytes p.m16 (new.map (·.v)))).andThen fun _ s =>
        (s.narogWrite c (t.state + 2 * p.slot + 16 * row + 8 * sh) (leBytes 8 (commit + 1))).andThen fun _ s =>
          let bad := new.any (fun e => notFinite (.ofF32 e.w) || momentBad p.m16 e.m || momentBad p.m16 e.v)
          let s := (s.teeRow w j p entry row sh new).addCount .narog 0 0x80C el
          (if bad then s.updNarog w.id (fun x => { x with nonfin := true }) else s).writeCopies w t row (new.map (·.w))

/-- One tensor of a job (R386). -/
def State.narogTensor (s : State) (w : Work) (j : NarogJob) (k : Scalars) (i : Nat) : NRes Unit :=
  let c := w.ctx.getD 0
  let s := s.updNarog w.id (fun x => { x with tensor := i })
  (s.narogRead c (j.tlist + 64 * i) 64).andThen fun b s =>
  match tRecOf j.cast b with
  | none => .fault 0x300E s
  | some t =>
    match s.areaCheck c t (s.msz j.sg) with
    | some e => .fault e (s.walkRange c t.state (t.area (s.msz j.sg)))
    | none =>
      let x := s.kgroup j.sg
      let s := s.holdAll c (pagesOf t.state (t.area (s.msz j.sg)))
      match (if x.shard = 0 then .ok none else s.kiteEntry c x t) with
      | .error e => .fault e ((s.walkReads c t.wc).walkReads c t.scale)
      | .ok entry =>
        if x.shard ≠ 0 && entry.isNone then .fault 0x300E s
        else (s.rowsOf c t).andThen fun rs s => nEach (fun r s => s.narogRow w j k t entry r) rs s

/-- The sum of squares an UPDATE clips by: none without CLIP; a RESULT when there is none to use (R378, R388, R412). -/
def State.clipNorm (s : State) (w : Work) (j : NarogJob) : Except Nat (Option Word) :=
  if j.cast || j.clip = 0 then .ok none
  else
    let n? := if j.clip = 2 then some j.normSq
      else
        let p := s.part w.part
        if p.normValid && p.norm.map (·.1) = some (s.stepOf w.part w.frame) then p.norm.map (·.2) else none
    match n? with
    | none => .error 6
    | some n => if notFinite (.ofF32 n) then .error 1 else .ok (some n)

/-- Why a job that starts writes nothing, or the sum it clips by (R383, R387, R388). -/
def State.narogReady (s : State) (w : Work) (j : NarogJob) : Except Nat (Option Word) :=
  if !((s.sg j.sg).ready) then .error 5
  else if !j.cast && field (s.sgCfg j.sg) 1 0 = 1 && !(s.programOk j.sg) then .error 4
  else s.clipNorm w j

/-- A job ends its phases with a RESULT. -/
def State.narogStop (s : State) (id r : Nat) : State := s.updNarog id (fun j => { j with phase := .ended r })

/-- A job may start (R387, R468): Narog enabled, no hold, its frame open, no earlier job of its group, and no sweep that
its commit must wait for. -/
def State.narogMayStart (s : State) (w : Work) (j : NarogJob) : Bool :=
  narogPresent s.variant && w.frame = s.fr.no && j.phase = .waiting && bit (s.cfg .narog 0 0x100) 0 &&
    !(s.inHold .narog 0) && !(s.inHold .narogSg j.sg) &&
    s.works.all (fun v => w.id ≤ v.id || (match v.job with
      | .narog x => x.sg ≠ j.sg
      | .launch _ => true
      | .sort _ => true
      | .dma _ => true
      | .coll _ => true)) &&
    (j.cast || !((s.kgroup j.sg).sweepHolds ((s.sg j.sg).commit + 1)))

/-- Phase 1 with its scalars (R378, R389); none while a line it reads is still being changed. -/
def State.narogPhase1 (s : State) (w : Work) (j : NarogJob) (n : Option Word) : Option State :=
  let g := s.sg j.sg
  let p1 := fmul g.p1 (s.sgReg j.sg 0x120)
  let p2 := fmul g.p2 (s.sgReg j.sg 0x128)
  let k := s.scalars j.sg n p1 p2
  let s := s.updNarog w.id (fun x => { x with phase := .writing, t := g.step + 1, p1 := p1, p2 := p2 })
  let s := if j.cast then s else s.kBegin w.part j.sg (g.commit + 1)
  match nEach (fun i s => s.narogTensor w j k i) (List.range j.tcount) s with
  | .ok _ t => some t
  | .fault e t => some (t.ctxFault (w.ctx.getD 0) e)
  | .wait => none

/-- NAROG_JOB_START (R387, R389). -/
def execNarogJobStart (work : Nat) (s : State) : Res :=
  .next (match s.narogJob work with
    | none => s
    | some (w, j) =>
      if s.narogMayStart w j then
        let t := s.setWork { w with running := true }
        match t.narogReady w j with
        | .error r => t.narogStop work r
        | .ok n => (t.narogPhase1 { w with running := true } j n).getD s
      else s)

/-- NAROG_WRITE_DONE (R389, R390), once every write of phase 1 has been accepted: a CAST is done; an UPDATE ends NONFINITE, or flips when phase 1 ended by cycle
L_f − 512, or waits. -/
def execNarogWriteDone (work : Nat) (s : State) : Res :=
  .next (match s.narogJob work with
    | none => s
    | some (w, j) =>
      if j.phase ≠ .writing || s.writesHeld (.narog, w.ctx) then s
      else if j.cast then s.narogStop work 0
      else if j.nonfin && bit (s.sgCfg j.sg) 4 then s.narogStop work 2
      else if s.fr.cycle + 512 ≤ s.frameLen then s.updNarog work (fun x => { x with phase := .flipping })
      else s)

/-- NAROG_FLIP (R389): the record write is accepted and the step is committed. -/
def execNarogFlip (work : Nat) (s : State) : Res :=
  .next (match s.narogJob work with
    | none => s
    | some (w, j) =>
      if j.phase ≠ .flipping then s
      else
        let c := (s.sg j.sg).commit + 1
        (((s.flipRecord j.sg c j.t j.p1 j.p2).addCount .narog 0 0x804 1).kFlipped w.part j.sg c).narogStop work 0)

/-- NAROG_REPORT (R391), once its writes are visible to every reader (R338). -/
def execNarogReport (work : Nat) (s : State) : Res :=
  .next (match s.narogJob work with
    | none => s
    | some (w, j) =>
      match j.phase with
      | .ended _ => if s.writesLeft (.narog, w.ctx) then s else s.endWork w stEnded
      | .waiting => s
      | .writing => s
      | .flipping => s)

/-- The job a slot of UPDATE or CAST describes; none when a field is out of range (R385, R387). -/
def State.narogOf (s : State) (c : Nat) (cast : Bool) (slot : List Byte) : Option NarogJob :=
  let p := s.partOf c
  let sg := leAt slot 4 2
  let n := leAt slot 24 4
  let clip := leAt slot 28 1
  if hdrBad (hdrOf slot) || !(othersZero slot [(4, 2), (8, 8), (16, 8), (24, 4), (28, 1), (32, 4)]) || s.sgCount p ≤ sg ||
      vaBad slot 16 || leAt slot 16 8 % 64 ≠ 0 || n = 0 || 4096 < n || 2 < clip || (cast && clip ≠ 0) then none
  else some { cast := cast, sg := s.sgBase p + sg, tlist := leAt slot 16 8, tcount := n, clip := clip
              normSq := BitVec.ofNat 32 (leAt slot 32 4) }

def State.narogAdmit (s : State) (c : Nat) (cast : Bool) (slot : List Byte) : State :=
  match s.narogOf c cast slot with
  | none => s.refuse c (hdrOf slot) 0x11
  | some j => s.admitNotStarted c slot (fun f => cast || s.kindOf (s.partOf c) f = .update) (.narog j)

/-- UPDATE (R387). -/
def execUpdate (c : CtxId) (s : State) : Res :=
  .next (if narogPresent s.variant then s.onCommand c.val 0x40 (s.narogAdmit c.val false) else s)

/-- CAST (R387). -/
def execCast (c : CtxId) (s : State) : Res :=
  .next (if narogPresent s.variant then s.onCommand c.val 0x41 (s.narogAdmit c.val true) else s)

/-- A group is BUSY (R396): one of its jobs has started and has not ended. -/
def State.sgBusy (s : State) (g : Nat) : Bool :=
  s.works.any (fun w => match w.job with
    | .narog j => j.sg = g && j.phase ≠ .waiting
    | .launch _ => false
    | .sort _ => false
    | .dma _ => false
    | .coll _ => false)

/-- An address for a group's record (R373): aligned to 128 B, inside the slow-tier grant of its partition. -/
def State.recordOk (s : State) (g a : Nat) : Bool :=
  match s.partOfSg g with
  | none => false
  | some p => a % 128 = 0 && s.grantedSlow p a && s.grantedSlow p (a + 127)

/-- RECORD_ADDR (R374, R396). -/
def execRecordAddr (r : MbxReq) (s : State) : Res :=
  .next (s.mbxRun r .narogSg { num := 1, read := true, write := true, len := 2 } (fun g wr ws t =>
    if t.sgBusy g then itemBad t
    else if !wr then itemRead t (wordsOf 2 (t.sg g).recAddr)
    else if !(t.recordOk g (natOf ws)) then itemBad t
    else
      let u := t.setSg g { t.sg g with recAddr := natOf ws }
      itemDone ((u.loadRecord g).getD u)))

/-- LOAD (R374, R396). -/
def execLoadRecord (r : MbxReq) (s : State) : Res :=
  .next (s.mbxRun r .narogSg { num := 2, read := false, write := true, len := 1 } (fun g _ _ t =>
    if t.sgBusy g || !(t.recordOk g (t.sg g).recAddr) then itemBad t
    else itemDone ((t.loadRecord g).getD t)))

/-- INIT (R396). -/
def execInit (r : MbxReq) (s : State) : Res :=
  .next (s.mbxRun r .narogSg { num := 3, read := false, write := true, len := 6 } (fun g _ ws t =>
    if t.sgBusy g || !(t.recordOk g (t.sg g).recAddr) then itemBad t
    else itemDone (t.initRecord g (natOf (ws.take 2)) (natOf ((ws.drop 2).take 2)) (ws.getD 4 0) (ws.getD 5 0))))

/-- COMMIT (R396). -/
def execNarogCommitRead (r : MbxReq) (s : State) : Res :=
  .next (s.mbxGet r .narogSg 4 2 (fun t g => (t.sg g).commit))

/-- STEP (R396). -/
def execNarogStepRead (r : MbxReq) (s : State) : Res :=
  .next (s.mbxGet r .narogSg 5 2 (fun t g => (t.sg g).step))

/-- POWERS (R396). -/
def execPowers (r : MbxReq) (s : State) : Res :=
  .next (s.mbxRun r .narogSg { num := 6, read := true, write := false, len := 2 } (fun g _ _ t =>
    itemRead t [(t.sg g).p1, (t.sg g).p2]))

/-- A write to a group's configuration ends its running job without a flip (R390). -/
def State.narogTouched (s : State) (g : Nat) : State :=
  { s with works := s.works.map (fun w => match w.job with
      | .narog j =>
        if j.sg = g && (j.phase = .writing || j.phase = .flipping) then { w with job := .narog { j with phase := .ended 3 } }
        else w
      | .launch _ => w
      | .sort _ => w
      | .dma _ => w
      | .coll _ => w) }

/-- LAST_UNCORR of a package (R397). -/
def execSlowtierLastUncorr (r : MbxReq) (s : State) : Res :=
  .next (s.mbxGet r .slowtier 1 2 (fun t n => Tab.get 0 t.slowUncorr n))

end Sys2Proof.Machine
end

