-- ==== Sys2Proof/Machine/Watch.lean ====
section
/-! DEFINITION. The tensor watch table: reports, closes, the vanishing monitor, the step dump (R399 to R409), and the
delivery of the global norm (R411, R412, R419). -/

namespace Sys2Proof.Machine

/-- A report reaches its entry (R401, R403, R404): the finished set while its partition's close is due and its frame
belongs to the step that ends, else the live set. -/
def State.takeReport (s : State) (x : Report) : State :=
  let w := s.entry x.entry
  let due := match s.partOfWatch x.entry with
    | none => none
    | some p => (s.part p).closeDue
  let fin := match due with
    | none => false
    | some (_, last) => x.frame.toNat ≤ last
  s.setEntry x.entry (if fin then { w with fin := addTo w.fin x.fmt x.counts }
    else { w with live := addTo w.live x.fmt x.counts })

/-- WATCH_REPORT (R401): the oldest report under way. -/
def execWatchReport (s : State) : Res :=
  .next (match s.reports with
    | [] => s
    | x :: xs => ({ s with reports := xs }).takeReport x)

/-- Closed CAST and NZ of an entry over all formats (R406). -/
def WEntry.sum (w : WEntry) (i : Nat) : Nat := (w.closed.map (fun x => x.2.getD i 0)).sum

/-- VANISH_OFF and RUN of an entry (R407, R418). -/
def State.vanishOff (s : State) (e : Nat) : Bool := bit (s.cfg .watch e 0x100) 8
def State.vanishRun (s : State) (e : Nat) : Nat := field (s.cfg .watch e 0x100) 7 0

/-- The closed set is replaced (R404). -/
def WEntry.close (w : WEntry) (step : Nat) : WEntry := { w with closed := w.fin, fin := [], closedStep := some step }

/-- The monitor's counts after a close, and whether VANISH is raised (R406). -/
def WEntry.monitor (w : WEntry) (off : Bool) (run : Nat) : WEntry × Bool :=
  if off then ({ w with zrun := 0, run := 0 }, false)
  else if w.sum 0 = 0 then (w, false)
  else if w.sum 1 ≠ 0 then ({ w with zrun := 0, run := 0 }, false)
  else
    let z := min 4095 (w.zrun + 1)
    if run ≤ w.run + 1 then ({ w with zrun := z, run := 0 }, true) else ({ w with zrun := z, run := w.run + 1 }, false)

/-- One entry at a close: the closed set, the monitor, and its event. -/
def State.closeEntry (s : State) (e step : Nat) : State × Bool :=
  let (w, hit) := ((s.entry e).close step).monitor (s.vanishOff e) (s.vanishRun e)
  let t := s.setEntry e w
  (if hit then (t.latch .watch e 0x800 (· ||| flag true 23)).raise .watch e 0x5007 else t, hit)

/-- Every entry of a partition closes; the local numbers of those that raised VANISH. -/
def State.closeAll (s : State) (p step : Nat) : State × List Nat :=
  (List.range (s.watchCount p)).foldl (fun (x : State × List Nat) i =>
    let (t, hit) := x.1.closeEntry (s.watchBase p + i) step
    (t, if hit then x.2 ++ [i] else x.2)) (s, [])

/-- Counts of an entry and format as a dump record (R408). -/
def dumpRecord (loc f : Nat) (hit off : Bool) (c : List Nat) (zrun : Nat) : List Byte :=
  leBytes 2 loc ++ leBytes 1 f ++ leBytes 1 ((if hit then 1 else 0) + if off then 2 else 0) ++ leBytes 6 (c.getD 0 0) ++
    leBytes 6 (c.getD 1 0) ++ leBytes 6 (c.getD 2 0) ++ leBytes 4 (c.getD 3 0) ++ leBytes 4 (c.getD 4 0) ++ leBytes 2 zrun

/-- Records of a partition, by ascending entry and format, for closed CAST above 0. -/
def State.dumpRecords (s : State) (p : Nat) (hits : List Nat) : List (List Byte) :=
  (List.range (s.watchCount p)).flatMap (fun i =>
    let e := s.watchBase p + i
    let w := s.entry e
    (w.closed.filter (fun x => x.2.getD 0 0 ≠ 0)).map (fun x =>
      dumpRecord i x.1 (hits.contains i) (s.vanishOff e) x.2 w.zrun))

/-- A dump buffer keeps R408: aligned, and inside the partition's granules. -/
def State.dumpOk (s : State) (p base cap : Nat) : Bool := base % 64 = 0 && s.grantedRange p base (64 + 32 * cap)

/-- A dump is written as the engines write, for no context: R318 does not name it. DESIGN CHOICE (log 168). -/
def dumpAgent : Agent × Option Nat := (.dma, none)

/-- The dump starts (R409): STEP becomes all ones, and the header and the records that fit are kept to be written. -/
def State.startDump (s : State) (p step : Nat) (hits : List Nat) : State :=
  let x := s.part p
  if x.dump.1 = 0 || !(s.dumpOk p x.dump.1 x.dump.2) then s
  else
    let rs := s.dumpRecords p hits
    let put := rs.take x.dump.2
    let flags := (if x.dump.2 < rs.length then 1 else 0) + if hits.isEmpty then 0 else 2
    let hdr := leBytes 8 step ++ leBytes 8 s.fr.no.toNat ++ leBytes 4 put.length ++ leBytes 4 flags ++ List.replicate 40 0
    (s.devWrite dumpAgent x.dump.1 (List.replicate 8 0xFF)).setPart p { x with dumping := some (x.dump.1, hdr, put.flatten) }

/-- The close of a partition's step (R404, R405). -/
def State.closeStep (s : State) (p step : Nat) : State :=
  let (t, hits) := s.closeAll p step
  (t.setPart p { t.part p with closeDue := none, lastClosed := some step }).startDump p step hits

/-- A close is due: cycle 4,096 is reached and every report of the step has arrived (R401, R404). -/
def State.closeReady (s : State) (p : Nat) : Option Nat :=
  match (s.part p).closeDue with
  | none => none
  | some (step, last) =>
    if s.reports.any (fun x => s.partOfWatch x.entry = some p && x.frame.toNat ≤ last) then none else some step

/-- STEP_CLOSE (R404). -/
def execStepClose (p : PartId) (s : State) : Res :=
  .next (match s.closeReady p.val with
    | none => s
    | some step => (s.toCycle 4096).closeStep p.val step)

/-- DUMP_COMPLETE (R409): the records, then the header once every record has been accepted. -/
def execDumpComplete (p : PartId) (s : State) : Res :=
  .next (match (s.part p.val).dumping with
    | none => s
    | some (a, hdr, recs) =>
      let t := s.devWrite dumpAgent (a + 64) recs
      if t.writesHeld dumpAgent then t.setPart p.val { t.part p.val with dumping := some (a, hdr, []) }
      else (t.devWrite dumpAgent a hdr).setPart p.val { t.part p.val with dumping := none })

/-- A write of WATCH.CFG (R407). -/
def State.watchCfg (s : State) (e : Nat) (v : Word) : State :=
  if field v 7 0 = 0 then s
  else
    let o := s.cfg .watch e 0x100
    let n := v &&& span 8 0
    let t := s.setCfg .watch e 0x100 n
    let t := if bit n 8 then t.setEntry e { t.entry e with zrun := 0, run := 0 } else t
    if n = o then t else (t.latch .watch e 0x800 (· ||| flag true 22)).raise .watch e 0x5008

/-- Counts as the words of CLOSED and LIVE (R418). -/
def countWords (c : List Nat) : List Word :=
  wordsOf 2 (c.getD 0 0) ++ wordsOf 2 (c.getD 1 0) ++ wordsOf 2 (c.getD 2 0) ++ wordsOf 1 (c.getD 3 0) ++ wordsOf 1 (c.getD 4 0)

/-- CLOSED_STEP (R418). -/
def execClosedStep (r : MbxReq) (s : State) : Res :=
  .next (s.mbxGet r .watch 1 2 (fun t e => ((t.entry e).closedStep).getD (2 ^ 64 - 1)))

/-- CLOSED (R418). -/
def execClosed (r : MbxReq) (f : Fin 9) (s : State) : Res :=
  .next (s.mbxRun r .watch { num := 0x100 + f.val, read := true, write := false, len := 8 }
    (fun e _ _ t => itemRead t (countWords (Tab.get [] (t.entry e).closed f.val))))

/-- LIVE (R418): the counts of the step in progress. -/
def execLive (r : MbxReq) (f : Fin 9) (s : State) : Res :=
  .next (s.mbxRun r .watch { num := 0x200 + f.val, read := true, write := false, len := 8 }
    (fun e _ _ t => itemRead t (countWords (Tab.get [] (t.entry e).live f.val))))

/-- DUMP (R419). -/
def execDump (r : MbxReq) (s : State) : Res :=
  .next (s.mbxRun r .watch { num := 0x10, read := true, write := true, len := 4, follows := false } (fun _ wr ws t =>
    let p := t.selPart r.req r.win
    let x := t.part p
    if wr then
      let base := natOf (ws.take 2)
      let cap := (ws.getD 2 0).toNat
      if ws.getD 3 0 ≠ 0 || (base ≠ 0 && !(t.dumpOk p base cap)) then itemBad t
      else itemDone (t.setPart p { x with dump := (base, cap) })
    else itemRead t (wordsOf 2 x.dump.1 ++ wordsOf 1 x.dump.2 ++ [0])))

/-- CLOSE (R405, R419). -/
def execClose (r : MbxReq) (s : State) : Res :=
  .next (s.mbxRun r .watch { num := 0x11, read := false, write := true, len := 1, follows := false } (fun _ _ _ t =>
    let p := t.selPart r.req r.win
    if t.stepMode p then itemBad t
    else itemDone (t.setPart p { t.part p with closeAsk := some t.fr.no.toNat })))

/-- NORM (R419). -/
def execNorm (r : MbxReq) (s : State) : Res :=
  .next (s.mbxRun r .watch { num := 0x12, read := true, write := false, len := 4, follows := false } (fun _ _ _ t =>
    let x := t.part (t.selPart r.req r.win)
    let (st, n) := x.norm.getD (0, 0)
    itemRead t (wordsOf 2 st ++ [n, flag x.normValid 0 ||| flag x.normDouble 1])))

/-- The norm of a fused reduce-scatter that has ENDED is delivered to its partition (R411, R412). -/
def State.deliverNorm (s : State) (p step : Nat) (n : Word) : State :=
  let x := s.part p
  if x.norm.map (·.1) = some step then
    (s.setPart p { x with normDouble := true, normValid := false }).raise .puppeteer p 0x500A
  else s.setPart p { x with norm := some (step, n), normValid := true, normDouble := false }

end Sys2Proof.Machine
end

