-- ==== Sys2Proof/Machine/Ulink.lean ====
section
/-! DEFINITION. Urbenlink: flits, virtual channels, credits, link retry, routes, detours and the states of a port
(R422 to R443, R459, R460). -/

namespace Sys2Proof.Machine

/-- Receive queue of a flit (R429). -/
def Flit.queue (f : Flit) : Nat :=
  if f.det then 7
  else if f.vc = 0 then 0
  else 2 * f.vc - 1 + if f.dl then 1 else 0

/-- Slots of a receive queue (R429). -/
def queueSlots (q : Nat) : Nat := [4, 256, 256, 128, 128, 64, 64, 128].getD q 0

/-- Header word of a flit (R426). -/
def Flit.header (f : Flit) (seq : Nat) : BitVec 64 :=
  BitVec.ofNat 64 (seq * 2 ^ 52 + f.vc * 2 ^ 50 + (if f.dl then 2 ^ 49 else 0) + (if f.det then 2 ^ 48 else 0) +
    f.kind * 2 ^ 45 + f.dest.toNat * 2 ^ 30 + f.src.toNat * 2 ^ 15 + f.flow * 8 + f.ddim * 2)

/-- Bits [hi:lo] of a 64-bit word. -/
def field64 (v : BitVec 64) (hi lo : Nat) : Nat := v.toNat / 2 ^ lo % 2 ^ (hi + 1 - lo)

/-- A flit as its header and payload spell it (R426). -/
def FlitImage.flit (x : FlitImage) : Flit :=
  { vc := field64 x.hdr 51 50, dl := field64 x.hdr 49 49 = 1, det := field64 x.hdr 48 48 = 1
    kind := field64 x.hdr 47 45, dest := BitVec.ofNat 15 (field64 x.hdr 44 30)
    src := BitVec.ofNat 15 (field64 x.hdr 29 15), flow := field64 x.hdr 14 3, ddim := field64 x.hdr 2 1
    payload := bytesAt x.payload 0 240 }

def FlitImage.seq (x : FlitImage) : Nat := field64 x.hdr 63 52

/-- CRC-32 over bytes 0 to 247 (R427). -/
def flitCrc (hdr : BitVec 64) (payload : List Byte) : Word := crc32 (leBytes 8 hdr.toNat ++ payload)

/-- Coordinate of a node in dimension d: 0 X, 1 Y, 2 Z (R435). -/
def coord (n : BitVec 15) (d : Nat) : Nat := n.toNat / 2 ^ (10 - 5 * d) % 32

def withCoord (n : BitVec 15) (d v : Nat) : BitVec 15 :=
  BitVec.ofNat 15 (n.toNat - coord n d * 2 ^ (10 - 5 * d) + v * 2 ^ (10 - 5 * d))

/-- Size of a dimension (R435, R459). -/
def State.dimSize (s : State) (d : Nat) : Nat := coord (BitVec.setWidth 15 (s.cfg .ulink 0 0x108)) d + 1

/-- The neighbour that a port leads to (R435): even ports go up, odd ports go down. -/
def State.neighbour (s : State) (p : Nat) : BitVec 15 :=
  let d := p / 2
  let n := s.dimSize d
  let a := coord s.nodeId d
  withCoord s.nodeId d ((if p % 2 = 0 then a + 1 else a + n - 1) % n)

/-- A destination lies in the torus that DIMS describes (R428). -/
def State.inTorus (s : State) (n : BitVec 15) : Bool := (List.range 3).all (fun d => coord n d < s.dimSize d)

/-- The port of dimension d on the shortest way from a to b, + when the two ways are equal (R436). -/
def wayPort (size d a b : Nat) : Nat :=
  let x := (b + size - a) % size
  if x ≤ size - x then 2 * d else 2 * d + 1

/-- Port the route of a flit chooses: dimension order, beginning with DDIM for a flit on a detour; none when it has
arrived (R436, R441). -/
def State.routePort (s : State) (f : Flit) : Option Nat :=
  let order := if f.det then f.ddim :: (List.range 3).filter (· ≠ f.ddim) else List.range 3
  (order.find? (fun d => coord f.dest d ≠ coord s.nodeId d)).map (fun d =>
    wayPort (s.dimSize d) d (coord s.nodeId d) (coord f.dest d))

/-- CTL of a port (R459). -/
def State.detour (s : State) (p : Nat) : Bool := bit (s.cfg .ulink p 0x100) 2
def State.sideMask (s : State) (p : Nat) : Nat := field (s.cfg .ulink p 0x100) 8 3

/-- The sidestep of a flit whose route chose port p (R441). -/
def State.sidestep (s : State) (p : Nat) (dest : BitVec 15) : Option Nat :=
  let d := p / 2
  let after := [(d + 1) % 3, (d + 2) % 3]
  let e? := match after.find? (fun e => coord dest e ≠ coord s.nodeId e) with
    | some e => some e
    | none => after.find? (fun e => 1 < s.dimSize e)
  match e? with
  | none => none
  | some e =>
    let way := wayPort (s.dimSize e) e (coord s.nodeId e) (coord dest e)
    let third := 3 - d - e
    [way, 4 * e + 1 - way, 2 * third, 2 * third + 1].find? (fun q => (s.sideMask p).testBit q && (s.port q).st = .up)

/-- What becomes of a flit at a node (R438 to R442). -/
inductive Route where
  | deliver
  | send (port : Nat) (f : Flit)
  | hold (port : Nat) (f : Flit)
  | drop (port : Nat)
  deriving DecidableEq, Repr

/-- The flit crosses the dateline when it leaves on port p (R437). -/
def State.crosses (s : State) (p : Nat) : Bool :=
  if p % 2 = 0 then coord s.nodeId (p / 2) + 1 = s.dimSize (p / 2) else coord s.nodeId (p / 2) = 0

/-- DL of a flit with DET 0 that leaves on port p, having arrived on `inp` (R437). -/
def State.newDl (s : State) (inp : Option Nat) (p : Nat) (f : Flit) : Bool :=
  if f.det then f.dl else s.crosses p || (f.dl && inp.map (· / 2) = some (p / 2))

/-- Route a flit (R436 to R442). -/
def State.route (s : State) (inp : Option Nat) (f : Flit) : Route :=
  match s.routePort f with
  | none => .deliver
  | some p =>
    if f.det then
      if (s.port p).st = .up && !(s.detour p) then .send p f else .drop p
    else if s.detour p then
      match s.sidestep p f.dest with
      | none => .drop p
      | some q => .send q { f with det := true, ddim := p / 2 }
    else
      match (s.port p).st with
      | .up => .send p { f with dl := s.newDl inp p f }
      | .dead => .hold p { f with dl := s.newDl inp p f }
      | .off => .drop p
      | .training => .drop p

/-- Discarded flits are counted (R423, R428, R440, R442). -/
def State.dropFlits (s : State) (p n : Nat) : State := s.addCount .ulink p 0x814 n

/-- ROUTE_UNREACHABLE, at most once in a frame (R442). -/
def State.unreachable (s : State) (p : Nat) : State :=
  let x := s.port p
  if x.unreach = s.fr.ticks + 1 then s
  else (s.setPort p { x with unreach := s.fr.ticks + 1 }).raise .ulink p 0x6004

/-- A slot of a receive queue falls free, to be returned as a credit (R427, R429). -/
def State.freeSlot (s : State) (at_ : Option (Nat × Nat)) : State :=
  match at_ with
  | none => s
  | some (p, q) =>
    let x := s.port p
    s.setPort p { x with freed := Tab.set 0 x.freed q (Tab.get 0 x.freed q + 1) }

/-- Put a flit behind the others of its queue at a port. -/
def Port.enqueue (x : Port) (f : Queued) : Port :=
  { x with queues := Tab.set [] x.queues f.flit.queue (Tab.get [] x.queues f.flit.queue ++ [f]) }

/-- A flit joins a holding queue; beyond the queue's size it keeps the receive slot that it occupies, so that its credit
is withheld (R439; log 83). -/
def State.holdFlit (s : State) (p : Nat) (f : Queued) : State :=
  let x := s.port p
  if x.held.length < Config.holdSize then (s.setPort p { x with held := x.held ++ [{ flit := f.flit }] }).freeSlot f.at_
  else s.setPort p { x with held := x.held ++ [f] }

/-- Take a flit where its route leads: to its consumer, to a port, to a holding queue, or away (R438, R439, R442). -/
def State.placeFlit (s : State) (f : Flit) (at_ : Option (Nat × Nat)) : State :=
  match s.route (at_.map (·.1)) f with
  | .deliver => ({ s with coll := { s.coll with inbox := s.coll.inbox ++ [f] } }).freeSlot at_
  | .send p g => s.setPort p ((s.port p).enqueue { flit := g, at_ := at_ })
  | .hold p g => s.holdFlit p { flit := g, at_ := at_ }
  | .drop p => ((s.dropFlits p 1).unreachable p).freeSlot at_

/-- Send flits of this node. -/
def State.sendFlits (s : State) (fs : List Flit) : State := fs.foldl (fun t f => t.placeFlit f none) s

/-- Flits that wait at a port: its queues in order, then what it holds. -/
def Port.waiting (x : Port) : List Queued := (List.range 8).flatMap (fun q => Tab.get [] x.queues q) ++ x.held

/-- The port becomes OFF: its flits, markers among them, are discarded and counted (R423). -/
def State.portOff (s : State) (p : Nat) : State :=
  let x := s.port p
  let t := x.waiting.foldl (fun t f => t.freeSlot f.at_) (s.dropFlits p (x.waiting.length + x.markers.length))
  t.setPort p { (t.port p) with
    st := .off, markers := [], queues := [], unacked := [], replay := [], held := [], lock := 0 }

/-- A training failure (R424): latched with its cause, raised, OFF with EN cleared. What the port holds since it died waits
on for the detour to be decided (R439); nothing else waits at a port that trains. -/
def State.failTraining (s : State) (p cause : Nat) : State :=
  let t := (s.latch .ulink p 0x800 (fun o => (o &&& ~~~(span 19 17)) ||| flag true 20 ||| place cause 17)).raise
    .ulink p 0x6002
  (t.setCfg .ulink p 0x100 (t.cfg .ulink p 0x100 &&& ~~~(flag true 0))).setPort p { t.port p with st := .off, lock := 0 }

/-- Training starts, unless the port is in hold (R70); in a dimension of size 1 it fails at once (R423, R424). -/
def State.startTraining (s : State) (p : Nat) : State :=
  if s.inHold .ulink p then s
  else if s.dimSize (p / 2) = 1 then s.failTraining p 4
  else s.setPort p { s.port p with st := .training, since := s.now, lock := 0 }

/-- The holding queue is released through the detour, or discarded when SIDE_MASK is 0 (R440). -/
def State.releaseHeld (s : State) (p : Nat) : State :=
  let x := s.port p
  let t := s.setPort p { x with held := [] }
  if s.sideMask p = 0 then
    x.held.foldl (fun u f => u.freeSlot f.at_) ((t.dropFlits p x.held.length).unreachable p)
  else x.held.foldl (fun u f => u.placeFlit f.flit f.at_) t

/-- What a write of CTL starts or ends besides storing its fields (R423, R440, R443). -/
def State.ulinkCtl (s : State) (p : Nat) (v : Word) : State :=
  let st := (s.port p).st
  let t := s.setCfg .ulink p 0x100 (v &&& 0x1FD)
  let t := if bit v 2 then (t.raise .ulink p 0x6003).releaseHeld p else t
  if !(bit v 0) then (if st = .off then t else t.portOff p)
  else if st = .off || (st = .dead && bit v 1) then t.startTraining p
  else t

/-- A port that has left hold starts the training that EN asked for while it was held (R70, R423; log 64). -/
def State.leaveHold (s : State) (before : State) : State :=
  (List.range 6).foldl (fun t p =>
    if before.inHold .ulink p && bit (t.cfg .ulink p 0x100) 0 && (t.port p).st = .off then t.startTraining p else t) s

/-- The marker's view of a port after training (R424, R429): fresh sequence numbers and full credits. -/
def Port.up (x : Port) (now delay : Nat) (peer : BitVec 15) : Port :=
  { x with
    st := .up, delay := delay, peer := peer, lastGood := now, lock := 0xFF
    seq := 0, expect := 0, nak := false, used := [], freed := [], unacked := [], replay := [], lastReplay := none }

/-- Flits elsewhere no longer hold slots of the port's receive queues. -/
def State.forgetSlots (s : State) (p : Nat) : State :=
  let forget := fun f : Queued => if f.at_.map (·.1) = some p then { f with at_ := none } else f
  { s with ports := s.ports.map (fun x => (x.1, { x.2 with
      queues := x.2.queues.map (fun q => (q.1, q.2.map forget)), held := x.2.held.map forget })) }

/-- PORT_UP (R423, R424): the exchange completes with the right neighbour, within 500 ms. Flits held while DETOUR is 0
go out again, in their order and class (log 85). -/
def execPortUp (port : PortId) (peer : BitVec 15) (roundTrip : Nat) (s : State) : Res :=
  let p := port.val
  let x := s.port p
  .next (if x.st = .training && peer = s.neighbour p && s.now - x.since ≤ 400000000 then
      let t := (s.forgetSlots p).setPort p ((s.port p).up s.now (min 65535 (roundTrip / 2)) peer)
      if s.detour p then t
      else t.setPort p ((t.port p).held.foldl Port.enqueue { t.port p with held := [] })
    else s)

/-- TRAIN_FAIL (R424): lanes that do not lock within 500 ms (no peer), or a peer that is not the neighbour. -/
def execTrainFail (port : PortId) (peer : Option (BitVec 15)) (s : State) : Res :=
  let p := port.val
  let x := s.port p
  .next (if x.st ≠ .training then s
    else match peer with
      | none => if 400000000 ≤ s.now - x.since then s.failTraining p 3 else s
      | some n => if n = s.neighbour p then s else s.failTraining p 4)

/-- NODE and DIMS hold one value for the node (R459). A DIMS write with DZ not 0 is ignored on the MTA-7120-L. -/
def State.nodeDims (s : State) (dims : Bool) (v : Word) : State :=
  let w := v &&& 0x7FFF
  if dims && s.variant = .l7120 && field w 4 0 ≠ 0 then s
  else (List.range 6).foldl (fun t p => t.setCfg .ulink p (if dims then 0x108 else 0x104) w) s

/-- Trailer of the next flit of a port (R427), and the port after it has returned those credits. -/
def Port.trailer (x : Port) : Nat × Port :=
  let pick := x.freed.take 2
  let a := pick.getD 0 (0, 0)
  let b := pick.getD 1 (0, 0)
  let na := min 63 a.2
  let nb := min 63 b.2
  let t := (x.expect + 4095) % 4096 * 2 ^ 20 + (if x.nak then 2 ^ 19 else 0) + a.1 * 2 ^ 16 + na * 2 ^ 10 + b.1 * 2 ^ 7 +
    nb * 2
  let f := Tab.set 0 x.freed a.1 (Tab.get 0 x.freed a.1 - na)
  (t, { x with freed := Tab.set 0 f b.1 (Tab.get 0 f b.1 - nb) })

/-- Trailer word of a flit: its CRC above what the port returns (R427). -/
def trailerWord (crc : Word) (t : Nat) : BitVec 64 := BitVec.ofNat 64 (crc.toNat * 2 ^ 32 + t)

/-- Put a flit on the link: header, payload, trailer with CRC. -/
def State.onLink (s : State) (p : Nat) (hdr : BitVec 64) (payload : List Byte) : State :=
  let (t, x) := (s.port p).trailer
  (s.setPort p x).emit (.flit p hdr payload (trailerWord (flitCrc hdr payload) t))

/-- The flit of a marker (R107, R425, R426): VC0, KIND 1, SEQ 0, from this node. Its DEST is ignored (R438). -/
def State.markerHeader (s : State) : BitVec 64 := Flit.header { vc := 0, kind := 1, dest := 0, src := s.nodeId, payload := [] } 0

/-- Payload of a marker; where its items stand in it is free (log 81). -/
def markerBytes (m : Marker) : List Byte :=
  bytesAt (Config.markerPayload ([m.frame.toNat, m.source.toNat, m.period] ++
    (match m.pending with | none => [0] | some x => [1, x.1.toNat, x.2]) ++ [m.hops, m.delayNs])) 0 240

/-- Put a marker on the link. -/
def State.markerOut (s : State) (p : Nat) (m : Marker) : State :=
  let (t, x) := (s.port p).trailer
  (s.setPort p x).emit
    (.marker p m s.markerHeader (markerBytes m) (trailerWord (flitCrc s.markerHeader (markerBytes m)) t))

/-- A flit of a queue may be sent: it has a credit, and the retry buffer has room (R429, R431). -/
def Port.canSend (x : Port) (q : Nat) : Bool :=
  Tab.get [] x.queues q ≠ [] && Tab.get 0 x.used q < queueSlots q && x.unacked.length < 2048

/-- The queue of a VC that sends next: the classes alternate (R430). -/
def Port.vcQueue (x : Port) (vc : Nat) : Option Nat :=
  let last := Tab.get true x.lastDl vc
  let q := fun (dl : Bool) => 2 * vc - 1 + if dl then 1 else 0
  if x.canSend (q !last) then some (q !last) else if x.canSend (q last) then some (q last) else none

/-- The weighted round robin of VC1 and VC2 (R430): the VC that sends, and the turns left. -/
def pickVc (w1 w2 : Nat) (turns : Nat × Nat) (a1 a2 : Bool) : Option (Nat × (Nat × Nat)) :=
  if a1 && a2 then
    if 0 < turns.1 then some (1, (turns.1 - 1, turns.2))
    else if 0 < turns.2 then some (2, (turns.1, turns.2 - 1))
    else some (1, (w1 - 1, w2))
  else if a1 then some (1, (turns.1 - 1, turns.2))
  else if a2 then some (2, (turns.1, turns.2 - 1))
  else none

/-- What a flit slot carries (R430). -/
inductive Slot where
  | marker
  | replay
  | queue (q : Nat) (turns : Nat × Nat)
  | idle
  deriving DecidableEq, Repr

/-- The choice of R430. A port in hold sends nothing new: only replays and IDLE flits (R70). -/
def State.chooseSlot (s : State) (p : Nat) : Slot :=
  let x := s.port p
  let arb := s.cfg .ulink p 0x10C
  if s.inHold .ulink p then (if x.replay ≠ [] then .replay else .idle)
  else if x.markers ≠ [] && Tab.get 0 x.used 0 < 4 then .marker
  else if x.replay ≠ [] then .replay
  else if x.canSend 7 then .queue 7 x.turns
  else
    match (if 9 ≤ x.idle3 then x.vcQueue 3 else none) with
    | some q => .queue q x.turns
    | none =>
      match pickVc (field arb 7 4) (field arb 3 0) x.turns (x.vcQueue 1).isSome (x.vcQueue 2).isSome with
      | some (v, turns) => .queue ((x.vcQueue v).getD 0) turns
      | none =>
        match x.vcQueue 3 with
        | some q => .queue q x.turns
        | none => .idle

/-- A flit sent is counted, IDLE apart (R459). -/
def State.txFlit (s : State) (p : Nat) : State := s.addCount .ulink p 0xF01 1

/-- A new flit leaves its queue: it takes a credit and the next SEQ, and stays in the retry buffer (R429, R431). A flit
of another node is counted as forwarded. -/
def State.sendQueued (s : State) (p q : Nat) (turns : Nat × Nat) : State :=
  let x := s.port p
  match Tab.get [] x.queues q with
  | [] => s
  | f :: rest =>
    let y := { x with
      queues := Tab.set [] x.queues q rest, used := Tab.set 0 x.used q (Tab.get 0 x.used q + 1)
      seq := (x.seq + 1) % 4096, unacked := x.unacked ++ [(x.seq, f.flit, s.now)], turns := turns
      idle3 := if q = 5 || q = 6 then 0 else min 9 (x.idle3 + 1)
      lastDl := if q = 7 then x.lastDl else Tab.set true x.lastDl ((q + 1) / 2) (q % 2 = 0) }
    let t := ((s.setPort p y).freeSlot f.at_).txFlit p
    let t := if f.flit.src = s.nodeId then t else t.addCount .ulink p 0x818 1
    t.onLink p (f.flit.header x.seq) f.flit.payload

/-- The next flit of a replay, with its SEQ. -/
def State.sendReplay (s : State) (p : Nat) : State :=
  let x := s.port p
  match x.replay with
  | [] => s
  | n :: rest =>
    let t := s.setPort p { x with replay := rest, idle3 := min 9 (x.idle3 + 1) }
    match x.unacked.find? (·.1 = n) with
    | none => t
    | some (_, f, _) => (t.txFlit p).onLink p (f.header n) f.payload

/-- What a flit slot of a port sends (R430). -/
def State.flitSlot (s : State) (p : Nat) : State :=
  let x := s.port p
  match s.chooseSlot p with
  | .marker =>
    match x.markers with
    | [] => s
    | m :: rest =>
      ((s.setPort p { x with
          markers := rest, used := Tab.set 0 x.used 0 (Tab.get 0 x.used 0 + 1), idle3 := min 9 (x.idle3 + 1) }).txFlit
        p).markerOut p m
  | .replay => s.sendReplay p
  | .queue q turns => s.sendQueued p q turns
  | .idle => (s.setPort p { x with idle3 := min 9 (x.idle3 + 1) }).onLink p 0 (List.replicate 240 0)

/-- A replay starts from the oldest unacknowledged flit (R431). -/
def State.startReplay (s : State) (p : Nat) : State :=
  let x := s.port p
  (s.setPort p { x with
    replay := x.unacked.map (·.1), lastReplay := x.unacked.head?.map (fun u => (u.1, s.now)) }).addCount .ulink p 0x808 1

/-- The trailer of a good flit: acknowledgement, credits, and a replay when NAK asks for one (R427, R429, R431). -/
def State.applyTrailer (s : State) (p : Nat) (t : BitVec 64) : State :=
  let x := s.port p
  let ack := field64 t 31 20
  let left := x.unacked.filter (fun u => 2048 ≤ (ack + 4096 - u.1) % 4096)
  let give := fun (m : Tab Nat) (q n : Nat) => Tab.set 0 m q (Tab.get 0 m q - n)
  let used := give (give x.used (field64 t 18 16) (field64 t 15 10)) (field64 t 9 7) (field64 t 6 1)
  let u := s.setPort p { x with unacked := left, used := used, replay := x.replay.filter (fun n => left.any (·.1 = n)) }
  if field64 t 19 19 = 1 then
    match left.head? with
    | none => u
    | some o =>
      match x.lastReplay with
      | some (n, at_) => if n = o.1 && s.now < at_ + 800 then u else u.startReplay p
      | none => u.startReplay p
  else u

/-- A flit with the next SEQ is accepted (R432); one with a DEST outside the torus is then discarded and counted (R428). -/
def State.acceptFlit (s : State) (p : Nat) (f : Flit) : State :=
  let x := s.port p
  let t := (s.setPort p { x with expect := (x.expect + 1) % 4096, nak := false }).addCount .ulink p 0xF02 1
  if s.inTorus f.dest then t.placeFlit f (some (p, f.queue)) else (t.dropFlits p 1).freeSlot (some (p, f.queue))

/-- A flit with a good CRC that is no IDLE and no MARKER. One with a reserved KIND is discarded and counted, whatever its
SEQ, and one with a DEST outside the torus too (R428); the rest is R432. -/
def State.takeFlit (s : State) (p : Nat) (f : Flit) (seq : Nat) : State :=
  if 5 ≤ f.kind then s.dropFlits p 1
  else if seq = (s.port p).expect then s.acceptFlit p f
  else if s.inTorus f.dest then s
  else s.dropFlits p 1

/-- A flit that a port could send at once (R438): the port is UP and not in hold, no replay is in progress, a credit is
there and no flit waits. -/
def State.freeToSend (s : State) (q : Nat) (g : Flit) : Bool :=
  let x := s.port q
  x.st = .up && !(s.inHold .ulink q) && x.markers = [] && x.replay = [] && Tab.get 0 x.used g.queue < queueSlots g.queue &&
    x.unacked.length < 2048 && (List.range 8).all (fun i => Tab.get [] x.queues i = [])

/-- The outgoing copy of a flit that was sent on before its CRC failed: it carries the inverse CRC, takes no SEQ of the
link and stays in no retry buffer (R434). -/
def State.stomp (s : State) (q : Nat) (g : Flit) : State :=
  let x := s.port q
  let hdr := g.header x.seq
  let (t, y) := x.trailer
  ((s.setPort q y).txFlit q).emit (.flit q hdr g.payload (trailerWord (~~~(flitCrc hdr g.payload)) t))

/-- A flit whose CRC fails may have been sent on already (R434): whether it has is free (log 150). -/
def State.cutThrough (s : State) (p : Nat) (im : FlitImage) : State :=
  let f := FlitImage.flit im
  if 2 ≤ f.kind && f.kind ≤ 4 && s.inTorus f.dest && FlitImage.seq im = (s.port p).expect then
    match s.route (some p) f with
    | .send q g => if s.freeToSend q g && bit s.freeWord 0 then (s.useFree 1).stomp q g else s.useFree 1
    | .deliver => s
    | .hold _ _ => s
    | .drop _ => s
  else s

/-- What a received flit does (R428, R432, R434). -/
def State.receiveFlit (s : State) (p : Nat) (im : FlitImage) : State :=
  let payload := bytesAt im.payload 0 240
  let crc := flitCrc im.hdr payload
  let got := BitVec.ofNat 32 (field64 im.tlr 63 32)
  if got = ~~~crc then (s.addCount .ulink p 0x810 1).cutThrough p im
  else if got ≠ crc then ((s.setPort p { s.port p with nak := true }).addCount .ulink p 0x80C 1).cutThrough p im
  else
    let t := (s.setPort p { s.port p with lastGood := s.now }).applyTrailer p im.tlr
    let f := FlitImage.flit im
    if f.kind = 0 then t
    else if f.kind = 1 then (t.addCount .ulink p 0xF02 1).freeSlot (some (p, 0))
    else t.takeFlit p f (FlitImage.seq im)

/-- FLIT_RECEIVE (R432). A port that is not UP accepts no flit (R423). -/
def execFlitReceive (port : PortId) (im : FlitImage) (s : State) : Res :=
  .next (if (s.port port.val).st = .up then s.receiveFlit port.val im else s)

/-- Cycles the oldest unacknowledged flit has waited. -/
def State.ackWait (s : State) (p : Nat) : Nat :=
  match (s.port p).unacked.head? with
  | none => 0
  | some u => s.now - u.2.2

/-- RETRY_TIMEOUT (R431): 2 µs are 1,600 cycles. -/
def execRetryTimeout (port : PortId) (s : State) : Res :=
  let p := port.val
  .next (if (s.port p).st = .up && (s.port p).replay = [] && 1600 ≤ s.ackWait p then s.startReplay p else s)

/-- A waiting flit has no place among the first of a holding queue (R439, log 83): it keeps its input slot. -/
def Queued.beyond (f : Queued) (i : Nat) : Bool := f.at_.isSome && Config.holdSize ≤ i

/-- Waiting flits leave their input slots for the holding queue, those beyond its places excepted. -/
def State.freeHeld (s : State) (fs : List Queued) : State :=
  fs.zipIdx.foldl (fun t x => if x.1.beyond x.2 then t else t.freeSlot x.1.at_) s

/-- The neighbour is declared dead (R439). -/
def State.declareDead (s : State) (p cause : Nat) : State :=
  let x := s.port p
  let all := x.unacked.map (fun u => ({ flit := u.2.1 } : Queued)) ++ x.waiting
  let stay := all.filter (fun f => !f.flit.det)
  let gone := all.filter (fun f => f.flit.det)
  let keep := stay.zipIdx.map (fun x => if x.1.beyond x.2 then x.1 else { flit := x.1.flit })
  let t := (s.latch .ulink p 0x800 (fun o => (o &&& ~~~(span 19 17)) ||| flag true 21 ||| place cause 17)).raise
    .ulink p 0x6001
  let t := gone.foldl (fun t f => t.freeSlot f.at_) (t.freeHeld stay)
  let t := t.setPort p { (t.port p) with
    st := .dead, markers := [], queues := [], unacked := [], replay := [], held := keep }
  if gone = [] then t else (t.dropFlits p gone.length).unreachable p

/-- NO_FLIT_TIMEOUT (R439): 8 µs are 6,400 cycles. -/
def execNoFlitTimeout (port : PortId) (s : State) : Res :=
  let p := port.val
  .next (if (s.port p).st = .up && 6400 ≤ s.now - (s.port p).lastGood then s.declareDead p 1 else s)

/-- ACK_TIMEOUT (R439). -/
def execAckTimeout (port : PortId) (s : State) : Res :=
  let p := port.val
  .next (if (s.port p).st = .up && 6400 ≤ s.ackWait p then s.declareDead p 2 else s)

/-- LANE_LOCK_LOST (R460). -/
def execLaneLockLost (lane : Fin 48) (s : State) : Res :=
  let p := lane.val / 8
  let x := s.port p
  .next (if x.lock.getLsbD (lane.val % 8) then
      (s.setPort p { x with lock := x.lock &&& ~~~(BitVec.ofNat 8 (2 ^ (lane.val % 8))) }).latch .ulane lane.val 0x800
        (· ||| flag true 22)
    else s)

/-- TX_FLITS (R459). -/
def execTxFlits (r : MbxReq) (s : State) : Res := .next (s.mbxGet r .ulink 1 2 (fun t p => t.counter .ulink p 0xF01))

/-- RX_FLITS (R459). -/
def execRxFlits (r : MbxReq) (s : State) : Res := .next (s.mbxGet r .ulink 2 2 (fun t p => t.counter .ulink p 0xF02))

end Sys2Proof.Machine
end

