-- ==== Sys2Proof/Machine/Coll.lean ====
section
/-! DEFINITION. Flows, the collective engine, PUT, and the way of the global norm (R410, R444 to R461). -/

namespace Sys2Proof.Machine

/-- A flit of this node. -/
def State.ownFlit (s : State) (vc kind : Nat) (dest : BitVec 15) (flow : Nat) (payload : List Byte) : Flit :=
  { vc := vc, kind := kind, dest := dest, src := s.nodeId, flow := flow, payload := bytesAt payload 0 240 }

/-- A CTRL payload (R455): CTYPE, bytes 12 to 15, and what follows them. -/
def ctrlBytes (ctype w : Nat) (rest : List Byte) : List Byte := leBytes 4 ctype ++ leBytes 4 w ++ rest

/-- Bytes 12 to 15 of a payload that names an operation. -/
def opWord (id frame : Nat) : Nat := id + frame * 65536

/-- The flow numbers follow one another, and one in use is passed over (R444). -/
def State.newFlowNum (s : State) : Nat :=
  ((List.range 4096).map (fun i => (s.coll.nextFlow + i) % 4096)).find? (fun n => s.coll.tx.all (·.num ≠ n)) |>.getD
    s.coll.nextFlow

/-- Take a slot for a flow of this node. -/
def State.openTx (s : State) (f : TxFlow) : State :=
  { s with coll := { s.coll with
      tx := s.coll.tx ++ [f], nextFlow := (f.num + 1) % 4096, gone := s.coll.gone.filter (fun g => g.1 ≠ f.num) } }

/-- Slots that a ring operation in progress has taken for flows whose first flit has not arrived (R444). -/
def State.slotsDue (s : State) (w : Work) : Nat :=
  match w.job with
  | .coll j =>
    if j.started then
      j.list.length - (s.coll.rx.filter (fun x => !x.put && x.part = w.part && x.frame = w.frame.toNat % 65536 && x.id = j.id)).length
    else 0
  | .launch _ => 0
  | .sort _ => 0
  | .dma _ => 0
  | .narog _ => 0

/-- Flow slots in use (R444, R461). -/
def State.flowsUsed (s : State) : Nat := s.coll.tx.length + s.coll.rx.length + (s.works.map s.slotsDue).sum

def State.setTx (s : State) (f : TxFlow) : State :=
  { s with coll := { s.coll with tx := s.coll.tx.map (fun x => if x.num = f.num then f else x) } }

def State.dropTx (s : State) (num : Nat) : State :=
  { s with coll := s.coll.endTx (fun x => x.num = num) }

/-- Append flits to a flow (R445). -/
def State.appendTx (s : State) (num : Nat) (items : List TxItem) : State :=
  { s with coll := { s.coll with tx := s.coll.tx.map (fun x =>
      if x.num = num then { x with items := x.items ++ items } else x) } }

/-- A collective's reads and writes: an agent, not the mover of R370, so it reaches no slow tier (R40, R370). -/
def State.collRead (s : State) (c va n : Nat) : NRes (List Byte) := s.vaRead .agent c va n
def State.collWrite (s : State) (c va : Nat) (bs : List Byte) : NRes Unit := s.vaWrite .agent .coll c va bs

/-- Words of a format widened to FP32 (R241, R451). -/
def elemsF32 (f : Fmt) (b : List Byte) : List Word :=
  if f = .bf16 then (words16 b (b.length / 2)).map (fun w => (Num.ofBf16 w).f32) else words32 b (b.length / 4)

/-- Payload of an item as it is sent: its data read from memory, where it has an address (R446). -/
def State.itemPayload (s : State) (c : Nat) (x : TxItem) : NRes (List Byte) :=
  match x.again with
  | none => .ok x.payload s
  | some (va, n, f) =>
    (s.collRead c va n).andThen fun b t =>
      .ok (overlay x.payload 16 (match f with
        | none => b
        | some g => (elemsF32 g b).flatMap (fun w => leBytes 4 w.toNat))) t

/-- Send the next flits of a flow, up to 1,024 beyond BASE (R445); at most `n` of them. One whose data waits for earlier
accesses is sent later. -/
def State.pumpN : Nat → State → Nat → State
  | 0, s, _ => s
  | n + 1, s, num =>
    match s.coll.tx.find? (·.num = num) with
    | none => s
    | some f =>
      if !f.ready || 1024 ≤ f.sent then s
      else match f.items[f.sent]? with
        | none => s
        | some x =>
          match s.itemPayload f.ctx x with
          | .wait => s
          | .fault e t => t.ctxFault f.ctx e
          | .ok b t =>
            let u := t.setTx { f with sent := f.sent + 1, since := if f.sent = 0 then s.now else f.since }
            (u.placeFlit (u.ownFlit f.vc f.kind f.dest num (overlay b 0 (leBytes 4 (f.base + f.sent)))) none).pumpN n num

def State.pumpFlow (s : State) (num : Nat) : State := s.pumpN 1024 num

/-- Every flow goes on as far as it can. -/
def State.pumpFlows (s : State) : State := (s.coll.tx.map (·.num)).foldl State.pumpFlow s

/-- The first flit delivered here that satisfies a test, and the state without it (R438). -/
def State.takeInbox (s : State) (p : Flit → Bool) : Option (Flit × State) :=
  match s.coll.inbox.find? p with
  | none => none
  | some f => some (f, { s with coll := { s.coll with inbox := s.coll.inbox.erase f } })

/-- Fields of a payload (R453, R455). -/
def Flit.fseq (f : Flit) : Nat := leAt f.payload 0 4
def Flit.ctype (f : Flit) : Nat := leAt f.payload 0 1
def Flit.collId (f : Flit) : Nat := leAt f.payload 4 2
def Flit.frameLo (f : Flit) : Nat := leAt f.payload 6 2
def Flit.part (f : Flit) : Nat := leAt f.payload 8 1 % 32
def Flit.ring (f : Flit) : Nat := leAt f.payload 8 1 / 32
def Flit.phase (f : Flit) : Nat := leAt f.payload 9 1
def Flit.step (f : Flit) : Nat := leAt f.payload 10 2
def Flit.offset (f : Flit) : Nat := leAt f.payload 12 4

/-- A frame number names an earlier frame (R458): the nearer of the two frames it can name. -/
def State.lateFrame (s : State) (lo : Nat) : Bool :=
  let d := (s.fr.no.toNat + 65536 - lo) % 65536
  0 < d && d < 32768

def State.countLate (s : State) : State := s.addCount .coll 0 0x804 1

/-- A flow at its destination (R444): known by SRC and FLOW. -/
def RxFlow.is (x : RxFlow) (f : Flit) (frame : Nat) : Bool := x.src = f.src && x.num = f.flow && x.frame = frame

/-- The destination has consumed a flit of the flow already (R445). -/
def RxFlow.seen (x : RxFlow) (n : Nat) : Bool := n < x.base || x.marks.contains n

/-- BASE moves over what is marked, at most `k` steps. -/
def RxFlow.slide : Nat → RxFlow → RxFlow
  | 0, x => x
  | k + 1, x =>
    if x.marks.contains x.base then
      RxFlow.slide k { x with base := x.base + 1, marks := x.marks.filter (· ≠ x.base) }
    else x

/-- A flit is consumed: marked, and BASE moves (R445). -/
def RxFlow.consume (x : RxFlow) (n now : Nat) : RxFlow :=
  let y := RxFlow.slide 1024 { x with marks := n :: x.marks }
  { y with moved := if y.base = x.base then x.moved else some (x.moved.getD now) }

/-- A FLOW_ACK for a flow (R446, R455). -/
def State.ackFlow (s : State) (x : RxFlow) : State :=
  let t : State := { s with coll := { s.coll with rx := s.coll.rx.map (fun y =>
    if y.src = x.src && y.num = x.num && y.frame = x.frame then { y with acked := y.base, moved := none } else y) } }
  t.placeFlit (t.ownFlit x.vc 3 x.src x.num (ctrlBytes 2 x.base [])) none

/-- Replace a flow of this destination, and send its FLOW_ACK when BASE is 256 beyond the last one (R446). -/
def State.setRx (s : State) (x : RxFlow) : State :=
  let known := s.coll.rx.any (fun y => y.src = x.src && y.num = x.num && y.frame = x.frame)
  let rx := if known then s.coll.rx.map (fun y =>
      if y.src = x.src && y.num = x.num && y.frame = x.frame then x else y)
    else s.coll.rx ++ [x]
  let t : State := { s with coll := { s.coll with rx := rx } }
  if x.acked + 256 ≤ x.base then t.ackFlow x else t

/-- The flow a flit belongs to, new when it is the first. -/
def State.rxOf (s : State) (f : Flit) (frame : Nat) : RxFlow :=
  (s.coll.rx.find? (fun x => x.is f frame)).getD
    { src := f.src, num := f.flow, vc := f.vc, frame := frame, id := f.collId, part := f.part
      put := f.kind = 2 && f.phase = 2 }

/-- A running collective by its work number. -/
def State.collJob (s : State) (id : Nat) : Option (Work × CollJob) :=
  match s.work id with
  | none => none
  | some w =>
    match w.job with
    | .coll j => some (w, j)
    | .launch _ => none
    | .sort _ => none
    | .dma _ => none
    | .narog _ => none

def State.updColl (s : State) (id : Nat) (f : CollJob → CollJob) : State :=
  match s.collJob id with
  | none => s
  | some (w, j) => s.setWork { w with job := .coll (f j) }

/-- The running operation that a flit names: COLL_ID, FRAME_LO and partition (R454). -/
def State.opOf (s : State) (f : Flit) : Option (Work × CollJob) :=
  s.works.findSome? (fun w => match w.job with
    | .coll j =>
      if j.started && j.op ≠ .put && w.part = f.part && j.id = f.collId && w.frame.toNat % 65536 = f.frameLo then some (w, j)
      else none
    | .launch _ => none
    | .sort _ => none
    | .dma _ => none
    | .narog _ => none)

/-- Bytes of an element of SFMT or DFMT; ALL_GATHER counts bytes (R448). -/
def fmtBytes (f : Fmt) : Nat := if f = .bf16 then 2 else 4

def CollJob.p (j : CollJob) : Nat := (j.list.head?.map (·.p)).getD 1

/-- C of R450. -/
def CollJob.chunk (j : CollJob) : Nat := j.count / (j.rings * j.p)

/-- Bytes of a unit at DST_VA. -/
def CollJob.unit (j : CollJob) : Nat :=
  match j.op with
  | .reduceScatter => fmtBytes j.dfmt
  | .allReduce => fmtBytes j.dfmt
  | .allGather => 1
  | .put => 1

/-- First unit of chunk c of ring r (R450). -/
def CollJob.unitAt (j : CollJob) (r c : Nat) : Nat := r * (j.count / j.rings) + c * j.chunk

/-- Address of chunk c of ring r at DST_VA in the geometry of R450. -/
def CollJob.dstAt (j : CollJob) (r c : Nat) : Nat := j.dst + j.unitAt r c * j.unit

/-- Where a finished sum goes (R450 to R452): the node's share of a REDUCE_SCATTER, the owned chunk of an ALL_REDUCE. -/
def CollJob.shareAt (j : CollJob) (r rank : Nat) : Nat :=
  match j.op with
  | .reduceScatter => j.dst + r * j.chunk * j.unit
  | .allReduce => j.dstAt r rank
  | .allGather => j.dstAt r rank
  | .put => j.dst

/-- Bytes 8 to 23 of a DATA flit but for FSEQ (R453). -/
def dataHead (id frame part ring phase step off : Nat) : List Byte :=
  [0, 0, 0, 0] ++ leBytes 2 id ++ leBytes 2 frame ++ leBytes 1 (part + 32 * ring) ++ leBytes 1 phase ++ leBytes 2 step ++
    leBytes 4 off

def Work.frameLo (w : Work) : Nat := w.frame.toNat % 65536

/-- Offsets of the pieces of n bytes, 224 B each. -/
def pieces (n : Nat) : List Nat := (List.range (ceilDiv n 224)).map (224 * ·)

/-- Step 0 of a reduce on a ring: the flits of chunk RANK − 1, whose data is read at SRC_VA (R451). -/
def CollJob.reduceItems (w : Work) (j : CollJob) (r : Nat) (x : CollRing) : List TxItem :=
  let c := (x.rank + x.p - 1) % x.p
  let sz := fmtBytes j.sfmt
  (pieces (4 * j.chunk)).map (fun o =>
    let n := min 56 (j.chunk - o / 4)
    { payload := dataHead j.id w.frameLo w.part r 0 0 o
      again := some (j.src + (j.unitAt r c + o / 4) * sz, n * sz, some j.sfmt) })

/-- Step k of a gather on a ring: the flits of a chunk that lies at `va` (R452). -/
def CollJob.gatherItems (w : Work) (j : CollJob) (r step va : Nat) : List TxItem :=
  let n := j.chunk * j.unit
  (pieces n).map (fun o =>
    { payload := dataHead j.id w.frameLo w.part r 1 step o, again := some (va + o, min 224 (n - o), none) })

/-- Squares of the elements written, as multiples of 2^-298 (R410). -/
def CollJob.addSquares (j : CollJob) (ws : List Word) : CollJob :=
  ws.foldl (fun j w => match Num.ofF32 w with
    | .nan => { j with sqNan := true }
    | .inf _ => { j with sqInf := true }
    | .fin _ m e => { j with sq := j.sq + m * m * 2 ^ (2 * e + 298).toNat }) j

/-- Round finished sums to DFMT (R241). -/
def roundTo (f : Fmt) (ws : List Word) : List Byte :=
  if f = .bf16 then ws.flatMap (fun w => leBytes 2 ((Num.ofF32 w).toWide .bf16).1) else ws.flatMap (fun w => leBytes 4 w.toNat)

def setRing (l : List CollRing) (r : Nat) (f : CollRing → CollRing) : List CollRing :=
  l.zipIdx.map (fun x => if x.2 = r then f x.1 else x.1)

/-- Finished sums from element e on of this node's chunk of ring r are written, and their squares added (R410, R451). -/
def State.finishSums (s : State) (w : Work) (j : CollJob) (r rank e : Nat) (ws : List Word) : NRes Unit :=
  let b := roundTo j.dfmt ws
  (s.collWrite (w.ctx.getD 0) (j.shareAt r rank + e * fmtBytes j.dfmt) b).andThen fun _ t =>
    .ok () (t.updColl w.id (fun k =>
      { (if k.norm then k.addSquares (elemsF32 j.dfmt b) else k) with
        list := setRing k.list r (fun x => { x with reduced := x.reduced + ws.length }) }))

/-- Own contribution to chunk c of ring r, elements e to e + n − 1 (R451). -/
def State.ownPart (s : State) (w : Work) (j : CollJob) (r c e n : Nat) : NRes (List Word) :=
  let sz := fmtBytes j.sfmt
  (s.collRead (w.ctx.getD 0) (j.src + (j.unitAt r c + e) * sz) (n * sz)).andThen fun b t => .ok (elemsF32 j.sfmt b) t

def CollJob.reduces (j : CollJob) : Bool := j.op = .reduceScatter || j.op = .allReduce

/-- Every sum of this node is finished. -/
def CollJob.reduceDone (j : CollJob) : Bool := !j.reduces || j.list.all (fun x => x.reduced = j.chunk)

/-- Every chunk has been gathered. -/
def CollJob.gatherDone (j : CollJob) : Bool :=
  j.op = .reduceScatter || j.list.all (fun x => x.gathered = (x.p - 1) * j.chunk * j.unit)

/-- The data phase is complete (R457). -/
def CollJob.dataDone (j : CollJob) : Bool := j.started && j.reduceDone && j.gatherDone

/-- The gather of an ALL_REDUCE begins when the node's share is reduced (R452). -/
def State.beginGather (s : State) (id : Nat) : State :=
  match s.collJob id with
  | none => s
  | some (w, j) =>
    if j.op = .allReduce && !j.gathering && j.started && j.reduceDone then
      let t := s.updColl id (fun k => { k with gathering := true })
      if j.p = 1 then t
      else j.list.zipIdx.foldl (fun u x =>
        (u.appendTx x.1.flow (j.gatherItems w x.2 0 (j.dstAt x.2 x.1.rank))).pumpFlow x.1.flow) t
    else s

/-- Largest FP32 as a multiple of 2^-149 (R457). -/
def maxAcc : Nat := (2 ^ 24 - 1) * 2 ^ 253

/-- The local partial P (R410) in the accumulator of R457: its integer, NAN and INF. -/
def CollJob.partialSum (j : CollJob) : Nat × Bool × Bool :=
  if j.sqNan then (0, true, false)
  else if j.sqInf || maxAcc * 2 ^ 149 < j.sq then (0, false, true)
  else (match Num.ofF32 (Num.f32 (.fin false j.sq (-298))) with
    | .nan => (0, true, false)
    | .inf _ => (0, false, true)
    | .fin _ m e => (m * 2 ^ (e + 149).toNat, false, false))

/-- The total of a node: its own partial and its children's (R457). -/
def CollJob.total (j : CollJob) : Nat × Bool × Bool :=
  let (a, n, i) := j.partialSum
  (a + j.acc, n || j.accNan, i || j.accInf)

/-- N of a total (R411, R457). -/
def normOf (t : Nat × Bool × Bool) : Word :=
  if t.2.1 then 0x7FC00000 else if t.2.2 || maxAcc < t.1 then 0x7F800000 else Num.f32 (.fin false t.1 (-149))

/-- NORM_UP or NORM_DOWN (R455): the accumulator stands in bytes 32 to 71. -/
def normBytes (ctype id frame part : Nat) (t : Nat × Bool × Bool) : List Byte :=
  ctrlBytes ctype (opWord id frame) (leBytes 1 part ++ List.replicate 15 0 ++ leBytes 37 t.1 ++ [0, 0] ++
    leBytes 1 ((if t.2.1 then 1 else 0) + if t.2.2 then 2 else 0))

/-- The total a norm flit carries. -/
def Flit.acc (f : Flit) : Nat × Bool × Bool :=
  (leAt f.payload 24 37, leAt f.payload 63 1 % 2 = 1, leAt f.payload 63 1 / 2 % 2 = 1)

/-- N is formed and sent on to the children (R457 steps 2 and 3). -/
def State.formNorm (s : State) (w : Work) (j : CollJob) (t : Nat × Bool × Bool) : State :=
  let u := s.updColl w.id (fun k => { k with formed := some (normOf t) })
  j.children.foldl (fun u c => u.placeFlit (u.ownFlit 1 3 c 0 (normBytes 4 j.id w.frameLo w.part t)) none) u

/-- When the data is complete and every child has been heard, the sum goes to the parent, or N is formed at the root
(R457 step 1). -/
def State.tryNorm (s : State) (id : Nat) : State :=
  match s.collJob id with
  | none => s
  | some (w, j) =>
    if j.norm && j.dataDone && !j.upSent && j.children.all (fun c => j.heard.contains c) then
      let t := s.updColl id (fun k => { k with upSent := true })
      match j.parent with
      | none => t.formNorm w j j.total
      | some p => t.placeFlit (t.ownFlit 1 3 p 0 (normBytes 3 j.id w.frameLo w.part j.total)) none
    else s

/-- What follows data: the gather of an ALL_REDUCE, then the norm. -/
def State.advanceColl (s : State) (id : Nat) : State := (s.beginGather id).tryNorm id

/-- NEXT and PREV of a ring word (R449). -/
def ringEnds (w : Nat) : Nat × Nat := (w / 2 ^ 16 % 2 ^ 15, w % 2 ^ 15)

/-- NEXT and PREV fit a ring of P members of which this node is one (R449): itself, alone; the one other; or two others. -/
def endsOk (node p : Nat) (e : Nat × Nat) : Bool :=
  if p = 1 then e.1 = node && e.2 = node
  else e.1 ≠ node && e.2 ≠ node && (decide (e.1 = e.2) == decide (p = 2))

/-- A ring record keeps R449 and R450, as far as this node can see: the members that its rings name are no more than P, so
that up to P = 3 every ring names the same ones. -/
def ringOk (node : Nat) (j : CollJob) (b : List Byte) : Bool :=
  let p := leAt b 6 2
  let words := (List.range j.rings).map (fun r => leAt b (8 * r) 8)
  p ≠ 0 && p ≤ 32768 && j.count % (32 * j.rings * p) = 0 && zerosAt b 62 2 &&
    words.all (fun w => w / 2 ^ 48 = p && w / 2 ^ 32 % 65536 < p && w / 2 ^ 31 % 2 = 0 && w / 2 ^ 15 % 2 = 0 &&
      endsOk node p (ringEnds w)) &&
    (node :: words.flatMap (fun w => [(ringEnds w).1, (ringEnds w).2])).eraseDups.length ≤ p

/-- The rings of a record, with flows numbered from `n` on. -/
def ringsOf (b : List Byte) (nums : List Nat) : List CollRing :=
  nums.zipIdx.map (fun x =>
    let w := leAt b (8 * x.2) 8
    { p := w / 2 ^ 48, rank := w / 2 ^ 32 % 65536, next := BitVec.ofNat 15 (w / 2 ^ 16), prev := BitVec.ofNat 15 w
      flow := x.1 })

/-- READY of a ring (R454, R455). -/
def readyBytes (w : Work) (j : CollJob) (r p : Nat) : List Byte :=
  let code := fun (f : Fmt) => if f = .bf16 || j.op = .allGather then 0 else 9
  let op := match j.op with
    | .reduceScatter => 0x30 | .allGather => 0x31 | .allReduce => 0x32 | .put => 0x33
  ctrlBytes 1 (opWord j.id w.frameLo) (leBytes 1 (w.part + 32 * r) ++ leBytes 1 op ++ leBytes 1 (code j.sfmt) ++
    leBytes 1 (code j.dfmt) ++ leBytes 1 j.rings ++ [0] ++ leBytes 2 p ++ leBytes 4 j.count)

/-- A READY meets the operation it names (R454). -/
def State.meetReady (s : State) (w : Work) (j : CollJob) (f : Flit) : State :=
  if bytesAt f.payload 9 11 = bytesAt (readyBytes w j 0 j.p) 9 11 && f.ring < j.rings then
    match j.list[f.ring]? with
    | none => s
    | some x =>
      if x.next ≠ f.src then s
      else
        let t := s.updColl w.id (fun k => { k with list := setRing k.list f.ring (fun y => { y with ready := true }) })
        let t : State := { t with coll := { t.coll with tx := t.coll.tx.map (fun y =>
          if y.num = x.flow then { y with ready := true } else y) } }
        t.pumpFlow x.flow
  else s.ctxFault (w.ctx.getD 0) 0x300F

/-- Open a flow for each ring, one after another. -/
def State.openRings (s : State) (w : Work) : List CollRing → State
  | [] => s
  | x :: xs =>
    (s.openTx { num := x.flow, dest := x.next, vc := 1, kind := 2, work := some w.id, ctx := w.ctx.getD 0
                frame := w.frameLo, ready := false, since := s.now }).openRings w xs

/-- Numbers for n new flows. -/
def State.flowNums (s : State) : Nat → List Nat
  | 0 => []
  | n + 1 =>
    let k := s.newFlowNum
    k :: (s.openTx { num := k, dest := 0, vc := 1, kind := 2 }).flowNums n

/-- A step of an operation, its fault, or nothing while it waits. -/
def collRes (w : Work) (r : NRes Unit) : Option State :=
  match r with
  | .ok _ t => some t
  | .fault e t => some (t.ctxFault (w.ctx.getD 0) e)
  | .wait => none

/-- First data of a ring (R451, R452): the flits of step 0; with one participant the sums are finished at once, and a
gather copies its own chunk. -/
def State.firstData (s : State) (w : Work) (j : CollJob) (r : Nat) (x : CollRing) : NRes Unit :=
  if j.reduces then
    if x.p = 1 then (s.ownPart w j r 0 0 j.chunk).andThen fun ws t => t.finishSums w j r x.rank 0 ws
    else .ok () (s.appendTx x.flow (j.reduceItems w r x))
  else
    let va := j.src + r * j.chunk
    (s.collRead (w.ctx.getD 0) va j.chunk).andThen fun b t =>
    (t.collWrite (w.ctx.getD 0) (j.dstAt r x.rank) b).andThen fun _ u =>
      .ok () (if x.p = 1 then u else u.appendTx x.flow (j.gatherItems w r 0 va))

/-- READYs held for an operation that starts. -/
def State.takeReadies (s : State) (id : Nat) : State :=
  match s.collJob id with
  | none => s
  | some (w, j) =>
    let mine := s.coll.readies.filter (fun f => f.part = w.part && f.collId = j.id && f.frameLo = w.frameLo)
    let t : State := { s with coll := { s.coll with readies := s.coll.readies.filter (fun f => !(mine.contains f)) } }
    mine.foldl (fun u f => match u.collJob id with
      | none => u
      | some (w, j) => u.meetReady w j f) t

/-- A ring operation starts with its record (R449, R454); none while the data it begins with is still being changed. -/
def State.startRings (s : State) (w : Work) (j : CollJob) (b : List Byte) : Option State :=
  let rings := ringsOf b (s.flowNums j.rings)
  let par := leAt b 48 2
  let kids := ((List.range 6).map (fun i => leAt b (50 + 2 * i) 2)).filter (32768 ≤ ·)
  let j := { j with
    started := true, list := rings, parent := if 32768 ≤ par then none else some (BitVec.ofNat 15 par)
    children := kids.map (fun k => BitVec.ofNat 15 k) }
  let w := { w with running := true, job := .coll j }
  let t := (s.setWork w).openRings w rings
  let t := rings.zipIdx.foldl (fun u x =>
    u.placeFlit (u.ownFlit 1 3 x.1.prev 0 (readyBytes w j x.2 x.1.p)) none) t
  (collRes w (nEach (fun x u => u.firstData w j x.2 x.1) rings.zipIdx t)).map (fun t =>
    (t.takeReadies w.id).advanceColl w.id)

/-- A PUT starts: one flow to the destination, on VC2 (R456). -/
def State.startPut (s : State) (w : Work) (j : CollJob) : State :=
  let n := s.newFlowNum
  let items := (pieces j.count).map (fun o =>
    ({ payload := dataHead 0 w.frameLo w.part 0 2 0 (j.dst + o), again := some (j.src + o, min 224 (j.count - o), none) } :
      TxItem))
  let t := (s.setWork { w with running := true, job := .coll { j with started := true } }).openTx
    { num := n, dest := BitVec.ofNat 15 j.id, vc := 2, kind := 2, work := some w.id, ctx := w.ctx.getD 0
      frame := w.frameLo, items := items, since := s.now }
  t.pumpFlow n

/-- An operation may start (R70, R444, R447, R461): its frame is open, the engine is enabled and not in hold, and its
flow slots are free. -/
def State.collMayStart (s : State) (w : Work) (j : CollJob) : Bool :=
  !j.started && w.frame = s.fr.no && bit (s.cfg .coll 0 0x100) 0 && !(s.inHold .coll 0) &&
    s.flowsUsed + (if j.op = .put then 1 else 2 * j.rings) ≤ 4096

/-- COLLECTIVE_START (R449, R454). -/
def execCollectiveStart (work : Nat) (s : State) : Res :=
  .next (match s.collJob work with
    | none => s
    | some (w, j) =>
      if !(s.collMayStart w j) then s
      else if j.op = .put then s.startPut w j
      else
        match (s.setWork { w with running := true }).collRead (w.ctx.getD 0) j.ringVa 64 with
        | .wait => s
        | .fault e t => t.ctxFault (w.ctx.getD 0) e
        | .ok b t => if ringOk t.nodeId.toNat j b then (t.startRings w j b).getD s else t.ctxFault (w.ctx.getD 0) 0x300F)

/-- A reduce flit (R451): the own contribution is added, and the sum goes on or is finished. -/
def State.reduceFlit (s : State) (w : Work) (j : CollJob) (x : CollRing) (f : Flit) : NRes Unit :=
  let n := min 56 (j.chunk - f.offset / 4)
  let e := f.offset / 4
  (s.ownPart w j f.ring ((x.rank + 2 * x.p - f.step - 2) % x.p) e n).andThen fun own t =>
    let sums := ((words32 (f.payload.drop 16) n).zip own).map (fun (p : Word × Word) => fadd p.1 p.2)
    if f.step + 2 < x.p then
      let b := dataHead j.id w.frameLo w.part f.ring 0 (f.step + 1) f.offset ++ sums.flatMap (fun v => leBytes 4 v.toNat)
      .ok () (t.appendTx x.flow [{ payload := b }])
    else t.finishSums w j f.ring x.rank e sums

/-- A gather flit (R452): its bytes are written, and passed on. -/
def State.gatherFlit (s : State) (w : Work) (j : CollJob) (x : CollRing) (f : Flit) : NRes Unit :=
  let n := min 224 (j.chunk * j.unit - f.offset)
  let va := j.dstAt f.ring ((x.rank + 2 * x.p - 1 - f.step) % x.p) + f.offset
  (s.collWrite (w.ctx.getD 0) va (bytesAt f.payload 16 n)).andThen fun _ t =>
    let u := t.updColl w.id (fun k => { k with list := setRing k.list f.ring (fun y => { y with gathered := y.gathered + n }) })
    .ok () (if f.step + 2 < x.p then
      u.appendTx x.flow [{ payload := dataHead j.id w.frameLo w.part f.ring 1 (f.step + 1) f.offset
                           again := some (va, n, none) }]
    else u)

/-- A DATA flit lies within the operation it names. -/
def CollJob.flitFits (j : CollJob) (x : CollRing) (f : Flit) : Bool :=
  x.prev = f.src && f.step + 2 ≤ x.p &&
    (if f.phase = 0 then j.reduces && f.offset % 4 = 0 && f.offset < 4 * j.chunk
     else f.phase = 1 && j.op ≠ .reduceScatter && f.offset < j.chunk * j.unit)

/-- A DATA flit of a ring is consumed once (R445, R453); none while the data it meets is still being changed. -/
def State.ringFlit (s : State) (f : Flit) : Option State :=
  let x := s.rxOf f f.frameLo
  if x.seen f.fseq then some (s.addCount .coll 0 0x808 1)
  else match s.opOf f with
    | none => some (if s.lateFrame f.frameLo then s.countLate else s)
    | some (w, j) =>
      match j.list[f.ring]? with
      | none => some s
      | some g =>
        if !(j.flitFits g f) || x.base + 1024 ≤ f.fseq then some s
        else
          match (if f.phase = 0 then s.reduceFlit w j g f else s.gatherFlit w j g f) with
          | .wait => none
          | .fault e t => some (t.ctxFault (w.ctx.getD 0) e)
          | .ok _ t => some (((t.setRx (x.consume f.fseq s.now)).pumpFlow g.flow).advanceColl w.id)

/-- Bytes of a PUT flit that are written as it arrives. Every flit but the last of a PUT is full, and the last one names no
length: with none behind it yet, a free number of 32 B units that takes in every one that is not zero. DESIGN CHOICE
(log 34). -/
def State.putBytes (s : State) (x : RxFlow) (f : Flit) : Nat :=
  let least := ((List.range 7).filter (fun i => !(zerosAt f.payload (16 + 32 * i) 32))).foldl (fun m i => max m (i + 1)) 1
  if x.marks.any (f.fseq < ·) then 224 else 32 * (least + s.freeWord.toNat % (8 - least))

/-- A part of a PUT lies in the landing window of its partition (R456). -/
def State.landsIn (s : State) (p upto : Nat) : Bool := (s.part p).landing.1 ≠ 0 && upto ≤ (s.part p).landing.2

/-- A PUT flit is refused (R456). -/
def State.refusePut (s : State) (src : BitVec 15) (flow fseq : Nat) : State :=
  (s.addCount .coll 0 0x810 1).placeFlit (s.ownFlit 2 3 src flow (ctrlBytes 5 fseq [])) none

/-- The engine's writes into a landing window. -/
def State.landBytes (s : State) (p off : Nat) (bs : List Byte) : State :=
  s.devWrite (.coll, none) ((s.part p).landing.1 + off) bs

/-- A flit of a PUT behind others shows that those were full: the zeros at their ends are written. -/
def State.putTails (s : State) (x : RxFlow) (fseq : Nat) : State × RxFlow :=
  ((x.tails.filter (·.1 < fseq)).foldl (fun t z =>
    if t.landsIn x.part (z.2.1 + 224) then t.landBytes x.part (z.2.1 + z.2.2) (List.replicate (224 - z.2.2) 0)
    else t.refusePut x.src x.num z.1) s, { x with tails := x.tails.filter (fun z => fseq ≤ z.1) })

/-- A PUT flit is written into the landing window of its partition, or refused (R456). -/
def State.putFlit (s : State) (f : Flit) : State :=
  let x := s.rxOf f f.frameLo
  if s.lateFrame f.frameLo then s.countLate
  else if x.seen f.fseq then s.addCount .coll 0 0x808 1
  else if x.base + 1024 ≤ f.fseq || (!(s.coll.rx.any (fun y => y.is f f.frameLo)) && 4096 ≤ s.flowsUsed) then s
  else
    let n := s.putBytes x f
    let (t, y) := (s.useFree 1).putTails x f.fseq
    if !(t.landsIn f.part (f.offset + n)) then t.refusePut f.src f.flow f.fseq
    else
      let z := { y with tails := if n < 224 then y.tails ++ [(f.fseq, f.offset, n)] else y.tails }
      (t.landBytes f.part f.offset (bytesAt f.payload 16 n)).setRx (z.consume f.fseq s.now)

/-- COLL_DATA (R453): the oldest DATA flit delivered here; one that must wait stays where it is. -/
def execCollData (s : State) : Res :=
  .next (match s.takeInbox (fun f => f.kind = 2) with
    | none => s
    | some (f, t) => if f.phase = 2 then t.putFlit f else (t.ringFlit f).getD s)

/-- COLL_READY (R454). -/
def execCollReady (s : State) : Res :=
  .next (match s.takeInbox (fun f => f.kind = 3 && f.ctype = 1) with
    | none => s
    | some (f, t) =>
      match t.opOf f with
      | some (w, j) => t.meetReady w j f
      | none =>
        if t.lateFrame f.frameLo then t.countLate
        else { t with coll := { t.coll with readies := t.coll.readies ++ [f] } })

/-- BASE reaches the source: what it covers is released, and the window moves (R445, R446). A flow whose work has ended
and that has nothing left gives its slot back. -/
def State.flowAcked (s : State) (f : TxFlow) (base : Nat) : State :=
  if base ≤ f.base || f.base + f.sent < base then s
  else
    let n := base - f.base
    let g := { f with base := base, items := f.items.drop n, sent := f.sent - n, since := s.now }
    if g.items = [] && g.work.isNone && g.vc ≠ 3 then s.dropTx f.num else (s.setTx g).pumpFlow f.num

/-- A FLOW_ACK or REFUSE for a flow that is no more: late when its operation was one of an earlier frame (R458). -/
def State.lateCtrl (s : State) (f : Flit) : State :=
  if s.coll.gone.any (fun g => g.1 = f.flow && g.2.1 = f.src && s.lateFrame g.2.2) then s.countLate else s

/-- The oldest FLOW_ACK delivered here reaches its flow (R446). -/
def State.takeFlowAck (s : State) : State :=
  match s.takeInbox (fun f => f.kind = 3 && f.ctype = 2) with
  | none => s
  | some (f, t) =>
    match t.coll.tx.find? (fun x => x.num = f.flow && x.dest = f.src) with
    | none => t.lateCtrl f
    | some x => t.flowAcked x (leAt f.payload 4 4)

/-- FLOW_ACK_TIMER (R446): 500 ns are 400 cycles. -/
def execFlowAckTimer (s : State) : Res :=
  .next (match s.coll.rx.find? (fun x => match x.moved with
      | none => false
      | some t => t + 400 ≤ s.now) with
    | none => s
    | some x => s.ackFlow x)

/-- REWIND_TIMEOUT (R446): the source sends again from the last BASE. 1 µs is 800 cycles. -/
def execRewindTimeout (s : State) : Res :=
  .next (match s.coll.tx.find? (fun f => f.sent ≠ 0 && f.since + 800 * field (s.cfg .coll 0 0x104) 15 0 ≤ s.now) with
    | none => s
    | some f => ((s.setTx { f with sent := 0, since := s.now }).addCount .coll 0 0x80C 1).pumpFlow f.num)

/-- NORM_UP (R457): at most one from each child is added. -/
def execNormUp (s : State) : Res :=
  .next (match s.takeInbox (fun f => f.kind = 3 && f.ctype = 3) with
    | none => s
    | some (f, t) =>
      match t.opOf f with
      | none => if t.lateFrame f.frameLo then t.countLate else t
      | some (w, j) =>
        if j.norm && j.children.contains f.src && !(j.heard.contains f.src) then
          let (a, n, i) := f.acc
          (t.updColl w.id (fun k => { k with
            acc := k.acc + a, accNan := k.accNan || n, accInf := k.accInf || i, heard := f.src :: k.heard })).tryNorm w.id
        else t)

/-- NORM_DOWN (R457): one is accepted, from the parent. -/
def execNormDown (s : State) : Res :=
  .next (match s.takeInbox (fun f => f.kind = 3 && f.ctype = 4) with
    | none => s
    | some (f, t) =>
      match t.opOf f with
      | none => if t.lateFrame f.frameLo then t.countLate else t
      | some (w, j) =>
        if j.norm && j.parent = some f.src && j.formed.isNone then t.formNorm w j f.acc else t)

/-- REFUSE (R456): the PUT's context faults with PUT_REFUSED. -/
def execRefuse (s : State) : Res :=
  .next (match s.takeInbox (fun f => f.kind = 3 && f.ctype = 5) with
    | none => s
    | some (f, t) =>
      match t.coll.tx.find? (fun x => x.num = f.flow && x.dest = f.src && x.vc = 2) with
      | none => t.lateCtrl f
      | some x => if x.work.isNone then t else t.ctxFault x.ctx 0x3011)

/-- An operation is complete (R447, R456). -/
def State.collComplete (s : State) (w : Work) (j : CollJob) : Bool :=
  match j.op with
  | .put => j.started && s.coll.tx.all (fun x => x.work ≠ some w.id || x.items = [])
  | .reduceScatter => j.dataDone && (!j.norm || j.formed.isSome)
  | .allGather => j.dataDone
  | .allReduce => j.dataDone

/-- Flows of ended work stay until BASE covers them; empty ones give their slot back. -/
def State.leaveFlows (s : State) (id : Nat) : State :=
  let c := s.coll.endTx (fun x => x.work = some id && x.items = [])
  { s with coll := { c with tx := c.tx.map (fun x => if x.work = some id then { x with work := none } else x) } }

/-- COLLECTIVE_END (R411, R447), once its writes are visible to every reader (R338): N is delivered with the end. -/
def execCollectiveEnd (work : Nat) (s : State) : Res :=
  .next (match s.collJob work with
    | none => s
    | some (w, j) =>
      if s.collComplete w j && !(s.writesLeft (.coll, w.ctx)) then
        let t := s.leaveFlows work
        let t := match j.formed with
          | none => t
          | some n => t.deliverNorm w.part (t.stepOf w.part w.frame) n
        t.endWork w stEnded
      else s)

/-- Formats of a collective (R448). -/
def collFmt? (c : Nat) : Option Fmt := if c = 0 then some .bf16 else if c = 9 then some .fp32 else none

/-- Fields that every collective command bounds (R447, R448, R549). -/
def collBad (slot : List Byte) : Bool :=
  let h := hdrOf slot
  hdrBad h || hdrSlide h || leAt slot 4 4 = 0 || vaBad slot 16 || leAt slot 16 8 % 128 ≠ 0 || !(zerosAt slot 46 2)

/-- A ring command; none when a field is out of range (R448). -/
def ringOf? (op : CollOp) (slot : List Byte) : Option CollJob :=
  let red := op = .reduceScatter || op = .allReduce
  if collBad slot || vaBad slot 24 || leAt slot 24 8 % 128 ≠ 0 || vaBad slot 32 || leAt slot 32 8 % 64 ≠ 0 ||
      leAt slot 45 1 = 0 || 6 < leAt slot 45 1 || 1 < leAt slot 44 1 || (leAt slot 44 1 = 1 && op ≠ .reduceScatter) ||
      (!red && (leAt slot 4 4 % 32 ≠ 0 || leAt slot 42 2 ≠ 0)) then none
  else match collFmt? (leAt slot 42 1), collFmt? (leAt slot 43 1) with
    | some sf, some df =>
      some { op := op, count := leAt slot 4 4, src := leAt slot 16 8, dst := leAt slot 24 8, ringVa := leAt slot 32 8
             id := leAt slot 40 2, sfmt := sf, dfmt := df, norm := leAt slot 44 1 = 1, rings := leAt slot 45 1 }
    | none, _ => none
    | some _, none => none

/-- A PUT; none when a field is out of range (R448). -/
def putOf? (slot : List Byte) : Option CollJob :=
  if collBad slot || leAt slot 4 4 % 32 ≠ 0 || leAt slot 24 8 % 32 ≠ 0 || !(zerosAt slot 28 4) || !(zerosAt slot 32 8) ||
      32768 ≤ leAt slot 40 2 || !(zerosAt slot 42 4) then none
  else some { op := .put, count := leAt slot 4 4, src := leAt slot 16 8, dst := leAt slot 24 8, ringVa := 0
              id := leAt slot 40 2, sfmt := .bf16, dfmt := .bf16, norm := false, rings := 0 }

/-- Admission (R447): checks 1 to 4, with NORM only in a reduce frame. -/
def State.collAdmit (s : State) (c : Nat) (slot : List Byte) (j? : Option CollJob) : State :=
  match j? with
  | none => s.refuse c (hdrOf slot) 0x11
  | some j => s.admitNotStarted c slot (fun f => !j.norm || s.kindOf (s.partOf c) f = .reduce) (.coll j)

/-- REDUCE_SCATTER (R447, R451). -/
def execReduceScatter (c : CtxId) (s : State) : Res :=
  .next (s.onCommand c.val 0x30 (fun slot => s.collAdmit c.val slot (ringOf? .reduceScatter slot)))

/-- ALL_GATHER (R447, R452). -/
def execAllGather (c : CtxId) (s : State) : Res :=
  .next (s.onCommand c.val 0x31 (fun slot => s.collAdmit c.val slot (ringOf? .allGather slot)))

/-- ALL_REDUCE (R447, R452). -/
def execAllReduce (c : CtxId) (s : State) : Res :=
  .next (s.onCommand c.val 0x32 (fun slot => s.collAdmit c.val slot (ringOf? .allReduce slot)))

/-- PUT (R447, R456). -/
def execPut (c : CtxId) (s : State) : Res :=
  .next (s.onCommand c.val 0x33 (fun slot => s.collAdmit c.val slot (putOf? slot)))

/-- LANDING (R456, R461). -/
def execLanding (r : MbxReq) (s : State) : Res :=
  .next (s.mbxRun r .coll { num := 0x10, read := true, write := true, len := 4 } (fun _ wr ws t =>
    let p := t.selPart r.req r.win
    let x := t.part p
    if wr then
      let base := natOf (ws.take 2)
      let size := natOf (ws.drop 2)
      if base ≠ 0 && (base % 4096 ≠ 0 || 2 ^ 32 < size || !(t.grantedRange p base size)) then itemBad t
      else itemDone (t.setPart p { x with landing := (base, size) })
    else itemRead t (wordsOf 2 x.landing.1 ++ wordsOf 2 x.landing.2)))

end Sys2Proof.Machine
end

