-- ==== Sys2Proof/Machine/Kite.lean ====
section
/-! DEFINITION. Kite: digests (R476), the transport of streams (R471 to R473), checkpoints (R466 to R469), the cadence
(R475), buddies (R478), restores (R482 to R486) and host feeds (R489 to R491). -/

namespace Sys2Proof.Machine

/-- Digits of an integer square root, from bit `n` − 1 down. -/
def rootFrom (q : Nat) : Nat → Nat → Nat
  | 0, r => r
  | n + 1, r => rootFrom q n (if (r + 2 ^ n) * (r + 2 ^ n) ≤ q then r + 2 ^ n else r)

/-- A group is host-fed (R488). -/
def State.hostFed (s : State) : Bool := !(narogPresent s.variant)

/-- The moments of a table tensor are BF16 (R464). -/
def State.kM16 (s : State) (g : Nat) (x : KTensor) : Bool := if s.hostFed then x.mom16 else bit (s.sgCfg g) 3

def State.kMom (s : State) (g : Nat) (x : KTensor) : Nat := if s.kM16 g x then 2 else 4

/-- Address of the tag pair of a row (R375, R488). -/
def State.kTagAt (s : State) (g : Nat) (x : KTensor) (row : Nat) : Nat :=
  x.state + if s.hostFed then 16 * row else tagOff (x.rows * x.elems) (s.kMom g x) row

/-- Address of leaf k of a row (R464, R488). -/
def State.kLeafAt (s : State) (g : Nat) (x : KTensor) (row k : Nat) : Nat :=
  x.state + if s.hostFed then roundUp (16 * x.rows) 4096 + 64 * row + 32 * k
    else leafOff (x.rows * x.elems) (s.kMom g x) x.rows row k

/-- Tags of a row. -/
def State.kTags (s : State) (g : Nat) (x : KTensor) (row : Nat) : Nat × Nat :=
  let b := s.devRead (s.kTagAt g x row) 16
  (leAt b 0 8, leAt b 8 8)

/-- Current slot of a row and its tag, under a commit number (R377). -/
def State.kSlot (s : State) (g : Nat) (x : KTensor) (commit row : Nat) : Option (Nat × Nat) :=
  let t := s.kTags g x row
  (currentSlot commit t.1 t.2).map (fun k => (k, if k = 0 then t.1 else t.2))

/-- Bytes of a row's row bytes (R476). -/
def State.kRowLen (s : State) (g : Nat) (x : KTensor) : Nat := x.elems * (4 + 2 * s.kMom g x)

/-- Row bytes of a row in a slot of a Narog group's state area (R375, R376, R476). -/
def State.kRowBytes (s : State) (g : Nat) (x : KTensor) (row slot : Nat) : List Byte :=
  let n := x.rows * x.elems
  let m := s.kMom g x
  let base := x.state + slot * slotBytes n m
  let el := x.elems
  let w := if bit (s.sgCfg g) 2 then
      (((words16 (s.devRead (base + 2 * row * el) (2 * el)) el).zip
        (words16 (s.devRead (base + 2 * n + 2 * row * el) (2 * el)) el)).flatMap
          (fun (p : Word × Word) => leBytes 2 p.2.toNat ++ leBytes 2 p.1.toNat))
    else s.devRead (base + 4 * row * el) (4 * el)
  w ++ s.devRead (base + 4 * n + row * el * m) (el * m) ++ s.devRead (base + 4 * n + n * m + row * el * m) (el * m)

/-- Kite writes as an agent, for no context (R318). -/
def kiteWrites : Agent × Option Nat := (.kite, none)

/-- Row bytes written into a slot of a state area. -/
def State.kWriteRow (s : State) (g : Nat) (x : KTensor) (row slot : Nat) (b : List Byte) : State :=
  let n := x.rows * x.elems
  let m := s.kMom g x
  let base := x.state + slot * slotBytes n m
  let el := x.elems
  let ws := words32 b el
  let t := if bit (s.sgCfg g) 2 then
      (s.devWrite kiteWrites (base + 2 * row * el) (ws.flatMap (fun w => leBytes 2 (w.toNat / 65536)))).devWrite kiteWrites
        (base + 2 * n + 2 * row * el) (ws.flatMap (fun w => leBytes 2 (w.toNat % 65536)))
    else s.devWrite kiteWrites (base + 4 * row * el) (bytesAt b 0 (4 * el))
  (t.devWrite kiteWrites (base + 4 * n + row * el * m) (bytesAt b (4 * el) (el * m))).devWrite kiteWrites (base + 4 * n + n * m + row * el * m)
    (bytesAt b (4 * el + el * m) (el * m))

/-- What Kite's reads of some ranges leave (R318, R352, R371): it reads as an agent without a context; none while a slice
or a stack cannot take one of them. What it makes of a sector with an uncorrectable error is not stated: it takes the bytes
that stand there (log 151). -/
def State.kSeen (s : State) (rs : List (Nat × Nat)) : Option State := s.agentReads false rs

/-- The ranges of a row's row bytes in a slot. -/
def State.kRowRanges (s : State) (g : Nat) (x : KTensor) (row slot : Nat) : List (Nat × Nat) :=
  let n := x.rows * x.elems
  let m := s.kMom g x
  let base := x.state + slot * slotBytes n m
  let el := x.elems
  (if bit (s.sgCfg g) 2 then [(base + 2 * row * el, 2 * el), (base + 2 * n + 2 * row * el, 2 * el)]
    else [(base + 4 * row * el, 4 * el)]) ++
    [(base + 4 * n + row * el * m, el * m), (base + 4 * n + n * m + row * el * m, el * m)]

/-- The ranges that a shard digest reads: every row's tags and current leaf. -/
def State.kDigestRanges (s : State) (g commit : Nat) : List (Nat × Nat) :=
  (s.kgroup g).table.flatMap (fun x => (List.range x.rows).flatMap (fun row =>
    (s.kTagAt g x row, 16) :: (match s.kSlot g x commit row with
      | none => []
      | some k => [(s.kLeafAt g x row k.1, 32)])))

/-- The ranges that a working-copy digest reads. -/
def State.kCopyRanges (s : State) (g : Nat) : List (Nat × Nat) :=
  (s.kgroup g).table.flatMap (fun x =>
    (x.wc, x.rows * x.elems * x.wcFmt.width / 8) :: (if x.wcFmt = .bf16 then [] else [(x.scale, x.rows * x.elems / 32)]))

/-- Current leaves of a tensor in row order; none when some row has no current slot (R465, R488). -/
def State.kLeaves (s : State) (g : Nat) (x : KTensor) (commit : Nat) : Option (List Byte) :=
  ((List.range x.rows).mapM (fun row =>
    (s.kSlot g x commit row).map (fun k => s.devRead (s.kLeafAt g x row k.1) 32))).map (·.flatten)

/-- Tensor digest (R476). -/
def State.kTensorDigest (s : State) (g commit : Nat) (x : KTensor) : Option (List Byte) :=
  (s.kLeaves g x commit).map (fun l =>
    sha256 (leBytes 4 x.rows ++ leBytes 4 x.elems ++ [if s.kM16 g x then 1 else 0] ++ List.replicate 7 0 ++ hashH l))

/-- Shard digest D under a header (R476). -/
def State.kDigest (s : State) (g commit : Nat) (header : List Byte) : Option (List Byte) :=
  ((s.kgroup g).table.mapM (s.kTensorDigest g commit)).map (fun l => sha256 (header ++ l.flatten))

/-- Working-copy digest V (R476). -/
def State.kCopyDigest (s : State) (g commit : Nat) : List Byte :=
  sha256 (leBytes 8 commit ++ (s.kgroup g).table.flatMap (fun x =>
    let n := x.rows * x.elems
    hashH (s.devRead x.wc (n * x.wcFmt.width / 8)) ++
      hashH (if x.wcFmt = .bf16 then [] else s.devRead x.scale (n / 32))))

/-- Length of the record that begins a byte string, when its header is there. -/
def recLen (b : List Byte) : Option Nat := if b.length < 16 then none else some (16 + leAt b 4 4)

/-- End of the last whole record at or below `n`. -/
def lastEnd : Nat → List Byte → Nat → Nat → Nat
  | 0, _, at_, _ => at_
  | k + 1, b, at_, n =>
    match recLen b with
    | none => at_
    | some l => if l ≤ n && l ≤ b.length then lastEnd k (b.drop l) (at_ + l) (n - l) else at_

/-- A stream whose every byte is released is gone (R473). -/
def KStream.gone (x : KStream) : Bool := x.complete && x.released = x.bytes.length

/-- Records of a stream that the gateway's FLOW_ACK or CONSUMED has released (R473). -/
def State.kReleased (s : State) (k : KPart) (x : KStream) : KStream :=
  if x.host then
    { x with
      released := (x.ends.filter (fun e => e.2 ≤ k.consumed)).foldl (fun m e => max m e.1) x.released
      ends := x.ends.filter (fun e => k.consumed < e.2) }
  else match x.flow.bind (fun n => s.coll.tx.find? (·.num = n)) with
    | none => x
    | some f => { x with released := lastEnd x.bytes.length x.bytes 0 (f.base * 232) }

/-- Release what may be released; the flow of a released stream gives its slot back. -/
def State.kRelease (s : State) (p : Nat) : State :=
  let k := s.kpart p
  let l := k.streams.map (s.kReleased k)
  let t := s.setKpart p { k with streams := l.filter (fun x => !x.gone) }
  (l.filter (·.gone)).foldl (fun t x => match x.flow with
    | none => t
    | some n => t.dropTx n) t

/-- Payload of a Kite flit (R471), its FSEQ still 0. -/
def kPayload (p : Nat) (b : List Byte) : List Byte := [0, 0, 0, 0] ++ leBytes 4 p ++ bytesAt b 0 232

/-- Replace a stream of a partition. -/
def State.setStream (s : State) (p : Nat) (x : KStream) : State :=
  let k := s.kpart p
  s.setKpart p { k with streams := k.streams.map (fun y => if y.id = x.id then x else y) }

/-- The flow of a torus stream, opened when a slot is free (R444, R471). -/
def State.kFlow (s : State) (p : Nat) (x : KStream) : State × KStream :=
  match x.flow with
  | some _ => (s, x)
  | none =>
    if 4096 ≤ s.flowsUsed then (s, x)
    else
      let n := s.newFlowNum
      let y := { x with flow := some n }
      ((s.openTx { num := n, dest := x.dest, vc := 3, kind := 4, since := s.now }).setStream p y, y)

/-- Form the flits of a torus stream that can be formed, and send (R471, R494). -/
def State.kTorus (s : State) (p : Nat) (x : KStream) : State :=
  let (t, y) := s.kFlow p x
  match y.flow.bind (fun n => t.coll.tx.find? (·.num = n)) with
  | none => t
  | some f =>
    let made := f.base + f.items.length
    let all := if y.complete then ceilDiv y.bytes.length 232 else y.bytes.length / 232
    let new := (upFrom made (all - made)).map (fun i => ({ payload := kPayload p ((y.bytes.drop (232 * i)).take 232) } : TxItem))
    let sent := min y.bytes.length (232 * all) - min y.bytes.length (232 * made)
    ((t.addCount .kite 0 0xA00 sent).appendTx f.num new).pumpFlow f.num

/-- Write bytes of a partition's host ring from byte `n` of its sequence on, as its function (R472). -/
def State.kHostBytes (s : State) (p : Nat) (k : KPart) (n : Nat) (b : List Byte) : State :=
  let room := k.ring.2 - 64
  let o := n % room
  let t := s.emit (.hostWrite p (some k.pasid) (k.ring.1 + 64 + o) (b.take (room - o)))
  if b.length ≤ room - o then t else t.emit (.hostWrite p (some k.pasid) (k.ring.1 + 64) (b.drop (room - o)))

/-- Bytes that the host ring has room for (R472). -/
def KPart.ringRoom (k : KPart) : Nat := k.consumed + k.ring.2 - 64 - k.produced

/-- Bytes of the record under way that a stream has for the host ring: what is left of one taken in part, or the next whole
record while no other stream has one under way (R472). -/
def KPart.due (k : KPart) (x : KStream) : Nat :=
  match k.mid with
  | some (id, n) => if id = x.id then n else 0
  | none =>
    match recLen (x.bytes.drop x.written) with
    | none => 0
    | some l => if x.written + l ≤ x.bytes.length then l else 0

/-- A host stream writes of its record what the ring has room for, and PRODUCED after it (R472). -/
def State.kHostOut (s : State) (p : Nat) (x : KStream) : State :=
  let k := s.kpart p
  let n := min (k.due x) k.ringRoom
  if !k.ringEn || n = 0 then s
  else
    let made := k.produced + n
    let ended := n = k.due x
    let t := (s.kHostBytes p k k.produced ((x.bytes.drop x.written).take n)).emit
      (.hostWrite p (some k.pasid) k.ring.1 (leBytes 8 made))
    ((t.setKpart p { k with produced := made, mid := if ended then none else some (x.id, k.due x - n) }).setStream p
      { x with
        written := x.written + n
        ends := if ended then x.ends ++ [(x.written + n, made)] else x.ends }).addCount .kite 0 0xA00 n

/-- Kite transmits what its streams hold (R471, R472, R487). -/
def State.kTransmit (s : State) (p : Nat) : State :=
  (s.kpart p).streams.foldl (fun t x => if x.host then t.kHostOut p x else t.kTorus p x) s

/-- The records of a KITE flit: its stream bytes join those its flow has received in order (R445, R471). -/
def State.kTakeFlit (s : State) (f : Flit) : State :=
  let x := { s.rxOf f 65536 with vc := 3, part := leAt f.payload 4 1 % 32 }
  if x.seen f.fseq then s.addCount .coll 0 0x808 1
  else if x.base + 1024 ≤ f.fseq || (!(s.coll.rx.any (fun y => y.is f 65536)) && 4096 ≤ s.flowsUsed) then s
  else
    let ahead := (f.fseq, bytesAt f.payload 8 232) :: x.ahead
    let y := x.consume f.fseq s.now
    let new := (upFrom x.base (y.base - x.base)).flatMap (fun i => ((ahead.find? (·.1 = i)).map (·.2)).getD [])
    s.setRx { y with ahead := ahead.filter (fun a => y.base ≤ a.1), bytes := x.bytes ++ new }

/-- Take every KITE flit delivered here. -/
def State.kIntake (s : State) : State :=
  (s.coll.inbox.filter (fun f => f.kind = 4)).foldl (fun t f => t.kTakeFlit f)
    { s with coll := { s.coll with inbox := s.coll.inbox.filter (fun f => f.kind ≠ 4) } }

/-- One turn of Kite's own work: it takes flits and transmits. -/
def State.kiteRun (s : State) : State := (List.range 32).foldl (fun t p => t.kTransmit p) s.kIntake

/-- FLIT_SLOT (R430): Kite's streams compete for it with the rest. -/
def execFlitSlot (port : PortId) (s : State) : Res :=
  .next (if (s.port port.val).st ≠ .up then s else s.kiteRun.flitSlot port.val)

/-- FLOW_ACK (R446, R473). -/
def execFlowAck (s : State) : Res :=
  .next ((List.range 32).foldl (fun t p => t.kRelease p) s.takeFlowAck)

/-- Where a record comes from: a flow that ends here, or the bytes the host has placed in a staging ring (R470, R489). -/
inductive KSrc where
  | flow (src : BitVec 15) (num : Nat)
  | host (p : Nat)
  deriving DecidableEq, Repr

/-- A record as its consumer sees it. -/
structure KRec where
  src : KSrc
  part : Nat
  type : Nat
  sg : Nat
  commit : Nat
  body : List Byte
  deriving DecidableEq, Repr

/-- LEN fits TYPE (R470). -/
def kLenOk (type len : Nat) : Bool :=
  match type with
  | 0x01 => len = 24
  | 0x02 => 8 ≤ len && len % 8 = 0
  | 0x03 => len = 168
  | 0x04 => len = 0
  | 0x10 => len = 8
  | 0x11 => len = 8
  | 0x20 => len = 40
  | 0x21 => len = 16
  | 0x30 => len = 8
  | 0x31 => len = 56
  | _ => false

/-- A record ends its stream (R471): in one that began with an OPEN a SEAL or an ABORT does; every record but OPEN and ROW
is otherwise a stream of its own. -/
def kFinal (opened : Bool) (type : Nat) : Bool := type = 3 || type = 4 || (!opened && type ≠ 1 && type ≠ 2)

def State.kRx (s : State) (src : BitVec 15) (num : Nat) : Option RxFlow :=
  s.coll.rx.find? (fun x => x.src = src && x.num = num && x.frame = 65536)

/-- Bytes of a staging ring from byte n of the host's sequence on. -/
def State.kStaged (s : State) (k : KPart) (n len : Nat) : List Byte :=
  (List.range len).flatMap (fun i => s.devRead (k.stage.1 + (n + i) % k.stage.2) 1)

/-- Record bytes at the head of a source, when the whole record is there. -/
def State.kHead (s : State) (src : KSrc) : Option (List Byte) :=
  match src with
  | .flow a n => (s.kRx a n).bind (fun x => (recLen x.bytes).bind (fun l =>
      if l ≤ x.bytes.length then some (x.bytes.take l) else none))
  | .host p =>
    let k := s.kpart p
    if k.stage.2 = 0 then none
    else (recLen (s.kStaged k k.taken (min 16 (k.fed - k.taken)))).bind (fun l =>
      if k.taken + l ≤ k.fed then some (s.kStaged k k.taken l) else none)

/-- Take a record away from its source; none while the staging ring cannot be read. The flow of a finished stream is
acknowledged and gives its slot back. -/
def State.kPop (s : State) (src : KSrc) (b : List Byte) : Option State :=
  match src with
  | .flow a n =>
    match s.kRx a n with
    | none => some s
    | some x =>
      if kFinal x.opened (leAt b 0 1) then
        let t := s.ackFlow x
        some { t with coll := { t.coll with rx := t.coll.rx.filter (fun y => !(y.src = a && y.num = n && y.frame = 65536)) } }
      else some (s.setRx { x with bytes := x.bytes.drop b.length, opened := x.opened || leAt b 0 1 = 1 })
  | .host p =>
    let k := s.kpart p
    let at_ := k.taken % k.stage.2
    let n := min b.length (k.stage.2 - at_)
    (s.kSeen [(k.stage.1 + at_, n), (k.stage.1, b.length - n)]).map (fun t =>
      t.setKpart p { k with taken := k.taken + b.length })

def State.kDrop (s : State) (p : Nat) : State := s.addCount .kite p 0x818 1

/-- Partition whose KITE instance a source's records go to (R471). -/
def State.kSrcPart (s : State) (src : KSrc) : Nat :=
  match src with
  | .flow a n => ((s.kRx a n).map (·.part)).getD 0
  | .host p => p

/-- A source accepts a record: from the host only those of a feed or a restore stream (R482, R489). -/
def kKnown (src : KSrc) (b : List Byte) : Bool :=
  kLenOk (leAt b 0 1) (leAt b 4 4) && (match src with
    | .flow _ _ => true
    | .host _ => 1 ≤ leAt b 0 1 && leAt b 0 1 ≤ 4)

/-- Discard the unknown records at the head of a source (R470). -/
def State.kClean : Nat → State → KSrc → State
  | 0, s, _ => s
  | n + 1, s, src =>
    match s.kHead src with
    | none => s
    | some b =>
      if kKnown src b then s
      else
        match s.kPop src b with
        | none => s
        | some t => (t.kDrop (s.kSrcPart src)).kClean n src

/-- Sources with something to give, the flows first. -/
def State.kSources (s : State) : List KSrc :=
  (s.coll.rx.filter (fun x => x.frame = 65536)).map (fun x => KSrc.flow x.src x.num) ++
    ((List.range 32).filter (fun p => (s.kpart p).taken < (s.kpart p).fed)).map KSrc.host

/-- An OPEN in a partition's byte sequence that begins the stream of its restore: the host's feeds share the sequence, and
this OPEN names the restored group's shard and C (R474, R489, R492; log 152). -/
def State.kOpensRestore (s : State) (p commit shard : Nat) : Bool :=
  let r := (s.kpart p).restore
  r.host && commit = r.commit && shard = (s.kgroup r.sg).shard

/-- A record that is not taken yet: one that would start new work of a KITE in hold (R70), and the records of a host
restore until CLEARING is over (R483). -/
def State.kWaits (s : State) (src : KSrc) (b : List Byte) : Bool :=
  let type := leAt b 0 1
  match src with
  | .flow _ _ => s.inHold .kite 0 && (type = 0x20 || type = 0x30)
  | .host p =>
    let r := (s.kpart p).restore
    let mine := if s.hostFed then type = 1 && s.kOpensRestore p (leAt b 8 8) (leAt b 16 8) else r.host
    (r.state = 1 && mine) || (s.inHold .kite p && type = 1 && !(r.state = 2 && mine))

/-- Kite takes what has arrived, discards what no record of R470 is, and takes the first record of a TYPE that stands at
the head of its source. -/
def State.kTake (s0 : State) (type : Nat) : State × Option KRec :=
  let i := s0.kIntake
  let s := i.kSources.foldl (fun t x => t.kClean 64 x) i
  ((s.kSources.findSome? (fun x => (s.kHead x).bind (fun b =>
    if leAt b 0 1 = type && !(s.kWaits x b) then (s.kPop x b).map (fun t => (t, some {
      src := x, part := s.kSrcPart x, type := type, sg := leAt b 1 1, commit := leAt b 8 8, body := b.drop 16 }))
    else none))).getD (s, none))

/-- Answer or ask another node: a stream of one record (R471). -/
def State.kSend (s : State) (p g : Nat) (dest : BitVec 15) (b : List Byte) : State := s.kOpen p g false dest b true

/-- Node a record came from. -/
def KRec.node (r : KRec) : BitVec 15 :=
  match r.src with
  | .flow a _ => a
  | .host _ => 0

/-- The record comes from a staging ring. -/
def KRec.fromHost (r : KRec) : Bool :=
  match r.src with
  | .flow _ _ => false
  | .host _ => true

/-- Armed group of a partition with this SHARD_ID (R464). -/
def State.kShard (s : State) (p shard : Nat) : Option Nat :=
  if shard = 0 then none
  else (upFrom (s.sgBase p) (s.sgCount p)).find? (fun g => (s.kgroup g).shard = shard)

/-- I of R475 in cycles: sum and number of the costs, first and last flip and the intervals between, T with its prior, and
F. None without an interval. -/
def intervalOf (cs nc step k t f : Nat) : Option Nat :=
  if nc = 0 || k = 0 || step = 0 then none
  else some (max 1 (min 4096 ((rootFrom (8 * cs * t * (k * k) / (nc * (f + 1) * (step * step))) 14 0 + 1) / 2)))

/-- T and the prior of R475, in cycles. -/
def State.kSince (s : State) (p g : Nat) : Nat :=
  s.now - (s.kgroup g).cadence + field (s.cfg .kite p 0x10C) 15 0 * 3600 * 800000000

/-- Recompute I (R475). Without an interval between flips it is a free value from 1 to 4,096. DESIGN CHOICE (log 35). -/
def State.kCadence (s : State) (p g : Nat) : State :=
  let x := s.kgroup g
  if !(s.kAdaptive p) then s
  else match intervalOf x.costs.sum x.costs.length (x.flips.getLastD 0 - x.flips.headD 0) (x.flips.length - 1) (s.kSince p g)
      x.fails with
    | some i => s.setKgroup g { x with interval := i }
    | none => (s.setKgroup g { x with interval := 1 + s.freeWord.toNat % 4096 }).useFree 1

/-- A sealed commit has what it needs to be DURABLE (R469). -/
def SealWait.done (w : SealWait) (buddy : Bool) : Bool := w.ack && (w.buddy || !buddy)

/-- Sealed commits that the store and the buddy have acknowledged become DURABLE (R469, R475). -/
def State.kSettle (s : State) (p g : Nat) : State :=
  let x := s.kgroup g
  let en := bit (s.cfg .kite p 0x104) 15
  let ok := x.waits.filter (·.done en)
  if ok = [] then s
  else
    let costs := x.costs ++ ok.map (fun w => s.now - w.flippedAt)
    (s.setKgroup g { x with
      durable := ok.foldl (fun m w => max m w.commit) x.durable, waits := x.waits.filter (fun w => !(w.done en))
      costs := costs.drop (costs.length - 16) }).kCadence p g

/-- An acknowledgement of a commit. -/
def State.kAcked (s : State) (p g commit : Nat) (f : SealWait → SealWait) : State :=
  let x := s.kgroup g
  (s.setKgroup g { x with waits := x.waits.map (fun w => if w.commit = commit then f w else w) }).kSettle p g

/-- The store's ACK, by either path (R469, R472). -/
def State.storeAck (s : State) (p shard commit : Nat) : State :=
  match s.kShard p shard with
  | none => s
  | some g => s.kAcked p g commit (fun w => { w with ack := true })

/-- ACK (R469). -/
def execAck (s : State) : Res :=
  .next (match s.kTake 0x10 with
    | (t, none) => t
    | (t, some r) => t.storeAck r.part (leAt r.body 0 8) r.commit)

/-- STORE_TIMEOUT (R469): 1 ms is 800,000 cycles. -/
def execStoreTimeout (g : Fin 256) (s : State) : Res :=
  let x := s.kgroup g.val
  .next (match s.partOfSg g.val with
    | none => s
    | some p =>
      match x.waits.find? (fun w => !w.late && w.sealedAt + 800000 * field (s.cfg .kite p 0x10C) 31 16 ≤ s.now) with
      | none => s
      | some w =>
        (s.setKgroup g.val { x with
          waits := x.waits.map (fun v => if v = w then { v with late := true } else v)
          base := if x.durable = 0 then none else some x.durable }).kEvent p g.val 22 0x7002)

/-- Enter a commit among a key's entries: over the same commit, else behind the others, of which 8 stay (R478). -/
def holdEntry (l : List (Nat × List Byte)) (commit : Nat) (d : List Byte) : List (Nat × List Byte) :=
  if l.any (·.1 = commit) then l.map (fun e => if e.1 = commit then (commit, d) else e)
  else (l ++ [(commit, d)]).drop (l.length + 1 - 8)

/-- The buddy table after a BUDDY_PUT; none when no key slot is free (R478). -/
def buddyPut (l : List BuddyKey) (node : BitVec 15) (p shard commit : Nat) (d : List Byte) : Option (List BuddyKey) :=
  if l.any (fun k => k.node = node && k.part = p && k.shard = shard) then
    some (l.map (fun k => if k.node = node && k.part = p && k.shard = shard then { k with held := holdEntry k.held commit d }
      else k))
  else if 256 ≤ l.length then none
  else some (l ++ [{ node := node, part := p, shard := shard, held := [(commit, d)] }])

/-- BUDDY_PUT (R478). -/
def execBuddyPut (s : State) : Res :=
  .next (match s.kTake 0x20 with
    | (t, none) => t
    | (t, some r) =>
      let shard := leAt r.body 0 8
      let new := buddyPut t.buddies r.node r.part shard r.commit (bytesAt r.body 8 32)
      (({ t with buddies := new.getD t.buddies } : State).kSend r.part 0 r.node
        (kRecord 0x21 r.sg r.commit (leBytes 8 shard ++ leBytes 8 (if new.isSome then 0 else 1)))).kTransmit r.part)

/-- BUDDY_ACK (R469, R478). -/
def execBuddyAck (s : State) : Res :=
  .next (match s.kTake 0x21 with
    | (t, none) => t
    | (t, some r) =>
      match t.kShard r.part (leAt r.body 0 8) with
      | none => t
      | some g =>
        if leAt r.body 8 1 = 0 then t.kAcked r.part g r.commit (fun w => { w with buddy := true })
        else if leAt r.body 8 1 = 1 then t.kEvent r.part g 21 0x7003
        else t)

/-- A commit is sealed (R469, R478): its SEAL completes its stream, and the buddy is told. -/
def State.kSeal (s : State) (p g stream commit flippedAt rows : Nat) (header d : List Byte) : State :=
  let x := s.kgroup g
  let loc := g - s.sgBase p
  let t := (s.setKgroup g { x with
    ckpt := none, sealed_ := commit, base := some commit, digest := d, sealedSince := true
    waits := x.waits ++ [{ commit := commit, sealedAt := s.now, flippedAt := flippedAt }] }).kAppend p stream
      (kRecord 0x03 loc commit (header ++ d ++ leBytes 8 rows)) true
  let u := t.addCount .kite p 0x80C 1
  if bit (u.cfg .kite p 0x104) 15 then
    u.kSend p g (BitVec.setWidth 15 (u.cfg .kite p 0x104)) (kRecord 0x20 loc commit (leBytes 8 x.shard ++ d))
  else u

/-- Rows of a table as (tensor, row), in ascending order. -/
def tableRows (l : List KTensor) : List (Nat × KTensor × Nat) :=
  l.zipIdx.flatMap (fun x => (List.range x.1.rows).map (fun r => (x.2, x.1, r)))

/-- The record a sweep makes of one row; none when the row is not swept (R466 part 3). -/
def State.kSwept (s : State) (p g : Nat) (c : Ckpt) (x : Nat × KTensor × Nat) : Option (List Byte) :=
  if c.rows.contains (x.1, x.2.2) then none
  else match s.kSlot g x.2.1 c.commit x.2.2 with
    | none => none
    | some (k, tag) =>
      if (match c.base with | none => true | some b => b < tag && tag < c.commit) then
        some (rowRecord (g - s.sgBase p) c.commit x.1 x.2.2 (s.kRowBytes g x.2.1 x.2.2 k))
      else none

/-- What the sweep reads of a row: its tags, unless the checkpoint has it already, and the row where it is sent. -/
def State.kSweepRanges (s : State) (g : Nat) (c : Ckpt) (x : Nat × KTensor × Nat) (sent : Bool) : List (Nat × Nat) :=
  if c.rows.contains (x.1, x.2.2) then []
  else
    (s.kTagAt g x.2.1 x.2.2, 16) :: (match s.kSlot g x.2.1 c.commit x.2.2 with
      | none => []
      | some k => if sent then s.kRowRanges g x.2.1 x.2.2 k.1 else [])

/-- The sweep goes on from row to row while the staging ring has room (R468). -/
def State.kSweep (p g : Nat) : List (Nat × KTensor × Nat) → State → State
  | [], s => s
  | x :: xs, s =>
    let k := s.kgroup g
    match k.ckpt with
    | none => s
    | some c =>
      match s.kSwept p g c x, s.kSeen (s.kSweepRanges g c x (s.kSwept p g c x).isSome) with
      | _, none => s
      | none, some t => State.kSweep p g xs (t.setKgroup g { k with ckpt := some { c with swept := c.swept + 1 } })
      | some r, some t =>
        if (s.kpart p).room r.length then
          State.kSweep p g xs ((t.setKgroup g
            { k with ckpt := some { c with swept := c.swept + 1, count := c.count + 1 } }).kAppend p c.stream r false)
        else s

/-- D of a checkpoint whose rows have all been read; without a current slot for every row D cannot be computed, and the
stream ends with ABORT. The SEAL follows once the staging ring has room for it (R466, R469). -/
def State.kSweptAll (s : State) (p g : Nat) (c : Ckpt) : State :=
  match (match c.digest with
    | some d => some (s, some d)
    | none => (s.kSeen (s.kDigestRanges g c.commit)).map (fun t => (t, s.kDigest g c.commit c.header))) with
  | none => s
  | some (t, none) => t.kAbandon p g
  | some (t, some d) =>
    if (t.kpart p).room 184 then t.kSeal p g c.stream c.commit c.flippedAt c.count c.header d
    else t.setKgroup g { t.kgroup g with ckpt := some { c with digest := some d } }

/-- SWEEP_COMPLETE (R466, R468, R469): the sweep goes on; once every row is read, D is computed and the commit is sealed. -/
def execSweepComplete (g : Fin 256) (s : State) : Res :=
  .next (match s.partOfSg g.val with
    | none => s
    | some p =>
      match (s.kgroup g.val).ckpt with
      | none => s
      | some c0 =>
        if !c0.flipped then s
        else
          let all := tableRows (s.kgroup g.val).table
          let t := State.kSweep p g.val (all.drop c0.swept) s
          (match (t.kgroup g.val).ckpt with
          | none => t
          | some c => if c.swept < all.length then t else t.kSweptAll p g.val c).kTransmit p)

/-- A feed of a group in its partition is abandoned: its stream ends with ABORT, and it goes on unsent (R467). -/
def State.kFeedUnsent (s : State) (p g : Nat) : State :=
  let x := s.kgroup g
  match x.feed with
  | none => s
  | some f =>
    match f.stream with
    | none => s
    | some id =>
      ((s.setKgroup g { x with feed := some { f with stream := none } }).kAppend p id
        (kRecord 0x04 (g - s.sgBase p) f.commit []) true).addCount .kite p 0x814 1

/-- A feed ends without a SEAL: nothing of it is kept (R489). The tags that it has written become all ones, as the tags of
an empty slot are, so that no later commit makes its leaves current (log 152). -/
def State.kFeedDropped (s : State) (p g : Nat) : State :=
  let t := s.kFeedUnsent p g
  let x := t.kgroup g
  (((x.feed.map (·.tags)).getD []).foldl (fun u a => u.devWrite kiteWrites a (List.replicate 8 0xFF)) t).setKgroup g
    { x with feed := none }

/-- Every open checkpoint of a partition is abandoned (R467). -/
def State.kAbandonAll (s : State) (p : Nat) : State :=
  (upFrom (s.sgBase p) (s.sgCount p)).foldl (fun t g => (t.kAbandon p g).kFeedUnsent p g) s

/-- A restore of the partition is open (R482). -/
def KPart.restoring (k : KPart) : Bool := 1 ≤ k.restore.state && k.restore.state ≤ 5

def State.setRestore (s : State) (p : Nat) (f : Restore → Restore) : State :=
  s.setKpart p { s.kpart p with restore := f (s.kpart p).restore }

/-- The record belongs to the stream of the partition's restore, which is in RECEIVING (R483). The store sends records
with the SG that the lost module gave them; only where the host's feeds share the byte sequence (R492) does SG tell, as the
stream's OPEN gave it (log 152). -/
def State.kRestores (s : State) (r : KRec) : Bool :=
  let x := (s.kpart r.part).restore
  x.state = 2 && x.host = r.fromHost && (!(s.hostFed && r.fromHost) || x.num = some r.sg)

/-- Tensor and row that a ROW record names, when they are in range and its length is theirs (R483, R490). -/
def State.kRowOf (s : State) (g : Nat) (b : List Byte) : Option (KTensor × Nat) :=
  ((s.kgroup g).table[leAt b 0 2]?).bind (fun x =>
    if leAt b 4 4 < x.rows && b.length = 8 + roundUp (s.kRowLen g x) 8 then some (x, leAt b 4 4) else none)

/-- A ROW of a restore (R483, R491). -/
def State.kRestoreRow (s : State) (r : KRec) : State :=
  let p := r.part
  let g := (s.kpart p).restore.sg
  match s.kRowOf g r.body with
  | none => s.kDrop p
  | some (x, row) =>
    let b := bytesAt r.body 8 (s.kRowLen g x)
    let t := if s.hostFed then s else s.kWriteRow g x row 0 b
    let u := (t.devWrite kiteWrites (t.kLeafAt g x row 0) (sha256 b)).devWrite kiteWrites (t.kTagAt g x row)
      (leBytes 8 (s.kpart p).restore.commit ++ leBytes 8 0)
    if s.hostFed && !(s.kpart p).restore.host then
      u.kOpen p g true 0 (kRecord 0x02 r.sg r.commit r.body) true
    else u

/-- A ROW of a feed (R490): its leaf and tag in the shadow slot, and the record in the stream; none while the row's tags
cannot be read. -/
def State.kFeedRow (s : State) (r : KRec) : Option State :=
  let p := r.part
  let g := s.sgBase p + r.sg
  let x := s.kgroup g
  match x.feed with
  | none => some (s.kDrop p)
  | some f =>
    if f.drop then some s
    else
      match s.kRowOf g r.body with
      | none => some (s.kDrop p)
      | some (e, row) =>
        let sh := match s.kSlot g e (s.sg g).commit row with
          | none => 0
          | some k => 1 - k.1
        let tag := s.kTagAt g e row + 8 * sh
        (s.kSeen [(s.kTagAt g e row, 16)]).map (fun t =>
          let u := ((t.devWrite kiteWrites (s.kLeafAt g e row sh) (sha256 (bytesAt r.body 8 (s.kRowLen g e)))).devWrite
            kiteWrites tag (leBytes 8 f.commit)).setKgroup g
              { x with feed := some { f with count := f.count + 1, tags := f.tags ++ [tag] } }
          match f.stream with
          | none => u
          | some id => u.kAppend p id (kRecord 0x02 r.sg f.commit r.body) false)

/-- A record of a host-fed group of the partition that comes from the host. -/
def State.kIsFeed (s : State) (r : KRec) : Bool := s.hostFed && r.sg < s.sgCount r.part && r.fromHost

/-- An OPEN of a feed (R490): a feed Kite does not accept is discarded up to its end and counted. -/
def State.kFeedOpen (s0 : State) (r : KRec) : State :=
  let p := r.part
  let g := s0.sgBase p + r.sg
  let s := s0.kFeedDropped p g
  let x := s.kgroup g
  if r.commit ≤ (s.sg g).commit || x.shard = 0 || leAt r.body 0 8 ≠ x.shard ||
      leAt r.body 16 4 ≠ x.table.length || !((s.sg g).ready) || (s.kpart p).restoring then
    (s.kDrop p).setKgroup g { x with feed := some { commit := r.commit, drop := true } }
  else if s.kDest p = 0 || !(s.kOn p) then s.setKgroup g { x with feed := some { commit := r.commit } }
  else
    (s.setKgroup g { x with feed := some { commit := r.commit, stream := some s.nextStream } }).kOpen p g (s.kDest p = 2)
      (s.kGateway p) (x.openRecord r.sg r.commit) false

/-- OPEN_RECORD (R474, R489, R490): the OPEN of a feed; that of a restore stream tells Kite its SG at most. -/
def execOpenRecord (s : State) : Res :=
  .next (match s.kTake 0x01 with
    | (t, none) => t
    | (t, some r) =>
      let x := (t.kpart r.part).restore
      if t.hostFed && r.fromHost && x.state = 2 && t.kOpensRestore r.part r.commit (leAt r.body 0 8) then
        t.setRestore r.part (fun y => { y with num := some r.sg })
      else if t.kRestores r then t
      else if t.kIsFeed r then (t.kFeedOpen r).kTransmit r.part
      else if r.fromHost then t.kDrop r.part
      else t)

/-- ROW_RECORD (R483, R490). -/
def execRowRecord (s : State) : Res :=
  .next (match s.kTake 0x02 with
    | (t, none) => t
    | (t, some r) =>
      if t.kRestores r then (t.kRestoreRow r).kTransmit r.part
      else if t.kIsFeed r then ((t.kFeedRow r).map (·.kTransmit r.part)).getD s
      else t.kDrop r.part)

/-- D and ROWCOUNT are written into the SEAL where it lies in the staging ring (R490). -/
def State.kStagedSeal (s : State) (p : Nat) (b : List Byte) : State :=
  let k := s.kpart p
  b.zipIdx.foldl (fun t x => t.devWrite kiteWrites (k.stage.1 + (k.taken + x.2 - b.length) % k.stage.2) [x.1]) s

/-- The SEAL of a feed (R490): the record is written, and C is committed; then D, and the SEAL; none while what D reads
cannot be read. -/
def State.kFeedSeal (s : State) (r : KRec) : Option State :=
  let p := r.part
  let g := s.sgBase p + r.sg
  let x := s.kgroup g
  match x.feed with
  | none => some (s.kDrop p)
  | some f =>
    if f.drop then some (s.setKgroup g { x with feed := none })
    else
      let t := s.flipRecord g f.commit (leAt r.body 16 8) (BitVec.ofNat 32 (leAt r.body 24 4)) (BitVec.ofNat 32 (leAt r.body 28 4))
      let u := t.setKgroup g ({ x with feed := none }.noteFlip s.now)
      let h := u.headerNow p g
      (u.kSeen (u.kDigestRanges g f.commit)).map (fun v =>
        match u.kDigest g f.commit h, f.stream with
        | none, none => v
        | none, some id => (v.kAppend p id (kRecord 0x04 r.sg f.commit []) true).addCount .kite p 0x814 1
        | some d, none => v.kStagedSeal p (h ++ d ++ leBytes 8 f.count)
        | some d, some id => (v.kStagedSeal p (h ++ d ++ leBytes 8 f.count)).kSeal p g id f.commit s.now f.count h d)

/-- The SEAL of a restore (R483): CHECKING begins. -/
def State.kRestoreSeal (s : State) (r : KRec) : State :=
  s.setRestore r.part (fun x => { x with
    state := 3, header := bytesAt r.body 0 128, digest := bytesAt r.body 128 32 })

/-- SEAL_RECORD (R483, R490). -/
def execSealRecord (s : State) : Res :=
  .next (match s.kTake 0x03 with
    | (t, none) => t
    | (t, some r) =>
      if t.kRestores r then t.kRestoreSeal r
      else if t.kIsFeed r then ((t.kFeedSeal r).map (·.kTransmit r.part)).getD s
      else t)

/-- ABORT_RECORD (R474, R489): a feed is discarded. -/
def execAbortRecord (s : State) : Res :=
  .next (match s.kTake 0x04 with
    | (t, none) => t
    | (t, some r) =>
      if t.kIsFeed r && !(t.kRestores r) then (t.kFeedDropped r.part (t.sgBase r.part + r.sg)).kTransmit r.part
      else t)

/-- RESTORE_REQ (R474): the request reaches a node; the store that answers lies behind it, outside the module. -/
def execRestoreReq (s : State) : Res :=
  .next (match s.kTake 0x11 with
    | (t, _) => t)

/-- WC_STALE is 1, or a job of the group has started before its copies are hashed: it is BUSY (R396, R486, R491; log 104). -/
def State.kStale (s : State) (g : Nat) : Bool := (s.sg g).wcStale || s.sgBusy g

/-- Answer to a REPL_REQ (R486): STATUS, PEER_COMMIT, V. STATUS 0 in every case that the list does not name. -/
def State.replAnswer (s : State) (p shard commit : Nat) : Nat × Nat × List Byte :=
  match s.kShard p shard with
  | none => (2, 0, List.replicate 32 0)
  | some g =>
    let c := (s.sg g).commit
    if c ≠ commit || s.kStale g then (1, c, List.replicate 32 0) else (0, c, s.kCopyDigest g c)

/-- REPL_REQ (R486); the copies are read for V. -/
def execReplReq (s : State) : Res :=
  .next (match s.kTake 0x30 with
    | (t, none) => t
    | (t, some r) =>
      let shard := leAt r.body 0 8
      let (st, c, v) := t.replAnswer r.part shard r.commit
      match t.kSeen (if st = 0 then t.kCopyRanges ((t.kShard r.part shard).getD 0) else []) with
      | none => s
      | some u => (u.kSend r.part 0 r.node
          (kRecord 0x31 r.sg r.commit (leBytes 8 shard ++ leBytes 8 st ++ leBytes 8 c ++ v))).kTransmit r.part)

/-- The answer ends the restore or returns it to READY (R485). -/
def State.replEnd (s : State) (p status : Nat) (v : List Byte) : State :=
  let x := (s.kpart p).restore
  if status = 0 && v = x.v then (s.setRestore p (fun y => { y with state := 6, result := 0 })).kEvent p x.sg 17 0x7007
  else if status = 0 then (s.setRestore p (fun y => { y with state := 7, result := 3 })).kEvent p x.sg 18 0x7006
  else if status = 1 then s.setRestore p (fun y => { y with state := 4, result := 4 })
  else if status = 2 then s.setRestore p (fun y => { y with state := 4, result := 5 })
  else s

/-- REPL_ANS (R485): the answer of the peer that REPLICA named, for C and the shard of the restore. -/
def execReplAns (s : State) : Res :=
  .next (match s.kTake 0x31 with
    | (t, none) => t
    | (t, some r) =>
      let x := (t.kpart r.part).restore
      if x.state = 5 && x.peer = r.node && r.commit = x.commit && leAt r.body 0 8 = (t.kgroup x.sg).shard then
        t.replEnd r.part (leAt r.body 8 1) (bytesAt r.body 24 32)
      else t)

/-- RESTORE_CLEAR_DONE (R483): every tag is all ones; on the torus the store is asked. A restore written in hold has not
begun (R70). -/
def execRestoreClearDone (part : PartId) (s : State) : Res :=
  let p := part.val
  let r := (s.kpart p).restore
  .next (if r.state ≠ 1 || (!r.begun && s.inHold .kite p) then s
    else
      let x := s.kgroup r.sg
      let t := (tableRows x.table).foldl (fun t e => t.devWrite kiteWrites (s.kTagAt r.sg e.2.1 e.2.2) (List.replicate 16 0xFF)) s
      let u := t.setRestore p (fun y => { y with state := 2 })
      if r.host then u
      else (u.kSend p r.sg (u.kGateway p) (kRecord 0x11 (r.sg - u.sgBase p) r.commit (leBytes 8 x.shard))).kTransmit p)

/-- RNG state of a header (R466). -/
def snapOf (h : List Byte) : RngSnap :=
  { seed := BitVec.ofNat 64 (leAt h 40 8), mode := leAt h 48 1 = 1, cursor := BitVec.ofNat 64 (leAt h 32 8)
    pos := (List.range 4).map (fun i => BitVec.ofNat 64 (leAt h (56 + 8 * i) 8))
    rate := (List.range 4).map (fun i => BitVec.ofNat 32 (leAt h (88 + 4 * i) 4)) }

/-- POS_S that is in step with the data (R481). -/
def RngSnap.due (n : RngSnap) (i : Nat) : BitVec 64 := n.cursor * BitVec.setWidth 64 (n.rate.getD i 0)

/-- Stream i is in step (R481). -/
def RngSnap.inStep (n : RngSnap) (i : Nat) : Bool := n.rate.getD i 0 = 0 || n.pos.getD i 0 = n.due i

/-- The RNG check fails unless the cursor has authority (R484). -/
def RngSnap.skew (n : RngSnap) : Bool := n.mode && (List.range 4).any (fun i => !(n.inStep i))

/-- Positions after the check: those out of step follow the cursor (R484). -/
def RngSnap.moved (n : RngSnap) : List (BitVec 64) :=
  (List.range 4).map (fun i => if n.mode && !(n.inStep i) then n.due i else n.pos.getD i 0)

/-- The partition's RNG takes a header's values (R483 step 5). -/
def State.loadRng (s : State) (p : Nat) (n : RngSnap) : State :=
  let t := s.setKpart p { s.kpart p with seed := n.seed, cursor := n.cursor, pos := n.moved }
  (List.range 4).foldl (fun u i => u.setCfg .rng p (0x110 + 4 * i) (n.rate.getD i 0)) (t.setCfg .rng p 0x100 (flag n.mode 0))

/-- A check of CHECKING fails (R483): the SEAL's fields, a row that was never received, D, or EXPECT. -/
def State.restoreBad (s : State) (p : Nat) (r : Restore) : Bool :=
  let x := s.kgroup r.sg
  leAt r.header 0 8 ≠ x.shard || leAt r.header 8 8 ≠ r.commit || leAt r.header 52 4 ≠ x.table.length ||
    s.kDigest r.sg r.commit r.header ≠ some r.digest ||
    (!((s.kpart p).expect.all (· == 0)) && (s.kpart p).expect ≠ r.digest)

/-- RESTORE_CHECK_DONE (R483, R484). -/
def execRestoreCheckDone (part : PartId) (s0 : State) : Res :=
  let p := part.val
  let r := (s0.kpart p).restore
  let n := snapOf r.header
  .next (match s0.kSeen (s0.kDigestRanges r.sg r.commit) with
  | none => s0
  | some s =>
    if r.state ≠ 3 then s0
    else if s0.restoreBad p r then (s.setRestore p (fun y => { y with state := 7, result := 1 })).kEvent p r.sg 20 0x7004
    else if n.skew && !(bit (s.cfg .kite p 0x108) 0) then
      (s.setRestore p (fun y => { y with state := 7, result := 2 })).kEvent p r.sg 19 0x7005
    else
      ((s.initRecord r.sg r.commit (leAt r.header 16 8) (BitVec.ofNat 32 (leAt r.header 24 4))
        (BitVec.ofNat 32 (leAt r.header 28 4))).loadRng p n).setRestore p (fun y => { y with state := 4, result := 0 }))

end Sys2Proof.Machine
end

