-- ==== Sys2Proof/Machine/KiteItems.lean ====
section
/-! DEFINITION. The registers and mailbox items of KITE and RNG (R492 to R496), and the two instructions that draw random
numbers (R479, R480). -/

namespace Sys2Proof.Machine

/-- An item of KITE: `act` is given the partition. -/
def State.kItem (s : State) (r : MbxReq) (num : Nat) (rd wr : Bool) (len : Nat)
    (act : Nat → Bool → List Word → State → ItemRes) : State :=
  s.mbxRun r .kite { num := num, read := rd, write := wr, len := len } act

/-- The physical group that the requester's SG_SEL names on this page (R463); none beyond the partition's grant. -/
def State.kSel (s : State) (r : MbxReq) (p : Nat) : Option Nat :=
  let n := ((s.arg r.req .kite 0x10 p).getD 0 0).toNat
  if n < s.sgCount p then some (s.sgBase p + n) else none

/-- An item that concerns one group (R463): refused when SG_SEL names none of the partition's. -/
def State.kGroupItem (s : State) (r : MbxReq) (num : Nat) (rd wr : Bool) (len : Nat)
    (act : Nat → Nat → Bool → List Word → State → ItemRes) : State :=
  s.kItem r num rd wr len (fun p w ws t => match t.kSel r p with
    | none => itemBad t
    | some g => act p g w ws t)

/-- An item that concerns one group and reads memory for it: where that has to wait, so does the command (R59). -/
def State.kGroupRead (s : State) (r : MbxReq) (num : Nat) (rd wr : Bool) (len : Nat)
    (act : List Nat → State → Option ItemRes) : State :=
  s.mbxRead r .kite { num := num, read := rd, write := wr, len := len } (fun p w ws t =>
    [p, match t.kSel r p with | none => 0 | some g => g + 1, if w then 1 else 0] ++ ws.map (·.toNat)) act

/-- The rule of such an item: the partition, the group, whether it is a WRITE, and the data words. -/
def kGroupAct (act : Nat → Nat → Bool → List Word → State → Option ItemRes) (a : List Nat) (s : State) : Option ItemRes :=
  if a.getD 1 0 = 0 then some (itemBad s)
  else act (a.getD 0 0) (a.getD 1 0 - 1) (a.getD 2 0 = 1) ((a.drop 3).map (BitVec.ofNat 32)) s

/-- A stream, a feed or a restore of the partition is open (R495). -/
def State.kOpenWork (s : State) (p : Nat) : Bool :=
  (s.kpart p).streams ≠ [] || (s.kpart p).restoring ||
    (upFrom (s.sgBase p) (s.sgCount p)).any (fun g => (s.kgroup g).feed.isSome || (s.kgroup g).ckpt.isSome)

def bytesOfWords (ws : List Word) : List Byte := ws.flatMap (fun w => leBytes 4 w.toNat)

/-- A staging ring keeps R495. -/
def State.stageOk (s : State) (p base size : Nat) : Bool :=
  base % 0x200000 = 0 && size % 0x200000 = 0 && 0x4000000 ≤ size && size ≤ 0x1000000000 && s.grantedRange p base size

/-- STAGE (R473, R495). -/
def execStage (r : MbxReq) (s : State) : Res :=
  .next (s.kItem r 0x01 true true 4 (fun p w ws t =>
    let k := t.kpart p
    if !w then itemRead t (wordsOf 2 k.stage.1 ++ wordsOf 2 k.stage.2)
    else if t.kOpenWork p || !(t.stageOk p (natOf (ws.take 2)) (natOf (ws.drop 2))) then itemBad t
    else itemDone (t.setKpart p { k with stage := (natOf (ws.take 2), natOf (ws.drop 2)), fed := 0, taken := 0 })))

/-- A host ring keeps R495: aligned, a power of two from 64 KiB to 4 GiB, reserved bits 0. -/
def ringWordsOk (ws : List Word) : Bool :=
  natOf (ws.take 2) % 4096 = 0 && (upFrom 16 17).any (fun i => natOf ((ws.drop 2).take 2) = 2 ^ i) &&
    field (ws.getD 4 0) 30 20 = 0 && ws.getD 5 0 = 0

/-- HOST_RING (R472, R495). -/
def execHostRing (r : MbxReq) (s : State) : Res :=
  .next (s.kItem r 0x02 true true 6 (fun p w ws t =>
    let k := t.kpart p
    if !w then itemRead t (wordsOf 2 k.ring.1 ++ wordsOf 2 k.ring.2 ++ [flag k.ringEn 31 ||| place k.pasid 0, 0])
    else if t.kOpenWork p || !(ringWordsOk ws) then itemBad t
    else itemDone (t.setKpart p { k with
      ring := (natOf (ws.take 2), natOf ((ws.drop 2).take 2)), ringEn := bit (ws.getD 4 0) 31
      pasid := field (ws.getD 4 0) 19 0, produced := 0, consumed := 0 })))

/-- HOST_CONSUMED (R472, R473). -/
def execHostConsumed (r : MbxReq) (s : State) : Res :=
  .next (s.kItem r 0x03 false true 2 (fun p _ ws t =>
    itemDone (((t.setKpart p { t.kpart p with consumed := natOf ws }).kRelease p).kTransmit p)))

/-- HOST_ACK (R472, R495). -/
def execHostAck (r : MbxReq) (s : State) : Res :=
  .next (s.kItem r 0x04 false true 4 (fun p _ ws t => itemDone (t.storeAck p (natOf (ws.take 2)) (natOf (ws.drop 2)))))

/-- FEED (R483, R495). -/
def execFeed (r : MbxReq) (s : State) : Res :=
  .next (s.kItem r 0x05 false true 2 (fun p _ ws t => itemDone (t.setKpart p { t.kpart p with fed := natOf ws })))

/-- HOST_FEED (R489, R492): the same count, where groups are host-fed. -/
def execHostFeed (r : MbxReq) (s : State) : Res :=
  .next (s.kItem r 0x32 false true 2 (fun p _ ws t =>
    if t.hostFed then itemDone (t.setKpart p { t.kpart p with fed := natOf ws }) else itemBad t))

/-- SG_SEL (R495): kept per requester. -/
def execSgSel (r : MbxReq) (s : State) : Res :=
  .next (s.kItem r 0x10 true true 1 (fun p w ws t =>
    if w then itemDone (t.setArg r.req .kite 0x10 p ws) else itemRead t [(t.arg r.req .kite 0x10 p).getD 0 0]))

/-- An entry of a Kite tensor table (R464); none where it breaks its layout. -/
def kTensorOf (host : Bool) (b : List Byte) : Option KTensor :=
  match wcFmt? (leAt b 32 1) with
  | none => none
  | some f =>
    if leAt b 24 4 = 0 || 2 ^ 28 < leAt b 24 4 || leAt b 28 4 % 32 ≠ 0 || leAt b 28 4 < 32 || 65536 < leAt b 28 4 ||
        1 < leAt b 33 1 || (!host && leAt b 33 1 ≠ 0) || !(zerosAt b 34 30) || (f = .bf16 && leAt b 16 8 ≠ 0) ||
        leAt b 0 8 % 4096 ≠ 0 then none
    else some { state := leAt b 0 8, wc := leAt b 8 8, scale := leAt b 16 8, rows := leAt b 24 4, elems := leAt b 28 4
                wcFmt := f, mom16 := leAt b 33 1 = 1 }

/-- A range of the slow tier lies in a partition's grant. -/
def State.grantedSlowRange (s : State) (p a n : Nat) : Bool := n = 0 || (s.grantedSlow p a && s.grantedSlow p (a + n - 1))

/-- What a table entry names lies in the partition's grants (R464, R488). -/
def State.kTensorOk (s : State) (p g : Nat) (x : KTensor) : Bool :=
  let n := x.rows * x.elems
  let area := s.kLeafAt g x x.rows 0 - x.state
  (if s.hostFed then s.grantedRange p x.state area else s.grantedSlowRange p x.state area) &&
    s.grantedRange p x.wc (n * x.wcFmt.width / 8) && (x.wcFmt = .bf16 || s.grantedRange p x.scale (n / 32))

/-- The table that SG_TABLE names; none where it breaks R464. -/
def State.kTableOf (s : State) (p g addr n : Nat) : Option (List KTensor) :=
  if addr % 64 ≠ 0 || 4096 < n || !(s.grantedRange p addr (64 * n)) then none
  else ((List.range n).mapM (fun i => kTensorOf s.hostFed (s.devRead (addr + 64 * i) 64))).bind (fun l =>
    if l.all (s.kTensorOk p g) then some l else none)

/-- The rule of SG_TABLE (R464, R495). -/
def sgTableAct : List Nat → State → Option ItemRes := kGroupAct (fun p g w ws t =>
  let x := t.kgroup g
  if !w then some (itemRead t (wordsOf 2 x.addr ++ [BitVec.ofNat 32 x.table.length, 0] ++ wordsOf 2 x.shard))
  else if t.kOpenWork p || ws.getD 3 0 ≠ 0 then some (itemBad t)
  else if ws.getD 2 0 = 0 then some (itemDone (t.setKgroup g { x with shard := 0, addr := 0, table := [] }))
  else match t.kTableOf p g (natOf (ws.take 2)) (ws.getD 2 0).toNat with
    | none => some (itemBad t)
    | some l => (t.kSeen [(natOf (ws.take 2), 64 * l.length)]).map (fun u =>
        itemDone (u.setKgroup g { x with shard := natOf (ws.drop 4), addr := natOf (ws.take 2), table := l })))

/-- SG_TABLE (R464, R495). -/
def execSgTable (r : MbxReq) (s : State) : Res := .next (s.kGroupRead r 0x11 true true 6 sgTableAct)

/-- BASE (R469, R495). -/
def execBase (r : MbxReq) (s : State) : Res :=
  .next (s.kGroupItem r 0x12 true true 4 (fun _ g w ws t =>
    let x := t.kgroup g
    if !w then itemRead t (wordsOf 2 (x.base.getD 0) ++ [flag x.base.isSome 0, 0])
    else if ws.getD 3 0 ≠ 0 then itemBad t
    else itemDone (t.setKgroup g { x with base := if bit (ws.getD 2 0) 0 then some (natOf (ws.take 2)) else none })))

/-- COMMITS (R495). -/
def execKiteCommits (r : MbxReq) (s : State) : Res :=
  .next (s.kGroupItem r 0x13 true false 4 (fun _ g _ _ t =>
    itemRead t (wordsOf 2 (t.kgroup g).sealed_ ++ wordsOf 2 (t.kgroup g).durable)))

/-- DIGEST (R495). -/
def execKiteDigest (r : MbxReq) (s : State) : Res :=
  .next (s.kGroupItem r 0x14 true false 8 (fun _ g _ _ t => itemRead t (wordsOf 8 (leNat (t.kgroup g).digest))))

/-- EXPECT (R482, R495). -/
def execExpect (r : MbxReq) (s : State) : Res :=
  .next (s.kItem r 0x15 false true 8 (fun p _ ws t => itemDone (t.setKpart p { t.kpart p with expect := bytesOfWords ws })))

/-- A restore may start (R482, R491). -/
def State.restoreOk (s : State) (p g src : Nat) : Bool :=
  let x := s.kgroup g
  x.shard ≠ 0 && (s.sg g).recAddr ≠ 0 && !((s.kpart p).restoring) && (src = 1 || (src = 2 && (s.kpart p).stage.2 ≠ 0)) &&
    (if s.hostFed then x.feed.isNone && (src = 2 || (s.kpart p).ringEn) else !(s.sgBusy g))

/-- RESTORE (R482, R483): CLEARING begins, and the group is INVALID. In hold the work of the restore starts once hold ends
(R70; log 169). -/
def execRestore (r : MbxReq) (s : State) : Res :=
  .next (s.kGroupItem r 0x16 false true 4 (fun p g _ ws t =>
    let src := field (ws.getD 2 0) 1 0
    if ws.getD 3 0 ≠ 0 || !(t.restoreOk p g src) then itemBad t
    else itemDone ((t.setSg g { t.sg g with ready := false }).setRestore p (fun _ =>
      { state := 1, sg := g, commit := natOf (ws.take 2), host := src = 2, begun := !(t.inHold .kite p) }))))

/-- The rule of REPLICA (R485): V over the own working copies, and the question to the peer. -/
def replicaAct (a : List Nat) (t : State) : Option ItemRes :=
  let p := a.getD 0 0
  let x := (t.kpart p).restore
  let peer : BitVec 15 := BitVec.ofNat 15 (a.getD 1 0)
  if x.state ≠ 4 || (t.sg x.sg).wcStale then some (itemBad t)
  else
    (t.kSeen (t.kCopyRanges x.sg)).map (fun v =>
      let u := v.setRestore p (fun y => { y with
        state := 5, result := 0, peer := peer, v := t.kCopyDigest x.sg x.commit })
      itemDone ((u.kSend p x.sg peer
        (kRecord 0x30 (x.sg - u.sgBase p) x.commit (leBytes 8 (u.kgroup x.sg).shard))).kTransmit p))

/-- REPLICA (R485). -/
def execReplica (r : MbxReq) (s : State) : Res :=
  .next (s.mbxRead r .kite { num := 0x17, read := false, write := true, len := 1 }
    (fun p _ ws _ => [p, (ws.getD 0 0).toNat]) replicaAct)

/-- FAIL_NOTE (R475, R495). -/
def execFailNote (r : MbxReq) (s : State) : Res :=
  .next (s.kGroupItem r 0x18 false true 1 (fun _ g _ _ t =>
    itemDone (t.setKgroup g { t.kgroup g with fails := (t.kgroup g).fails + 1 })))

/-- ADAPT (R475, R495). COST before the first checkpoint that is DURABLE is a free value (log 35). -/
def execAdapt (r : MbxReq) (s : State) : Res :=
  .next (s.kGroupItem r 0x19 true false 6 (fun p g _ _ t =>
    let x := t.kgroup g
    let mtbf := t.kSince p g / ((x.fails + 1) * 800000000)
    if x.costs = [] then
      itemRead (t.useFree 1) ([t.freeWord, 0] ++ wordsOf 2 mtbf ++ [BitVec.ofNat 32 x.interval, 0])
    else itemRead t (wordsOf 2 (x.costs.sum / (x.costs.length * 800)) ++ wordsOf 2 mtbf ++ [BitVec.ofNat 32 x.interval, 0])))

/-- BUDDY_ARG (R495): kept per requester. -/
def execBuddyArg (r : MbxReq) (s : State) : Res :=
  .next (s.kItem r 0x20 false true 6 (fun p _ ws t =>
    if ws.getD 1 0 ≠ 0 then itemBad t else itemDone (t.setArg r.req .kite 0x20 p ws)))

/-- The key BUDDY_ARG names, for senders of this partition number. -/
def State.buddyKey (s : State) (r : MbxReq) (p : Nat) (k : BuddyKey) : Bool :=
  let a := s.arg r.req .kite 0x20 p
  k.node = BitVec.setWidth 15 (a.getD 0 0) && k.part = p && k.shard = natOf ((a.drop 2).take 2)

/-- BUDDY_GET (R478, R495). -/
def execBuddyGet (r : MbxReq) (s : State) : Res :=
  .next (s.kItem r 0x21 true false 8 (fun p _ _ t =>
    let c := natOf ((t.arg r.req .kite 0x20 p).drop 4)
    match (t.buddies.find? (t.buddyKey r p)).bind (fun k => k.held.find? (·.1 = c)) with
    | none => itemBad t
    | some e => itemRead t (wordsOf 8 (leNat e.2))))

/-- BUDDY_DROP (R478, R495). -/
def execBuddyDrop (r : MbxReq) (s : State) : Res :=
  .next (s.kItem r 0x22 false true 1 (fun p _ _ t =>
    itemDone { t with buddies := t.buddies.filter (fun k => !(t.buddyKey r p k)) }))

/-- An address for a Kite record (R492): aligned to 128 B, inside the partition's granules. -/
def State.krecOk (s : State) (p a : Nat) : Bool := a % 128 = 0 && s.grantedRange p a 128

/-- A feed or a restore of a group is open. -/
def State.kGroupOpen (s : State) (p g : Nat) : Bool :=
  (s.kgroup g).feed.isSome || ((s.kpart p).restoring && (s.kpart p).restore.sg = g)

/-- The rule of KREC_ADDR (R488, R492). -/
def krecAddrAct : List Nat → State → Option ItemRes := kGroupAct (fun p g w ws t =>
  if !t.hostFed then some (itemBad t)
  else if !w then some (itemRead t (wordsOf 2 (t.sg g).recAddr))
  else if t.kGroupOpen p g || (natOf ws ≠ 0 && !(t.krecOk p (natOf ws))) then some (itemBad t)
  else if natOf ws = 0 then some (itemDone (t.setSg g { t.sg g with recAddr := 0, ready := false }))
  else ((t.setSg g { t.sg g with recAddr := natOf ws }).loadRecord g).map itemDone)

/-- KREC_ADDR (R488, R492). -/
def execKrecAddr (r : MbxReq) (s : State) : Res := .next (s.kGroupRead r 0x30 true true 2 krecAddrAct)

/-- KREC_INIT (R492). -/
def execKrecInit (r : MbxReq) (s : State) : Res :=
  .next (s.kGroupItem r 0x31 false true 6 (fun _ g _ ws t =>
    if !t.hostFed || (t.sg g).recAddr = 0 then itemBad t
    else itemDone (t.initRecord g (natOf (ws.take 2)) (natOf ((ws.drop 2).take 2)) (ws.getD 4 0) (ws.getD 5 0))))

/-- WC_STALE (R491, R492). -/
def execWcStale (r : MbxReq) (s : State) : Res :=
  .next (s.kGroupItem r 0x33 true true 1 (fun _ g w ws t =>
    if !t.hostFed then itemBad t
    else if w then itemDone (t.setSg g { t.sg g with wcStale := bit (ws.getD 0 0) 0 })
    else itemRead t [flag (t.sg g).wcStale 0]))

/-- Adaptive cadence begins anew for a group (R475). -/
def KGroup.restart (x : KGroup) (now : Nat) : KGroup := { x with cadence := now, sealedSince := false, fails := 0 }

/-- What a write of KITE.CFG stores and starts (R467, R475, R493): DEST 0b11 leaves DEST unchanged; a new DEST or GATEWAY,
or EN falling, abandons every open checkpoint of the partition. -/
def State.kiteCfg (s : State) (p : Nat) (v : Word) : State :=
  let o := s.cfg .kite p 0x100
  let w := v &&& cfgMask .kite 0x100
  let n := if field w 30 29 = 3 then (w &&& ~~~(span 30 29)) ||| (o &&& span 30 29) else w
  let t := if field n 30 29 ≠ field o 30 29 || field n 14 0 ≠ field o 14 0 || (bit o 31 && !(bit n 31)) then s.kAbandonAll p
    else s
  let u := t.setCfg .kite p 0x100 n
  if bit n 28 then
    (upFrom (u.sgBase p) (u.sgCount p)).foldl (fun q g => q.setKgroup g ((q.kgroup g).restart q.now)) u
  else u

/-- What a write of KITE.BUDDY stores; commits that wait only for a buddy no longer asked become DURABLE (R469). -/
def State.kiteBuddy (s : State) (p : Nat) (v : Word) : State :=
  (upFrom (s.sgBase p) (s.sgCount p)).foldl (fun q g => q.kSettle p g)
    (s.setCfg .kite p 0x104 (v &&& cfgMask .kite 0x104))

/-- What a write of KITE.MCTL stores and starts (R467, R494). -/
def State.kiteMctl (s : State) (v : Word) : State :=
  (if bit v 0 then s else (List.range 32).foldl (fun t p => t.kAbandonAll p) s).setCfg .kite 0 0x300 (v &&& 1)

/-- An item of RNG: `act` is given the partition. -/
def State.rngItem (s : State) (r : MbxReq) (num : Nat) (wr : Bool) (len : Nat)
    (act : Nat → Bool → List Word → State → ItemRes) : State :=
  s.mbxRun r .rng { num := num, read := true, write := wr, len := len } act

/-- SEED (R496). -/
def execRngSeed (r : MbxReq) (s : State) : Res :=
  .next (s.rngItem r 1 true 2 (fun p w ws t =>
    if w then itemDone (t.setKpart p { t.kpart p with seed := BitVec.ofNat 64 (natOf ws) })
    else itemRead t (wordsOf 2 (t.kpart p).seed.toNat)))

/-- CURSOR (R481, R496). -/
def execCursor (r : MbxReq) (s : State) : Res :=
  .next (s.rngItem r 2 true 2 (fun p w ws t =>
    if w then itemDone (t.setKpart p { t.kpart p with cursor := BitVec.ofNat 64 (natOf ws) })
    else itemRead t (wordsOf 2 (t.kpart p).cursor.toNat)))

/-- POS (R496). -/
def execPos (r : MbxReq) (st : Fin 4) (s : State) : Res :=
  .next (s.rngItem r (0x10 + st.val) true 2 (fun p w ws t =>
    let k := t.kpart p
    if w then itemDone (t.setKpart p { k with pos := k.pos.set st.val (BitVec.ofNat 64 (natOf ws)) })
    else itemRead t (wordsOf 2 (k.pos.getD st.val 0).toNat)))

/-- SNAP_POS (R496). -/
def execSnapPos (r : MbxReq) (s : State) : Res :=
  .next (s.rngItem r 0x20 false 8 (fun p _ _ t => itemRead t ((t.kpart p).snap.pos.flatMap (fun v => wordsOf 2 v.toNat))))

/-- SNAP_CURSOR (R496). -/
def execSnapCursor (r : MbxReq) (s : State) : Res :=
  .next (s.rngItem r 0x21 false 2 (fun p _ _ t => itemRead t (wordsOf 2 (t.kpart p).snap.cursor.toNat)))

/-- The draw of rng.ctr for one lane (R479). -/
def ctrDraw (seed : BitVec 64) (step : Nat) (e t : Word) : Word :=
  BitVec.ofNat 32 ((philox [e.toNat / 4, t.toNat, step % 2 ^ 32, step / 2 ^ 32 % 2 ^ 32] (seed.toNat % 2 ^ 32)
    (seed.toNat / 2 ^ 32)).getD (e.toNat % 4) 0)

/-- Draw d of stream S (R480). -/
def strDraw (seed : BitVec 64) (st : Nat) (d : BitVec 64) : Word :=
  let q := d.toNat / 4
  BitVec.ofNat 32 ((philox [q % 2 ^ 32, q / 2 ^ 32, 2 ^ 32 - 1, 2 ^ 32 - 1] (seed.toNat % 2 ^ 32)
    (Nat.xor (seed.toNat / 2 ^ 32) (st + 1))).getD (d.toNat % 4) 0)

/-- RNG_CTR (R479); while RNG is in hold no draw starts (R70). -/
def execRngCtr (b : Bundle) (d t e : VReg) (s : State) : Res :=
  .next (s.issue b [d.val] [t.val, e.val] .vector (fun u q =>
    let p := u.work.part
    if q.inHold .rng p then q.turnAway b u .vector .rng
    else q.bundleDone b u onVector 1 12 [d.val] (fun c => c.forThreads u.threads (fun x c =>
      c.setReg x d.val (ctrDraw (q.kpart p).seed (q.stepOf p q.fr.no) (c.reg x e.val) (c.reg x t.val))))))

/-- RNG_STR (R480), as RNG_CTR in hold: the draws go to the lanes in ascending order, and POS_S moves on. -/
def execRngStr (b : Bundle) (d : VReg) (st : Fin 4) (s : State) : Res :=
  .next (s.issue b [d.val] [] .memory (fun u q =>
    let p := u.work.part
    let k := q.kpart p
    let pos := k.pos.getD st.val 0
    if !(bit (q.cfg .rng p 0x100) 0) then q.coreFault b.core.val u.bslot 0 0x3002
    else if q.inHold .rng p then q.turnAway b u .memory .rng
    else
      (q.setKpart p { k with pos := k.pos.set st.val (pos + BitVec.ofNat 64 u.threads.length) }).bundleDone b u onLsu 1 300
        [d.val] (fun c => u.threads.zipIdx.foldl (fun e x =>
          e.setReg x.1 d.val (strDraw k.seed st.val (pos + BitVec.ofNat 64 x.2))) c)))

end Sys2Proof.Machine
end

