-- ==== Sys2Proof/Machine/Identity.lean ====
section
/-! DEFINITION. The identity page (R7 to R11), firmware images (R524, R525) and measurements (R531, R532). -/

namespace Sys2Proof.Machine

/-- STEPPING (R7): 0x10 on the first production stepping, a greater value on a later one (log 13). -/
def stepping : BitVec 8 := if 0x10 < Config.laterStepping.toNat then Config.laterStepping else 0x10

/-- CAP_VARIANT, CAP_MEM, CAP_LINK, CAP_UPDATE and CAP_COMPUTE (R7 to R11). -/
def capVariant (v : Variant) : Word :=
  place (match v with | .l7160 => 0x60 | .l7140 => 0x40 | .l7120 => 0x20) 16 ||| place stepping.toNat 8 ||| 0x07

def capMem (v : Variant) : Word :=
  place ((List.range 12).foldl (fun m n => if stackFitted v n then m + 2 ^ n else m) 0) 12 ||| place (slowGib v) 0

def capLink (v : Variant) : Word :=
  place ((List.range 6).foldl (fun m n => if portFitted v n then m + 2 ^ n else m) 0) 0

def capUpdate : Variant → Word
  | .l7160 => 0x7
  | .l7140 => 0xB
  | .l7120 => 0

def capCompute : Word := 0x00C00180

/-- The identity values in offset order. -/
def identityWords (v : Variant) : List Word := [capVariant v, capMem v, capLink v, capUpdate v, capCompute]

/-- Fields of an image (R524). -/
def imgBody (b : List Byte) : Nat := leAt b 4 4
def imgSvn (b : List Byte) : Nat := leAt b 8 8
def imgId (b : List Byte) : Nat := leAt b 76 4
def imgSigned (b : List Byte) : List Byte := b.take (80 + imgBody b)

/-- An image is valid (R525). -/
def imageValid (fuse : Nat) (b : List Byte) : Bool :=
  let n := imgBody b
  80 + n + 3604 ≤ b.length && leAt b 0 4 = 1 && n % 4 = 0 && n ≤ 8388608 && fuse ≤ imgSvn b &&
    (List.range 4).any (fun k => !(Config.keyRevoked k) && leBytes 32 (Config.keyHash k).toNat = sha256 (bytesAt b 16 60)) &&
    hssVerify (bytesAt b 16 60) (imgSigned b) (bytesAt b (80 + n) 3604)

/-- Grants of a partition as measured (R531). -/
def State.grantBytes (s : State) (p : Nat) : List Byte :=
  leBytes 1 p ++ [0, 0, 0] ++
    [0x104, 0x108, 0x10C, 0x110, 0x114, 0x118].flatMap (fun o => leBytes 4 (s.cfg .puppeteer p o).toNat) ++
    leBytes 64 (s.part p).hbm.toNat ++ leBytes 4 (if s.fnEnabled p then 1 else 0)

/-- Measurement of a partition as its grants stand now. -/
def State.measureNow (s : State) (p : Nat) : List Byte := sha256 (s.grantBytes p)

/-- Measurement of a partition after a power-on reset, which is kept until it is recomputed. -/
def measReset (p : Nat) : List Byte := State.reset.measureNow p

/-- A measurement by its index (R531); none for an index that is not listed. -/
def State.measurement (s : State) (i : Nat) : Option (List Byte) :=
  if i = 0 then some (leBytes 32 Config.romDigest.toNat)
  else if i = 1 then some (sha256 (imgSigned s.sec.image))
  else if i = 2 then
    some (sha256 (leBytes 1 s.sec.fuseSvn ++
      leBytes 1 ((List.range 4).foldl (fun m k => if Config.keyRevoked k then m + 2 ^ k else m) 0) ++ [1] ++
      (List.range 4).flatMap (fun k => leBytes 32 (Config.keyHash k).toNat)))
  else if i = 3 then some (sha256 ((identityWords s.variant).flatMap (fun w => leBytes 4 w.toNat)))
  else if 16 ≤ i && i < 48 then some (Tab.get (measReset (i - 16)) s.sec.meas (i - 16))
  else none

/-- A measurement changed (R532): GENERATION rises, and MEAS_CHANGED is raised. -/
def State.measChanged (s : State) : State :=
  ({ s with sec := { s.sec with generation := (s.sec.generation + 1) % 2 ^ 64 } }.latch .sec 0 0x800
    (· ||| flag true 20)).raise .sec 0 0x8004

/-- The measurement of a partition is recomputed (R532). -/
def State.remeasure (s : State) (p : Nat) : State :=
  let d := s.measureNow p
  let old := Tab.get (measReset p) s.sec.meas p
  let t : State := { s with sec := { s.sec with
    touched := s.sec.touched.filter (· ≠ p), meas := Tab.set (measReset p) s.sec.meas p d } }
  if d = old then t else t.measChanged

/-- The endorsement (R529): the serial number and the public key, signed with the manufacturing key. -/
def endorsement : List Byte :=
  hssSign true Config.endorsedWith.toNat (leBytes 16 Config.serialNumber.toNat ++ hssPublic false)

/-- Measurements that are still to be recomputed are taken into account. -/
def State.remeasureAll (s : State) : State := s.sec.touched.foldl (fun t p => t.remeasure p) s

/-- MEASUREMENT_RECOMPUTE (R532). -/
def execMeasurementRecompute (p : PartId) (s : State) : Res :=
  .next (if s.sec.touched.contains p.val then s.remeasure p.val else s)

end Sys2Proof.Machine
end

