-- ==== Sys2Proof/Machine/Boot.lean ====
section
/-! DEFINITION. Supply, power-up and boot, resets, clock crossings, the governor and the thermal limits (R498 to R521). -/

namespace Sys2Proof.Machine

/-- Indices of the identity key (R523). -/
def signTotal : Nat := 2 ^ 40

/-- A copy of the reservation record is valid: its CRC-32 is right (R529). -/
def ResvCopy.valid (c : ResvCopy) : Bool := c = ResvCopy.of c.reserved

/-- RESERVED of the loaded copy. -/
def SecState.limit (c : SecState) : Nat := if c.loaded then c.copy1.reserved else c.copy0.reserved

/-- The engine writes the reservation record: a request waits, and the next index equals RESERVED (R529). -/
def SecState.reserving (c : SecState) : Bool := c.queue ≠ [] && c.limit ≤ c.next && c.next < signTotal

/-- A copy is written over the one that is not loaded, which then is the loaded one. -/
def SecState.writeCopy (c : SecState) (x : ResvCopy) : SecState :=
  if c.loaded then { c with copy0 := x, loaded := false } else { c with copy1 := x, loaded := true }

/-- RESERVED is raised by 1,024 in the copy that was not loaded (R529). -/
def SecState.reserve (c : SecState) : SecState := c.writeCopy (ResvCopy.of (c.limit + 1024))

/-- What a reset makes of a copy that is being written (R529): it is whole, or its CRC-32 is wrong. Which of the two, and
what a torn copy holds, is free (log 159). -/
def SecState.cut (c : SecState) (v w : Word) : SecState :=
  if !c.reserving then c
  else if v.getLsbD 0 then c.reserve
  else c.writeCopy { reserved := w.toNat, crc := (ResvCopy.of w.toNat).crc ^^^ 1 }

/-- The valid copy with the greater RESERVED is loaded (R529), with the level-1 tree of the next index. With no valid copy
no index is left to use: DESIGN CHOICE (log 159). -/
def SecState.load (c : SecState) : SecState :=
  let second := c.copy1.valid && (!c.copy0.valid || c.copy0.reserved < c.copy1.reserved)
  let n := if second then c.copy1.reserved else if c.copy0.valid then c.copy0.reserved else signTotal
  { c with
    loaded := second, next := n, tree := n / 2 ^ 20, queue := [], lowRaised := false, exhaustedRaised := false }

/-- A reset of the security engine (R509, R529): a write of the record that is under way is cut, and the record loaded. -/
def SecState.reload (c : SecState) (v w : Word) : SecState := (c.cut v w).load

/-- SIGN_LOW and SIGN_EXHAUSTED, each raised once (R530); after a reset of the engine, which loses what it had raised, anew:
DESIGN CHOICE (log 159). -/
def State.signWatch (s : State) : State :=
  let t := if signTotal - s.sec.next < 2 ^ 32 && !s.sec.lowRaised then
      (({ s with sec := { s.sec with lowRaised := true } } : State).latch .sec 0 0x800 (· ||| flag true 22)).raise .sec 0
        0x8002
    else s
  if signTotal ≤ t.sec.next && !t.sec.exhaustedRaised then
    (({ t with sec := { t.sec with exhaustedRaised := true } } : State).latch .sec 0 0x800 (· ||| flag true 21)).raise .sec
      0 0x8003
  else t

/-- What a power-on reset leaves of the security state: flash and fuses (R509, R525, R529). -/
def SecState.powerOn (c : SecState) (v w : Word) : SecState :=
  let d := c.cut v w
  SecState.load { ({} : SecState) with
    slotA := d.slotA, slotB := d.slotB, validA := d.validA, validB := d.validB, fuseSvn := d.fuseSvn
    copy0 := d.copy0, copy1 := d.copy1, trips := d.trips }

/-- A power-on reset (R504, R509): everything returns to its reset value but flash, fuses and the pins that others drive.
The memories lose their contents. -/
def State.powerOn (s : State) (standby : Bool) : State :=
  { State.reset with
    variant := s.variant, now := s.now, free := s.free + 2, out := s.out, pending := s.pending
    sec := s.sec.powerOn (Config.freeWord s.free) (Config.freeWord (s.free + 1))
    power := { ({} : PowerState) with
      standby := standby, pwrEn := s.power.pwrEn, perst := s.power.perst, slotId := s.power.slotId } }

/-- Pins that fall when the main rails go: PWR_GOOD, and ALERT# and THERM_TRIP# are released. -/
def State.pinsOff (s : State) : State :=
  let t := if s.power.rails then s.emit (.pin "PWR_GOOD" false) else s
  let t := if s.alert then t.emit (.pin "ALERT#" true) else t
  if s.power.trip then t.emit (.pin "THERM_TRIP#" true) else t

/-- VIN_APPLIED (R504 step 1): VIN within R499, in units of 0.1 V. With the standby rail up it ends a low supply; without,
the management core starts, with the rack position that the pins of R498 give. -/
def execVinApplied (x : Supply) (s : State) : Res :=
  .next (if x.dv.toNat < 480 || 580 < x.dv.toNat then s
    else if s.power.standby then { s with power := { s.power with low := false, vinDv := x.dv.toNat } }
    else
      let t := s.powerOn true
      { t with power := { t.power with vinDv := x.dv.toNat, slotId := x.slot } })

/-- Slot A is chosen before slot B (R526). -/
def preferA (a b : List Byte) : Bool := imgSvn b < imgSvn a || (imgSvn a = imgSvn b && imgId b ≤ imgId a)

/-- The boot ROM's choice (R526). -/
def SecState.boot (c : SecState) : SecState :=
  let va := imageValid c.fuseSvn c.slotA
  let vb := imageValid c.fuseSvn c.slotB
  let d := { c with validA := va, validB := vb }
  if va && (!vb || preferA c.slotA c.slotB) then { d with slotRun := some false, image := c.slotA }
  else if vb then { d with slotRun := some true, image := c.slotB }
  else { d with recovery := true }

/-- FIRMWARE_VERIFIED (R504 step 2, R526). The firmware that runs reports the rack position to the management bus (R498);
when it does the spec does not say: DESIGN CHOICE (log 158). -/
def execFirmwareVerified (s : State) : Res :=
  .next (if s.power.standby && s.sec.slotRun.isNone && !s.sec.recovery then
      let t : State := { s with sec := s.sec.boot }
      if t.sec.recovery then t else t.emit (.slotId s.power.slotId)
    else s)

/-- PWR_EN_ASSERT (R504 step 3). -/
def execPwrEnAssert (s : State) : Res := .next { s with power := { s.power with pwrEn := true } }

/-- The main rails go off (R501, R504). -/
def State.railsOff (s : State) (standby : Bool) : State := s.pinsOff.powerOn standby

/-- PWR_EN_DEASSERT (R504): the effects of a supply loss; the standby rail stays, and the management core starts anew. -/
def execPwrEnDeassert (s : State) : Res :=
  let t : State := { s with power := { s.power with pwrEn := false } }
  .next (if s.power.rails then
      let u := t.railsOff true
      { u with power := { u.power with vinDv := s.power.vinDv } }
    else t)

/-- RAILS_UP (R504 steps 4 and 5): firmware verified and PWR_EN asserted. -/
def execRailsUp (s : State) : Res :=
  .next (if s.power.standby && s.power.pwrEn && s.sec.slotRun.isSome && !s.power.rails then
      ({ s with power := { s.power with rails := true } } : State).emit (.pin "PWR_GOOD" true)
    else s)

/-- Nothing holds the module in reset. -/
def PowerState.free (x : PowerState) : Bool := x.rails && !x.perst && !x.hot && !x.itemReset && x.phase = 0

/-- The module leaves reset when nothing holds it: phase CLOCKS begins (R505, R510), and the security engine looks at the
record that it has loaded (R530). -/
def State.release (s : State) : State :=
  if s.power.free then
    let t := State.signWatch { s with power := { s.power with phase := 1, released := s.now, trip := false } }
    if s.power.trip then t.emit (.pin "THERM_TRIP#" true) else t
  else s

/-- PERST_DEASSERT (R504 step 6, R505). -/
def execPerstDeassert (s : State) : Res :=
  .next (if s.power.perst then ({ s with power := { s.power with perst := false } } : State).release else s)

/-- A module reset (R509, R510): all but the management core; HBM and the slow tier keep their contents. -/
def State.moduleReset (s : State) (kind : Nat) : State :=
  let t := if s.alert then s.emit (.pin "ALERT#" true) else s
  { State.reset with
    variant := s.variant, now := s.now, free := s.free + 2, mem := s.mem
    hbm := { ({} : HbmState) with upset := s.hbm.upset, temp := s.hbm.temp }
    nextWork := s.nextWork, nextStream := s.nextStream, out := t.out, pending := s.pending
    power := { s.power with phase := 0, kind := kind, unlocked := [], stalls := [], quiet := 0 }
    sec := s.sec.reload (Config.freeWord s.free) (Config.freeWord (s.free + 1)) }

/-- PERST_ASSERT (R498, R509). -/
def execPerstAssert (s : State) : Res :=
  let t : State := { s with power := { s.power with perst := true } }
  .next (if s.power.rails && !s.power.perst then t.moduleReset 1 else t)

/-- Go on from a phase of the boot (R505). -/
def State.phaseDone (s : State) (n : Nat) (f : State → State) : State :=
  if s.power.phase = n then f { s with power := { s.power with phase := n + 1 } } else s

/-- CLOCKS_DONE (R505): all PLLs are locked. -/
def execClocksDone (s : State) : Res :=
  .next (s.phaseDone 1 (fun t => { t with power := { t.power with unlocked := [] } }))

/-- Configuration registers, the ports that follow them, and LLC and directory entries take their reset values (R505). -/
def State.bootMemory (s : State) : State :=
  { s with slices := [], ports := [], regs := { s.regs with cfg := [], par := [], found := [], accepted := [] } }

/-- MEMORY_DONE (R505): what the management core wrote in an earlier phase does not stay. -/
def execMemoryDone (s : State) : Res := .next (s.phaseDone 2 State.bootMemory)

/-- Cores that a self-test marks (R507): a slice failure marks every core. -/
def SelfTest.failed (r : SelfTest) : List Nat :=
  if r.sliceFail then List.range 384 else (List.range 384).filter (fun k => r.check1.any (·.val = k))

/-- Cores that fail check 2, and those that fail check 3, check 1 passed. -/
def SelfTest.off (r : SelfTest) (l : List CoreId) : List Nat :=
  (List.range 384).filter (fun k => l.any (·.val = k) && !(r.check1.any (·.val = k)))

def State.setArrayBit (s : State) (k i : Nat) : State := s.setCfg .array k 0x100 (s.cfg .array k 0x100 ||| flag true i)

/-- SELFTEST_DONE (R507). -/
def execSelftestDone (r : SelfTest) (s : State) : Res :=
  .next (s.phaseDone 3 (fun t =>
    let a := SelfTest.off r r.check2
    let c := SelfTest.off r r.check3
    let u := c.foldl (fun u k => u.setArrayBit k 1) (a.foldl (fun u k => u.setArrayBit k 0) t)
    { u with power := { u.power with coreFail := SelfTest.failed r, arrayOff := a.length, colOff := c.length } }))

/-- SELFTEST_FAIL is latched and raised (R507). -/
def State.selftestFail (s : State) : State := (s.latch .clkrst 0 0x808 (· ||| flag true 23)).raise .clkrst 0 0x2004

/-- The last self-test marked a core or set a bit. -/
def PowerState.failed (x : PowerState) : Bool := x.coreFail ≠ [] || x.arrayOff ≠ 0 || x.colOff ≠ 0

/-- BOOT_CLEAR_DONE (R505): READY, and frame 0 as a standalone node. -/
def execBootClearDone (s : State) : Res :=
  .next (s.phaseDone 4 (fun t =>
    let u : State := { t with
      ready := true, power := { t.power with bootTime := (t.now - t.power.released) / 800 } }
    if u.power.failed then u.selftestFail else u))

/-- SUPPLY_LOW (R501): latched and raised once for each time VIN falls below 48.0 V. -/
def execSupplyLow (s : State) : Res :=
  .next (if s.power.standby && !s.power.low then
      (({ s with power := { s.power with low := true } } : State).latch .power 0 0x800 (· ||| flag true 21)).raise
        .power 0 0x2003
    else s)

/-- SUPPLY_LOSS (R501). -/
def execSupplyLoss (s : State) : Res := .next (if s.power.standby then s.railsOff false else s)

/-- Hottest of the stacks that are fitted. -/
def PowerMeas.hottest (m : PowerMeas) (v : Variant) : Nat :=
  ((m.temps.zipIdx.filter (fun x => stackFitted v x.2)).map (fun x => x.1.toNat)).foldl max 0

/-- Readings of a window (R516, R519). -/
def State.takeReadings (s : State) (m : PowerMeas) : State :=
  let j := m.junction.toNat
  let c := m.coolant.toNat
  { s with
    power := { s.power with
      computeW := m.computeW.toNat, windowW := m.windowW.toNat, avgW := m.avgW.toNat, memDies := m.memDies
      ioDie := m.ioDie.toNat, narogC := m.narog.toNat
      inputW := m.inputW.toNat, vinDv := m.vinDv.toNat, junction := j, hbmC := PowerMeas.hottest m s.variant, coolant := c
      low := s.power.low && m.vinDv.toNat < 480
      warm := (s.power.warm.1 && field (s.cfg .power 0 0x104) 7 0 ≤ j, s.power.warm.2 && 45 < c) }
    hbm := { s.hbm with temp := (m.temps.zipIdx.take 12).foldl (fun t x =>
      if stackFitted s.variant x.2 then Tab.set 0 t x.2 x.1.toNat else t) s.hbm.temp } }

/-- Some limit of R517 holds. -/
def State.limited (s : State) (m : PowerMeas) : Bool :=
  650 < m.computeW.toNat || field (s.cfg .power 0 0x100) 11 0 < m.avgW.toNat || s.power.low ||
    field (s.cfg .power 0 0x104) 15 8 ≤ m.junction.toNat || 95 ≤ PowerMeas.hottest m s.variant

/-- GOVERNOR_WINDOW (R517): A falls by 1 to MIN_ADMIT at the lowest, or rises by 1 after every ten windows in a row
without a limit. -/
def execGovernorWindow (m : PowerMeas) (s : State) : Res :=
  .next (if s.power.phase = 0 then s
    else
      let t := s.takeReadings m
      let least := field (t.cfg .power 0 0x100) 23 20
      if t.limited m then
        { t with
          govLevel := if least < t.govLevel then t.govLevel - 1 else t.govLevel
          power := { t.power with quiet := 0 } }
      else if t.power.quiet + 1 < 10 then { t with power := { t.power with quiet := t.power.quiet + 1 } }
      else { t with govLevel := min 16 (t.govLevel + 1), power := { t.power with quiet := 0 } })

/-- THERM_WARN of one threshold. -/
def State.thermEvent (s : State) : State := (s.latch .power 0 0x800 (· ||| flag true 22)).raise .power 0 0x2002

/-- THERM_WARN (R518): once for each crossing of a threshold. -/
def execThermWarn (junction coolant : BitVec 8) (s : State) : Res :=
  .next (if s.power.phase = 0 then s
    else
      let j := field (s.cfg .power 0 0x104) 7 0 ≤ junction.toNat
      let c := 45 < coolant.toNat
      let t : State := { s with power := { s.power with
        junction := junction.toNat, coolant := coolant.toNat, warm := (j, c) } }
      let t := if j && !s.power.warm.1 then t.thermEvent else t
      if c && !s.power.warm.2 then t.thermEvent else t)

/-- THERMAL_TRIP (R518): THERM_TRIP# and a module reset, and an entry in the event log of the management flash. -/
def execThermalTrip (junction stack : BitVec 8) (s : State) : Res :=
  .next (if s.power.rails && !s.power.hot && (110 ≤ junction.toNat || 105 ≤ stack.toNat) then
      let t := (s.moduleReset 3).emit (.pin "THERM_TRIP#" false)
      { t with power := { t.power with trip := true, hot := true }, sec := { t.sec with trips := s.now :: t.sec.trips } }
    else s)

/-- THERMAL_TRIP_RELEASE (R518): every junction is below 95 °C and every stack below 85 °C. -/
def execThermalTripRelease (junction stack : BitVec 8) (s : State) : Res :=
  .next (if s.power.hot && junction.toNat < 95 && stack.toNat < 85 then
      ({ s with power := { s.power with hot := false } } : State).release
    else s)

/-- CLK_STALL is latched and raised (R513, R520). -/
def State.clkStall (s : State) (cause : Bool) (send recv inst : Nat) : State :=
  (s.latchLast .clkrst 0 0x804 22 (flag true 23 ||| flag cause 21 ||| place send 17 ||| place recv 13 |||
    place inst 4)).raise .clkrst 0 0x2001

/-- CROSSING_STALL (R513): a stopped sending clock with a handshake open, which stays open. -/
def execCrossingStall (send recv : Fin 9) (inst : BitVec 9) (s : State) : Res :=
  .next (if s.power.phase = 0 || s.power.stalls.contains (send.val, recv.val, inst.toNat) then s
    else
      let t := s.clkStall false send.val recv.val inst.toNat
      { t with power := { t.power with stalls := t.power.stalls ++ [(send.val, recv.val, inst.toNat)] } })

/-- The PLL of a domain, or of a stack's HCLK (R503), sends into this crossing. -/
def PllDown.of (x : PllDown) (c : ClockId) : Bool := x.send = c.dom.val && (x.send ≠ 3 || x.inst = c.stack.val)

/-- The crossings into which a PLL sends that is out of lock and still trying to relock. -/
def PllDown.trying (x : PllDown) (c : ClockId) : Bool := x.of c && !x.tried

/-- Two crossings have one sending PLL. -/
def samePll (x : PllDown) (send inst : Nat) : Bool := x.send = send && (send ≠ 3 || x.inst = inst)

/-- PLL_UNLOCK (R513): the monitor of the sending domain finds it out of lock. Each crossing raises CLK_STALL; the attempt
to relock began when the PLL was found so first. -/
def execPllUnlock (send recv : Fin 9) (inst : BitVec 9) (s : State) : Res :=
  .next (if s.power.phase = 0 ||
        s.power.unlocked.any (fun x => x.send = send.val && x.recv = recv.val && x.inst = inst.toNat) then s
    else
      let t := s.clkStall true send.val recv.val inst.toNat
      let new : PllDown := match s.power.unlocked.find? (fun x => samePll x send.val inst.toNat) with
        | some x => { x with recv := recv.val, inst := inst.toNat }
        | none => { send := send.val, recv := recv.val, inst := inst.toNat, since := s.now }
      { t with power := { t.power with unlocked := t.power.unlocked ++ [new] } })

/-- RELOCK_TIMEOUT (R513): the PLL has not relocked within 1 ms, 800,000 cycles; its crossings stay stalled until a module
reset. -/
def execRelockTimeout (c : ClockId) (s : State) : Res :=
  .next { s with power := { s.power with unlocked := s.power.unlocked.map (fun x =>
    if x.trying c && x.since + 800000 ≤ s.now then { x with tried := true } else x) } }

/-- PLL_RELOCK (R513): within the attempt. The latch stays. -/
def execPllRelock (c : ClockId) (s : State) : Res :=
  .next { s with power := { s.power with unlocked := s.power.unlocked.filter (fun x => !(x.trying c)) } }

/-- CLOCK_RESUME (R513): the sending clock makes edges again, and its handshakes complete. The latch stays. -/
def execClockResume (c : ClockId) (s : State) : Res :=
  .next { s with power := { s.power with stalls := s.power.stalls.filter (fun x =>
    !(x.1 = c.dom.val && (x.1 ≠ 3 || x.2.2 = c.stack.val))) } }

/-- Registers of an instance return to their reset values but for those that `keep` names (R515); event numbers are
never cleared (R75). What a requester read before it counts no more (R76): DEDUCED (log 113). -/
def State.resetRegs (s : State) (b : Block) (i : Nat) (keep : Nat → Bool) : State :=
  let mine := fun k => k / 4096 = srcKey b i
  { s with regs := { s.regs with
      cfg := s.regs.cfg.filter (fun x => !(mine x.1) || keep (x.1 % 4096))
      par := s.regs.par.filter (fun x => !(mine x.1) || keep (x.1 % 4096))
      found := s.regs.found.filter (fun x => !(mine x.1) || keep (x.1 % 4096))
      accepted := s.regs.accepted.filter (fun x => !(mine x.1) || keep (x.1 % 4096))
      status := s.regs.status.filter (fun x => !(mine x.1))
      latched := s.regs.latched.filter (fun x => !(mine x.1))
      seen := s.regs.seen.filter (fun x => !(mine (x.1 / 33)))
      count := s.regs.count.filter (fun x => !(mine x.1)) } }

def noKeep (_ : Nat) : Bool := false

/-- An instance enters block reset: its registers are gone from view until the reset completes. -/
def State.enterReset (s : State) (b : Block) (i : Nat) (keep : Nat → Bool) : State :=
  let t := s.resetRegs b i keep
  { t with regs := { t.regs with rst := srcKey b i :: t.regs.rst } }

/-- Stalls of the crossings between two domains at an instance end, whatever their cause (R513). -/
def State.endStalls (s : State) (a b i : Nat) : State :=
  let mine := fun send recv inst => inst = i && ((send = a && recv = b) || (send = b && recv = a))
  { s with power := { s.power with
      stalls := s.power.stalls.filter (fun x => !(mine x.1 x.2.1 x.2.2))
      unlocked := s.power.unlocked.filter (fun x => x.tried || !(mine x.send x.recv x.inst)) } }

/-- Both sides of the crossing at a core's fabric port are reset (R514): no message of the core is left in it, and to a
snoop that was in it, or whose answer was, the core answers EMPTY (R515). -/
def State.dropMessages (s : State) (k : Nat) : State :=
  let owes (l : LLine) : Bool := match l.op with | some o => o.wait.contains k | none => false
  let answers : List UpMsg := s.slices.flatMap (fun x =>
    (x.2.lines.filter owes).map (fun l => { core := k, line := l.line, body := .empty }))
  { s with up := s.up.filter (·.core ≠ k) ++ answers, dn := s.dn.filter (·.core ≠ k) }

/-- A CORE reset (R515): its launch's context faults, and the core is as after reset, `ARRAY.CTL` kept. The crossings that
it owns are that of its fabric port and those of its register pages (R512; log 158). -/
def State.resetCore (s : State) (k : Nat) : State :=
  let t := match s.coreCtx k with
    | none => s
    | some c => s.ctxFault c 0x3012
  let t := (((t.setCore k {}).dropMessages k).endStalls 0 1 k).endStalls 0 7 k
  (((t.enterReset .core k noKeep).enterReset .array k (· = 0x100)).enterReset .sparse k noKeep).enterReset .stall k noKeep

/-- The commands with a piece on an engine end FAULTED (R515). -/
def State.stopEngine (s : State) (e : Nat) : State :=
  (s.dmaJobs.filter (fun x => x.2.flight.any (·.engine = e))).foldl (fun t x =>
    match t.work x.1.id, x.1.ctx with
    | some _, some c => t.ctxFault c 0x3012
    | some w, none => t.endWork w stFaulted
    | none, _ => t) s

/-- A DMA reset (R515). -/
def State.resetDma (s : State) (e : Nat) : State := (s.stopEngine e).enterReset .dma e noKeep

/-- A ULINK reset (R515): the port is OFF, `ULINK.NODE` and `ULINK.DIMS` kept, the lanes reset with it. -/
def State.resetUlink (s : State) (p : Nat) : State :=
  let t := (((s.portOff p).endStalls 1 4 p).endStalls 4 7 p).enterReset .ulink p (fun o => o = 0x104 || o = 0x108)
  (upFrom (8 * p) 8).foldl (fun u l => u.enterReset .ulane l noKeep) t

/-- The instance a BLOCK_RST word names; none for another code or an instance that is not fitted (R520). -/
def State.blockOf (s : State) (v : Word) : Option (Block × Nat) :=
  let i := field v 15 0
  let b? : Option Block := match field v 31 16 with
    | 0x40 => some .core
    | 0x54 => some .dma
    | 0x20 => some .ulink
    | _ => none
  b?.bind (fun b => if i < globCount s.variant b && instFitted s.variant b i then some (b, i) else none)

/-- The reset of an instance of CORE, DMA or ULINK. -/
def State.blockReset (s : State) (b : Block) (i : Nat) : State :=
  if b = .core then s.resetCore i else if b = .dma then s.resetDma i else s.resetUlink i

/-- BLOCK_RST (R511, R515, R520). -/
def execBlockRst (r : MbxReq) (s : State) : Res :=
  .next (s.mbxRun r .clkrst { num := 1, read := false, write := true, len := 1 } (fun _ _ ws t =>
    match t.blockOf (ws.getD 0 0) with
    | none => itemBad t
    | some (b, i) => if !t.ready || t.inReset b i then itemDenied t else itemDone (t.blockReset b i)))

/-- BLOCK_RESET_COMPLETE (R515). -/
def execBlockResetComplete (b : Block) (inst : Fin 384) (s : State) : Res :=
  let i := inst.val
  let keys := if b = .core then [srcKey .core i, srcKey .array i, srcKey .sparse i, srcKey .stall i]
    else if b = .dma then [srcKey .dma i]
    else if b = .ulink then srcKey .ulink i :: (upFrom (8 * i) 8).map (srcKey .ulane)
    else []
  .next { s with regs := { s.regs with rst := s.regs.rst.filter (fun k => !(keys.contains k)) } }

/-- The MODULE_RESET item (R509, R520). -/
def moduleResetItem : Item := { num := 2, read := false, write := true, len := 1 }

/-- MODULE_RESET (R509): the reset takes the requester's copies with it, so that the command never finishes. -/
def execModuleReset (r : MbxReq) (s : State) : Res :=
  .next (if s.mbxReady r .clkrst && s.mbxErr r .clkrst moduleResetItem = errDone &&
        (s.copyOf r.req r.win .clkrst).d.getD 0 0 = 0xAA55 then
      let t := s.moduleReset 2
      { t with power := { t.power with itemReset := true } }
    else s.mbxRun r .clkrst moduleResetItem (fun _ _ _ t => itemBad t))

/-- MODULE_RESET_RELEASE (R510). -/
def execModuleResetRelease (s : State) : Res :=
  .next (if s.power.itemReset then ({ s with power := { s.power with itemReset := false } } : State).release else s)

/-- Cores as bits from `base` on. -/
def coreBits (l : List Nat) (base n : Nat) : Nat :=
  (List.range n).foldl (fun m i => if l.contains (base + i) then m + 2 ^ i else m) 0

/-- CORE_FAIL_LO (R520). -/
def execCoreFailLo (r : MbxReq) (s : State) : Res :=
  .next (s.mbxGet r .clkrst 3 8 (fun t _ => coreBits t.power.coreFail 0 256))

/-- CORE_FAIL_HI (R520). -/
def execCoreFailHi (r : MbxReq) (s : State) : Res :=
  .next (s.mbxGet r .clkrst 4 4 (fun t _ => coreBits t.power.coreFail 256 128))

/-- BOOT_TIME (R520). -/
def execBootTime (r : MbxReq) (s : State) : Res := .next (s.mbxGet r .clkrst 5 2 (fun t _ => t.power.bootTime))

end Sys2Proof.Machine
end

