-- ==== Sys2Proof/Machine/Sec.lean ====
section
/-! DEFINITION. The security engine: firmware images, the identity key's index, and the attestation messages (R522 to
R537), IDE_KM (R119) and the MCTP control messages (R533). -/

namespace Sys2Proof.Machine

/-- An image goes into a slot (true: B). -/
def SecState.store (c : SecState) (slotB : Bool) (b : List Byte) (ok : Bool) : SecState :=
  if slotB then { c with slotB := b, validB := ok } else { c with slotA := b, validA := ok }

/-- The slot that does not run. -/
def SecState.spare (c : SecState) : Bool := c.slotRun != some true

/-- FW_LOAD (R527, R536): the image is read in and checked, and a valid one is being written from then on, so that the slot
it goes to is invalid. Copy, check and write have no rows of their own: DESIGN CHOICE (log 109). -/
def fwLoadAct (a : List Nat) (s : State) : Option ItemRes :=
  let o := a.getD 0 0
  let n := a.getD 1 0
  if s.sec.loading.isSome || o % 4096 ≠ 0 || !(isStack s.variant o) then some (itemBad s)
  else
    (s.agentRead false o n).map (fun t =>
      let b := s.devRead o n
      let ok := imageValid s.sec.fuseSvn b && !(s.rangePoison o n)
      let c := { t.sec with loading := some (b, ok) }
      itemDone { t with sec := if ok then c.store c.spare [] false else c })

def execFwLoad (r : MbxReq) (s : State) : Res :=
  .next (s.mbxRead r .sec { num := 0x10, read := false, write := true, len := 4 }
    (fun _ _ ws _ => [natOf (ws.take 2), natOf (ws.drop 2)]) fwLoadAct)

/-- FW_LOAD_COMPLETE (R527): the last byte is written and checked again, or the image is rejected. -/
def execFwLoadComplete (s : State) : Res :=
  .next (match s.sec.loading with
    | none => s
    | some (b, ok) =>
      let t : State := { s with sec := { s.sec with loading := none } }
      if ok then { t with sec := t.sec.store t.sec.spare b true }
      else (t.latch .sec 0 0x800 (· ||| flag true 23)).raise .sec 0 0x8001)

/-- FW_INFO (R536). -/
def execFwInfo (r : MbxReq) (s : State) : Res :=
  .next (s.mbxRun r .sec { num := 0x11, read := true, write := false, len := 8 } (fun _ _ _ t =>
    let c := t.sec
    itemRead t (wordsOf 2 (imgSvn c.slotA) ++ wordsOf 2 (imgSvn c.slotB) ++ wordsOf 2 c.fuseSvn ++
      [flag c.validB 1 ||| flag c.validA 0, 0])))

/-- FUSE_SVN rises to the SVN of the running image, and an image with a lower SVN is invalid (R528); measurement 2 changes
with it (R532). -/
def State.commitSvn (s : State) : State :=
  let n := min 64 (imgSvn s.sec.image)
  if n ≤ s.sec.fuseSvn then s
  else
    let c := s.sec
    ({ s with sec := { c with
        fuseSvn := n, validA := c.validA && n ≤ imgSvn c.slotA, validB := c.validB && n ≤ imgSvn c.slotB } } : State).measChanged

/-- FW_COMMIT_SVN (R527, R528, R536). -/
def execFwCommitSvn (r : MbxReq) (s : State) : Res :=
  .next (s.mbxRun r .sec { num := 0x12, read := false, write := true, len := 1 } (fun _ _ ws t =>
    if ws.getD 0 0 ≠ 0x5AA5 || t.sec.loading.isSome then itemBad t else itemDone t.commitSvn))

/-- SIGN_INDEX (R536). -/
def execSignIndex (r : MbxReq) (s : State) : Res :=
  .next (s.mbxRun r .sec { num := 1, read := true, write := false, len := 4 } (fun _ _ _ t =>
    itemRead t (wordsOf 2 t.sec.next ++ wordsOf 2 t.sec.limit)))

/-- GENERATION (R536). -/
def execGeneration (r : MbxReq) (s : State) : Res := .next (s.mbxGet r .sec 2 2 (fun t _ => t.sec.generation))

/-- MEAS_ARG (R536): kept per requester. -/
def execMeasArg (r : MbxReq) (s : State) : Res :=
  .next (s.mbxRun r .sec { num := 3, read := false, write := true, len := 1 } (fun _ _ ws t =>
    itemDone (t.setArg r.req .sec 3 0 ws)))

/-- MEAS (R536): zeros for an index that is not listed. -/
def execSecMeas (r : MbxReq) (s : State) : Res :=
  .next (s.mbxRun r .sec { num := 4, read := true, write := false, len := 8 } (fun _ _ _ t =>
    let i := field ((t.arg r.req .sec 3 0).getD 0 0) 5 0
    itemRead t (wordsOf 8 (leNat ((t.measurement i).getD (List.replicate 32 0))))))

/-- How attestation messages travel (R533): DOE data objects of type 0x80, MCTP messages of type 0x7E. -/
def viaDoe : Via := .doe .motetas 0x80
def viaMctp : Via := .mctp 0x7E .motetas

/-- Attestation requests reach the engine over DOE from READY on, and over MCTP while the module is out of reset and its
firmware runs (R506, R509, R526); a message of another type or vendor is none (R533). -/
def State.secHears (s : State) (via : Via) : Bool :=
  if via = viaDoe then s.ready else via = viaMctp && s.sec.slotRun.isSome && s.power.phase ≠ 0

/-- Head and STATUS of a response (R533). -/
def respHead (code : Byte) (status : Nat) : List Byte := [1, code, 0, 0] ++ leBytes 4 status

/-- A MEASUREMENTS response without blocks and signature (R533). -/
def State.measRefuse (s : State) (via : Via) (status : Nat) : State :=
  s.emit (.message via (respHead 0x90 status ++ leBytes 8 s.sec.generation ++ leBytes 4 0))

/-- Indices that MASK names and R531 lists, in ascending order. -/
def maskIndices (mask : Nat) : List Nat := (List.range 48).filter (fun i => mask.testBit i && (i < 4 || 16 ≤ i))

/-- Blocks of a response. -/
def State.measBlocks (s : State) (mask : Nat) : List Byte :=
  (maskIndices mask).flatMap (fun i => leBytes 2 i ++ [0, 0] ++ (s.measurement i).getD [])

/-- A GET_MEASUREMENTS has its format (R533). -/
def measRequestOk (b : List Byte) : Bool := b.length = 48 && leAt b 0 4 = 0x1001 && zerosAt b 44 4

/-- The transport holds a request already (R534). -/
def SecState.busy (c : SecState) (via : Via) : Bool := c.queue.any (·.via = via)

/-- Indices that remain for requests beyond those that wait. -/
def SecState.left (c : SecState) : Nat := signTotal - (c.next + c.queue.length)

/-- GET_MEASUREMENTS (R533, R534): what the grants hold now is captured. -/
def execGetMeasurements (via : Via) (bytes : List Byte) (s : State) : Res :=
  .next (if !(s.secHears via) then s
    else if s.sec.busy via then s.measRefuse via 1
    else if !(measRequestOk bytes) then s.measRefuse via 3
    else if s.sec.left = 0 then s.signWatch.measRefuse via 2
    else
      let t := s.remeasureAll
      { t with sec := { t.sec with queue := t.sec.queue ++ [{
          via := via, request := bytes, gen := t.sec.generation
          blocks := t.measBlocks (leAt bytes 36 8) }] } })

/-- GET_IDENTITY (R533): it uses no index. -/
def execGetIdentity (via : Via) (bytes : List Byte) (s : State) : Res :=
  .next (if !(s.secHears via) then s
    else if s.sec.busy via then s.emit (.message via (respHead 0x91 1))
    else if bytes ≠ [1, 0x11, 0, 0] then s.emit (.message via (respHead 0x91 3))
    else s.emit (.message via (respHead 0x91 0 ++ hssPublic false ++
      leBytes 16 Config.serialNumber.toNat ++ endorsement)))

/-- Largest image (R524). -/
def imgMax : Nat := 80 + 8388608 + 3604

/-- FW_RECOVER (R526, R533): an MCTP message of CODE 0x12 with bytes of an image for slot A; once that is valid, the ROM
starts anew at step 1. -/
def execFwRecover (head : RecoverHead) (bytes : List Byte) (s : State) : Res :=
  .next (if !s.power.standby || !s.sec.recovery || head.via ≠ viaMctp || head.head ≠ 0x1201 || 1024 < bytes.length ||
      imgMax < head.off.toNat + bytes.length then s
    else
      let b := s.sec.slotA ++ List.replicate (head.off.toNat - s.sec.slotA.length) 0
      let c := s.sec.store false (overlay b head.off.toNat bytes) false
      if imageValid c.fuseSvn c.slotA then { s with sec := { c with validA := true, recovery := false } }
      else { s with sec := c })

/-- RESERVATION_WRITE_DONE (R529). -/
def execReservationWriteDone (s : State) : Res :=
  .next (if s.sec.reserving then { s with sec := s.sec.reserve } else s)

/-- The response of a request up to its signature (R533). -/
def SignReq.response (q : SignReq) : List Byte :=
  respHead 0x90 0 ++ leBytes 8 q.gen ++ leBytes 4 (q.blocks.length / 36) ++ q.blocks

/-- SIGNATURE_RELEASE (R529, R530): the oldest request is signed with the next index, which lies below RESERVED. -/
def execSignatureRelease (s : State) : Res :=
  .next (match s.sec.queue with
    | [] => s
    | q :: rest =>
      if s.sec.limit ≤ s.sec.next || s.sec.tree < s.sec.next / 2 ^ 20 || signTotal ≤ s.sec.next then s
      else
        let sig := hssSign false s.sec.next (q.request ++ q.response)
        (({ s with sec := { s.sec with queue := rest, next := s.sec.next + 1 } } : State).emit
          (.message q.via (q.response ++ sig))).signWatch)

/-- TREE_BUILD_DONE (R530): the next level-1 tree, begun when 2^19 indices of the current one remain, or the tree that the
next index needs. -/
def execTreeBuildDone (s : State) : Res :=
  let need := s.sec.next / 2 ^ 20
  .next (if s.sec.tree < need then { s with sec := { s.sec with tree := need } }
    else if s.sec.tree = need && 2 ^ 19 ≤ s.sec.next % 2 ^ 20 then { s with sec := { s.sec with tree := need + 1 } }
    else s)

/-- Key of a stream among those of the link and those that are selective. -/
def IdeStream.key (x : IdeStream) : Nat := x.id.toNat + (if x.selective then 256 else 0)

/-- A key for a stream finds room (R119): the stream has one, or there are fewer streams of its kind than 1 of the link and
4 selective ones. -/
def State.ideRoom (s : State) (x : IdeStream) : Bool :=
  s.pci.ide.any (·.1 = IdeStream.key x) ||
    (s.pci.ide.filter (fun y => y.1 / 256 = IdeStream.key x / 256)).length < (if x.selective then 4 else 1)

/-- IDE_KM_MESSAGE (R119): a key of an IDE stream, programmed through the DOE mailbox of the physical function. -/
def execIdeKmMessage (stream : IdeStream) (key : List Byte) (s : State) : Res :=
  .next (if s.ready && s.ideRoom stream then
      { s with pci := { s.pci with ide := Tab.set [] s.pci.ide (IdeStream.key stream) key } }
    else s)

/-- Answer to an MCTP control request (R533). PRESUMED (log 36): the layout and codes of the MCTP base specification. -/
def mctpAnswer (b : List Byte) (eid : Byte) : List Byte × Byte :=
  let inst := b.getD 1 0 &&& 0x1F
  let cmd := b.getD 2 0
  let new := b.getD 4 0
  if cmd = 1 && b.length = 5 then
    if b.getD 3 0 &&& 3 ≤ 1 && new ≠ 0 && new ≠ 0xFF then ([0, inst, 1, 0, 0, new, 0], new)
    else ([0, inst, 1, 2], eid)
  else if cmd = 2 && b.length = 3 then ([0, inst, 2, 0, eid, 0, 0], eid)
  else ([0, inst, cmd, if cmd = 1 || cmd = 2 then 3 else 5], eid)

/-- MCTP_CONTROL_MESSAGE (R533): a request to set or to read the endpoint ID, which the firmware answers and recovery does
not (R526). -/
def execMctpControlMessage (bytes : List Byte) (s : State) : Res :=
  .next (if !s.power.standby || s.sec.slotRun.isNone || bytes.length < 3 || bytes.getD 0 0 ≠ 0 || !((bytes.getD 1 0).getLsbD 7) then s
    else
      let (a, e) := mctpAnswer bytes s.sec.eid
      ({ s with sec := { s.sec with eid := e } } : State).emit (.mctpControl a))

end Sys2Proof.Machine
end

