-- ==== Sys2Proof/Machine/StatusRead.lean ====
section
/-! DEFINITION. What the registers of a page read as: the common header, configuration, status with its live fields,
and holding registers (R41 to R47, R53, R58, R61, R64, R73 to R77, R82), and a snapshot (R61 to R63). -/

namespace Sys2Proof.Machine

/-- Blocks whose pages hold counters, which SNAP_CTL captures (R45). -/
def hasCounters : Block → Bool
  | .puppeteer => true | .core => true | .stall => true | .array => true | .sparse => true | .marble => true
  | .llc => true | .dir => true | .hbm => true | .slowtier => true | .narrow => true | .dma => true | .narog => true
  | .rattle => true | .ulink => true | .ulane => true | .coll => true | .kite => true
  | .module => false | .strings => false | .ctxtab => false | .pcie => false | .sec => false | .mgmt => false
  | .clkrst => false | .power => false | .watch => false | .rng => false | .narogSg => false

/-- The page serves more than one instance (R45, R46, R49). -/
def servesMany (w : Window) (b : Block) : Bool :=
  match w with
  | .glob =>
    (match b with
      | .puppeteer => true | .ctxtab => true | .ulink => true | .ulane => true | .core => true | .array => true
      | .sparse => true | .stall => true | .llc => true | .dir => true | .hbm => true | .narrow => true | .dma => true
      | .marble => true | .slowtier => true | .watch => true
      | .module => false | .strings => false | .coll => false | .kite => false | .pcie => false | .sec => false
      | .mgmt => false | .clkrst => false | .power => false | .narog => false | .rattle => false | .rng => false
      | .narogSg => false)
  | .part _ => b = .ctxtab || b = .watch || b = .narogSg

/-- PAGE_ID (R44). NAROG alone has two pages of one BLOCK code, the module's (R395) and a shard group's (R396); the spec
gives neither an index, and both show PAGE 0: DESIGN CHOICE (log 170). -/
def pageId (b : Block) : Word := place (Block.code b) 16 ||| place (Config.pageVersion (Block.code b)).toNat 0

def pageCap (w : Window) (b : Block) : Word :=
  flag (servesMany w b) 31 ||| flag true 30 ||| flag (hasCounters b) 29

/-- The block of a page is absent as a whole (R47). -/
def State.absent (s : State) (b : Block) : Bool := globCount s.variant b = 0

/-- An instance shows its registers: its part is fitted and it is not in a block reset (R47, R515). -/
def State.shows (s : State) (b : Block) (i : Nat) : Bool := instFitted s.variant b i && !(s.inReset b i)

/-- STATE of CTX_STATUS (R137). -/
def CtxState.code : CtxState → Nat
  | .free => 0 | .active => 1 | .stopped => 2 | .destroying => 3 | .clearing => 4

/-- STATE of ULINK.STATUS (R459). -/
def PortSt.code : PortSt → Nat
  | .off => 0 | .training => 1 | .up => 2 | .dead => 3

def Job.isLaunch : Job → Bool
  | .launch _ => true
  | .sort _ => false | .dma _ => false | .narog _ => false | .coll _ => false

/-- Launches of a context that run, or that wait (R154). -/
def State.launchesOf (s : State) (c : Nat) (running : Bool) : Nat :=
  (s.works.filter (fun w => w.ctx = some c && w.running = running && w.job.isLaunch)).length

/-- A bank is HELD, until the last read of a releasing drain (R213, R214). -/
def ArrState.held (a : ArrState) (now b : Nat) : Bool :=
  (a.bankOf b).hold.isSome ||
    a.queue.any (fun e => match e.act, e.started with
      | .drain k _ _ _ 0, some t => k = b && now < t + 128
      | _, _ => false)

/-- Live fields of ARRAY's registers (R228). -/
def ArrState.live (a : ArrState) (now off : Nat) : Word :=
  if off = 0x800 then
    place (if a.loading then 1 else if a.shadow.isSome then 2 else 0) 20 ||| flag (a.held now 1) 19 |||
      flag (a.held now 0) 18 ||| place a.queue.length 14 ||| place a.tr.toNat 0
  else if off = 0x80C then place a.sv.toNat 0
  else if off = 0x810 then place a.rs.toNat 0
  else 0

/-- The same, with the releases that are due (R218). -/
def State.arrLive (s : State) (k off : Nat) : Word :=
  let c := match s.running k with
    | none => s.core k
    | some (_, l) => (s.core k).released l s.now
  c.arr.live s.now off

/-- STATE of CORE.STATUS (R187). -/
def State.coreState (s : State) (k : Nat) : Nat :=
  let c := s.core k
  if c.clearing || (c.launch.isSome && s.now < c.zeroTo) then 2 else if c.launch.isSome then 1 else 0

/-- Live fields of CORE's registers (R187): a block that has ended is not resident (R165). -/
def State.coreLive (s : State) (k off : Nat) : Word :=
  let c := s.core k
  if off = 0x800 then
    place (s.coreState k) 22 ||| place c.groups.length 13 |||
      place ((s.running k).map (fun w => (c.sweep w.2.gpb).blocks.length) |>.getD 0) 7
  else if off = 0x80C then (if s.coreState k = 1 then place ((s.coreCtx k).getD 0) 0 else 0)
  else 0

/-- Live fields of LLC.STATE (R340). -/
def Slice.live (x : Slice) (off : Nat) : Word :=
  if off = 0x800 then flag x.wb.isSome 23 ||| place x.merges.length 16 ||| place (min 0x1FFF x.queued) 0 else 0

/-- Live fields of ULINK's registers (R459). -/
def Port.live (x : Port) (off : Nat) : Word :=
  if off = 0x800 then place x.st.code 22 ||| flag (x.held ≠ []) 16 ||| place x.peer.toNat 0
  else if off = 0x804 then place x.delay 0
  else 0

/-- A lane under test: TEST takes effect while its port is OFF (R460). -/
def State.laneTest (s : State) (i : Nat) : Bool := (s.port (i / 8)).st = .off && bit (s.cfg .ulane i 0x100) 0

/-- LOCK and EYE_MV of a lane whose receiver is locked, the latter a free value (R460, log 37). -/
def State.laneLive (s : State) (i : Nat) : Word :=
  if (s.port (i / 8)).lock.getLsbD (i % 8) && ((s.port (i / 8)).st ≠ .off || s.laneTest i) then
    flag true 23 ||| place (s.freeWord.toNat % 256) 8
  else 0

/-- Live fields of a Kite instance (R493, R494). -/
def State.kiteLive (s : State) (w : Window) (p off : Nat) : Word :=
  let k := s.kpart p
  if off = 0x804 then
    place k.restore.state 21 ||| place k.restore.result 18 ||| place ((k.restore.sg - s.sgBase p) % 256) 0
  else if off = 0x808 then place (min 0x1FFFF (ceilDiv (k.used + (k.fed - k.taken)) 1048576)) 0
  else if off = 0xA04 && w = .glob then place (min 0xFFFFFF s.buddies.length) 0
  else 0

/-- Live fields of PUPPETEER's registers (R115). -/
def State.frameLive (s : State) (p off : Nat) : Word :=
  if off = 0x800 then
    place (s.kindOf p s.fr.no).code 21 ||| flag s.closedNow 20 ||| flag (s.govLevel < 16) 19
  else 0

/-- Live fields of POWER's registers (R519). -/
def State.powerLive (s : State) (off : Nat) : Word :=
  if off = 0x800 then flag (s.govLevel < 16) 23 ||| place s.govLevel 16
  else if off = 0x804 then place s.power.inputW 12 ||| place (s.power.vinDv % 4096) 0
  else if off = 0x808 then
    place (s.power.junction % 256) 16 ||| place (s.power.hbmC % 256) 8 ||| place (s.power.coolant % 256) 0
  else 0

/-- Live fields of CLKRST's registers (R520). -/
def State.clkrstLive (s : State) (off : Nat) : Word :=
  if off = 0x800 then flag s.ready 23 ||| place s.power.phase 20
  else if off = 0x808 then place s.power.colOff 14 ||| place s.power.arrayOff 5
  else if off = 0x80C then place s.power.kind 21
  else 0

def State.stringsLive (s : State) (off : Nat) : Word :=
  if off = 0x800 then flag (s.fr.free && s.isFollower) 23 ||| place s.fr.lastErr.toNat 0
  else if off = 0x804 then place s.fr.port 21 ||| place (s.fr.hops % 64) 15 ||| place s.fr.sourceId.toNat 0
  else 0

def Job.isNarogRun : Job → Bool
  | .narog j => j.phase ≠ .waiting
  | .launch _ => false | .sort _ => false | .dma _ => false | .coll _ => false

def Job.isCollRun : Job → Bool
  | .coll j => j.started
  | .launch _ => false | .sort _ => false | .dma _ => false | .narog _ => false

/-- SG_STATUS.STATE and WC_STALE (R396). -/
def State.sgLive (s : State) (g off : Nat) : Word :=
  if off = 0x800 then
    place (if s.sgBusy g then 2 else if (s.sg g).ready then 1 else 0) 22 ||| flag (s.sg g).wcStale 21
  else 0

/-- Live RO fields of a status register of an instance (R77). CTX_QUEUE.RUNNING saturates at its 8 bits: DESIGN CHOICE
(log 133). -/
def State.live_ (s : State) (w : Window) (b : Block) (i off : Nat) : Word :=
  match b with
  | .module => if off < 0x800 then 0 else (identityWords s.variant).getD ((off - 0x800) / 4) 0
  | .puppeteer => s.frameLive i off
  | .strings => s.stringsLive off
  | .ctxtab =>
    if off = 0x800 then place (s.ctx i).st.code 21
    else if off = 0x804 then place (min 255 (s.launchesOf i true)) 16 ||| place (min 127 (s.launchesOf i false)) 0
    else 0
  | .core => s.coreLive i off
  | .array => s.arrLive i off
  | .marble => if off = 0x800 then place (s.marble i).fill.length 7 else 0
  | .llc => (s.slice i).live off
  | .hbm => if off = 0x80C then place (Tab.get 0 s.hbm.temp i % 256) 0 else 0
  | .dma => if off = 0x800 then place (min 0xFFF (s.queuedPieces (i / 8))) 0 else 0
  | .narog => if off = 0x800 then place ((s.works.filter (fun w => w.job.isNarogRun)).length % 256) 16 else 0
  | .narogSg => s.sgLive i off
  | .watch => if off = 0x800 then place (min 4095 (s.entry i).zrun) 0 else 0
  | .ulink => (s.port i).live off
  | .ulane => if off = 0x800 then s.laneLive i else 0
  | .coll =>
    if off = 0x800 then
      place (min 8191 s.flowsUsed) 11 ||| place (min 2047 (s.works.filter (fun w => w.job.isCollRun)).length) 0
    else 0
  | .kite => s.kiteLive w i off
  | .power => s.powerLive off
  | .clkrst => s.clkrstLive off
  | .sec =>
    if off = 0x800 then
      flag (s.sec.slotRun = some true) 19 ||| flag true 18 ||| flag s.sec.loading.isSome 17
    else 0
  | .pcie => 0 | .mgmt => 0 | .sparse => 0 | .stall => 0 | .dir => 0 | .narrow => 0 | .slowtier => 0 | .rattle => 0
  | .rng => 0

/-- The SQ fields as a window shows them: a context is named in the window's own numbering (R115). -/
def State.sqView (s : State) (w : Window) (b : Block) (i off : Nat) : Word :=
  let v := s.sq b i off &&& sqMask b off
  match w with
  | .glob => v
  | .part p =>
    if b = .puppeteer && off = 0x804 && s.latchedBefore b i off then
      (v &&& span 23 12) ||| place (field v 11 0 - s.ctxBase p.val) 0
    else v

/-- Saturations that the passes running on a core's array have written by now and SAT_COUNT has not taken in (R228). -/
def State.satsNow (s : State) (k : Nat) : Nat := ((s.core k).arr.queue.map (fun e => e.satsIn s.now)).sum

/-- The counter a status register shows, in its unit; the module counters of KITE stand in the global page alone, and
once for the module (R115, R494). -/
def State.countView (s : State) (w : Window) (b : Block) (i off : Nat) : Word :=
  match counterUnit b off with
  | none => 0
  | some u =>
    if b = .kite && 0xA00 ≤ off then
      (match w with
        | .glob => s.counterView .kite 0 off u
        | .part _ => 0)
    else if b = .array && off = 0x808 then (s.addCount b i off (s.satsNow i)).counterView b i off u
    else s.counterView b i off u

/-- A status register at 0x800–0xBFF (R43, R75, R77). -/
def State.statusWord (s : State) (w : Window) (b : Block) (i off : Nat) : Word :=
  if b = .module then s.live_ w b i off
  else
    place ((s.evnum b i off).toNat % 256) 24 ||| s.sqView w b i off ||| s.countView w b i off ||| s.live_ w b i off

/-- EVSEQ (R82). -/
def Source.word (o : Source) : Word :=
  place (o.num.toNat % 256) 24 ||| place (min 255 o.pending) 16 ||| place o.lastCode.toNat 0

/-- PARITY_STATUS (R73). -/
def State.parityWord (s : State) (b : Block) : Word :=
  place ((s.evnum b scrubber 0x018).toNat % 256) 24 ||| flag (s.pageHold b) 23 |||
    (s.sq b scrubber 0x018 &&& sqMask b 0x018)

/-- MBX_STAT (R58). -/
def ReqCopy.stat (c : ReqCopy) : Word :=
  place c.tag.toNat 24 ||| place c.err.toNat 2 ||| flag c.busy 1 ||| flag c.valid 0

/-- SNAP_CTL (R61). -/
def ReqCopy.snapCtl (c : ReqCopy) : Word :=
  place c.snapInst.toNat 8 ||| flag c.snapZero 2 ||| flag c.snapDone 1

/-- A configuration register as an instance shows it; KITE.MCTL stands in the global page alone (R394, R459, R494). -/
def State.cfgWord (s : State) (w : Window) (b : Block) (i off : Nat) : Word :=
  if !(isCfg b off) then 0
  else
    match b with
    | .narogSg =>
      if off = 0x100 then s.sgCfg i
      else if s.variant = .l7140 && 0x180 ≤ off then 0
      else s.cfg b i off
    | .kite =>
      if off = 0x300 then (match w with | .glob => s.cfg .kite 0 off | .part _ => 0) else s.cfg b i off
    | .module => s.cfg b i off | .puppeteer => s.cfg b i off | .strings => s.cfg b i off | .ctxtab => s.cfg b i off
    | .coll => s.cfg b i off | .ulink => s.cfg b i off | .ulane => s.cfg b i off | .pcie => s.cfg b i off
    | .sec => s.cfg b i off | .mgmt => s.cfg b i off | .clkrst => s.cfg b i off | .power => s.cfg b i off
    | .core => s.cfg b i off | .array => s.cfg b i off | .sparse => s.cfg b i off | .stall => s.cfg b i off
    | .llc => s.cfg b i off | .dir => s.cfg b i off | .hbm => s.cfg b i off | .narrow => s.cfg b i off
    | .dma => s.cfg b i off | .marble => s.cfg b i off | .narog => s.cfg b i off | .slowtier => s.cfg b i off
    | .watch => s.cfg b i off | .rattle => s.cfg b i off | .rng => s.cfg b i off

/-- The register at an aligned offset, as a requester that reaches the page reads it (R41). Where CHSEL selects no
instance that the requester holds, what follows CHSEL reads 0: DESIGN CHOICE (log 134). -/
def State.regWord (s : State) (r : Req) (w : Window) (b : Block) (off : Nat) : Word :=
  let c := s.copyOf r w b
  let inst := (s.selInst r w b).filter (fun i => s.shows b i)
  let at_ := fun (f : Nat → Word) => match inst with | some i => f i | none => 0
  if !(pageExists w b) then 0
  else if off = 0x000 then pageId b
  else if off = 0x004 then pageCap w b
  else if off = 0x00C then place (s.chCount w b) 0
  else if s.absent b then 0
  else if off = 0x008 then flag c.bad 23 ||| place c.inst.toNat 0
  else if off = 0x010 then at_ (fun i => (s.source (srcKey b i)).word)
  else if off = 0x018 then s.parityWord b
  else if off = 0x020 then c.cmd
  else if off = 0x024 then c.stat
  else if 0x028 ≤ off && off ≤ 0x044 then c.d.getD ((off - 0x028) / 4) 0
  else if off = 0x048 then c.snapCtl
  else if off < 0x100 then 0
  else if off < 0x800 then at_ (fun i => s.cfgWord w b i off)
  else if off < 0xC00 then at_ (fun i => s.statusWord w b i off)
  else if off < 0x1000 then Tab.get 0 c.hold off
  else 0

/-- What a read leaves behind: the event number of a status register for its reader (R76), and for EYE_MV the free value
it used. -/
def State.afterRead (s : State) (r : Req) (w : Window) (b : Block) (off : Nat) : State :=
  if off = 0x010 || off = 0x018 || (0x800 ≤ off && off < 0xC00) then
    match s.statusInst r w b off with
    | none => s
    | some i =>
      if off ≠ 0x018 && !(s.shows b i) then s
      else
        let t := s.noteRead (regKey b i off) r (s.seqNum b i off)
        if b = .ulane && off = 0x800 then t.useFree 1 else t
  else s

/-- A 32-bit read of the register that holds an offset: its value, and the state after. -/
def State.readReg (s : State) (r : Req) (w : Window) (b : Block) (off : Nat) : Word × State :=
  let o := off / 4 * 4
  if reaches r w then (s.regWord r w b o, s.afterRead r w b o) else (0, s)

/-- A word of BAR2 as its function reads it (R123, R124): a doorbell page reads 0, the MSI-X table and the PBA read what
they hold, and a reserved offset reads 0. -/
def State.bar2Word (s : State) (f o : Nat) : Word :=
  let table := (if f = 0 then 3072 else 768) * 4096
  let pba := table + (if f = 0 then 0x8000 else 0x1000)
  if table ≤ o && o < table + 16 * msixSize f then
    Tab.get (msixDefault (o - table)) s.pci.msixTable (f * 65536 + (o - table))
  else if pba ≤ o && o < pba + msixSize f / 8 then
    BitVec.ofNat 32 ((List.range 32).foldl (fun m i =>
      if s.heldMsgs f (8 * (o - pba) + i) ≠ [] then m + 2 ^ i else m) 0)
  else 0

/-- A 32-bit read at an address: a register, a word of BAR2, or 0 at a reserved offset (R42, R46, R48, R49, R123). -/
def State.readBar (s : State) (x : BarAcc) : Word × State :=
  match BarAcc.acc x, x.addr with
  | some a, _ => s.readReg a.req a.win a.blk a.off.toNat
  | none, .bar0 _ => (0, s)
  | none, .bar2 o => (if x.req.val = 32 then 0 else s.bar2Word x.req.val (o.toNat / 4 * 4), s)

/-- A read of the given width (R42): a narrow read returns the addressed bytes, a 64-bit read is two 32-bit reads, lower
address first. -/
def State.readAcc (s : State) (x : BarAcc) (w : AccWidth) : BitVec 64 × State :=
  let (v, t) := s.readBar x
  let low := v.toNat / 2 ^ (8 * BarAcc.byte x)
  match w with
  | .w8 => (BitVec.ofNat 64 (low % 256), t)
  | .w16 => (BitVec.ofNat 64 (low % 65536), t)
  | .w32 => (BitVec.ofNat 64 v.toNat, t)
  | .w64 =>
    match BarAcc.high x with
    | some y => (BitVec.ofNat 64 (v.toNat + 2 ^ 32 * (t.readBar y).1.toNat), (t.readBar y).2)
    | none => (BitVec.ofNat 64 v.toNat, t)

/-- STATUS_REGISTER_READ (R42, R76): any address of the register space may be read so. -/
def execStatusRegisterRead (x : BarAcc) (w : AccWidth) (s : State) : Res :=
  .next (if s.hears x.req (BarAcc.page x) then
      let (v, t) := s.readAcc x w
      t.emit (.readData x.req.val v)
    else s)

/-- The offsets of the status region. -/
def statusOffsets : List Nat := (List.range 256).map (fun k => 0x800 + 4 * k)

/-- The copy of an instance's status registers that a TAKE makes (R62); registers that read 0 need no entry. -/
def State.snapshot (s : State) (w : Window) (b : Block) (i : Nat) : Tab Word :=
  if s.shows b i then
    statusOffsets.filterMap (fun o =>
      let v := s.statusWord w b i o
      if v = 0 then none else some (o + 0x400, v))
  else []

/-- Counters in the status region of an instance restart from zero (R63); SAT_COUNT with what running passes have written
(R228). -/
def State.zeroCounters (s : State) (w : Window) (b : Block) (i : Nat) : State :=
  let mine := fun k =>
    let off := k % 4096
    let key := k / 4096
    0x800 ≤ off && off < 0xC00 &&
      (if b = .kite && 0xA00 ≤ off then w = .glob && key = srcKey .kite 0 else key = srcKey b i)
  let t : State := { s with regs := { s.regs with count := s.regs.count.filter (fun x => !(mine x.1)) } }
  if b = .array then
    t.setCore i { t.core i with arr := { (t.core i).arr with queue := (t.core i).arr.queue.map (·.restart t.now) } }
  else t

/-- A write of SNAP_CTL (R61 to R63). The holding registers change in the cycle of the write, DONE rises later, and a
TAKE before that captures again: DESIGN CHOICE (log 135). With no instance selected a TAKE captures what a read gives,
zeros (log 134). -/
def State.snapWrite (s : State) (r : Req) (w : Window) (b : Block) (v : Word) : State :=
  if !(s.hears r b) || !(pageTakes r w b) || s.absent b then s
  else
    let c := s.copyOf r w b
    let z := bit v 2
    if !(bit v 0) then s.setCopy r w b { c with snapZero := z }
    else
      match s.selInst r w b with
      | none => s.setCopy r w b { c with
          snapZero := z, snapInst := c.inst, snapDone := false, snapBusy := true, hold := [] }
      | some i =>
        let t := s.setCopy r w b { c with
          snapZero := z, snapInst := c.inst, snapDone := false, snapBusy := true, hold := s.snapshot w b i }
        let t := if b = .ulane then t.useFree 1 else t
        if z && s.shows b i then t.zeroCounters w b i else t

/-- SNAP_TAKE (R62). -/
def execSnapTake (r : Req) (w : Window) (b : Block) (v : Word) (s : State) : Res := .next (s.snapWrite r w b v)

end Sys2Proof.Machine
end

