-- ==== Sys2Proof/Machine/Registers.lean ====
section
/-! DEFINITION. Writes of registers: the rule each configuration register has for what it stores (R65, R71), the grant
registers of R129 and R369, MBX_CMD as it names an item, and the commands that are such writes. -/

namespace Sys2Proof.Machine

/-- Watch entries that a grant adds start anew (R402). -/
def State.freshEntry (s : State) (e : Nat) : State :=
  ((s.setEntry e {}).setCfg .watch e 0x100 (cfgReset .watch 0x100)).clearSq .watch e 0x800

/-- GRANT_WATCH (R129, R131, R402). -/
def State.grantWatch (s : State) (p : Nat) (v : Word) : State :=
  let b := field v 12 0
  let n := field v 29 16
  let r := s.recorded
  if r.rangeRefused p b n 8192 State.watchBase State.watchCount then s
  else
    let ob := r.watchBase p
    let oc := r.watchCount p
    let t := (s.setCfg .puppeteer p 0x110 (v &&& cfgMask .puppeteer 0x110)).touch p
    (upFrom b n).foldl (fun t e => if ob ≤ e && e < ob + oc then t else t.freshEntry e) t

/-- GRANT_SG (R131, R369). -/
def State.grantSg (s : State) (p : Nat) (v : Word) : State :=
  if s.recorded.rangeRefused p (field v 7 0) (field v 24 16) 256 State.sgBase State.sgCount then s
  else (s.setCfg .puppeteer p 0x114 (v &&& cfgMask .puppeteer 0x114)).touch p

/-- GRANT_SLOW (R131, R369). -/
def State.grantSlow (s : State) (p : Nat) (v : Word) : State :=
  let n := field v 26 16
  if (n ≠ 0 && slowGib s.variant < field v 9 0 + n) ||
      s.recorded.rangeRefused p (field v 9 0) n 2048 State.slowBase State.slowCount then s
  else (s.setCfg .puppeteer p 0x118 (v &&& cfgMask .puppeteer 0x118)).touch p

/-- Store the writable bits of a register. -/
def State.plainCfg (s : State) (b : Block) (i off : Nat) (v : Word) : State := s.setCfg b i off (v &&& cfgMask b off)

/-- Store a register, one of whose fields keeps its value when the write holds an unlisted one (R71). -/
def State.keepField (s : State) (b : Block) (i off hi lo : Nat) (bad : Bool) (v : Word) : State :=
  s.plainCfg b i off (if bad then (v &&& ~~~(span hi lo)) ||| (s.cfg b i off &&& span hi lo) else v)

/-- A register of PUPPETEER: STEP_LAYOUT, and in the global window the grants (R101, R128, R129, R369). -/
def State.puppeteerCfg (s : State) (r : Req) (w : Window) (p off : Nat) (v : Word) : State :=
  if off = 0x100 then (if bit v 31 && field v 11 0 = 0 then s else s.plainCfg .puppeteer p off v)
  else
    match s.grantTarget r w with
    | none => s
    | some p =>
      if off = 0x104 then s.grantCtx p v
      else if off = 0x108 then s.grantCores p false v
      else if off = 0x10C then s.grantCores p true v
      else if off = 0x110 then s.grantWatch p v
      else if off = 0x114 then s.grantSg p v
      else s.grantSlow p v

/-- A register of a shard group (R390, R394, R396). Without rule programs the PROGn and Kn take no value but 0, their
reset value, which every register accepts again (R71). -/
def State.narogCfg (s : State) (g off : Nat) (v : Word) : State :=
  if off = 0x100 then
    if 1 < field v 1 0 || (s.variant = .l7140 && field v 1 0 = 1) then s
    else (s.plainCfg .narogSg g off (if s.variant = .l7140 then v &&& ~~~(4 : Word) else v)).narogTouched g
  else if off = 0x104 then (if field v 3 2 = 3 then s else (s.plainCfg .narogSg g off v).narogTouched g)
  else if s.variant = .l7140 && 0x180 ≤ off && v ≠ 0 then s
  else (s.plainCfg .narogSg g off v).narogTouched g

/-- THRESH_LOG2 outside 1 to 14 (R420). -/
def rattleBad (v : Word) : Bool := field v 19 16 = 0 || field v 19 16 = 15

/-- A register of RATTLE (R413, R420). -/
def State.rattleCfg (s : State) (off : Nat) (v : Word) : State :=
  if off = 0x100 then (if rattleBad v then s else s.plainCfg .rattle 0 off v)
  else if off = 0x108 then (s.plainCfg .rattle 0 off v).reseed
  else s.plainCfg .rattle 0 off v

/-- A register of a port (R423, R440, R443, R459). -/
def State.portCfg (s : State) (p off : Nat) (v : Word) : State :=
  if off = 0x100 then (s.ulinkCtl p v).leaveHold s
  else if off = 0x104 then (s.nodeDims false v).leaveHold s
  else if off = 0x108 then (s.nodeDims true v).leaveHold s
  else if field v 7 4 = 0 || field v 3 0 = 0 then s
  else (s.plainCfg .ulink p off v).leaveHold s

/-- A register of KITE (R493, R494). -/
def State.kiteWrite (s : State) (w : Window) (p off : Nat) (v : Word) : State :=
  if off = 0x100 then s.kiteCfg p v
  else if off = 0x104 then s.kiteBuddy p v
  else if off = 0x10C then (if field v 31 16 = 0 || field v 15 0 = 0 then s else s.plainCfg .kite p off v)
  else if off = 0x300 then
    match w with
    | .glob => s.kiteMctl v
    | .part _ => s
  else s.plainCfg .kite p off v

/-- A register of POWER (R519). -/
def State.powerCfg (s : State) (off : Nat) (v : Word) : State :=
  if off = 0x100 then
    if field v 11 0 < 600 || 1500 < field v 11 0 || field v 23 20 = 0 then s else s.plainCfg .power 0 off v
  else if field v 15 8 < field v 7 0 || field v 7 0 < 60 || field v 15 8 < 70 || 105 < field v 15 8 then s
  else s.plainCfg .power 0 off v

/-- A write that reaches a configuration register of an instance: what its own rule stores (R65, R71). -/
def State.storeCfg (s : State) (r : Req) (w : Window) (b : Block) (i off : Nat) (v : Word) : State :=
  match b with
  | .puppeteer => s.puppeteerCfg r w i off v
  | .strings =>
    if off = 0x100 && (v.toNat < 0x13880 || 0x4C4B400 < v.toNat) then s else (s.plainCfg b i off v).beginsFollowing s
  | .hbm => s.keepField b i off 15 8 (field v 15 8 = 0) v
  | .narrow => if field v 11 0 < 0x40 then s else s.plainCfg b i off v
  | .dma => if off = 0x200 && (field v 4 0 = 0 || 16 < field v 4 0) then s else s.plainCfg b i off v
  | .narogSg => s.narogCfg i off v
  | .watch => s.watchCfg i v
  | .rattle => s.rattleCfg off v
  | .ulink => s.portCfg i off v
  | .coll => if off = 0x104 && field v 15 0 < 10 then s else s.plainCfg b i off v
  | .kite => s.kiteWrite w i off v
  | .power => s.powerCfg off v
  | .module => s | .sec => s | .mgmt => s | .clkrst => s | .core => s | .llc => s
  | .pcie => s.plainCfg b i off v | .ctxtab => s.plainCfg b i off v | .stall => s.plainCfg b i off v
  | .array => s.plainCfg b i off v | .sparse => s.plainCfg b i off v | .marble => s.plainCfg b i off v
  | .dir => s.plainCfg b i off v | .narog => s.plainCfg b i off v | .slowtier => s.plainCfg b i off v
  | .ulane => s.plainCfg b i off v | .rng => s.plainCfg b i off v

/-- A write of a configuration register by a requester: it reaches the instance that CHSEL selects, if that instance is
fitted and not in reset (R42, R47, R54, R515). -/
def State.writeCfg (s : State) (r : Req) (w : Window) (b : Block) (off : Nat) (v : Word) : State :=
  match s.selInst r w b with
  | none => s
  | some i => if isCfg b off && s.shows b i then s.storeCfg r w b i off v else s

/-- STALL items (R186). -/
def execStallCountRead (r : MbxReq) (n : Fin 80) (s : State) : Res :=
  .next (s.mbxGet r .stall (0x100 + n.val) 2 (fun t k => t.counter .stall k (0x800 + 4 * n.val)))

/-- The items of a page but for the two that every page has (R117), by number. -/
def itemsOf : Block → List (Nat × (MbxReq → State → Res))
  | .strings => [(1, execStringsFrameNo), (2, execApplyFrame), (3, execFrameSet)]
  | .puppeteer => [(1, execPuppeteerFrameNo), (2, execStepBase), (3, execStepNo), (0x10, execGrantHbmLo),
      (0x11, execGrantHbmHi), (0x20, execEvtVectors)]
  | .ctxtab => [(1, execCreateArg), (2, execCreate), (3, execDestroy), (4, execResume)]
  | .array => [(1, execFeedCycles), (2, execSwaps)]
  | .sparse => [(1, execMispTotal)]
  | .marble => [(1, execEntriesIn)]
  | .llc => [(1, execWbArg), (2, execWbStart)]
  | .dir => [(1, execLookupArg), (2, execLookup), (3, execLastDead)]
  | .hbm => [(1, execHbmLastUncorr), (2, execScrubPasses)]
  | .dma => [(1, execLastHole)]
  | .narogSg => [(1, execRecordAddr), (2, execLoadRecord), (3, execInit), (4, execNarogCommitRead),
      (5, execNarogStepRead), (6, execPowers)]
  | .slowtier => [(1, execSlowtierLastUncorr)]
  | .watch => [(1, execClosedStep), (0x10, execDump), (0x11, execClose), (0x12, execNorm)] ++
      (List.finRange 9).map (fun f => (0x100 + f.val, fun r => execClosed r f)) ++
      (List.finRange 9).map (fun f => (0x200 + f.val, fun r => execLive r f))
  | .rattle => [(1, execLastDisagree)]
  | .ulink => [(1, execTxFlits), (2, execRxFlits)]
  | .coll => [(0x10, execLanding)]
  | .kite => [(0x01, execStage), (0x02, execHostRing), (0x03, execHostConsumed), (0x04, execHostAck), (0x05, execFeed),
      (0x10, execSgSel), (0x11, execSgTable), (0x12, execBase), (0x13, execKiteCommits), (0x14, execKiteDigest),
      (0x15, execExpect), (0x16, execRestore), (0x17, execReplica), (0x18, execFailNote), (0x19, execAdapt),
      (0x20, execBuddyArg), (0x21, execBuddyGet), (0x22, execBuddyDrop), (0x30, execKrecAddr), (0x31, execKrecInit),
      (0x32, execHostFeed), (0x33, execWcStale)]
  | .rng => [(1, execRngSeed), (2, execCursor), (0x20, execSnapPos), (0x21, execSnapCursor)] ++
      (List.finRange 4).map (fun q => (0x10 + q.val, fun r => execPos r q))
  | .clkrst => [(1, execBlockRst), (2, execModuleReset), (3, execCoreFailLo), (4, execCoreFailHi), (5, execBootTime)]
  | .sec => [(1, execSignIndex), (2, execGeneration), (3, execMeasArg), (4, execSecMeas), (0x10, execFwLoad),
      (0x11, execFwInfo), (0x12, execFwCommitSvn)]
  | .stall => (List.finRange 80).map (fun n => (0x100 + n.val, fun r => execStallCountRead r n))
  | .module => [] | .pcie => [] | .mgmt => [] | .power => [] | .core => [] | .narrow => [] | .narog => [] | .ulane => []

/-- The own rule of an item that reads memory, by page and number. -/
def waitingRule (b : Block) (item : Nat) : List Nat → State → Option ItemRes :=
  if b = .ctxtab && item = 2 then createAct
  else if b = .sec && item = 0x10 then fwLoadAct
  else if b = .kite && item = 0x11 then sgTableAct
  else if b = .kite && item = 0x17 then replicaAct
  else if b = .kite && item = 0x30 then krecAddrAct
  else fun _ t => some (itemBad t)

/-- MBX_COMMAND_FINISH (R59): a command that waits for memory is carried out first, and one that has to wait still stays
BUSY. -/
def execMbxCommandFinish (r : Req) (w : Window) (b : Block) (s : State) : Res :=
  let t := s.mbxCarryOut r w b (waitingRule b ((s.copyOf r w b).cmd.toNat % 65536))
  .next (if (t.copyOf r w b).todo.isSome then t else t.setCopy r w b (t.copyOf r w b).finish)

/-- The state a command leaves. -/
def after (o : Res) (s : State) : State :=
  match o with
  | .next t => t
  | .fault _ => s
  | .refused _ => s

/-- A write of MBX_CMD: the listed item it names, as its own row has it, or NO_ITEM (R57, R58). -/
def State.mbxWrite (s : State) (r : Req) (w : Window) (b : Block) (v : Word) : State :=
  let q : MbxReq :=
    { req := r, win := w, op := BitVec.ofNat 4 (field v 23 20), len := BitVec.ofNat 4 (field v 19 16)
      tag := BitVec.ofNat 8 (field v 31 24) }
  let n := field v 15 0
  if n = 0xFFF0 then after (execEventFrame q b s) s
  else if n = 0xFFF1 then after (execScrubFrame q b s) s
  else
    match (itemsOf b).find? (fun x => x.1 = n) with
    | some x => after (x.2 q s) s
    | none => if s.mbxReady q b then s.mbxBegin q b n (if s.mbxInReset q b then errDenied else errNoItem) [] else s

/-- A 32-bit write of the register that holds an offset (R41, R42). -/
def State.writeReg (s : State) (r : Req) (w : Window) (b : Block) (off : Nat) (v : Word) : State :=
  let o := off / 4 * 4
  if !(s.hears r b) || !(pageTakes r w b) || s.absent b then s
  else if o = 0x008 then s.chsel r w b v
  else if o = 0x014 then s.evack r w b v
  else if o = 0x020 then s.mbxWrite r w b v
  else if 0x028 ≤ o && o ≤ 0x044 then
    let c := s.copyOf r w b
    s.setCopy r w b { c with d := setAt c.d ((o - 0x028) / 4) v }
  else if o = 0x048 then s.snapWrite r w b v
  else if 0x100 ≤ o && o < 0x800 then s.writeCfg r w b o v
  else if o = 0x010 || o = 0x018 || (0x800 ≤ o && o < 0xC00) then s.writeBack r w b o v
  else s

/-- A 32-bit write at an address: to a register, or into BAR2; a reserved offset ignores it (R42, R46, R48, R49, R123). -/
def State.writeBar (s : State) (x : BarAcc) (v : Word) : State :=
  match BarAcc.acc x, x.addr with
  | some a, _ => s.writeReg a.req a.win a.blk (a.off.toNat / 4 * 4) v
  | none, .bar0 _ => s
  | none, .bar2 o => if x.req.val ≠ 32 && s.hostOk x.req.val then s.bar2Write x.req.val (o.toNat / 4 * 4) v else s

/-- CONFIG_REGISTER_WRITE (R42, R65): any address of the register space may be written so. A narrow write is ignored, a
64-bit write is two 32-bit writes, lower address first. -/
def execConfigRegisterWrite (x : BarAcc) (w : AccWidth) (v : BitVec 64) (s : State) : Res :=
  .next (match w with
    | .w8 => s
    | .w16 => s
    | .w32 => s.writeBar x (BitVec.setWidth 32 v)
    | .w64 =>
      let t := s.writeBar x (BitVec.setWidth 32 v)
      match BarAcc.high x with
      | some y => t.writeBar y (BitVec.setWidth 32 (v >>> 32))
      | none => t)

/-- GRANT_WATCH_WRITE (R129, R131). -/
def execGrantWatchWrite (r : Req) (w : Window) (v : Word) (s : State) : Res :=
  .next (match s.grantTarget r w with | some p => s.grantWatch p v | none => s)

/-- GRANT_SG_WRITE (R369). -/
def execGrantSgWrite (r : Req) (w : Window) (v : Word) (s : State) : Res :=
  .next (match s.grantTarget r w with | some p => s.grantSg p v | none => s)

/-- GRANT_SLOW_WRITE (R369). -/
def execGrantSlowWrite (r : Req) (w : Window) (v : Word) (s : State) : Res :=
  .next (match s.grantTarget r w with | some p => s.grantSlow p v | none => s)

/-- BAR4_BASE_WRITE (R125). -/
def execBar4BaseWrite (r : Req) (v : Word) (s : State) : Res := .next (s.writeReg r .glob .pcie 0x100 v)

/-- RATTLE_SEED_WRITE (R413, R420): a write of RATTLE.SEED through the global window. -/
def execRattleSeedWrite (r : Req) (v : Word) (s : State) : Res := .next (s.writeReg r .glob .rattle 0x108 v)

/-- NAROG_CFG_WRITE (R390, R396). -/
def execNarogCfgWrite (r : Req) (w : Window) (off : BitVec 12) (v : Word) (s : State) : Res :=
  .next (if 0x100 ≤ off.toNat && off.toNat < 0x800 then s.writeReg r w .narogSg off.toNat v else s)

/-- WATCH_CFG_WRITE (R407, R418). -/
def execWatchCfgWrite (r : Req) (w : Window) (v : Word) (s : State) : Res := .next (s.writeReg r w .watch 0x100 v)

/-- PORT_ENABLE (R423): a write of ULINK.CTL with EN 1. -/
def execPortEnable (r : Req) (v : Word) (s : State) : Res :=
  .next (if bit v 0 then s.writeReg r .glob .ulink 0x100 v else s)

/-- PORT_DISABLE (R423): a write of ULINK.CTL with EN 0. -/
def execPortDisable (r : Req) (v : Word) (s : State) : Res :=
  .next (if bit v 0 then s else s.writeReg r .glob .ulink 0x100 v)

/-- RETRAIN (R443): a write of ULINK.CTL with RETRAIN 1. -/
def execRetrain (r : Req) (v : Word) (s : State) : Res :=
  .next (if bit v 1 then s.writeReg r .glob .ulink 0x100 v else s)

/-- DETOUR_SET (R440): a write of ULINK.CTL with DETOUR 1. -/
def execDetourSet (r : Req) (v : Word) (s : State) : Res :=
  .next (if bit v 2 then s.writeReg r .glob .ulink 0x100 v else s)

/-- DETOUR_CLEAR (R443): a write of ULINK.CTL with DETOUR 0. -/
def execDetourClear (r : Req) (v : Word) (s : State) : Res :=
  .next (if bit v 2 then s else s.writeReg r .glob .ulink 0x100 v)

/-- NODE_DIMS_WRITE (R459). -/
def execNodeDimsWrite (r : Req) (dims : Bool) (v : Word) (s : State) : Res :=
  .next (s.writeReg r .glob .ulink (if dims then 0x108 else 0x104) v)

/-- KITE_CFG_WRITE (R467, R475, R493). -/
def execKiteCfgWrite (r : Req) (w : Window) (v : Word) (s : State) : Res := .next (s.writeReg r w .kite 0x100 v)

/-- KITE_MCTL_WRITE (R494). -/
def execKiteMctlWrite (r : Req) (v : Word) (s : State) : Res := .next (s.writeReg r .glob .kite 0x300 v)

end Sys2Proof.Machine
end

