-- ==== Sys2Proof/Machine/Idle.lean ====
section
/-! DEFINITION. What one ACLK cycle does while no command waits: DESIGN CHOICE (log 39), since the table has no row for a
clock. -/

namespace Sys2Proof.Machine

/-- The clock moves on. The last cycle of a frame lasts until the tick, which is a command. -/
def State.clock (s : State) : State :=
  let t := s.charge 1
  { t with
    now := t.now + 1
    fr := if t.ready && t.fr.cycle + 1 < t.frameLen then { t.fr with cycle := t.fr.cycle + 1 } else t.fr }

/-- The oldest ATS invalidation is done (R119). -/
def State.finishAts (s : State) : State :=
  match s.pci.ats with
  | [] => s
  | (f, _) :: rest => ({ s with pci := { s.pci with ats := rest } }).emit (.atsDone f)

/-- Lines whose queue holds requests although no operation is on them, and lines that wait for a way. -/
def Slice.waiting (x : Slice) : List Nat :=
  (x.lines.filter (fun l => l.op.isNone && l.queue ≠ [])).map (·.line) ++ (x.waitq.map (·.1)).dedup

/-- The slices take up the requests that wait in front of a line without an operation, for a way that is open, or for
room in a queue (R323, R329). -/
def State.runSlices (s : State) : State :=
  (List.range 4).foldl (fun t d => ((t.slice d).waiting.foldl (fun u l => u.settleLine l) t).admitLate d) s

/-- Symbols of one codeword that are corrected on each of a port's lanes: at most 15 in all (R422), and one at least. -/
def symbolShares (w : Word) : List Nat :=
  let l := (List.range 8).foldl (fun l i => l ++ [min (w.toNat / 16 ^ i % 16) (15 - l.sum)]) []
  if l.sum = 0 then 1 :: l.drop 1 else l

/-- A codeword that a port in state UP corrects in this cycle, and its symbols by lane (R459, R460). Whether there is one,
and which symbols it has, is free (log 75). -/
def State.correctCodeword (s : State) (p : Nat) : State :=
  if (s.port p).st ≠ .up then s
  else if !(s.freeWord.getLsbD 0) then s.useFree 1
  else
    (symbolShares (Config.freeWord (s.free + 1))).zipIdx.foldl (fun t x => t.addCount .ulane (8 * p + x.2) 0x804 x.1)
      ((s.useFree 2).addCount .ulink p 0x81C 1)

/-- The receiver of a lane that is not locked may lock in this cycle, in training or under test (R423, R460): whether it
does is free (log 75). -/
def State.lockLane (s : State) (l : Nat) : State :=
  let x := s.port (l / 8)
  let m := BitVec.ofNat 8 (2 ^ (l % 8))
  if x.lock.getLsbD (l % 8) then
    (if x.st = .off && !(s.laneTest l) then s.setPort (l / 8) { x with lock := x.lock &&& ~~~m } else s)
  else if x.st = .training || s.laneTest l then
    (if s.freeWord.getLsbD 0 then (s.useFree 1).setPort (l / 8) { x with lock := x.lock ||| m } else s.useFree 1)
  else s

/-- A lane in this cycle: while TEST takes effect it transmits PRBS31, and once its receiver is locked it counts bit errors,
up to the bits that a lane receives at 212.5 Gb/s in a cycle, and free within that (R460; log 75). -/
def State.testLane (s : State) (l : Nat) : State :=
  if !(portFitted s.variant (l / 8)) then s
  else
    let t := s.lockLane l
    if s.laneTest l then
      let u := t.emit (.prbs31 l)
      if (t.port (l / 8)).lock.getLsbD (l % 8) then (u.useFree 1).addCount .ulane l 0x808 (u.freeWord.toNat % 267) else u
    else t

/-- The lanes' errors of one cycle. -/
def State.laneErrors (s : State) : State :=
  (List.range 48).foldl (fun t l => t.testLane l) ((List.range 6).foldl (fun t p => t.correctCodeword p) s)

/-- One cycle without a command: the clock, the array queues, the host's invalidations and reads, the slices, flows and
Kite, and what the lanes correct or count. -/
def State.idle (s : State) : State :=
  s.clock.arrTick.finishAts.serveHostReads.runSlices.pumpFlows.kiteRun.laneErrors

end Sys2Proof.Machine
end

