-- ==== Sys2Proof/Machine/Tick.lean ====
section
/-! DEFINITION. The frame tick (R96, R98, R102, R107, R111). -/

namespace Sys2Proof.Machine

/-- An entry of an array's queue is over: the cycle of its last write has passed (R204, R207, R214). -/
def ArrEntry.over (e : ArrEntry) (now : Nat) : Bool :=
  e.started.any (fun t => match e.path with
    | .load => t + 128 ≤ now
    | .feed => !e.broken && t + e.fed + 131 ≤ now
    | .drain => t + 136 ≤ now
    | .bits => false | .scale => false | .check => false | .estimate => false | .filter => false | .tile => false
    | .status => false)

/-- What is over on a core's array is completed, and what may start then starts. -/
def State.arrOver : Nat → CoreId → State → State
  | 0, _, s => s
  | n + 1, k, s =>
    let t := after (execArrDrainComplete k s) s
    let u := after (execArrPassComplete k none t) t
    State.arrOver n k (after (execArrLdshComplete k none u) u)

/-- The cores of a launch. -/
def Work.cores (w : Work) : List CoreId :=
  match w.job with
  | .launch l => l.list.filterMap (fun k => if h : k < 384 then some ⟨k, h⟩ else none)
  | .sort _ => []
  | .dma _ => []
  | .narog _ => []
  | .coll _ => []

/-- Frame work of frame f that has started. -/
def State.frameWork (s : State) (f : FrameNo) : List Work :=
  s.works.filter (fun w => w.frame = f && w.ctx.isSome && w.running)

/-- The arrays in the last cycle of frame f: what is over is completed, and what may start starts. Nothing starts in cycle
0 of the next frame (R96). -/
def State.lastStarts (s : State) (f : FrameNo) : State :=
  ((s.frameWork f).flatMap (Work.cores ·)).foldl (fun t k => State.arrOver 9 k (t.arrSettle k.val)) s

/-- A core of a launch ends where nothing is left on it: what its array still holds is over. -/
def State.finishCore (s : State) (id : Nat) (k : CoreId) : State :=
  let t := if (s.core k.val).arr.queue.all (fun e => ArrEntry.over e s.now) then State.arrOver 9 k s else s
  after (execLaunchCoreEnd id k t) t

/-- A piece of work is taken to its end where its last instruction has retired or its last write has been accepted (R96);
a flip that has started completes, and a job that noted a non-finite value under GUARD ends NONFINITE (R390). Work that is
not so far stays as it is. -/
def State.finishWork (s : State) (w : Work) : State :=
  match w.job with
  | .launch _ =>
    let t := (Work.cores w).foldl (fun t k => t.finishCore w.id k) s
    after (execMarbleJobEnd w.id t) t
  | .sort _ => after (execMarbleJobEnd w.id s) s
  | .dma _ => after (execDmaCommandEnd w.id s) s
  | .narog j =>
    let t := after (execNarogFlip w.id s) s
    if j.cast || (j.nonfin && bit (t.sgCfg j.sg) 4) then after (execNarogWriteDone w.id t) t else t
  | .coll _ => after (execCollectiveEnd w.id s) s

/-- Frame work of frame f that is complete when its tick comes. -/
def State.finishFrame (s : State) (f : FrameNo) : State := (s.frameWork f).foldl (fun t w => t.finishWork w) s

/-- The last write of a piece of work has been accepted, though some write is still to be performed (R96, R338). -/
def State.lastAccepted (s : State) (w : Work) : Bool :=
  match w.job with
  | .launch _ => false
  | .sort _ => false
  | .dma j => w.running && j.pieces ≤ j.next && !(s.writesHeld (dmaFor w)) && s.writesLeft (dmaFor w)
  | .narog j => j.result ≠ 7 && !(s.writesHeld (.narog, w.ctx)) && s.writesLeft (.narog, w.ctx)
  | .coll j => s.collComplete w j && !(s.writesHeld (.coll, w.ctx)) && s.writesLeft (.coll, w.ctx)

/-- What the tick that opens frame g does with the frame that ends and with admitted work: events it latches belong to
frame g, FRAME_OVERRUN alone carries f (R96, R98, R111, R116). -/
def State.turnFrame (s : State) (f g : FrameNo) : State :=
  let l := (s.toCycle (s.frameLen - 1)).lastStarts f
  let a := ((l.toCycle s.frameLen).finishFrame f).closeSteps f
  ((State.stopFrame { a with fr := s.fr.tick s.isFollower g } f a.lastAccepted).cancelSkipped f g)

/-- Cycle 0 of the next frame (R96, R98, R102, R107, R111). A node whose STRINGS is in hold sends no marker (R70). -/
def State.doTick (s : State) : State :=
  let f := s.fr.no
  let g := s.nextFrame
  let b := ((((s.turnFrame f g).forgetFrame f).forgetReadies f).openWork g).latchSnaps g
  if b.isMaster && !(b.inHold .strings 0) then b.sendMarker b.upPorts b.ownMarker else b

/-- TICK (R96). Before READY no frame runs (R505). -/
def execTick (s : State) : Res := .next (if s.ready then s.doTick else s)

end Sys2Proof.Machine
end

