-- ==== Sys2Proof/Machine/Dispatch.lean ====
section
/-! DEFINITION. The dispatch: one arm per command. -/

namespace Sys2Proof.Machine

/-- The effect of a command on everything but the queue. -/
def exec (i : Instr) (s : State) : Host.Outcome State Fault Refusal :=
  match i with
  | .chselWrite req win blk v => Sys2Proof.Machine.execChselWrite req win blk v s
  | .statusRegisterRead a w => Sys2Proof.Machine.execStatusRegisterRead a w s
  | .statusWriteBack a v => Sys2Proof.Machine.execStatusWriteBack a v s
  | .evackWrite req win blk v => Sys2Proof.Machine.execEvackWrite req win blk v s
  | .configRegisterWrite a w v => Sys2Proof.Machine.execConfigRegisterWrite a w v s
  | .mbxCommandFinish req win blk => Sys2Proof.Machine.execMbxCommandFinish req win blk s
  | .snapTake req win blk v => Sys2Proof.Machine.execSnapTake req win blk v s
  | .snapDone req win blk => Sys2Proof.Machine.execSnapDone req win blk s
  | .scrubVisit blk inst off flips => Sys2Proof.Machine.execScrubVisit blk inst off flips s
  | .eventFrame r blk => Sys2Proof.Machine.execEventFrame r blk s
  | .scrubFrame r blk => Sys2Proof.Machine.execScrubFrame r blk s
  | .tick => Sys2Proof.Machine.execTick s
  | .closingWindowOpen => Sys2Proof.Machine.execClosingWindowOpen s
  | .waveRelease w => Sys2Proof.Machine.execWaveRelease w s
  | .launch c => Sys2Proof.Machine.execLaunch c s
  | .launchStart work core => Sys2Proof.Machine.execLaunchStart work core s
  | .blockDispatch core => Sys2Proof.Machine.execBlockDispatch core s
  | .launchCoreEnd work core => Sys2Proof.Machine.execLaunchCoreEnd work core s
  | .cancel c => Sys2Proof.Machine.execCancel c s
  | .fence c => Sys2Proof.Machine.execFence c s
  | .fenceComplete c => Sys2Proof.Machine.execFenceComplete c s
  | .tlbInval c => Sys2Proof.Machine.execTlbInval c s
  | .tlbInvalComplete c => Sys2Proof.Machine.execTlbInvalComplete c s
  | .badOpcodeCommand c => Sys2Proof.Machine.execBadOpcodeCommand c s
  | .markerReceive port m residenceNs => Sys2Proof.Machine.execMarkerReceive port m residenceNs s
  | .stringsTakeover => Sys2Proof.Machine.execStringsTakeover s
  | .stringsLost => Sys2Proof.Machine.execStringsLost s
  | .stringsFrameNo r => Sys2Proof.Machine.execStringsFrameNo r s
  | .applyFrame r => Sys2Proof.Machine.execApplyFrame r s
  | .frameSet r => Sys2Proof.Machine.execFrameSet r s
  | .puppeteerFrameNo r => Sys2Proof.Machine.execPuppeteerFrameNo r s
  | .stepBase r => Sys2Proof.Machine.execStepBase r s
  | .stepNo r => Sys2Proof.Machine.execStepNo r s
  | .grantCtxWrite req win v => Sys2Proof.Machine.execGrantCtxWrite req win v s
  | .grantCoresWrite req win hi v => Sys2Proof.Machine.execGrantCoresWrite req win hi v s
  | .grantWatchWrite req win v => Sys2Proof.Machine.execGrantWatchWrite req win v s
  | .grantSgWrite req win v => Sys2Proof.Machine.execGrantSgWrite req win v s
  | .grantSlowWrite req win v => Sys2Proof.Machine.execGrantSlowWrite req win v s
  | .grantHbmLo r => Sys2Proof.Machine.execGrantHbmLo r s
  | .grantHbmHi r => Sys2Proof.Machine.execGrantHbmHi r s
  | .evtVectors r => Sys2Proof.Machine.execEvtVectors r s
  | .measurementRecompute p => Sys2Proof.Machine.execMeasurementRecompute p s
  | .bar4Read fn off len => Sys2Proof.Machine.execBar4Read fn off len s
  | .bar4Write fn off bytes => Sys2Proof.Machine.execBar4Write fn off bytes s
  | .bar4BaseWrite req v => Sys2Proof.Machine.execBar4BaseWrite req v s
  | .doorbellWrite fn off v => Sys2Proof.Machine.execDoorbellWrite fn off v s
  | .commandFetch c host => Sys2Proof.Machine.execCommandFetch c host s
  | .atomicopRequest fn => Sys2Proof.Machine.execAtomicopRequest fn s
  | .configRequest fn op => Sys2Proof.Machine.execConfigRequest fn op s
  | .atsInvalidation fn tag base len => Sys2Proof.Machine.execAtsInvalidation fn tag base len s
  | .vfEnableClear => Sys2Proof.Machine.execVfEnableClear s
  | .functionLevelReset fn => Sys2Proof.Machine.execFunctionLevelReset fn s
  | .createArg r => Sys2Proof.Machine.execCreateArg r s
  | .create r => Sys2Proof.Machine.execCreate r s
  | .destroy r => Sys2Proof.Machine.execDestroy r s
  | .teardownClearStart c => Sys2Proof.Machine.execTeardownClearStart c s
  | .teardownClearDone c => Sys2Proof.Machine.execTeardownClearDone c s
  | .resume r => Sys2Proof.Machine.execResume r s
  | .vectorAlu b ins => Sys2Proof.Machine.execVectorAlu b ins s
  | .specialFunction b f d a => Sys2Proof.Machine.execSpecialFunction b f d a s
  | .cvtF b df sf d a w => Sys2Proof.Machine.execCvtF b df sf d a w s
  | .cvtBlk b f d src a bump w => Sys2Proof.Machine.execCvtBlk b f d src a bump w s
  | .cvtWide b f d a src => Sys2Proof.Machine.execCvtWide b f d a src s
  | .mskPack b d p => Sys2Proof.Machine.execMskPack b d p s
  | .branch o pred target join => Sys2Proof.Machine.execBranch o pred target join s
  | .yieldEnd core group pc => Sys2Proof.Machine.execYieldEnd core group pc s
  | .join core group => Sys2Proof.Machine.execJoin core group s
  | .barSync o id => Sys2Proof.Machine.execBarSync o id s
  | .barArrive o id => Sys2Proof.Machine.execBarArrive o id s
  | .barrierMismatch core slot id => Sys2Proof.Machine.execBarrierMismatch core slot id s
  | .exit o => Sys2Proof.Machine.execExit o s
  | .specialValueRead o v d => Sys2Proof.Machine.execSpecialValueRead o v d s
  | .groupPromote core demote => Sys2Proof.Machine.execGroupPromote core demote s
  | .load b sp size sext d a => Sys2Proof.Machine.execLoad b sp size sext d a s
  | .loadReturn core id => Sys2Proof.Machine.execLoadReturn core id s
  | .store b sp size v a => Sys2Proof.Machine.execStore b sp size v a s
  | .scrCas b sp d a cmp new => Sys2Proof.Machine.execScrCas b sp d a cmp new s
  | .scrExch b sp d a v => Sys2Proof.Machine.execScrExch b sp d a v s
  | .stAdd b t a v => Sys2Proof.Machine.execStAdd b t a v s
  | .scrAdd b sp t a v => Sys2Proof.Machine.execScrAdd b sp t a v s
  | .memDead b a n chk => Sys2Proof.Machine.execMemDead b a n chk s
  | .memFence b module => Sys2Proof.Machine.execMemFence b module s
  | .ldCmp b sp nz f d ins t row blk => Sys2Proof.Machine.execLdCmp b sp nz f d ins t row blk s
  | .mrPut b t base ins v => Sys2Proof.Machine.execMrPut b t base ins v s
  | .spSegset b base rows => Sys2Proof.Machine.execSpSegset b base rows s
  | .spTake b src p n => Sys2Proof.Machine.execSpTake b src p n s
  | .rngCtr b d t e => Sys2Proof.Machine.execRngCtr b d t e s
  | .rngStr b d st => Sys2Proof.Machine.execRngStr b d st s
  | .arrReady o m => Sys2Proof.Machine.execArrReady o m s
  | .arrUnready o m => Sys2Proof.Machine.execArrUnready o m s
  | .arrLds o slot src bytes => Sys2Proof.Machine.execArrLds o slot src bytes s
  | .arrLdsh o slot fmt col rel => Sys2Proof.Machine.execArrLdsh o slot fmt col rel s
  | .arrLdshStart core => Sys2Proof.Machine.execArrLdshStart core s
  | .arrLdshComplete core bad => Sys2Proof.Machine.execArrLdshComplete core bad s
  | .arrMm o f => Sys2Proof.Machine.execArrMm o f s
  | .arrPassStart core bad => Sys2Proof.Machine.execArrPassStart core bad s
  | .arrPassComplete core bad => Sys2Proof.Machine.execArrPassComplete core bad s
  | .arrDrain o bank dst ofmt mode => Sys2Proof.Machine.execArrDrain o bank dst ofmt mode s
  | .arrDrainStart core => Sys2Proof.Machine.execArrDrainStart core s
  | .arrDrainComplete core => Sys2Proof.Machine.execArrDrainComplete core s
  | .arrStat o d => Sys2Proof.Machine.execArrStat o d s
  | .spFilt o pid mode => Sys2Proof.Machine.execSpFilt o pid mode s
  | .spLdw o slot => Sys2Proof.Machine.execSpLdw o slot s
  | .spEst o pid slot rows add => Sys2Proof.Machine.execSpEst o pid slot rows add s
  | .spChk o pid => Sys2Proof.Machine.execSpChk o pid s
  | .spStat o d => Sys2Proof.Machine.execSpStat o d s
  | .rattleCheck core => Sys2Proof.Machine.execRattleCheck core s
  | .rattleSeedWrite req v => Sys2Proof.Machine.execRattleSeedWrite req v s
  | .sortList c => Sys2Proof.Machine.execSortList c s
  | .marbleWindowTimeout die => Sys2Proof.Machine.execMarbleWindowTimeout die s
  | .marbleJobInputEnd die work => Sys2Proof.Machine.execMarbleJobInputEnd die work s
  | .marbleWindowEmit die => Sys2Proof.Machine.execMarbleWindowEmit die s
  | .marbleJobEnd work => Sys2Proof.Machine.execMarbleJobEnd work s
  | .rd core line => Sys2Proof.Machine.execRd core line s
  | .own core line => Sys2Proof.Machine.execOwn core line s
  | .ownFull core line => Sys2Proof.Machine.execOwnFull core line s
  | .joinRequest core line => Sys2Proof.Machine.execJoinRequest core line s
  | .joinAck core line => Sys2Proof.Machine.execJoinAck core line s
  | .wbd core line => Sys2Proof.Machine.execWbd core line s
  | .wbr core line => Sys2Proof.Machine.execWbr core line s
  | .deadRequest core line => Sys2Proof.Machine.execDeadRequest core line s
  | .ard agent c line sect => Sys2Proof.Machine.execArd agent c line sect s
  | .awr agent line off bytes => Sys2Proof.Machine.execAwr agent line off bytes s
  | .aadd agent line t elems => Sys2Proof.Machine.execAadd agent line t elems s
  | .vict die set => Sys2Proof.Machine.execVict die set s
  | .snoopShare core line => Sys2Proof.Machine.execSnoopShare core line s
  | .snoopInval core line => Sys2Proof.Machine.execSnoopInval core line s
  | .snoopDiscard core line => Sys2Proof.Machine.execSnoopDiscard core line s
  | .snoopAnswer core line => Sys2Proof.Machine.execSnoopAnswer core line s
  | .fillArrive line => Sys2Proof.Machine.execFillArrive line s
  | .fillDeliver core line => Sys2Proof.Machine.execFillDeliver core line s
  | .conversionComplete line => Sys2Proof.Machine.execConversionComplete line s
  | .mergeStart line => Sys2Proof.Machine.execMergeStart line s
  | .mergeComplete line => Sys2Proof.Machine.execMergeComplete line s
  | .wbArg r => Sys2Proof.Machine.execWbArg r s
  | .wbStart r => Sys2Proof.Machine.execWbStart r s
  | .wbVisit die => Sys2Proof.Machine.execWbVisit die s
  | .wbScanComplete die => Sys2Proof.Machine.execWbScanComplete die s
  | .lookupArg r => Sys2Proof.Machine.execLookupArg r s
  | .lookup r => Sys2Proof.Machine.execLookup r s
  | .lastDead r => Sys2Proof.Machine.execLastDead r s
  | .narrowSchedule stack pc => Sys2Proof.Machine.execNarrowSchedule stack pc s
  | .hbmReadComplete line upset => Sys2Proof.Machine.execHbmReadComplete line upset s
  | .hbmRefresh stack pc sid bank => Sys2Proof.Machine.execHbmRefresh stack pc sid bank s
  | .hbmScrub stack upset => Sys2Proof.Machine.execHbmScrub stack upset s
  | .hbmLastUncorr r => Sys2Proof.Machine.execHbmLastUncorr r s
  | .scrubPasses r => Sys2Proof.Machine.execScrubPasses r s
  | .copy ins => Sys2Proof.Machine.execCopy ins s
  | .fill ins => Sys2Proof.Machine.execFill ins s
  | .gather ins => Sys2Proof.Machine.execGather ins s
  | .storeCast ins => Sys2Proof.Machine.execStoreCast ins s
  | .amax ins => Sys2Proof.Machine.execAmax ins s
  | .transpose ins => Sys2Proof.Machine.execTranspose ins s
  | .dmaPiece engine host => Sys2Proof.Machine.execDmaPiece engine host s
  | .dmaCommandEnd work => Sys2Proof.Machine.execDmaCommandEnd work s
  | .lastHole r => Sys2Proof.Machine.execLastHole r s
  | .update c => Sys2Proof.Machine.execUpdate c s
  | .cast c => Sys2Proof.Machine.execCast c s
  | .narogJobStart work => Sys2Proof.Machine.execNarogJobStart work s
  | .narogWriteDone work => Sys2Proof.Machine.execNarogWriteDone work s
  | .narogFlip work => Sys2Proof.Machine.execNarogFlip work s
  | .narogReport work => Sys2Proof.Machine.execNarogReport work s
  | .recordAddr r => Sys2Proof.Machine.execRecordAddr r s
  | .loadRecord r => Sys2Proof.Machine.execLoadRecord r s
  | .init r => Sys2Proof.Machine.execInit r s
  | .narogCommitRead r => Sys2Proof.Machine.execNarogCommitRead r s
  | .narogStepRead r => Sys2Proof.Machine.execNarogStepRead r s
  | .powers r => Sys2Proof.Machine.execPowers r s
  | .narogCfgWrite req win off v => Sys2Proof.Machine.execNarogCfgWrite req win off v s
  | .slowtierLastUncorr r => Sys2Proof.Machine.execSlowtierLastUncorr r s
  | .watchReport => Sys2Proof.Machine.execWatchReport s
  | .stepClose p => Sys2Proof.Machine.execStepClose p s
  | .dumpComplete p => Sys2Proof.Machine.execDumpComplete p s
  | .watchCfgWrite req win v => Sys2Proof.Machine.execWatchCfgWrite req win v s
  | .closedStep r => Sys2Proof.Machine.execClosedStep r s
  | .closed r f => Sys2Proof.Machine.execClosed r f s
  | .live r f => Sys2Proof.Machine.execLive r f s
  | .dump r => Sys2Proof.Machine.execDump r s
  | .close r => Sys2Proof.Machine.execClose r s
  | .norm r => Sys2Proof.Machine.execNorm r s
  | .lastDisagree r => Sys2Proof.Machine.execLastDisagree r s
  | .portEnable req v => Sys2Proof.Machine.execPortEnable req v s
  | .portDisable req v => Sys2Proof.Machine.execPortDisable req v s
  | .retrain req v => Sys2Proof.Machine.execRetrain req v s
  | .detourSet req v => Sys2Proof.Machine.execDetourSet req v s
  | .detourClear req v => Sys2Proof.Machine.execDetourClear req v s
  | .portUp port peer roundTripNs => Sys2Proof.Machine.execPortUp port peer roundTripNs s
  | .trainFail port peer => Sys2Proof.Machine.execTrainFail port peer s
  | .nodeDimsWrite req dims v => Sys2Proof.Machine.execNodeDimsWrite req dims v s
  | .flitSlot port => Sys2Proof.Machine.execFlitSlot port s
  | .flitReceive port im => Sys2Proof.Machine.execFlitReceive port im s
  | .retryTimeout port => Sys2Proof.Machine.execRetryTimeout port s
  | .noFlitTimeout port => Sys2Proof.Machine.execNoFlitTimeout port s
  | .ackTimeout port => Sys2Proof.Machine.execAckTimeout port s
  | .reduceScatter c => Sys2Proof.Machine.execReduceScatter c s
  | .allGather c => Sys2Proof.Machine.execAllGather c s
  | .allReduce c => Sys2Proof.Machine.execAllReduce c s
  | .put c => Sys2Proof.Machine.execPut c s
  | .collectiveStart work => Sys2Proof.Machine.execCollectiveStart work s
  | .collData => Sys2Proof.Machine.execCollData s
  | .collReady => Sys2Proof.Machine.execCollReady s
  | .flowAck => Sys2Proof.Machine.execFlowAck s
  | .flowAckTimer => Sys2Proof.Machine.execFlowAckTimer s
  | .rewindTimeout => Sys2Proof.Machine.execRewindTimeout s
  | .normUp => Sys2Proof.Machine.execNormUp s
  | .normDown => Sys2Proof.Machine.execNormDown s
  | .refuse => Sys2Proof.Machine.execRefuse s
  | .collectiveEnd work => Sys2Proof.Machine.execCollectiveEnd work s
  | .landing r => Sys2Proof.Machine.execLanding r s
  | .txFlits r => Sys2Proof.Machine.execTxFlits r s
  | .rxFlits r => Sys2Proof.Machine.execRxFlits r s
  | .sweepComplete g => Sys2Proof.Machine.execSweepComplete g s
  | .ack => Sys2Proof.Machine.execAck s
  | .storeTimeout g => Sys2Proof.Machine.execStoreTimeout g s
  | .buddyPut => Sys2Proof.Machine.execBuddyPut s
  | .buddyAck => Sys2Proof.Machine.execBuddyAck s
  | .openRecord => Sys2Proof.Machine.execOpenRecord s
  | .rowRecord => Sys2Proof.Machine.execRowRecord s
  | .sealRecord => Sys2Proof.Machine.execSealRecord s
  | .abortRecord => Sys2Proof.Machine.execAbortRecord s
  | .restoreReq => Sys2Proof.Machine.execRestoreReq s
  | .replReq => Sys2Proof.Machine.execReplReq s
  | .replAns => Sys2Proof.Machine.execReplAns s
  | .restoreClearDone part => Sys2Proof.Machine.execRestoreClearDone part s
  | .restoreCheckDone part => Sys2Proof.Machine.execRestoreCheckDone part s
  | .hostFeed r => Sys2Proof.Machine.execHostFeed r s
  | .stage r => Sys2Proof.Machine.execStage r s
  | .hostRing r => Sys2Proof.Machine.execHostRing r s
  | .hostConsumed r => Sys2Proof.Machine.execHostConsumed r s
  | .hostAck r => Sys2Proof.Machine.execHostAck r s
  | .feed r => Sys2Proof.Machine.execFeed r s
  | .sgSel r => Sys2Proof.Machine.execSgSel r s
  | .sgTable r => Sys2Proof.Machine.execSgTable r s
  | .base r => Sys2Proof.Machine.execBase r s
  | .kiteCommits r => Sys2Proof.Machine.execKiteCommits r s
  | .kiteDigest r => Sys2Proof.Machine.execKiteDigest r s
  | .expect r => Sys2Proof.Machine.execExpect r s
  | .restore r => Sys2Proof.Machine.execRestore r s
  | .replica r => Sys2Proof.Machine.execReplica r s
  | .failNote r => Sys2Proof.Machine.execFailNote r s
  | .adapt r => Sys2Proof.Machine.execAdapt r s
  | .buddyArg r => Sys2Proof.Machine.execBuddyArg r s
  | .buddyGet r => Sys2Proof.Machine.execBuddyGet r s
  | .buddyDrop r => Sys2Proof.Machine.execBuddyDrop r s
  | .krecAddr r => Sys2Proof.Machine.execKrecAddr r s
  | .krecInit r => Sys2Proof.Machine.execKrecInit r s
  | .wcStale r => Sys2Proof.Machine.execWcStale r s
  | .kiteCfgWrite req win v => Sys2Proof.Machine.execKiteCfgWrite req win v s
  | .kiteMctlWrite req v => Sys2Proof.Machine.execKiteMctlWrite req v s
  | .rngSeed r => Sys2Proof.Machine.execRngSeed r s
  | .cursor r => Sys2Proof.Machine.execCursor r s
  | .pos r st => Sys2Proof.Machine.execPos r st s
  | .snapPos r => Sys2Proof.Machine.execSnapPos r s
  | .snapCursor r => Sys2Proof.Machine.execSnapCursor r s
  | .vinApplied dv => Sys2Proof.Machine.execVinApplied dv s
  | .firmwareVerified => Sys2Proof.Machine.execFirmwareVerified s
  | .pwrEnAssert => Sys2Proof.Machine.execPwrEnAssert s
  | .pwrEnDeassert => Sys2Proof.Machine.execPwrEnDeassert s
  | .railsUp => Sys2Proof.Machine.execRailsUp s
  | .perstDeassert => Sys2Proof.Machine.execPerstDeassert s
  | .perstAssert => Sys2Proof.Machine.execPerstAssert s
  | .clocksDone => Sys2Proof.Machine.execClocksDone s
  | .memoryDone => Sys2Proof.Machine.execMemoryDone s
  | .selftestDone r => Sys2Proof.Machine.execSelftestDone r s
  | .bootClearDone => Sys2Proof.Machine.execBootClearDone s
  | .supplyLow => Sys2Proof.Machine.execSupplyLow s
  | .supplyLoss => Sys2Proof.Machine.execSupplyLoss s
  | .governorWindow m => Sys2Proof.Machine.execGovernorWindow m s
  | .thermWarn junction coolant => Sys2Proof.Machine.execThermWarn junction coolant s
  | .thermalTrip junction stack => Sys2Proof.Machine.execThermalTrip junction stack s
  | .thermalTripRelease junction stack => Sys2Proof.Machine.execThermalTripRelease junction stack s
  | .crossingStall send recv inst => Sys2Proof.Machine.execCrossingStall send recv inst s
  | .pllUnlock send recv inst => Sys2Proof.Machine.execPllUnlock send recv inst s
  | .relockTimeout dom => Sys2Proof.Machine.execRelockTimeout dom s
  | .blockRst r => Sys2Proof.Machine.execBlockRst r s
  | .blockResetComplete b inst => Sys2Proof.Machine.execBlockResetComplete b inst s
  | .moduleReset r => Sys2Proof.Machine.execModuleReset r s
  | .coreFailLo r => Sys2Proof.Machine.execCoreFailLo r s
  | .coreFailHi r => Sys2Proof.Machine.execCoreFailHi r s
  | .bootTime r => Sys2Proof.Machine.execBootTime r s
  | .fwLoad r => Sys2Proof.Machine.execFwLoad r s
  | .fwLoadComplete => Sys2Proof.Machine.execFwLoadComplete s
  | .fwInfo r => Sys2Proof.Machine.execFwInfo r s
  | .fwCommitSvn r => Sys2Proof.Machine.execFwCommitSvn r s
  | .signIndex r => Sys2Proof.Machine.execSignIndex r s
  | .generation r => Sys2Proof.Machine.execGeneration r s
  | .measArg r => Sys2Proof.Machine.execMeasArg r s
  | .secMeas r => Sys2Proof.Machine.execSecMeas r s
  | .getMeasurements mctp bytes => Sys2Proof.Machine.execGetMeasurements mctp bytes s
  | .getIdentity mctp bytes => Sys2Proof.Machine.execGetIdentity mctp bytes s
  | .fwRecover off bytes => Sys2Proof.Machine.execFwRecover off bytes s
  | .reservationWriteDone => Sys2Proof.Machine.execReservationWriteDone s
  | .signatureRelease => Sys2Proof.Machine.execSignatureRelease s
  | .treeBuildDone => Sys2Proof.Machine.execTreeBuildDone s
  | .feedCycles r => Sys2Proof.Machine.execFeedCycles r s
  | .swaps r => Sys2Proof.Machine.execSwaps r s
  | .stallCountRead r n => Sys2Proof.Machine.execStallCountRead r n s
  | .mispTotal r => Sys2Proof.Machine.execMispTotal r s
  | .entriesIn r => Sys2Proof.Machine.execEntriesIn r s
  | .laneLockLost lane => Sys2Proof.Machine.execLaneLockLost lane s
  | .pllRelock dom => Sys2Proof.Machine.execPllRelock dom s
  | .clockResume dom => Sys2Proof.Machine.execClockResume dom s
  | .moduleResetRelease => Sys2Proof.Machine.execModuleResetRelease s
  | .atsCompletion c denied => Sys2Proof.Machine.execAtsCompletion c denied s
  | .ideKmMessage stream key => Sys2Proof.Machine.execIdeKmMessage stream key s
  | .mctpControlMessage bytes => Sys2Proof.Machine.execMctpControlMessage bytes s

end Sys2Proof.Machine
end

