-- ==== Sys2Proof/Safety.lean ====
section
/-! DEFINITION. What a safe run is: no command stops it, and memory keeps its canonical form; and the words in which
statements say that a mailbox request is accepted and that a bundle issues. -/

namespace Sys2Proof.Machine

/-- A step goes on: neither a fault nor a refusal. -/
def goesOn (s : State) : Bool :=
  match step s with
  | .next _ => true
  | .fault _ => false
  | .refused _ => false

/-- The invariant of memory: addresses rise, and no listed byte is 0. -/
def State.memWf (s : State) : Bool := Memory.wf s.mem

/-- An item that is a READ of `len` words, one that is a WRITE, and one that is both. -/
abbrev rdItem (num len : Nat) : Item := { num := num, read := true, write := false, len := len }
abbrev wrItem (num len : Nat) : Item := { num := num, read := false, write := true, len := len }
abbrev rwItem (num len : Nat) : Item := { num := num, read := true, write := true, len := len }

/-- A request of a listed item is accepted (R57 to R60): it reaches the page, no command of the requester runs there,
and R58 gives no error before the item's own rule. `k` is the instance it acts on, `wr` says whether it is a WRITE, and
`ws` are the data words that the item's length takes. -/
abbrev State.asks (s : State) (r : MbxReq) (b : Block) (i : Item) (k : Nat) (wr : Bool) (ws : List Word) : Prop :=
  s.mbxReady r b = true ∧ s.mbxErr r b i = errDone ∧ (s.selInst r.req r.win b).getD 0 = k ∧
    decide (r.op = 2) = wr ∧ (s.copyOf r.req r.win b).d.take i.len = ws

/-- A bundle issues now (R150, R166, R167, R171, R175, R188, R336): its strands may issue together, its fetch is
translated, the registers it writes and reads exist, those it reads are written, a port of its kind is free and no strand
known to be ready comes before it for that port, and for a memory instruction no fence and no full queue holds it. -/
abbrev State.issuesAny (s : State) (b : Bundle) (dst src : List Nat) (kind : IssueKind) (i : Issue) (lf : Leaf) (a : Nat) :
    Prop :=
  s.bundleOf b = some i ∧ s.xlate i.ctx b.pc.toNat .exec .core = .ok (lf, a) ∧
    (dst ++ src).any (breaksRegs i.l.regs) = false ∧
    i.threads.any (fun t => src.any ((s.core b.core.val).pendingReg s.now t)) = false ∧
    (s.core b.core.val).ports.free kind s.now = true ∧
    i.eldest.any (s.outranked b.core.val i.l (portOf kind.num)) = false ∧
    (kind = .memory && ((s.core b.core.val).fenced i.threads || (s.core b.core.val).lsuFull)) = false

/-- A bundle issues now on a core that the self-test did not mark: on a marked one the results are not defined
(R508). -/
abbrev State.issues (s : State) (b : Bundle) (dst src : List Nat) (kind : IssueKind) (i : Issue) (lf : Leaf) (a : Nat) :
    Prop :=
  s.issuesAny b dst src kind i lf a ∧ s.power.coreFail.contains b.core.val = false

/-- The oldest message of a core to a slice is a request for this line, and the slice takes it (R323). -/
abbrev State.sends (s : State) (k line : Nat) (b : UpBody) : Prop :=
  s.upFirst k line = some ⟨k, line, b⟩ ∧ s.accepts line = true

/-- Nothing waits at the slice of a line behind it, for a way, or for room in the queue. -/
abbrev State.freeSlice (s : State) (l : LLine) : Prop :=
  l.queue = [] ∧ l.resolved = false ∧ (s.slice (homeDie l.line)).waitq = [] ∧ (s.slice (homeDie l.line)).late = []

/-- A line has an entry, no operation on it is in progress, and nothing waits at its slice. -/
abbrev State.calm (s : State) (l : LLine) : Prop := s.lline l.line = some l ∧ l.op = none ∧ s.freeSlice l

/-- A line has an operation in progress, and nothing waits at its slice. -/
abbrev State.inOp (s : State) (l : LLine) (r : LReq) (p : OpPhase) (w : List Nat) : Prop :=
  s.lline l.line = some l ∧ l.op = some { req := r, phase := p, wait := w } ∧ s.freeSlice l

/-- A value line in S that no core holds (R320, R321). -/
abbrev LLine.idleS (l : LLine) : Prop := l.st = .s ∧ l.ptr = false ∧ l.holders = 0

/-- A step that acts at one line of the LLC leaves every other entry, device memory and the cores. -/
abbrev State.actsAt (s t : State) (line : Nat) : Prop :=
  (∀ n, n ≠ line → t.lline n = s.lline n) ∧ t.mem = s.mem ∧ t.cores = s.cores

/-- The value that the slice's clock gives `used` when it performs its next request. -/
abbrev State.nextUse (s : State) (line : Nat) : Nat := (s.slice (homeDie line)).clock + 1

/-- An array or sparsity instruction issues into a queue with room (R70, R216, R224), in the state that what was due in
the array by this cycle has left. -/
abbrev State.arrIssues (s : State) (o : One) (dst src : List Nat) (kind : IssueKind) (off : Bool) (i : Issue) (lf : Leaf)
    (a : Nat) : Prop :=
  (s.arrSettle o.core.val).issues (oneBundle o) dst src kind i lf a ∧
    (s.arrSettle o.core.val).inHold (if kind = .sparse then .sparse else .array) o.core.val = false ∧
    (off && bit ((s.arrSettle o.core.val).cfg .array o.core.val 0x100) 0) = false ∧
    ((s.arrSettle o.core.val).core o.core.val).arr.queue.length < 8

/-- The entry that such an instruction has queued: behind the others, with its number and its cycle. -/
def queuedAt (c : Core) (bslot now : Nat) (act : ArrAct) : ArrEntry :=
  { id := c.arr.nextId, bslot := bslot, act := act, issued := now }

/-- `t` is what the array does by this cycle once such an instruction, which writes the registers `dst`, has joined the
queue with its action and the slots it reserves. -/
abbrev State.queues (s t : State) (o : One) (i : Issue) (dst : List Nat) (act : ArrAct) (rs : BitVec 14) : Prop :=
  let k := o.core.val
  let p := s.arrSettle k
  let a := ((p.core k).overwrite i.threads dst).arr
  ∃ u : State, t = u.arrSettle k ∧
    (u.core k).arr = { a with
      queue := a.queue ++ [queuedAt (p.core k) i.bslot p.now act], nextId := a.nextId + 1, rs := a.rs ||| rs } ∧
    (u.core k).sp = (p.core k).sp ∧ (u.core k).regs = (p.core k).regs ∧ (u.core k).scratch = (p.core k).scratch ∧
    (∀ j, j ≠ k → u.core j = p.core j) ∧ u.works = p.works ∧ u.mem = p.mem ∧ u.now = p.now

/-- A 32-bit write reaches a configuration register of instance `i` (R42, R47, R54, R515). -/
abbrev State.reaches (s : State) (r : Req) (w : Window) (b : Block) (i off : Nat) : Prop :=
  s.hears r b = true ∧ pageOk r w b = true ∧ s.absent b = false ∧ s.selInst r w b = some i ∧ s.shows b i = true ∧
    isCfg b off = true

/-- Values that a register of STRINGS, NARROW, DMA, ULINK, COLL or POWER ignores, since a field holds one outside its
limits: PERIOD_NEXT, AGE_LIMIT, MAX_PIECES, the weights of ARB, REWIND_US, and the power and thermal limits (R71). -/
def cfgIgnores (b : Block) (o : Nat) (v : Word) : Bool :=
  (b = .strings && o = 0x100 && (v.toNat < 80000 || 80000000 < v.toNat)) ||
  (b = .narrow && field v 11 0 < 64) ||
  (b = .dma && o = 0x200 && (field v 4 0 = 0 || 16 < field v 4 0)) ||
  (b = .ulink && o = 0x10C && (field v 7 4 = 0 || field v 3 0 = 0)) ||
  (b = .coll && o = 0x104 && field v 15 0 < 10) ||
  (b = .power && o = 0x100 && (field v 11 0 < 600 || 1500 < field v 11 0 || field v 23 20 = 0)) ||
  (b = .power && o ≠ 0x100 && (field v 15 8 < field v 7 0 || field v 7 0 < 60 || field v 15 8 < 70 || 105 < field v 15 8))

/-- The status and the frame that the checks of R91 and SLIDE (R92) give a command. -/
def State.placed (s : State) (slot : List Byte) (kindOk : FrameNo → Bool) : Nat × Nat :=
  s.slide (hdrOf slot) (s.targetFrame (hdrOf slot) slot) (fun g => s.frameCheck g kindOk)

/-- A command's slot is taken and nothing enters the work list. -/
abbrev State.turnsAway (s t : State) (c : Nat) : Prop :=
  t.works = s.works ∧ (t.ctx c).head = ((s.ctx c).head + 1) % (s.ctx c).slots ∧ (t.ctx c).fetched = none

/-- A command's slot is taken and its work is admitted into frame `f`, charged to no budget (R88, R95). -/
abbrev State.takesIn (s t : State) (c : Nat) (slot : List Byte) (f : Nat) (running : Bool) (j : Job) : Prop :=
  t.works = s.works ++ [{
      id := s.nextWork, ctx := some c, part := s.partOf c, frame := BitVec.ofNat 64 f, slot := (s.ctx c).head
      irqEnd := bit (hdrOf slot) 19, running := running, units := 0, job := j }] ∧
    t.nextWork = s.nextWork + 1 ∧ (t.ctx c).head = ((s.ctx c).head + 1) % (s.ctx c).slots ∧ (t.ctx c).fetched = none

end Sys2Proof.Machine
end

