-- ==== Sys2Proof/Certificates/Slice0/Obligations.lean ====
section
/-! DEFINITION. The statements for the provers. Most say, for the commands of one family, in which states a command has
the effect the manual gives it, and what the next state then is. -/

open Sys2Proof Sys2Proof.Machine

/-- The model's own reading of a queue: a step runs the command at its front on the state with the queue's rest. It
rests on choices of the model: log 2, 6. -/
def Obligations.StepRunsFrontCommand : Prop :=
  ∀ (c : Instr) (rest : List Instr) (s : State),
    step { s with pending := c :: rest } = exec c { s with pending := rest }

/-- CHSEL_WRITE (R54, R55): an index below CHCOUNT is selected; one at or above it leaves INST and makes BAD read 1. It
rests on choices of the model: log 127. -/
def Obligations.ChannelSelect : Prop :=
  ∀ (r : Req) (w : Window) (b : Block) (v : Word) (s : State),
    s.hears r b = true → pageTakes r w b = true → globCount s.variant b ≠ 0 →
    (v.toNat % 65536 < s.chCount w b →
      exec (.chselWrite r w b v) s = .next (s.setCopy r w b
        { s.copyOf r w b with inst := BitVec.ofNat 16 (v.toNat % 65536), bad := false })) ∧
    (s.chCount w b ≤ v.toNat % 65536 →
      ∃ t, exec (.chselWrite r w b v) s = .next t ∧ t = s.setCopy r w b { s.copyOf r w b with bad := true } ∧
        (t.copyOf r w b).inst = (s.copyOf r w b).inst ∧ bit (t.regWord r w b 0x008) 23 = true)

/-- R51 for the commands that a requester's own copies serve, a finish among them where its command waits for no memory:
no other requester's copies change. -/
def Obligations.RequesterCopiesAreSeparate : Prop :=
  ∀ (r r' : Req) (w w' : Window) (b b' : Block) (s t : State) (c : Instr), r' ≠ r →
    ((∃ v, c = .chselWrite r w b v) ∨ (∃ v, c = .snapTake r w b v) ∨ c = .snapDone r w b ∨
      (c = .mbxCommandFinish r w b ∧ (s.copyOf r w b).todo = none) ∨ (∃ a n, a.req = r ∧ c = .statusRegisterRead a n) ∨
      (∃ q : MbxReq, q.req = r ∧ (c = .eventFrame q b ∨ c = .scrubFrame q b))) →
    exec c s = .next t → t.copyOf r' w' b' = s.copyOf r' w' b'

/-- EVENT_FRAME, SCRUB_FRAME and the end of a command (R59, R60, R117): an accepted READ captures its words at once and
shows them when it finishes; one that waits for memory is carried out when it finishes, or waits on; a command that
meets ERR leaves the data words; one that finds BUSY set is ignored. It rests on choices of the model: log 14, 45, 127,
130, 141. -/
def Obligations.MailboxCommands : Prop :=
  (∀ (r : MbxReq) (b : Block) (s : State) (k : Nat) (ws : List Word), s.asks r b (rdItem 0xFFF0 2) k false ws →
    exec (.eventFrame r b) s =
      .next (s.mbxBegin r b 0xFFF0 errDone (wordsOf 2 (s.source (srcKey b k)).lastFrame.toNat))) ∧
  (∀ (r : MbxReq) (b : Block) (s : State) (k : Nat) (ws : List Word),
    s.asks r b { num := 0xFFF1, read := true, write := false, len := 2, follows := false } k false ws →
    exec (.scrubFrame r b) s =
      .next (s.mbxBegin r b 0xFFF1 errDone (wordsOf 2 (s.source (srcKey b scrubber)).lastFrame.toNat))) ∧
  (∀ (r : Req) (w : Window) (b : Block) (s : State), (s.copyOf r w b).busy = true → (s.copyOf r w b).todo = none →
    ∃ t, exec (.mbxCommandFinish r w b) s = .next t ∧
      (t.copyOf r w b).busy = false ∧ (t.copyOf r w b).valid = true ∧
      (t.copyOf r w b).err = (s.copyOf r w b).result.1 ∧
      (t.copyOf r w b).tag.toNat = (s.copyOf r w b).cmd.toNat / 2 ^ 24 % 256 ∧
      (t.copyOf r w b).d = (if (s.copyOf r w b).result.1 = errDone then
        (s.copyOf r w b).result.2 ++ (s.copyOf r w b).d.drop (s.copyOf r w b).result.2.length
        else (s.copyOf r w b).d) ∧
      t = { s with regs := { s.regs with copy := t.regs.copy } }) ∧
  (∀ (r : Req) (w : Window) (b : Block) (s : State) (a : List Nat), (s.copyOf r w b).todo = some a →
    let act := waitingRule b ((s.copyOf r w b).cmd.toNat % 65536)
    (act a s = none → exec (.mbxCommandFinish r w b) s = .next s) ∧
    (∀ err ws u, act a s = some (err, ws, u) → (u.copyOf r w b).busy = true →
      ∃ t, exec (.mbxCommandFinish r w b) s = .next t ∧ (t.copyOf r w b).busy = false ∧
        (t.copyOf r w b).todo = none ∧ (t.copyOf r w b).err = err ∧
        (err = errDone → (t.copyOf r w b).d.take ws.length = ws))) ∧
  (∀ (r : MbxReq) (b : Block) (s : State), (s.copyOf r.req r.win b).busy = true →
    exec (.eventFrame r b) s = .next s ∧ exec (.scrubFrame r b) s = .next s)

/-- STATUS_REGISTER_READ, STATUS_WRITE_BACK and EVACK_WRITE (R5, R42, R76, R84): a read delivers its value and changes
at most what the module records of the reader; a write-back clears the SQ fields, and an acknowledgement returns PENDING
to 0 and withdraws the event's message that a masked vector still holds, exactly when the comparison of R76 holds, and
never through the read-only copy of the identity page. It rests on choices of the model: log 15, 127, 131, 132, 134,
170. -/
def Obligations.StatusReadAndWriteBack : Prop :=
  (∀ (x : BarAcc) (n : AccWidth) (s : State), s.hears x.req (BarAcc.page x) = true →
    ∃ t, exec (.statusRegisterRead x n) s = .next t ∧ t.out = .readData x.req.val (s.readAcc x n).1 :: s.out ∧
      t = { s with regs := { s.regs with seen := t.regs.seen }, free := t.free, out := t.out }) ∧
  (∀ (x : BarAcc) (a : Acc) (v : Word) (s : State) (i : Nat), BarAcc.acc x = some a →
    s.statusInst a.req a.win a.blk (a.off.toNat / 4 * 4) = some i →
    let o := a.off.toNat / 4 * 4
    exec (.statusWriteBack x v) s = .next
      (if readOnlyPage a.win a.blk = false ∧
          s.matchesRead (regKey a.blk i o) a.req (s.seqNum a.blk i o) (field v 31 24) = true then
        s.clearSq a.blk i o else s)) ∧
  (∀ (r : Req) (w : Window) (b : Block) (v : Word) (s : State) (i : Nat), s.selInst r w b = some i →
    let held := readOnlyPage w b = false ∧
      s.matchesRead (regKey b i 0x010) r (s.source (srcKey b i)).num (field v 31 24) = true
    ∃ t, exec (.evackWrite r w b v) s = .next t ∧
      (t.source (srcKey b i)).pending = (if held then 0 else (s.source (srcKey b i)).pending) ∧
      (∀ j, j ≠ srcKey b i → t.source j = s.source j) ∧
      t.pci.pba = (if held then (s.withdraw (srcKey b i)).pci.pba else s.pci.pba) ∧
      t = { s with regs := { s.regs with src := t.regs.src }, pci := { s.pci with pba := t.pci.pba }, out := t.out })

/-- SNAP_TAKE and SNAP_DONE (R61 to R63): a TAKE copies the instance's status registers to the holding registers; ZERO
restarts the page's counters, SAT_COUNT with what running passes have written (R228); DONE rises when the capture is
over. A write without TAKE stores ZERO alone, a TAKE with no instance selected captures zeros, and the read-only copy of
the identity page takes no write. It rests on choices of the model: log 30, 127, 134, 135. -/
def Obligations.SnapshotTakeAndDone : Prop :=
  (∀ (r : Req) (w : Window) (b : Block) (v : Word) (s : State) (i : Nat),
    readOnlyPage w b = false → s.absent b = false → s.selInst r w b = some i → bit v 0 = true →
    ∃ t, exec (.snapTake r w b v) s = .next t ∧
      t.copyOf r w b = { s.copyOf r w b with
        snapZero := bit v 2, snapInst := (s.copyOf r w b).inst, snapDone := false, snapBusy := true
        hold := s.snapshot w b i } ∧
      (bit v 2 = true → s.shows b i = true → b ≠ .kite → ∀ o, 0x800 ≤ o → o < 0xC00 → t.counter b i o = 0) ∧
      (bit v 2 = false → t.regs.count = s.regs.count) ∧
      (∀ j, j ≠ i → t.core j = s.core j) ∧ (b = .array ∧ bit v 2 = true ∨ t.cores = s.cores) ∧
      (t.core i).regs = (s.core i).regs ∧ (t.core i).arr.rs = (s.core i).arr.rs ∧ t.satsNow i = (if b = .array ∧ bit v 2 = true
        then 0 else s.satsNow i) ∧
      t = { s with
        regs := { s.regs with copy := t.regs.copy, count := t.regs.count }, free := t.free, cores := t.cores }) ∧
  (∀ (r : Req) (w : Window) (b : Block) (v : Word) (s : State),
    readOnlyPage w b = false → s.absent b = false → s.hears r b = true → pageOk r w b = true →
    (bit v 0 = false → exec (.snapTake r w b v) s = .next (s.setCopy r w b { s.copyOf r w b with snapZero := bit v 2 })) ∧
    (bit v 0 = true → s.selInst r w b = none → exec (.snapTake r w b v) s = .next (s.setCopy r w b { s.copyOf r w b with
      snapZero := bit v 2, snapInst := (s.copyOf r w b).inst, snapDone := false, snapBusy := true, hold := [] }))) ∧
  (∀ (r : Req) (w : Window) (b : Block) (v : Word) (s : State), readOnlyPage w b = true →
    exec (.snapTake r w b v) s = .next s) ∧
  (∀ (r : Req) (w : Window) (b : Block) (s : State), (s.copyOf r w b).snapBusy = true →
    exec (.snapDone r w b) s =
      .next (s.setCopy r w b { s.copyOf r w b with snapDone := true, snapBusy := false }))

/-- SCRUB_VISIT (R69 to R71, R73): the visit of a register finds a mismatch, records it at the page's scrubber with code
0x1002 and puts the instance into hold; the bits that then change without a write are used, and an odd number of them
turns the parity over. A register that is not there is not visited. It rests on choices of the model: log 27, 43, 132.
-/
def Obligations.ScrubFindsParityMismatch : Prop :=
  ∀ (b : Block) (i : Fin 8192) (off : BitVec 12) (f : BitVec 33) (s : State),
    (s.scrubbed b i.val off.toNat = false → exec (.scrubVisit b i off f) s = .next s) ∧
    (s.scrubbed b i.val off.toNat = true →
      let new := s.mismatched b i.val off.toNat && !(s.mismatchFound b i.val off.toNat)
      let src := s.source (srcKey b scrubber)
      ∃ t, exec (.scrubVisit b i off f) s = .next t ∧
        t.cfg b i.val off.toNat = s.cfg b i.val off.toNat ^^^ (BitVec.setWidth 32 f &&& cfgMask b off.toNat) ∧
        t.mismatched b i.val off.toNat = (s.mismatched b i.val off.toNat != oddOnes f) ∧
        (∀ k, k ≠ regKey b i.val off.toNat → Tab.get 0 t.regs.cfg k = Tab.get 0 s.regs.cfg k) ∧
        t = { s with
          regs := { s.regs with
            cfg := t.regs.cfg, par := t.regs.par, found := t.regs.found, accepted := t.regs.accepted
            status := t.regs.status, evnum := t.regs.evnum, latched := t.regs.latched, src := t.regs.src }
          watch := t.watch, pci := t.pci, out := t.out } ∧
        (new = true → (t.source (srcKey b scrubber)).num = src.num + 1 ∧
          (t.source (srcKey b scrubber)).pending = src.pending + 1 ∧
          (t.source (srcKey b scrubber)).lastCode = 0x1002 ∧ (oddOnes f = false → t.inHold b i.val = true)) ∧
        (new = false → t.source (srcKey b scrubber) = src))

/-- CONFIG_REGISTER_WRITE (R42, R46, R65, R71): a 32-bit write stores the writable bits of a register, and ends a
mismatch; a register whose values have limits ignores one outside them, a field of HBM keeps its own, and a role that
begins to follow drops a period that waits (R113); a narrow write, and one at a reserved offset, is ignored; a 64-bit
write is two 32-bit writes, lower address first. It rests on choices of the model: log 41, 42, 127, 128, 134. -/
def Obligations.ConfigRegisterWrite : Prop :=
  (∀ (x : BarAcc) (a : Acc) (v : BitVec 64) (s : State) (i : Nat), BarAcc.acc x = some a →
    a.blk = .pcie ∨ a.blk = .ctxtab ∨ a.blk = .stall ∨ a.blk = .array ∨ a.blk = .sparse ∨ a.blk = .marble ∨
      a.blk = .dir ∨ a.blk = .narog ∨ a.blk = .slowtier ∨ a.blk = .ulane ∨ a.blk = .rng →
    let o := a.off.toNat / 4 * 4
    s.reaches a.req a.win a.blk i o →
    ∃ t, exec (.configRegisterWrite x .w32 v) s = .next t ∧
      t.cfg a.blk i o = BitVec.setWidth 32 v &&& cfgMask a.blk o ∧
      t.mismatched a.blk i o = false ∧ t.mismatchFound a.blk i o = false ∧
      (∀ b j q, regKey b j q ≠ regKey a.blk i o → t.cfg b j q = s.cfg b j q) ∧
      t = { s with regs := { s.regs with
        cfg := t.regs.cfg, par := t.regs.par, found := t.regs.found, accepted := t.regs.accepted } }) ∧
  (∀ (x : BarAcc) (a : Acc) (v : BitVec 64) (s : State) (i : Nat), BarAcc.acc x = some a →
    let o := a.off.toNat / 4 * 4
    let new := BitVec.setWidth 32 v
    a.blk = .strings ∨ a.blk = .hbm ∨ a.blk = .narrow ∨ a.blk = .dma ∨ a.blk = .coll ∨ a.blk = .power ∨
      (a.blk = .ulink ∧ o = 0x10C ∧ ∀ p, s.inHold .ulink p = false) →
    s.reaches a.req a.win a.blk i o →
    (cfgIgnores a.blk o new = true → exec (.configRegisterWrite x .w32 v) s = .next s) ∧
    (cfgIgnores a.blk o new = false → ∃ t, exec (.configRegisterWrite x .w32 v) s = .next t ∧
      t.cfg a.blk i o = (if a.blk = .hbm ∧ field new 15 8 = 0 then (new &&& ~~~(span 15 8)) ||| (s.cfg .hbm i o &&& span 15 8)
        else new) &&& cfgMask a.blk o ∧
      t.mismatched a.blk i o = false ∧ t.mismatchFound a.blk i o = false ∧
      (∀ b j q, regKey b j q ≠ regKey a.blk i o → t.cfg b j q = s.cfg b j q) ∧
      t.fr.pend = (if a.blk = .strings ∧ t.isFollower = true ∧ s.isFollower = false ∧ s.fr.free = false then none
        else s.fr.pend) ∧
      t = { s with
        regs := { s.regs with
          cfg := t.regs.cfg, par := t.regs.par, found := t.regs.found, accepted := t.regs.accepted }
        fr := { s.fr with pend := t.fr.pend } })) ∧
  (∀ (x : BarAcc) (v : BitVec 64) (s : State),
    exec (.configRegisterWrite x .w8 v) s = .next s ∧ exec (.configRegisterWrite x .w16 v) s = .next s) ∧
  (∀ (r : Req) (o : BitVec 26) (v : BitVec 64) (s : State), BarAcc.acc { req := r, addr := .bar0 o } = none →
    exec (.configRegisterWrite { req := r, addr := .bar0 o } .w32 v) s = .next s) ∧
  (∀ (x : BarAcc) (v : BitVec 64) (s : State),
    (∀ y, BarAcc.high x = some y →
      ∃ u t, exec (.configRegisterWrite x .w32 v) s = .next u ∧
        exec (.configRegisterWrite y .w32 (v >>> 32)) u = .next t ∧ exec (.configRegisterWrite x .w64 v) s = .next t) ∧
    (BarAcc.high x = none →
      exec (.configRegisterWrite x .w64 v) s = exec (.configRegisterWrite x .w32 v) s))
/-- TICK (R85, R86, R96, R98, R111, R481): the next frame opens at cycle 0, with no wave released and its closing window
shut. A launch that its frame leaves unstarted is an overrun, recorded with the frame's own number for its partition and
its context; and the RNG's snapshot is taken for a partition whose update frame opens. It rests on choices of the model:
log 7, 160. -/
def Obligations.TickOpensNextFrame : Prop :=
  (∀ s : State, s.ready = true →
    ∃ t, exec .tick s = .next t ∧ t.fr.no = s.fr.nextNo.getD (s.fr.no + 1) ∧ t.fr.cycle = 0 ∧ t.fr.waves = 0 ∧
      t.fr.closing = false ∧ t.fr.nextNo = s.fr.afterNo ∧ t.fr.afterNo = none ∧ t.fr.adj = s.fr.adjNext ∧
      t.fr.adjNext = 0 ∧ t.fr.ticks = s.fr.ticks + 1 ∧
      (∀ p, p < 32 → t.kindOf p t.fr.no = .update → (t.kpart p).snap = {
        seed := (t.kpart p).seed, mode := bit (t.cfg .rng p 0x100) 0, cursor := (t.kpart p).cursor
        pos := (t.kpart p).pos, rate := (List.range 4).map (fun i => t.cfg .rng p (0x110 + 4 * i)) })) ∧
  (∀ (s : State) (w : Work) (c : CtxId), s.ready = true → s.fr.nextNo = none →
    (∀ v ∈ s.works, v.frame = s.fr.no → v.ctx ≠ none → v.running = false) →
    w ∈ s.works → w.frame = s.fr.no → w.ctx = some c.val → w.part < 32 → w.launch?.isSome = true →
    ∃ t, exec .tick s = .next t ∧ bit (t.sq .ctxtab c.val 0x800) 19 = true ∧
      (t.source (srcKey .puppeteer w.part)).lastCode = 0x1001 ∧
      (t.source (srcKey .puppeteer w.part)).lastFrame = s.fr.no ∧ ∀ v ∈ t.works, v.id ≠ w.id)

/-- R96: of the admitted work whose target frame ends, no launch and no sort job survives the tick; a DMA command does
only with all its pieces moved and a Narog job only with its result, while their last writes are still to be performed
(R338). It rests on choices of the model: log 160. -/
def Obligations.NoFrameWorkOutlivesItsFrame : Prop :=
  ∀ s t : State, s.ready = true → exec .tick s = .next t → ∀ w ∈ t.works, w.ctx ≠ none → w.frame = s.fr.no →
    (∃ j, w.job = .dma j ∧ w.running = true ∧ j.pieces ≤ j.next) ∨ (∃ j, w.job = .narog j ∧ j.result ≠ 7) ∨
      ∃ j, w.job = .coll j

/-- CLOSING_WINDOW_OPEN and WAVE_RELEASE (R86, R104): the window opens at cycle L_f - 2,048, wave w at cycle 32w, and
nothing of the frame but its cycle changes beside. It rests on choices of the model: log 7. -/
def Obligations.ClosingWindowAndWaves : Prop :=
  (∀ s : State, s.ready = true → s.fr.closing = false →
    ∃ t, exec .closingWindowOpen s = .next t ∧
      t.fr = { s.fr with cycle := max s.fr.cycle (s.frameLen - 2048), closing := true } ∧ t.closedNow = true ∧
      t.mem = s.mem ∧ t.works = s.works) ∧
  (∀ (w : Fin 8) (s : State), s.ready = true →
    ∃ t, exec (.waveRelease w) s = .next t ∧
      t.fr = { s.fr with cycle := max s.fr.cycle (32 * w.val), waves := s.fr.waves ||| BitVec.ofNat 8 (2 ^ w.val) } ∧
      t.mem = s.mem ∧ t.works = s.works)

/-- MARKER_RECEIVE, STRINGS_TAKEOVER and STRINGS_LOST (R108, R109, R112): an accepted marker slews or steps the frame
and goes on to every other trained port; a correction that comes too late for the frame waits for the next; a marker
that is not accepted is dropped. It rests on choices of the model: log 31, 32, 33, 125, 136, 137, 138. -/
def Obligations.StringsAlignment : Prop :=
  (∀ (p : PortId) (m : Marker) (res : Nat) (s : State), s.acceptsMarker p.val m = true →
    let err := s.markerErr m (s.port p.val).delay
    ∃ t, exec (.markerReceive p m res) s = .next t ∧
      t.fr.lastMarker = some m.frame ∧ t.fr.missed = 0 ∧ t.fr.free = false ∧ t.fr.no = s.fr.no ∧
      (m.frame = s.fr.no → err.natAbs ≤ 16000 →
        (if s.fr.closed = true then t.fr.adjNext else t.fr.adj) =
          clampInt (-(s.fr.period / 1024 : Nat)) (s.fr.period / 1024 : Nat) (errCycles err)) ∧
      (m.frame ≠ s.fr.no ∨ 16000 < err.natAbs →
        let late := s.fr.closed = true ∨ (s.fr.period : Int) + errCycles err < s.fr.cycle + 2048
        (if late then t.fr.afterNo else t.fr.nextNo) = some m.frame ∧
          (if late then t.fr.adjNext else t.fr.adj) = errCycles err ∧ bit (t.sq .strings 0 0x800) 21 = true) ∧
      (t.port p.val).markers = (s.port p.val).markers ∧
      (∀ q, q ∈ s.upPorts → q ≠ p.val → (t.port q).markers = (s.port q).markers ++
        [{ m with hops := m.hops + 1, delayNs := m.delayNs + (s.port p.val).delay + res }])) ∧
  (∀ (p : PortId) (m : Marker) (res : Nat) (s : State), s.acceptsMarker p.val m = false →
    exec (.markerReceive p m res) s = .next s) ∧
  (∀ s : State, s.ready = true → s.role = 3 → s.fr.tookOver = false → s.takeoverFrames ≤ s.fr.missed →
    ∃ t, exec .stringsTakeover s = .next t ∧ t.fr = { s.fr with tookOver := true, free := false } ∧
      bit (t.sq .strings 0 0x800) 20 = true ∧ t.isMaster = true) ∧
  (∀ s : State, s.ready = true → s.isFollower = true → s.fr.free = false → s.lostFrames ≤ s.fr.missed →
    ∃ t, exec .stringsLost s = .next t ∧ t.fr = { s.fr with free := true } ∧ bit (t.sq .strings 0 0x800) 22 = true ∧
      (t.source (srcKey .strings 0)).lastCode = 0x1003 ∧
      (t.source (srcKey .strings 0)).pending = (s.source (srcKey .strings 0)).pending + 1)

/-- The items of STRINGS and the frame items of PUPPETEER (R103, R111, R113 to R115). It rests on choices of the model:
log 139. -/
def Obligations.FrameItems : Prop :=
  (∀ (r : MbxReq) (s : State) (k : Nat) (ws : List Word), s.asks r .strings (rdItem 1 2) k false ws →
    exec (.stringsFrameNo r) s = .next (s.mbxBegin r .strings 1 errDone (wordsOf 2 s.fr.no.toNat))) ∧
  (∀ (r : MbxReq) (s : State) (k : Nat) (ws : List Word), s.asks r .strings (rwItem 2 2) k true ws →
    (natOf ws < s.fr.no.toNat + 4 →
      exec (.applyFrame r) s = .next (s.mbxBegin r .strings 2 errBadCmd [])) ∧
    (s.fr.no.toNat + 4 ≤ natOf ws → (s.isFollower = false ∨ s.fr.free = true) →
      exec (.applyFrame r) s = .next (({ s with fr := { s.fr with
        pend := some (BitVec.ofNat 64 (natOf ws), field (s.cfg .strings 0 0x100) 26 0) } } : State).mbxBegin r .strings 2
          errDone [])) ∧
    (s.fr.no.toNat + 4 ≤ natOf ws → s.isFollower = true → s.fr.free = false →
      exec (.applyFrame r) s = .next (s.mbxBegin r .strings 2 errDone []))) ∧
  (∀ (r : MbxReq) (s : State) (k : Nat) (ws : List Word), s.asks r .strings (wrItem 3 2) k true ws →
    (s.isFollower = true → exec (.frameSet r) s = .next (s.mbxBegin r .strings 3 errDenied [])) ∧
    (s.isFollower = false → ∃ t, exec (.frameSet r) s = .next t ∧
      t.fr = { s.fr with nextNo := some (BitVec.ofNat 64 (natOf ws)) } ∧ bit (t.sq .strings 0 0x800) 21 = true ∧
      (t.copyOf r.req r.win .strings).result = (errDone, []))) ∧
  (∀ (r : MbxReq) (s : State) (k : Nat) (ws : List Word), s.asks r .puppeteer (rdItem 1 2) k false ws →
    exec (.puppeteerFrameNo r) s = .next (s.mbxBegin r .puppeteer 1 errDone (wordsOf 2 s.fr.no.toNat))) ∧
  (∀ (r : MbxReq) (s : State) (k : Nat) (ws : List Word), s.asks r .puppeteer (rwItem 2 2) k true ws →
    exec (.stepBase r) s = .next ((s.setPart k { s.part k with stepBase := BitVec.ofNat 64 (natOf ws) }).mbxBegin r
      .puppeteer 2 errDone [])) ∧
  (∀ (r : MbxReq) (s : State) (k : Nat) (ws : List Word), s.asks r .puppeteer (rwItem 2 2) k false ws →
    exec (.stepBase r) s =
      .next (s.mbxBegin r .puppeteer 2 errDone (wordsOf 2 (s.part k).stepBase.toNat))) ∧
  (∀ (r : MbxReq) (s : State) (k : Nat) (ws : List Word), s.asks r .puppeteer (rdItem 3 2) k false ws →
    exec (.stepNo r) s = .next (s.mbxBegin r .puppeteer 3 errDone (wordsOf 2
      (if s.stepMode k = true ∧ (s.part k).stepBase.toNat ≤ s.fr.no.toNat then
        (s.fr.no.toNat - (s.part k).stepBase.toNat) / (s.fbFrames k + 3) else 0))))

/-- R113: a pending period takes effect at the tick that opens its frame or a later one, and not before; with nothing
pending the period stays. -/
def Obligations.PendingPeriodTakesEffect : Prop :=
  ∀ s : State, s.ready = true → ∃ t, exec .tick s = .next t ∧
    (∀ f p, s.fr.pend = some (f, p) → f.toNat ≤ t.fr.no.toNat → t.fr.period = p ∧ t.fr.pend = none) ∧
    (∀ f p, s.fr.pend = some (f, p) → t.fr.no.toNat < f.toNat → t.fr.period = s.fr.period ∧ t.fr.pend = s.fr.pend) ∧
    (s.fr.pend = none → t.fr.period = s.fr.period ∧ t.fr.pend = none)

/-- LAUNCH (R88, R91, R145 to R148): an accepted launch is admitted into its frame with its reservation, a refused one
is not; either way HEAD moves past its slot. It rests on choices of the model: log 10. -/
def Obligations.LaunchAdmission : Prop :=
  ∀ (c : CtxId) (s : State) (x : Fetched) (k : Byte) (f : Nat),
    s.command c.val = some x → opcodeOf x.slot = 0x01 → s.launchOutcome c.val x.slot = (k, f) →
    ∃ t, exec (.launch c) s = .next t ∧
      (t.ctx c.val).head = ((s.ctx c.val).head + 1) % (s.ctx c.val).slots ∧ (t.ctx c.val).fetched = none ∧
      (k ≠ 0 → t.works = s.works) ∧
      (k = 0 →
        t.works = s.works ++ [{
          id := s.nextWork, ctx := some c.val, part := s.partOf c.val, frame := BitVec.ofNat 64 f
          slot := (s.ctx c.val).head, irqEnd := bit (hdrOf x.slot) 19, running := false
          units := ceilDiv (leAt x.slot 36 2 * leAt x.slot 4 4) 4096
          job := .launch (launchOf x.slot (s.grantedCores (s.partOf c.val))) }] ∧
        Tab.get 0 (t.ctx c.val).resv f =
          Tab.get 0 (s.ctx c.val).resv f + ceilDiv (leAt x.slot 36 2 * leAt x.slot 4 4) 4096)

/-- LAUNCH_START, BLOCK_DISPATCH and LAUNCH_CORE_END (R93, R153, R159, R165). It rests on choices of the model: log 122,
123, 140, 161. -/
def Obligations.LaunchesOnCores : Prop :=
  (∀ (id : Nat) (k : CoreId) (s : State) (w : Work) (l : Launch),
    s.work id = some w → w.launch? = some l → s.mayStart w l k.val = true →
    ∃ t, exec (.launchStart id k) s = .next t ∧ (t.core k.val).launch = some w.id ∧ (t.core k.val).since = s.now ∧
      (t.core k.val).split = l.split ∧
      (t.core k.val).clearTo = s.now + s.startCycles k.val w.part (s.ctx (w.ctx.getD 0)).key l.split ∧
      (t.core k.val).key = some (w.part, (s.ctx (w.ctx.getD 0)).key) ∧
      (t.core k.val).blocks.map (·.no) = l.firstBlocks (l.localOf k.val) ∧
      (t.core k.val).arr.bank0 = {} ∧ (t.core k.val).arr.bank1 = {} ∧
      (((s.core k.val).key ≠ some (w.part, (s.ctx (w.ctx.getD 0)).key) ∨ (s.ctx (w.ctx.getD 0)).key = 0) →
        (t.core k.val).regs = [] ∧ (t.core k.val).scratch = [])) ∧
  (∀ (k : CoreId) (s : State) (w : Work) (l : Launch) (i : Nat),
    s.running k.val = some (w, l) → l.nextBlock < l.blocks →
    (List.range l.resident).find? (fun i => ((s.core k.val).sweep l.gpb).blocks.all (·.slot ≠ i)) = some i →
    ∃ t, exec (.blockDispatch k) s = .next t ∧
      (t.core k.val).blocks = ((s.core k.val).sweep l.gpb).blocks ++ [{ slot := i, no := l.nextBlock }] ∧
      (t.core k.val).groups.length = (s.core k.val).groups.length + l.gpb ∧ t.mem = s.mem) ∧
  (∀ (k : CoreId) (s : State) (w : Work) (l : Launch),
    s.running k.val = some (w, l) → ((s.core k.val).sweep l.gpb).blocks = [] → l.blocks ≤ l.nextBlock →
    (s.core k.val).arr.queue = [] → (s.core k.val).ops = [] →
    ∃ t, exec (.launchCoreEnd w.id k) s = .next t ∧
      (l.ended.length + 1 ≠ l.list.length → (t.core k.val).launch = none ∧ (t.core k.val).groups = [] ∧ t.mem = s.mem) ∧
      (l.ended.length + 1 = l.list.length → l.puts = false → ∀ v ∈ t.works, v.id ≠ w.id) ∧
      (l.ended.length + 1 = l.list.length → l.puts = true → ∀ v, s.work w.id = some v → (t.work w.id).isSome = true))

/-- CANCEL, FENCE, FENCE_COMPLETE, TLB_INVAL, TLB_INVAL_COMPLETE and a command with an unsupported opcode (R145 to R147,
R149). It rests on choices of the model: log 10. -/
def Obligations.RingCommands : Prop :=
  (∀ (c : CtxId) (s : State) (x : Fetched),
    s.command c.val = some x → opcodeOf x.slot = 0x02 → hdrBad (hdrOf x.slot) = false →
    othersZero x.slot [(8, 8)] = true →
    ∃ t, exec (.cancel c) s = .next t ∧ (t.ctx c.val).head = ((s.ctx c.val).head + 1) % (s.ctx c.val).slots ∧
      (∀ v ∈ t.works, v ∈ s.works ∧
        ¬(v.ctx = some c.val ∧ v.running = false ∧ v.launch?.isSome = true ∧ leAt x.slot 8 8 ≤ v.frame.toNat))) ∧
  (∀ (c : CtxId) (s : State) (x : Fetched),
    s.command c.val = some x → opcodeOf x.slot = 0x03 → hdrBad (hdrOf x.slot) = false → othersZero x.slot [] = true →
    ∃ t, exec (.fence c) s = .next t ∧ (t.ctx c.val).fence = some ((s.ctx c.val).head, hdrOf x.slot) ∧
      (t.ctx c.val).head = ((s.ctx c.val).head + 1) % (s.ctx c.val).slots ∧ t.mayFetch c.val = false ∧
      t.works = s.works) ∧
  (∀ (c : CtxId) (s : State) (slot : Nat) (h : Word),
    (s.ctx c.val).fence = some (slot, h) → s.works.all (·.ctx ≠ some c.val) = true →
    ∃ t, exec (.fenceComplete c) s = .next t ∧ (t.ctx c.val).fence = none ∧ t.works = s.works) ∧
  (∀ (c : CtxId) (s : State) (x : Fetched),
    s.command c.val = some x → opcodeOf x.slot = 0x04 → hdrBad (hdrOf x.slot) = false →
    othersZero x.slot [(16, 16)] = true → leAt x.slot 16 8 % 4096 = 0 → leAt x.slot 24 8 % 4096 = 0 →
    ∃ t, exec (.tlbInval c) s = .next t ∧
      (t.ctx c.val).tlbWait = (s.ctx c.val).tlbWait ++
        [((s.ctx c.val).head, hdrOf x.slot, leAt x.slot 16 8, leAt x.slot 24 8)] ∧
      (t.ctx c.val).head = ((s.ctx c.val).head + 1) % (s.ctx c.val).slots) ∧
  (∀ (c : CtxId) (s : State) (slot base len : Nat) (h : Word) (rest : List (Nat × Word × Nat × Nat)),
    (s.ctx c.val).tlbWait = (slot, h, base, len) :: rest →
    ∃ t, exec (.tlbInvalComplete c) s = .next t ∧ (t.ctx c.val).tlbWait = rest ∧
      (∀ pg, base ≤ pg * 4096 → pg * 4096 < base + len → Tab.get none (t.ctx c.val).tlb pg = none) ∧
      (∀ pg, pg * 4096 < base ∨ base + len ≤ pg * 4096 →
        Tab.get none (t.ctx c.val).tlb pg = Tab.get none (s.ctx c.val).tlb pg)) ∧
  (∀ (c : CtxId) (s : State) (x : Fetched),
    s.command c.val = some x → opcodeKnown s.variant (opcodeOf x.slot) = false → (s.ctx c.val).ringHost = true →
    ∃ t, exec (.badOpcodeCommand c) s = .next t ∧ t.works = s.works ∧
      (t.ctx c.val).head = ((s.ctx c.val).head + 1) % (s.ctx c.val).slots ∧
      .hostWrite (s.ctx c.val).part (s.ctx c.val).pasid ((s.ctx c.val).slotAddr (s.ctx c.val).head + 48) [0x10] ∈ t.out)

/-- COMMAND_FETCH (R138, R144, R548): a slot without a parameter record is read in from the ring in host memory, once
its page is translated, or from the ring in device memory, once the home slice can read it. It rests on choices of the
model: log 46, 141, 156. -/
def Obligations.CommandFetch : Prop :=
  (∀ (c : CtxId) (host : HostData) (s : State),
    s.mayFetch c.val = true → (s.ctx c.val).ringHost = true →
    s.atsReady c.val ((s.ctx c.val).slotAddr (s.ctx c.val).head) = true →
    usesAux (opcodeOf (bytesAt (host.headD []) 0 64)) = false →
    ∃ t, exec (.commandFetch c host) s = .next t ∧
      (t.ctx c.val).fetched = some { slot := bytesAt (host.headD []) 0 64, aux := [] } ∧ t.mem = s.mem) ∧
  (∀ (c : CtxId) (host : HostData) (s : State),
    s.mayFetch c.val = true → (s.ctx c.val).ringHost = false →
    s.bulkFault ((s.ctx c.val).slotAddr (s.ctx c.val).head) 64 = none →
    usesAux (opcodeOf (s.devRead ((s.ctx c.val).slotAddr (s.ctx c.val).head) 64)) = false →
    (∀ u, s.agentRead true ((s.ctx c.val).slotAddr (s.ctx c.val).head) 64 = some u →
      ∃ t, exec (.commandFetch c host) s = .next t ∧
        (t.ctx c.val).fetched = some { slot := s.devRead ((s.ctx c.val).slotAddr (s.ctx c.val).head) 64, aux := [] } ∧
        t.works = s.works ∧ t.fr = s.fr) ∧
    (s.agentRead true ((s.ctx c.val).slotAddr (s.ctx c.val).head) 64 = none →
      exec (.commandFetch c host) s = .next s))

/-- Writes of the grant registers (R71, R128, R129, R131, R369, R402): a grant that is not refused stores the register
and marks the partition's measurement, and the watch entries that it adds start anew; a refused one, and a write that
reaches no partition, is ignored. The checks compare with the values the registers accepted last. -/
def Obligations.GrantWrites : Prop :=
  (∀ (r : Req) (w : Window) (v : Word) (s : State), s.grantTarget r w = none →
    exec (.grantCtxWrite r w v) s = .next s ∧ (∀ hi, exec (.grantCoresWrite r w hi v) s = .next s) ∧
    exec (.grantWatchWrite r w v) s = .next s ∧ exec (.grantSgWrite r w v) s = .next s ∧
    exec (.grantSlowWrite r w v) s = .next s) ∧
  (∀ (r : Req) (w : Window) (v : Word) (s : State) (p : Nat), s.grantTarget r w = some p →
    let bad := (if p = 0 then 3072 else 768) < field v 23 12 ∨
      s.recorded.rangeRefused p (field v 11 0) (field v 23 12) 3072 State.ctxBase State.ctxCount = true
    (bad → exec (.grantCtxWrite r w v) s = .next s) ∧
    (¬bad → exec (.grantCtxWrite r w v) s = .next ((s.setCfg .puppeteer p 0x104 (v &&& 0x00FFFFFF)).touch p))) ∧
  (∀ (r : Req) (w : Window) (v : Word) (s : State) (p : Nat), s.grantTarget r w = some p →
    let old := s.recorded.clusters p
    let lo := old / 2 ^ 32 * 2 ^ 32 + v.toNat
    let hi := old % 2 ^ 32 + v.toNat % 65536 * 2 ^ 32
    (s.recorded.maskRefused p old lo s.recorded.clusters = true → exec (.grantCoresWrite r w false v) s = .next s) ∧
    (s.recorded.maskRefused p old hi s.recorded.clusters = true → exec (.grantCoresWrite r w true v) s = .next s) ∧
    (s.recorded.maskRefused p old lo s.recorded.clusters = false →
      exec (.grantCoresWrite r w false v) s = .next ((s.setCfg .puppeteer p 0x108 v).touch p)) ∧
    (s.recorded.maskRefused p old hi s.recorded.clusters = false →
      exec (.grantCoresWrite r w true v) s = .next ((s.setCfg .puppeteer p 0x10C (v &&& 0xFFFF)).touch p))) ∧
  (∀ (r : Req) (w : Window) (v : Word) (s : State) (p : Nat), s.grantTarget r w = some p →
    let b := field v 12 0
    let n := field v 29 16
    (s.recorded.rangeRefused p b n 8192 State.watchBase State.watchCount = true →
      exec (.grantWatchWrite r w v) s = .next s) ∧
    (s.recorded.rangeRefused p b n 8192 State.watchBase State.watchCount = false →
      ∃ t, exec (.grantWatchWrite r w v) s = .next t ∧ t.cfg .puppeteer p 0x110 = v &&& 0x3FFF1FFF ∧
        p ∈ t.sec.touched ∧
        (∀ e, e < 8192 →
          let old := s.recorded.watchBase p ≤ e ∧ e < s.recorded.watchBase p + s.recorded.watchCount p
          (b ≤ e ∧ e < b + n ∧ ¬old → t.entry e = {} ∧ t.cfg .watch e 0x100 = 0x40) ∧
          (¬(b ≤ e ∧ e < b + n) ∨ old → t.entry e = s.entry e ∧ t.cfg .watch e 0x100 = s.cfg .watch e 0x100)) ∧
        t = { s with regs := t.regs, watch := t.watch, sec := t.sec })) ∧
  (∀ (r : Req) (w : Window) (v : Word) (s : State) (p : Nat), s.grantTarget r w = some p →
    let bad := s.recorded.rangeRefused p (field v 7 0) (field v 24 16) 256 State.sgBase State.sgCount = true
    (bad → exec (.grantSgWrite r w v) s = .next s) ∧
    (¬bad → exec (.grantSgWrite r w v) s = .next ((s.setCfg .puppeteer p 0x114 (v &&& 0x01FF00FF)).touch p))) ∧
  (∀ (r : Req) (w : Window) (v : Word) (s : State) (p : Nat), s.grantTarget r w = some p →
    let bad := (field v 26 16 ≠ 0 ∧ slowGib s.variant < field v 9 0 + field v 26 16) ∨
      s.recorded.rangeRefused p (field v 9 0) (field v 26 16) 2048 State.slowBase State.slowCount = true
    (bad → exec (.grantSlowWrite r w v) s = .next s) ∧
    (¬bad → exec (.grantSlowWrite r w v) s = .next ((s.setCfg .puppeteer p 0x118 (v &&& 0x07FF03FF)).touch p)))

/-- The items of PUPPETEER that grant HBM and set event vectors, and the recomputation of a measurement (R130, R131,
R135, R532). -/
def Obligations.PartitionItems : Prop :=
  (∀ (r : MbxReq) (s : State) (p : Nat) (ws : List Word), s.asks r .puppeteer (rwItem 0x10 8) p true ws →
    r.win = .glob → (s.grantHbm p ((s.part p).hbm.toNat / 2 ^ 256 * 2 ^ 256 + natOf ws)).1 = errDone →
    ∃ t, exec (.grantHbmLo r) s = .next t ∧ (t.copyOf r.req r.win .puppeteer).result = (errDone, []) ∧
      (t.part p).hbm = BitVec.ofNat 432 ((s.part p).hbm.toNat / 2 ^ 256 * 2 ^ 256 + natOf ws) ∧
      p ∈ t.sec.touched) ∧
  (∀ (r : MbxReq) (s : State) (p : Nat) (ws : List Word), s.asks r .puppeteer (rwItem 0x10 8) p true ws →
    r.win = .glob → (s.grantHbm p ((s.part p).hbm.toNat / 2 ^ 256 * 2 ^ 256 + natOf ws)).1 ≠ errDone →
    exec (.grantHbmLo r) s = .next (s.mbxBegin r .puppeteer 0x10 errBadCmd [])) ∧
  (∀ (r : MbxReq) (s : State) (p : Nat) (ws : List Word),
    (s.asks r .puppeteer (rwItem 0x10 8) p false ws →
      exec (.grantHbmLo r) s = .next (s.mbxBegin r .puppeteer 0x10 errDone (wordsOf 8 (s.part p).hbm.toNat))) ∧
    (s.asks r .puppeteer (rwItem 0x11 8) p false ws → exec (.grantHbmHi r) s =
      .next (s.mbxBegin r .puppeteer 0x11 errDone (wordsOf 8 ((s.part p).hbm.toNat / 2 ^ 256)))) ∧
    (s.asks r .puppeteer (rwItem 0x20 8) p false ws → exec (.evtVectors r) s =
      .next (s.mbxBegin r .puppeteer 0x20 errDone (wordsOf 8 (s.part p).evt.toNat)))) ∧
  (∀ (r : MbxReq) (s : State) (p : Nat) (ws : List Word), s.asks r .puppeteer (rwItem 0x11 8) p true ws →
    (∀ q, r.win = .part q → exec (.grantHbmHi r) s = .next (s.mbxBegin r .puppeteer 0x11 errDenied [])) ∧
    (r.win = .glob → natOf ws < 2 ^ 176 →
      (s.grantHbm p ((s.part p).hbm.toNat % 2 ^ 256 + natOf ws * 2 ^ 256)).1 = errDone →
      ∃ t, exec (.grantHbmHi r) s = .next t ∧ (t.copyOf r.req r.win .puppeteer).result = (errDone, []) ∧
        (t.part p).hbm = BitVec.ofNat 432 ((s.part p).hbm.toNat % 2 ^ 256 + natOf ws * 2 ^ 256))) ∧
  (∀ (r : MbxReq) (s : State) (p : Nat) (ws : List Word), s.asks r .puppeteer (rwItem 0x20 8) p true ws →
    (List.range 16).all (fun k => evtEntry (BitVec.ofNat 256 (natOf ws)) k / 32768 = 0 ||
      evtEntry (BitVec.ofNat 256 (natOf ws)) k % 2048 < msixSize p) = true →
    exec (.evtVectors r) s = .next ((s.setPart p { s.part p with evt := BitVec.ofNat 256 (natOf ws) }).mbxBegin r
      .puppeteer 0x20 errDone [])) ∧
  (∀ (p : PartId) (s : State), s.sec.touched.contains p.val = true →
    ∃ t, exec (.measurementRecompute p) s = .next t ∧ t.sec.touched.contains p.val = false ∧
      t.measurement (16 + p.val) = some (s.measureNow p.val) ∧
      t.sec.generation = (if s.measureNow p.val = Tab.get (measReset p.val) s.sec.meas p.val then s.sec.generation
        else (s.sec.generation + 1) % 2 ^ 64))

/-- Accesses of the host (R120 to R127, R143, R144, R352, R506): BAR4, doorbells, AtomicOps and configuration requests.
A read of BAR4 delivers the coherent bytes, or Unsupported Request, or poisoned data, or waits for its slice or stack; a
write lands coherently or is dropped with a non-fatal error in AER; while the host is not heard nothing happens. It
rests on choices of the model: log 18, 19, 44, 129, 141. -/
def Obligations.HostAccesses : Prop :=
  (∀ (f : Fun) (o : BitVec 36) (n : BitVec 13) (s : State), s.hostOk f.val = true →
    (s.bar4Map f.val o.toNat n.toNat = none →
      exec (.bar4Read f o n) s = .next (s.emit (.unsupported f.val))) ∧
    (∀ ps u, s.bar4Map f.val o.toNat n.toNat = some ps → s.agentReads false ps = some u →
      ps.any (fun p => s.rangePoison p.1 p.2) = false →
      ∃ t, exec (.bar4Read f o n) s = .next t ∧
        t.out.head? = some (.bar4Data f.val (ps.flatMap (fun p => s.cohRead p.1 p.2))) ∧ t.works = s.works ∧
        t.ctxs = s.ctxs ∧ t.fr = s.fr) ∧
    (∀ ps u, s.bar4Map f.val o.toNat n.toNat = some ps → s.agentReads false ps = some u →
      ps.any (fun p => s.rangePoison p.1 p.2) = true →
      ∃ t, exec (.bar4Read f o n) s = .next t ∧ t.out = .aer f.val :: .bar4Poison f.val :: u.out ∧
        (Tab.get {} t.pci.aer f.val).nonFatal = true ∧ t.mem = u.mem) ∧
    (∀ ps, s.bar4Map f.val o.toNat n.toNat = some ps → s.agentReads false ps = none →
      exec (.bar4Read f o n) s =
        .next { s with pci := { s.pci with reads := s.pci.reads ++ [(f.val, o.toNat, n.toNat)] } })) ∧
  (∀ (f : Fun) (o : BitVec 36) (bs : List Byte) (s : State), s.hostOk f.val = true →
    (s.bar4Map f.val o.toNat bs.length = none → ∃ t, exec (.bar4Write f o bs) s = .next t ∧
      t.out = .aer f.val :: s.out ∧ (Tab.get {} t.pci.aer f.val).nonFatal = true ∧
      ((Tab.get {} s.pci.aer f.val).nonFatal = false →
        (Tab.get {} t.pci.aer f.val).header = some (o.toNat, bs.length)) ∧
      t = { s with pci := { s.pci with aer := t.pci.aer }, out := t.out }) ∧
    (∀ a, s.bar4Map f.val o.toNat bs.length = some [(a, bs.length)] →
      exec (.bar4Write f o bs) s = .next (s.cohWrite (.bar4, none) a bs)) ∧
    (∀ a b n, n ≤ bs.length → s.bar4Map f.val o.toNat bs.length = some [(a, n), (b, bs.length - n)] →
      exec (.bar4Write f o bs) s = .next
        ((s.cohWrite (.bar4, none) a (bs.take n)).cohWrite (.bar4, none) b (bs.drop n)))) ∧
  (∀ (f : Fun) (o : BitVec 36) (n : BitVec 13) (bs : List Byte) (off : BitVec 24) (v : Word) (s : State),
    s.hostOk f.val = false → exec (.bar4Read f o n) s = .next s ∧ exec (.bar4Write f o bs) s = .next s ∧
      exec (.doorbellWrite f off v) s = .next s) ∧
  (∀ (r : Req) (v : Word) (s : State), s.hears r .pcie = true → r.val = 0 ∨ r.val = 32 → s.inReset .pcie 0 = false →
    (s.copyOf r .glob .pcie).inst = 0 →
    exec (.bar4BaseWrite r v) s = .next (s.setCfg .pcie 0 0x100 (v &&& 0x7FF))) ∧
  (∀ (f : Fun) (i : Nat) (off : BitVec 24) (v : Word) (s : State), s.hostOk f.val = true →
    i < s.ctxCount f.val → i < (if f.val = 0 then 3072 else 768) → off.toNat = 4096 * i →
    let c := s.ctxBase f.val + i
    let n := v.toNat % 2 ^ 18
    let open_ := (s.ctx c).st = .active ∨ (s.ctx c).st = .stopped
    (open_ → n < (s.ctx c).slots → exec (.doorbellWrite f off v) s = .next (s.setCtx c { s.ctx c with tail := n })) ∧
    (open_ → (s.ctx c).slots ≤ n → ∃ t, exec (.doorbellWrite f off v) s = .next t ∧ t.ctxs = s.ctxs ∧
      bit (t.sq .ctxtab c 0x800) 18 = true) ∧
    (¬open_ → exec (.doorbellWrite f off v) s = .next s)) ∧
  (∀ (f : Fun) (off : BitVec 24) (v : Word) (s : State), s.hostOk f.val = true →
    s.ctxCount f.val ≤ off.toNat / 4096 → off.toNat < (if f.val = 0 then 3072 else 768) * 4096 →
    exec (.doorbellWrite f off v) s = .next s) ∧
  (∀ (f : Fun) (off : BitVec 24) (v : Word) (s : State) (o : Nat), s.hostOk f.val = true →
    off.toNat = (if f.val = 0 then 3072 else 768) * 4096 + o → o < 16 * msixSize f.val → o % 4 = 0 →
    ∃ t, exec (.doorbellWrite f off v) s = .next t ∧
      Tab.get (msixDefault o) t.pci.msixTable (f.val * 65536 + o) = v ∧
      t = { s with pci := t.pci, out := t.out }) ∧
  (∀ (f : Fun) (s : State), exec (.atomicopRequest f) s = .next (s.emit (.unsupported f.val))) ∧
  (∀ (f : Fun) (op : CfgOp) (s : State),
    (s.ready = false → exec (.configRequest f op) s = .next (s.emit (.cfgRetry f.val))) ∧
    (s.ready = true → s.fnEnabled f.val = false →
      exec (.configRequest f op) s = .next (s.emit (.unsupported f.val))) ∧
    (s.ready = true → s.fnEnabled f.val = true → (∀ i, op ≠ .doeDiscovery i) ∨ f.val = 0 →
      ∃ t v, exec (.configRequest f op) s = .next t ∧ t.out.head? = some (.cfgDone f.val v)) ∧
    (∀ i, op = .doeDiscovery i → s.ready = true → s.fnEnabled f.val = true →
      exec (.configRequest f op) s = .next (if f.val = 0 then
        (s.emit (.message (.doe (.other 1) 0) (doeDiscovery i.toNat))).emit (.cfgDone 0 0)
      else s.emit (.unsupported f.val))) ∧
    (∀ reg v, op = .read reg → s.configWord f.val reg = some v → s.ready = true → s.fnEnabled f.val = true →
      exec (.configRequest f op) s = .next (s.emit (.cfgDone f.val v))) ∧
    (∀ d3, op = .powerState d3 → s.ready = true → s.fnEnabled f.val = true →
      ∃ t, exec (.configRequest f op) s = .next t ∧ Tab.get false t.pci.d3hot f.val = d3 ∧
        t = { s with pci := { s.pci with d3hot := t.pci.d3hot }, out := .cfgDone f.val 0 :: s.out }))

/-- ATS and the resets of functions (R119, R133, R151). It rests on choices of the model: log 16, 19, 129, 157. -/
def Obligations.FunctionsAndTranslations : Prop :=
  (∀ (f : Fun) (tag : BitVec 5) (base len : BitVec 64) (s : State),
    s.hostOk f.val = true → s.pci.ats.length < 32 →
    ∃ t, exec (.atsInvalidation f tag base len) s = .next t ∧ t.pci.ats = s.pci.ats ++ [(f.val, tag.toNat)] ∧
      t.mem = s.mem ∧
      (∀ x ∈ t.ctxs, x.2.part = f.val → ∀ p ∈ x.2.ats,
        p.1 * 4096 + 4096 ≤ base.toNat ∨ base.toNat + len.toNat ≤ p.1 * 4096)) ∧
  (∀ (c : CtxId) (s : State) (pg : Nat), (s.ctx c.val).atsWait = some pg →
    exec (.atsCompletion c false) s = .next (s.setCtx c.val { s.ctx c.val with
      atsWait := none, ats := Tab.set false (s.ctx c.val).ats pg true }) ∧
    ((s.ctx c.val).st = .active → ∃ t, exec (.atsCompletion c true) s = .next t ∧ (t.ctx c.val).st = .stopped ∧
      (t.ctx c.val).atsWait = none ∧ bit (t.sq .ctxtab c.val 0x800) 20 = true ∧
      field (t.sq .ctxtab c.val 0x800) 15 0 = 0x3013) ∧
    ((s.ctx c.val).st = .destroying → ∃ t, exec (.atsCompletion c true) s = .next t ∧ (t.ctx c.val).st = .destroying ∧
      (t.ctx c.val).atsWait = none ∧ field (t.sq .ctxtab c.val 0x800) 15 0 = 0x3013)) ∧
  (∀ s : State, s.ready = true → s.pci.vfEnable = true →
    ∃ t, exec .vfEnableClear s = .next t ∧ t.pci.vfEnable = false ∧
      (∀ f : Fun, f.val ≠ 0 → t.fnEnabled f.val = false) ∧
      (∀ r w b, r.val ≠ 0 → r.val ≠ 32 → t.copyOf r w b = {})) ∧
  (∀ (f : Fun) (s : State), s.ready = true → s.fnEnabled f.val = true →
    ∃ t, exec (.functionLevelReset f) s = .next t ∧ Tab.get false t.pci.msixEnable f.val = false ∧
      (∀ r w b, r.val = f.val → t.copyOf r w b = {}) ∧
      (f.val = 0 → t.pci.vfEnable = false ∧ ∀ p o, p < 32 → o ∈ grantOffsets → t.cfg .puppeteer p o = 0))

/-- The life of a context (R137 to R142, R152, R155). A CREATE whose descriptor cannot be read at once stays BUSY. It
rests on choices of the model: log 17, 122, 141, 157. -/
def Obligations.ContextLife : Prop :=
  (∀ (r : MbxReq) (s : State) (k : Nat) (ws : List Word),
    s.asks r .ctxtab { num := 1, read := false, write := true, len := 2, follows := false } k true ws →
    ∃ t, exec (.createArg r) s = .next t ∧ t.arg r.req .ctxtab 1 0 = ws ∧ t.ctxs = s.ctxs ∧ t.mem = s.mem) ∧
  (∀ (r : MbxReq) (s : State) (k desc p : Nat) (ws : List Word),
    s.asks r .ctxtab { num := 2, read := true, write := false, len := 2, follows := false } k false ws →
    s.selPart r.req r.win = p → natOf (s.arg r.req .ctxtab 1 0) = desc →
    let code := fun (u : State) n => exec (.create r) s = .next (u.mbxBegin r .ctxtab 2 errDone [place n 24, 0])
    (s.grantedRange p desc 256 = false → code s 0x22) ∧
    (s.grantedRange p desc 256 = true → ∀ u, s.agentRead false desc 256 = some u → u.grantedRange p desc 256 = true →
      let d := u.cohRead desc 256
      (u.descAddrBad d desc p = true → code u 0x22) ∧
      (u.descAddrBad d desc p = false → descBad d desc p = true → code u 0x21) ∧
      (u.descAddrBad d desc p = false → descBad d desc p = false → u.freeCtxSlot p = none → code u 0x20) ∧
      (∀ i, u.descAddrBad d desc p = false → descBad d desc p = false → u.freeCtxSlot p = some i →
        ∃ t, exec (.create r) s = .next t ∧ (t.copyOf r.req r.win .ctxtab).result = (errDone, [place i 0, 0]) ∧
          t.ctx (u.ctxBase p + i) = ctxOf d desc p ∧ t.budget (u.ctxBase p + i) = leAt d 0x18 4 ∧
          t.works = u.works)) ∧
    (s.grantedRange p desc 256 = true → s.agentRead false desc 256 = none →
      ∃ t, exec (.create r) s = .next t ∧ (t.copyOf r.req r.win .ctxtab).todo = some [p, desc] ∧
        (t.copyOf r.req r.win .ctxtab).busy = true ∧ t.ctxs = s.ctxs)) ∧
  (∀ (r : MbxReq) (s : State) (c : Nat) (ws : List Word), s.asks r .ctxtab (wrItem 3 1) c true ws →
    (s.ctx c).st = .active ∨ (s.ctx c).st = .stopped →
    ∃ t, exec (.destroy r) s = .next t ∧ (t.ctx c).st = .destroying ∧ (t.ctx c).fetched = none ∧
      (∀ w ∈ t.works, w.ctx ≠ some c)) ∧
  (∀ (r : MbxReq) (s : State) (c : Nat) (ws : List Word), s.asks r .ctxtab (wrItem 3 1) c true ws →
    (s.ctx c).st ≠ .active → (s.ctx c).st ≠ .stopped →
    exec (.destroy r) s = .next (s.mbxBegin r .ctxtab 3 errDenied [])) ∧
  (∀ (c : CtxId) (s : State), (s.ctx c.val).st = .destroying → (s.ctx c.val).halted ≠ 0 →
    (s.ctx c.val).halted ≤ s.fr.ticks → (s.coresRan c.val).all (fun k => (s.core k).launch.isNone) = true →
    ∃ t, exec (.teardownClearStart c) s = .next t ∧ (t.ctx c.val).st = .clearing ∧ (t.ctx c.val).tlb = [] ∧
      (t.ctx c.val).ats = [] ∧
      (∀ k ∈ s.coresRan c.val, (t.core k).regs = [] ∧ (t.core k).scratch = [] ∧ (t.core k).l1 = [] ∧
        (t.core k).clearing = true) ∧ t.works = s.works ∧ t.mem = s.mem) ∧
  (∀ (c : CtxId) (s : State), (s.ctx c.val).st = .clearing →
    ∃ t, exec (.teardownClearDone c) s = .next t ∧ t.ctx c.val = {} ∧ t.budget c.val = 0 ∧
      (∀ k, (t.core k).clearFor = (s.core k).clearFor.filter (· ≠ c.val)) ∧ t.mem = s.mem ∧ t.works = s.works ∧
      t.sq .ctxtab c.val 0x800 = 0 ∧ t.evnum .ctxtab c.val 0x800 = s.evnum .ctxtab c.val 0x800) ∧
  (∀ (r : MbxReq) (s : State) (c : Nat) (ws : List Word), s.asks r .ctxtab (wrItem 4 1) c true ws →
    ((s.ctx c).st = .stopped → exec (.resume r) s = .next ((s.setCtx c { s.ctx c with st := .active }).mbxBegin r
      .ctxtab 4 errDone [])) ∧
    ((s.ctx c).st ≠ .stopped → exec (.resume r) s = .next (s.mbxBegin r .ctxtab 4 errDenied [])))

/-- VECTOR_ALU, SPECIAL_FUNCTION, CVT_F, CVT_BLK, CVT_WIDE and MSK_PACK (R168, R175, R241 to R251, R269): each issuing
thread's destination holds the result computed from the thread's registers before; every other register, and every other
thread, keeps its value. It rests on choices of the model: log 9, 20, 21, 22, 48, 49, 148, 155, 162, 163, 164. -/
def Obligations.VectorInstructions : Prop :=
  (∀ (b : Bundle) (ins : AluInstr) (s : State) (i : Issue) (lf : Leaf) (a : Nat),
    s.issues b (AluInstr.writes ins) (AluInstr.reads ins) .vector i lf a →
    ∃ t, exec (.vectorAlu b ins) s = .next t ∧
      (∀ x r, x ∈ i.threads → r < 256 →
        (t.core b.core.val).reg x r = ((s.core b.core.val).alu x ins).reg x r) ∧
      (∀ x p, x ∈ i.threads → p < 8 →
        (t.core b.core.val).pred x p = ((s.core b.core.val).alu x ins).pred x p) ∧
      (∀ x r, x ∉ i.threads → r < 256 → (t.core b.core.val).reg x r = (s.core b.core.val).reg x r) ∧
      (∀ x r, x ∈ i.threads → r ∈ AluInstr.writes ins →
        Tab.get 0 (t.core b.core.val).usable (depKey x r) = s.now + AluInstr.latency ins) ∧
      (∀ k, k ≠ b.core.val → t.core k = s.core k) ∧ t.mem = s.mem ∧ t.works = s.works) ∧
  (∀ (b : Bundle) (ins : AluInstr) (s : State) (i : Issue) (lf : Leaf) (a : Nat),
    s.bundleOf b = some i → s.xlate i.ctx b.pc.toNat .exec .core = .ok (lf, a) →
    (AluInstr.writes ins ++ AluInstr.reads ins).any (breaksRegs i.l.regs) = true →
    exec (.vectorAlu b ins) s = .next (s.coreFault b.core.val i.bslot 0 0x3002)) ∧
  (∀ (b : Bundle) (ins : AluInstr) (s : State) (i : Issue) (lf : Leaf) (a : Nat),
    s.issuesAny b (AluInstr.writes ins) (AluInstr.reads ins) .vector i lf a →
    s.power.coreFail.contains b.core.val = true →
    ∃ t, exec (.vectorAlu b ins) s = .next t ∧
      (∀ x r, x ∉ i.threads → r < 256 → (t.core b.core.val).reg x r = (s.core b.core.val).reg x r) ∧
      (∀ k, k ≠ b.core.val → t.core k = s.core k) ∧ t.mem = s.mem ∧ t.works = s.works) ∧
  (∀ (b : Bundle) (f : SpecialFn) (d a : VReg) (s : State) (i : Issue) (lf : Leaf) (z : Nat),
    s.issues b [d.val] [a.val] .vector i lf z →
    ∃ t, exec (.specialFunction b f d a) s = .next t ∧
      (∀ x, x ∈ i.threads → (t.core b.core.val).reg x d.val = special f ((s.core b.core.val).reg x a.val)) ∧
      (∀ x r, r < 256 → x ∉ i.threads ∨ r ≠ d.val →
        (t.core b.core.val).reg x r = (s.core b.core.val).reg x r) ∧ t.mem = s.mem) ∧
  (∀ (b : Bundle) (df sf : CvtFmt) (d a w : VReg) (s : State) (i : Issue) (lf : Leaf) (z : Nat),
    s.issues b [d.val] [a.val, w.val] .vector i lf z → CvtFmt.ok df = true → CvtFmt.ok sf = true →
    ∃ t, exec (.cvtF b df sf d a w) s = .next t ∧
      (∀ x, x ∈ i.threads → (t.core b.core.val).reg x d.val =
        (convert (CvtFmt.fmt? df) (CvtFmt.fmt? sf) ((s.core b.core.val).reg x a.val)).1) ∧
      (∀ x r, r < 256 → x ∉ i.threads ∨ r ≠ d.val →
        (t.core b.core.val).reg x r = (s.core b.core.val).reg x r) ∧ t.mem = s.mem) ∧
  (∀ (b : Bundle) (f : Fmt) (d v a : VReg) (bump : PReg) (w : VReg) (s : State) (i : Issue) (lf : Leaf) (z : Nat),
    s.issues b [d.val, v.val] [a.val, w.val, predNum bump] .vector i lf z → f.isNarrow = true →
    ∃ t, exec (.cvtBlk b f d v a bump w) s = .next t ∧
      (∀ p l, p ∈ i.sel → l ∈ lanesOf p.2.mask →
        let r := (s.core b.core.val).castOf f a.val bump.val p
        (d ≠ v → (t.core b.core.val).reg (thrOf p.1.gs l) d.val = BitVec.ofNat 32 (r.codes.getD l 0)) ∧
        (t.core b.core.val).reg (thrOf p.1.gs l) v.val = castWord r) ∧
      (∀ x r, r < 256 → x ∉ i.threads ∨ (r ≠ d.val ∧ r ≠ v.val) →
        (t.core b.core.val).reg x r = (s.core b.core.val).reg x r) ∧ t.mem = s.mem) ∧
  (∀ (b : Bundle) (f : Fmt) (d a v : VReg) (s : State) (i : Issue) (lf : Leaf) (z : Nat),
    s.issues b [d.val] [a.val, v.val] .vector i lf z → f.isNarrow = true →
    ∃ t, exec (.cvtWide b f d a v) s = .next t ∧
      (∀ x, x ∈ i.threads → (t.core b.core.val).reg x d.val =
        widen f ((s.core b.core.val).reg x a.val).toNat ((s.core b.core.val).reg x v.val).toNat) ∧
      (∀ x r, r < 256 → x ∉ i.threads ∨ r ≠ d.val →
        (t.core b.core.val).reg x r = (s.core b.core.val).reg x r) ∧ t.mem = s.mem) ∧
  (∀ (b : Bundle) (d : VReg) (p : PReg) (s : State) (i : Issue) (lf : Leaf) (z : Nat),
    s.issues b [d.val] [predNum p] .vector i lf z →
    ∃ t, exec (.mskPack b d p) s = .next t ∧
      (∀ q l, q ∈ i.sel → l ∈ lanesOf q.2.mask → (t.core b.core.val).reg (thrOf q.1.gs l) d.val =
        maskWhere (fun m => q.2.mask.getLsbD m && (s.core b.core.val).pred (thrOf q.1.gs m) p.val)) ∧
      (∀ x r, r < 256 → x ∉ i.threads ∨ r ≠ d.val →
        (t.core b.core.val).reg x r = (s.core b.core.val).reg x r) ∧ t.mem = s.mem)

/-- R168 in one thread: what each vector instruction that is neither a conversion nor a special function writes. It
rests on choices of the model: log 20, 21, 22, 148, 162, 163, 164. -/
def Obligations.AluResults : Prop :=
  ∀ (c : Core) (x : Nat) (d : VReg) (p : PReg) (a b e : Src),
    (∀ op, (c.alu x (.int op d a b)).reg x d.val = intOp op (c.src x a) (c.src x b)) ∧
    (∀ op, (c.alu x (.setp op p a b)).pred x p.val = cmpOp op (c.src x a) (c.src x b)) ∧
    (c.alu x (.add32 d a b)).reg x d.val = fadd (c.src x a) (c.src x b) ∧
    (c.alu x (.mul32 d a b)).reg x d.val = fmul (c.src x a) (c.src x b) ∧
    (c.alu x (.fma32 d a b e)).reg x d.val = ffma (c.src x a) (c.src x b) (c.src x e) ∧
    (c.alu x (.fmaBf16 d a b e)).reg x d.val = bf16Pair (c.src x a) (c.src x b) (c.src x e) ∧
    (∀ ins y r, y ≠ x → r < 256 → (c.alu x ins).reg y r = c.reg y r)

/-- BRANCH, YIELD_END and JOIN (R172 to R174, R180, R181): each lane goes to the target or to the next instruction, a
strand that has waited long enough runs on, and a complete record closes when its group is picked for the control port.
It rests on choices of the model: log 49, 51. -/
def Obligations.Divergence : Prop :=
  (∀ (o : One) (p : Option BranchPred) (target join : VAddr) (s : State) (i : Issue) (lf : Leaf) (z : Nat) (g : Group)
    (x : Strand), s.issues (oneBundle o) [] (p.toList.map (fun q => predNum q.p)) .control i lf z →
    i.sel = [(g, x)] →
    ∃ t h, exec (.branch o p target join) s = .next t ∧ (t.core o.core.val).group g.gs = some h ∧
      (∀ l, l < 32 → x.mask.getLsbD l = true → ∃ y ∈ h.strands, y.mask.getLsbD l = true ∧
        y.pc = if (takenOf (s.core o.core.val) g.gs x.mask p).getLsbD l then target.toNat else o.next.toNat) ∧
      (t.core o.core.val).regs = (s.core o.core.val).regs ∧ t.mem = s.mem) ∧
  (∀ (k : CoreId) (gs : GroupSlot) (pc : VAddr) (s : State) (g : Group) (x : Strand),
    (s.core k.val).group gs.val = some g → g.strands.find? (fun t => t.pc = pc.toNat && g.yieldOver s.now t) = some x →
    ∃ t h, exec (.yieldEnd k gs pc) s = .next t ∧ (t.core k.val).group gs.val = some h ∧
      (∃ y ∈ h.strands, y.mask &&& x.mask = x.mask ∧ y.pc = x.pc ∧ y.wait = .run) ∧
      (t.core k.val).regs = (s.core k.val).regs ∧ t.mem = s.mem) ∧
  (∀ (k : CoreId) (gs : GroupSlot) (s : State) (w : Work) (l : Launch) (g : Group) (r : Split),
    s.running k.val = some (w, l) → (s.core k.val).group gs.val = some g → g.splits.find? g.complete = some r →
    g.mayIssue s.now = true → (s.core k.val).clearTo ≤ s.now → (s.core k.val).ports.free .control s.now = true →
    s.outranked k.val l 0 g = false →
    ∃ t h, exec (.join k gs) s = .next t ∧ (t.core k.val).group gs.val = some h ∧ h.splits = g.splits.erase r ∧ h.issued = s.now + 1 ∧
      (t.core k.val).regs = (s.core k.val).regs ∧ t.mem = s.mem)

/-- BAR_SYNC, BAR_ARRIVE, BARRIER_MISMATCH, EXIT, SPECIAL_VALUE_READ and GROUP_PROMOTE (R161, R171, R176 to R178, R187):
an arrival is counted for each thread, and bar.sync parks it while another thread of its block has not arrived. It rests
on choices of the model: log 23, 49, 161. -/
def Obligations.BarriersAndControl : Prop :=
  (∀ (o : One) (id : Fin 16) (s : State) (i : Issue) (lf : Leaf) (z : Nat) (g : Group) (x : Strand),
    s.issues (oneBundle o) [] [] .control i lf z → i.sel = [(g, x)] →
    ∃ t, exec (.barSync o id) s = .next t ∧ t.mem = s.mem ∧
      t.core o.core.val = ((((s.core o.core.val).accept onControl s.now 1).setGroup (g.replace x
        [{ x with pc := o.next.toNat, wait := .parked id.val, held := none, issued := s.now + 1 }] s.now)).arrive g.bslot id.val
          ((lanesOf x.mask).map (fun l => 32 * g.gi + l)) true).settleBarrier g.bslot id.val) ∧
  (∀ (o : One) (id : Fin 16) (s : State) (i : Issue) (lf : Leaf) (z : Nat) (g : Group) (x : Strand),
    s.issues (oneBundle o) [] [] .control i lf z → i.sel = [(g, x)] →
    ∃ t, exec (.barArrive o id) s = .next t ∧ t.mem = s.mem ∧
      t.core o.core.val = ((((s.core o.core.val).accept onControl s.now 1).setGroup (g.replace x
        [{ x with pc := o.next.toNat, wait := .run, held := none, issued := s.now + 1 }] s.now)).arrive g.bslot id.val
          ((lanesOf x.mask).map (fun l => 32 * g.gi + l)) false).settleBarrier g.bslot id.val) ∧
  (∀ (c : Core) (b : Blk) (id : Nat) (ths : List Nat) (park : Bool) (th : Nat),
    c.block b.slot = some b → ths.Nodup → ths.all (· < 1024) = true → th ∈ ths →
    ∃ b', (c.arrive b.slot id ths park).block b.slot = some b' ∧ b'.count id th = b.count id th + 1 ∧
      (park = true → (id, th, b.count id th + 1) ∈ b'.parked)) ∧
  (∀ (k : CoreId) (slot : Fin 32) (id : Fin 16) (s : State) (b : Blk) (c : Nat),
    (s.core k.val).block slot.val = some b → (s.core k.val).mismatch b id.val = true → s.coreCtx k.val = some c →
    (s.ctx c).st = .active →
    ∃ t, exec (.barrierMismatch k slot id) s = .next t ∧ (t.ctx c).st = .stopped ∧
      field (t.sq .core k.val 0x804) 22 18 = slot.val ∧ field (t.sq .core k.val 0x804) 17 14 = id.val ∧
      field (t.sq .core k.val 0x804) 11 0 = 1) ∧
  (∀ (o : One) (s : State) (i : Issue) (lf : Leaf) (z : Nat) (g : Group) (x : Strand),
    s.issues (oneBundle o) [] [] .control i lf z → i.sel = [(g, x)] →
    ∃ t, exec (.exit o) s = .next t ∧ (g.strands = [x] → (t.core o.core.val).group g.gs = none) ∧
      (t.core o.core.val).regs = (s.core o.core.val).regs ∧ t.mem = s.mem) ∧
  (∀ (o : One) (v : SpecialVal) (d : VReg) (s : State) (i : Issue) (lf : Leaf) (z : Nat) (g : Group) (x : Strand)
    (b : Blk), s.issues (oneBundle o) [d.val] [] .control i lf z → i.sel = [(g, x)] →
    (s.core o.core.val).block g.bslot = some b →
    ∃ t, exec (.specialValueRead o v d) s = .next t ∧ t.mem = s.mem ∧
      (∀ l, l ∈ lanesOf x.mask → (t.core o.core.val).reg (thrOf g.gs l) d.val = BitVec.ofNat 32 (match v with
        | .lane => l | .quarter => l / 8 | .group => g.gi | .thread => 32 * g.gi + l | .block => b.no
        | .blockSlot => b.slot | .coreLocal => i.l.list.idxOf o.core.val
        | .scratchSlice => (128 * i.l.split - i.l.foot) / i.l.resident
        | .frameLo => s.fr.no.toNat | .frameCycle => s.fr.cycle))) ∧
  (∀ (k : CoreId) (gs : GroupSlot) (s : State) (w : Work) (l : Launch) (h : Group),
    s.running k.val = some (w, l) →
    (s.core k.val).nextPending (fun x => (s.core k.val).heldCause l (bit (s.cfg .array k.val 0x100) 1) s.now s.govLevel x = 0)
      s.now = some h → (s.core k.val).mayDemote gs.val = true → h.gs ≠ gs.val →
    (s.core k.val).promoted ≤ s.now →
    ∃ t, exec (.groupPromote k gs) s = .next t ∧
      (∀ g ∈ (t.core k.val).groups, g.gs = h.gs → g.active = true ∧ g.promoted = s.now + 2) ∧
      (∀ g ∈ (t.core k.val).groups, g.gs = gs.val → g.active = false) ∧
      (t.core k.val).regs = (s.core k.val).regs ∧ t.mem = s.mem)

/-- Scratch accesses, ordinary and atomic, and the return of a load (R164, R167, R170, R313, R314): a store is in
scratch at once; the value a load or an atomic returns reaches its register with LOAD_RETURN. It rests on choices of the
model: log 49, 50, 52, 145. -/
def Obligations.ScratchAccesses : Prop :=
  (∀ (b : Bundle) (size : MemSize) (sext : Bool) (d a : VReg) (s : State) (i : Issue) (lf : Leaf) (z : Nat)
    (rg : Bool) (as : List (Nat × Nat)), s.issues b [d.val] [a.val] .memory i lf z → as ≠ [] →
    let c := (s.core b.core.val).released i.l s.now
    c.scrAccess i.l i.bslot rg false (i.threads.map (fun x => (x, c.scrOff x a.val (MemSize.bytes size)))) = .ok as →
    s.portWins c = false →
    ∃ t, exec (.load b (if rg then .region else .scratch) size sext d a) s = .next t ∧
      (t.core b.core.val).ops = (c.overwrite i.threads [d.val]).ops ++ [{
        id := (s.core b.core.val).nextOp, ins := (s.core b.core.val).nextOp, bslot := i.bslot, thr := i.threads
        kind := .result (as.map (fun p =>
          (d.val, p.1, loadWord size sext ((s.core b.core.val).scrRead p.2 4)))) }] ∧
      (t.core b.core.val).scratch = (s.core b.core.val).scratch ∧ t.mem = s.mem) ∧
  (∀ (k : CoreId) (id : Nat) (s : State) (o : MemOp) (d x : Nat) (v : Word),
    (s.core k.val).ops.find? (·.id = id) = some o → o.kind = .result [(d, x, v)] → d < 256 →
    ∃ t, exec (.loadReturn k id) s = .next t ∧ (t.core k.val).reg x d = v ∧
      (∀ y r, r < 256 → y ≠ x ∨ r ≠ d → (t.core k.val).reg y r = (s.core k.val).reg y r) ∧
      (∀ q ∈ (t.core k.val).ops, q.id ≠ id) ∧ t.mem = s.mem) ∧
  (∀ (b : Bundle) (size : MemSize) (v a : VReg) (s : State) (i : Issue) (lf : Leaf) (z x p : Nat) (rg : Bool),
    s.issues b [] [v.val, a.val] .memory i lf z →
    let c := (s.core b.core.val).released i.l s.now
    c.scrAccess i.l i.bslot rg true (i.threads.map (fun x => (x, c.scrOff x a.val (MemSize.bytes size)))) =
      .ok [(x, p)] → s.portWins c = false →
    ∃ t, exec (.store b (if rg then .region else .scratch) size v a) s = .next t ∧
      (t.core b.core.val).scrRead p (MemSize.bytes size) =
        leBytes (MemSize.bytes size) ((s.core b.core.val).reg x v.val).toNat ∧
      (∀ q, q < p ∨ p + MemSize.bytes size ≤ q →
        (t.core b.core.val).scrRead q 1 = (s.core b.core.val).scrRead q 1) ∧ t.mem = s.mem) ∧
  (∀ (b : Bundle) (sp : ScrSpace) (d a cmp new : VReg) (s : State) (i : Issue) (lf : Leaf) (z x p : Nat),
    s.issues b [d.val] [a.val, cmp.val, new.val] .memory i lf z →
    let c := (s.core b.core.val).released i.l s.now
    c.scrAccess i.l i.bslot (ScrSpace.isRegion sp) true (i.threads.map (fun x => (x, c.scrOff x a.val 4))) =
      .ok [(x, p)] → s.portWins c = false →
    let old : Word := BitVec.ofNat 32 (leAt ((s.core b.core.val).scrRead p 4) 0 4)
    ∃ t, exec (.scrCas b sp d a cmp new) s = .next t ∧ t.mem = s.mem ∧
      (∀ q, q < p ∨ p + 4 ≤ q → (t.core b.core.val).scrRead q 1 = (s.core b.core.val).scrRead q 1) ∧
      (t.core b.core.val).regs = (s.core b.core.val).regs ∧
      (t.core b.core.val).scrRead p 4 = leBytes 4
        (if old = (s.core b.core.val).reg x cmp.val then (s.core b.core.val).reg x new.val else old).toNat ∧
      ((t.core b.core.val).ops.map (·.kind)).getLast? = some (.result [(d.val, x, old)])) ∧
  (∀ (b : Bundle) (sp : ScrSpace) (d a v : VReg) (s : State) (i : Issue) (lf : Leaf) (z x p : Nat),
    s.issues b [d.val] [a.val, v.val] .memory i lf z →
    let c := (s.core b.core.val).released i.l s.now
    c.scrAccess i.l i.bslot (ScrSpace.isRegion sp) true (i.threads.map (fun x => (x, c.scrOff x a.val 4))) =
      .ok [(x, p)] → s.portWins c = false →
    ∃ t, exec (.scrExch b sp d a v) s = .next t ∧ t.mem = s.mem ∧
      (∀ q, q < p ∨ p + 4 ≤ q → (t.core b.core.val).scrRead q 1 = (s.core b.core.val).scrRead q 1) ∧
      (t.core b.core.val).regs = (s.core b.core.val).regs ∧
      (t.core b.core.val).scrRead p 4 = leBytes 4 ((s.core b.core.val).reg x v.val).toNat ∧
      ((t.core b.core.val).ops.map (·.kind)).getLast? = some (.result [(d.val, x,
        BitVec.ofNat 32 (leAt ((s.core b.core.val).scrRead p 4) 0 4))])) ∧
  (∀ (b : Bundle) (sp : ScrSpace) (ty : DType) (a v : VReg) (s : State) (i : Issue) (lf : Leaf) (z x p : Nat),
    s.issues b [] [a.val, v.val] .memory i lf z →
    let c := (s.core b.core.val).released i.l s.now
    c.scrAccess i.l i.bslot (ScrSpace.isRegion sp) true
      (i.threads.map (fun x => (x, c.scrOff x a.val (DType.bytes ty)))) = .ok [(x, p)] → s.portWins c = false →
    ∃ t, exec (.scrAdd b sp ty a v) s = .next t ∧ t.mem = s.mem ∧
      (∀ q, q < p ∨ p + DType.bytes ty ≤ q → (t.core b.core.val).scrRead q 1 = (s.core b.core.val).scrRead q 1) ∧
      (t.core b.core.val).regs = (s.core b.core.val).regs ∧
      (t.core b.core.val).scrRead p (DType.bytes ty) = leBytes (DType.bytes ty)
        (addElem ty (BitVec.ofNat 32 (leAt ((s.core b.core.val).scrRead p (DType.bytes ty)) 0 (DType.bytes ty)))
          ((s.core b.core.val).reg x v.val)).toNat)


/-- ST_ADD, MEM_DEAD, MEM_FENCE and device LOAD and STORE (R310, R312, R313, R315, R316, R332, R336): what one access
finds in its L1, and the request it sends, through the request sorter (R170), where it finds nothing. It rests on
choices of the model: log 24, 48, 52, 53, 156, 165. -/
def Obligations.DeviceAccesses : Prop :=
  (∀ (b : Bundle) (ty : DType) (a v : VReg) (s q : State) (i : Issue) (lf l : Leaf) (z x p w : Nat),
    s.issues b [] [a.val, a.val + 1, v.val] .memory i lf z → q = s.holdTlb i.ctx b.pc.toNat lf → i.threads = [x] →
    q.xlateAll i.ctx .write [(x, (s.core b.core.val).devAddr x a.val (DType.bytes ty))] = .ok [(x, p, l)] →
    (s.core b.core.val).l1Find (p / 128) = none → (s.core b.core.val).pickWay (p / 128) = some (w, none) →
    (s.core b.core.val).miss.length < 256 →
    (∀ o ∈ (s.core b.core.val).ops, o.waitsOn (p / 128) = false) →
    (∀ m ∈ (s.core b.core.val).miss, m.line ≠ p / 128) →
    ∃ t n, exec (.stAdd b ty a v) s = .next t ∧ (t.core b.core.val).l1Find (p / 128) = some n ∧
      n.st = .red ∧ n.dt = ty ∧ n.way = w ∧ n.valid = sectorsOf [DType.bytes ty * (p % 128 / DType.bytes ty)] ∧
      n.data = addElems ty (List.replicate 128 0)
        [(p % 128 / DType.bytes ty, (s.core b.core.val).reg x v.val)] ∧
      (t.core b.core.val).joinsOf (p / 128) = (s.core b.core.val).joinsOf (p / 128) + 1 ∧
      t.up = (s.sendMiss b.core.val (p / 128) (.join ty)).up ∧ t.mem = s.mem ∧
      (t.core b.core.val).regs = (s.core b.core.val).regs) ∧
  (∀ (b : Bundle) (a n : VReg) (chk : Bool) (s q : State) (i : Issue) (lf l : Leaf) (z x p : Nat) (g : Group × Strand),
    s.issues b [] [a.val, a.val + 1, n.val] .memory i lf z → q = s.holdTlb i.ctx b.pc.toNat lf → i.sel = [g] →
    strandThreads g = [x] → leadOf g = x → ((s.core b.core.val).reg x n.val).toNat = 1 →
    q.xlateAll i.ctx .write [(x, (s.core b.core.val).devAddr x a.val 128)] = .ok [(x, p, l)] →
    (∀ o ∈ (s.core b.core.val).ops, o.waitsOn (p / 128) = false) →
    (∀ m ∈ (s.core b.core.val).miss, m.line ≠ p / 128) →
    ∃ t, exec (.memDead b a n chk) s = .next t ∧ (t.core b.core.val).l1Find (p / 128) = none ∧
      t.up = s.up ++ [⟨b.core.val, p / 128, .dead chk⟩] ∧
      (∃ o ∈ (t.core b.core.val).ops, o.kind = .dead (p / 128) chk true) ∧ t.mem = s.mem ∧
      (t.core b.core.val).regs = (s.core b.core.val).regs) ∧
  (∀ (b : Bundle) (m : Bool) (s : State) (i : Issue) (lf : Leaf) (z : Nat), s.issues b [] [] .memory i lf z →
    ∃ t, exec (.memFence b m) s = .next t ∧
      (t.core b.core.val).fences.getLast? =
        some { thr := i.threads, module := m, before := (s.core b.core.val).nextOp } ∧
      (t.core b.core.val).ops = (s.core b.core.val).ops ∧ (t.core b.core.val).regs = (s.core b.core.val).regs ∧
      t.mem = s.mem ∧ t.up = s.up) ∧
  (∀ (b : Bundle) (size : MemSize) (sext : Bool) (d a : VReg) (s q : State) (i : Issue) (lf l : Leaf) (z x p : Nat),
    s.issues b [d.val] [a.val, a.val + 1] .memory i lf z → q = s.holdTlb i.ctx b.pc.toNat lf → i.threads = [x] →
    q.xlateAll i.ctx .read [(x, (s.core b.core.val).devAddr x a.val (MemSize.bytes size))] = .ok [(x, p, l)] →
    (∀ o ∈ (s.core b.core.val).ops, o.waitsOn (p / 128) = false) →
    (∀ m ∈ (s.core b.core.val).miss, m.line ≠ p / 128) →
    (∀ n, (s.core b.core.val).l1Find (p / 128) = some n → n.st ≠ .red → sectorsOf [p] &&& ~~~n.valid = 0 →
      ∃ t, exec (.load b .device size sext d a) s = .next t ∧ t.up = s.up ∧ t.mem = s.mem ∧
        (∃ o ∈ (t.core b.core.val).ops, o.thr = [x] ∧
          o.kind = .load d.val size sext [] [(x, loadWord size sext (bytesAt n.data (p % 128) 4))]) ∧
        (t.core b.core.val).regs = (s.core b.core.val).regs) ∧
    (∀ w, (s.core b.core.val).l1Find (p / 128) = none → (s.core b.core.val).pickWay (p / 128) = some (w, none) →
      (s.core b.core.val).miss.length < 256 →
      ∃ t, exec (.load b .device size sext d a) s = .next t ∧ t.mem = s.mem ∧
        t.up = (s.sendMiss b.core.val (p / 128) (.rd (sectorsOf [p]) (s.coreCtx b.core.val))).up ∧
        (t.core b.core.val).miss = (s.core b.core.val).miss ++
          [⟨p / 128, w, .rd (sectorsOf [p]), { ctx := s.coreCtx b.core.val, bslot := i.bslot }⟩])) ∧
  (∀ (b : Bundle) (size : MemSize) (v a : VReg) (s q : State) (i : Issue) (lf l : Leaf) (z x p : Nat),
    s.issues b [] [v.val, a.val, a.val + 1] .memory i lf z → q = s.holdTlb i.ctx b.pc.toNat lf → i.threads = [x] →
    q.xlateAll i.ctx .write [(x, (s.core b.core.val).devAddr x a.val (MemSize.bytes size))] = .ok [(x, p, l)] →
    p % 128 + MemSize.bytes size ≤ 128 →
    (∀ o ∈ (s.core b.core.val).ops, o.waitsOn (p / 128) = false) →
    (∀ m ∈ (s.core b.core.val).miss, m.line ≠ p / 128) →
    (∀ n, (s.core b.core.val).l1Find (p / 128) = some n → n.st = .m ∨ (n.st = .e ∧ n.valid = 0xF) →
      n.data.length = 128 →
      ∃ t m, exec (.store b .device size v a) s = .next t ∧ t.up = s.up ∧ t.mem = s.mem ∧
        (t.core b.core.val).l1Find (p / 128) = some m ∧ m.st = .m ∧
        m.data = overlay n.data (p % 128) (leBytes (MemSize.bytes size) ((s.core b.core.val).reg x v.val).toNat)) ∧
    (∀ w, (s.core b.core.val).l1Find (p / 128) = none → (s.core b.core.val).pickWay (p / 128) = some (w, none) →
      (s.core b.core.val).miss.length < 256 →
      ∃ t, exec (.store b .device size v a) s = .next t ∧ t.mem = s.mem ∧
        t.up = (s.sendMiss b.core.val (p / 128) .own).up)) ∧
  (∀ (s : State) (k line : Nat) (b : UpBody),
    (s.sendMiss k line b).up.Perm (s.up ++ [⟨k, line, b⟩]) ∧
    (s.sendMiss k line b).up.filter (fun m => m.core = k && m.line = line) =
      s.up.filter (fun m => m.core = k && m.line = line) ++ [⟨k, line, b⟩])

/-- LD_CMP, MR_PUT, SP_SEGSET, SP_TAKE, RNG_CTR and RNG_STR (R283, R294 to R296, R298, R300, R302, R479, R480). It rests
on choices of the model: log 26, 49, 65, 106, 169. -/
def Obligations.SparseAndRandomInstructions : Prop :=
  (∀ (b : Bundle) (sp : MemSpace) (nz : Bool) (f : Fmt) (d j tl row blk : VReg) (s q : State) (i : Issue) (lf : Leaf)
    (z : Nat) (vals : List (Nat × Nat × Word)) (ps : List SrcPart) (u : State),
    s.issues b [d.val, j.val] ([tl.val, row.val, blk.val] ++ (if sp = .device then [tl.val + 1] else [])) .memory i lf z →
    f ≠ .fp32 → q = s.holdTlb i.ctx b.pc.toNat lf →
    eachStrand (q.cmpStrand b.core.val i sp nz f d.val j.val tl.val row.val blk.val) i.sel = .ok vals ps →
    q.agentReads true (ps.map (fun p => (p.addr, p.len))) = some u →
    ∃ t, exec (.ldCmp b sp nz f d j tl row blk) s = .next t ∧
      ((t.core b.core.val).ops.map (·.kind)).getLast? = some (.result vals) ∧
      (t.core b.core.val).scratch = (s.core b.core.val).scratch ∧
      (t.core b.core.val).regs = (s.core b.core.val).regs ∧ t.mem = u.mem ∧ (ps = [] → t.mem = s.mem)) ∧
  (∀ (r : CmpRow) (f : Fmt) (blk l : Nat) (v : List Byte), l < 32 →
    ((32 * blk + l ∈ r.present →
      (r.lanes f false blk v).getD l (0, 0) = (BitVec.ofNat 32 (elemAt f v (r.present.idxOf (32 * blk + l))), 1)) ∧
    (32 * blk + l ∉ r.present → (r.lanes f false blk v).getD l (0, 0) = (0, 0)))) ∧
  (∀ (b : Bundle) (ty : DType) (base j v : VReg) (s q : State) (i : Issue) (lf l : Leaf) (z x p y : Nat),
    s.issues b [] [base.val, base.val + 1, j.val, v.val] .memory i lf z → q = s.holdTlb i.ctx b.pc.toNat lf →
    (s.core b.core.val).putAddrs i ty base.val j.val = [(x, y)] →
    q.xlateAll i.ctx .write [(x, y)] = .ok [(x, p, l)] → homeDie (p / 128) < 4 →
    let e := entryOf i.work ty p ((s.core b.core.val).reg x v.val)
    (((q.holdAll i.ctx [(x, y)]).putEntries i.work.part [e]).2 = true →
      (s.marble (homeDie (p / 128))).fill.length + 1 < 65536 →
      ∃ t, exec (.mrPut b ty base j v) s = .next t ∧
        (t.marble (homeDie (p / 128))).fill = (s.marble (homeDie (p / 128))).fill ++ [e] ∧
        (t.marble (homeDie (p / 128))).closed = (s.marble (homeDie (p / 128))).closed ∧
        (∀ d, d ≠ homeDie (p / 128) → t.marble d = s.marble d) ∧
        t.work i.work.id = some { i.work with job := .launch { i.l with puts := true } } ∧ t.mem = s.mem) ∧
    (((q.holdAll i.ctx [(x, y)]).putEntries i.work.part [e]).2 = false →
      ∃ t, exec (.mrPut b ty base j v) s = .next t ∧ t.works = s.works ∧ t.mem = s.mem ∧
        (∀ d, (t.marble d).fill = (s.marble d).fill ∧ (t.marble d).closed = (s.marble d).closed))) ∧
  (∀ (b : Bundle) (base rows : VReg) (s q : State) (i : Issue) (lf : Leaf) (z x r : Nat) (g : Group × Strand)
    (v w : List Byte) (ps qs : List SrcPart),
    let k := b.core.val
    let n := i.l.localOf k
    let a := (s.core k).reg64 x base.val % 2 ^ 48
    let lo := n * r / i.l.list.length
    let hi := (n + 1) * r / i.l.list.length
    s.issues b [] [base.val, base.val + 1, rows.val] .memory i lf z → q = s.holdTlb i.ctx b.pc.toNat lf →
    Tab.get none i.l.lanes n = none → i.sel = [g] → leadOf g = x → ((s.core k).reg x rows.val).toNat = r →
    q.devSrc k i (a + 4 * lo) 4 = .ok v ps → q.devSrc k i (a + 4 * hi) 4 = .ok w qs →
    (hi = lo + 1 → leAt w 0 4 < leAt v 0 4 → exec (.spSegset b base rows) s =
      .next ((q.walkParts i (ps ++ qs)).coreFault k i.bslot 0 0x300A)) ∧
    (¬(hi = lo + 1 ∧ leAt w 0 4 < leAt v 0 4) →
      (q.agentReads true ((ps ++ qs).map (fun p => (p.addr, p.len)))).isSome = true → ∃ t, exec (.spSegset b base rows) s = .next t ∧
      t.work i.work.id = some { i.work with job := .launch { i.l with
        lanes := Tab.set none i.l.lanes n (some { base := a, lo := lo, hi := hi }) } } ∧
      (t.core k).regs = (s.core k).regs)) ∧
  (∀ (b : Bundle) (d p n : VReg) (s q : State) (i : Issue) (lf : Leaf) (z : Nat) (lane : SegLane)
    (ps : List SrcPart), s.issues b [d.val, p.val, n.val] [] .memory i lf z → q = s.holdTlb i.ctx b.pc.toNat lf →
    Tab.get none i.l.lanes (i.l.localOf b.core.val) = some lane →
    (q.agentReads true (ps.map (fun p => (p.addr, p.len)))).isSome = true →
    (∀ v row pos cnt x, q.takeSeg b.core.val i lane = .ok (some (v, (row, pos, cnt), x)) ps →
      ∃ t, exec (.spTake b d p n) s = .next t ∧
        t.work i.work.id = some { i.work with job := .launch { i.l with
          lanes := Tab.set none i.l.lanes v (some x) } } ∧
        ((t.core b.core.val).ops.map (·.kind)).getLast? = some (.result (i.threads.flatMap (fun y =>
          [(d.val, y, BitVec.ofNat 32 row), (p.val, y, BitVec.ofNat 32 pos), (n.val, y, BitVec.ofNat 32 cnt)])))) ∧
    (q.takeSeg b.core.val i lane = .ok none ps → ∃ t vals, exec (.spTake b d p n) s = .next t ∧ t.works = s.works ∧
      ((t.core b.core.val).ops.map (·.kind)).getLast? = some (.result vals) ∧
      (n ≠ d → n ≠ p → ∀ e ∈ vals, e.1 = n.val → e.2.2 = 0))) ∧
  (∀ (s : State) (k first n : Nat) (i : Issue) (ps : List SrcPart) (f : Nat) (p : SegLane), p.lo + 1 < p.hi →
    s.rowNonzeros k i p.base p.lo = .ok (first, n) ps → p.taken < ceilDiv n 256 →
    ∃ qs, s.segFront k i (f + 1) p = .ok
      (some (p.lo, first + 256 * p.taken, min 256 (n - 256 * p.taken)), { p with taken := p.taken + 1 }) qs) ∧
  (∀ (b : Bundle) (d tl e : VReg) (s : State) (i : Issue) (lf : Leaf) (z : Nat),
    s.issues b [d.val] [tl.val, e.val] .vector i lf z → s.inHold .rng i.work.part = false →
    ∃ t, exec (.rngCtr b d tl e) s = .next t ∧
      (∀ x, x ∈ i.threads → (t.core b.core.val).reg x d.val = ctrDraw (s.kpart i.work.part).seed
          (s.stepOf i.work.part s.fr.no) ((s.core b.core.val).reg x e.val) ((s.core b.core.val).reg x tl.val) ∧
        Tab.get 0 (t.core b.core.val).usable (depKey x d.val) = s.now + 12) ∧
      (∀ x r, r < 256 → x ∉ i.threads ∨ r ≠ d.val →
        (t.core b.core.val).reg x r = (s.core b.core.val).reg x r) ∧ t.mem = s.mem ∧ t.kparts = s.kparts) ∧
  (∀ (b : Bundle) (d : VReg) (st : Fin 4) (s : State) (i : Issue) (lf : Leaf) (z : Nat),
    s.issues b [d.val] [] .memory i lf z →
    (bit (s.cfg .rng i.work.part 0x100) 0 = false → exec (.rngStr b d st) s =
      .next ((s.holdTlb i.ctx b.pc.toNat lf).coreFault b.core.val i.bslot 0 0x3002)) ∧
    (bit (s.cfg .rng i.work.part 0x100) 0 = true → s.inHold .rng i.work.part = false →
      (s.kpart i.work.part).pos.length = 4 →
      ∃ t, exec (.rngStr b d st) s = .next t ∧
        (t.kpart i.work.part).pos.getD st.val 0 =
          (s.kpart i.work.part).pos.getD st.val 0 + BitVec.ofNat 64 i.threads.length ∧
        (∀ j, j ≠ st.val → (t.kpart i.work.part).pos.getD j 0 = (s.kpart i.work.part).pos.getD j 0) ∧
        (∀ x ∈ i.threads.zipIdx, (t.core b.core.val).reg x.1 d.val = strDraw (s.kpart i.work.part).seed st.val
          ((s.kpart i.work.part).pos.getD st.val 0 + BitVec.ofNat 64 x.2)) ∧
        (∀ x r, r < 256 → x ∉ i.threads ∨ r ≠ d.val →
          (t.core b.core.val).reg x r = (s.core b.core.val).reg x r) ∧ t.mem = s.mem))

/-- The requests of a core at its slice (R322 to R327): how each row of the transition table takes a line that no other
operation holds. It rests on choices of the model: log 54, 55, 56, 141, 165. -/
def Obligations.CoreRequests : Prop :=
  (∀ (k : CoreId) (n : Line) (s : State) (l : LLine) (m : BitVec 4) (c : Option Nat),
    s.sends k.val n.toNat (.rd m c) → l.line = n.toNat → s.calm l →
    (l.idleS → m &&& ~~~l.sect = 0 →
      ∃ t, exec (.rd k n) s = .next t ∧ s.actsAt t n.toNat ∧ t.up = s.up.erase ⟨k.val, n.toNat, .rd m c⟩ ∧
        t.lline n.toNat = some { l with st := .e, ptr := true, holders := k.val, used := s.nextUse n.toNat } ∧
        t.dn = s.dn ++ [⟨k.val, n.toNat, .fill .e m l.data⟩]) ∧
    (l.idleS → m &&& ~~~l.sect ≠ 0 → s.hbmBusy n.toNat = false →
      ∃ t, exec (.rd k n) s = .next t ∧ s.actsAt t n.toNat ∧ t.dn = s.dn ∧
        t.lline n.toNat = some { l with
          used := s.nextUse n.toNat, op := some { req := .rd k.val m c, phase := .fill [.rd k.val m c], wait := [] } } ∧
        t.hbm.nreq = s.hbm.nreq ++
          [{ line := n.toNat, sect := m &&& ~~~l.sect, write := false, merge := false, since := s.now }]) ∧
    (l.st = .red → ∃ t, exec (.rd k n) s = .next t ∧ s.actsAt t n.toNat ∧ t.dn = s.dn ∧
        t.lline n.toNat = some { l with
          used := s.nextUse n.toNat, op := some { req := .rd k.val m c, phase := .mergeWait } })) ∧
  (∀ (k : CoreId) (n : Line) (s : State) (l : LLine), s.sends k.val n.toNat .own → l.line = n.toNat → s.calm l →
    l.idleS → l.sect = 0xF →
    ∃ t, exec (.own k n) s = .next t ∧ s.actsAt t n.toNat ∧
      t.lline n.toNat = some { l with st := .m, ptr := true, holders := k.val, used := s.nextUse n.toNat } ∧
      t.dn = s.dn ++ [⟨k.val, n.toNat, .fill .m 0xF l.data⟩]) ∧
  (∀ (k : CoreId) (n : Line) (s : State) (l : LLine), s.sends k.val n.toNat .ownFull → l.line = n.toNat → s.calm l →
    l.idleS →
    ∃ t, exec (.ownFull k n) s = .next t ∧ s.actsAt t n.toNat ∧ t.hbm = s.hbm ∧
      t.lline n.toNat = some { l with st := .m, ptr := true, holders := k.val, used := s.nextUse n.toNat } ∧
      t.dn = s.dn ++ [⟨k.val, n.toNat, .fill .m 0xF l.data⟩]) ∧
  (∀ (k : CoreId) (n : Line) (s : State) (l : LLine) (ty : DType), s.sends k.val n.toNat (.join ty) →
    l.line = n.toNat → s.calm l → l.st = .red → l.dt = ty →
    ∃ t, exec (.joinRequest k n) s = .next t ∧ s.actsAt t n.toNat ∧
      t.lline n.toNat = some { (l.addHolder k.val) with used := s.nextUse n.toNat } ∧
      t.dn = s.dn ++ [⟨k.val, n.toNat, .joinAck⟩]) ∧
  (∀ (k : CoreId) (n : Line) (s : State) (m : DnMsg), s.dnFirst k.val n.toNat = some m → m.body = .joinAck →
    (∀ o ∈ (s.core k.val).ops, o.lines = []) →
    ∃ t, exec (.joinAck k n) s = .next t ∧ t.dn = s.dn.erase m ∧
      (t.core k.val).joinsOf n.toNat = (s.core k.val).joinsOf n.toNat - 1 ∧
      (∀ o ∈ (t.core k.val).ops, o.kind ≠ .join n.toNat 0) ∧
      (∀ o ∈ (s.core k.val).ops, o.kind ≠ .join n.toNat 1 → o.kind ≠ .join n.toNat 0 →
        ∃ p ∈ (t.core k.val).ops, p.id = o.id ∧ p.thr = o.thr) ∧
      (t.core k.val).l1 = (s.core k.val).l1 ∧ t.mem = s.mem) ∧
  (∀ (k : CoreId) (n : Line) (s : State) (l : LLine) (d : List Byte),
    s.upFirst k.val n.toNat = some ⟨k.val, n.toNat, .wbd d⟩ → l.line = n.toNat → s.calm l →
    l.st = .e ∨ l.st = .m → l.ptr = true → l.holders = k.val →
    ∃ t, exec (.wbd k n) s = .next t ∧ s.actsAt t n.toNat ∧ t.dn = s.dn ∧
      t.lline n.toNat = some { l with st := .s, ptr := false, holders := 0, dirty := true, sect := 0xF, data := d,
                                      used := s.nextUse n.toNat }) ∧
  (∀ (k : CoreId) (n : Line) (s : State) (l : LLine) (ty : DType) (m : BitVec 4) (d : List Byte),
    s.upFirst k.val n.toNat = some ⟨k.val, n.toNat, .wbr ty m d⟩ → l.line = n.toNat → s.calm l →
    l.st = .red → l.dt = ty → l.ptr = true → l.holders = k.val →
    ∃ t, exec (.wbr k n) s = .next t ∧ s.actsAt t n.toNat ∧ t.dn = s.dn ∧
      t.lline n.toNat = some { l with ptr := false, holders := 0, sect := l.sect ||| m,
                                      data := addDelta ty m l.data d, used := s.nextUse n.toNat }) ∧
  (∀ (k : CoreId) (n : Line) (s : State) (l : LLine) (chk : Bool), s.sends k.val n.toNat (.dead chk) →
    l.line = n.toNat → s.calm l → l.idleS →
    ∃ t, exec (.deadRequest k n) s = .next t ∧ t.dn = s.dn ∧ t.mem = s.mem ∧
      t.lline n.toNat = some { l.fresh with st := .dead, chk := chk, used := s.nextUse n.toNat } ∧
      t.core k.val = (s.core k.val).deadAccepted n.toNat)

/-- The requests of agents and of the slice itself (R317, R318, R325, R329): ARD supplies the LLC's data, AWR leaves the
line dirty, AADD adds into a RED line and makes one of a clean line, and a victim leaves with its dirty sectors in HBM.
It rests on choices of the model: log 47, 141. -/
def Obligations.AgentRequests : Prop :=
  (∀ (a : Agent) (c : Option CtxId) (n : Line) (m : BitVec 4) (s : State) (l : LLine),
    s.homed n.toNat = true → s.accepts n.toNat = true → l.line = n.toNat → s.calm l → l.idleS →
    m &&& ~~~l.sect = 0 →
    ∃ t, exec (.ard a c n m) s = .next t ∧ s.actsAt t n.toNat ∧ t.dn = s.dn ∧
      t.out = .agentData a n.toNat (mergeSectors m l.data (List.replicate 128 0)) :: s.out ∧
      t.lline n.toNat = some { l with used := s.nextUse n.toNat }) ∧
  (∀ (a : AgentFor) (n : Line) (off : Fin 128) (bs : List Byte) (s : State) (l : LLine),
    s.homed n.toNat = true → s.accepts n.toNat = true → l.line = n.toNat → s.calm l → l.idleS → l.sect = 0xF →
    l.data.length = 128 → off.val + bs.length ≤ 128 →
    ∃ t, exec (.awr a n off bs) s = .next t ∧ s.actsAt t n.toNat ∧ t.dn = s.dn ∧
      t.lline n.toNat = some { l with
        dirty := true, chk := false, data := overlay l.data off.val bs, used := s.nextUse n.toNat }) ∧
  (∀ (a : Agent) (n : Line) (ty : DType) (es : List (Fin 64 × Word)) (s : State) (l : LLine),
    s.homed n.toNat = true → s.accepts n.toNat = true → l.line = n.toNat → s.calm l →
    (∀ e ∈ es, DType.bytes ty * e.1.val < 128) →
    let xs := es.map (fun e => (e.1.val, e.2))
    (l.st = .red → l.dt = ty →
      ∃ t, exec (.aadd a n ty es) s = .next t ∧ s.actsAt t n.toNat ∧ t.lline n.toNat = some { l with
        sect := l.sect ||| elemSectors ty xs, data := addElems ty l.data xs, used := s.nextUse n.toNat }) ∧
    (l.idleS → l.dirty = false →
      ∃ t, exec (.aadd a n ty es) s = .next t ∧ s.actsAt t n.toNat ∧ t.lline n.toNat = some { l with
        st := .red, dirty := false, chk := false, dt := ty, sect := elemSectors ty xs
        data := addElems ty (List.replicate 128 0) xs, used := s.nextUse n.toNat })) ∧
  (∀ (d : DieId) (set : Fin 32768) (s : State) (l : LLine) (line : Nat) (r : LReq),
    (s.slice d.val).waitq = [(line, r)] → llcSet line = set.val → (s.slice d.val).victim set.val = some l →
    (∀ x ∈ (s.slice d.val).lines, x.op = none) →
    exec (.vict d set) s = .next ((s.perform l .vict).ended l.line)) ∧
  (∀ (s : State) (l : LLine), s.lline l.line = some l → l.idleS → l.op = none →
    (s.perform l .vict).lline l.line = none ∧
    (s.perform l .vict).mem = (if l.dirty then (s.hbmWrite l.line l.sect l.data).mem else s.mem) ∧
    (s.perform l .vict).dn = s.dn) ∧
  (∀ (s : State) (line i : Nat) (m : BitVec 4) (d : List Byte), i < 4 →
    (m.getLsbD i = true → (s.hbmWrite line m d).memRead (128 * line + 32 * i) 32 = bytesAt d (32 * i) 32) ∧
    (m.getLsbD i = false →
      (s.hbmWrite line m d).memRead (128 * line + 32 * i) 32 = s.memRead (128 * line + 32 * i) 32))

/-- The answers of a core (R316, R324) and of its slice to them: what each L1 state gives to SHARE, INVAL and DISCARD,
and how an answer with data ends an OWN that waited for it. It rests on choices of the model: log 56. -/
def Obligations.SnoopsAndFills : Prop :=
  (∀ (k : CoreId) (n : Line) (s : State) (m : DnMsg) (l : L1Line), s.dnFirst k.val n.toNat = some m →
    m.body = .share → (s.core k.val).l1Find n.toNat = some l → l.line = n.toNat → l.st ≠ .red →
    ∃ t, exec (.snoopShare k n) s = .next t ∧ t.dn = s.dn.erase m ∧ t.mem = s.mem ∧ t.slices = s.slices ∧
      (t.core k.val).l1Find n.toNat = some { l with st := .s } ∧
      t.up = s.up ++ [⟨k.val, n.toNat, if l.st = .m then .answer l.data else .empty⟩]) ∧
  (∀ (k : CoreId) (n : Line) (s : State) (m : DnMsg) (l : L1Line), s.dnFirst k.val n.toNat = some m →
    m.body = .inval → (s.core k.val).l1Find n.toNat = some l →
    ∃ t, exec (.snoopInval k n) s = .next t ∧ t.dn = s.dn.erase m ∧ t.mem = s.mem ∧ t.slices = s.slices ∧
      (t.core k.val).l1Find n.toNat = none ∧
      t.up = s.up ++ [⟨k.val, n.toNat, if l.st = .m then .answer l.data
        else if l.st = .red then .delta l.dt l.valid l.data else .empty⟩]) ∧
  (∀ (k : CoreId) (n : Line) (s : State) (m : DnMsg), s.dnFirst k.val n.toNat = some m → m.body = .discard →
    let stays := ((s.core k.val).l1Find n.toNat).any (fun l => l.st = .red) = true ∧ (s.core k.val).joinOut n.toNat = true
    ∃ t, exec (.snoopDiscard k n) s = .next t ∧ t.dn = s.dn.erase m ∧ t.mem = s.mem ∧ t.slices = s.slices ∧
      (¬stays → (t.core k.val).l1Find n.toNat = none) ∧ (stays → t.core k.val = s.core k.val) ∧
      t.up = s.up ++ [⟨k.val, n.toNat, .ack⟩]) ∧
  (∀ (k : CoreId) (n : Line) (s : State) (l : LLine) (j : Nat) (d : List Byte),
    s.upFirst k.val n.toNat = some ⟨k.val, n.toNat, .answer d⟩ → l.line = n.toNat →
    s.inOp l (.own j) .snoop [k.val] →
    ∃ t, exec (.snoopAnswer k n) s = .next t ∧ s.actsAt t n.toNat ∧
      t.lline n.toNat = some { l with st := .m, ptr := true, holders := j, dirty := true, sect := 0xF, data := d,
                                      op := none } ∧
      t.dn = s.dn ++ [⟨j, n.toNat, .fill .m 0xF d⟩]) ∧
  (∀ (n : Line) (s : State) (l : LLine) (k : Nat) (m : BitVec 4) (c : Option Nat), l.line = n.toNat →
    s.inOp l (.rd k m c) (.fill [.rd k m c]) [] → l.ptr = false → l.holders = 0 →
    s.hbmBusy n.toNat = false → s.badSectors n.toNat = 0 →
    let data := mergeSectors (m &&& ~~~l.sect) (s.hbmLine n.toNat) l.data
    ∃ t, exec (.fillArrive n) s = .next t ∧ s.actsAt t n.toNat ∧
      t.lline n.toNat = some { l with st := .e, ptr := true, holders := k, sect := l.sect ||| m, data := data,
                                      op := none } ∧
      t.dn = s.dn ++ [⟨k, n.toNat, .fill .e m data⟩]) ∧
  (∀ (k : CoreId) (n : Line) (s : State) (st : L1St) (sect : BitVec 4) (data : List Byte) (x : Miss),
    s.dnFirst k.val n.toNat = some ⟨k.val, n.toNat, .fill st sect data⟩ →
    (s.core k.val).miss.find? (·.line = n.toNat) = some x → x.kind ≠ .ownFull → sect ≠ 0 →
    wayIn (s.core k.val).split x.way = false → (∀ o ∈ (s.core k.val).ops, o.lines = []) →
    ∃ t, exec (.fillDeliver k n) s = .next t ∧ t.dn = s.dn.erase ⟨k.val, n.toNat, .fill st sect data⟩ ∧
      (t.core k.val).l1Find n.toNat =
        some { line := n.toNat, way := x.way, st := st, valid := sect, data := data } ∧
      (t.core k.val).miss = (s.core k.val).miss.erase x ∧ t.up = s.up ∧ t.mem = s.mem)

/-- CONVERSION_COMPLETE, MERGE_START and MERGE_COMPLETE (R314, R326 to R328): a join gets a RED line of zeros over what
HBM holds; a merge invalidates every holder, and its end leaves HBM with the delta added. -/
def Obligations.ConversionAndMerge : Prop :=
  (∀ (n : Line) (s : State) (l : LLine) (k : Nat) (ty : DType), l.line = n.toNat →
    s.inOp l (.join k ty) .conv [] →
    ∃ t, exec (.conversionComplete n) s = .next t ∧
      t.lline n.toNat = some { l with st := .red, ptr := true, holders := k, dirty := false, chk := false, dt := ty,
                                      sect := 0, data := List.replicate 128 0, op := none } ∧
      t.mem = (if l.dirty then (s.hbmWrite n.toNat l.sect l.data).mem else s.mem) ∧
      t.dn = s.dn ++ [⟨k, n.toNat, .joinAck⟩]) ∧
  (∀ (n : Line) (s : State) (l : LLine) (r : LReq), l.line = n.toNat → s.lline n.toNat = some l →
    l.op = some { req := r, phase := .mergeWait } → (s.slice (homeDie n.toNat)).merges.length < 64 →
    ∃ t, exec (.mergeStart n) s = .next t ∧ s.actsAt t n.toNat ∧
      t.lline n.toNat = some { l with st := .merging, op := some {
        req := r, phase := .merging (s.slice (homeDie n.toNat)).merges.length, wait := l.targets } } ∧
      (t.slice (homeDie n.toNat)).merges = (s.slice (homeDie n.toNat)).merges ++ [n.toNat] ∧
      t.dn = s.dn ++ l.targets.map (fun k => ⟨k, n.toNat, .inval⟩) ∧
      (s.hbmBusy n.toNat = false → l.sect ≠ 0 → t.hbm.nreq = s.hbm.nreq ++
        [{ line := n.toNat, sect := l.sect, write := false, merge := true, since := s.now }])) ∧
  (∀ (n : Line) (s : State) (l : LLine) (i : Nat), l.line = n.toNat → s.inOp l (.wb false) (.merging i) [] →
    (s.slice (homeDie n.toNat)).merges.head? = some n.toNat → s.hbmBusy n.toNat = false →
    s.badSectors n.toNat = 0 →
    let v := addDelta l.dt l.sect (s.hbmLine n.toNat) l.data
    ∃ t, exec (.mergeComplete n) s = .next t ∧ t.dn = s.dn ∧ t.mem = (s.hbmWrite n.toNat l.sect v).mem ∧
      t.lline n.toNat = some { l with st := .s, ptr := false, holders := 0, dirty := false, chk := false, data := v,
                                      op := none } ∧
      (t.slice (homeDie n.toNat)).merges = (s.slice (homeDie n.toNat)).merges.drop 1)

/-- R314 for the element e of a delta: where its sector is masked the old value gets the delta's element added, and
elsewhere it stays. -/
def Obligations.DeltaAddsByElement : Prop :=
  ∀ (ty : DType) (m : BitVec 4) (old delta : List Byte) (e : Nat), DType.bytes ty * e < 128 → old.length = 128 →
    (addDelta ty m old delta).length = 128 ∧
    leAt (addDelta ty m old delta) (DType.bytes ty * e) (DType.bytes ty) =
      if m.getLsbD (DType.bytes ty * e / 32) then
        (addElem ty (BitVec.ofNat 32 (leAt old (DType.bytes ty * e) (DType.bytes ty)))
          (BitVec.ofNat 32 (leAt delta (DType.bytes ty * e) (DType.bytes ty)))).toNat % 2 ^ (8 * DType.bytes ty)
      else leAt old (DType.bytes ty * e) (DType.bytes ty)

/-- The items of LLC and DIR and the write-back scan (R339 to R341). It rests on choices of the model: log 57. -/
def Obligations.LlcItems : Prop :=
  (∀ (r : MbxReq) (s : State) (k : Nat) (ws : List Word), s.asks r .llc (wrItem 1 4) k true ws →
    let b := natOf (ws.take 2)
    let n := natOf ((ws.drop 2).take 2)
    (b % 128 = 0 → n % 128 = 0 → n ≠ 0 → b + n ≤ 0x20000000000 →
      ∃ t, exec (.wbArg r) s = .next t ∧ t.arg r.req .llc 1 k = ws ∧
        (t.copyOf r.req r.win .llc).result = (errDone, []) ∧ t.slices = s.slices) ∧
    (b % 128 ≠ 0 ∨ n % 128 ≠ 0 ∨ n = 0 ∨ 0x20000000000 < b + n →
      exec (.wbArg r) s = .next (s.mbxBegin r .llc 1 errBadCmd []))) ∧
  (∀ (r : MbxReq) (s : State) (k : Nat) (ws : List Word), s.asks r .llc (wrItem 2 1) k true ws →
    let b := natOf ((s.arg r.req .llc 1 k).take 2)
    let n := natOf (((s.arg r.req .llc 1 k).drop 2).take 2)
    let bad := (s.slice k).wb ≠ none ∨ s.arg r.req .llc 1 k = []
    (bad → exec (.wbStart r) s = .next (s.mbxBegin r .llc 2 errBadCmd [])) ∧
    (¬bad → exec (.wbStart r) s = .next ((s.setSlice k { s.slice k with
      wb := some (b, n, bit (ws.headD 0) 0, 0) }).mbxBegin r .llc 2 errDone []))) ∧
  (∀ (d : DieId) (s : State) (l : LLine) (b n pos : Nat) (inv : Bool),
    (s.slice d.val).wb = some (b, n, inv, pos) → (s.slice d.val).scanNext b n pos = some l →
    homeDie l.line = d.val → s.calm l → l.idleS →
    ∃ t, exec (.wbVisit d) s = .next t ∧ (t.slice d.val).wb = some (b, n, inv, l.entryNo + 1) ∧
      t.lline l.line = (if inv then none else some { l with dirty := false, used := s.nextUse l.line }) ∧
      t.mem = (if l.dirty then (s.hbmWrite l.line l.sect l.data).mem else s.mem)) ∧
  (∀ (d : DieId) (s : State) (b n pos : Nat) (inv : Bool), (s.slice d.val).wb = some (b, n, inv, pos) →
    (s.slice d.val).scanNext b n pos = none →
    exec (.wbVisit d) s = .next (s.setSlice d.val { s.slice d.val with wb := some (b, n, inv, sliceEntries) }) ∧
    ((∀ l ∈ (s.slice d.val).lines, l.op = none) →
      exec (.wbScanComplete d) s = .next (s.setSlice d.val { s.slice d.val with wb := none }))) ∧
  (∀ (r : MbxReq) (s : State) (k : Nat) (ws : List Word), s.asks r .dir (wrItem 1 2) k true ws →
    (isStack s.variant (natOf ws) = true → homeDie (natOf ws / 128) = k →
      ∃ t, exec (.lookupArg r) s = .next t ∧ t.arg r.req .dir 1 k = wordsOf 2 (natOf ws / 128 * 128) ∧
        (t.copyOf r.req r.win .dir).result = (errDone, [])) ∧
    (isStack s.variant (natOf ws) = false ∨ homeDie (natOf ws / 128) ≠ k →
      exec (.lookupArg r) s = .next (s.mbxBegin r .dir 1 errBadCmd []))) ∧
  (∀ (r : MbxReq) (s : State) (k : Nat) (ws : List Word), s.asks r .dir (rdItem 2 4) k false ws →
    let w := s.arg r.req .dir 1 k
    (w = [] → exec (.lookup r) s = .next (s.mbxBegin r .dir 2 errBadCmd [])) ∧
    (w ≠ [] → s.lline (natOf w / 128) = none →
      exec (.lookup r) s = .next (s.mbxBegin r .dir 2 errDone (wordsOf 2 0 ++ wordsOf 2 (natOf w)))) ∧
    (∀ l, w ≠ [] → s.lline (natOf w / 128) = some l →
      exec (.lookup r) s = .next (s.mbxBegin r .dir 2 errDone (wordsOf 2 l.entry ++ wordsOf 2 (natOf w + 2 ^ 63))))) ∧
  (∀ (r : MbxReq) (s : State) (k : Nat) (ws : List Word), s.asks r .dir (rdItem 3 2) k false ws →
    exec (.lastDead r) s = .next (s.mbxBegin r .dir 3 errDone (wordsOf 2 (s.slice k).lastDead.toNat)))

/-- ARR_READY, ARR_UNREADY, ARR_LDS, ARR_LDSH, ARR_MM, ARR_DRAIN and ARR_STAT (R199 to R202, R215 to R218, R224, R229):
an instruction that passes its checks joins the queue, and an entry that is due, alone in the queue, takes effect. It
rests on choices of the model: log 25, 58, 62, 146, 160. -/
def Obligations.ArrayIssue : Prop :=
  (∀ (o : One) (m : SlotMask) (s : State) (i : Issue) (lf : Leaf) (z : Nat),
    s.arrIssues o [] (SlotMask.regs m) .array true i lf z →
    let v := maskValue ((s.arrSettle o.core.val).core o.core.val) i.lead m
    maskOutside i.l v = false →
    (∃ t, exec (.arrReady o m) s = .next t ∧ s.queues t o i [] (.ready v) 0) ∧
    (∃ t, exec (.arrUnready o m) s = .next t ∧ s.queues t o i [] (.unready v) 0)) ∧
  (∀ (o : One) (slot : Fin 16) (src : VReg) (n : Nat) (s : State) (i : Issue) (lf : Leaf) (z : Nat),
    s.arrIssues o [] [src.val] .array true i lf z →
    let a := (((s.arrSettle o.core.val).core o.core.val).reg i.lead src.val).toNat
    n % 64 = 0 → 0 < n → n ≤ 2048 → slot.val < i.l.slots → a % 64 = 0 → a + n ≤ 1024 * i.l.sliceKib →
    ∃ t, exec (.arrLds o slot src n) s = .next t ∧
      s.queues t o i [] (.lds slot.val (1024 * i.l.sliceKib * i.bslot + a) n) 0) ∧
  (∀ (o : One) (slot : Fin 16) (fmt : BitVec 4) (col rel : Bool) (a : ArrAct) (s : State) (i : Issue) (lf : Leaf) (z : Nat),
    s.arrIssues o [] [] .array true i lf z →
    (((s.arrSettle o.core.val).core o.core.val).proj i.l).ldshCheck i.l slot.val fmt.toNat col rel = .ok a 0 →
    ∃ t, exec (.arrLdsh o slot fmt col rel) s = .next t ∧ s.queues t o i [] a 0) ∧
  (∀ (o : One) (f : MmForm) (a : ArrAct) (s : State) (i : Issue) (lf : Leaf) (z : Nat),
    s.arrIssues o [] [] .array true i lf z →
    let p := s.arrSettle o.core.val
    ((p.core o.core.val).proj i.l).mmCheck i.l (bit (p.cfg .array o.core.val 0x100) 1) f = .ok a 0 →
    (p.core o.core.val).govAdmits p.now p.govLevel = true →
    ∃ t, exec (.arrMm o f) s = .next (t.noteMm o.core.val (s.core o.core.val).arr.nextId) ∧ s.queues t o i [] a 0) ∧
  (∀ (s : State) (k n : Nat), n < (s.core k).arr.nextId →
    (s.noteMm k n).core k = { s.core k with
      mmSpan := s.now / 16 + 1
      mmCount := if (s.core k).mmSpan = s.now / 16 + 1 then (s.core k).mmCount + 1 else 1 }) ∧
  (∀ (o : One) (bank : Fin 2) (dst : Fin 16) (ofmt : BitVec 4) (mode : DrainMode) (a : ArrAct) (m : BitVec 14) (s : State)
    (i : Issue) (lf : Leaf) (z : Nat), s.arrIssues o [] [] .array true i lf z →
    (((s.arrSettle o.core.val).core o.core.val).proj i.l).drainCheck i.l bank.val dst.val ofmt.toNat mode = .ok a m →
    ∃ t, exec (.arrDrain o bank dst ofmt mode) s = .next t ∧ s.queues t o i [] a m) ∧
  (∀ (o : One) (d : VReg) (s : State) (i : Issue) (lf : Leaf) (z : Nat),
    s.arrIssues o [d.val] [] .array false i lf z →
    ∃ t, exec (.arrStat o d) s = .next t ∧ s.queues t o i [d.val]
      (.stat d.val i.threads (some (place i.l.slots 2 ||| (s.cfg .array o.core.val 0x100 &&& 3)))) 0) ∧
  (∀ (s : State) (k : Nat) (w : Work) (l : Launch) (e : ArrEntry) (f : Nat), s.running k = some (w, l) →
    (s.core k).arr.queue = [e] → e.started = none → e.fin = none → s.now < f →
    (s.core k).startAt l s.now (field (s.cfg .sparse k 0x100) 1 0) [] e = some f →
    ∃ c, (s.arrSettle k).core k = c ∧ c.arr.queue = [{ e with started := some s.now, fin := some f }] ∧
      c.arr.tr = (s.core k).arr.tr ∧ c.arr.sv = (s.core k).arr.sv ∧ c.regs = (s.core k).regs ∧
      (∀ slot src n, e.act = .lds slot src n → slot < 14 → n ≤ 2048 →
        bytesAt (c.companion slot) 0 n = (s.core k).scrRead src n)) ∧
  (∀ (s : State) (k : Nat) (w : Work) (l : Launch) (e : ArrEntry) (b f : Nat), s.running k = some (w, l) →
    (s.core k).arr.queue = [e] → e.started = some b → e.broken = false → e.fin = some f → f ≤ s.now →
    let c := (s.arrSettle k).core k
    let a := (s.core k).arr
    (∀ m, e.act = .ready m → c.arr = { a with queue := [], tr := a.tr ||| m }) ∧
    (∀ m, e.act = .unready m → c.arr = { a with queue := [], tr := a.tr &&& ~~~m, sv := a.sv &&& ~~~m }) ∧
    (∀ slot src n, e.act = .lds slot src n → c.arr = { a with queue := [], sv := a.sv ||| slotBit slot }) ∧
    (∀ d ts v, e.act = .stat d ts (some v) → d < 256 → c.arr = { a with queue := [] } ∧
      (∀ x, x ∈ ts → c.reg x d = v) ∧
      (∀ x r, r < 256 → x ∉ ts ∨ r ≠ d → c.reg x r = (s.core k).reg x r))) ∧
  (∀ (c : Core) (l : Launch) (now lim : Nat) (e : ArrEntry),
    (∀ m, e.act = .ready m → c.startAt l now lim [] e = if e.issued + 1 ≤ now then some (now + 3) else none) ∧
    (∀ m, e.act = .unready m → c.startAt l now lim [] e = if e.issued + 1 ≤ now then some (now + 1) else none) ∧
    (∀ slot src n, e.act = .lds slot src n →
      c.startAt l now lim [] e = if e.issued + 8 ≤ now then some (now + (n + 255) / 256 + 3) else none) ∧
    (∀ d ts v, e.act = .stat d ts (some v) →
      c.startAt l now lim [] e = if e.issued + 2 ≤ now then some now else none))

/-- ARR_LDSH_START to ARR_DRAIN_COMPLETE (R204 to R207, R213, R214, R218, R228), each for an entry alone in the queue:
what a load, a pass and a drain do where they begin, and what their ends set and clear. It rests on choices of the
model: log 59. -/
def Obligations.ArrayRuns : Prop :=
  (∀ (k : CoreId) (s : State) (w : Work) (l : Launch) (e : ArrEntry) (slot : Nat) (f : Fmt) (col rel : Bool),
    s.running k.val = some (w, l) → (s.core k.val).arr.queue = [e] → e.act = .ldsh slot f col rel →
    (e.started = none → e.issued + 8 ≤ s.now → (s.core k.val).arr.tr.getLsbD slot = true →
      (scaled f = true → (s.core k.val).arr.sv.getLsbD slot = true) →
      ∃ t, exec (.arrLdshStart k) s = .next t ∧ t.mem = s.mem ∧ (t.core k.val).arr = { (s.core k.val).arr with
        queue := [{ e with started := some s.now }], shadow := some ((s.core k.val).tileOf l slot f), loading := true }) ∧
    (∀ l0, e.started = some l0 → l0 + 128 ≤ s.now →
      ∃ t, exec (.arrLdshComplete k none) s = .next t ∧ t.mem = s.mem ∧ (t.core k.val).arr = { (s.core k.val).arr with
        queue := [], loading := false
        tr := if rel then (s.core k.val).arr.tr &&& ~~~(slotBit slot) else (s.core k.val).arr.tr
        sv := if rel then (s.core k.val).arr.sv &&& ~~~(slotBit slot) else (s.core k.val).arr.sv })) ∧
  (∀ (k : CoreId) (s : State) (w : Work) (l : Launch) (e : ArrEntry) (o : MmOp) (set : TileSet),
    s.running k.val = some (w, l) → (s.core k.val).arr.queue = [e] → e.act = .mm o → e.fin = none →
    (e.started = none → e.issued + 8 ≤ s.now → o.sparse = false → o.sw = false → 0 < o.rows →
      (s.core k.val).arr.tr.getLsbD o.slot = true →
      (scaled o.fmt = true → (s.core k.val).arr.sv.getLsbD o.slot = true) → (s.core k.val).arr.active = some set →
      ∃ t sats, exec (.arrPassStart k none) s = .next t ∧ t.mem = s.mem ∧ sats.length = o.rows ∧
        (t.core k.val).arr.queue =
          [{ e with started := some s.now, fed := o.rows, sats := sats, broken := false }] ∧
        (∀ n, ((t.core k.val).arr.bankOf o.bank).at n = ((passRows (s.core k.val) l o set).foldl
          (fun b r => (b.feed o.op.toNat o.pred.toNat o.fmt.isInt o.col set r.1 r.2).1)
          (startBank (s.core k.val) o)).at n) ∧
        (t.core k.val).arr.tr = (s.core k.val).arr.tr ∧ (t.core k.val).regs = (s.core k.val).regs) ∧
    (∀ t0, e.started = some t0 → e.broken = false → t0 + e.fed + 131 ≤ s.now →
      ∃ t, exec (.arrPassComplete k none) s = .next t ∧ t.mem = s.mem ∧
        t.counter .array k.val 0xF01 = s.counter .array k.val 0xF01 + e.fed ∧
        (t.core k.val).arr = { (s.core k.val).arr with
          queue := []
          tr := if o.rel then (s.core k.val).arr.tr &&& ~~~((s.core k.val).passSlots l o) else (s.core k.val).arr.tr
          sv := if o.rel then (s.core k.val).arr.sv &&& ~~~((s.core k.val).passSlots l o)
            else (s.core k.val).arr.sv })) ∧
  (∀ (b : Bank) (op pred : Nat) (int col : Bool) (set : TileSet) (m : Nat) (xs : List Sys2Proof.Num) (j : Nat),
    let n := outsOf set.fmt col
    (j < n → (b.feed op pred int col set m xs).1.at (n * m + j) =
      (accumulate op pred int (b.at (n * m + j)) xs (set.feeds col j)).1) ∧
    (j < n * m ∨ n * m + n ≤ j → (b.feed op pred int col set m xs).1.at j = b.at j)) ∧
  (∀ (k : CoreId) (s : State) (w : Work) (l : Launch) (e : ArrEntry) (bank dst mode : Nat) (f : Fmt) (int32 : Bool)
    (h : BankHold), s.running k.val = some (w, l) → (s.core k.val).arr.queue = [e] →
    e.act = .drain bank dst f int32 mode → e.started = none → ((s.core k.val).arr.bankOf bank).hold = some h →
    (mode = 2 → ∃ t, exec (.arrDrainStart k) s = .next t ∧ t.mem = s.mem ∧ (t.core k.val).arr.queue = [] ∧
      (t.core k.val).arr.bankOf bank = {} ∧ (t.core k.val).sp = (s.core k.val).sp.closeRound h.pid) ∧
    (mode ≠ 2 → e.fin = none → makeupPending (s.core k.val).sp h = false →
      ∃ t, exec (.arrDrainStart k) s = .next t ∧ t.mem = s.mem ∧
        (t.core k.val).arr.bankOf bank = (if mode = 0 then {} else (s.core k.val).arr.bankOf bank) ∧
        (t.core k.val).arr.queue = [{ e with
          started := some s.now, vals := ((s.core k.val).arr.bankOf bank).drained f int32 }] ∧
        (t.core k.val).sp =
          ((s.core k.val).sp.learn ((s.core k.val).arr.bankOf bank) h).closeRound h.pid ∧
        (t.core k.val).scratch = (s.core k.val).scratch)) ∧
  (∀ (k : CoreId) (s : State) (w : Work) (l : Launch) (e : ArrEntry) (bank dst mode t0 : Nat) (f : Fmt) (int32 : Bool),
    s.running k.val = some (w, l) → (s.core k.val).arr.queue = [e] → e.act = .drain bank dst f int32 mode →
    e.started = some t0 → t0 + 136 ≤ s.now →
    ∃ t, exec (.arrDrainComplete k) s = .next t ∧ t.mem = s.mem ∧
      (t.core k.val).scrRead (l.regionBase + 32768 * dst) e.vals.length = e.vals ∧
      (∀ a, a < l.regionBase + 32768 * dst ∨ l.regionBase + 32768 * dst + e.vals.length ≤ a →
        (t.core k.val).scrRead a 1 = (s.core k.val).scrRead a 1) ∧
      (t.core k.val).arr = { (s.core k.val).arr with
        queue := [], tr := (s.core k.val).arr.tr ||| drainSlots dst f int32
        rs := (s.core k.val).arr.rs &&& ~~~(drainSlots dst f int32) })

/-- SP_FILT, SP_LDW, SP_EST, SP_CHK and SP_STAT (R285 to R288): they join the queue; an estimate opens its round; a
check that certifies a row raises its counter, one that does not resets it and marks the row for make-up. It rests on
choices of the model: log 60, 61, 146, 147. -/
def Obligations.SparsityIssue : Prop :=
  (∀ (o : One) (pid : BitVec 8) (mode : BitVec 2) (s : State) (i : Issue) (lf : Leaf) (z : Nat),
    s.arrIssues o [] [] .sparse false i lf z → pid.toNat ≤ 63 → mode ≠ 3 →
    ∃ t, exec (.spFilt o pid mode) s = .next t ∧ s.queues t o i []
      (.filt pid.toNat (if mode = 0 then .none else if mode = 1 then .pred else .makeup)) 0) ∧
  (∀ (o : One) (slot : Fin 16) (s : State) (i : Issue) (lf : Leaf) (z : Nat), s.arrIssues o [] [] .sparse false i lf z →
    let p := ((s.arrSettle o.core.val).core o.core.val).proj i.l
    slot.val < i.l.slots → p.tr.getLsbD slot.val = true → p.sv.getLsbD slot.val = true →
    ∃ t, exec (.spLdw o slot) s = .next t ∧ s.queues t o i [] (.ldw slot.val) 0) ∧
  (∀ (o : One) (pid : BitVec 8) (slot : Fin 16) (rows : Nat) (add : Bool) (a : ArrAct) (s : State) (i : Issue) (lf : Leaf)
    (z : Nat), s.arrIssues o [] [] .sparse false i lf z →
    (((s.arrSettle o.core.val).core o.core.val).proj i.l).estCheck i.l pid.toNat slot.val rows add = .ok a 0 →
    ∃ t, exec (.spEst o pid slot rows add) s = .next t ∧ s.queues t o i [] a 0) ∧
  (∀ (o : One) (pid : BitVec 8) (s : State) (i : Issue) (lf : Leaf) (z : Nat), s.arrIssues o [] [] .sparse false i lf z →
    pid.toNat ≤ 63 →
    (((s.arrSettle o.core.val).core o.core.val).proj i.l).rounds.any (·.pid = pid.toNat) = true →
    ∃ t, exec (.spChk o pid) s = .next t ∧ s.queues t o i [] (.chk pid.toNat) 0) ∧
  (∀ (o : One) (d : VReg) (s : State) (i : Issue) (lf : Leaf) (z : Nat), s.arrIssues o [d.val] [] .sparse false i lf z →
    ∃ t, exec (.spStat o d) s = .next t ∧ s.queues t o i [d.val] (.stat d.val i.threads none) 0) ∧
  (∀ (c : Core) (l : Launch) (min pid slot rows : Nat), c.sp.estTile.isSome = true →
    let d := c.doEst l min pid slot rows false
    d.sp.open_ = some pid ∧ d.sp.cnt = c.sp.cnt ∧ d.arr = c.arr ∧
      d.sp.rounds = { pid := pid, rows := rows, ests := 1, pred := c.predicted min pid rows } ::
        c.sp.rounds.filter (·.pid ≠ pid)) ∧
  (∀ (s : State) (k : Nat) (l : Launch) (e : ArrEntry),
    let c := s.core k
    let t := (s.takeEffect k l e).core k
    (∀ pid mode, e.act = .filt pid mode → t.sp = { c.sp with filtPid := pid, filt := mode }) ∧
    (∀ slot, e.act = .ldw slot → t.sp = { c.sp with estTile := some (c.tileOf l slot .e2m1) }) ∧
    (∀ d ts, e.act = .stat d ts none → d < 256 → t.sp = c.sp ∧
      (∀ x, x ∈ ts → t.reg x d = BitVec.ofNat 32 (min 0xFFFFFFFF c.sp.misp)) ∧
      (∀ x r, r < 256 → x ∉ ts ∨ r ≠ d → t.reg x r = c.reg x r))) ∧
  (∀ (s : State) (k pid : Nat) (r : Round), (s.core k).sp.rounds.find? (·.pid = pid) = some r → r.pred.Nodup →
    let p := (s.core k).sp
    let t := s.doChk k pid
    let q := (t.core k).sp
    let bad := r.pred.filter (fun m => !(s.certifies k pid m))
    (p.open_ = some pid → q.open_ = none ∧ ∀ m, s.certifies k pid m = p.certified m) ∧
      (∀ m, m ∈ r.pred → Tab.get 0 q.cnt (128 * pid + m) =
        if s.certifies k pid m then min 3 (Tab.get 0 p.cnt (128 * pid + m) + 1) else 0) ∧
      q.misp = p.misp + bad.length ∧ t.mem = s.mem ∧
      (∃ y ∈ q.rounds, y.pid = pid ∧ y.checked = true ∧ y.makeup = (r.makeup ++ bad).dedup))

/-- RATTLE_CHECK, RATTLE_SEED_WRITE and LAST_DISAGREE (R413, R415 to R417, R420). -/
def Obligations.RattleChecks : Prop :=
  (∀ (k : CoreId) (s : State) (x : Sample), (s.core k.val).sample = some x →
    ∃ t, exec (.rattleCheck k) s = .next t ∧ (t.core k.val).sample = none ∧ t.mem = s.mem ∧
      (x.check (field (s.cfg .rattle 0 0x100) 19 16) = none →
        t.counter .rattle 0 0x80C = s.counter .rattle 0 0x80C + 1 ∧ t.lastDisagree = s.lastDisagree) ∧
      (∀ r m, x.check (field (s.cfg .rattle 0 0x100) 19 16) = some (r, m, false) →
        t.counter .rattle 0 0x808 = s.counter .rattle 0 0x808 + 1 ∧ t.lastDisagree = s.lastDisagree) ∧
      (∀ r m, x.check (field (s.cfg .rattle 0 0x100) 19 16) = some (r, m, true) →
        t.counter .rattle 0 0x808 = s.counter .rattle 0 0x808 + 1 ∧
        t.counter .rattle 0 0x814 = s.counter .rattle 0 0x814 + 1 ∧ t.lastDisagree = x.words k.val r m ∧
        (t.source (srcKey .rattle 0)).lastCode = 0x5009 ∧
        (t.source (srcKey .rattle 0)).pending = (s.source (srcKey .rattle 0)).pending + 1)) ∧
  (∀ (r : Req) (v : Word) (s : State) (i k : Nat), s.reaches r .glob .rattle i 0x108 →
    ∃ t, exec (.rattleSeedWrite r v) s = .next t ∧ t.cfg .rattle 0 0x108 = v ∧ t.lfsrOf k = lfsrSeed v k ∧
      t.mem = s.mem) ∧
  (∀ (r : MbxReq) (s : State) (k : Nat) (ws : List Word), s.asks r .rattle (rdItem 1 8) k false ws →
    exec (.lastDisagree r) s = .next (s.mbxBegin r .rattle 1 errDone s.lastDisagree)) ∧
  (∀ w : Word, w ≠ 0 → lfsrStep w ≠ 0)

/-- SORT_LIST, COPY, FILL, GATHER, STORE, AMAX, TRANSPOSE, UPDATE, CAST, REDUCE_SCATTER, ALL_GATHER, ALL_REDUCE and PUT
as commands of a context (R88, R91, R92, R299, R355, R387, R447): a slot that names no valid command, or no frame that
takes it, is passed with nothing admitted; any other is admitted. -/
def Obligations.CommandAdmission : Prop :=
  (∀ (c : CtxId) (s : State) (x : Fetched), s.command c.val = some x → opcodeOf x.slot = 0x20 →
    (sortOf x.slot = none → ∃ t, exec (.sortList c) s = .next t ∧ s.turnsAway t c.val) ∧
    (∀ j k f, sortOf x.slot = some j → s.placed x.slot (fun _ => true) = (k, f) →
      ∃ t, exec (.sortList c) s = .next t ∧ (k ≠ 0 → s.turnsAway t c.val) ∧
        (k = 0 → s.takesIn t c.val x.slot f (f = s.fr.no.toNat) (.sort j)))) ∧
  (∀ (mk : Issuer → Instr) (op : Nat) (parse : List Byte → List Byte → Option DmaOp),
    (mk, op, parse) ∈ ([(.copy, 0x10, fun a _ => copyOf? a), (.fill, 0x11, fun a _ => fillOf? a),
      (.gather, 0x12, gatherOf?), (.storeCast, 0x13, storeOf?), (.amax, 0x14, amaxOf?), (.transpose, 0x15, transOf?)] :
        List ((Issuer → Instr) × Nat × (List Byte → List Byte → Option DmaOp))) →
    (∀ (c : CtxId) (s : State) (x : Fetched), s.command c.val = some x → opcodeOf x.slot = op →
      (op = 0x15 → s.colPathOff (s.partOf c.val) = true) →
      (s.dmaBad (some c.val) x.slot = true ∨ parse x.slot x.aux = none →
        ∃ t, exec (mk (.ctx c)) s = .next t ∧ s.turnsAway t c.val) ∧
      (∀ o k f, s.dmaBad (some c.val) x.slot = false → parse x.slot x.aux = some o →
        s.placed x.slot (fun _ => true) = (k, f) →
        ∃ t, exec (mk (.ctx c)) s = .next t ∧ (k ≠ 0 → s.turnsAway t c.val) ∧
          (k = 0 → s.takesIn t c.val x.slot f (f = s.fr.no.toNat) (.dma (dmaJobOf (some c.val) x.slot o))))) ∧
    (∀ (slot aux : List Byte) (s : State) (o : DmaOp) (f : Nat), s.dmaBad none slot = false → parse slot aux = some o →
      s.placed slot (fun _ => true) = (0, f) →
      ∃ t, exec (mk (.mgmt slot aux)) s = .next t ∧ t = { s with works := t.works, nextWork := s.nextWork + 1 } ∧
        t.works = s.works ++ [{
          id := s.nextWork, ctx := none, part := 0, frame := BitVec.ofNat 64 f, slot := 0, irqEnd := false
          running := f = s.fr.no.toNat, job := .dma (dmaJobOf none slot o) }])) ∧
  (∀ (c : CtxId) (s : State) (x : Fetched), s.command c.val = some x → opcodeOf x.slot = 0x15 →
    s.colPathOff (s.partOf c.val) = false → ∃ t, exec (.transpose (.ctx c)) s = .next t ∧ s.turnsAway t c.val) ∧
  (∀ (mk : CtxId → Instr) (op : Nat) (cast : Bool),
    (mk, op, cast) ∈ ([(.update, 0x40, false), (.cast, 0x41, true)] : List ((CtxId → Instr) × Nat × Bool)) →
    ∀ (c : CtxId) (s : State) (x : Fetched), narogPresent s.variant = true → s.command c.val = some x →
      opcodeOf x.slot = op →
      (s.narogOf c.val cast x.slot = none → ∃ t, exec (mk c) s = .next t ∧ s.turnsAway t c.val) ∧
      (∀ j k f, s.narogOf c.val cast x.slot = some j →
        s.placed x.slot (fun g => cast || s.kindOf (s.partOf c.val) g = .update) = (k, f) →
        ∃ t, exec (mk c) s = .next t ∧ (k ≠ 0 → s.turnsAway t c.val) ∧
          (k = 0 → s.takesIn t c.val x.slot f false (.narog j)))) ∧
  (∀ (mk : CtxId → Instr) (op : Nat) (parse : List Byte → Option CollJob),
    (mk, op, parse) ∈ ([(.reduceScatter, 0x30, ringOf? .reduceScatter), (.allGather, 0x31, ringOf? .allGather),
      (.allReduce, 0x32, ringOf? .allReduce), (.put, 0x33, putOf?)] :
        List ((CtxId → Instr) × Nat × (List Byte → Option CollJob))) →
    ∀ (c : CtxId) (s : State) (x : Fetched), s.command c.val = some x → opcodeOf x.slot = op →
      (parse x.slot = none → ∃ t, exec (mk c) s = .next t ∧ s.turnsAway t c.val) ∧
      (∀ j k f, parse x.slot = some j →
        s.placed x.slot (fun g => !j.norm || s.kindOf (s.partOf c.val) g = .reduce) = (k, f) →
        ∃ t, exec (mk c) s = .next t ∧ (k ≠ 0 → s.turnsAway t c.val) ∧
          (k = 0 → s.takesIn t c.val x.slot f false (.coll j))))

/-- The marble runs (R297, R299, R300, R302, R303): a window closes 4,096 MCLK cycles after its first entry or where its
job has ended its input, a closed one is emitted from 128 MCLK cycles on where its partition has a slot left, and a job
whose entries are all gone ends. It rests on choices of the model: log 67, 68, 69, 70. -/
def Obligations.MarbleWindows : Prop :=
  (∀ (d : DieId) (s : State), (s.marble d.val).fill ≠ [] → (s.marble d.val).closed.length ≤ 1 →
    8192 ≤ 3 * (s.now - (s.marble d.val).first) →
    ∃ t, exec (.marbleWindowTimeout d) s = .next t ∧ t = { s with marbles := t.marbles } ∧
      (t.marble d.val).fill = [] ∧ (t.marble d.val).closed = (s.marble d.val).closed ++ [(s.now, (s.marble d.val).fill)] ∧
      (∀ e, e ≠ d.val → t.marble e = s.marble e)) ∧
  (∀ (d : DieId) (id : Nat) (s : State) (w : Work) (l : Launch), s.work id = some w → w.job = .launch l →
    l.puts = true → l.ended.length = l.list.length → (∃ e ∈ (s.marble d.val).fill, e.job = id) →
    (s.marble d.val).closed.length ≤ 1 →
    ∃ t, exec (.marbleJobInputEnd d id) s = .next t ∧ t = { s with marbles := t.marbles } ∧
      (t.marble d.val).fill = [] ∧
      (t.marble d.val).closed = (s.marble d.val).closed ++ [(s.now, (s.marble d.val).fill)]) ∧
  (∀ (d : DieId) (s : State) (at_ : Nat) (e : MEntry) (l : LLine),
    (s.marble d.val).closed = [(at_, [e])] → 256 ≤ 3 * (s.now - at_) → s.inHold .marble d.val = false →
    slotsLeft 256 (s.marbleWeight d.val) ((s.marble d.val).turn s.now).sent [e.part] e.part ≠ 0 →
    s.accepts (e.addr / 128) = true → l.line = e.addr / 128 → s.calm l → l.st = .red → l.dt = e.t →
    ∃ t, exec (.marbleWindowEmit d) s = .next t ∧ s.actsAt t (e.addr / 128) ∧ (t.marble d.val).closed = [] ∧
      t.counter .marble d.val 0x80C = s.counter .marble d.val 0x80C + 1 ∧
      Tab.get 0 (t.marble d.val).sent e.part = Tab.get 0 ((s.marble d.val).turn s.now).sent e.part + 1 ∧
      t.lline (e.addr / 128) = some { l with
        sect := l.sect ||| elemSectors e.t [(e.addr % 128 / DType.bytes e.t, e.v)]
        data := addElems e.t l.data [(e.addr % 128 / DType.bytes e.t, e.v)], used := s.nextUse (e.addr / 128) }) ∧
  (∀ (d : DieId) (s : State) (at_ : Nat) (e : MEntry), (s.marble d.val).closed = [(at_, [e])] →
    256 ≤ 3 * (s.now - at_) → s.inHold .marble d.val = false →
    slotsLeft 256 (s.marbleWeight d.val) ((s.marble d.val).turn s.now).sent [e.part] e.part = 0 ∨
      s.accepts (e.addr / 128) = false →
    ∃ t, exec (.marbleWindowEmit d) s = .next t ∧ t = { s with marbles := t.marbles } ∧
      (t.marble d.val).closed = [(at_, [e])]) ∧
  (∀ (id : Nat) (s : State) (w : Work), s.work id = some w → w.job.inputEnded = true → s.noEntries id = true →
    ∃ t, exec (.marbleJobEnd id) s = .next t ∧ ∀ v ∈ t.works, v.id ≠ w.id)

/-- NARROW_SCHEDULE, HBM_READ_COMPLETE, HBM_REFRESH and HBM_SCRUB (R343, R344, R347, R348, R350 to R353, R365, R371): a
chosen request is performed burst by burst, a read that returns leaves the queue, one symbol in error is corrected, and
an uncorrectable sector is recorded and stays. It rests on choices of the model: log 71, 75, 142, 143, 144, 156. -/
def Obligations.StackControllers : Prop :=
  (∀ (n : Fin 12) (pc : Fin 32) (s : State) (r : NReq), s.inHold .narrow (n.val / 3) = false →
    s.chooseReq (n.val / 3) (notBehind [] (s.pcQueue n.val pc.val)) = some r →
    let d := homeDie r.line
    ∃ t, exec (.narrowSchedule n pc) s = .next t ∧ t.pageOpen (hbmAddr r.line) = true ∧ t.mem = s.mem ∧
      (∀ b, b ≠ (hbmAddr r.line).key → Tab.get 0 t.hbm.openPage b = Tab.get 0 s.hbm.openPage b) ∧
      t.counter .narrow d (if r.write then 0x804 else 0x800) =
        s.counter .narrow d (if r.write then 0x804 else 0x800) + bitsOf r.sect ∧
      (if s.pageOpen (hbmAddr r.line) then t.counter .narrow d 0x808 = s.counter .narrow d 0x808 + bitsOf r.sect
      else t.counter .narrow d 0x80C = s.counter .narrow d 0x80C + 1 ∧
        t.counter .narrow d 0x808 = s.counter .narrow d 0x808 + (bitsOf r.sect - 1)) ∧
      (r.write = true → t.hbm.nreq.length + 1 = s.hbm.nreq.length) ∧
      (r.write = false → { r with issued := true } ∈ t.hbm.nreq)) ∧
  (∀ (n : Line) (s : State) (r : NReq),
    s.hbm.nreq.find? (fun r => r.line = n.toNat && r.issued && !r.write) = some r →
    (∀ i, i < 4 → s.upsetOf (4 * n.toNat + i) = 0) →
    exec (.hbmReadComplete n ⟨0, 0, 0, 0⟩) s = .next { s with hbm := { s.hbm with nreq := s.hbm.nreq.erase r } }) ∧
  (∀ (s : State) (k : Nat) (m : BitVec 18), m ≠ 0 → addrKind s.variant (32 * k) ≠ .hole →
    symbols (s.upsetOf k ||| m) ≤ 2 → s.strike k m = s.setUpset k (s.upsetOf k ||| m)) ∧
  (∀ (s : State) (k : Nat), 32 * k < 0x10000000000 → symbols (s.upsetOf k) = 1 →
    let t := s.readSector k
    t.upsetOf k = 0 ∧ t.mem = s.mem ∧
      t.counter .hbm (32 * k / 0x1000000000) 0x804 = s.counter .hbm (32 * k / 0x1000000000) 0x804 + 1) ∧
  (∀ (s : State) (k : Nat), 32 * k < 0x10000000000 → s.poisoned k = true →
    let t := s.readSector k
    t.upsetOf k = s.upsetOf k ∧ Tab.get 0 t.hbm.lastUncorr (32 * k / 0x1000000000) = 32 * k ∧
      t.counter .hbm (32 * k / 0x1000000000) 0x808 = s.counter .hbm (32 * k / 0x1000000000) 0x808 + 1 ∧
      (t.source (srcKey .hbm (32 * k / 0x1000000000))).lastCode = 0x5003 ∧ t.mem = s.mem) ∧
  (∀ (s : State) (k : Nat), 0x10000000000 ≤ 32 * k → s.poisoned k = true →
    let p := (32 * k - 0x10000000000) / 0x1000000000
    let t := s.readSector k
    t.upsetOf k = s.upsetOf k ∧ Tab.get 0 t.slowUncorr p = 32 * k ∧
      t.counter .slowtier p 0x808 = s.counter .slowtier p 0x808 + 1 ∧
      (t.source (srcKey .slowtier p)).lastCode = 0x5003 ∧ t.mem = s.mem) ∧
  (∀ (n : Fin 12) (pc : Fin 32) (sid : Fin 3) (bank : Fin 16) (s : State), stackFitted s.variant n.val = true →
    ∃ t, exec (.hbmRefresh n pc sid bank) s = .next t ∧ t = { s with hbm := t.hbm } ∧ t.hbm.nreq = s.hbm.nreq ∧
      (∀ line, (hbmAddr line).key = bankKey n.val pc.val sid.val bank.val → t.pageOpen (hbmAddr line) = false) ∧
      Tab.get 0 t.hbm.refreshes n.val = Tab.get 0 s.hbm.refreshes n.val + 1) ∧
  (∀ (n : Fin 12) (s : State), stackFitted s.variant n.val = true →
    bit (s.cfg .hbm n.val 0x100) 0 = true → s.inHold .hbm n.val = false → s.hbm.nreq = [] →
    s.upsetOf (n.val * 0x80000000 + Tab.get 0 s.hbm.scrubPos n.val) = 0 →
    ∃ t, exec (.hbmScrub n 0) s = .next t ∧ t = { s with hbm := t.hbm, regs := t.regs } ∧
      Tab.get 0 t.hbm.scrubPos n.val = (Tab.get 0 s.hbm.scrubPos n.val + 1) % 0x48000000 ∧
      Tab.get 0 t.hbm.scrubPasses n.val = Tab.get 0 s.hbm.scrubPasses n.val +
        (if (Tab.get 0 s.hbm.scrubPos n.val + 1) % 0x48000000 = 0 then 1 else 0)) ∧
  (∀ (r : MbxReq) (s : State) (k : Nat) (ws : List Word), s.asks r .hbm (rdItem 1 2) k false ws →
    exec (.hbmLastUncorr r) s = .next (s.mbxBegin r .hbm 1 errDone (wordsOf 2 (Tab.get 0 s.hbm.lastUncorr k)))) ∧
  (∀ (r : MbxReq) (s : State) (k : Nat) (ws : List Word), s.asks r .hbm (rdItem 2 2) k false ws →
    exec (.scrubPasses r) s = .next (s.mbxBegin r .hbm 2 errDone (wordsOf 2 (Tab.get 0 s.hbm.scrubPasses k)))) ∧
  (∀ (r : MbxReq) (s : State) (k : Nat) (ws : List Word), s.asks r .slowtier (rdItem 1 2) k false ws →
    exec (.slowtierLastUncorr r) s = .next (s.mbxBegin r .slowtier 1 errDone (wordsOf 2 (Tab.get 0 s.slowUncorr k)))) ∧
  (∀ (r : MbxReq) (s : State) (k : Nat) (ws : List Word), s.asks r .dma (rdItem 1 2) k false ws →
    exec (.lastHole r) s = .next (s.mbxBegin r .dma 1 errDone (wordsOf 2 (Tab.get 0 s.lastHole k))))

/-- DMA_PIECE and DMA_COMMAND_END (R338, R345, R355 to R357, R360, R367): an engine takes pieces while it may, and moves
the one whose writes are next in its command's output; a FILL writes its pattern and a COPY its source's bytes, and no
other byte; a command whose pieces are done ends once its writes are performed. It rests on choices of the model: log
72, 73, 74, 141, 145, 149, 172. -/
def Obligations.DmaPieces : Prop :=
  (∀ (e : Fin 32) (h g h' : HostData) (s t u : State) (w : Work) (j k : DmaJob) (p : DmaPiece),
    State.takePieces 16 (s.dmaJobs.foldl (State.planPiece h) s) e.val h = (t, g) → t.duePiece e.val = some (w, j, p) →
    runPiece w e.val t { j with cache := p.cache } g = .ok () u k h' →
    exec (.dmaPiece e h) s = .next (u.pieceMoved w k p)) ∧
  (∀ (s : State) (w v : Work) (k : DmaJob) (p : DmaPiece), s.work w.id = some v → k.slot = none →
    let d := { k with next := p.n + 1, flight := k.flight.filter (·.n ≠ p.n), cache := [] }
    let t := s.pieceMoved w k p
    t.work w.id = some { w with job := .dma d } ∧ t.mem = s.mem ∧ t.cores = s.cores ∧
      t.counter .dma p.engine 0x808 = s.counter .dma p.engine 0x808 + 1) ∧
  (∀ (n e : Nat) (s : State) (h : HostData),
    bit (s.cfg .dma e 0x100) 0 = false ∨ s.inHold .dma e = true ∨ s.inReset .dma e = true ∨
      field (s.cfg .dma e 0x200) 4 0 ≤ s.engineLoad e ∨ s.waitingPieces (e / 8) h = [] →
    State.takePieces n s e h = (s, h)) ∧
  (∀ (n e : Nat) (s : State) (h : HostData) (w : Work) (j : DmaJob),
    bit (s.cfg .dma e 0x100) 0 = true → s.inHold .dma e = false → s.inReset .dma e = false →
    s.engineLoad e < field (s.cfg .dma e 0x200) 4 0 → s.nextPiece e (s.waitingPieces (e / 8) h) = some (w, j) →
    let q : DmaPiece := { n := j.taken, engine := e }
    let k := { j with taken := j.taken + 1, flight := j.flight ++ [q] }
    let t := (s.serve e ((s.waitingPieces (e / 8) h).map (·.1.part)).dedup w.part).setWork { w with job := .dma k }
    State.takePieces (n + 1) s e h = State.takePieces n (t.readAhead w k q h).1 e (t.readAhead w k q h).2 ∧
      (t.readAhead w k q h = (t.useFree 1, h) ∨ bit t.freeWord 0 = true)) ∧
  (∀ (w : Work) (e : Nat) (s : State) (j : DmaJob) (h : HostData), j.op = .fill → j.slot = none → j.phys = true →
    j.probe = false → s.hbm.upset = [] →
    j.lo < j.hi → (j.dst + j.lo) % 0x40000000 + (j.hi - j.lo) ≤ 0x40000000 → isSlow s.variant (j.dst + j.lo) = true →
    ∃ t, runPiece w e s j h = .ok () t j h ∧ t = { s with mem := t.mem, regs := t.regs } ∧
      t.memRead (j.dst + j.lo) (j.hi - j.lo) = fillBytes j.src (j.hi - j.lo) ∧
      (∀ a, a < j.dst + j.lo ∨ j.dst + j.hi ≤ a → t.memByte a = s.memByte a) ∧
      t.counter .dma e 0x804 = s.counter .dma e 0x804 + (j.hi - j.lo)) ∧
  (∀ (w : Work) (e : Nat) (s : State) (j : DmaJob) (h : HostData), j.op = .copy → j.slot = none → j.phys = true →
    j.probe = false → j.cache = [] → s.hbm.upset = [] →
    j.lo < j.hi → (j.dst + j.lo) % 0x40000000 + (j.hi - j.lo) ≤ 0x40000000 → isSlow s.variant (j.dst + j.lo) = true →
    (j.src + j.lo) % 0x40000000 + (j.hi - j.lo) ≤ 0x40000000 → isSlow s.variant (j.src + j.lo) = true →
    ∃ t, runPiece w e s j h = .ok () t j h ∧ t = { s with mem := t.mem, regs := t.regs } ∧
      t.memRead (j.dst + j.lo) (j.hi - j.lo) = s.memRead (j.src + j.lo) (j.hi - j.lo) ∧
      (∀ a, a < j.dst + j.lo ∨ j.dst + j.hi ≤ a → t.memByte a = s.memByte a)) ∧
  (∀ (id : Nat) (s : State) (w : Work) (j : DmaJob), s.work id = some w → w.job = .dma j → w.running = true →
    j.pieces ≤ j.next →
    (s.writesLeft (dmaFor w) = false → ∃ t, exec (.dmaCommandEnd id) s = .next t ∧ ∀ v ∈ t.works, v.id ≠ w.id) ∧
    (s.writesLeft (dmaFor w) = true → exec (.dmaCommandEnd id) s = .next s))

/-- NAROG_JOB_START to NAROG_REPORT (R338, R378, R387 to R391): a job that may not write ends with its RESULT, an
UPDATE's flip gives the group its new commit, step and products, and the report removes the job once its writes are
performed. It rests on choices of the model: log 76, 77, 141, 167. -/
def Obligations.NarogJobs : Prop :=
  (∀ (id : Nat) (s : State) (w : Work) (j : NarogJob), s.narogJob id = some (w, j) → s.narogMayStart w j = true →
    let u := s.setWork { w with running := true }
    (∀ r, u.narogReady w j = .error r →
      ∃ t v, exec (.narogJobStart id) s = .next t ∧ t.narogJob id = some (v, { j with phase := .ended r }) ∧
        v.running = true ∧ t.mem = s.mem) ∧
    (∀ n t, u.narogReady w j = .ok n → u.narogPhase1 { w with running := true } j n = some t →
      exec (.narogJobStart id) s = .next t) ∧
    (∀ n, u.narogReady w j = .ok n → u.narogPhase1 { w with running := true } j n = none →
      exec (.narogJobStart id) s = .next s)) ∧
  (∀ (id : Nat) (s : State) (w : Work) (j : NarogJob), s.narogJob id = some (w, j) → j.phase = .writing →
    (s.writesHeld (.narog, w.ctx) = true → exec (.narogWriteDone id) s = .next s) ∧
    (s.writesHeld (.narog, w.ctx) = false →
    (j.cast = true → ∃ t v, exec (.narogWriteDone id) s = .next t ∧
      t.narogJob id = some (v, { j with phase := .ended 0 }) ∧ t.mem = s.mem) ∧
    (j.cast = false → j.nonfin = true → bit (s.sgCfg j.sg) 4 = true →
      ∃ t v, exec (.narogWriteDone id) s = .next t ∧ t.narogJob id = some (v, { j with phase := .ended 2 }) ∧
        t.mem = s.mem ∧ t.sgs = s.sgs) ∧
    (j.cast = false → j.nonfin = false → s.fr.cycle + 512 ≤ s.frameLen →
      ∃ t v, exec (.narogWriteDone id) s = .next t ∧ t.narogJob id = some (v, { j with phase := .flipping }) ∧
        t.mem = s.mem ∧ t.sgs = s.sgs))) ∧
  (∀ (id : Nat) (s : State) (w : Work) (j : NarogJob), s.narogJob id = some (w, j) → j.phase = .flipping →
    let a := (s.sg j.sg).recAddr + (if (s.sg j.sg).second then 0 else 64)
    ∃ t v, exec (.narogFlip id) s = .next t ∧ t.narogJob id = some (v, { j with phase := .ended 0 }) ∧
      t.sg j.sg = { s.sg j.sg with
        commit := (s.sg j.sg).commit + 1, step := j.t, p1 := j.p1, p2 := j.p2, second := !(s.sg j.sg).second } ∧
      t.counter .narog 0 0x804 = s.counter .narog 0 0x804 + 1 ∧
      (isSlow s.variant a = true →
        t.memRead a 64 = recordBytes ((s.sg j.sg).commit + 1) j.t j.p1 j.p2 ∧
        (∀ b, b < a ∨ a + 64 ≤ b → t.memByte b = s.memByte b))) ∧
  (∀ (id r : Nat) (s : State) (w : Work) (j : NarogJob), s.narogJob id = some (w, j) → j.phase = .ended r → r < 8 →
    (s.writesLeft (.narog, w.ctx) = true → exec (.narogReport id) s = .next s) ∧
    (s.writesLeft (.narog, w.ctx) = false → ∃ t, exec (.narogReport id) s = .next t ∧ (∀ v ∈ t.works, v.id ≠ w.id) ∧
      field (t.sq .narogSg j.sg 0x800) 19 12 = r ∧
      (r ≠ 0 → j.cast = false → (t.source (srcKey .narogSg j.sg)).lastCode = 0x5005 ∧
        t.counter .narog 0 0x808 = s.counter .narog 0 0x808 + 1)))

/-- The items of a shard group and its configuration (R373, R374, R390, R396): a load takes the valid copy with the
greater COMMIT; INIT writes both copies; a configuration write ends the group's running job without a flip. It rests on
choices of the model: log 126, 141. -/
def Obligations.NarogGroups : Prop :=
  (∀ (s : State) (g : Nat), isSlow s.variant (s.sg g).recAddr = true → (s.loadRecord g).isSome = true) ∧
  (∀ (s t : State) (g : Nat), s.loadRecord g = some t → isSlow s.variant (s.sg g).recAddr = true →
    let a := (s.sg g).recAddr
    (s.copyValid a = true → s.copyValid (a + 64) = false ∨ leAt (s.devRead (a + 64) 64) 0 8 ≤ leAt (s.devRead a 64) 0 8 →
      (t.sg g).ready = true ∧ (t.sg g).second = false ∧
        (t.sg g).commit = leAt (s.devRead a 64) 0 8) ∧
    (s.copyValid (a + 64) = true → s.copyValid a = false ∨ leAt (s.devRead a 64) 0 8 < leAt (s.devRead (a + 64) 64) 0 8 →
      (t.sg g).ready = true ∧ (t.sg g).second = true ∧
        (t.sg g).commit = leAt (s.devRead (a + 64) 64) 0 8) ∧
    (s.copyValid a = false → s.copyValid (a + 64) = false → (t.sg g).ready = false)) ∧
  (∀ (r : MbxReq) (s : State) (g : Nat) (ws : List Word), s.asks r .narogSg (rwItem 1 2) g false ws →
    (s.sgBusy g = true → exec (.recordAddr r) s = .next (s.mbxBegin r .narogSg 1 errBadCmd [])) ∧
    (s.sgBusy g = false →
      exec (.recordAddr r) s = .next (s.mbxBegin r .narogSg 1 errDone (wordsOf 2 (s.sg g).recAddr)))) ∧
  (∀ (r : MbxReq) (s : State) (g : Nat) (ws : List Word), s.asks r .narogSg (rwItem 1 2) g true ws →
    (s.sgBusy g = true ∨ s.recordOk g (natOf ws) = false →
      exec (.recordAddr r) s = .next (s.mbxBegin r .narogSg 1 errBadCmd [])) ∧
    (s.sgBusy g = false → s.recordOk g (natOf ws) = true →
      ∀ u, (s.setSg g { s.sg g with recAddr := natOf ws }).loadRecord g = some u →
        exec (.recordAddr r) s = .next (u.mbxBegin r .narogSg 1 errDone []))) ∧
  (∀ (r : MbxReq) (s : State) (g : Nat) (ws : List Word), s.asks r .narogSg (wrItem 2 1) g true ws →
    s.sgBusy g = false → s.recordOk g (s.sg g).recAddr = true → ∀ u, s.loadRecord g = some u →
    exec (.loadRecord r) s = .next (u.mbxBegin r .narogSg 2 errDone [])) ∧
  (∀ (r : MbxReq) (s : State) (g : Nat) (ws : List Word), s.asks r .narogSg (wrItem 3 6) g true ws →
    s.sgBusy g = false → s.recordOk g (s.sg g).recAddr = true → isSlow s.variant (s.sg g).recAddr = true →
    let b := recordBytes (natOf (ws.take 2)) (natOf ((ws.drop 2).take 2)) (ws.getD 4 0) (ws.getD 5 0)
    ∃ t, exec (.init r) s = .next t ∧ (t.copyOf r.req r.win .narogSg).result = (errDone, []) ∧
      t.sg g = { s.sg g with ready := true, commit := natOf (ws.take 2), step := natOf ((ws.drop 2).take 2)
                             p1 := ws.getD 4 0, p2 := ws.getD 5 0, second := false } ∧
      t.memRead (s.sg g).recAddr 128 = b ++ b) ∧
  (∀ (r : MbxReq) (s : State) (g : Nat) (ws : List Word),
    (s.asks r .narogSg (rdItem 4 2) g false ws →
      exec (.narogCommitRead r) s = .next (s.mbxBegin r .narogSg 4 errDone (wordsOf 2 (s.sg g).commit))) ∧
    (s.asks r .narogSg (rdItem 5 2) g false ws →
      exec (.narogStepRead r) s = .next (s.mbxBegin r .narogSg 5 errDone (wordsOf 2 (s.sg g).step))) ∧
    (s.asks r .narogSg (rdItem 6 2) g false ws →
      exec (.powers r) s = .next (s.mbxBegin r .narogSg 6 errDone [(s.sg g).p1, (s.sg g).p2]))) ∧
  (∀ (r : Req) (w : Window) (off : BitVec 12) (v : Word) (s : State) (g : Nat), 0x120 ≤ off.toNat → off.toNat < 0x180 →
    off.toNat % 4 = 0 → s.reaches r w .narogSg g off.toNat →
    ∃ t, exec (.narogCfgWrite r w off v) s = .next t ∧ t.cfg .narogSg g off.toNat = v &&& cfgMask .narogSg off.toNat ∧
      t.mem = s.mem ∧ t.sgs = s.sgs ∧
      (∀ x ∈ t.works, ∀ j, x.job = .narog j → j.sg = g → j.phase ≠ .writing ∧ j.phase ≠ .flipping) ∧
      (∀ x ∈ s.works, (∀ j, x.job = .narog j → j.sg ≠ g) → x ∈ t.works))

/-- WATCH_REPORT, STEP_CLOSE, DUMP_COMPLETE and WATCH_CFG_WRITE (R400, R401, R404, R407, R409). It rests on choices of
the model: log 7, 168. -/
def Obligations.WatchTable : Prop :=
  (∀ (s : State) (x : Report) (xs : List Report), s.reports = x :: xs →
    (∀ p, s.partOfWatch x.entry = some p → (s.part p).closeDue = none) →
    ∃ t, exec .watchReport s = .next t ∧ t.reports = xs ∧ t = { s with reports := xs, watch := t.watch } ∧
      Tab.get [] (t.entry x.entry).live x.fmt = addCounts (Tab.get [] (s.entry x.entry).live x.fmt) x.counts ∧
      (t.entry x.entry).closed = (s.entry x.entry).closed ∧ (∀ e, e ≠ x.entry → t.entry e = s.entry e)) ∧
  (∀ (p : PartId) (s : State) (step : Nat), s.closeReady p.val = some step →
    ∃ t, exec (.stepClose p) s = .next t ∧ (t.part p.val).closeDue = none ∧ (t.part p.val).lastClosed = some step ∧
      4096 ≤ t.fr.cycle ∧
      (∀ i, i < s.watchCount p.val → (t.entry (s.watchBase p.val + i)).closedStep = some step ∧
        (t.entry (s.watchBase p.val + i)).fin = [] ∧
        (t.entry (s.watchBase p.val + i)).closed = (s.entry (s.watchBase p.val + i)).fin ∧
        (t.entry (s.watchBase p.val + i)).live = (s.entry (s.watchBase p.val + i)).live)) ∧
  (∀ (p : PartId) (s : State) (a : Nat) (hdr recs : List Byte), (s.part p.val).dumping = some (a, hdr, recs) →
    let u := s.devWrite dumpAgent (a + 64) recs
    ∃ t, exec (.dumpComplete p) s = .next t ∧ (∀ q, q ≠ p.val → t.part q = s.part q) ∧
      (u.writesHeld dumpAgent = false → t.part p.val = { s.part p.val with dumping := none } ∧
        t.mem = (u.devWrite dumpAgent a hdr).mem) ∧
      (u.writesHeld dumpAgent = true → t.part p.val = { s.part p.val with dumping := some (a, hdr, []) } ∧
        t.mem = u.mem)) ∧
  (∀ (r : Req) (w : Window) (v : Word) (s : State) (e : Nat), s.reaches r w .watch e 0x100 → field v 7 0 ≠ 0 →
    ∃ t, exec (.watchCfgWrite r w v) s = .next t ∧ t.cfg .watch e 0x100 = v &&& span 8 0 ∧
      (bit v 8 = true → (t.entry e).zrun = 0 ∧ (t.entry e).run = 0) ∧ t.mem = s.mem ∧
      (v &&& span 8 0 ≠ s.cfg .watch e 0x100 → bit (t.sq .watch e 0x800) 22 = true ∧
        (t.source (srcKey .watch e)).lastCode = 0x5008)) ∧
  (∀ (r : Req) (w : Window) (v : Word) (s : State) (e : Nat), s.reaches r w .watch e 0x100 → field v 7 0 = 0 →
    exec (.watchCfgWrite r w v) s = .next s)

/-- The items of WATCH (R405, R412, R418, R419). -/
def Obligations.WatchItems : Prop :=
  (∀ (r : MbxReq) (s : State) (e : Nat) (ws : List Word) (f : Fin 9),
    (s.asks r .watch (rdItem 1 2) e false ws →
      exec (.closedStep r) s = .next (s.mbxBegin r .watch 1 errDone
        (wordsOf 2 (match (s.entry e).closedStep with | some n => n | none => 2 ^ 64 - 1)))) ∧
    (s.asks r .watch (rdItem (0x100 + f.val) 8) e false ws →
      exec (.closed r f) s = .next (s.mbxBegin r .watch (0x100 + f.val) errDone
        (countWords (Tab.get [] (s.entry e).closed f.val)))) ∧
    (s.asks r .watch (rdItem (0x200 + f.val) 8) e false ws →
      exec (.live r f) s = .next (s.mbxBegin r .watch (0x200 + f.val) errDone
        (countWords (Tab.get [] (s.entry e).live f.val))))) ∧
  (∀ (r : MbxReq) (s : State) (k : Nat) (ws : List Word) (p : Nat), p = s.selPart r.req r.win →
    (s.asks r .watch { num := 0x10, read := true, write := true, len := 4, follows := false } k false ws →
      exec (.dump r) s = .next (s.mbxBegin r .watch 0x10 errDone
        (wordsOf 2 (s.part p).dump.1 ++ wordsOf 1 (s.part p).dump.2 ++ [0]))) ∧
    (s.asks r .watch { num := 0x10, read := true, write := true, len := 4, follows := false } k true ws →
      let base := natOf (ws.take 2)
      let cap := (ws.getD 2 0).toNat
      (ws.getD 3 0 = 0 → base = 0 ∨ s.dumpOk p base cap = true →
        exec (.dump r) s = .next ((s.setPart p { s.part p with dump := (base, cap) }).mbxBegin r .watch 0x10 errDone [])) ∧
      (ws.getD 3 0 ≠ 0 ∨ (base ≠ 0 ∧ s.dumpOk p base cap = false) →
        exec (.dump r) s = .next (s.mbxBegin r .watch 0x10 errBadCmd []))) ∧
    (s.asks r .watch { num := 0x11, read := false, write := true, len := 1, follows := false } k true ws →
      (s.stepMode p = true → exec (.close r) s = .next (s.mbxBegin r .watch 0x11 errBadCmd [])) ∧
      (s.stepMode p = false → exec (.close r) s = .next ((s.setPart p { s.part p with
        closeAsk := some s.fr.no.toNat }).mbxBegin r .watch 0x11 errDone []))) ∧
    (∀ st n, s.asks r .watch { num := 0x12, read := true, write := false, len := 4, follows := false } k false ws →
      (s.part p).norm = some (st, n) →
      exec (.norm r) s = .next (s.mbxBegin r .watch 0x12 errDone
        (wordsOf 2 st ++ [n, flag (s.part p).normValid 0 ||| flag (s.part p).normDouble 1]))))

/-- PORT_ENABLE to NODE_DIMS_WRITE, PORT_UP, TRAIN_FAIL and LANE_LOCK_LOST (R423, R424, R440, R443, R459, R460): what
the commands of a port do to its state. It rests on choices of the model: log 28, 75, 85. -/
def Obligations.PortStates : Prop :=
  (∀ (r : Req) (v : Word) (s : State) (p : Nat), s.reaches r .glob .ulink p 0x100 →
    (∀ q, q < 6 → s.inHold .ulink q = false) → bit v 2 = false →
    (bit v 0 = true → (s.port p).st = .off → s.dimSize (p / 2) ≠ 1 →
      ∃ t, exec (.portEnable r v) s = .next t ∧ (t.port p).st = .training ∧ (t.port p).since = s.now ∧
        t.cfg .ulink p 0x100 = v &&& 0x1FD ∧ (∀ q, q ≠ p → t.port q = s.port q) ∧ t.mem = s.mem) ∧
    (bit v 0 = true → bit v 1 = true → (s.port p).st = .dead → s.dimSize (p / 2) ≠ 1 →
      ∃ t, exec (.retrain r v) s = .next t ∧ (t.port p).st = .training ∧ (t.port p).since = s.now ∧ t.mem = s.mem) ∧
    (bit v 0 = false → (s.port p).st ≠ .off →
      ∃ t, exec (.portDisable r v) s = .next t ∧ (t.port p).st = .off ∧ (t.port p).queues = [] ∧ (t.port p).held = [] ∧
        (t.port p).unacked = [] ∧ (t.port p).markers = [] ∧ t.counter .ulink p 0x814 =
          s.counter .ulink p 0x814 + (s.port p).waiting.length + (s.port p).markers.length ∧ t.mem = s.mem) ∧
    (bit v 0 = true → bit v 1 = false → (s.port p).st = .up ∨ (s.port p).st = .dead →
      ∃ t, exec (.detourClear r v) s = .next t ∧ t.detour p = false ∧ t = { s with regs := t.regs })) ∧
  (∀ (r : Req) (v : Word) (s : State) (p : Nat), s.reaches r .glob .ulink p 0x100 →
    (∀ q, q < 6 → s.inHold .ulink q = false) → bit v 2 = true → bit v 0 = true → bit v 1 = false → (s.port p).st = .up ∨ (s.port p).st = .dead →
    ∃ t, exec (.detourSet r v) s = .next t ∧ t.detour p = true ∧ t.sideMask p = field v 8 3 ∧ t.mem = s.mem ∧
      (field v 8 3 ≠ 0 → (s.port p).held = [] → (t.source (srcKey .ulink p)).lastCode = 0x6003 ∧ ∀ q, t.port q = s.port q) ∧
      (field v 8 3 = 0 → (s.port p).unreach ≠ s.fr.ticks + 1 → (t.port p).held = [] ∧ (t.source (srcKey .ulink p)).lastCode = 0x6004 ∧
        t.counter .ulink p 0x814 = s.counter .ulink p 0x814 + (s.port p).held.length)) ∧
  (∀ (p : PortId) (n : BitVec 15) (rt : Nat) (s : State), (s.port p.val).st = .training → n = s.neighbour p.val →
    s.now - (s.port p.val).since ≤ 400000000 → s.detour p.val = false → (s.port p.val).held = [] →
    ∃ t, exec (.portUp p n rt) s = .next t ∧ (t.port p.val).st = .up ∧ (t.port p.val).delay = min 65535 (rt / 2) ∧
      (t.port p.val).peer = n ∧ (t.port p.val).seq = 0 ∧ (t.port p.val).expect = 0 ∧ (t.port p.val).used = [] ∧
      (t.port p.val).unacked = [] ∧ t = { s with ports := t.ports }) ∧
  (∀ (p : PortId) (s : State), (s.port p.val).st = .training → 400000000 ≤ s.now - (s.port p.val).since →
    ∃ t, exec (.trainFail p none) s = .next t ∧ (t.port p.val).st = .off ∧ bit (t.cfg .ulink p.val 0x100) 0 = false ∧
      bit (t.sq .ulink p.val 0x800) 20 = true ∧ field (t.sq .ulink p.val 0x800) 19 17 = 3 ∧
      (t.source (srcKey .ulink p.val)).lastCode = 0x6002 ∧ (t.port p.val).held = (s.port p.val).held ∧ t.mem = s.mem) ∧
  (∀ (r : Req) (v : Word) (s : State) (p : Nat), (∀ q, q < 6 → s.inHold .ulink q = false) →
    (s.reaches r .glob .ulink p 0x104 →
      ∃ t, exec (.nodeDimsWrite r false v) s = .next t ∧ t.nodeId = BitVec.setWidth 15 v ∧
        (∀ q, q < 6 → t.cfg .ulink q 0x104 = v &&& 0x7FFF) ∧ t.ports = s.ports) ∧
    (s.reaches r .glob .ulink p 0x108 → s.variant = .l7120 → field v 4 0 ≠ 0 →
      exec (.nodeDimsWrite r true v) s = .next s) ∧
    (s.reaches r .glob .ulink p 0x108 → s.variant ≠ .l7120 ∨ field v 4 0 = 0 →
      ∃ t, exec (.nodeDimsWrite r true v) s = .next t ∧ t.dimSize 0 = field v 14 10 + 1 ∧
        t.dimSize 1 = field v 9 5 + 1 ∧ t.dimSize 2 = field v 4 0 + 1 ∧ t.ports = s.ports)) ∧
  (∀ (lane : Fin 48) (s : State), (s.port (lane.val / 8)).lock.getLsbD (lane.val % 8) = true →
    ∃ t, exec (.laneLockLost lane) s = .next t ∧ (t.port (lane.val / 8)).lock.getLsbD (lane.val % 8) = false ∧
      bit (t.sq .ulane lane.val 0x800) 22 = true ∧ t.mem = s.mem)

/-- FLIT_SLOT to ACK_TIMEOUT and the flit items (R427 to R432, R439, R459): a flit with the next SEQ and a good CRC is
accepted, one with a bad CRC raises NAK, and silence makes the neighbour dead with the flits for it held. It rests on
choices of the model: log 81, 82, 83, 84, 86, 150, 171. -/
def Obligations.LinkFlits : Prop :=
  (∀ (p : PortId) (s : State), (s.port p.val).st = .up → s.kiteRun = s → s.inHold .ulink p.val = false →
    (∀ m rest, (s.port p.val).markers = m :: rest → Tab.get 0 (s.port p.val).used 0 < 4 →
      ∃ t w, exec (.flitSlot p) s = .next t ∧
        t.out = .marker p.val m s.markerHeader (markerBytes m) w :: s.out ∧ (t.port p.val).markers = rest ∧
        Tab.get 0 (t.port p.val).used 0 = Tab.get 0 (s.port p.val).used 0 + 1 ∧ t.mem = s.mem) ∧
    (∀ q turns f rest, s.chooseSlot p.val = .queue q turns → Tab.get [] (s.port p.val).queues q = f :: rest →
      f.at_ = none →
      ∃ t w, exec (.flitSlot p) s = .next t ∧
        t.out = .flit p.val (f.flit.header (s.port p.val).seq) f.flit.payload w :: s.out ∧
        (t.port p.val).seq = ((s.port p.val).seq + 1) % 4096 ∧
        (t.port p.val).unacked = (s.port p.val).unacked ++ [((s.port p.val).seq, f.flit, s.now)] ∧
        Tab.get [] (t.port p.val).queues q = rest ∧
        Tab.get 0 (t.port p.val).used q = Tab.get 0 (s.port p.val).used q + 1 ∧ t.mem = s.mem)) ∧
  (∀ (p : PortId) (im : FlitImage) (s : State), (s.port p.val).st = .up →
    let crc := flitCrc im.hdr (bytesAt im.payload 0 240)
    let got : Word := BitVec.ofNat 32 (field64 im.tlr 63 32)
    let f := FlitImage.flit im
    (got ≠ crc → got ≠ ~~~crc →
      exec (.flitReceive p im) s = .next
        (((s.setPort p.val { s.port p.val with nak := true }).addCount .ulink p.val 0x80C 1).cutThrough p.val im)) ∧
    (got = ~~~crc → exec (.flitReceive p im) s = .next ((s.addCount .ulink p.val 0x810 1).cutThrough p.val im)) ∧
    (f.kind < 2 ∨ 4 < f.kind ∨ s.inTorus f.dest = false ∨ FlitImage.seq im ≠ (s.port p.val).expect →
      s.cutThrough p.val im = s) ∧
    (∀ q g, 2 ≤ f.kind → f.kind ≤ 4 → s.inTorus f.dest = true → FlitImage.seq im = (s.port p.val).expect →
      s.route (some p.val) f = .send q g → s.freeToSend q g = true →
      s.cutThrough p.val im = if bit s.freeWord 0 then (s.useFree 1).stomp q g else s.useFree 1) ∧
    (∀ q g, (∃ w, (s.stomp q g).out = .flit q (g.header (s.port q).seq) g.payload
        (trailerWord (~~~(flitCrc (g.header (s.port q).seq) g.payload)) w) :: s.out) ∧
      ((s.stomp q g).port q).seq = (s.port q).seq ∧ ((s.stomp q g).port q).unacked = (s.port q).unacked ∧
      ((s.stomp q g).port q).used = (s.port q).used) ∧
    (got = crc → 2 ≤ f.kind → f.kind < 5 → s.inTorus f.dest = true → s.routePort f = none →
      FlitImage.seq im = (s.port p.val).expect →
      ∃ t, exec (.flitReceive p im) s = .next t ∧ (t.port p.val).expect = ((s.port p.val).expect + 1) % 4096 ∧
        (t.port p.val).nak = false ∧ (t.port p.val).lastGood = s.now ∧ t.coll.inbox = s.coll.inbox ++ [f] ∧
        t.counter .ulink p.val 0xF02 = s.counter .ulink p.val 0xF02 + 1 ∧ t.mem = s.mem) ∧
    (got = crc → 2 ≤ f.kind → FlitImage.seq im ≠ (s.port p.val).expect →
      ∃ t, exec (.flitReceive p im) s = .next t ∧ (t.port p.val).expect = (s.port p.val).expect ∧ t.coll = s.coll ∧
        t.counter .ulink p.val 0x814 = s.counter .ulink p.val 0x814 + (if 5 ≤ f.kind ∨ s.inTorus f.dest = false then 1 else 0)) ∧
    (got = crc → 5 ≤ f.kind →
      ∃ t, exec (.flitReceive p im) s = .next t ∧ (t.port p.val).expect = (s.port p.val).expect ∧ t.coll = s.coll ∧
        t.counter .ulink p.val 0x814 = s.counter .ulink p.val 0x814 + 1 ∧
        t.counter .ulink p.val 0xF02 = s.counter .ulink p.val 0xF02)) ∧
  (∀ (p : PortId) (s : State) (n t0 : Nat) (f : Flit) (rest : List (Nat × Flit × Nat)), (s.port p.val).st = .up →
    (s.port p.val).unacked = (n, f, t0) :: rest →
    ((s.port p.val).replay = [] → t0 + 1600 ≤ s.now →
      ∃ t, exec (.retryTimeout p) s = .next t ∧ (t.port p.val).replay = n :: rest.map (·.1) ∧
        t.counter .ulink p.val 0x808 = s.counter .ulink p.val 0x808 + 1 ∧ t.mem = s.mem) ∧
    (t0 + 6400 ≤ s.now → f.det = false → (∀ u ∈ rest, u.2.1.det = false) →
      (∀ q ∈ (s.port p.val).waiting, q.flit.det = false) →
      ∃ t, exec (.ackTimeout p) s = .next t ∧ (t.port p.val).st = .dead ∧ (t.port p.val).unacked = [] ∧
        (t.port p.val).held.map (·.flit) = f :: (rest.map (·.2.1) ++ (s.port p.val).waiting.map (·.flit)) ∧
        bit (t.sq .ulink p.val 0x800) 21 = true ∧ field (t.sq .ulink p.val 0x800) 19 17 = 2 ∧
        (t.source (srcKey .ulink p.val)).lastCode = 0x6001 ∧ t.mem = s.mem)) ∧
  (∀ (p : PortId) (s : State), (s.port p.val).st = .up → 6400 ≤ s.now - (s.port p.val).lastGood →
    ∃ t, exec (.noFlitTimeout p) s = .next t ∧ (t.port p.val).st = .dead ∧ (t.port p.val).queues = [] ∧
      field (t.sq .ulink p.val 0x800) 19 17 = 1 ∧ bit (t.sq .ulink p.val 0x800) 21 = true ∧ t.mem = s.mem) ∧
  (∀ (r : MbxReq) (s : State) (k : Nat) (ws : List Word),
    (s.asks r .ulink (rdItem 1 2) k false ws →
      exec (.txFlits r) s = .next (s.mbxBegin r .ulink 1 errDone (wordsOf 2 (s.counter .ulink k 0xF01)))) ∧
    (s.asks r .ulink (rdItem 2 2) k false ws →
      exec (.rxFlits r) s = .next (s.mbxBegin r .ulink 2 errDone (wordsOf 2 (s.counter .ulink k 0xF02)))))

/-- R436: a flit with DET 0 is routed in dimension order X, Y, Z. In the first dimension d in which the destination's
coordinate b differs from this node's coordinate a, with Δ = (b − a) mod D_d, it takes the + port of d unless Δ > D_d −
Δ; a flit for this node is delivered. Node coordinates lie below the sizes that DIMS gives. -/
def Obligations.ShortestWay : Prop :=
  ∀ (s : State) (inp : Option Nat) (f : Flit), f.det = false → (∀ d, d < 3 → coord s.nodeId d < s.dimSize d) →
    (f.dest = s.nodeId → s.route inp f = .deliver) ∧ (f.dest ≠ s.nodeId → s.routePort f ≠ none) ∧
    ∀ d, d < 3 → coord f.dest d ≠ coord s.nodeId d → (∀ e, e < d → coord f.dest e = coord s.nodeId e) →
      let size : Int := s.dimSize d
      let delta : Int := ((coord f.dest d : Int) - coord s.nodeId d) % size
      (delta < size - delta → s.routePort f = some (2 * d)) ∧ (delta = size - delta → s.routePort f = some (2 * d)) ∧
        (size - delta < delta → s.routePort f = some (2 * d + 1))

/-- COLLECTIVE_START, COLLECTIVE_END and LANDING (R411, R444, R447, R449, R456). It rests on choices of the model: log
91, 141, 167. -/
def Obligations.CollectiveWork : Prop :=
  (∀ (id : Nat) (s : State) (w : Work) (j : CollJob), s.collJob id = some (w, j) →
    (s.collMayStart w j = false → exec (.collectiveStart id) s = .next s) ∧
    (s.collMayStart w j = true → j.op = .put → exec (.collectiveStart id) s = .next (s.startPut w j)) ∧
    (s.collMayStart w j = true → j.op ≠ .put →
      let r := (s.setWork { w with running := true }).collRead (w.ctx.getD 0) j.ringVa 64
      (∀ b u v, r = .ok b u → ringOk u.nodeId.toNat j b = true → u.startRings w j b = some v →
        exec (.collectiveStart id) s = .next v) ∧
      (∀ b u, r = .ok b u → ringOk u.nodeId.toNat j b = false →
        exec (.collectiveStart id) s = .next (u.ctxFault (w.ctx.getD 0) 0x300F)) ∧
      (∀ e u, r = .fault e u → exec (.collectiveStart id) s = .next (u.ctxFault (w.ctx.getD 0) e)) ∧
      (r = .wait → exec (.collectiveStart id) s = .next s))) ∧
  (∀ (id : Nat) (s : State) (w : Work) (j : CollJob), s.collJob id = some (w, j) →
    (s.collComplete w j = false ∨ s.writesLeft (.coll, w.ctx) = true → exec (.collectiveEnd id) s = .next s) ∧
    (s.collComplete w j = true → s.writesLeft (.coll, w.ctx) = false →
    ∃ t, exec (.collectiveEnd id) s = .next t ∧ (∀ v ∈ t.works, v.id ≠ w.id) ∧
      (j.formed = none → t.parts = s.parts) ∧
      (∀ n, j.formed = some n → (s.part w.part).norm.map (·.1) ≠ some (s.stepOf w.part w.frame) →
        (t.part w.part).norm = some (s.stepOf w.part w.frame, n) ∧ (t.part w.part).normValid = true ∧
        (t.part w.part).normDouble = false))) ∧
  (∀ (r : MbxReq) (s : State) (k : Nat) (ws : List Word) (p : Nat), p = s.selPart r.req r.win →
    (s.asks r .coll (rwItem 0x10 4) k false ws →
      exec (.landing r) s = .next (s.mbxBegin r .coll 0x10 errDone
        (wordsOf 2 (s.part p).landing.1 ++ wordsOf 2 (s.part p).landing.2))) ∧
    (s.asks r .coll (rwItem 0x10 4) k true ws →
      natOf (ws.take 2) = 0 ∨ (natOf (ws.take 2) % 4096 = 0 ∧ natOf (ws.drop 2) ≤ 2 ^ 32 ∧
        s.grantedRange p (natOf (ws.take 2)) (natOf (ws.drop 2)) = true) →
      exec (.landing r) s = .next ((s.setPart p { s.part p with
        landing := (natOf (ws.take 2), natOf (ws.drop 2)) }).mbxBegin r .coll 0x10 errDone [])))

/-- COLL_DATA to REFUSE (R445, R446, R453, R454, R456 to R458): what each kind of flit delivered to this node does. It
rests on choices of the model: log 34, 92, 93, 94. -/
def Obligations.CollectiveFlits : Prop :=
  (∀ (s t : State) (f : Flit), s.takeInbox (fun f => f.kind = 2) = some (f, t) →
    (f.phase ≠ 2 → (t.rxOf f f.frameLo).seen f.fseq = true →
      exec .collData s = .next (t.addCount .coll 0 0x808 1)) ∧
    (f.phase ≠ 2 → (t.rxOf f f.frameLo).seen f.fseq = false → t.opOf f = none → t.lateFrame f.frameLo = true →
      exec .collData s = .next (t.addCount .coll 0 0x804 1)) ∧
    (f.phase = 2 → t.lateFrame f.frameLo = false → (t.rxOf f f.frameLo).seen f.fseq = false →
      f.fseq < (t.rxOf f f.frameLo).base + 1024 → t.flowsUsed < 4096 → (t.part f.part).landing.1 ≠ 0 →
      f.offset + 224 ≤ (t.part f.part).landing.2 →
      let x := t.rxOf f f.frameLo
      ((∀ z ∈ x.tails, f.fseq ≤ z.1) →
        ∃ u n, exec .collData s = .next u ∧ 32 ≤ n ∧ n ≤ 224 ∧ (x.marks.any (f.fseq < ·) = true → n = 224) ∧
          u.mem = ((t.useFree 1).devWrite (.coll, none) ((t.part f.part).landing.1 + f.offset)
            (bytesAt f.payload 16 n)).mem) ∧
      (∀ z, x.tails = [z] → z.1 < f.fseq → x.part = f.part → z.2.1 + 224 ≤ (t.part f.part).landing.2 →
        ∃ u n, exec .collData s = .next u ∧ 32 ≤ n ∧ n ≤ 224 ∧
          u.mem = (((t.useFree 1).devWrite (.coll, none) ((t.part f.part).landing.1 + (z.2.1 + z.2.2))
            (List.replicate (224 - z.2.2) 0)).devWrite (.coll, none) ((t.part f.part).landing.1 + f.offset)
            (bytesAt f.payload 16 n)).mem)) ∧
    (f.phase = 2 → t.lateFrame f.frameLo = false → (t.rxOf f f.frameLo).seen f.fseq = false →
      f.fseq < (t.rxOf f f.frameLo).base + 1024 → t.flowsUsed < 4096 → (t.part f.part).landing.1 = 0 →
      (t.rxOf f f.frameLo).tails = [] →
      ∃ u, exec .collData s = .next u ∧ u.mem = t.mem ∧ u.counter .coll 0 0x810 = t.counter .coll 0 0x810 + 1)) ∧
  (∀ (s t : State) (f : Flit), s.takeInbox (fun f => f.kind = 3 && f.ctype = 1) = some (f, t) →
    (t.opOf f = none → t.lateFrame f.frameLo = true → exec .collReady s = .next (t.addCount .coll 0 0x804 1)) ∧
    (t.opOf f = none → t.lateFrame f.frameLo = false →
      ∃ u, exec .collReady s = .next u ∧ u.coll.readies = t.coll.readies ++ [f]) ∧
    (∀ w j, t.opOf f = some (w, j) → exec .collReady s = .next (t.meetReady w j f))) ∧
  (∀ (s t : State) (f : Flit) (x : TxFlow), s.takeInbox (fun f => f.kind = 3 && f.ctype = 2) = some (f, t) →
    t.coll.tx.find? (fun x => x.num = f.flow && x.dest = f.src) = some x → x.sent = x.items.length →
    x.work.isSome = true → x.base < leAt f.payload 4 4 → leAt f.payload 4 4 ≤ x.base + x.sent →
    (∀ p, p < 32 → (s.kpart p).streams = []) →
    ∃ u, exec .flowAck s = .next u ∧ u.coll.tx.find? (·.num = x.num) = some { x with
      base := leAt f.payload 4 4, items := x.items.drop (leAt f.payload 4 4 - x.base)
      sent := x.sent - (leAt f.payload 4 4 - x.base), since := s.now } ∧ u.mem = s.mem) ∧
  (∀ (s : State) (x : RxFlow) (m : Nat), s.coll.rx.find? (fun x => match x.moved with
      | none => false
      | some t => t + 400 ≤ s.now) = some x → x.moved = some m →
    ∃ t y, exec .flowAckTimer s = .next t ∧ y ∈ t.coll.rx ∧ y.src = x.src ∧ y.num = x.num ∧ y.acked = y.base ∧
      y.moved = none ∧ t.mem = s.mem) ∧
  (∀ (s : State) (f : TxFlow), s.coll.tx.find? (fun f =>
      f.sent ≠ 0 && f.since + 800 * field (s.cfg .coll 0 0x104) 15 0 ≤ s.now) = some f →
    (∀ i ∈ f.items, i.again = none) →
    ∃ t, exec .rewindTimeout s = .next t ∧ t.counter .coll 0 0x80C = s.counter .coll 0 0x80C + 1 ∧ t.mem = s.mem ∧
      t.works = s.works) ∧
  (∀ (s t : State) (f : Flit) (w : Work) (j : CollJob) (c : BitVec 15),
    s.takeInbox (fun f => f.kind = 3 && f.ctype = 3) = some (f, t) → t.opOf f = some (w, j) →
    t.collJob w.id = some (w, j) → j.norm = true → j.children.contains f.src = true →
    j.heard.contains f.src = false → c ∈ j.children → c ≠ f.src → j.heard.contains c = false →
    ∃ u v, exec .normUp s = .next u ∧ u.collJob w.id = some (v, { j with
      acc := j.acc + f.acc.1, accNan := j.accNan || f.acc.2.1, accInf := j.accInf || f.acc.2.2
      heard := f.src :: j.heard }) ∧ u.mem = s.mem) ∧
  (∀ (s t : State) (f : Flit) (w : Work) (j : CollJob),
    s.takeInbox (fun f => f.kind = 3 && f.ctype = 4) = some (f, t) → t.opOf f = some (w, j) →
    t.collJob w.id = some (w, j) → j.norm = true → j.parent = some f.src → j.formed = none →
    ∃ u v, exec .normDown s = .next u ∧ u.collJob w.id = some (v, { j with formed := some (normOf f.acc) }) ∧
      u.mem = s.mem) ∧
  (∀ (s t : State) (f : Flit) (x : TxFlow), s.takeInbox (fun f => f.kind = 3 && f.ctype = 5) = some (f, t) →
    t.coll.tx.find? (fun x => x.num = f.flow && x.dest = f.src && x.vc = 2) = some x → x.work.isSome = true →
    exec .refuse s = .next (t.ctxFault x.ctx 0x3011))

/-- SWEEP_COMPLETE to RESTORE_CHECK_DONE (R466, R469, R474, R478, R483 to R486, R489, R490): what Kite does with the
records that reach it, with a sweep that is over and with the steps of a restore. It rests on choices of the model: log
96, 103, 104, 105, 151, 152, 153, 169. -/
def Obligations.KiteRecords : Prop :=
  (∀ (g : Fin 256) (s : State) (p : Nat) (c : Ckpt) (d : List Byte), s.partOfSg g.val = some p →
    (s.kgroup g.val).ckpt = some c → c.flipped = true → c.swept = (tableRows (s.kgroup g.val).table).length →
    (∀ z : State, (c.digest = some d ∧ z = s) ∨ (c.digest = none ∧ s.kSeen (s.kDigestRanges g.val c.commit) = some z ∧
        s.kDigest g.val c.commit c.header = some d) →
      ((z.kpart p).room 184 = true →
        let t := z.kSeal p g.val c.stream c.commit c.flippedAt c.count c.header d
        exec (.sweepComplete g) s = .next (t.kTransmit p) ∧ (t.kgroup g.val).sealed_ = c.commit ∧
          (t.kgroup g.val).base = some c.commit ∧ (t.kgroup g.val).digest = d ∧ (t.kgroup g.val).ckpt = none ∧
          t.counter .kite p 0x80C = z.counter .kite p 0x80C + 1) ∧
      ((z.kpart p).room 184 = false →
        exec (.sweepComplete g) s = .next ((z.setKgroup g.val { z.kgroup g.val with
          ckpt := some { c with digest := some d } }).kTransmit p))) ∧
    (c.digest = none → s.kSeen (s.kDigestRanges g.val c.commit) = none →
      exec (.sweepComplete g) s = .next (s.kTransmit p))) ∧
  (∀ (s t : State) (r : KRec) (g : Nat), s.kTake 0x10 = (t, some r) → t.kShard r.part (leAt r.body 0 8) = some g →
    let en := bit (t.cfg .kite r.part 0x104) 15
    ∃ u, exec .ack s = .next u ∧ u.mem = t.mem ∧
      ((∃ w ∈ (t.kgroup g).waits, w.commit = r.commit ∧ (w.buddy = true ∨ en = false)) →
        r.commit ≤ (u.kgroup g).durable) ∧
      (∀ w ∈ (u.kgroup g).waits, w.commit = r.commit → en = true ∧ w.buddy = false)) ∧
  (∀ (g : Fin 256) (s : State) (p : Nat) (w : SealWait) (rest : List SealWait), s.partOfSg g.val = some p →
    (s.kgroup g.val).waits = w :: rest → w.late = false →
    w.sealedAt + 800000 * field (s.cfg .kite p 0x10C) 31 16 ≤ s.now →
    ∃ t, exec (.storeTimeout g) s = .next t ∧ (t.kgroup g.val).durable = (s.kgroup g.val).durable ∧
      (t.kgroup g.val).base = (if (s.kgroup g.val).durable = 0 then none else some (s.kgroup g.val).durable) ∧
      bit (t.sq .kite p 0x800) 22 = true ∧ (t.source (srcKey .kite p)).lastCode = 0x7002 ∧ t.mem = s.mem) ∧
  (∀ (s t : State) (r : KRec), s.kTake 0x20 = (t, some r) →
    let shard := leAt r.body 0 8
    let new := buddyPut t.buddies r.node r.part shard r.commit (bytesAt r.body 8 32)
    (∀ l, new = some l → exec .buddyPut s = .next ((({ t with buddies := l } : State).kSend r.part 0 r.node
      (kRecord 0x21 r.sg r.commit (leBytes 8 shard ++ leBytes 8 0))).kTransmit r.part)) ∧
    (new = none → exec .buddyPut s = .next ((t.kSend r.part 0 r.node
      (kRecord 0x21 r.sg r.commit (leBytes 8 shard ++ leBytes 8 1))).kTransmit r.part))) ∧
  (∀ (l : List (Nat × List Byte)) (c : Nat) (d : List Byte), l.length ≤ 8 →
    (holdEntry l c d).length ≤ 8 ∧ (c, d) ∈ holdEntry l c d) ∧
  (∀ (s t : State) (r : KRec) (g : Nat), s.kTake 0x21 = (t, some r) → t.kShard r.part (leAt r.body 0 8) = some g →
    (leAt r.body 8 1 = 0 →
      ∃ u, exec .buddyAck s = .next u ∧ u.mem = t.mem ∧
        ((∃ w ∈ (t.kgroup g).waits, w.commit = r.commit ∧ w.ack = true) → r.commit ≤ (u.kgroup g).durable)) ∧
    (leAt r.body 8 1 = 1 →
      ∃ u, exec .buddyAck s = .next u ∧ u.kgroups = t.kgroups ∧ bit (u.sq .kite r.part 0x800) 21 = true ∧
        (u.source (srcKey .kite r.part)).lastCode = 0x7003 ∧ u.mem = t.mem)) ∧
  (∀ (s t : State) (r : KRec), s.kTake 0x01 = (t, some r) →
    let x := (t.kpart r.part).restore
    let mine := t.hostFed && r.fromHost && x.state = 2 && t.kOpensRestore r.part r.commit (leAt r.body 0 8)
    (mine = true → ∃ u, exec .openRecord s = .next u ∧ (u.kpart r.part).restore = { x with num := some r.sg } ∧
      u = { t with kparts := u.kparts }) ∧
    (mine = false → t.kRestores r = true → exec .openRecord s = .next t) ∧
    (mine = false → t.kRestores r = false → t.kIsFeed r = true →
      exec .openRecord s = .next ((t.kFeedOpen r).kTransmit r.part) ∧
      ((t.kgroup (t.sgBase r.part + r.sg)).feed = none → r.commit ≤ (t.sg (t.sgBase r.part + r.sg)).commit →
        ((t.kFeedOpen r).kgroup (t.sgBase r.part + r.sg)).feed = some { commit := r.commit, drop := true } ∧
        (t.kFeedOpen r).counter .kite r.part 0x818 = t.counter .kite r.part 0x818 + 1))) ∧
  (∀ (s t : State) (r : KRec), s.kTake 0x02 = (t, some r) →
    (t.kRestores r = true → exec .rowRecord s = .next ((t.kRestoreRow r).kTransmit r.part)) ∧
    (t.kRestores r = false → t.kIsFeed r = true →
      (∀ u, t.kFeedRow r = some u → exec .rowRecord s = .next (u.kTransmit r.part)) ∧
      (t.kFeedRow r = none → exec .rowRecord s = .next s)) ∧
    (t.kRestores r = false → t.kIsFeed r = false → exec .rowRecord s = .next (t.addCount .kite r.part 0x818 1))) ∧
  (∀ (s t : State) (r : KRec), s.kTake 0x03 = (t, some r) →
    (t.kRestores r = true →
      ∃ u, exec .sealRecord s = .next u ∧ (u.kpart r.part).restore = { (t.kpart r.part).restore with
        state := 3, header := bytesAt r.body 0 128, digest := bytesAt r.body 128 32 } ∧ u.mem = t.mem) ∧
    (t.kRestores r = false → t.kIsFeed r = true →
      (t.kFeedSeal r = none → exec .sealRecord s = .next s) ∧
      (∀ u, t.kFeedSeal r = some u → exec .sealRecord s = .next (u.kTransmit r.part) ∧
        (∀ f, (t.kgroup (t.sgBase r.part + r.sg)).feed = some f → f.drop = false →
          let x := u.sg (t.sgBase r.part + r.sg)
          x.commit = f.commit ∧ x.step = leAt r.body 16 8 ∧ x.second = !(t.sg (t.sgBase r.part + r.sg)).second ∧
            (u.kgroup (t.sgBase r.part + r.sg)).feed = none)))) ∧
  (∀ (s t : State) (r : KRec), s.kTake 0x04 = (t, some r) →
    let g := t.sgBase r.part + r.sg
    let u := t.kFeedUnsent r.part g
    (t.kIsFeed r = true → t.kRestores r = false →
      exec .abortRecord s = .next (((((((t.kgroup g).feed.map (·.tags)).getD []).foldl (fun v a =>
        v.devWrite kiteWrites a (List.replicate 8 0xFF)) u).setKgroup g { u.kgroup g with feed := none })).kTransmit r.part)) ∧
    (t.kIsFeed r = false ∨ t.kRestores r = true → exec .abortRecord s = .next t)) ∧
  (∀ (s t : State) (o : Option KRec), s.kTake 0x11 = (t, o) → exec .restoreReq s = .next t) ∧
  (∀ (s t : State), s.kTake 0x10 = (t, none) → exec .ack s = .next t) ∧
  (∀ (s t : State) (r : KRec) (st c : Nat) (v : List Byte), s.kTake 0x30 = (t, some r) →
    t.replAnswer r.part (leAt r.body 0 8) r.commit = (st, c, v) →
    (∀ z : State, (st ≠ 0 ∧ z = t) ∨
        (st = 0 ∧ t.kSeen (t.kCopyRanges ((t.kShard r.part (leAt r.body 0 8)).getD 0)) = some z) →
      exec .replReq s = .next ((z.kSend r.part 0 r.node (kRecord 0x31 r.sg r.commit
        (leBytes 8 (leAt r.body 0 8) ++ leBytes 8 st ++ leBytes 8 c ++ v))).kTransmit r.part)) ∧
    (st = 0 → t.kSeen (t.kCopyRanges ((t.kShard r.part (leAt r.body 0 8)).getD 0)) = none →
      exec .replReq s = .next s) ∧
    (t.kShard r.part (leAt r.body 0 8) = none → st = 2) ∧
    (∀ g, t.kShard r.part (leAt r.body 0 8) = some g →
      (st = 0 ↔ (t.sg g).commit = r.commit ∧ t.kStale g = false) ∧ c = (t.sg g).commit ∧
        (st = 0 → v = t.kCopyDigest g r.commit) ∧ st ≤ 1)) ∧
  (∀ (s t : State) (r : KRec), s.kTake 0x31 = (t, some r) →
    let p := r.part
    let x := (t.kpart p).restore
    x.state = 5 → x.peer = r.node → r.commit = x.commit → leAt r.body 0 8 = (t.kgroup x.sg).shard →
    (leAt r.body 8 1 = 0 → bytesAt r.body 24 32 = x.v →
      ∃ u, exec .replAns s = .next u ∧ (u.kpart p).restore = { x with state := 6, result := 0 } ∧
        bit (u.sq .kite p 0x800) 17 = true ∧ (u.source (srcKey .kite p)).lastCode = 0x7007) ∧
    (leAt r.body 8 1 = 0 → bytesAt r.body 24 32 ≠ x.v →
      ∃ u, exec .replAns s = .next u ∧ (u.kpart p).restore = { x with state := 7, result := 3 } ∧
        bit (u.sq .kite p 0x800) 18 = true ∧ (u.source (srcKey .kite p)).lastCode = 0x7006) ∧
    (leAt r.body 8 1 = 1 ∨ leAt r.body 8 1 = 2 →
      ∃ u, exec .replAns s = .next u ∧
        (u.kpart p).restore = { x with state := 4, result := leAt r.body 8 1 + 3 } ∧ u.regs = t.regs)) ∧
  (∀ (part : PartId) (s : State),
    let p := part.val
    let r := (s.kpart p).restore
    let x := s.kgroup r.sg
    let t := (tableRows x.table).foldl (fun t e =>
      t.devWrite kiteWrites (s.kTagAt r.sg e.2.1 e.2.2) (List.replicate 16 0xFF)) s
    let u := t.setRestore p (fun y => { y with state := 2 })
    r.state = 1 →
    (r.begun = false → s.inHold .kite p = true → exec (.restoreClearDone part) s = .next s) ∧
    (r.begun = true ∨ s.inHold .kite p = false →
    (r.host = true → exec (.restoreClearDone part) s = .next u) ∧
    (r.host = false → exec (.restoreClearDone part) s = .next ((u.kSend p r.sg (u.kGateway p)
      (kRecord 0x11 (r.sg - u.sgBase p) r.commit (leBytes 8 x.shard))).kTransmit p)))) ∧
  (∀ (part : PartId) (s : State),
    let p := part.val
    let r := (s.kpart p).restore
    let n := snapOf r.header
    r.state = 3 →
    (s.kSeen (s.kDigestRanges r.sg r.commit) = none → exec (.restoreCheckDone part) s = .next s) ∧
    ∀ z, s.kSeen (s.kDigestRanges r.sg r.commit) = some z →
    (s.restoreBad p r = true →
      ∃ u, exec (.restoreCheckDone part) s = .next u ∧ (u.kpart p).restore = { r with state := 7, result := 1 } ∧
        bit (u.sq .kite p 0x800) 20 = true ∧ (u.source (srcKey .kite p)).lastCode = 0x7004 ∧ u.mem = z.mem ∧
        u.sgs = z.sgs) ∧
    (s.restoreBad p r = false → n.skew = true → bit (s.cfg .kite p 0x108) 0 = false →
      ∃ u, exec (.restoreCheckDone part) s = .next u ∧ (u.kpart p).restore = { r with state := 7, result := 2 } ∧
        bit (u.sq .kite p 0x800) 19 = true ∧ (u.source (srcKey .kite p)).lastCode = 0x7005 ∧ u.mem = z.mem ∧
        u.sgs = z.sgs) ∧
    (s.restoreBad p r = false → n.skew = false ∨ bit (s.cfg .kite p 0x108) 0 = true →
      ∃ u, exec (.restoreCheckDone part) s = .next u ∧ (u.kpart p).restore = { r with state := 4, result := 0 } ∧
        (u.sg r.sg).ready = true ∧ (u.sg r.sg).commit = r.commit ∧ (u.sg r.sg).step = leAt r.header 16 8 ∧
        (u.kpart p).seed = n.seed ∧ (u.kpart p).cursor = n.cursor ∧ (u.kpart p).pos = n.moved ∧
        u.mem = (z.devWrite z.recordAgent (s.sg r.sg).recAddr (recordBytes r.commit (leAt r.header 16 8)
          (BitVec.ofNat 32 (leAt r.header 24 4)) (BitVec.ofNat 32 (leAt r.header 28 4)) ++
          recordBytes r.commit (leAt r.header 16 8) (BitVec.ofNat 32 (leAt r.header 24 4))
            (BitVec.ofNat 32 (leAt r.header 28 4)))).mem))

/-- HOST_FEED to KITE_MCTL_WRITE, and the items of RNG (R463, R472, R475, R478, R482, R485, R492 to R496). It rests on
choices of the model: log 43, 79, 101, 102, 105, 154, 169. -/
def Obligations.KiteItems : Prop :=
  (∀ (r : MbxReq) (s : State) (p : Nat) (ws : List Word),
    let k := s.kpart p
    (s.asks r .kite (rwItem 1 4) p false ws → exec (.stage r) s = .next (s.mbxBegin r .kite 1 errDone
      (wordsOf 2 k.stage.1 ++ wordsOf 2 k.stage.2))) ∧
    (s.asks r .kite (rwItem 1 4) p true ws → s.kOpenWork p = false →
      s.stageOk p (natOf (ws.take 2)) (natOf (ws.drop 2)) = true →
      exec (.stage r) s = .next ((s.setKpart p { k with
        stage := (natOf (ws.take 2), natOf (ws.drop 2)), fed := 0, taken := 0 }).mbxBegin r .kite 1 errDone [])) ∧
    (s.asks r .kite (rwItem 1 4) p true ws →
      s.kOpenWork p = true ∨ s.stageOk p (natOf (ws.take 2)) (natOf (ws.drop 2)) = false →
      exec (.stage r) s = .next (s.mbxBegin r .kite 1 errBadCmd [])) ∧
    (s.asks r .kite (rwItem 2 6) p true ws → s.kOpenWork p = false → ringWordsOk ws = true →
      exec (.hostRing r) s = .next ((s.setKpart p { k with
        ring := (natOf (ws.take 2), natOf ((ws.drop 2).take 2)), ringEn := bit (ws.getD 4 0) 31
        pasid := field (ws.getD 4 0) 19 0, produced := 0, consumed := 0 }).mbxBegin r .kite 2 errDone [])) ∧
    (s.asks r .kite (rwItem 2 6) p false ws → exec (.hostRing r) s = .next (s.mbxBegin r .kite 2 errDone
      (wordsOf 2 k.ring.1 ++ wordsOf 2 k.ring.2 ++ [flag k.ringEn 31 ||| place k.pasid 0, 0]))) ∧
    (s.asks r .kite (wrItem 3 2) p true ws → k.streams = [] →
      ∃ t : State, exec (.hostConsumed r) s = .next (t.mbxBegin r .kite 3 errDone []) ∧ (t.kpart p).consumed = natOf ws ∧
        t.mem = s.mem ∧ t.coll = s.coll) ∧
    (s.asks r .kite (wrItem 4 4) p true ws → exec (.hostAck r) s = .next
      ((s.storeAck p (natOf (ws.take 2)) (natOf (ws.drop 2))).mbxBegin r .kite 4 errDone [])) ∧
    (s.asks r .kite (wrItem 5 2) p true ws → exec (.feed r) s = .next
      ((s.setKpart p { k with fed := natOf ws }).mbxBegin r .kite 5 errDone [])) ∧
    (s.asks r .kite (wrItem 0x32 2) p true ws →
      exec (.hostFeed r) s = .next (if s.hostFed then
        (s.setKpart p { k with fed := natOf ws }).mbxBegin r .kite 0x32 errDone []
        else s.mbxBegin r .kite 0x32 errBadCmd [])) ∧
    (s.asks r .kite (rwItem 0x10 1) p true ws → exec (.sgSel r) s = .next
      ((s.setArg r.req .kite 0x10 p ws).mbxBegin r .kite 0x10 errDone [])) ∧
    (s.asks r .kite (wrItem 0x15 8) p true ws → exec (.expect r) s = .next
      ((s.setKpart p { k with expect := bytesOfWords ws }).mbxBegin r .kite 0x15 errDone [])) ∧
    (s.asks r .kite (wrItem 0x17 1) p true ws →
      (∀ z, k.restore.state = 4 → (s.sg k.restore.sg).wcStale = false → s.kSeen (s.kCopyRanges k.restore.sg) = some z →
        let u := z.setRestore p (fun y => { y with
          state := 5, result := 0, peer := BitVec.setWidth 15 (ws.getD 0 0)
          v := s.kCopyDigest k.restore.sg k.restore.commit })
        exec (.replica r) s = .next (((u.kSend p k.restore.sg (BitVec.setWidth 15 (ws.getD 0 0))
          (kRecord 0x30 (k.restore.sg - s.sgBase p) k.restore.commit
            (leBytes 8 (s.kgroup k.restore.sg).shard))).kTransmit p).mbxBegin r .kite 0x17 errDone [])) ∧
      (k.restore.state = 4 → (s.sg k.restore.sg).wcStale = false → s.kSeen (s.kCopyRanges k.restore.sg) = none →
        exec (.replica r) s = .next ((s.setCopy r.req r.win .kite { s.copyOf r.req r.win .kite with
          todo := some [p, (ws.getD 0 0).toNat] }).mbxBegin r .kite 0x17 errDone [])) ∧
      (k.restore.state ≠ 4 ∨ (s.sg k.restore.sg).wcStale = true →
        exec (.replica r) s = .next (s.mbxBegin r .kite 0x17 errBadCmd []))) ∧
    (s.asks r .kite (wrItem 0x20 6) p true ws → ws.getD 1 0 = 0 → exec (.buddyArg r) s = .next
      ((s.setArg r.req .kite 0x20 p ws).mbxBegin r .kite 0x20 errDone [])) ∧
    (s.asks r .kite (rdItem 0x21 8) p false ws →
      (∀ b e, s.buddies.find? (s.buddyKey r p) = some b →
        b.held.find? (·.1 = natOf ((s.arg r.req .kite 0x20 p).drop 4)) = some e →
        exec (.buddyGet r) s = .next (s.mbxBegin r .kite 0x21 errDone (wordsOf 8 (leNat e.2)))) ∧
      (s.buddies.find? (s.buddyKey r p) = none → exec (.buddyGet r) s = .next (s.mbxBegin r .kite 0x21 errBadCmd []))) ∧
    (s.asks r .kite (wrItem 0x22 1) p true ws →
      ∃ t : State, exec (.buddyDrop r) s = .next (t.mbxBegin r .kite 0x22 errDone []) ∧
        t.buddies = s.buddies.filter (fun b => !(s.buddyKey r p b)) ∧ t = { s with buddies := t.buddies })) ∧
  (∀ (r : MbxReq) (s : State) (p g : Nat) (ws : List Word), s.kSel r p = some g →
    let x := s.kgroup g
    (s.asks r .kite (rwItem 0x11 6) p false ws → exec (.sgTable r) s = .next (s.mbxBegin r .kite 0x11 errDone
      (wordsOf 2 x.addr ++ [BitVec.ofNat 32 x.table.length, 0] ++ wordsOf 2 x.shard))) ∧
    (s.asks r .kite (rwItem 0x11 6) p true ws → s.kOpenWork p = false → ws.getD 3 0 = 0 →
      (ws.getD 2 0 = 0 → exec (.sgTable r) s = .next
        ((s.setKgroup g { x with shard := 0, addr := 0, table := [] }).mbxBegin r .kite 0x11 errDone [])) ∧
      (∀ l z, ws.getD 2 0 ≠ 0 → s.kTableOf p g (natOf (ws.take 2)) (ws.getD 2 0).toNat = some l →
        s.kSeen [(natOf (ws.take 2), 64 * l.length)] = some z →
        exec (.sgTable r) s =
        .next ((z.setKgroup g { x with
          shard := natOf (ws.drop 4), addr := natOf (ws.take 2), table := l }).mbxBegin r .kite 0x11 errDone []))) ∧
    (s.asks r .kite (rwItem 0x12 4) p false ws → exec (.base r) s = .next (s.mbxBegin r .kite 0x12 errDone
      (wordsOf 2 (x.base.getD 0) ++ [flag x.base.isSome 0, 0]))) ∧
    (s.asks r .kite (rwItem 0x12 4) p true ws → ws.getD 3 0 = 0 → exec (.base r) s = .next
      ((s.setKgroup g { x with base := if bit (ws.getD 2 0) 0 then some (natOf (ws.take 2)) else none }).mbxBegin
        r .kite 0x12 errDone [])) ∧
    (s.asks r .kite (rdItem 0x13 4) p false ws → exec (.kiteCommits r) s = .next (s.mbxBegin r .kite 0x13 errDone
      (wordsOf 2 x.sealed_ ++ wordsOf 2 x.durable))) ∧
    (s.asks r .kite (rdItem 0x14 8) p false ws → exec (.kiteDigest r) s = .next (s.mbxBegin r .kite 0x14 errDone
      (wordsOf 8 (leNat x.digest)))) ∧
    (s.asks r .kite (wrItem 0x16 4) p true ws → ws.getD 3 0 = 0 →
      s.restoreOk p g (field (ws.getD 2 0) 1 0) = true →
      ∃ t : State, exec (.restore r) s = .next (t.mbxBegin r .kite 0x16 errDone []) ∧ (t.sg g).ready = false ∧
        (t.kpart p).restore = {
          state := 1, sg := g, commit := natOf (ws.take 2), host := field (ws.getD 2 0) 1 0 = 2, begun := !(s.inHold .kite p)
        } ∧
        t = { s with sgs := t.sgs, kparts := t.kparts }) ∧
    (s.asks r .kite (wrItem 0x16 4) p true ws →
      ws.getD 3 0 ≠ 0 ∨ s.restoreOk p g (field (ws.getD 2 0) 1 0) = false →
      exec (.restore r) s = .next (s.mbxBegin r .kite 0x16 errBadCmd [])) ∧
    (s.asks r .kite (wrItem 0x18 1) p true ws → exec (.failNote r) s = .next
      ((s.setKgroup g { x with fails := x.fails + 1 }).mbxBegin r .kite 0x18 errDone [])) ∧
    (s.asks r .kite (rdItem 0x19 6) p false ws → x.costs ≠ [] → exec (.adapt r) s = .next (s.mbxBegin r .kite 0x19 errDone
      (wordsOf 2 (x.costs.sum / (x.costs.length * 800)) ++
        wordsOf 2 (s.kSince p g / ((x.fails + 1) * 800000000)) ++ [BitVec.ofNat 32 x.interval, 0]))) ∧
    (s.asks r .kite (rwItem 0x30 2) p true ws → s.hostFed = true → s.kGroupOpen p g = false → s.krecOk p (natOf ws) = true →
      natOf ws ≠ 0 → ∀ z, (s.setSg g { s.sg g with recAddr := natOf ws }).loadRecord g = some z →
        exec (.krecAddr r) s = .next (z.mbxBegin r .kite 0x30 errDone [])) ∧
    (s.asks r .kite (rwItem 0x30 2) p false ws → s.hostFed = true →
      exec (.krecAddr r) s = .next (s.mbxBegin r .kite 0x30 errDone (wordsOf 2 (s.sg g).recAddr))) ∧
    (s.asks r .kite (wrItem 0x31 6) p true ws → s.hostFed = true → (s.sg g).recAddr ≠ 0 →
      exec (.krecInit r) s = .next ((s.initRecord g (natOf (ws.take 2)) (natOf ((ws.drop 2).take 2)) (ws.getD 4 0)
        (ws.getD 5 0)).mbxBegin r .kite 0x31 errDone [])) ∧
    (s.asks r .kite (rwItem 0x33 1) p true ws → s.hostFed = true → exec (.wcStale r) s = .next
      ((s.setSg g { s.sg g with wcStale := bit (ws.getD 0 0) 0 }).mbxBegin r .kite 0x33 errDone [])) ∧
    (s.asks r .kite (rwItem 0x33 1) p false ws → s.hostFed = true →
      exec (.wcStale r) s = .next (s.mbxBegin r .kite 0x33 errDone [flag (s.sg g).wcStale 0]))) ∧
  (∀ (r : MbxReq) (s : State) (p : Nat) (ws : List Word), s.kSel r p = none →
    s.asks r .kite (rdItem 0x13 4) p false ws →
    exec (.kiteCommits r) s = .next (s.mbxBegin r .kite 0x13 errBadCmd [])) ∧
  (∀ (r : Req) (w : Window) (v : Word) (s : State) (p : Nat), s.reaches r w .kite p 0x100 →
    (∀ g, (s.kgroup g).ckpt = none ∧ (s.kgroup g).feed = none) →
    ∃ t, exec (.kiteCfgWrite r w v) s = .next t ∧ t.mem = s.mem ∧
      (field v 30 29 ≠ 3 → t.cfg .kite p 0x100 = v &&& cfgMask .kite 0x100) ∧
      (field v 30 29 = 3 → t.kDest p = s.kDest p ∧ t.kGateway p = BitVec.setWidth 15 v ∧ t.kAdaptive p = bit v 28) ∧
      (bit v 28 = true → ∀ g, s.sgBase p ≤ g → g < s.sgBase p + s.sgCount p →
        (t.kgroup g).cadence = s.now ∧ (t.kgroup g).fails = 0)) ∧
  (∀ (r : Req) (v : Word) (s : State) (p : Nat), s.reaches r .glob .kite p 0x300 →
    ∃ t, exec (.kiteMctlWrite r v) s = .next t ∧ t.cfg .kite 0 0x300 = v &&& 1 ∧ t.mem = s.mem ∧
      (bit v 0 = true → t = { s with regs := t.regs })) ∧
  (∀ (r : MbxReq) (s : State) (p : Nat) (ws : List Word),
    let k := s.kpart p
    (s.asks r .rng (rwItem 1 2) p true ws → exec (.rngSeed r) s = .next
      ((s.setKpart p { k with seed := BitVec.ofNat 64 (natOf ws) }).mbxBegin r .rng 1 errDone [])) ∧
    (s.asks r .rng (rwItem 1 2) p false ws →
      exec (.rngSeed r) s = .next (s.mbxBegin r .rng 1 errDone (wordsOf 2 k.seed.toNat))) ∧
    (s.asks r .rng (rwItem 2 2) p true ws → exec (.cursor r) s = .next
      ((s.setKpart p { k with cursor := BitVec.ofNat 64 (natOf ws) }).mbxBegin r .rng 2 errDone [])) ∧
    (s.asks r .rng (rwItem 2 2) p false ws →
      exec (.cursor r) s = .next (s.mbxBegin r .rng 2 errDone (wordsOf 2 k.cursor.toNat))) ∧
    (∀ q : Fin 4, s.asks r .rng (rwItem (0x10 + q.val) 2) p true ws → exec (.pos r q) s = .next
      ((s.setKpart p { k with pos := k.pos.set q.val (BitVec.ofNat 64 (natOf ws)) }).mbxBegin r .rng (0x10 + q.val)
        errDone [])) ∧
    (∀ q : Fin 4, s.asks r .rng (rwItem (0x10 + q.val) 2) p false ws →
      exec (.pos r q) s = .next (s.mbxBegin r .rng (0x10 + q.val) errDone (wordsOf 2 (k.pos.getD q.val 0).toNat))) ∧
    (s.asks r .rng (rdItem 0x20 8) p false ws → exec (.snapPos r) s = .next (s.mbxBegin r .rng 0x20 errDone
      (k.snap.pos.flatMap (fun v => wordsOf 2 v.toNat)))) ∧
    (s.asks r .rng (rdItem 0x21 2) p false ws →
      exec (.snapCursor r) s = .next (s.mbxBegin r .rng 0x21 errDone (wordsOf 2 k.snap.cursor.toNat))))

/-- VIN_APPLIED to RELOCK_TIMEOUT, PLL_RELOCK and CLOCK_RESUME (R501, R504, R505, R507, R509, R513, R517, R518, R526).
It rests on choices of the model: log 107, 110, 111, 112, 115, 158, 159. -/
def Obligations.PowerAndBoot : Prop :=
  (∀ (x : Supply) (s : State), 480 ≤ x.dv.toNat → x.dv.toNat ≤ 580 →
    (s.power.standby = true → exec (.vinApplied x) s =
      .next { s with power := { s.power with low := false, vinDv := x.dv.toNat } }) ∧
    (s.power.standby = false → ∃ t v w, exec (.vinApplied x) s = .next t ∧ t.power.standby = true ∧
      t.power.rails = false ∧ t.power.slotId = x.slot ∧ t.power.vinDv = x.dv.toNat ∧
      t.ready = false ∧ t.mem = [] ∧ t.sec.slotA = s.sec.slotA ∧ t.sec.slotB = s.sec.slotB ∧
      t.sec.fuseSvn = s.sec.fuseSvn ∧ t.sec = s.sec.powerOn v w)) ∧
  (∀ (s : State), s.power.standby = true → s.sec.slotRun = none → s.sec.recovery = false →
    let a := imageValid s.sec.fuseSvn s.sec.slotA
    let b := imageValid s.sec.fuseSvn s.sec.slotB
    let runA := a && (!b || preferA s.sec.slotA s.sec.slotB)
    ∃ t, exec .firmwareVerified s = .next t ∧ t = { s with sec := t.sec, out := t.out } ∧
      t.out = (if a || b then [.slotId s.power.slotId] else []) ++ s.out ∧ t.sec.fuseSvn = s.sec.fuseSvn ∧
      t.sec.slotRun = (if runA then some false else if b then some true else none) ∧
      t.sec.image = (if runA then s.sec.slotA else if b then s.sec.slotB else s.sec.image) ∧
      t.sec.recovery = (!a && !b)) ∧
  (∀ (s : State), exec .pwrEnAssert s = .next { s with power := { s.power with pwrEn := true } }) ∧
  (∀ (s : State), s.power.rails = true →
    ∃ t, exec .pwrEnDeassert s = .next t ∧ t.power.rails = false ∧ t.power.standby = true ∧ t.power.pwrEn = false ∧
      t.ready = false ∧ t.mem = [] ∧ t.sec.slotRun = none ∧ t.sec.fuseSvn = s.sec.fuseSvn) ∧
  (∀ (s : State), s.power.standby = true → s.power.pwrEn = true → s.sec.slotRun.isSome = true → s.power.rails = false →
    ∃ t, exec .railsUp s = .next t ∧ t.power.rails = true ∧ t.out = .pin "PWR_GOOD" true :: s.out ∧ t.mem = s.mem) ∧
  (∀ (s : State), s.power.perst = true →
    ∃ t, exec .perstDeassert s = .next t ∧ t.power.perst = false ∧ t.mem = s.mem ∧
      (s.power.rails = true → s.power.hot = false → s.power.itemReset = false → s.power.phase = 0 →
        t.power.phase = 1 ∧ t.power.released = s.now)) ∧
  (∀ (s : State), s.power.rails = true → s.power.perst = false →
    ∃ t v w, exec .perstAssert s = .next t ∧ t.power.perst = true ∧ t.power.phase = 0 ∧ t.power.kind = 1 ∧
      t.ready = false ∧ t.mem = s.mem ∧ t.hbm.upset = s.hbm.upset ∧ t.regs = State.reset.regs ∧
      t.cores = State.reset.cores ∧ t.sec.slotRun = s.sec.slotRun ∧ t.sec.fuseSvn = s.sec.fuseSvn ∧
      t.sec = s.sec.reload v w) ∧
  (∀ (s : State), s.power.phase = 1 → exec .clocksDone s =
    .next { s with power := { s.power with phase := 2, unlocked := [] } }) ∧
  (∀ (s : State), s.power.phase = 2 → exec .memoryDone s = .next { s with
    power := { s.power with phase := 3 }, slices := [], ports := []
    regs := { s.regs with cfg := [], par := [], found := [], accepted := [] } }) ∧
  (∀ (r : SelfTest) (s : State), s.power.phase = 3 →
    ∃ t, exec (.selftestDone r) s = .next t ∧ t.power.phase = 4 ∧ t.mem = s.mem ∧
      (r.sliceFail = true → t.power.coreFail = List.range 384) ∧
      (r.sliceFail = false → ∀ k, k ∈ t.power.coreFail ↔ ∃ c ∈ r.check1, c.val = k) ∧
      (∀ c ∈ r.check2, c ∉ r.check1 → bit (t.cfg .array c.val 0x100) 0 = true) ∧
      (∀ c ∈ r.check3, c ∉ r.check1 → bit (t.cfg .array c.val 0x100) 1 = true)) ∧
  (∀ (s : State), s.power.phase = 4 →
    ∃ t, exec .bootClearDone s = .next t ∧ t.ready = true ∧ t.power.phase = 5 ∧ t.mem = s.mem ∧
      t.power.bootTime = (s.now - s.power.released) / 800 ∧
      (s.power.failed = true → bit (t.sq .clkrst 0 0x808) 23 = true ∧
        (t.source (srcKey .clkrst 0)).lastCode = 0x2004) ∧
      (s.power.failed = false → t.regs = s.regs)) ∧
  (∀ (s : State), s.power.standby = true → s.power.low = false →
    ∃ t, exec .supplyLow s = .next t ∧ t.power.low = true ∧ bit (t.sq .power 0 0x800) 21 = true ∧
      (t.source (srcKey .power 0)).lastCode = 0x2003 ∧ t.mem = s.mem ∧ exec .supplyLow t = .next t) ∧
  (∀ (s : State), s.power.standby = true →
    ∃ t, exec .supplyLoss s = .next t ∧ t.power.standby = false ∧ t.power.rails = false ∧ t.ready = false ∧ t.mem = [] ∧
      t.sec.fuseSvn = s.sec.fuseSvn ∧ t.sec.slotA = s.sec.slotA ∧ t.sec.slotB = s.sec.slotB) ∧
  (∀ (m : PowerMeas) (s : State), s.power.phase ≠ 0 →
    let least := field (s.cfg .power 0 0x100) 23 20
    ∃ t, exec (.governorWindow m) s = .next t ∧ t.regs = s.regs ∧ t.mem = s.mem ∧ t.cores = s.cores ∧
      t.power.computeW = m.computeW.toNat ∧ t.power.avgW = m.avgW.toNat ∧ t.power.inputW = m.inputW.toNat ∧
      t.power.junction = m.junction.toNat ∧ t.power.memDies = m.memDies ∧ t.power.ioDie = m.ioDie.toNat ∧
      t.power.narogC = m.narog.toNat ∧
      ((s.takeReadings m).limited m = true →
        t.govLevel = (if least < s.govLevel then s.govLevel - 1 else s.govLevel) ∧ t.power.quiet = 0) ∧
      ((s.takeReadings m).limited m = false → s.power.quiet < 9 →
        t.govLevel = s.govLevel ∧ t.power.quiet = s.power.quiet + 1) ∧
      ((s.takeReadings m).limited m = false → 9 ≤ s.power.quiet →
        t.govLevel = min 16 (s.govLevel + 1) ∧ t.power.quiet = 0)) ∧
  (∀ (junction coolant : BitVec 8) (s : State), s.power.phase ≠ 0 →
    let limit := field (s.cfg .power 0 0x104) 7 0
    (limit ≤ junction.toNat → s.power.warm.1 = false →
      ∃ t, exec (.thermWarn junction coolant) s = .next t ∧ bit (t.sq .power 0 0x800) 22 = true ∧
        (t.source (srcKey .power 0)).lastCode = 0x2002 ∧ t.power.warm.1 = true ∧ t.mem = s.mem) ∧
    (junction.toNat < limit → coolant.toNat ≤ 45 →
      ∃ t, exec (.thermWarn junction coolant) s = .next t ∧ t.regs = s.regs ∧ t.power.warm = (false, false))) ∧
  (∀ (junction stack : BitVec 8) (s : State), s.power.rails = true → s.power.hot = false →
    110 ≤ junction.toNat ∨ 105 ≤ stack.toNat →
    ∃ t, exec (.thermalTrip junction stack) s = .next t ∧ t.power.trip = true ∧ t.power.hot = true ∧ t.power.phase = 0 ∧
      t.power.kind = 3 ∧ t.sec.trips = s.now :: s.sec.trips ∧ t.ready = false ∧ t.mem = s.mem ∧
      ∃ l, t.out = .pin "THERM_TRIP#" false :: l) ∧
  (∀ (junction stack : BitVec 8) (s : State), s.power.hot = true → junction.toNat < 95 → stack.toNat < 85 →
    ∃ t, exec (.thermalTripRelease junction stack) s = .next t ∧ t.power.hot = false ∧ t.mem = s.mem ∧
      (s.power.rails = true → s.power.perst = false → s.power.itemReset = false → s.power.phase = 0 →
        t.power.phase = 1 ∧ t.power.trip = false)) ∧
  (∀ (a b : Fin 9) (inst : BitVec 9) (s : State), s.power.phase ≠ 0 →
    (s.power.stalls.contains (a.val, b.val, inst.toNat) = false →
      ∃ t, exec (.crossingStall a b inst) s = .next t ∧ t.power.stalls = s.power.stalls ++ [(a.val, b.val, inst.toNat)] ∧
        bit (t.sq .clkrst 0 0x804) 23 = true ∧ bit (t.sq .clkrst 0 0x804) 21 = false ∧
        field (t.sq .clkrst 0 0x804) 20 17 = a.val ∧ field (t.sq .clkrst 0 0x804) 16 13 = b.val ∧
        field (t.sq .clkrst 0 0x804) 12 4 = inst.toNat ∧ (t.source (srcKey .clkrst 0)).lastCode = 0x2001 ∧ t.mem = s.mem) ∧
    ((∀ x ∈ s.power.unlocked, ¬ (x.send = a.val ∧ x.recv = b.val ∧ x.inst = inst.toNat)) →
      ∃ t y, exec (.pllUnlock a b inst) s = .next t ∧ t.power.unlocked = s.power.unlocked ++ [y] ∧
        y.send = a.val ∧ y.recv = b.val ∧ y.inst = inst.toNat ∧
        ((∀ x ∈ s.power.unlocked, samePll x a.val inst.toNat = false) → y.since = s.now ∧ y.tried = false) ∧
        bit (t.sq .clkrst 0 0x804) 23 = true ∧ bit (t.sq .clkrst 0 0x804) 21 = true ∧
        field (t.sq .clkrst 0 0x804) 20 17 = a.val ∧ (t.source (srcKey .clkrst 0)).lastCode = 0x2001 ∧ t.mem = s.mem)) ∧
  (∀ (c : ClockId) (s : State),
    let mine := fun (send inst : Nat) => send = c.dom.val ∧ (send ≠ 3 ∨ inst = c.stack.val)
    (∃ t, exec (.relockTimeout c) s = .next t ∧ t = { s with power := t.power } ∧ t.power.stalls = s.power.stalls ∧
      ∀ (i : Nat) x, s.power.unlocked[i]? = some x →
        (mine x.send x.inst → x.tried = false → x.since + 800000 ≤ s.now →
          t.power.unlocked[i]? = some { x with tried := true }) ∧
        (¬ mine x.send x.inst ∨ x.tried = true ∨ s.now < x.since + 800000 → t.power.unlocked[i]? = some x)) ∧
    (∃ t, exec (.pllRelock c) s = .next t ∧ t = { s with power := t.power } ∧ t.power.stalls = s.power.stalls ∧
      ∀ x, x ∈ t.power.unlocked ↔ x ∈ s.power.unlocked ∧ ¬ (mine x.send x.inst ∧ x.tried = false)) ∧
    (∃ t, exec (.clockResume c) s = .next t ∧ t = { s with power := t.power } ∧ t.power.unlocked = s.power.unlocked ∧
      ∀ x, x ∈ t.power.stalls ↔ x ∈ s.power.stalls ∧ ¬ mine x.1 x.2.2))

/-- BLOCK_RST to BOOT_TIME and MODULE_RESET_RELEASE (R509, R510, R515, R520), and FEED_CYCLES to ENTRIES_IN (R186, R222,
R306): the resets of instances and of the module, and the mailbox items that read a counter. It rests on choices of the
model: log 107, 113, 114, 116. -/
def Obligations.ResetsAndCounters : Prop :=
  (∀ (r : MbxReq) (s : State) (k : Nat) (ws : List Word), s.asks r .clkrst (wrItem 1 1) k true ws →
    (s.blockOf (ws.getD 0 0) = none → exec (.blockRst r) s = .next (s.mbxBegin r .clkrst 1 errBadCmd [])) ∧
    (∀ b i, s.blockOf (ws.getD 0 0) = some (b, i) →
      (s.ready = false ∨ s.inReset b i = true →
        exec (.blockRst r) s = .next (s.mbxBegin r .clkrst 1 errDenied [])) ∧
      (s.ready = true → s.inReset b i = false →
        exec (.blockRst r) s = .next ((s.blockReset b i).mbxBegin r .clkrst 1 errDone []) ∧
        (s.blockReset b i).inReset b i = true))) ∧
  (∀ (s : State) (k : Nat), k < 384 → (s.resetCore k).core k = {} ∧ (s.resetCore k).inReset .core k = true ∧
    (s.resetCore k).inReset .array k = true ∧ (s.resetCore k).inReset .sparse k = true ∧
    (s.resetCore k).inReset .stall k = true ∧ (∀ m ∈ (s.resetCore k).dn, m.core ≠ k) ∧
    (∀ m ∈ (s.resetCore k).up, m.core = k → m.body = .empty) ∧
    (s.coreCtx k = none → (s.resetCore k).cfg .array k 0x100 = s.cfg .array k 0x100 ∧ (s.resetCore k).mem = s.mem ∧ ∀ j, j ≠ k → (s.resetCore k).core j = s.core j)) ∧
  (∀ (s : State) (p : Nat), p < 6 → ((s.resetUlink p).port p).st = .off ∧ ((s.resetUlink p).port p).held = [] ∧
    (s.resetUlink p).inReset .ulink p = true ∧ (s.resetUlink p).nodeId = s.nodeId ∧
    (∀ d, (s.resetUlink p).dimSize d = s.dimSize d) ∧ (s.resetUlink p).mem = s.mem) ∧
  (∀ (b : Block) (i : Fin 384) (s : State), b = .core ∨ b = .dma ∨ b = .ulink →
    ∃ t, exec (.blockResetComplete b i) s = .next t ∧ t.inReset b i.val = false ∧
      (b = .core → t.inReset .array i.val = false ∧ t.inReset .sparse i.val = false ∧ t.inReset .stall i.val = false) ∧
      t = { s with regs := { s.regs with rst := t.regs.rst } }) ∧
  (∀ (r : MbxReq) (s : State) (k : Nat) (ws : List Word), s.asks r .clkrst (wrItem 2 1) k true ws →
    ((s.copyOf r.req r.win .clkrst).d.getD 0 0 = 0xAA55 →
      ∃ t, exec (.moduleReset r) s = .next t ∧ t.power.itemReset = true ∧ t.power.phase = 0 ∧ t.power.kind = 2 ∧
        t.ready = false ∧ t.mem = s.mem ∧ t.regs = State.reset.regs ∧ t.sec.slotRun = s.sec.slotRun) ∧
    ((s.copyOf r.req r.win .clkrst).d.getD 0 0 ≠ 0xAA55 →
      exec (.moduleReset r) s = .next (s.mbxBegin r .clkrst 2 errBadCmd []))) ∧
  (∀ (s : State), s.power.itemReset = true →
    ∃ t, exec .moduleResetRelease s = .next t ∧ t.power.itemReset = false ∧ t.mem = s.mem ∧
      (s.power.rails = true → s.power.perst = false → s.power.hot = false → s.power.phase = 0 →
        t.power.phase = 1 ∧ t.power.released = s.now)) ∧
  (∀ (r : MbxReq) (s : State) (k : Nat) (ws : List Word),
    (s.asks r .clkrst (rdItem 3 8) k false ws → exec (.coreFailLo r) s =
      .next (s.mbxBegin r .clkrst 3 errDone (wordsOf 8 (coreBits s.power.coreFail 0 256)))) ∧
    (s.asks r .clkrst (rdItem 4 4) k false ws → exec (.coreFailHi r) s =
      .next (s.mbxBegin r .clkrst 4 errDone (wordsOf 4 (coreBits s.power.coreFail 256 128)))) ∧
    (s.asks r .clkrst (rdItem 5 2) k false ws → exec (.bootTime r) s =
      .next (s.mbxBegin r .clkrst 5 errDone (wordsOf 2 s.power.bootTime))) ∧
    (s.asks r .array (rdItem 1 2) k false ws → exec (.feedCycles r) s =
      .next (s.mbxBegin r .array 1 errDone (wordsOf 2 (s.feedCycles k)))) ∧
    (s.asks r .array (rdItem 2 2) k false ws → exec (.swaps r) s =
      .next (s.mbxBegin r .array 2 errDone (wordsOf 2 (s.counter .array k 0xF02)))) ∧
    (∀ n : Fin 80, s.asks r .stall (rdItem (0x100 + n.val) 2) k false ws → exec (.stallCountRead r n) s =
      .next (s.mbxBegin r .stall (0x100 + n.val) errDone (wordsOf 2 (s.counter .stall k (0x800 + 4 * n.val))))) ∧
    (s.asks r .sparse (rdItem 1 2) k false ws → exec (.mispTotal r) s =
      .next (s.mbxBegin r .sparse 1 errDone (wordsOf 2 (s.counter .sparse k 0xF01)))) ∧
    (s.asks r .marble (rdItem 1 2) k false ws → exec (.entriesIn r) s =
      .next (s.mbxBegin r .marble 1 errDone (wordsOf 2 (s.counter .marble k 0xF01)))))

/-- FW_LOAD to MCTP_CONTROL_MESSAGE (R119, R525 to R536): firmware slots, FUSE_SVN, measurements, and the identity key,
whose indices are taken in ascending order below RESERVED. It rests on choices of the model: log 12, 36, 109, 117, 118,
119, 120, 159. -/
def Obligations.FirmwareAndIdentity : Prop :=
  (∀ (r : MbxReq) (s : State) (k : Nat) (ws : List Word),
    (s.asks r .sec (wrItem 0x10 4) k true ws →
      (s.sec.loading = none → natOf (ws.take 2) % 4096 = 0 → isStack s.variant (natOf (ws.take 2)) = true →
        let b := s.devRead (natOf (ws.take 2)) (natOf (ws.drop 2))
        let ok := imageValid s.sec.fuseSvn b && !(s.rangePoison (natOf (ws.take 2)) (natOf (ws.drop 2)))
        (∀ z, s.agentRead false (natOf (ws.take 2)) (natOf (ws.drop 2)) = some z →
          ∃ t : State, exec (.fwLoad r) s = .next (t.mbxBegin r .sec 0x10 errDone []) ∧ t = { z with sec := t.sec } ∧
            t.sec.loading = some (b, ok) ∧ t.sec.slotRun = s.sec.slotRun ∧ t.sec.fuseSvn = s.sec.fuseSvn ∧
            (ok = true → s.sec.slotRun = some true → t.sec.validA = false ∧ t.sec.slotB = s.sec.slotB ∧
              t.sec.validB = s.sec.validB) ∧
            (ok = true → s.sec.slotRun ≠ some true → t.sec.validB = false ∧ t.sec.slotA = s.sec.slotA ∧
              t.sec.validA = s.sec.validA) ∧
            (ok = false → t.sec = { s.sec with loading := some (b, ok) })) ∧
        (s.agentRead false (natOf (ws.take 2)) (natOf (ws.drop 2)) = none →
          exec (.fwLoad r) s = .next ((s.setCopy r.req r.win .sec { s.copyOf r.req r.win .sec with
            todo := some [natOf (ws.take 2), natOf (ws.drop 2)] }).mbxBegin r .sec 0x10 errDone []))) ∧
      (s.sec.loading.isSome = true → exec (.fwLoad r) s = .next (s.mbxBegin r .sec 0x10 errBadCmd []))) ∧
    (s.asks r .sec (rdItem 0x11 8) k false ws → exec (.fwInfo r) s = .next (s.mbxBegin r .sec 0x11 errDone
      (wordsOf 2 (imgSvn s.sec.slotA) ++ wordsOf 2 (imgSvn s.sec.slotB) ++ wordsOf 2 s.sec.fuseSvn ++
        [flag s.sec.validB 1 ||| flag s.sec.validA 0, 0]))) ∧
    (s.asks r .sec (wrItem 0x12 1) k true ws →
      (ws.getD 0 0 = 0x5AA5 → s.sec.loading = none →
        ∃ t : State, exec (.fwCommitSvn r) s = .next (t.mbxBegin r .sec 0x12 errDone []) ∧
          t.sec.fuseSvn = max s.sec.fuseSvn (min 64 (imgSvn s.sec.image)) ∧ t.mem = s.mem ∧ t.sec.slotA = s.sec.slotA ∧
          t.sec.slotB = s.sec.slotB ∧
          (t.sec.fuseSvn = s.sec.fuseSvn → t.sec.validA = s.sec.validA ∧ t.sec.validB = s.sec.validB) ∧
          (s.sec.fuseSvn < t.sec.fuseSvn →
            t.sec.validA = (s.sec.validA && decide (t.sec.fuseSvn ≤ imgSvn s.sec.slotA)) ∧
            t.sec.validB = (s.sec.validB && decide (t.sec.fuseSvn ≤ imgSvn s.sec.slotB)))) ∧
      (ws.getD 0 0 ≠ 0x5AA5 ∨ s.sec.loading.isSome = true →
        exec (.fwCommitSvn r) s = .next (s.mbxBegin r .sec 0x12 errBadCmd []))) ∧
    (s.asks r .sec (rdItem 1 4) k false ws → exec (.signIndex r) s = .next (s.mbxBegin r .sec 1 errDone
      (wordsOf 2 s.sec.next ++ wordsOf 2 s.sec.limit))) ∧
    (s.asks r .sec (rdItem 2 2) k false ws → exec (.generation r) s = .next (s.mbxBegin r .sec 2 errDone
      (wordsOf 2 s.sec.generation))) ∧
    (s.asks r .sec (wrItem 3 1) k true ws → exec (.measArg r) s = .next
      ((s.setArg r.req .sec 3 0 ws).mbxBegin r .sec 3 errDone [])) ∧
    (∀ d, s.asks r .sec (rdItem 4 8) k false ws →
      s.measurement (field ((s.arg r.req .sec 3 0).getD 0 0) 5 0) = some d →
      exec (.secMeas r) s = .next (s.mbxBegin r .sec 4 errDone (wordsOf 8 (leNat d))))) ∧
  (∀ (s : State) (b : List Byte) (ok : Bool), s.sec.loading = some (b, ok) →
    ∃ t, exec .fwLoadComplete s = .next t ∧ t.sec.loading = none ∧ t.sec.slotRun = s.sec.slotRun ∧ t.mem = s.mem ∧
      (ok = true → s.sec.slotRun = some true → t.sec.slotA = b ∧ t.sec.validA = true ∧ t.sec.slotB = s.sec.slotB ∧
        t.sec.validB = s.sec.validB ∧ t.regs = s.regs) ∧
      (ok = true → s.sec.slotRun ≠ some true → t.sec.slotB = b ∧ t.sec.validB = true ∧ t.sec.slotA = s.sec.slotA ∧
        t.sec.validA = s.sec.validA ∧ t.regs = s.regs) ∧
      (ok = false → t.sec = { s.sec with loading := none } ∧
        bit (t.sq .sec 0 0x800) 23 = true ∧ (t.source (srcKey .sec 0)).lastCode = 0x8001)) ∧
  (∀ (via : Via) (bytes : List Byte) (s : State), s.secHears via = true →
    (s.sec.busy via = true → exec (.getMeasurements via bytes) s =
      .next (s.emit (.message via (respHead 0x90 1 ++ leBytes 8 s.sec.generation ++ leBytes 4 0)))) ∧
    (s.sec.busy via = false → measRequestOk bytes = false → exec (.getMeasurements via bytes) s =
      .next (s.emit (.message via (respHead 0x90 3 ++ leBytes 8 s.sec.generation ++ leBytes 4 0)))) ∧
    (s.sec.busy via = false → measRequestOk bytes = true → s.sec.left ≠ 0 →
      ∃ t q, exec (.getMeasurements via bytes) s = .next t ∧ t.sec.queue = s.sec.queue ++ [q] ∧
        q.via = via ∧ q.request = bytes ∧ q.gen = t.sec.generation ∧
        q.blocks = s.remeasureAll.measBlocks (leAt bytes 36 8) ∧ t.sec.next = s.sec.next ∧ t.mem = s.mem) ∧
    (s.sec.busy via = false → exec (.getIdentity via [1, 0x11, 0, 0]) s =
      .next (s.emit (.message via (respHead 0x91 0 ++ hssPublic false ++ leBytes 16 Config.serialNumber.toNat ++
        endorsement)))) ∧
    (s.sec.busy via = false → bytes ≠ [1, 0x11, 0, 0] → exec (.getIdentity via bytes) s =
      .next (s.emit (.message via (respHead 0x91 3)))) ∧
    (s.sec.busy via = true → exec (.getIdentity via bytes) s = .next (s.emit (.message via (respHead 0x91 1))))) ∧
  (∀ (m : Bool) (q : Nat) (msg : List Byte), (hssSign m q msg).length = 3604 ∧ (hssPublic m).length = 60) ∧
  (∀ (head : RecoverHead) (bytes : List Byte) (s : State), s.power.standby = true → s.sec.recovery = true →
    head.via = .mctp 0x7E .motetas → head.head = 0x1201 →
    bytes.length ≤ 1024 → head.off.toNat + bytes.length ≤ imgMax →
    ∃ t, exec (.fwRecover head bytes) s = .next t ∧ t = { s with sec := t.sec } ∧ t.sec.slotB = s.sec.slotB ∧
      (∀ i, i < bytes.length → t.sec.slotA.getD (head.off.toNat + i) 0 = bytes.getD i 0) ∧
      t.sec.recovery = !(imageValid s.sec.fuseSvn t.sec.slotA) ∧ t.sec.validA = imageValid s.sec.fuseSvn t.sec.slotA) ∧
  (∀ (s : State), s.sec.queue ≠ [] → s.sec.limit ≤ s.sec.next → s.sec.next < signTotal →
    ∃ t, exec .reservationWriteDone s = .next t ∧ t = { s with sec := t.sec } ∧ t.sec.limit = s.sec.limit + 1024 ∧
      t.sec.next = s.sec.next ∧ t.sec.queue = s.sec.queue ∧
      (s.sec.loaded = true → t.sec.copy1 = s.sec.copy1 ∧ t.sec.copy0 = ResvCopy.of (s.sec.limit + 1024)) ∧
      (s.sec.loaded = false → t.sec.copy0 = s.sec.copy0 ∧ t.sec.copy1 = ResvCopy.of (s.sec.limit + 1024))) ∧
  (∀ (c d : SecState) (v w : Word), d = c.reload v w ∨ d = c.powerOn v w →
    d.tree = d.next / 2 ^ 20 ∧ d.queue = [] ∧
    (c.reserving = false → d.copy0 = c.copy0 ∧ d.copy1 = c.copy1 ∧
      (c.copy0.valid = true → c.copy1.valid = true → d.next = max c.copy0.reserved c.copy1.reserved) ∧
      (c.copy0.valid = true → c.copy1.valid = false → d.next = c.copy0.reserved) ∧
      (c.copy0.valid = false → c.copy1.valid = true → d.next = c.copy1.reserved)) ∧
    (c.reserving = true → (if c.loaded then c.copy1 else c.copy0).valid = true →
      d.next = c.limit ∨ d.next = c.limit + 1024)) ∧
  (∀ (s : State) (q : SignReq) (rest : List SignReq), s.sec.queue = q :: rest →
    (s.sec.next < s.sec.limit → s.sec.next / 2 ^ 20 ≤ s.sec.tree → s.sec.next < signTotal →
      ∃ t l, exec .signatureRelease s = .next t ∧ t.sec.next = s.sec.next + 1 ∧ t.sec.queue = rest ∧ t.mem = s.mem ∧
        t.out = l ++ .message q.via (SignReq.response q ++
          hssSign false s.sec.next (q.request ++ SignReq.response q)) :: s.out) ∧
    (s.sec.limit ≤ s.sec.next → exec .signatureRelease s = .next s)) ∧
  (∀ (s : State), s.sec.tree = s.sec.next / 2 ^ 20 → 2 ^ 19 ≤ s.sec.next % 2 ^ 20 →
    exec .treeBuildDone s = .next { s with sec := { s.sec with tree := s.sec.tree + 1 } }) ∧
  (∀ (s : State), s.sec.tree < s.sec.next / 2 ^ 20 →
    exec .treeBuildDone s = .next { s with sec := { s.sec with tree := s.sec.next / 2 ^ 20 } }) ∧
  (∀ (x : IdeStream) (key : List Byte) (s : State), s.ready = true →
    (s.ideRoom x = false → exec (.ideKmMessage x key) s = .next s) ∧
    (s.pci.ide = [] → s.ideRoom x = true) ∧
    (s.ideRoom x = true → ∃ t, exec (.ideKmMessage x key) s = .next t ∧ Tab.get [] t.pci.ide (IdeStream.key x) = key ∧
      (∀ n, n ≠ IdeStream.key x → Tab.get [] t.pci.ide n = Tab.get [] s.pci.ide n) ∧
      t = { s with pci := { s.pci with ide := t.pci.ide } })) ∧
  (∀ (head new : Byte) (s : State), s.power.standby = true → s.sec.slotRun.isSome = true → head.getLsbD 7 = true → new ≠ 0 → new ≠ 0xFF →
    (∃ t, exec (.mctpControlMessage [0, head, 1, 0, new]) s = .next t ∧ t.sec.eid = new ∧
      t.out = .mctpControl [0, head &&& 0x1F, 1, 0, 0, new, 0] :: s.out) ∧
    (∃ t, exec (.mctpControlMessage [0, head, 2]) s = .next t ∧ t.sec.eid = s.sec.eid ∧
      t.out = .mctpControl [0, head &&& 0x1F, 2, 0, s.sec.eid, 0, 0] :: s.out))

/-- Every step keeps the canonical form of memory: addresses rise, and no listed byte is the byte that an unlisted
address reads as (log 40). It rests on choices of the model: log 40. -/
def Obligations.MemoryStaysCanonical : Prop :=
  ∀ s t : State, s.memWf = true → step s = .next t → t.memWf = true

/-- State.reset keeps the canonical form of memory, nothing waits, and the module is not READY; what the registers hold
then is what their blocks' tables list. It rests on choices of the model: log 2, 3, 5. -/
def Obligations.ResetState : Prop :=
  State.reset.memWf = true ∧ State.reset.mem = [] ∧ State.reset.pending = [] ∧ State.reset.ready = false ∧
  State.reset.govLevel = 16 ∧ State.reset.power.phase = 0 ∧ State.reset.sec.generation = 0 ∧
  (∀ (b : Block) (i off : Nat), State.reset.cfg b i off = cfgReset b off ∧ State.reset.sq b i off = 0 ∧
    State.reset.counter b i off = 0 ∧ State.reset.source (srcKey b i) = {}) ∧
  (∀ p, State.reset.port p = {} ∧ (State.reset.port p).st = .off) ∧ (∀ c, (State.reset.ctx c).st = .free)
end

