-- ==== Sys2Proof/Laws/Tab.lean ====
section
/-! SUPPORT. Laws of tables: reading after writing, and the canonical form. -/

namespace Sys2Proof

variable {α : Type}

theorem Tab.get_put_same (d : α) (t : Tab α) (k : Nat) (v : α) : Tab.get d (Tab.put k v t) k = v := by
  induction t with
  | nil => simp [Tab.put, Tab.get]
  | cons p t ih =>
    obtain ⟨i, w⟩ := p
    unfold Tab.put
    split
    · simp [Tab.get]
    · split
      · simp [Tab.get]
      · have : ¬ i = k := fun h => by simp_all
        simp [Tab.get, this, ih]

theorem Tab.get_put_ne (d : α) (t : Tab α) {k j : Nat} (v : α) (h : k ≠ j) :
    Tab.get d (Tab.put k v t) j = Tab.get d t j := by
  induction t with
  | nil => simp [Tab.put, Tab.get, h]
  | cons p t ih =>
    obtain ⟨i, w⟩ := p
    unfold Tab.put
    split
    · subst_vars; simp [Tab.get, h]
    · split
      · simp [Tab.get, h]
      · simp [Tab.get, ih]

theorem Tab.get_del_same (d : α) (t : Tab α) (k : Nat) : Tab.get d (Tab.del k t) k = d := by
  induction t with
  | nil => rfl
  | cons p t ih =>
    obtain ⟨i, w⟩ := p
    unfold Tab.del
    split
    · exact ih
    · simp_all [Tab.get]

theorem Tab.get_del_ne (d : α) (t : Tab α) {k j : Nat} (h : k ≠ j) :
    Tab.get d (Tab.del k t) j = Tab.get d t j := by
  induction t with
  | nil => rfl
  | cons p t ih =>
    obtain ⟨i, w⟩ := p
    unfold Tab.del
    split
    · subst_vars; simp [Tab.get, h, ih]
    · simp [Tab.get, ih]

@[simp] theorem Tab.get_set_same [DecidableEq α] (d : α) (t : Tab α) (k : Nat) (v : α) :
    Tab.get d (Tab.set d t k v) k = v := by
  unfold Tab.set
  split
  · next h => rw [Tab.get_del_same, h]
  · exact Tab.get_put_same d t k v

theorem Tab.get_set_ne [DecidableEq α] (d e : α) (t : Tab α) {k j : Nat} (v : α) (h : k ≠ j) :
    Tab.get e (Tab.set d t k v) j = Tab.get e t j := by
  unfold Tab.set
  split
  · exact Tab.get_del_ne e t h
  · exact Tab.get_put_ne e t v h

theorem Tab.get_set [DecidableEq α] (d : α) (t : Tab α) (k j : Nat) (v : α) :
    Tab.get d (Tab.set d t k v) j = if k = j then v else Tab.get d t j := by
  split
  · next h => subst h; simp
  · next h => exact Tab.get_set_ne d d t v h

/-- A filter that looks at the key alone keeps or drops an entry as a whole. -/
theorem Tab.get_filter_keep (d : α) (t : Tab α) (p : Nat → Bool) {k : Nat} (h : p k = true) :
    Tab.get d (t.filter (fun x => p x.1)) k = Tab.get d t k := by
  induction t with
  | nil => rfl
  | cons x t ih =>
    obtain ⟨i, w⟩ := x
    by_cases hi : i = k
    · subst hi; simp [Tab.get, h]
    · cases hp : p i <;> simp [Tab.get, hp, hi, ih]

theorem Tab.get_filter_drop (d : α) (t : Tab α) (p : Nat → Bool) {k : Nat} (h : p k = false) :
    Tab.get d (t.filter (fun x => p x.1)) k = d := by
  induction t with
  | nil => rfl
  | cons x t ih =>
    obtain ⟨i, w⟩ := x
    by_cases hi : i = k
    · subst hi; simp [h, ih]
    · cases hp : p i <;> simp [Tab.get, hp, hi, ih]

/-- The canonical form, in words: keys rise, and no entry is the default. -/
theorem Tab.wf_iff [DecidableEq α] (d : α) (t : Tab α) :
    Tab.wf d t = true ↔ t.Pairwise (fun x y => x.1 < y.1) ∧ ∀ x ∈ t, x.2 ≠ d := by
  simp [Tab.wf, List.pairwise_map]

theorem Tab.put_mem (k : Nat) (v : α) (t : Tab α) (x : Nat × α) (h : x ∈ Tab.put k v t) : x = (k, v) ∨ x ∈ t := by
  induction t with
  | nil => simp [Tab.put] at h; exact .inl h
  | cons p t ih =>
    obtain ⟨i, w⟩ := p
    unfold Tab.put at h
    split at h
    · simp at h; rcases h with h | h
      · exact .inl h
      · exact .inr (by simp [h])
    · split at h
      · simp at h; rcases h with h | h | h
        · exact .inl h
        · exact .inr (by simp [h])
        · exact .inr (by simp [h])
      · simp at h; rcases h with h | h
        · exact .inr (by simp [h])
        · rcases ih h with e | e
          · exact .inl e
          · exact .inr (by simp [e])

theorem Tab.put_wf [DecidableEq α] (d : α) (t : Tab α) (k : Nat) (v : α) (hv : v ≠ d) (h : Tab.wf d t = true) :
    Tab.wf d (Tab.put k v t) = true := by
  rw [Tab.wf_iff] at h ⊢
  obtain ⟨h1, h2⟩ := h
  refine ⟨?_, fun x hx => ?_⟩
  · induction t with
    | nil => simp [Tab.put]
    | cons p t ih =>
      obtain ⟨i, w⟩ := p
      rw [List.pairwise_cons] at h1
      unfold Tab.put
      split
      · next e => subst e; rw [List.pairwise_cons]; exact h1
      · split
        · next e =>
          rw [List.pairwise_cons]
          refine ⟨fun x hx => ?_, by rw [List.pairwise_cons]; exact h1⟩
          rcases List.mem_cons.1 hx with hx | hx
          · subst hx; exact e
          · exact lt_trans e (h1.1 x hx)
        · next e1 e2 =>
          rw [List.pairwise_cons]
          refine ⟨fun x hx => ?_, ih h1.2 (fun x hx => h2 x (by simp [hx]))⟩
          rcases Tab.put_mem k v t x hx with hx | hx
          · subst hx; simp; omega
          · exact h1.1 x hx
  · rcases Tab.put_mem k v t x hx with e | e
    · subst e; exact hv
    · exact h2 x e

theorem Tab.del_sub (k : Nat) (t : Tab α) : (Tab.del k t).Sublist t := by
  induction t with
  | nil => exact List.Sublist.refl _
  | cons p t ih =>
    obtain ⟨i, w⟩ := p
    unfold Tab.del
    split
    · exact ih.cons _
    · exact ih.cons_cons _

theorem Tab.del_wf [DecidableEq α] (d : α) (t : Tab α) (k : Nat) (h : Tab.wf d t = true) :
    Tab.wf d (Tab.del k t) = true := by
  rw [Tab.wf_iff] at h ⊢
  exact ⟨h.1.sublist (Tab.del_sub k t), fun x hx => h.2 x ((Tab.del_sub k t).subset hx)⟩

/-- A write keeps the canonical form. -/
theorem Tab.set_wf [DecidableEq α] (d : α) (t : Tab α) (k : Nat) (v : α) (h : Tab.wf d t = true) :
    Tab.wf d (Tab.set d t k v) = true := by
  unfold Tab.set
  split
  · exact Tab.del_wf d t k h
  · next hv => exact Tab.put_wf d t k v hv h

/-- In canonical form a listed entry is what its key reads as. -/
theorem Tab.get_of_mem [DecidableEq α] (d : α) (t : Tab α) (h : Tab.wf d t = true) {x : Nat × α} (hx : x ∈ t) :
    Tab.get d t x.1 = x.2 := by
  rw [Tab.wf_iff] at h
  obtain ⟨h1, h2⟩ := h
  induction t with
  | nil => cases hx
  | cons p t ih =>
    obtain ⟨i, w⟩ := p
    rw [List.pairwise_cons] at h1
    rcases List.mem_cons.1 hx with e | e
    · subst e; simp [Tab.get]
    · have : i < x.1 := h1.1 x e
      have hn : ¬ i = x.1 := by omega
      simp [Tab.get, hn]
      exact ih e h1.2 (fun y hy => h2 y (by simp [hy]))

end Sys2Proof
end

