-- ==== Sys2Proof/Laws/Mailbox.lean ====
section
/-! SUPPORT. Laws of the mailbox: what an accepted request does, and what one that is not accepted leaves. -/

namespace Sys2Proof.Machine

/-- An accepted request: the item's own rule runs, and its outcome is kept until the command finishes. -/
theorem State.mbxRun_asks {s : State} {r : MbxReq} {b : Block} {i : Item} {k : Nat} {wr : Bool} {ws : List Word}
    {act : Nat → Bool → List Word → State → ItemRes} (h : s.asks r b i k wr ws) :
    s.mbxRun r b i act = (act k wr ws s).2.2.mbxBegin r b i.num (act k wr ws s).1 (act k wr ws s).2.1 := by
  obtain ⟨h1, h2, h3, h4, h5⟩ := h
  subst h4
  simp [State.mbxRun, h1, h2, h3, h5]

/-- A request that does not reach the page, or that comes while a command runs, changes nothing (R60). -/
theorem State.mbxRun_idle {s : State} {r : MbxReq} {b : Block} {i : Item}
    {act : Nat → Bool → List Word → State → ItemRes} (h : s.mbxReady r b = false) : s.mbxRun r b i act = s := by
  simp [State.mbxRun, h]

/-- A request with an error of R58 runs no rule. -/
theorem State.mbxRun_err {s : State} {r : MbxReq} {b : Block} {i : Item}
    {act : Nat → Bool → List Word → State → ItemRes} (h : s.mbxReady r b = true) (e : s.mbxErr r b i ≠ errDone) :
    s.mbxRun r b i act = s.mbxBegin r b i.num (s.mbxErr r b i) [] := by
  simp [State.mbxRun, h, e]

/-- A READ item that is accepted: nothing but the requester's copy changes. -/
theorem State.mbxGet_asks {s : State} {r : MbxReq} {b : Block} {num len k : Nat} {wr : Bool} {ws : List Word}
    {f : State → Nat → Nat} (h : s.asks r b (rdItem num len) k wr ws) :
    s.mbxGet r b num len f = s.mbxBegin r b num errDone (wordsOf len (f s k)) :=
  State.mbxRun_asks h

/-- The requester's own copy after a command has begun. -/
theorem State.copyOf_mbxBegin (s : State) (r : MbxReq) (b : Block) (item : Nat) (e : BitVec 2) (ws : List Word) :
    (s.mbxBegin r b item e ws).copyOf r.req r.win b =
      { s.copyOf r.req r.win b with cmd := mbxWord r item, valid := false, busy := true, result := (e, ws) } := by
  simp [State.mbxBegin, State.copyOf, State.setCopy]

end Sys2Proof.Machine
end

