-- ==== Sys2Proof/Laws/State.lean ====
section
/-! SUPPORT. Laws of the named updates of the state: which field each one leaves, and what its accessor reads after. -/

namespace Sys2Proof.Machine

section
variable (s : State) (o : Out)
@[simp] theorem State.emit_variant : (s.emit o).variant = s.variant := rfl
@[simp] theorem State.emit_now : (s.emit o).now = s.now := rfl
@[simp] theorem State.emit_free : (s.emit o).free = s.free := rfl
@[simp] theorem State.emit_fr : (s.emit o).fr = s.fr := rfl
@[simp] theorem State.emit_regs : (s.emit o).regs = s.regs := rfl
@[simp] theorem State.emit_pci : (s.emit o).pci = s.pci := rfl
@[simp] theorem State.emit_parts : (s.emit o).parts = s.parts := rfl
@[simp] theorem State.emit_ctxs : (s.emit o).ctxs = s.ctxs := rfl
@[simp] theorem State.emit_works : (s.emit o).works = s.works := rfl
@[simp] theorem State.emit_nextWork : (s.emit o).nextWork = s.nextWork := rfl
@[simp] theorem State.emit_cores : (s.emit o).cores = s.cores := rfl
@[simp] theorem State.emit_fallen : (s.emit o).fallen = s.fallen := rfl
@[simp] theorem State.emit_slices : (s.emit o).slices = s.slices := rfl
@[simp] theorem State.emit_up : (s.emit o).up = s.up := rfl
@[simp] theorem State.emit_dn : (s.emit o).dn = s.dn := rfl
@[simp] theorem State.emit_marbles : (s.emit o).marbles = s.marbles := rfl
@[simp] theorem State.emit_mem : (s.emit o).mem = s.mem := rfl
@[simp] theorem State.emit_hbm : (s.emit o).hbm = s.hbm := rfl
@[simp] theorem State.emit_reports : (s.emit o).reports = s.reports := rfl
@[simp] theorem State.emit_ports : (s.emit o).ports = s.ports := rfl
@[simp] theorem State.emit_coll : (s.emit o).coll = s.coll := rfl
@[simp] theorem State.emit_watch : (s.emit o).watch = s.watch := rfl
@[simp] theorem State.emit_sgs : (s.emit o).sgs = s.sgs := rfl
@[simp] theorem State.emit_kgroups : (s.emit o).kgroups = s.kgroups := rfl
@[simp] theorem State.emit_kparts : (s.emit o).kparts = s.kparts := rfl
@[simp] theorem State.emit_nextStream : (s.emit o).nextStream = s.nextStream := rfl
@[simp] theorem State.emit_buddies : (s.emit o).buddies = s.buddies := rfl
@[simp] theorem State.emit_slowUncorr : (s.emit o).slowUncorr = s.slowUncorr := rfl
@[simp] theorem State.emit_govLevel : (s.emit o).govLevel = s.govLevel := rfl
@[simp] theorem State.emit_ready : (s.emit o).ready = s.ready := rfl
@[simp] theorem State.emit_power : (s.emit o).power = s.power := rfl
@[simp] theorem State.emit_sec : (s.emit o).sec = s.sec := rfl
@[simp] theorem State.emit_served : (s.emit o).served = s.served := rfl
@[simp] theorem State.emit_lastHole : (s.emit o).lastHole = s.lastHole := rfl
@[simp] theorem State.emit_lastDisagree : (s.emit o).lastDisagree = s.lastDisagree := rfl
@[simp] theorem State.emit_pending : (s.emit o).pending = s.pending := rfl
end

section
variable (s : State) (n : Nat)
@[simp] theorem State.useFree_variant : (s.useFree n).variant = s.variant := rfl
@[simp] theorem State.useFree_now : (s.useFree n).now = s.now := rfl
@[simp] theorem State.useFree_fr : (s.useFree n).fr = s.fr := rfl
@[simp] theorem State.useFree_regs : (s.useFree n).regs = s.regs := rfl
@[simp] theorem State.useFree_pci : (s.useFree n).pci = s.pci := rfl
@[simp] theorem State.useFree_parts : (s.useFree n).parts = s.parts := rfl
@[simp] theorem State.useFree_ctxs : (s.useFree n).ctxs = s.ctxs := rfl
@[simp] theorem State.useFree_works : (s.useFree n).works = s.works := rfl
@[simp] theorem State.useFree_nextWork : (s.useFree n).nextWork = s.nextWork := rfl
@[simp] theorem State.useFree_cores : (s.useFree n).cores = s.cores := rfl
@[simp] theorem State.useFree_fallen : (s.useFree n).fallen = s.fallen := rfl
@[simp] theorem State.useFree_slices : (s.useFree n).slices = s.slices := rfl
@[simp] theorem State.useFree_up : (s.useFree n).up = s.up := rfl
@[simp] theorem State.useFree_dn : (s.useFree n).dn = s.dn := rfl
@[simp] theorem State.useFree_marbles : (s.useFree n).marbles = s.marbles := rfl
@[simp] theorem State.useFree_mem : (s.useFree n).mem = s.mem := rfl
@[simp] theorem State.useFree_hbm : (s.useFree n).hbm = s.hbm := rfl
@[simp] theorem State.useFree_reports : (s.useFree n).reports = s.reports := rfl
@[simp] theorem State.useFree_ports : (s.useFree n).ports = s.ports := rfl
@[simp] theorem State.useFree_coll : (s.useFree n).coll = s.coll := rfl
@[simp] theorem State.useFree_watch : (s.useFree n).watch = s.watch := rfl
@[simp] theorem State.useFree_sgs : (s.useFree n).sgs = s.sgs := rfl
@[simp] theorem State.useFree_kgroups : (s.useFree n).kgroups = s.kgroups := rfl
@[simp] theorem State.useFree_kparts : (s.useFree n).kparts = s.kparts := rfl
@[simp] theorem State.useFree_nextStream : (s.useFree n).nextStream = s.nextStream := rfl
@[simp] theorem State.useFree_buddies : (s.useFree n).buddies = s.buddies := rfl
@[simp] theorem State.useFree_slowUncorr : (s.useFree n).slowUncorr = s.slowUncorr := rfl
@[simp] theorem State.useFree_govLevel : (s.useFree n).govLevel = s.govLevel := rfl
@[simp] theorem State.useFree_ready : (s.useFree n).ready = s.ready := rfl
@[simp] theorem State.useFree_power : (s.useFree n).power = s.power := rfl
@[simp] theorem State.useFree_sec : (s.useFree n).sec = s.sec := rfl
@[simp] theorem State.useFree_served : (s.useFree n).served = s.served := rfl
@[simp] theorem State.useFree_lastHole : (s.useFree n).lastHole = s.lastHole := rfl
@[simp] theorem State.useFree_lastDisagree : (s.useFree n).lastDisagree = s.lastDisagree := rfl
@[simp] theorem State.useFree_out : (s.useFree n).out = s.out := rfl
@[simp] theorem State.useFree_pending : (s.useFree n).pending = s.pending := rfl
end

section
variable (s : State) (p : Nat) (v : Part)
@[simp] theorem State.setPart_variant : (s.setPart p v).variant = s.variant := rfl
@[simp] theorem State.setPart_now : (s.setPart p v).now = s.now := rfl
@[simp] theorem State.setPart_free : (s.setPart p v).free = s.free := rfl
@[simp] theorem State.setPart_fr : (s.setPart p v).fr = s.fr := rfl
@[simp] theorem State.setPart_regs : (s.setPart p v).regs = s.regs := rfl
@[simp] theorem State.setPart_pci : (s.setPart p v).pci = s.pci := rfl
@[simp] theorem State.setPart_ctxs : (s.setPart p v).ctxs = s.ctxs := rfl
@[simp] theorem State.setPart_works : (s.setPart p v).works = s.works := rfl
@[simp] theorem State.setPart_nextWork : (s.setPart p v).nextWork = s.nextWork := rfl
@[simp] theorem State.setPart_cores : (s.setPart p v).cores = s.cores := rfl
@[simp] theorem State.setPart_fallen : (s.setPart p v).fallen = s.fallen := rfl
@[simp] theorem State.setPart_slices : (s.setPart p v).slices = s.slices := rfl
@[simp] theorem State.setPart_up : (s.setPart p v).up = s.up := rfl
@[simp] theorem State.setPart_dn : (s.setPart p v).dn = s.dn := rfl
@[simp] theorem State.setPart_marbles : (s.setPart p v).marbles = s.marbles := rfl
@[simp] theorem State.setPart_mem : (s.setPart p v).mem = s.mem := rfl
@[simp] theorem State.setPart_hbm : (s.setPart p v).hbm = s.hbm := rfl
@[simp] theorem State.setPart_reports : (s.setPart p v).reports = s.reports := rfl
@[simp] theorem State.setPart_ports : (s.setPart p v).ports = s.ports := rfl
@[simp] theorem State.setPart_coll : (s.setPart p v).coll = s.coll := rfl
@[simp] theorem State.setPart_watch : (s.setPart p v).watch = s.watch := rfl
@[simp] theorem State.setPart_sgs : (s.setPart p v).sgs = s.sgs := rfl
@[simp] theorem State.setPart_kgroups : (s.setPart p v).kgroups = s.kgroups := rfl
@[simp] theorem State.setPart_kparts : (s.setPart p v).kparts = s.kparts := rfl
@[simp] theorem State.setPart_nextStream : (s.setPart p v).nextStream = s.nextStream := rfl
@[simp] theorem State.setPart_buddies : (s.setPart p v).buddies = s.buddies := rfl
@[simp] theorem State.setPart_slowUncorr : (s.setPart p v).slowUncorr = s.slowUncorr := rfl
@[simp] theorem State.setPart_govLevel : (s.setPart p v).govLevel = s.govLevel := rfl
@[simp] theorem State.setPart_ready : (s.setPart p v).ready = s.ready := rfl
@[simp] theorem State.setPart_power : (s.setPart p v).power = s.power := rfl
@[simp] theorem State.setPart_sec : (s.setPart p v).sec = s.sec := rfl
@[simp] theorem State.setPart_served : (s.setPart p v).served = s.served := rfl
@[simp] theorem State.setPart_lastHole : (s.setPart p v).lastHole = s.lastHole := rfl
@[simp] theorem State.setPart_lastDisagree : (s.setPart p v).lastDisagree = s.lastDisagree := rfl
@[simp] theorem State.setPart_out : (s.setPart p v).out = s.out := rfl
@[simp] theorem State.setPart_pending : (s.setPart p v).pending = s.pending := rfl
end

section
variable (s : State) (c : Nat) (v : Ctx)
@[simp] theorem State.setCtx_variant : (s.setCtx c v).variant = s.variant := rfl
@[simp] theorem State.setCtx_now : (s.setCtx c v).now = s.now := rfl
@[simp] theorem State.setCtx_free : (s.setCtx c v).free = s.free := rfl
@[simp] theorem State.setCtx_fr : (s.setCtx c v).fr = s.fr := rfl
@[simp] theorem State.setCtx_regs : (s.setCtx c v).regs = s.regs := rfl
@[simp] theorem State.setCtx_pci : (s.setCtx c v).pci = s.pci := rfl
@[simp] theorem State.setCtx_parts : (s.setCtx c v).parts = s.parts := rfl
@[simp] theorem State.setCtx_works : (s.setCtx c v).works = s.works := rfl
@[simp] theorem State.setCtx_nextWork : (s.setCtx c v).nextWork = s.nextWork := rfl
@[simp] theorem State.setCtx_cores : (s.setCtx c v).cores = s.cores := rfl
@[simp] theorem State.setCtx_fallen : (s.setCtx c v).fallen = s.fallen := rfl
@[simp] theorem State.setCtx_slices : (s.setCtx c v).slices = s.slices := rfl
@[simp] theorem State.setCtx_up : (s.setCtx c v).up = s.up := rfl
@[simp] theorem State.setCtx_dn : (s.setCtx c v).dn = s.dn := rfl
@[simp] theorem State.setCtx_marbles : (s.setCtx c v).marbles = s.marbles := rfl
@[simp] theorem State.setCtx_mem : (s.setCtx c v).mem = s.mem := rfl
@[simp] theorem State.setCtx_hbm : (s.setCtx c v).hbm = s.hbm := rfl
@[simp] theorem State.setCtx_reports : (s.setCtx c v).reports = s.reports := rfl
@[simp] theorem State.setCtx_ports : (s.setCtx c v).ports = s.ports := rfl
@[simp] theorem State.setCtx_coll : (s.setCtx c v).coll = s.coll := rfl
@[simp] theorem State.setCtx_watch : (s.setCtx c v).watch = s.watch := rfl
@[simp] theorem State.setCtx_sgs : (s.setCtx c v).sgs = s.sgs := rfl
@[simp] theorem State.setCtx_kgroups : (s.setCtx c v).kgroups = s.kgroups := rfl
@[simp] theorem State.setCtx_kparts : (s.setCtx c v).kparts = s.kparts := rfl
@[simp] theorem State.setCtx_nextStream : (s.setCtx c v).nextStream = s.nextStream := rfl
@[simp] theorem State.setCtx_buddies : (s.setCtx c v).buddies = s.buddies := rfl
@[simp] theorem State.setCtx_slowUncorr : (s.setCtx c v).slowUncorr = s.slowUncorr := rfl
@[simp] theorem State.setCtx_govLevel : (s.setCtx c v).govLevel = s.govLevel := rfl
@[simp] theorem State.setCtx_ready : (s.setCtx c v).ready = s.ready := rfl
@[simp] theorem State.setCtx_power : (s.setCtx c v).power = s.power := rfl
@[simp] theorem State.setCtx_sec : (s.setCtx c v).sec = s.sec := rfl
@[simp] theorem State.setCtx_served : (s.setCtx c v).served = s.served := rfl
@[simp] theorem State.setCtx_lastHole : (s.setCtx c v).lastHole = s.lastHole := rfl
@[simp] theorem State.setCtx_lastDisagree : (s.setCtx c v).lastDisagree = s.lastDisagree := rfl
@[simp] theorem State.setCtx_out : (s.setCtx c v).out = s.out := rfl
@[simp] theorem State.setCtx_pending : (s.setCtx c v).pending = s.pending := rfl
end

section
variable (s : State) (c : Nat) (v : Core)
@[simp] theorem State.setCore_variant : (s.setCore c v).variant = s.variant := rfl
@[simp] theorem State.setCore_now : (s.setCore c v).now = s.now := rfl
@[simp] theorem State.setCore_free : (s.setCore c v).free = s.free := rfl
@[simp] theorem State.setCore_fr : (s.setCore c v).fr = s.fr := rfl
@[simp] theorem State.setCore_regs : (s.setCore c v).regs = s.regs := rfl
@[simp] theorem State.setCore_pci : (s.setCore c v).pci = s.pci := rfl
@[simp] theorem State.setCore_parts : (s.setCore c v).parts = s.parts := rfl
@[simp] theorem State.setCore_ctxs : (s.setCore c v).ctxs = s.ctxs := rfl
@[simp] theorem State.setCore_works : (s.setCore c v).works = s.works := rfl
@[simp] theorem State.setCore_nextWork : (s.setCore c v).nextWork = s.nextWork := rfl
@[simp] theorem State.setCore_fallen : (s.setCore c v).fallen = s.fallen := rfl
@[simp] theorem State.setCore_slices : (s.setCore c v).slices = s.slices := rfl
@[simp] theorem State.setCore_up : (s.setCore c v).up = s.up := rfl
@[simp] theorem State.setCore_dn : (s.setCore c v).dn = s.dn := rfl
@[simp] theorem State.setCore_marbles : (s.setCore c v).marbles = s.marbles := rfl
@[simp] theorem State.setCore_mem : (s.setCore c v).mem = s.mem := rfl
@[simp] theorem State.setCore_hbm : (s.setCore c v).hbm = s.hbm := rfl
@[simp] theorem State.setCore_reports : (s.setCore c v).reports = s.reports := rfl
@[simp] theorem State.setCore_ports : (s.setCore c v).ports = s.ports := rfl
@[simp] theorem State.setCore_coll : (s.setCore c v).coll = s.coll := rfl
@[simp] theorem State.setCore_watch : (s.setCore c v).watch = s.watch := rfl
@[simp] theorem State.setCore_sgs : (s.setCore c v).sgs = s.sgs := rfl
@[simp] theorem State.setCore_kgroups : (s.setCore c v).kgroups = s.kgroups := rfl
@[simp] theorem State.setCore_kparts : (s.setCore c v).kparts = s.kparts := rfl
@[simp] theorem State.setCore_nextStream : (s.setCore c v).nextStream = s.nextStream := rfl
@[simp] theorem State.setCore_buddies : (s.setCore c v).buddies = s.buddies := rfl
@[simp] theorem State.setCore_slowUncorr : (s.setCore c v).slowUncorr = s.slowUncorr := rfl
@[simp] theorem State.setCore_govLevel : (s.setCore c v).govLevel = s.govLevel := rfl
@[simp] theorem State.setCore_ready : (s.setCore c v).ready = s.ready := rfl
@[simp] theorem State.setCore_power : (s.setCore c v).power = s.power := rfl
@[simp] theorem State.setCore_sec : (s.setCore c v).sec = s.sec := rfl
@[simp] theorem State.setCore_served : (s.setCore c v).served = s.served := rfl
@[simp] theorem State.setCore_lastHole : (s.setCore c v).lastHole = s.lastHole := rfl
@[simp] theorem State.setCore_lastDisagree : (s.setCore c v).lastDisagree = s.lastDisagree := rfl
@[simp] theorem State.setCore_out : (s.setCore c v).out = s.out := rfl
@[simp] theorem State.setCore_pending : (s.setCore c v).pending = s.pending := rfl
end

section
variable (s : State) (d : Nat) (v : Slice)
@[simp] theorem State.setSlice_variant : (s.setSlice d v).variant = s.variant := rfl
@[simp] theorem State.setSlice_now : (s.setSlice d v).now = s.now := rfl
@[simp] theorem State.setSlice_free : (s.setSlice d v).free = s.free := rfl
@[simp] theorem State.setSlice_fr : (s.setSlice d v).fr = s.fr := rfl
@[simp] theorem State.setSlice_regs : (s.setSlice d v).regs = s.regs := rfl
@[simp] theorem State.setSlice_pci : (s.setSlice d v).pci = s.pci := rfl
@[simp] theorem State.setSlice_parts : (s.setSlice d v).parts = s.parts := rfl
@[simp] theorem State.setSlice_ctxs : (s.setSlice d v).ctxs = s.ctxs := rfl
@[simp] theorem State.setSlice_works : (s.setSlice d v).works = s.works := rfl
@[simp] theorem State.setSlice_nextWork : (s.setSlice d v).nextWork = s.nextWork := rfl
@[simp] theorem State.setSlice_cores : (s.setSlice d v).cores = s.cores := rfl
@[simp] theorem State.setSlice_fallen : (s.setSlice d v).fallen = s.fallen := rfl
@[simp] theorem State.setSlice_up : (s.setSlice d v).up = s.up := rfl
@[simp] theorem State.setSlice_dn : (s.setSlice d v).dn = s.dn := rfl
@[simp] theorem State.setSlice_marbles : (s.setSlice d v).marbles = s.marbles := rfl
@[simp] theorem State.setSlice_mem : (s.setSlice d v).mem = s.mem := rfl
@[simp] theorem State.setSlice_hbm : (s.setSlice d v).hbm = s.hbm := rfl
@[simp] theorem State.setSlice_reports : (s.setSlice d v).reports = s.reports := rfl
@[simp] theorem State.setSlice_ports : (s.setSlice d v).ports = s.ports := rfl
@[simp] theorem State.setSlice_coll : (s.setSlice d v).coll = s.coll := rfl
@[simp] theorem State.setSlice_watch : (s.setSlice d v).watch = s.watch := rfl
@[simp] theorem State.setSlice_sgs : (s.setSlice d v).sgs = s.sgs := rfl
@[simp] theorem State.setSlice_kgroups : (s.setSlice d v).kgroups = s.kgroups := rfl
@[simp] theorem State.setSlice_kparts : (s.setSlice d v).kparts = s.kparts := rfl
@[simp] theorem State.setSlice_nextStream : (s.setSlice d v).nextStream = s.nextStream := rfl
@[simp] theorem State.setSlice_buddies : (s.setSlice d v).buddies = s.buddies := rfl
@[simp] theorem State.setSlice_slowUncorr : (s.setSlice d v).slowUncorr = s.slowUncorr := rfl
@[simp] theorem State.setSlice_govLevel : (s.setSlice d v).govLevel = s.govLevel := rfl
@[simp] theorem State.setSlice_ready : (s.setSlice d v).ready = s.ready := rfl
@[simp] theorem State.setSlice_power : (s.setSlice d v).power = s.power := rfl
@[simp] theorem State.setSlice_sec : (s.setSlice d v).sec = s.sec := rfl
@[simp] theorem State.setSlice_served : (s.setSlice d v).served = s.served := rfl
@[simp] theorem State.setSlice_lastHole : (s.setSlice d v).lastHole = s.lastHole := rfl
@[simp] theorem State.setSlice_lastDisagree : (s.setSlice d v).lastDisagree = s.lastDisagree := rfl
@[simp] theorem State.setSlice_out : (s.setSlice d v).out = s.out := rfl
@[simp] theorem State.setSlice_pending : (s.setSlice d v).pending = s.pending := rfl
end

section
variable (s : State) (d : Nat) (v : Marble)
@[simp] theorem State.setMarble_variant : (s.setMarble d v).variant = s.variant := rfl
@[simp] theorem State.setMarble_now : (s.setMarble d v).now = s.now := rfl
@[simp] theorem State.setMarble_free : (s.setMarble d v).free = s.free := rfl
@[simp] theorem State.setMarble_fr : (s.setMarble d v).fr = s.fr := rfl
@[simp] theorem State.setMarble_regs : (s.setMarble d v).regs = s.regs := rfl
@[simp] theorem State.setMarble_pci : (s.setMarble d v).pci = s.pci := rfl
@[simp] theorem State.setMarble_parts : (s.setMarble d v).parts = s.parts := rfl
@[simp] theorem State.setMarble_ctxs : (s.setMarble d v).ctxs = s.ctxs := rfl
@[simp] theorem State.setMarble_works : (s.setMarble d v).works = s.works := rfl
@[simp] theorem State.setMarble_nextWork : (s.setMarble d v).nextWork = s.nextWork := rfl
@[simp] theorem State.setMarble_cores : (s.setMarble d v).cores = s.cores := rfl
@[simp] theorem State.setMarble_fallen : (s.setMarble d v).fallen = s.fallen := rfl
@[simp] theorem State.setMarble_slices : (s.setMarble d v).slices = s.slices := rfl
@[simp] theorem State.setMarble_up : (s.setMarble d v).up = s.up := rfl
@[simp] theorem State.setMarble_dn : (s.setMarble d v).dn = s.dn := rfl
@[simp] theorem State.setMarble_mem : (s.setMarble d v).mem = s.mem := rfl
@[simp] theorem State.setMarble_hbm : (s.setMarble d v).hbm = s.hbm := rfl
@[simp] theorem State.setMarble_reports : (s.setMarble d v).reports = s.reports := rfl
@[simp] theorem State.setMarble_ports : (s.setMarble d v).ports = s.ports := rfl
@[simp] theorem State.setMarble_coll : (s.setMarble d v).coll = s.coll := rfl
@[simp] theorem State.setMarble_watch : (s.setMarble d v).watch = s.watch := rfl
@[simp] theorem State.setMarble_sgs : (s.setMarble d v).sgs = s.sgs := rfl
@[simp] theorem State.setMarble_kgroups : (s.setMarble d v).kgroups = s.kgroups := rfl
@[simp] theorem State.setMarble_kparts : (s.setMarble d v).kparts = s.kparts := rfl
@[simp] theorem State.setMarble_nextStream : (s.setMarble d v).nextStream = s.nextStream := rfl
@[simp] theorem State.setMarble_buddies : (s.setMarble d v).buddies = s.buddies := rfl
@[simp] theorem State.setMarble_slowUncorr : (s.setMarble d v).slowUncorr = s.slowUncorr := rfl
@[simp] theorem State.setMarble_govLevel : (s.setMarble d v).govLevel = s.govLevel := rfl
@[simp] theorem State.setMarble_ready : (s.setMarble d v).ready = s.ready := rfl
@[simp] theorem State.setMarble_power : (s.setMarble d v).power = s.power := rfl
@[simp] theorem State.setMarble_sec : (s.setMarble d v).sec = s.sec := rfl
@[simp] theorem State.setMarble_served : (s.setMarble d v).served = s.served := rfl
@[simp] theorem State.setMarble_lastHole : (s.setMarble d v).lastHole = s.lastHole := rfl
@[simp] theorem State.setMarble_lastDisagree : (s.setMarble d v).lastDisagree = s.lastDisagree := rfl
@[simp] theorem State.setMarble_out : (s.setMarble d v).out = s.out := rfl
@[simp] theorem State.setMarble_pending : (s.setMarble d v).pending = s.pending := rfl
end

section
variable (s : State) (i : Nat) (v : Port)
@[simp] theorem State.setPort_variant : (s.setPort i v).variant = s.variant := rfl
@[simp] theorem State.setPort_now : (s.setPort i v).now = s.now := rfl
@[simp] theorem State.setPort_free : (s.setPort i v).free = s.free := rfl
@[simp] theorem State.setPort_fr : (s.setPort i v).fr = s.fr := rfl
@[simp] theorem State.setPort_regs : (s.setPort i v).regs = s.regs := rfl
@[simp] theorem State.setPort_pci : (s.setPort i v).pci = s.pci := rfl
@[simp] theorem State.setPort_parts : (s.setPort i v).parts = s.parts := rfl
@[simp] theorem State.setPort_ctxs : (s.setPort i v).ctxs = s.ctxs := rfl
@[simp] theorem State.setPort_works : (s.setPort i v).works = s.works := rfl
@[simp] theorem State.setPort_nextWork : (s.setPort i v).nextWork = s.nextWork := rfl
@[simp] theorem State.setPort_cores : (s.setPort i v).cores = s.cores := rfl
@[simp] theorem State.setPort_fallen : (s.setPort i v).fallen = s.fallen := rfl
@[simp] theorem State.setPort_slices : (s.setPort i v).slices = s.slices := rfl
@[simp] theorem State.setPort_up : (s.setPort i v).up = s.up := rfl
@[simp] theorem State.setPort_dn : (s.setPort i v).dn = s.dn := rfl
@[simp] theorem State.setPort_marbles : (s.setPort i v).marbles = s.marbles := rfl
@[simp] theorem State.setPort_mem : (s.setPort i v).mem = s.mem := rfl
@[simp] theorem State.setPort_hbm : (s.setPort i v).hbm = s.hbm := rfl
@[simp] theorem State.setPort_reports : (s.setPort i v).reports = s.reports := rfl
@[simp] theorem State.setPort_coll : (s.setPort i v).coll = s.coll := rfl
@[simp] theorem State.setPort_watch : (s.setPort i v).watch = s.watch := rfl
@[simp] theorem State.setPort_sgs : (s.setPort i v).sgs = s.sgs := rfl
@[simp] theorem State.setPort_kgroups : (s.setPort i v).kgroups = s.kgroups := rfl
@[simp] theorem State.setPort_kparts : (s.setPort i v).kparts = s.kparts := rfl
@[simp] theorem State.setPort_nextStream : (s.setPort i v).nextStream = s.nextStream := rfl
@[simp] theorem State.setPort_buddies : (s.setPort i v).buddies = s.buddies := rfl
@[simp] theorem State.setPort_slowUncorr : (s.setPort i v).slowUncorr = s.slowUncorr := rfl
@[simp] theorem State.setPort_govLevel : (s.setPort i v).govLevel = s.govLevel := rfl
@[simp] theorem State.setPort_ready : (s.setPort i v).ready = s.ready := rfl
@[simp] theorem State.setPort_power : (s.setPort i v).power = s.power := rfl
@[simp] theorem State.setPort_sec : (s.setPort i v).sec = s.sec := rfl
@[simp] theorem State.setPort_served : (s.setPort i v).served = s.served := rfl
@[simp] theorem State.setPort_lastHole : (s.setPort i v).lastHole = s.lastHole := rfl
@[simp] theorem State.setPort_lastDisagree : (s.setPort i v).lastDisagree = s.lastDisagree := rfl
@[simp] theorem State.setPort_out : (s.setPort i v).out = s.out := rfl
@[simp] theorem State.setPort_pending : (s.setPort i v).pending = s.pending := rfl
end

section
variable (s : State) (e : Nat) (v : WEntry)
@[simp] theorem State.setEntry_variant : (s.setEntry e v).variant = s.variant := rfl
@[simp] theorem State.setEntry_now : (s.setEntry e v).now = s.now := rfl
@[simp] theorem State.setEntry_free : (s.setEntry e v).free = s.free := rfl
@[simp] theorem State.setEntry_fr : (s.setEntry e v).fr = s.fr := rfl
@[simp] theorem State.setEntry_regs : (s.setEntry e v).regs = s.regs := rfl
@[simp] theorem State.setEntry_pci : (s.setEntry e v).pci = s.pci := rfl
@[simp] theorem State.setEntry_parts : (s.setEntry e v).parts = s.parts := rfl
@[simp] theorem State.setEntry_ctxs : (s.setEntry e v).ctxs = s.ctxs := rfl
@[simp] theorem State.setEntry_works : (s.setEntry e v).works = s.works := rfl
@[simp] theorem State.setEntry_nextWork : (s.setEntry e v).nextWork = s.nextWork := rfl
@[simp] theorem State.setEntry_cores : (s.setEntry e v).cores = s.cores := rfl
@[simp] theorem State.setEntry_fallen : (s.setEntry e v).fallen = s.fallen := rfl
@[simp] theorem State.setEntry_slices : (s.setEntry e v).slices = s.slices := rfl
@[simp] theorem State.setEntry_up : (s.setEntry e v).up = s.up := rfl
@[simp] theorem State.setEntry_dn : (s.setEntry e v).dn = s.dn := rfl
@[simp] theorem State.setEntry_marbles : (s.setEntry e v).marbles = s.marbles := rfl
@[simp] theorem State.setEntry_mem : (s.setEntry e v).mem = s.mem := rfl
@[simp] theorem State.setEntry_hbm : (s.setEntry e v).hbm = s.hbm := rfl
@[simp] theorem State.setEntry_reports : (s.setEntry e v).reports = s.reports := rfl
@[simp] theorem State.setEntry_ports : (s.setEntry e v).ports = s.ports := rfl
@[simp] theorem State.setEntry_coll : (s.setEntry e v).coll = s.coll := rfl
@[simp] theorem State.setEntry_sgs : (s.setEntry e v).sgs = s.sgs := rfl
@[simp] theorem State.setEntry_kgroups : (s.setEntry e v).kgroups = s.kgroups := rfl
@[simp] theorem State.setEntry_kparts : (s.setEntry e v).kparts = s.kparts := rfl
@[simp] theorem State.setEntry_nextStream : (s.setEntry e v).nextStream = s.nextStream := rfl
@[simp] theorem State.setEntry_buddies : (s.setEntry e v).buddies = s.buddies := rfl
@[simp] theorem State.setEntry_slowUncorr : (s.setEntry e v).slowUncorr = s.slowUncorr := rfl
@[simp] theorem State.setEntry_govLevel : (s.setEntry e v).govLevel = s.govLevel := rfl
@[simp] theorem State.setEntry_ready : (s.setEntry e v).ready = s.ready := rfl
@[simp] theorem State.setEntry_power : (s.setEntry e v).power = s.power := rfl
@[simp] theorem State.setEntry_sec : (s.setEntry e v).sec = s.sec := rfl
@[simp] theorem State.setEntry_served : (s.setEntry e v).served = s.served := rfl
@[simp] theorem State.setEntry_lastHole : (s.setEntry e v).lastHole = s.lastHole := rfl
@[simp] theorem State.setEntry_lastDisagree : (s.setEntry e v).lastDisagree = s.lastDisagree := rfl
@[simp] theorem State.setEntry_out : (s.setEntry e v).out = s.out := rfl
@[simp] theorem State.setEntry_pending : (s.setEntry e v).pending = s.pending := rfl
end

section
variable (s : State) (g : Nat) (v : Sg)
@[simp] theorem State.setSg_variant : (s.setSg g v).variant = s.variant := rfl
@[simp] theorem State.setSg_now : (s.setSg g v).now = s.now := rfl
@[simp] theorem State.setSg_free : (s.setSg g v).free = s.free := rfl
@[simp] theorem State.setSg_fr : (s.setSg g v).fr = s.fr := rfl
@[simp] theorem State.setSg_regs : (s.setSg g v).regs = s.regs := rfl
@[simp] theorem State.setSg_pci : (s.setSg g v).pci = s.pci := rfl
@[simp] theorem State.setSg_parts : (s.setSg g v).parts = s.parts := rfl
@[simp] theorem State.setSg_ctxs : (s.setSg g v).ctxs = s.ctxs := rfl
@[simp] theorem State.setSg_works : (s.setSg g v).works = s.works := rfl
@[simp] theorem State.setSg_nextWork : (s.setSg g v).nextWork = s.nextWork := rfl
@[simp] theorem State.setSg_cores : (s.setSg g v).cores = s.cores := rfl
@[simp] theorem State.setSg_fallen : (s.setSg g v).fallen = s.fallen := rfl
@[simp] theorem State.setSg_slices : (s.setSg g v).slices = s.slices := rfl
@[simp] theorem State.setSg_up : (s.setSg g v).up = s.up := rfl
@[simp] theorem State.setSg_dn : (s.setSg g v).dn = s.dn := rfl
@[simp] theorem State.setSg_marbles : (s.setSg g v).marbles = s.marbles := rfl
@[simp] theorem State.setSg_mem : (s.setSg g v).mem = s.mem := rfl
@[simp] theorem State.setSg_hbm : (s.setSg g v).hbm = s.hbm := rfl
@[simp] theorem State.setSg_reports : (s.setSg g v).reports = s.reports := rfl
@[simp] theorem State.setSg_ports : (s.setSg g v).ports = s.ports := rfl
@[simp] theorem State.setSg_coll : (s.setSg g v).coll = s.coll := rfl
@[simp] theorem State.setSg_watch : (s.setSg g v).watch = s.watch := rfl
@[simp] theorem State.setSg_kgroups : (s.setSg g v).kgroups = s.kgroups := rfl
@[simp] theorem State.setSg_kparts : (s.setSg g v).kparts = s.kparts := rfl
@[simp] theorem State.setSg_nextStream : (s.setSg g v).nextStream = s.nextStream := rfl
@[simp] theorem State.setSg_buddies : (s.setSg g v).buddies = s.buddies := rfl
@[simp] theorem State.setSg_slowUncorr : (s.setSg g v).slowUncorr = s.slowUncorr := rfl
@[simp] theorem State.setSg_govLevel : (s.setSg g v).govLevel = s.govLevel := rfl
@[simp] theorem State.setSg_ready : (s.setSg g v).ready = s.ready := rfl
@[simp] theorem State.setSg_power : (s.setSg g v).power = s.power := rfl
@[simp] theorem State.setSg_sec : (s.setSg g v).sec = s.sec := rfl
@[simp] theorem State.setSg_served : (s.setSg g v).served = s.served := rfl
@[simp] theorem State.setSg_lastHole : (s.setSg g v).lastHole = s.lastHole := rfl
@[simp] theorem State.setSg_lastDisagree : (s.setSg g v).lastDisagree = s.lastDisagree := rfl
@[simp] theorem State.setSg_out : (s.setSg g v).out = s.out := rfl
@[simp] theorem State.setSg_pending : (s.setSg g v).pending = s.pending := rfl
end

section
variable (s : State) (g : Nat) (v : KGroup)
@[simp] theorem State.setKgroup_variant : (s.setKgroup g v).variant = s.variant := rfl
@[simp] theorem State.setKgroup_now : (s.setKgroup g v).now = s.now := rfl
@[simp] theorem State.setKgroup_free : (s.setKgroup g v).free = s.free := rfl
@[simp] theorem State.setKgroup_fr : (s.setKgroup g v).fr = s.fr := rfl
@[simp] theorem State.setKgroup_regs : (s.setKgroup g v).regs = s.regs := rfl
@[simp] theorem State.setKgroup_pci : (s.setKgroup g v).pci = s.pci := rfl
@[simp] theorem State.setKgroup_parts : (s.setKgroup g v).parts = s.parts := rfl
@[simp] theorem State.setKgroup_ctxs : (s.setKgroup g v).ctxs = s.ctxs := rfl
@[simp] theorem State.setKgroup_works : (s.setKgroup g v).works = s.works := rfl
@[simp] theorem State.setKgroup_nextWork : (s.setKgroup g v).nextWork = s.nextWork := rfl
@[simp] theorem State.setKgroup_cores : (s.setKgroup g v).cores = s.cores := rfl
@[simp] theorem State.setKgroup_fallen : (s.setKgroup g v).fallen = s.fallen := rfl
@[simp] theorem State.setKgroup_slices : (s.setKgroup g v).slices = s.slices := rfl
@[simp] theorem State.setKgroup_up : (s.setKgroup g v).up = s.up := rfl
@[simp] theorem State.setKgroup_dn : (s.setKgroup g v).dn = s.dn := rfl
@[simp] theorem State.setKgroup_marbles : (s.setKgroup g v).marbles = s.marbles := rfl
@[simp] theorem State.setKgroup_mem : (s.setKgroup g v).mem = s.mem := rfl
@[simp] theorem State.setKgroup_hbm : (s.setKgroup g v).hbm = s.hbm := rfl
@[simp] theorem State.setKgroup_reports : (s.setKgroup g v).reports = s.reports := rfl
@[simp] theorem State.setKgroup_ports : (s.setKgroup g v).ports = s.ports := rfl
@[simp] theorem State.setKgroup_coll : (s.setKgroup g v).coll = s.coll := rfl
@[simp] theorem State.setKgroup_watch : (s.setKgroup g v).watch = s.watch := rfl
@[simp] theorem State.setKgroup_sgs : (s.setKgroup g v).sgs = s.sgs := rfl
@[simp] theorem State.setKgroup_kparts : (s.setKgroup g v).kparts = s.kparts := rfl
@[simp] theorem State.setKgroup_nextStream : (s.setKgroup g v).nextStream = s.nextStream := rfl
@[simp] theorem State.setKgroup_buddies : (s.setKgroup g v).buddies = s.buddies := rfl
@[simp] theorem State.setKgroup_slowUncorr : (s.setKgroup g v).slowUncorr = s.slowUncorr := rfl
@[simp] theorem State.setKgroup_govLevel : (s.setKgroup g v).govLevel = s.govLevel := rfl
@[simp] theorem State.setKgroup_ready : (s.setKgroup g v).ready = s.ready := rfl
@[simp] theorem State.setKgroup_power : (s.setKgroup g v).power = s.power := rfl
@[simp] theorem State.setKgroup_sec : (s.setKgroup g v).sec = s.sec := rfl
@[simp] theorem State.setKgroup_served : (s.setKgroup g v).served = s.served := rfl
@[simp] theorem State.setKgroup_lastHole : (s.setKgroup g v).lastHole = s.lastHole := rfl
@[simp] theorem State.setKgroup_lastDisagree : (s.setKgroup g v).lastDisagree = s.lastDisagree := rfl
@[simp] theorem State.setKgroup_out : (s.setKgroup g v).out = s.out := rfl
@[simp] theorem State.setKgroup_pending : (s.setKgroup g v).pending = s.pending := rfl
end

section
variable (s : State) (p : Nat) (v : KPart)
@[simp] theorem State.setKpart_variant : (s.setKpart p v).variant = s.variant := rfl
@[simp] theorem State.setKpart_now : (s.setKpart p v).now = s.now := rfl
@[simp] theorem State.setKpart_free : (s.setKpart p v).free = s.free := rfl
@[simp] theorem State.setKpart_fr : (s.setKpart p v).fr = s.fr := rfl
@[simp] theorem State.setKpart_regs : (s.setKpart p v).regs = s.regs := rfl
@[simp] theorem State.setKpart_pci : (s.setKpart p v).pci = s.pci := rfl
@[simp] theorem State.setKpart_parts : (s.setKpart p v).parts = s.parts := rfl
@[simp] theorem State.setKpart_ctxs : (s.setKpart p v).ctxs = s.ctxs := rfl
@[simp] theorem State.setKpart_works : (s.setKpart p v).works = s.works := rfl
@[simp] theorem State.setKpart_nextWork : (s.setKpart p v).nextWork = s.nextWork := rfl
@[simp] theorem State.setKpart_cores : (s.setKpart p v).cores = s.cores := rfl
@[simp] theorem State.setKpart_fallen : (s.setKpart p v).fallen = s.fallen := rfl
@[simp] theorem State.setKpart_slices : (s.setKpart p v).slices = s.slices := rfl
@[simp] theorem State.setKpart_up : (s.setKpart p v).up = s.up := rfl
@[simp] theorem State.setKpart_dn : (s.setKpart p v).dn = s.dn := rfl
@[simp] theorem State.setKpart_marbles : (s.setKpart p v).marbles = s.marbles := rfl
@[simp] theorem State.setKpart_mem : (s.setKpart p v).mem = s.mem := rfl
@[simp] theorem State.setKpart_hbm : (s.setKpart p v).hbm = s.hbm := rfl
@[simp] theorem State.setKpart_reports : (s.setKpart p v).reports = s.reports := rfl
@[simp] theorem State.setKpart_ports : (s.setKpart p v).ports = s.ports := rfl
@[simp] theorem State.setKpart_coll : (s.setKpart p v).coll = s.coll := rfl
@[simp] theorem State.setKpart_watch : (s.setKpart p v).watch = s.watch := rfl
@[simp] theorem State.setKpart_sgs : (s.setKpart p v).sgs = s.sgs := rfl
@[simp] theorem State.setKpart_kgroups : (s.setKpart p v).kgroups = s.kgroups := rfl
@[simp] theorem State.setKpart_nextStream : (s.setKpart p v).nextStream = s.nextStream := rfl
@[simp] theorem State.setKpart_buddies : (s.setKpart p v).buddies = s.buddies := rfl
@[simp] theorem State.setKpart_slowUncorr : (s.setKpart p v).slowUncorr = s.slowUncorr := rfl
@[simp] theorem State.setKpart_govLevel : (s.setKpart p v).govLevel = s.govLevel := rfl
@[simp] theorem State.setKpart_ready : (s.setKpart p v).ready = s.ready := rfl
@[simp] theorem State.setKpart_power : (s.setKpart p v).power = s.power := rfl
@[simp] theorem State.setKpart_sec : (s.setKpart p v).sec = s.sec := rfl
@[simp] theorem State.setKpart_served : (s.setKpart p v).served = s.served := rfl
@[simp] theorem State.setKpart_lastHole : (s.setKpart p v).lastHole = s.lastHole := rfl
@[simp] theorem State.setKpart_lastDisagree : (s.setKpart p v).lastDisagree = s.lastDisagree := rfl
@[simp] theorem State.setKpart_out : (s.setKpart p v).out = s.out := rfl
@[simp] theorem State.setKpart_pending : (s.setKpart p v).pending = s.pending := rfl
end

section
variable (s : State) (w : Work)
@[simp] theorem State.setWork_variant : (s.setWork w).variant = s.variant := rfl
@[simp] theorem State.setWork_now : (s.setWork w).now = s.now := rfl
@[simp] theorem State.setWork_free : (s.setWork w).free = s.free := rfl
@[simp] theorem State.setWork_fr : (s.setWork w).fr = s.fr := rfl
@[simp] theorem State.setWork_regs : (s.setWork w).regs = s.regs := rfl
@[simp] theorem State.setWork_pci : (s.setWork w).pci = s.pci := rfl
@[simp] theorem State.setWork_parts : (s.setWork w).parts = s.parts := rfl
@[simp] theorem State.setWork_ctxs : (s.setWork w).ctxs = s.ctxs := rfl
@[simp] theorem State.setWork_nextWork : (s.setWork w).nextWork = s.nextWork := rfl
@[simp] theorem State.setWork_cores : (s.setWork w).cores = s.cores := rfl
@[simp] theorem State.setWork_fallen : (s.setWork w).fallen = s.fallen := rfl
@[simp] theorem State.setWork_slices : (s.setWork w).slices = s.slices := rfl
@[simp] theorem State.setWork_up : (s.setWork w).up = s.up := rfl
@[simp] theorem State.setWork_dn : (s.setWork w).dn = s.dn := rfl
@[simp] theorem State.setWork_marbles : (s.setWork w).marbles = s.marbles := rfl
@[simp] theorem State.setWork_mem : (s.setWork w).mem = s.mem := rfl
@[simp] theorem State.setWork_hbm : (s.setWork w).hbm = s.hbm := rfl
@[simp] theorem State.setWork_reports : (s.setWork w).reports = s.reports := rfl
@[simp] theorem State.setWork_ports : (s.setWork w).ports = s.ports := rfl
@[simp] theorem State.setWork_coll : (s.setWork w).coll = s.coll := rfl
@[simp] theorem State.setWork_watch : (s.setWork w).watch = s.watch := rfl
@[simp] theorem State.setWork_sgs : (s.setWork w).sgs = s.sgs := rfl
@[simp] theorem State.setWork_kgroups : (s.setWork w).kgroups = s.kgroups := rfl
@[simp] theorem State.setWork_kparts : (s.setWork w).kparts = s.kparts := rfl
@[simp] theorem State.setWork_nextStream : (s.setWork w).nextStream = s.nextStream := rfl
@[simp] theorem State.setWork_buddies : (s.setWork w).buddies = s.buddies := rfl
@[simp] theorem State.setWork_slowUncorr : (s.setWork w).slowUncorr = s.slowUncorr := rfl
@[simp] theorem State.setWork_govLevel : (s.setWork w).govLevel = s.govLevel := rfl
@[simp] theorem State.setWork_ready : (s.setWork w).ready = s.ready := rfl
@[simp] theorem State.setWork_power : (s.setWork w).power = s.power := rfl
@[simp] theorem State.setWork_sec : (s.setWork w).sec = s.sec := rfl
@[simp] theorem State.setWork_served : (s.setWork w).served = s.served := rfl
@[simp] theorem State.setWork_lastHole : (s.setWork w).lastHole = s.lastHole := rfl
@[simp] theorem State.setWork_lastDisagree : (s.setWork w).lastDisagree = s.lastDisagree := rfl
@[simp] theorem State.setWork_out : (s.setWork w).out = s.out := rfl
@[simp] theorem State.setWork_pending : (s.setWork w).pending = s.pending := rfl
end

section
variable (s : State) (id : Nat)
@[simp] theorem State.dropWork_variant : (s.dropWork id).variant = s.variant := rfl
@[simp] theorem State.dropWork_now : (s.dropWork id).now = s.now := rfl
@[simp] theorem State.dropWork_free : (s.dropWork id).free = s.free := rfl
@[simp] theorem State.dropWork_fr : (s.dropWork id).fr = s.fr := rfl
@[simp] theorem State.dropWork_regs : (s.dropWork id).regs = s.regs := rfl
@[simp] theorem State.dropWork_pci : (s.dropWork id).pci = s.pci := rfl
@[simp] theorem State.dropWork_parts : (s.dropWork id).parts = s.parts := rfl
@[simp] theorem State.dropWork_ctxs : (s.dropWork id).ctxs = s.ctxs := rfl
@[simp] theorem State.dropWork_nextWork : (s.dropWork id).nextWork = s.nextWork := rfl
@[simp] theorem State.dropWork_cores : (s.dropWork id).cores = s.cores := rfl
@[simp] theorem State.dropWork_fallen : (s.dropWork id).fallen = s.fallen := rfl
@[simp] theorem State.dropWork_slices : (s.dropWork id).slices = s.slices := rfl
@[simp] theorem State.dropWork_up : (s.dropWork id).up = s.up := rfl
@[simp] theorem State.dropWork_dn : (s.dropWork id).dn = s.dn := rfl
@[simp] theorem State.dropWork_marbles : (s.dropWork id).marbles = s.marbles := rfl
@[simp] theorem State.dropWork_mem : (s.dropWork id).mem = s.mem := rfl
@[simp] theorem State.dropWork_hbm : (s.dropWork id).hbm = s.hbm := rfl
@[simp] theorem State.dropWork_reports : (s.dropWork id).reports = s.reports := rfl
@[simp] theorem State.dropWork_ports : (s.dropWork id).ports = s.ports := rfl
@[simp] theorem State.dropWork_coll : (s.dropWork id).coll = s.coll := rfl
@[simp] theorem State.dropWork_watch : (s.dropWork id).watch = s.watch := rfl
@[simp] theorem State.dropWork_sgs : (s.dropWork id).sgs = s.sgs := rfl
@[simp] theorem State.dropWork_kgroups : (s.dropWork id).kgroups = s.kgroups := rfl
@[simp] theorem State.dropWork_kparts : (s.dropWork id).kparts = s.kparts := rfl
@[simp] theorem State.dropWork_nextStream : (s.dropWork id).nextStream = s.nextStream := rfl
@[simp] theorem State.dropWork_buddies : (s.dropWork id).buddies = s.buddies := rfl
@[simp] theorem State.dropWork_slowUncorr : (s.dropWork id).slowUncorr = s.slowUncorr := rfl
@[simp] theorem State.dropWork_govLevel : (s.dropWork id).govLevel = s.govLevel := rfl
@[simp] theorem State.dropWork_ready : (s.dropWork id).ready = s.ready := rfl
@[simp] theorem State.dropWork_power : (s.dropWork id).power = s.power := rfl
@[simp] theorem State.dropWork_sec : (s.dropWork id).sec = s.sec := rfl
@[simp] theorem State.dropWork_served : (s.dropWork id).served = s.served := rfl
@[simp] theorem State.dropWork_lastHole : (s.dropWork id).lastHole = s.lastHole := rfl
@[simp] theorem State.dropWork_lastDisagree : (s.dropWork id).lastDisagree = s.lastDisagree := rfl
@[simp] theorem State.dropWork_out : (s.dropWork id).out = s.out := rfl
@[simp] theorem State.dropWork_pending : (s.dropWork id).pending = s.pending := rfl
end

section
variable (s : State) (a : Nat) (v : Byte)
@[simp] theorem State.setByte_variant : (s.setByte a v).variant = s.variant := rfl
@[simp] theorem State.setByte_now : (s.setByte a v).now = s.now := rfl
@[simp] theorem State.setByte_free : (s.setByte a v).free = s.free := rfl
@[simp] theorem State.setByte_fr : (s.setByte a v).fr = s.fr := rfl
@[simp] theorem State.setByte_regs : (s.setByte a v).regs = s.regs := rfl
@[simp] theorem State.setByte_pci : (s.setByte a v).pci = s.pci := rfl
@[simp] theorem State.setByte_parts : (s.setByte a v).parts = s.parts := rfl
@[simp] theorem State.setByte_ctxs : (s.setByte a v).ctxs = s.ctxs := rfl
@[simp] theorem State.setByte_works : (s.setByte a v).works = s.works := rfl
@[simp] theorem State.setByte_nextWork : (s.setByte a v).nextWork = s.nextWork := rfl
@[simp] theorem State.setByte_cores : (s.setByte a v).cores = s.cores := rfl
@[simp] theorem State.setByte_fallen : (s.setByte a v).fallen = s.fallen := rfl
@[simp] theorem State.setByte_slices : (s.setByte a v).slices = s.slices := rfl
@[simp] theorem State.setByte_up : (s.setByte a v).up = s.up := rfl
@[simp] theorem State.setByte_dn : (s.setByte a v).dn = s.dn := rfl
@[simp] theorem State.setByte_marbles : (s.setByte a v).marbles = s.marbles := rfl
@[simp] theorem State.setByte_hbm : (s.setByte a v).hbm = s.hbm := rfl
@[simp] theorem State.setByte_reports : (s.setByte a v).reports = s.reports := rfl
@[simp] theorem State.setByte_ports : (s.setByte a v).ports = s.ports := rfl
@[simp] theorem State.setByte_coll : (s.setByte a v).coll = s.coll := rfl
@[simp] theorem State.setByte_watch : (s.setByte a v).watch = s.watch := rfl
@[simp] theorem State.setByte_sgs : (s.setByte a v).sgs = s.sgs := rfl
@[simp] theorem State.setByte_kgroups : (s.setByte a v).kgroups = s.kgroups := rfl
@[simp] theorem State.setByte_kparts : (s.setByte a v).kparts = s.kparts := rfl
@[simp] theorem State.setByte_nextStream : (s.setByte a v).nextStream = s.nextStream := rfl
@[simp] theorem State.setByte_buddies : (s.setByte a v).buddies = s.buddies := rfl
@[simp] theorem State.setByte_slowUncorr : (s.setByte a v).slowUncorr = s.slowUncorr := rfl
@[simp] theorem State.setByte_govLevel : (s.setByte a v).govLevel = s.govLevel := rfl
@[simp] theorem State.setByte_ready : (s.setByte a v).ready = s.ready := rfl
@[simp] theorem State.setByte_power : (s.setByte a v).power = s.power := rfl
@[simp] theorem State.setByte_sec : (s.setByte a v).sec = s.sec := rfl
@[simp] theorem State.setByte_served : (s.setByte a v).served = s.served := rfl
@[simp] theorem State.setByte_lastHole : (s.setByte a v).lastHole = s.lastHole := rfl
@[simp] theorem State.setByte_lastDisagree : (s.setByte a v).lastDisagree = s.lastDisagree := rfl
@[simp] theorem State.setByte_out : (s.setByte a v).out = s.out := rfl
@[simp] theorem State.setByte_pending : (s.setByte a v).pending = s.pending := rfl
end

section
variable (s : State) (a : Nat) (bs : List Byte)
@[simp] theorem State.memWrite_variant : (s.memWrite a bs).variant = s.variant := rfl
@[simp] theorem State.memWrite_now : (s.memWrite a bs).now = s.now := rfl
@[simp] theorem State.memWrite_free : (s.memWrite a bs).free = s.free := rfl
@[simp] theorem State.memWrite_fr : (s.memWrite a bs).fr = s.fr := rfl
@[simp] theorem State.memWrite_regs : (s.memWrite a bs).regs = s.regs := rfl
@[simp] theorem State.memWrite_pci : (s.memWrite a bs).pci = s.pci := rfl
@[simp] theorem State.memWrite_parts : (s.memWrite a bs).parts = s.parts := rfl
@[simp] theorem State.memWrite_ctxs : (s.memWrite a bs).ctxs = s.ctxs := rfl
@[simp] theorem State.memWrite_works : (s.memWrite a bs).works = s.works := rfl
@[simp] theorem State.memWrite_nextWork : (s.memWrite a bs).nextWork = s.nextWork := rfl
@[simp] theorem State.memWrite_cores : (s.memWrite a bs).cores = s.cores := rfl
@[simp] theorem State.memWrite_fallen : (s.memWrite a bs).fallen = s.fallen := rfl
@[simp] theorem State.memWrite_slices : (s.memWrite a bs).slices = s.slices := rfl
@[simp] theorem State.memWrite_up : (s.memWrite a bs).up = s.up := rfl
@[simp] theorem State.memWrite_dn : (s.memWrite a bs).dn = s.dn := rfl
@[simp] theorem State.memWrite_marbles : (s.memWrite a bs).marbles = s.marbles := rfl
@[simp] theorem State.memWrite_hbm : (s.memWrite a bs).hbm = s.hbm := rfl
@[simp] theorem State.memWrite_reports : (s.memWrite a bs).reports = s.reports := rfl
@[simp] theorem State.memWrite_ports : (s.memWrite a bs).ports = s.ports := rfl
@[simp] theorem State.memWrite_coll : (s.memWrite a bs).coll = s.coll := rfl
@[simp] theorem State.memWrite_watch : (s.memWrite a bs).watch = s.watch := rfl
@[simp] theorem State.memWrite_sgs : (s.memWrite a bs).sgs = s.sgs := rfl
@[simp] theorem State.memWrite_kgroups : (s.memWrite a bs).kgroups = s.kgroups := rfl
@[simp] theorem State.memWrite_kparts : (s.memWrite a bs).kparts = s.kparts := rfl
@[simp] theorem State.memWrite_nextStream : (s.memWrite a bs).nextStream = s.nextStream := rfl
@[simp] theorem State.memWrite_buddies : (s.memWrite a bs).buddies = s.buddies := rfl
@[simp] theorem State.memWrite_slowUncorr : (s.memWrite a bs).slowUncorr = s.slowUncorr := rfl
@[simp] theorem State.memWrite_govLevel : (s.memWrite a bs).govLevel = s.govLevel := rfl
@[simp] theorem State.memWrite_ready : (s.memWrite a bs).ready = s.ready := rfl
@[simp] theorem State.memWrite_power : (s.memWrite a bs).power = s.power := rfl
@[simp] theorem State.memWrite_sec : (s.memWrite a bs).sec = s.sec := rfl
@[simp] theorem State.memWrite_served : (s.memWrite a bs).served = s.served := rfl
@[simp] theorem State.memWrite_lastHole : (s.memWrite a bs).lastHole = s.lastHole := rfl
@[simp] theorem State.memWrite_lastDisagree : (s.memWrite a bs).lastDisagree = s.lastDisagree := rfl
@[simp] theorem State.memWrite_out : (s.memWrite a bs).out = s.out := rfl
@[simp] theorem State.memWrite_pending : (s.memWrite a bs).pending = s.pending := rfl
end

section
variable (s : State) (n : Nat) (m : BitVec 18)
@[simp] theorem State.setUpset_variant : (s.setUpset n m).variant = s.variant := rfl
@[simp] theorem State.setUpset_now : (s.setUpset n m).now = s.now := rfl
@[simp] theorem State.setUpset_free : (s.setUpset n m).free = s.free := rfl
@[simp] theorem State.setUpset_fr : (s.setUpset n m).fr = s.fr := rfl
@[simp] theorem State.setUpset_regs : (s.setUpset n m).regs = s.regs := rfl
@[simp] theorem State.setUpset_pci : (s.setUpset n m).pci = s.pci := rfl
@[simp] theorem State.setUpset_parts : (s.setUpset n m).parts = s.parts := rfl
@[simp] theorem State.setUpset_ctxs : (s.setUpset n m).ctxs = s.ctxs := rfl
@[simp] theorem State.setUpset_works : (s.setUpset n m).works = s.works := rfl
@[simp] theorem State.setUpset_nextWork : (s.setUpset n m).nextWork = s.nextWork := rfl
@[simp] theorem State.setUpset_cores : (s.setUpset n m).cores = s.cores := rfl
@[simp] theorem State.setUpset_fallen : (s.setUpset n m).fallen = s.fallen := rfl
@[simp] theorem State.setUpset_slices : (s.setUpset n m).slices = s.slices := rfl
@[simp] theorem State.setUpset_up : (s.setUpset n m).up = s.up := rfl
@[simp] theorem State.setUpset_dn : (s.setUpset n m).dn = s.dn := rfl
@[simp] theorem State.setUpset_marbles : (s.setUpset n m).marbles = s.marbles := rfl
@[simp] theorem State.setUpset_mem : (s.setUpset n m).mem = s.mem := rfl
@[simp] theorem State.setUpset_hbm_nreq : (s.setUpset n m).hbm.nreq = s.hbm.nreq := rfl
@[simp] theorem State.setUpset_hbm_openPage : (s.setUpset n m).hbm.openPage = s.hbm.openPage := rfl
@[simp] theorem State.setUpset_hbm_corrTick : (s.setUpset n m).hbm.corrTick = s.hbm.corrTick := rfl
@[simp] theorem State.setUpset_hbm_corrNow : (s.setUpset n m).hbm.corrNow = s.hbm.corrNow := rfl
@[simp] theorem State.setUpset_hbm_lastUncorr : (s.setUpset n m).hbm.lastUncorr = s.hbm.lastUncorr := rfl
@[simp] theorem State.setUpset_hbm_scrubPos : (s.setUpset n m).hbm.scrubPos = s.hbm.scrubPos := rfl
@[simp] theorem State.setUpset_hbm_scrubPasses : (s.setUpset n m).hbm.scrubPasses = s.hbm.scrubPasses := rfl
@[simp] theorem State.setUpset_hbm_refreshes : (s.setUpset n m).hbm.refreshes = s.hbm.refreshes := rfl
@[simp] theorem State.setUpset_hbm_temp : (s.setUpset n m).hbm.temp = s.hbm.temp := rfl
@[simp] theorem State.setUpset_reports : (s.setUpset n m).reports = s.reports := rfl
@[simp] theorem State.setUpset_ports : (s.setUpset n m).ports = s.ports := rfl
@[simp] theorem State.setUpset_coll : (s.setUpset n m).coll = s.coll := rfl
@[simp] theorem State.setUpset_watch : (s.setUpset n m).watch = s.watch := rfl
@[simp] theorem State.setUpset_sgs : (s.setUpset n m).sgs = s.sgs := rfl
@[simp] theorem State.setUpset_kgroups : (s.setUpset n m).kgroups = s.kgroups := rfl
@[simp] theorem State.setUpset_kparts : (s.setUpset n m).kparts = s.kparts := rfl
@[simp] theorem State.setUpset_nextStream : (s.setUpset n m).nextStream = s.nextStream := rfl
@[simp] theorem State.setUpset_buddies : (s.setUpset n m).buddies = s.buddies := rfl
@[simp] theorem State.setUpset_slowUncorr : (s.setUpset n m).slowUncorr = s.slowUncorr := rfl
@[simp] theorem State.setUpset_govLevel : (s.setUpset n m).govLevel = s.govLevel := rfl
@[simp] theorem State.setUpset_ready : (s.setUpset n m).ready = s.ready := rfl
@[simp] theorem State.setUpset_power : (s.setUpset n m).power = s.power := rfl
@[simp] theorem State.setUpset_sec : (s.setUpset n m).sec = s.sec := rfl
@[simp] theorem State.setUpset_served : (s.setUpset n m).served = s.served := rfl
@[simp] theorem State.setUpset_lastHole : (s.setUpset n m).lastHole = s.lastHole := rfl
@[simp] theorem State.setUpset_lastDisagree : (s.setUpset n m).lastDisagree = s.lastDisagree := rfl
@[simp] theorem State.setUpset_out : (s.setUpset n m).out = s.out := rfl
@[simp] theorem State.setUpset_pending : (s.setUpset n m).pending = s.pending := rfl
end

section
variable (s : State) (b : Block) (i off : Nat) (v : Word)
@[simp] theorem State.setCfg_variant : (s.setCfg b i off v).variant = s.variant := rfl
@[simp] theorem State.setCfg_now : (s.setCfg b i off v).now = s.now := rfl
@[simp] theorem State.setCfg_free : (s.setCfg b i off v).free = s.free := rfl
@[simp] theorem State.setCfg_fr : (s.setCfg b i off v).fr = s.fr := rfl
@[simp] theorem State.setCfg_regs_status : (s.setCfg b i off v).regs.status = s.regs.status := rfl
@[simp] theorem State.setCfg_regs_evnum : (s.setCfg b i off v).regs.evnum = s.regs.evnum := rfl
@[simp] theorem State.setCfg_regs_latched : (s.setCfg b i off v).regs.latched = s.regs.latched := rfl
@[simp] theorem State.setCfg_regs_seen : (s.setCfg b i off v).regs.seen = s.regs.seen := rfl
@[simp] theorem State.setCfg_regs_count : (s.setCfg b i off v).regs.count = s.regs.count := rfl
@[simp] theorem State.setCfg_regs_src : (s.setCfg b i off v).regs.src = s.regs.src := rfl
@[simp] theorem State.setCfg_regs_copy : (s.setCfg b i off v).regs.copy = s.regs.copy := rfl
@[simp] theorem State.setCfg_regs_args : (s.setCfg b i off v).regs.args = s.regs.args := rfl
@[simp] theorem State.setCfg_regs_rst : (s.setCfg b i off v).regs.rst = s.regs.rst := rfl
@[simp] theorem State.setCfg_pci : (s.setCfg b i off v).pci = s.pci := rfl
@[simp] theorem State.setCfg_parts : (s.setCfg b i off v).parts = s.parts := rfl
@[simp] theorem State.setCfg_ctxs : (s.setCfg b i off v).ctxs = s.ctxs := rfl
@[simp] theorem State.setCfg_works : (s.setCfg b i off v).works = s.works := rfl
@[simp] theorem State.setCfg_nextWork : (s.setCfg b i off v).nextWork = s.nextWork := rfl
@[simp] theorem State.setCfg_cores : (s.setCfg b i off v).cores = s.cores := rfl
@[simp] theorem State.setCfg_fallen : (s.setCfg b i off v).fallen = s.fallen := rfl
@[simp] theorem State.setCfg_slices : (s.setCfg b i off v).slices = s.slices := rfl
@[simp] theorem State.setCfg_up : (s.setCfg b i off v).up = s.up := rfl
@[simp] theorem State.setCfg_dn : (s.setCfg b i off v).dn = s.dn := rfl
@[simp] theorem State.setCfg_marbles : (s.setCfg b i off v).marbles = s.marbles := rfl
@[simp] theorem State.setCfg_mem : (s.setCfg b i off v).mem = s.mem := rfl
@[simp] theorem State.setCfg_hbm : (s.setCfg b i off v).hbm = s.hbm := rfl
@[simp] theorem State.setCfg_reports : (s.setCfg b i off v).reports = s.reports := rfl
@[simp] theorem State.setCfg_ports : (s.setCfg b i off v).ports = s.ports := rfl
@[simp] theorem State.setCfg_coll : (s.setCfg b i off v).coll = s.coll := rfl
@[simp] theorem State.setCfg_watch : (s.setCfg b i off v).watch = s.watch := rfl
@[simp] theorem State.setCfg_sgs : (s.setCfg b i off v).sgs = s.sgs := rfl
@[simp] theorem State.setCfg_kgroups : (s.setCfg b i off v).kgroups = s.kgroups := rfl
@[simp] theorem State.setCfg_kparts : (s.setCfg b i off v).kparts = s.kparts := rfl
@[simp] theorem State.setCfg_nextStream : (s.setCfg b i off v).nextStream = s.nextStream := rfl
@[simp] theorem State.setCfg_buddies : (s.setCfg b i off v).buddies = s.buddies := rfl
@[simp] theorem State.setCfg_slowUncorr : (s.setCfg b i off v).slowUncorr = s.slowUncorr := rfl
@[simp] theorem State.setCfg_govLevel : (s.setCfg b i off v).govLevel = s.govLevel := rfl
@[simp] theorem State.setCfg_ready : (s.setCfg b i off v).ready = s.ready := rfl
@[simp] theorem State.setCfg_power : (s.setCfg b i off v).power = s.power := rfl
@[simp] theorem State.setCfg_sec : (s.setCfg b i off v).sec = s.sec := rfl
@[simp] theorem State.setCfg_served : (s.setCfg b i off v).served = s.served := rfl
@[simp] theorem State.setCfg_lastHole : (s.setCfg b i off v).lastHole = s.lastHole := rfl
@[simp] theorem State.setCfg_lastDisagree : (s.setCfg b i off v).lastDisagree = s.lastDisagree := rfl
@[simp] theorem State.setCfg_out : (s.setCfg b i off v).out = s.out := rfl
@[simp] theorem State.setCfg_pending : (s.setCfg b i off v).pending = s.pending := rfl
end

section
variable (s : State) (r : Req) (w : Window) (b : Block) (c : ReqCopy)
@[simp] theorem State.setCopy_variant : (s.setCopy r w b c).variant = s.variant := rfl
@[simp] theorem State.setCopy_now : (s.setCopy r w b c).now = s.now := rfl
@[simp] theorem State.setCopy_free : (s.setCopy r w b c).free = s.free := rfl
@[simp] theorem State.setCopy_fr : (s.setCopy r w b c).fr = s.fr := rfl
@[simp] theorem State.setCopy_regs_cfg : (s.setCopy r w b c).regs.cfg = s.regs.cfg := rfl
@[simp] theorem State.setCopy_regs_par : (s.setCopy r w b c).regs.par = s.regs.par := rfl
@[simp] theorem State.setCopy_regs_found : (s.setCopy r w b c).regs.found = s.regs.found := rfl
@[simp] theorem State.setCopy_regs_accepted : (s.setCopy r w b c).regs.accepted = s.regs.accepted := rfl
@[simp] theorem State.setCopy_regs_status : (s.setCopy r w b c).regs.status = s.regs.status := rfl
@[simp] theorem State.setCopy_regs_evnum : (s.setCopy r w b c).regs.evnum = s.regs.evnum := rfl
@[simp] theorem State.setCopy_regs_latched : (s.setCopy r w b c).regs.latched = s.regs.latched := rfl
@[simp] theorem State.setCopy_regs_seen : (s.setCopy r w b c).regs.seen = s.regs.seen := rfl
@[simp] theorem State.setCopy_regs_count : (s.setCopy r w b c).regs.count = s.regs.count := rfl
@[simp] theorem State.setCopy_regs_src : (s.setCopy r w b c).regs.src = s.regs.src := rfl
@[simp] theorem State.setCopy_regs_args : (s.setCopy r w b c).regs.args = s.regs.args := rfl
@[simp] theorem State.setCopy_regs_rst : (s.setCopy r w b c).regs.rst = s.regs.rst := rfl
@[simp] theorem State.setCopy_pci : (s.setCopy r w b c).pci = s.pci := rfl
@[simp] theorem State.setCopy_parts : (s.setCopy r w b c).parts = s.parts := rfl
@[simp] theorem State.setCopy_ctxs : (s.setCopy r w b c).ctxs = s.ctxs := rfl
@[simp] theorem State.setCopy_works : (s.setCopy r w b c).works = s.works := rfl
@[simp] theorem State.setCopy_nextWork : (s.setCopy r w b c).nextWork = s.nextWork := rfl
@[simp] theorem State.setCopy_cores : (s.setCopy r w b c).cores = s.cores := rfl
@[simp] theorem State.setCopy_fallen : (s.setCopy r w b c).fallen = s.fallen := rfl
@[simp] theorem State.setCopy_slices : (s.setCopy r w b c).slices = s.slices := rfl
@[simp] theorem State.setCopy_up : (s.setCopy r w b c).up = s.up := rfl
@[simp] theorem State.setCopy_dn : (s.setCopy r w b c).dn = s.dn := rfl
@[simp] theorem State.setCopy_marbles : (s.setCopy r w b c).marbles = s.marbles := rfl
@[simp] theorem State.setCopy_mem : (s.setCopy r w b c).mem = s.mem := rfl
@[simp] theorem State.setCopy_hbm : (s.setCopy r w b c).hbm = s.hbm := rfl
@[simp] theorem State.setCopy_reports : (s.setCopy r w b c).reports = s.reports := rfl
@[simp] theorem State.setCopy_ports : (s.setCopy r w b c).ports = s.ports := rfl
@[simp] theorem State.setCopy_coll : (s.setCopy r w b c).coll = s.coll := rfl
@[simp] theorem State.setCopy_watch : (s.setCopy r w b c).watch = s.watch := rfl
@[simp] theorem State.setCopy_sgs : (s.setCopy r w b c).sgs = s.sgs := rfl
@[simp] theorem State.setCopy_kgroups : (s.setCopy r w b c).kgroups = s.kgroups := rfl
@[simp] theorem State.setCopy_kparts : (s.setCopy r w b c).kparts = s.kparts := rfl
@[simp] theorem State.setCopy_nextStream : (s.setCopy r w b c).nextStream = s.nextStream := rfl
@[simp] theorem State.setCopy_buddies : (s.setCopy r w b c).buddies = s.buddies := rfl
@[simp] theorem State.setCopy_slowUncorr : (s.setCopy r w b c).slowUncorr = s.slowUncorr := rfl
@[simp] theorem State.setCopy_govLevel : (s.setCopy r w b c).govLevel = s.govLevel := rfl
@[simp] theorem State.setCopy_ready : (s.setCopy r w b c).ready = s.ready := rfl
@[simp] theorem State.setCopy_power : (s.setCopy r w b c).power = s.power := rfl
@[simp] theorem State.setCopy_sec : (s.setCopy r w b c).sec = s.sec := rfl
@[simp] theorem State.setCopy_served : (s.setCopy r w b c).served = s.served := rfl
@[simp] theorem State.setCopy_lastHole : (s.setCopy r w b c).lastHole = s.lastHole := rfl
@[simp] theorem State.setCopy_lastDisagree : (s.setCopy r w b c).lastDisagree = s.lastDisagree := rfl
@[simp] theorem State.setCopy_out : (s.setCopy r w b c).out = s.out := rfl
@[simp] theorem State.setCopy_pending : (s.setCopy r w b c).pending = s.pending := rfl
end

section
variable (s : State) (r : Req) (b : Block) (m i : Nat) (v : List Word)
@[simp] theorem State.setArg_variant : (s.setArg r b m i v).variant = s.variant := rfl
@[simp] theorem State.setArg_now : (s.setArg r b m i v).now = s.now := rfl
@[simp] theorem State.setArg_free : (s.setArg r b m i v).free = s.free := rfl
@[simp] theorem State.setArg_fr : (s.setArg r b m i v).fr = s.fr := rfl
@[simp] theorem State.setArg_regs_cfg : (s.setArg r b m i v).regs.cfg = s.regs.cfg := rfl
@[simp] theorem State.setArg_regs_par : (s.setArg r b m i v).regs.par = s.regs.par := rfl
@[simp] theorem State.setArg_regs_found : (s.setArg r b m i v).regs.found = s.regs.found := rfl
@[simp] theorem State.setArg_regs_accepted : (s.setArg r b m i v).regs.accepted = s.regs.accepted := rfl
@[simp] theorem State.setArg_regs_status : (s.setArg r b m i v).regs.status = s.regs.status := rfl
@[simp] theorem State.setArg_regs_evnum : (s.setArg r b m i v).regs.evnum = s.regs.evnum := rfl
@[simp] theorem State.setArg_regs_latched : (s.setArg r b m i v).regs.latched = s.regs.latched := rfl
@[simp] theorem State.setArg_regs_seen : (s.setArg r b m i v).regs.seen = s.regs.seen := rfl
@[simp] theorem State.setArg_regs_count : (s.setArg r b m i v).regs.count = s.regs.count := rfl
@[simp] theorem State.setArg_regs_src : (s.setArg r b m i v).regs.src = s.regs.src := rfl
@[simp] theorem State.setArg_regs_copy : (s.setArg r b m i v).regs.copy = s.regs.copy := rfl
@[simp] theorem State.setArg_regs_rst : (s.setArg r b m i v).regs.rst = s.regs.rst := rfl
@[simp] theorem State.setArg_pci : (s.setArg r b m i v).pci = s.pci := rfl
@[simp] theorem State.setArg_parts : (s.setArg r b m i v).parts = s.parts := rfl
@[simp] theorem State.setArg_ctxs : (s.setArg r b m i v).ctxs = s.ctxs := rfl
@[simp] theorem State.setArg_works : (s.setArg r b m i v).works = s.works := rfl
@[simp] theorem State.setArg_nextWork : (s.setArg r b m i v).nextWork = s.nextWork := rfl
@[simp] theorem State.setArg_cores : (s.setArg r b m i v).cores = s.cores := rfl
@[simp] theorem State.setArg_fallen : (s.setArg r b m i v).fallen = s.fallen := rfl
@[simp] theorem State.setArg_slices : (s.setArg r b m i v).slices = s.slices := rfl
@[simp] theorem State.setArg_up : (s.setArg r b m i v).up = s.up := rfl
@[simp] theorem State.setArg_dn : (s.setArg r b m i v).dn = s.dn := rfl
@[simp] theorem State.setArg_marbles : (s.setArg r b m i v).marbles = s.marbles := rfl
@[simp] theorem State.setArg_mem : (s.setArg r b m i v).mem = s.mem := rfl
@[simp] theorem State.setArg_hbm : (s.setArg r b m i v).hbm = s.hbm := rfl
@[simp] theorem State.setArg_reports : (s.setArg r b m i v).reports = s.reports := rfl
@[simp] theorem State.setArg_ports : (s.setArg r b m i v).ports = s.ports := rfl
@[simp] theorem State.setArg_coll : (s.setArg r b m i v).coll = s.coll := rfl
@[simp] theorem State.setArg_watch : (s.setArg r b m i v).watch = s.watch := rfl
@[simp] theorem State.setArg_sgs : (s.setArg r b m i v).sgs = s.sgs := rfl
@[simp] theorem State.setArg_kgroups : (s.setArg r b m i v).kgroups = s.kgroups := rfl
@[simp] theorem State.setArg_kparts : (s.setArg r b m i v).kparts = s.kparts := rfl
@[simp] theorem State.setArg_nextStream : (s.setArg r b m i v).nextStream = s.nextStream := rfl
@[simp] theorem State.setArg_buddies : (s.setArg r b m i v).buddies = s.buddies := rfl
@[simp] theorem State.setArg_slowUncorr : (s.setArg r b m i v).slowUncorr = s.slowUncorr := rfl
@[simp] theorem State.setArg_govLevel : (s.setArg r b m i v).govLevel = s.govLevel := rfl
@[simp] theorem State.setArg_ready : (s.setArg r b m i v).ready = s.ready := rfl
@[simp] theorem State.setArg_power : (s.setArg r b m i v).power = s.power := rfl
@[simp] theorem State.setArg_sec : (s.setArg r b m i v).sec = s.sec := rfl
@[simp] theorem State.setArg_served : (s.setArg r b m i v).served = s.served := rfl
@[simp] theorem State.setArg_lastHole : (s.setArg r b m i v).lastHole = s.lastHole := rfl
@[simp] theorem State.setArg_lastDisagree : (s.setArg r b m i v).lastDisagree = s.lastDisagree := rfl
@[simp] theorem State.setArg_out : (s.setArg r b m i v).out = s.out := rfl
@[simp] theorem State.setArg_pending : (s.setArg r b m i v).pending = s.pending := rfl
end

section
variable (s : State) (b : Block) (i off : Nat) (f : Word → Word)
@[simp] theorem State.latch_variant : (s.latch b i off f).variant = s.variant := rfl
@[simp] theorem State.latch_now : (s.latch b i off f).now = s.now := rfl
@[simp] theorem State.latch_free : (s.latch b i off f).free = s.free := rfl
@[simp] theorem State.latch_fr : (s.latch b i off f).fr = s.fr := rfl
@[simp] theorem State.latch_regs_cfg : (s.latch b i off f).regs.cfg = s.regs.cfg := rfl
@[simp] theorem State.latch_regs_par : (s.latch b i off f).regs.par = s.regs.par := rfl
@[simp] theorem State.latch_regs_found : (s.latch b i off f).regs.found = s.regs.found := rfl
@[simp] theorem State.latch_regs_accepted : (s.latch b i off f).regs.accepted = s.regs.accepted := rfl
@[simp] theorem State.latch_regs_seen : (s.latch b i off f).regs.seen = s.regs.seen := rfl
@[simp] theorem State.latch_regs_count : (s.latch b i off f).regs.count = s.regs.count := rfl
@[simp] theorem State.latch_regs_src : (s.latch b i off f).regs.src = s.regs.src := rfl
@[simp] theorem State.latch_regs_copy : (s.latch b i off f).regs.copy = s.regs.copy := rfl
@[simp] theorem State.latch_regs_args : (s.latch b i off f).regs.args = s.regs.args := rfl
@[simp] theorem State.latch_regs_rst : (s.latch b i off f).regs.rst = s.regs.rst := rfl
@[simp] theorem State.latch_pci : (s.latch b i off f).pci = s.pci := rfl
@[simp] theorem State.latch_parts : (s.latch b i off f).parts = s.parts := rfl
@[simp] theorem State.latch_ctxs : (s.latch b i off f).ctxs = s.ctxs := rfl
@[simp] theorem State.latch_works : (s.latch b i off f).works = s.works := rfl
@[simp] theorem State.latch_nextWork : (s.latch b i off f).nextWork = s.nextWork := rfl
@[simp] theorem State.latch_cores : (s.latch b i off f).cores = s.cores := rfl
@[simp] theorem State.latch_fallen : (s.latch b i off f).fallen = s.fallen := rfl
@[simp] theorem State.latch_slices : (s.latch b i off f).slices = s.slices := rfl
@[simp] theorem State.latch_up : (s.latch b i off f).up = s.up := rfl
@[simp] theorem State.latch_dn : (s.latch b i off f).dn = s.dn := rfl
@[simp] theorem State.latch_marbles : (s.latch b i off f).marbles = s.marbles := rfl
@[simp] theorem State.latch_mem : (s.latch b i off f).mem = s.mem := rfl
@[simp] theorem State.latch_hbm : (s.latch b i off f).hbm = s.hbm := rfl
@[simp] theorem State.latch_reports : (s.latch b i off f).reports = s.reports := rfl
@[simp] theorem State.latch_ports : (s.latch b i off f).ports = s.ports := rfl
@[simp] theorem State.latch_coll : (s.latch b i off f).coll = s.coll := rfl
@[simp] theorem State.latch_watch : (s.latch b i off f).watch = s.watch := rfl
@[simp] theorem State.latch_sgs : (s.latch b i off f).sgs = s.sgs := rfl
@[simp] theorem State.latch_kgroups : (s.latch b i off f).kgroups = s.kgroups := rfl
@[simp] theorem State.latch_kparts : (s.latch b i off f).kparts = s.kparts := rfl
@[simp] theorem State.latch_nextStream : (s.latch b i off f).nextStream = s.nextStream := rfl
@[simp] theorem State.latch_buddies : (s.latch b i off f).buddies = s.buddies := rfl
@[simp] theorem State.latch_slowUncorr : (s.latch b i off f).slowUncorr = s.slowUncorr := rfl
@[simp] theorem State.latch_govLevel : (s.latch b i off f).govLevel = s.govLevel := rfl
@[simp] theorem State.latch_ready : (s.latch b i off f).ready = s.ready := rfl
@[simp] theorem State.latch_power : (s.latch b i off f).power = s.power := rfl
@[simp] theorem State.latch_sec : (s.latch b i off f).sec = s.sec := rfl
@[simp] theorem State.latch_served : (s.latch b i off f).served = s.served := rfl
@[simp] theorem State.latch_lastHole : (s.latch b i off f).lastHole = s.lastHole := rfl
@[simp] theorem State.latch_lastDisagree : (s.latch b i off f).lastDisagree = s.lastDisagree := rfl
@[simp] theorem State.latch_out : (s.latch b i off f).out = s.out := rfl
@[simp] theorem State.latch_pending : (s.latch b i off f).pending = s.pending := rfl
end

section
variable (s : State) (b : Block) (i off n : Nat)
@[simp] theorem State.addCount_variant : (s.addCount b i off n).variant = s.variant := rfl
@[simp] theorem State.addCount_now : (s.addCount b i off n).now = s.now := rfl
@[simp] theorem State.addCount_free : (s.addCount b i off n).free = s.free := rfl
@[simp] theorem State.addCount_fr : (s.addCount b i off n).fr = s.fr := rfl
@[simp] theorem State.addCount_regs_cfg : (s.addCount b i off n).regs.cfg = s.regs.cfg := rfl
@[simp] theorem State.addCount_regs_par : (s.addCount b i off n).regs.par = s.regs.par := rfl
@[simp] theorem State.addCount_regs_found : (s.addCount b i off n).regs.found = s.regs.found := rfl
@[simp] theorem State.addCount_regs_accepted : (s.addCount b i off n).regs.accepted = s.regs.accepted := rfl
@[simp] theorem State.addCount_regs_status : (s.addCount b i off n).regs.status = s.regs.status := rfl
@[simp] theorem State.addCount_regs_evnum : (s.addCount b i off n).regs.evnum = s.regs.evnum := rfl
@[simp] theorem State.addCount_regs_latched : (s.addCount b i off n).regs.latched = s.regs.latched := rfl
@[simp] theorem State.addCount_regs_seen : (s.addCount b i off n).regs.seen = s.regs.seen := rfl
@[simp] theorem State.addCount_regs_src : (s.addCount b i off n).regs.src = s.regs.src := rfl
@[simp] theorem State.addCount_regs_copy : (s.addCount b i off n).regs.copy = s.regs.copy := rfl
@[simp] theorem State.addCount_regs_args : (s.addCount b i off n).regs.args = s.regs.args := rfl
@[simp] theorem State.addCount_regs_rst : (s.addCount b i off n).regs.rst = s.regs.rst := rfl
@[simp] theorem State.addCount_pci : (s.addCount b i off n).pci = s.pci := rfl
@[simp] theorem State.addCount_parts : (s.addCount b i off n).parts = s.parts := rfl
@[simp] theorem State.addCount_ctxs : (s.addCount b i off n).ctxs = s.ctxs := rfl
@[simp] theorem State.addCount_works : (s.addCount b i off n).works = s.works := rfl
@[simp] theorem State.addCount_nextWork : (s.addCount b i off n).nextWork = s.nextWork := rfl
@[simp] theorem State.addCount_cores : (s.addCount b i off n).cores = s.cores := rfl
@[simp] theorem State.addCount_fallen : (s.addCount b i off n).fallen = s.fallen := rfl
@[simp] theorem State.addCount_slices : (s.addCount b i off n).slices = s.slices := rfl
@[simp] theorem State.addCount_up : (s.addCount b i off n).up = s.up := rfl
@[simp] theorem State.addCount_dn : (s.addCount b i off n).dn = s.dn := rfl
@[simp] theorem State.addCount_marbles : (s.addCount b i off n).marbles = s.marbles := rfl
@[simp] theorem State.addCount_mem : (s.addCount b i off n).mem = s.mem := rfl
@[simp] theorem State.addCount_hbm : (s.addCount b i off n).hbm = s.hbm := rfl
@[simp] theorem State.addCount_reports : (s.addCount b i off n).reports = s.reports := rfl
@[simp] theorem State.addCount_ports : (s.addCount b i off n).ports = s.ports := rfl
@[simp] theorem State.addCount_coll : (s.addCount b i off n).coll = s.coll := rfl
@[simp] theorem State.addCount_watch : (s.addCount b i off n).watch = s.watch := rfl
@[simp] theorem State.addCount_sgs : (s.addCount b i off n).sgs = s.sgs := rfl
@[simp] theorem State.addCount_kgroups : (s.addCount b i off n).kgroups = s.kgroups := rfl
@[simp] theorem State.addCount_kparts : (s.addCount b i off n).kparts = s.kparts := rfl
@[simp] theorem State.addCount_nextStream : (s.addCount b i off n).nextStream = s.nextStream := rfl
@[simp] theorem State.addCount_buddies : (s.addCount b i off n).buddies = s.buddies := rfl
@[simp] theorem State.addCount_slowUncorr : (s.addCount b i off n).slowUncorr = s.slowUncorr := rfl
@[simp] theorem State.addCount_govLevel : (s.addCount b i off n).govLevel = s.govLevel := rfl
@[simp] theorem State.addCount_ready : (s.addCount b i off n).ready = s.ready := rfl
@[simp] theorem State.addCount_power : (s.addCount b i off n).power = s.power := rfl
@[simp] theorem State.addCount_sec : (s.addCount b i off n).sec = s.sec := rfl
@[simp] theorem State.addCount_served : (s.addCount b i off n).served = s.served := rfl
@[simp] theorem State.addCount_lastHole : (s.addCount b i off n).lastHole = s.lastHole := rfl
@[simp] theorem State.addCount_lastDisagree : (s.addCount b i off n).lastDisagree = s.lastDisagree := rfl
@[simp] theorem State.addCount_out : (s.addCount b i off n).out = s.out := rfl
@[simp] theorem State.addCount_pending : (s.addCount b i off n).pending = s.pending := rfl
end

section
variable (s : State) (k : Nat) (v : Source)
@[simp] theorem State.setSource_variant : (s.setSource k v).variant = s.variant := rfl
@[simp] theorem State.setSource_now : (s.setSource k v).now = s.now := rfl
@[simp] theorem State.setSource_free : (s.setSource k v).free = s.free := rfl
@[simp] theorem State.setSource_fr : (s.setSource k v).fr = s.fr := rfl
@[simp] theorem State.setSource_regs_cfg : (s.setSource k v).regs.cfg = s.regs.cfg := rfl
@[simp] theorem State.setSource_regs_par : (s.setSource k v).regs.par = s.regs.par := rfl
@[simp] theorem State.setSource_regs_found : (s.setSource k v).regs.found = s.regs.found := rfl
@[simp] theorem State.setSource_regs_accepted : (s.setSource k v).regs.accepted = s.regs.accepted := rfl
@[simp] theorem State.setSource_regs_status : (s.setSource k v).regs.status = s.regs.status := rfl
@[simp] theorem State.setSource_regs_evnum : (s.setSource k v).regs.evnum = s.regs.evnum := rfl
@[simp] theorem State.setSource_regs_latched : (s.setSource k v).regs.latched = s.regs.latched := rfl
@[simp] theorem State.setSource_regs_seen : (s.setSource k v).regs.seen = s.regs.seen := rfl
@[simp] theorem State.setSource_regs_count : (s.setSource k v).regs.count = s.regs.count := rfl
@[simp] theorem State.setSource_regs_copy : (s.setSource k v).regs.copy = s.regs.copy := rfl
@[simp] theorem State.setSource_regs_args : (s.setSource k v).regs.args = s.regs.args := rfl
@[simp] theorem State.setSource_regs_rst : (s.setSource k v).regs.rst = s.regs.rst := rfl
@[simp] theorem State.setSource_pci : (s.setSource k v).pci = s.pci := rfl
@[simp] theorem State.setSource_parts : (s.setSource k v).parts = s.parts := rfl
@[simp] theorem State.setSource_ctxs : (s.setSource k v).ctxs = s.ctxs := rfl
@[simp] theorem State.setSource_works : (s.setSource k v).works = s.works := rfl
@[simp] theorem State.setSource_nextWork : (s.setSource k v).nextWork = s.nextWork := rfl
@[simp] theorem State.setSource_cores : (s.setSource k v).cores = s.cores := rfl
@[simp] theorem State.setSource_fallen : (s.setSource k v).fallen = s.fallen := rfl
@[simp] theorem State.setSource_slices : (s.setSource k v).slices = s.slices := rfl
@[simp] theorem State.setSource_up : (s.setSource k v).up = s.up := rfl
@[simp] theorem State.setSource_dn : (s.setSource k v).dn = s.dn := rfl
@[simp] theorem State.setSource_marbles : (s.setSource k v).marbles = s.marbles := rfl
@[simp] theorem State.setSource_mem : (s.setSource k v).mem = s.mem := rfl
@[simp] theorem State.setSource_hbm : (s.setSource k v).hbm = s.hbm := rfl
@[simp] theorem State.setSource_reports : (s.setSource k v).reports = s.reports := rfl
@[simp] theorem State.setSource_ports : (s.setSource k v).ports = s.ports := rfl
@[simp] theorem State.setSource_coll : (s.setSource k v).coll = s.coll := rfl
@[simp] theorem State.setSource_watch : (s.setSource k v).watch = s.watch := rfl
@[simp] theorem State.setSource_sgs : (s.setSource k v).sgs = s.sgs := rfl
@[simp] theorem State.setSource_kgroups : (s.setSource k v).kgroups = s.kgroups := rfl
@[simp] theorem State.setSource_kparts : (s.setSource k v).kparts = s.kparts := rfl
@[simp] theorem State.setSource_nextStream : (s.setSource k v).nextStream = s.nextStream := rfl
@[simp] theorem State.setSource_buddies : (s.setSource k v).buddies = s.buddies := rfl
@[simp] theorem State.setSource_slowUncorr : (s.setSource k v).slowUncorr = s.slowUncorr := rfl
@[simp] theorem State.setSource_govLevel : (s.setSource k v).govLevel = s.govLevel := rfl
@[simp] theorem State.setSource_ready : (s.setSource k v).ready = s.ready := rfl
@[simp] theorem State.setSource_power : (s.setSource k v).power = s.power := rfl
@[simp] theorem State.setSource_sec : (s.setSource k v).sec = s.sec := rfl
@[simp] theorem State.setSource_served : (s.setSource k v).served = s.served := rfl
@[simp] theorem State.setSource_lastHole : (s.setSource k v).lastHole = s.lastHole := rfl
@[simp] theorem State.setSource_lastDisagree : (s.setSource k v).lastDisagree = s.lastDisagree := rfl
@[simp] theorem State.setSource_out : (s.setSource k v).out = s.out := rfl
@[simp] theorem State.setSource_pending : (s.setSource k v).pending = s.pending := rfl
end

section
variable (s : State) (k : Nat) (r : Req) (n : Word)
@[simp] theorem State.noteRead_variant : (s.noteRead k r n).variant = s.variant := rfl
@[simp] theorem State.noteRead_now : (s.noteRead k r n).now = s.now := rfl
@[simp] theorem State.noteRead_free : (s.noteRead k r n).free = s.free := rfl
@[simp] theorem State.noteRead_fr : (s.noteRead k r n).fr = s.fr := rfl
@[simp] theorem State.noteRead_regs_cfg : (s.noteRead k r n).regs.cfg = s.regs.cfg := rfl
@[simp] theorem State.noteRead_regs_par : (s.noteRead k r n).regs.par = s.regs.par := rfl
@[simp] theorem State.noteRead_regs_found : (s.noteRead k r n).regs.found = s.regs.found := rfl
@[simp] theorem State.noteRead_regs_accepted : (s.noteRead k r n).regs.accepted = s.regs.accepted := rfl
@[simp] theorem State.noteRead_regs_status : (s.noteRead k r n).regs.status = s.regs.status := rfl
@[simp] theorem State.noteRead_regs_evnum : (s.noteRead k r n).regs.evnum = s.regs.evnum := rfl
@[simp] theorem State.noteRead_regs_latched : (s.noteRead k r n).regs.latched = s.regs.latched := rfl
@[simp] theorem State.noteRead_regs_count : (s.noteRead k r n).regs.count = s.regs.count := rfl
@[simp] theorem State.noteRead_regs_src : (s.noteRead k r n).regs.src = s.regs.src := rfl
@[simp] theorem State.noteRead_regs_copy : (s.noteRead k r n).regs.copy = s.regs.copy := rfl
@[simp] theorem State.noteRead_regs_args : (s.noteRead k r n).regs.args = s.regs.args := rfl
@[simp] theorem State.noteRead_regs_rst : (s.noteRead k r n).regs.rst = s.regs.rst := rfl
@[simp] theorem State.noteRead_pci : (s.noteRead k r n).pci = s.pci := rfl
@[simp] theorem State.noteRead_parts : (s.noteRead k r n).parts = s.parts := rfl
@[simp] theorem State.noteRead_ctxs : (s.noteRead k r n).ctxs = s.ctxs := rfl
@[simp] theorem State.noteRead_works : (s.noteRead k r n).works = s.works := rfl
@[simp] theorem State.noteRead_nextWork : (s.noteRead k r n).nextWork = s.nextWork := rfl
@[simp] theorem State.noteRead_cores : (s.noteRead k r n).cores = s.cores := rfl
@[simp] theorem State.noteRead_fallen : (s.noteRead k r n).fallen = s.fallen := rfl
@[simp] theorem State.noteRead_slices : (s.noteRead k r n).slices = s.slices := rfl
@[simp] theorem State.noteRead_up : (s.noteRead k r n).up = s.up := rfl
@[simp] theorem State.noteRead_dn : (s.noteRead k r n).dn = s.dn := rfl
@[simp] theorem State.noteRead_marbles : (s.noteRead k r n).marbles = s.marbles := rfl
@[simp] theorem State.noteRead_mem : (s.noteRead k r n).mem = s.mem := rfl
@[simp] theorem State.noteRead_hbm : (s.noteRead k r n).hbm = s.hbm := rfl
@[simp] theorem State.noteRead_reports : (s.noteRead k r n).reports = s.reports := rfl
@[simp] theorem State.noteRead_ports : (s.noteRead k r n).ports = s.ports := rfl
@[simp] theorem State.noteRead_coll : (s.noteRead k r n).coll = s.coll := rfl
@[simp] theorem State.noteRead_watch : (s.noteRead k r n).watch = s.watch := rfl
@[simp] theorem State.noteRead_sgs : (s.noteRead k r n).sgs = s.sgs := rfl
@[simp] theorem State.noteRead_kgroups : (s.noteRead k r n).kgroups = s.kgroups := rfl
@[simp] theorem State.noteRead_kparts : (s.noteRead k r n).kparts = s.kparts := rfl
@[simp] theorem State.noteRead_nextStream : (s.noteRead k r n).nextStream = s.nextStream := rfl
@[simp] theorem State.noteRead_buddies : (s.noteRead k r n).buddies = s.buddies := rfl
@[simp] theorem State.noteRead_slowUncorr : (s.noteRead k r n).slowUncorr = s.slowUncorr := rfl
@[simp] theorem State.noteRead_govLevel : (s.noteRead k r n).govLevel = s.govLevel := rfl
@[simp] theorem State.noteRead_ready : (s.noteRead k r n).ready = s.ready := rfl
@[simp] theorem State.noteRead_power : (s.noteRead k r n).power = s.power := rfl
@[simp] theorem State.noteRead_sec : (s.noteRead k r n).sec = s.sec := rfl
@[simp] theorem State.noteRead_served : (s.noteRead k r n).served = s.served := rfl
@[simp] theorem State.noteRead_lastHole : (s.noteRead k r n).lastHole = s.lastHole := rfl
@[simp] theorem State.noteRead_lastDisagree : (s.noteRead k r n).lastDisagree = s.lastDisagree := rfl
@[simp] theorem State.noteRead_out : (s.noteRead k r n).out = s.out := rfl
@[simp] theorem State.noteRead_pending : (s.noteRead k r n).pending = s.pending := rfl
end

section
variable (s : State) (k l : Nat) (b : UpBody)
@[simp] theorem State.send_variant : (s.send k l b).variant = s.variant := rfl
@[simp] theorem State.send_now : (s.send k l b).now = s.now := rfl
@[simp] theorem State.send_free : (s.send k l b).free = s.free := rfl
@[simp] theorem State.send_fr : (s.send k l b).fr = s.fr := rfl
@[simp] theorem State.send_regs : (s.send k l b).regs = s.regs := rfl
@[simp] theorem State.send_pci : (s.send k l b).pci = s.pci := rfl
@[simp] theorem State.send_parts : (s.send k l b).parts = s.parts := rfl
@[simp] theorem State.send_ctxs : (s.send k l b).ctxs = s.ctxs := rfl
@[simp] theorem State.send_works : (s.send k l b).works = s.works := rfl
@[simp] theorem State.send_nextWork : (s.send k l b).nextWork = s.nextWork := rfl
@[simp] theorem State.send_cores : (s.send k l b).cores = s.cores := rfl
@[simp] theorem State.send_fallen : (s.send k l b).fallen = s.fallen := rfl
@[simp] theorem State.send_slices : (s.send k l b).slices = s.slices := rfl
@[simp] theorem State.send_dn : (s.send k l b).dn = s.dn := rfl
@[simp] theorem State.send_marbles : (s.send k l b).marbles = s.marbles := rfl
@[simp] theorem State.send_mem : (s.send k l b).mem = s.mem := rfl
@[simp] theorem State.send_hbm : (s.send k l b).hbm = s.hbm := rfl
@[simp] theorem State.send_reports : (s.send k l b).reports = s.reports := rfl
@[simp] theorem State.send_ports : (s.send k l b).ports = s.ports := rfl
@[simp] theorem State.send_coll : (s.send k l b).coll = s.coll := rfl
@[simp] theorem State.send_watch : (s.send k l b).watch = s.watch := rfl
@[simp] theorem State.send_sgs : (s.send k l b).sgs = s.sgs := rfl
@[simp] theorem State.send_kgroups : (s.send k l b).kgroups = s.kgroups := rfl
@[simp] theorem State.send_kparts : (s.send k l b).kparts = s.kparts := rfl
@[simp] theorem State.send_nextStream : (s.send k l b).nextStream = s.nextStream := rfl
@[simp] theorem State.send_buddies : (s.send k l b).buddies = s.buddies := rfl
@[simp] theorem State.send_slowUncorr : (s.send k l b).slowUncorr = s.slowUncorr := rfl
@[simp] theorem State.send_govLevel : (s.send k l b).govLevel = s.govLevel := rfl
@[simp] theorem State.send_ready : (s.send k l b).ready = s.ready := rfl
@[simp] theorem State.send_power : (s.send k l b).power = s.power := rfl
@[simp] theorem State.send_sec : (s.send k l b).sec = s.sec := rfl
@[simp] theorem State.send_served : (s.send k l b).served = s.served := rfl
@[simp] theorem State.send_lastHole : (s.send k l b).lastHole = s.lastHole := rfl
@[simp] theorem State.send_lastDisagree : (s.send k l b).lastDisagree = s.lastDisagree := rfl
@[simp] theorem State.send_out : (s.send k l b).out = s.out := rfl
@[simp] theorem State.send_pending : (s.send k l b).pending = s.pending := rfl
end

section
variable (s : State) (m : UpMsg)
@[simp] theorem State.upTake_variant : (s.upTake m).variant = s.variant := rfl
@[simp] theorem State.upTake_now : (s.upTake m).now = s.now := rfl
@[simp] theorem State.upTake_free : (s.upTake m).free = s.free := rfl
@[simp] theorem State.upTake_fr : (s.upTake m).fr = s.fr := rfl
@[simp] theorem State.upTake_regs : (s.upTake m).regs = s.regs := rfl
@[simp] theorem State.upTake_pci : (s.upTake m).pci = s.pci := rfl
@[simp] theorem State.upTake_parts : (s.upTake m).parts = s.parts := rfl
@[simp] theorem State.upTake_ctxs : (s.upTake m).ctxs = s.ctxs := rfl
@[simp] theorem State.upTake_works : (s.upTake m).works = s.works := rfl
@[simp] theorem State.upTake_nextWork : (s.upTake m).nextWork = s.nextWork := rfl
@[simp] theorem State.upTake_cores : (s.upTake m).cores = s.cores := rfl
@[simp] theorem State.upTake_fallen : (s.upTake m).fallen = s.fallen := rfl
@[simp] theorem State.upTake_slices : (s.upTake m).slices = s.slices := rfl
@[simp] theorem State.upTake_dn : (s.upTake m).dn = s.dn := rfl
@[simp] theorem State.upTake_marbles : (s.upTake m).marbles = s.marbles := rfl
@[simp] theorem State.upTake_mem : (s.upTake m).mem = s.mem := rfl
@[simp] theorem State.upTake_hbm : (s.upTake m).hbm = s.hbm := rfl
@[simp] theorem State.upTake_reports : (s.upTake m).reports = s.reports := rfl
@[simp] theorem State.upTake_ports : (s.upTake m).ports = s.ports := rfl
@[simp] theorem State.upTake_coll : (s.upTake m).coll = s.coll := rfl
@[simp] theorem State.upTake_watch : (s.upTake m).watch = s.watch := rfl
@[simp] theorem State.upTake_sgs : (s.upTake m).sgs = s.sgs := rfl
@[simp] theorem State.upTake_kgroups : (s.upTake m).kgroups = s.kgroups := rfl
@[simp] theorem State.upTake_kparts : (s.upTake m).kparts = s.kparts := rfl
@[simp] theorem State.upTake_nextStream : (s.upTake m).nextStream = s.nextStream := rfl
@[simp] theorem State.upTake_buddies : (s.upTake m).buddies = s.buddies := rfl
@[simp] theorem State.upTake_slowUncorr : (s.upTake m).slowUncorr = s.slowUncorr := rfl
@[simp] theorem State.upTake_govLevel : (s.upTake m).govLevel = s.govLevel := rfl
@[simp] theorem State.upTake_ready : (s.upTake m).ready = s.ready := rfl
@[simp] theorem State.upTake_power : (s.upTake m).power = s.power := rfl
@[simp] theorem State.upTake_sec : (s.upTake m).sec = s.sec := rfl
@[simp] theorem State.upTake_served : (s.upTake m).served = s.served := rfl
@[simp] theorem State.upTake_lastHole : (s.upTake m).lastHole = s.lastHole := rfl
@[simp] theorem State.upTake_lastDisagree : (s.upTake m).lastDisagree = s.lastDisagree := rfl
@[simp] theorem State.upTake_out : (s.upTake m).out = s.out := rfl
@[simp] theorem State.upTake_pending : (s.upTake m).pending = s.pending := rfl
end

section
variable (s : State) (k l : Nat) (b : DnBody)
@[simp] theorem State.dnSend_variant : (s.dnSend k l b).variant = s.variant := rfl
@[simp] theorem State.dnSend_now : (s.dnSend k l b).now = s.now := rfl
@[simp] theorem State.dnSend_free : (s.dnSend k l b).free = s.free := rfl
@[simp] theorem State.dnSend_fr : (s.dnSend k l b).fr = s.fr := rfl
@[simp] theorem State.dnSend_regs : (s.dnSend k l b).regs = s.regs := rfl
@[simp] theorem State.dnSend_pci : (s.dnSend k l b).pci = s.pci := rfl
@[simp] theorem State.dnSend_parts : (s.dnSend k l b).parts = s.parts := rfl
@[simp] theorem State.dnSend_ctxs : (s.dnSend k l b).ctxs = s.ctxs := rfl
@[simp] theorem State.dnSend_works : (s.dnSend k l b).works = s.works := rfl
@[simp] theorem State.dnSend_nextWork : (s.dnSend k l b).nextWork = s.nextWork := rfl
@[simp] theorem State.dnSend_cores : (s.dnSend k l b).cores = s.cores := rfl
@[simp] theorem State.dnSend_fallen : (s.dnSend k l b).fallen = s.fallen := rfl
@[simp] theorem State.dnSend_slices : (s.dnSend k l b).slices = s.slices := rfl
@[simp] theorem State.dnSend_up : (s.dnSend k l b).up = s.up := rfl
@[simp] theorem State.dnSend_marbles : (s.dnSend k l b).marbles = s.marbles := rfl
@[simp] theorem State.dnSend_mem : (s.dnSend k l b).mem = s.mem := rfl
@[simp] theorem State.dnSend_hbm : (s.dnSend k l b).hbm = s.hbm := rfl
@[simp] theorem State.dnSend_reports : (s.dnSend k l b).reports = s.reports := rfl
@[simp] theorem State.dnSend_ports : (s.dnSend k l b).ports = s.ports := rfl
@[simp] theorem State.dnSend_coll : (s.dnSend k l b).coll = s.coll := rfl
@[simp] theorem State.dnSend_watch : (s.dnSend k l b).watch = s.watch := rfl
@[simp] theorem State.dnSend_sgs : (s.dnSend k l b).sgs = s.sgs := rfl
@[simp] theorem State.dnSend_kgroups : (s.dnSend k l b).kgroups = s.kgroups := rfl
@[simp] theorem State.dnSend_kparts : (s.dnSend k l b).kparts = s.kparts := rfl
@[simp] theorem State.dnSend_nextStream : (s.dnSend k l b).nextStream = s.nextStream := rfl
@[simp] theorem State.dnSend_buddies : (s.dnSend k l b).buddies = s.buddies := rfl
@[simp] theorem State.dnSend_slowUncorr : (s.dnSend k l b).slowUncorr = s.slowUncorr := rfl
@[simp] theorem State.dnSend_govLevel : (s.dnSend k l b).govLevel = s.govLevel := rfl
@[simp] theorem State.dnSend_ready : (s.dnSend k l b).ready = s.ready := rfl
@[simp] theorem State.dnSend_power : (s.dnSend k l b).power = s.power := rfl
@[simp] theorem State.dnSend_sec : (s.dnSend k l b).sec = s.sec := rfl
@[simp] theorem State.dnSend_served : (s.dnSend k l b).served = s.served := rfl
@[simp] theorem State.dnSend_lastHole : (s.dnSend k l b).lastHole = s.lastHole := rfl
@[simp] theorem State.dnSend_lastDisagree : (s.dnSend k l b).lastDisagree = s.lastDisagree := rfl
@[simp] theorem State.dnSend_out : (s.dnSend k l b).out = s.out := rfl
@[simp] theorem State.dnSend_pending : (s.dnSend k l b).pending = s.pending := rfl
end

section
variable (s : State) (m : DnMsg)
@[simp] theorem State.dnTake_variant : (s.dnTake m).variant = s.variant := rfl
@[simp] theorem State.dnTake_now : (s.dnTake m).now = s.now := rfl
@[simp] theorem State.dnTake_free : (s.dnTake m).free = s.free := rfl
@[simp] theorem State.dnTake_fr : (s.dnTake m).fr = s.fr := rfl
@[simp] theorem State.dnTake_regs : (s.dnTake m).regs = s.regs := rfl
@[simp] theorem State.dnTake_pci : (s.dnTake m).pci = s.pci := rfl
@[simp] theorem State.dnTake_parts : (s.dnTake m).parts = s.parts := rfl
@[simp] theorem State.dnTake_ctxs : (s.dnTake m).ctxs = s.ctxs := rfl
@[simp] theorem State.dnTake_works : (s.dnTake m).works = s.works := rfl
@[simp] theorem State.dnTake_nextWork : (s.dnTake m).nextWork = s.nextWork := rfl
@[simp] theorem State.dnTake_cores : (s.dnTake m).cores = s.cores := rfl
@[simp] theorem State.dnTake_fallen : (s.dnTake m).fallen = s.fallen := rfl
@[simp] theorem State.dnTake_slices : (s.dnTake m).slices = s.slices := rfl
@[simp] theorem State.dnTake_up : (s.dnTake m).up = s.up := rfl
@[simp] theorem State.dnTake_marbles : (s.dnTake m).marbles = s.marbles := rfl
@[simp] theorem State.dnTake_mem : (s.dnTake m).mem = s.mem := rfl
@[simp] theorem State.dnTake_hbm : (s.dnTake m).hbm = s.hbm := rfl
@[simp] theorem State.dnTake_reports : (s.dnTake m).reports = s.reports := rfl
@[simp] theorem State.dnTake_ports : (s.dnTake m).ports = s.ports := rfl
@[simp] theorem State.dnTake_coll : (s.dnTake m).coll = s.coll := rfl
@[simp] theorem State.dnTake_watch : (s.dnTake m).watch = s.watch := rfl
@[simp] theorem State.dnTake_sgs : (s.dnTake m).sgs = s.sgs := rfl
@[simp] theorem State.dnTake_kgroups : (s.dnTake m).kgroups = s.kgroups := rfl
@[simp] theorem State.dnTake_kparts : (s.dnTake m).kparts = s.kparts := rfl
@[simp] theorem State.dnTake_nextStream : (s.dnTake m).nextStream = s.nextStream := rfl
@[simp] theorem State.dnTake_buddies : (s.dnTake m).buddies = s.buddies := rfl
@[simp] theorem State.dnTake_slowUncorr : (s.dnTake m).slowUncorr = s.slowUncorr := rfl
@[simp] theorem State.dnTake_govLevel : (s.dnTake m).govLevel = s.govLevel := rfl
@[simp] theorem State.dnTake_ready : (s.dnTake m).ready = s.ready := rfl
@[simp] theorem State.dnTake_power : (s.dnTake m).power = s.power := rfl
@[simp] theorem State.dnTake_sec : (s.dnTake m).sec = s.sec := rfl
@[simp] theorem State.dnTake_served : (s.dnTake m).served = s.served := rfl
@[simp] theorem State.dnTake_lastHole : (s.dnTake m).lastHole = s.lastHole := rfl
@[simp] theorem State.dnTake_lastDisagree : (s.dnTake m).lastDisagree = s.lastDisagree := rfl
@[simp] theorem State.dnTake_out : (s.dnTake m).out = s.out := rfl
@[simp] theorem State.dnTake_pending : (s.dnTake m).pending = s.pending := rfl
end

section
variable (s : State) (f : TxFlow)
@[simp] theorem State.setTx_variant : (s.setTx f).variant = s.variant := rfl
@[simp] theorem State.setTx_now : (s.setTx f).now = s.now := rfl
@[simp] theorem State.setTx_free : (s.setTx f).free = s.free := rfl
@[simp] theorem State.setTx_fr : (s.setTx f).fr = s.fr := rfl
@[simp] theorem State.setTx_regs : (s.setTx f).regs = s.regs := rfl
@[simp] theorem State.setTx_pci : (s.setTx f).pci = s.pci := rfl
@[simp] theorem State.setTx_parts : (s.setTx f).parts = s.parts := rfl
@[simp] theorem State.setTx_ctxs : (s.setTx f).ctxs = s.ctxs := rfl
@[simp] theorem State.setTx_works : (s.setTx f).works = s.works := rfl
@[simp] theorem State.setTx_nextWork : (s.setTx f).nextWork = s.nextWork := rfl
@[simp] theorem State.setTx_cores : (s.setTx f).cores = s.cores := rfl
@[simp] theorem State.setTx_fallen : (s.setTx f).fallen = s.fallen := rfl
@[simp] theorem State.setTx_slices : (s.setTx f).slices = s.slices := rfl
@[simp] theorem State.setTx_up : (s.setTx f).up = s.up := rfl
@[simp] theorem State.setTx_dn : (s.setTx f).dn = s.dn := rfl
@[simp] theorem State.setTx_marbles : (s.setTx f).marbles = s.marbles := rfl
@[simp] theorem State.setTx_mem : (s.setTx f).mem = s.mem := rfl
@[simp] theorem State.setTx_hbm : (s.setTx f).hbm = s.hbm := rfl
@[simp] theorem State.setTx_reports : (s.setTx f).reports = s.reports := rfl
@[simp] theorem State.setTx_ports : (s.setTx f).ports = s.ports := rfl
@[simp] theorem State.setTx_coll_nextFlow : (s.setTx f).coll.nextFlow = s.coll.nextFlow := rfl
@[simp] theorem State.setTx_coll_rx : (s.setTx f).coll.rx = s.coll.rx := rfl
@[simp] theorem State.setTx_coll_inbox : (s.setTx f).coll.inbox = s.coll.inbox := rfl
@[simp] theorem State.setTx_coll_readies : (s.setTx f).coll.readies = s.coll.readies := rfl
@[simp] theorem State.setTx_coll_gone : (s.setTx f).coll.gone = s.coll.gone := rfl
@[simp] theorem State.setTx_watch : (s.setTx f).watch = s.watch := rfl
@[simp] theorem State.setTx_sgs : (s.setTx f).sgs = s.sgs := rfl
@[simp] theorem State.setTx_kgroups : (s.setTx f).kgroups = s.kgroups := rfl
@[simp] theorem State.setTx_kparts : (s.setTx f).kparts = s.kparts := rfl
@[simp] theorem State.setTx_nextStream : (s.setTx f).nextStream = s.nextStream := rfl
@[simp] theorem State.setTx_buddies : (s.setTx f).buddies = s.buddies := rfl
@[simp] theorem State.setTx_slowUncorr : (s.setTx f).slowUncorr = s.slowUncorr := rfl
@[simp] theorem State.setTx_govLevel : (s.setTx f).govLevel = s.govLevel := rfl
@[simp] theorem State.setTx_ready : (s.setTx f).ready = s.ready := rfl
@[simp] theorem State.setTx_power : (s.setTx f).power = s.power := rfl
@[simp] theorem State.setTx_sec : (s.setTx f).sec = s.sec := rfl
@[simp] theorem State.setTx_served : (s.setTx f).served = s.served := rfl
@[simp] theorem State.setTx_lastHole : (s.setTx f).lastHole = s.lastHole := rfl
@[simp] theorem State.setTx_lastDisagree : (s.setTx f).lastDisagree = s.lastDisagree := rfl
@[simp] theorem State.setTx_out : (s.setTx f).out = s.out := rfl
@[simp] theorem State.setTx_pending : (s.setTx f).pending = s.pending := rfl
end

section
variable (s : State) (n : Nat)
@[simp] theorem State.dropTx_variant : (s.dropTx n).variant = s.variant := rfl
@[simp] theorem State.dropTx_now : (s.dropTx n).now = s.now := rfl
@[simp] theorem State.dropTx_free : (s.dropTx n).free = s.free := rfl
@[simp] theorem State.dropTx_fr : (s.dropTx n).fr = s.fr := rfl
@[simp] theorem State.dropTx_regs : (s.dropTx n).regs = s.regs := rfl
@[simp] theorem State.dropTx_pci : (s.dropTx n).pci = s.pci := rfl
@[simp] theorem State.dropTx_parts : (s.dropTx n).parts = s.parts := rfl
@[simp] theorem State.dropTx_ctxs : (s.dropTx n).ctxs = s.ctxs := rfl
@[simp] theorem State.dropTx_works : (s.dropTx n).works = s.works := rfl
@[simp] theorem State.dropTx_nextWork : (s.dropTx n).nextWork = s.nextWork := rfl
@[simp] theorem State.dropTx_cores : (s.dropTx n).cores = s.cores := rfl
@[simp] theorem State.dropTx_fallen : (s.dropTx n).fallen = s.fallen := rfl
@[simp] theorem State.dropTx_slices : (s.dropTx n).slices = s.slices := rfl
@[simp] theorem State.dropTx_up : (s.dropTx n).up = s.up := rfl
@[simp] theorem State.dropTx_dn : (s.dropTx n).dn = s.dn := rfl
@[simp] theorem State.dropTx_marbles : (s.dropTx n).marbles = s.marbles := rfl
@[simp] theorem State.dropTx_mem : (s.dropTx n).mem = s.mem := rfl
@[simp] theorem State.dropTx_hbm : (s.dropTx n).hbm = s.hbm := rfl
@[simp] theorem State.dropTx_reports : (s.dropTx n).reports = s.reports := rfl
@[simp] theorem State.dropTx_ports : (s.dropTx n).ports = s.ports := rfl
@[simp] theorem State.dropTx_coll_nextFlow : (s.dropTx n).coll.nextFlow = s.coll.nextFlow := rfl
@[simp] theorem State.dropTx_coll_rx : (s.dropTx n).coll.rx = s.coll.rx := rfl
@[simp] theorem State.dropTx_coll_inbox : (s.dropTx n).coll.inbox = s.coll.inbox := rfl
@[simp] theorem State.dropTx_coll_readies : (s.dropTx n).coll.readies = s.coll.readies := rfl
@[simp] theorem State.dropTx_watch : (s.dropTx n).watch = s.watch := rfl
@[simp] theorem State.dropTx_sgs : (s.dropTx n).sgs = s.sgs := rfl
@[simp] theorem State.dropTx_kgroups : (s.dropTx n).kgroups = s.kgroups := rfl
@[simp] theorem State.dropTx_kparts : (s.dropTx n).kparts = s.kparts := rfl
@[simp] theorem State.dropTx_nextStream : (s.dropTx n).nextStream = s.nextStream := rfl
@[simp] theorem State.dropTx_buddies : (s.dropTx n).buddies = s.buddies := rfl
@[simp] theorem State.dropTx_slowUncorr : (s.dropTx n).slowUncorr = s.slowUncorr := rfl
@[simp] theorem State.dropTx_govLevel : (s.dropTx n).govLevel = s.govLevel := rfl
@[simp] theorem State.dropTx_ready : (s.dropTx n).ready = s.ready := rfl
@[simp] theorem State.dropTx_power : (s.dropTx n).power = s.power := rfl
@[simp] theorem State.dropTx_sec : (s.dropTx n).sec = s.sec := rfl
@[simp] theorem State.dropTx_served : (s.dropTx n).served = s.served := rfl
@[simp] theorem State.dropTx_lastHole : (s.dropTx n).lastHole = s.lastHole := rfl
@[simp] theorem State.dropTx_lastDisagree : (s.dropTx n).lastDisagree = s.lastDisagree := rfl
@[simp] theorem State.dropTx_out : (s.dropTx n).out = s.out := rfl
@[simp] theorem State.dropTx_pending : (s.dropTx n).pending = s.pending := rfl
end

section
variable (s : State) (f : TxFlow)
@[simp] theorem State.openTx_variant : (s.openTx f).variant = s.variant := rfl
@[simp] theorem State.openTx_now : (s.openTx f).now = s.now := rfl
@[simp] theorem State.openTx_free : (s.openTx f).free = s.free := rfl
@[simp] theorem State.openTx_fr : (s.openTx f).fr = s.fr := rfl
@[simp] theorem State.openTx_regs : (s.openTx f).regs = s.regs := rfl
@[simp] theorem State.openTx_pci : (s.openTx f).pci = s.pci := rfl
@[simp] theorem State.openTx_parts : (s.openTx f).parts = s.parts := rfl
@[simp] theorem State.openTx_ctxs : (s.openTx f).ctxs = s.ctxs := rfl
@[simp] theorem State.openTx_works : (s.openTx f).works = s.works := rfl
@[simp] theorem State.openTx_nextWork : (s.openTx f).nextWork = s.nextWork := rfl
@[simp] theorem State.openTx_cores : (s.openTx f).cores = s.cores := rfl
@[simp] theorem State.openTx_fallen : (s.openTx f).fallen = s.fallen := rfl
@[simp] theorem State.openTx_slices : (s.openTx f).slices = s.slices := rfl
@[simp] theorem State.openTx_up : (s.openTx f).up = s.up := rfl
@[simp] theorem State.openTx_dn : (s.openTx f).dn = s.dn := rfl
@[simp] theorem State.openTx_marbles : (s.openTx f).marbles = s.marbles := rfl
@[simp] theorem State.openTx_mem : (s.openTx f).mem = s.mem := rfl
@[simp] theorem State.openTx_hbm : (s.openTx f).hbm = s.hbm := rfl
@[simp] theorem State.openTx_reports : (s.openTx f).reports = s.reports := rfl
@[simp] theorem State.openTx_ports : (s.openTx f).ports = s.ports := rfl
@[simp] theorem State.openTx_coll_rx : (s.openTx f).coll.rx = s.coll.rx := rfl
@[simp] theorem State.openTx_coll_inbox : (s.openTx f).coll.inbox = s.coll.inbox := rfl
@[simp] theorem State.openTx_coll_readies : (s.openTx f).coll.readies = s.coll.readies := rfl
@[simp] theorem State.openTx_watch : (s.openTx f).watch = s.watch := rfl
@[simp] theorem State.openTx_sgs : (s.openTx f).sgs = s.sgs := rfl
@[simp] theorem State.openTx_kgroups : (s.openTx f).kgroups = s.kgroups := rfl
@[simp] theorem State.openTx_kparts : (s.openTx f).kparts = s.kparts := rfl
@[simp] theorem State.openTx_nextStream : (s.openTx f).nextStream = s.nextStream := rfl
@[simp] theorem State.openTx_buddies : (s.openTx f).buddies = s.buddies := rfl
@[simp] theorem State.openTx_slowUncorr : (s.openTx f).slowUncorr = s.slowUncorr := rfl
@[simp] theorem State.openTx_govLevel : (s.openTx f).govLevel = s.govLevel := rfl
@[simp] theorem State.openTx_ready : (s.openTx f).ready = s.ready := rfl
@[simp] theorem State.openTx_power : (s.openTx f).power = s.power := rfl
@[simp] theorem State.openTx_sec : (s.openTx f).sec = s.sec := rfl
@[simp] theorem State.openTx_served : (s.openTx f).served = s.served := rfl
@[simp] theorem State.openTx_lastHole : (s.openTx f).lastHole = s.lastHole := rfl
@[simp] theorem State.openTx_lastDisagree : (s.openTx f).lastDisagree = s.lastDisagree := rfl
@[simp] theorem State.openTx_out : (s.openTx f).out = s.out := rfl
@[simp] theorem State.openTx_pending : (s.openTx f).pending = s.pending := rfl
end

@[simp] theorem State.part_setPart_same (s : State) (p : Nat) (v : Part) : (s.setPart p v).part p = v := by
  simp [State.part, State.setPart]
theorem State.part_setPart (s : State) (p j : Nat) (v : Part) :
    (s.setPart p v).part j = if p = j then v else s.part j := by
  simp only [State.part, State.setPart, Tab.get_set]

@[simp] theorem State.ctx_setCtx_same (s : State) (c : Nat) (v : Ctx) : (s.setCtx c v).ctx c = v := by
  simp [State.ctx, State.setCtx]
theorem State.ctx_setCtx (s : State) (c j : Nat) (v : Ctx) :
    (s.setCtx c v).ctx j = if c = j then v else s.ctx j := by
  simp only [State.ctx, State.setCtx, Tab.get_set]

@[simp] theorem State.core_setCore_same (s : State) (c : Nat) (v : Core) : (s.setCore c v).core c = v := by
  simp [State.core, State.setCore]
theorem State.core_setCore (s : State) (c j : Nat) (v : Core) :
    (s.setCore c v).core j = if c = j then v else s.core j := by
  simp only [State.core, State.setCore, Tab.get_set]

@[simp] theorem State.slice_setSlice_same (s : State) (d : Nat) (v : Slice) : (s.setSlice d v).slice d = v := by
  simp [State.slice, State.setSlice]
theorem State.slice_setSlice (s : State) (d j : Nat) (v : Slice) :
    (s.setSlice d v).slice j = if d = j then v else s.slice j := by
  simp only [State.slice, State.setSlice, Tab.get_set]

@[simp] theorem State.marble_setMarble_same (s : State) (d : Nat) (v : Marble) : (s.setMarble d v).marble d = v := by
  simp [State.marble, State.setMarble]
theorem State.marble_setMarble (s : State) (d j : Nat) (v : Marble) :
    (s.setMarble d v).marble j = if d = j then v else s.marble j := by
  simp only [State.marble, State.setMarble, Tab.get_set]

@[simp] theorem State.port_setPort_same (s : State) (i : Nat) (v : Port) : (s.setPort i v).port i = v := by
  simp [State.port, State.setPort]
theorem State.port_setPort (s : State) (i j : Nat) (v : Port) :
    (s.setPort i v).port j = if i = j then v else s.port j := by
  simp only [State.port, State.setPort, Tab.get_set]

@[simp] theorem State.entry_setEntry_same (s : State) (e : Nat) (v : WEntry) : (s.setEntry e v).entry e = v := by
  simp [State.entry, State.setEntry]
theorem State.entry_setEntry (s : State) (e j : Nat) (v : WEntry) :
    (s.setEntry e v).entry j = if e = j then v else s.entry j := by
  simp only [State.entry, State.setEntry, Tab.get_set]

@[simp] theorem State.sg_setSg_same (s : State) (g : Nat) (v : Sg) : (s.setSg g v).sg g = v := by
  simp [State.sg, State.setSg]
theorem State.sg_setSg (s : State) (g j : Nat) (v : Sg) :
    (s.setSg g v).sg j = if g = j then v else s.sg j := by
  simp only [State.sg, State.setSg, Tab.get_set]

@[simp] theorem State.kgroup_setKgroup_same (s : State) (g : Nat) (v : KGroup) : (s.setKgroup g v).kgroup g = v := by
  simp [State.kgroup, State.setKgroup]
theorem State.kgroup_setKgroup (s : State) (g j : Nat) (v : KGroup) :
    (s.setKgroup g v).kgroup j = if g = j then v else s.kgroup j := by
  simp only [State.kgroup, State.setKgroup, Tab.get_set]

@[simp] theorem State.kpart_setKpart_same (s : State) (p : Nat) (v : KPart) : (s.setKpart p v).kpart p = v := by
  simp [State.kpart, State.setKpart]
theorem State.kpart_setKpart (s : State) (p j : Nat) (v : KPart) :
    (s.setKpart p v).kpart j = if p = j then v else s.kpart j := by
  simp only [State.kpart, State.setKpart, Tab.get_set]

@[simp] theorem State.source_setSource_same (s : State) (k : Nat) (v : Source) : (s.setSource k v).source k = v := by
  simp [State.source, State.setSource]
theorem State.source_setSource (s : State) (k j : Nat) (v : Source) :
    (s.setSource k v).source j = if k = j then v else s.source j := by
  simp only [State.source, State.setSource, Tab.get_set]

theorem Block.idx_lt (b : Block) : Block.idx b < 32 := by cases b <;> decide

theorem Block.idx_inj {b b' : Block} (h : Block.idx b = Block.idx b') : b = b' := by
  revert h; cases b <;> cases b' <;> decide

theorem Window.idx_lt (w : Window) : Window.idx w < 33 := by
  cases w with
  | glob => decide
  | part p => simp only [Window.idx]; omega

/-- Registers of pages do not share a key. -/
theorem regKey_inj {b b' : Block} {i i' off off' : Nat} (hi : i < 65536) (hi' : i' < 65536) (ho : off < 4096)
    (ho' : off' < 4096) (h : regKey b i off = regKey b' i' off') : b = b' ∧ i = i' ∧ off = off' := by
  unfold regKey at h
  have e : Block.idx b = Block.idx b' := by omega
  exact ⟨Block.idx_inj e, by omega, by omega⟩

/-- Requesters' copies do not share a key (R51). -/
theorem copyKey_inj {r r' : Req} {w w' : Window} {b b' : Block} (h : copyKey r w b = copyKey r' w' b') : r = r' := by
  have := Block.idx_lt b
  have := Block.idx_lt b'
  have := Window.idx_lt w
  have := Window.idx_lt w'
  unfold copyKey at h
  exact Fin.ext (by omega)

theorem State.copyOf_setCopy {r r' : Req} {w w' : Window} {b b' : Block} (s : State) (c : ReqCopy) (h : r' ≠ r) :
    (s.setCopy r w b c).copyOf r' w' b' = s.copyOf r' w' b' := by
  simp only [State.copyOf, State.setCopy]
  exact Tab.get_set_ne _ _ _ _ (fun e => h (copyKey_inj e).symm)

@[simp] theorem State.copyOf_setCopy_same (s : State) (r : Req) (w : Window) (b : Block) (c : ReqCopy) :
    (s.setCopy r w b c).copyOf r w b = c := by
  simp [State.copyOf, State.setCopy]

theorem State.copyOf_congr {s t : State} (h : t.regs.copy = s.regs.copy) (r : Req) (w : Window) (b : Block) :
    t.copyOf r w b = s.copyOf r w b := by
  simp [State.copyOf, h]

@[simp] theorem State.cfg_setCfg_same (s : State) (b : Block) (i off : Nat) (v : Word) :
    (s.setCfg b i off v).cfg b i off = v := by
  simp [State.cfg, State.setCfg]

theorem State.cfg_setCfg_ne (s : State) {b b' : Block} {i i' off off' : Nat} (v : Word)
    (h : regKey b i off ≠ regKey b' i' off') : (s.setCfg b i off v).cfg b' i' off' = s.cfg b' i' off' := by
  simp only [State.cfg, State.setCfg]
  exact Tab.get_set_ne _ _ _ _ h

@[simp] theorem State.counter_addCount_same (s : State) (b : Block) (i off n : Nat) :
    (s.addCount b i off n).counter b i off = s.counter b i off + n := by
  simp [State.counter, State.addCount]

theorem State.counter_addCount_ne (s : State) {b b' : Block} {i i' off off' : Nat} (n : Nat)
    (h : regKey b i off ≠ regKey b' i' off') :
    (s.addCount b i off n).counter b' i' off' = s.counter b' i' off' := by
  simp only [State.counter, State.addCount]
  exact Tab.get_set_ne _ _ _ _ h

@[simp] theorem State.sq_latch_same (s : State) (b : Block) (i off : Nat) (f : Word → Word) :
    (s.latch b i off f).sq b i off = f (s.sq b i off) := by
  simp [State.sq, State.latch]

theorem State.sq_latch_ne (s : State) {b b' : Block} {i i' off off' : Nat} (f : Word → Word)
    (h : regKey b i off ≠ regKey b' i' off') : (s.latch b i off f).sq b' i' off' = s.sq b' i' off' := by
  simp only [State.sq, State.latch]
  exact Tab.get_set_ne _ _ _ _ h

/-- What the read of a register does beside answering: it notes an event number, and uses free values (R76). -/
theorem State.afterRead_eq (s : State) (r : Req) (w : Window) (b : Block) (off : Nat) :
    ∃ x n, s.afterRead r w b off = { s with regs := { s.regs with seen := x }, free := n } := by
  unfold State.afterRead
  split
  · split
    · exact ⟨_, _, rfl⟩
    · split
      · exact ⟨_, _, rfl⟩
      · split
        · exact ⟨_, _, rfl⟩
        · exact ⟨_, _, rfl⟩
  · exact ⟨_, _, rfl⟩

theorem State.readReg_eq (s : State) (r : Req) (w : Window) (b : Block) (off : Nat) :
    ∃ x n, (s.readReg r w b off).2 = { s with regs := { s.regs with seen := x }, free := n } := by
  unfold State.readReg
  simp only
  split
  · exact State.afterRead_eq s r w b _
  · exact ⟨_, _, rfl⟩

end Sys2Proof.Machine
end

