-- ==== Sys2Proof/Laws/Memory.lean ====
section
/-! SUPPORT. Laws of memory: what a byte reads after a write, and that every memory operation keeps the canonical form. -/

namespace Sys2Proof.Machine

@[simp] theorem State.memByte_setByte_same (s : State) (a : Nat) (v : Byte) : (s.setByte a v).memByte a = v := by
  simp [State.memByte, State.setByte]

theorem State.memByte_setByte_ne (s : State) {a b : Nat} (v : Byte) (h : a ≠ b) :
    (s.setByte a v).memByte b = s.memByte b := by
  simp only [State.memByte, State.setByte]
  exact Tab.get_set_ne _ _ _ _ h

/-- Below the first byte written, memory reads as before. -/
theorem Memory.get_write_below (bs : List Byte) (m : List Host.Cell) {a b : Nat} (h : b < a) :
    Tab.get 0 (Memory.write m a bs) b = Tab.get 0 m b := by
  induction bs generalizing m a with
  | nil => rfl
  | cons v t ih =>
    rw [Memory.write, ih _ (by omega)]
    exact Tab.get_set_ne _ _ _ _ (by omega)

/-- Beyond the last byte written, memory reads as before. -/
theorem Memory.get_write_above (bs : List Byte) (m : List Host.Cell) {a b : Nat} (h : a + bs.length ≤ b) :
    Tab.get 0 (Memory.write m a bs) b = Tab.get 0 m b := by
  induction bs generalizing m a with
  | nil => rfl
  | cons v t ih =>
    simp only [List.length_cons] at h
    rw [Memory.write, ih _ (by omega)]
    exact Tab.get_set_ne _ _ _ _ (by omega)

/-- A byte that was written reads as it was written. -/
theorem Memory.get_write_at (bs : List Byte) (m : List Host.Cell) (a i : Nat) (h : i < bs.length) :
    Tab.get 0 (Memory.write m a bs) (a + i) = bs[i] := by
  induction bs generalizing m a i with
  | nil => simp at h
  | cons v t ih =>
    cases i with
    | zero =>
      rw [Memory.write, Memory.get_write_below _ _ (by omega)]
      simp
    | succ j =>
      simp only [List.length_cons] at h
      rw [Memory.write, show a + (j + 1) = a + 1 + j by omega, ih _ _ _ (by omega)]
      rfl

theorem State.memByte_memWrite_at (s : State) (a : Nat) (bs : List Byte) (i : Nat) (h : i < bs.length) :
    (s.memWrite a bs).memByte (a + i) = bs[i] := Memory.get_write_at bs s.mem a i h

theorem State.memByte_memWrite_out (s : State) (a : Nat) (bs : List Byte) {b : Nat} (h : b < a ∨ a + bs.length ≤ b) :
    (s.memWrite a bs).memByte b = s.memByte b := by
  rcases h with h | h
  · exact Memory.get_write_below bs s.mem h
  · exact Memory.get_write_above bs s.mem h

/-- What was written reads back whole. -/
theorem State.memRead_memWrite (s : State) (a : Nat) (bs : List Byte) :
    (s.memWrite a bs).memRead a bs.length = bs := by
  apply List.ext_getElem
  · simp [State.memRead]
  · intro i h1 h2
    simp only [State.memRead, List.getElem_map, List.getElem_range]
    exact State.memByte_memWrite_at s a bs i h2

/-- Writing bytes keeps the canonical form. -/
theorem Memory.write_wf (bs : List Byte) (m : List Host.Cell) (a : Nat) (h : Memory.wf m = true) :
    Memory.wf (Memory.write m a bs) = true := by
  induction bs generalizing m a with
  | nil => exact h
  | cons v t ih => exact ih _ _ (Tab.set_wf 0 m a v h)

theorem State.setByte_wf (s : State) (a : Nat) (v : Byte) (h : Memory.wf s.mem = true) :
    Memory.wf (s.setByte a v).mem = true := Tab.set_wf 0 s.mem a v h

theorem State.memWrite_wf (s : State) (a : Nat) (bs : List Byte) (h : Memory.wf s.mem = true) :
    Memory.wf (s.memWrite a bs).mem = true := Memory.write_wf bs s.mem a h

/-- A fold of operations that each keep a property keeps it. -/
theorem foldl_keeps {α β : Type} (P : β → Prop) (f : β → α → β) (h : ∀ b a, P b → P (f b a)) (l : List α) (b : β)
    (hb : P b) : P (l.foldl f b) := by
  induction l generalizing b with
  | nil => exact hb
  | cons a t ih => exact ih _ (h b a hb)

theorem State.hbmWrite_wf (s : State) (line : Nat) (mask : BitVec 4) (data : List Byte)
    (h : Memory.wf s.mem = true) : Memory.wf (s.hbmWrite line mask data).mem = true := by
  refine foldl_keeps (fun t : State => Memory.wf t.mem = true) _ (fun t i ht => ?_) _ _ h
  split
  · exact State.memWrite_wf t _ _ ht
  · exact ht

@[simp] theorem State.putLine_mem (s : State) (l : LLine) : (s.putLine l).mem = s.mem := rfl
@[simp] theorem State.dropLine_mem (s : State) (line : Nat) : (s.dropLine line).mem = s.mem := rfl

/-! What the operations of a home slice make of memory: most leave it, and the others keep its canonical form. -/

@[simp] theorem State.sendMsix_mem (s : State) (f v : Nat) (w : Option Nat) : (s.sendMsix f v w).mem = s.mem := by
  simp only [State.sendMsix]
  split
  · rfl
  · split
    · rfl
    · split <;> rfl

@[simp] theorem State.signal_mem (s : State) (src f k : Nat) : (s.signal src f k).mem = s.mem := by
  simp only [State.signal]
  split
  · simp
  · rfl

@[simp] theorem State.deliver_mem (s : State) (b : Block) (i : Nat) (c : BitVec 16) : (s.deliver b i c).mem = s.mem := by
  simp only [State.deliver]
  split <;> simp

@[simp] theorem State.raiseAt_mem (s : State) (b : Block) (i : Nat) (c : BitVec 16) (f : FrameNo) :
    (s.raiseAt b i c f).mem = s.mem := by
  simp only [State.raiseAt]
  split <;> simp

@[simp] theorem State.raise_mem (s : State) (b : Block) (i : Nat) (c : BitVec 16) : (s.raise b i c).mem = s.mem :=
  State.raiseAt_mem s b i c _

@[simp] theorem State.correction_mem (s : State) (a : Nat) : (s.correction a).mem = s.mem := by
  simp [State.correction, apply_ite State.mem]

@[simp] theorem State.reportUncorr_mem (s : State) (a : Nat) : (s.reportUncorr a).mem = s.mem := by
  simp [State.reportUncorr, apply_ite State.mem]

@[simp] theorem State.burst_mem (s : State) (line : Nat) (m : BitVec 4) (w : Bool) : (s.burst line m w).mem = s.mem := by
  simp [State.burst, apply_ite State.mem]

@[simp] theorem State.readSector_mem (s : State) (n : Nat) : (s.readSector n).mem = s.mem := by
  simp [State.readSector, apply_ite State.mem]

/-- A fold of operations that each leave memory leaves it. -/
theorem foldl_mem {α : Type} (f : State → α → State) (h : ∀ s a, (f s a).mem = s.mem) (l : List α) (s : State) :
    (l.foldl f s).mem = s.mem :=
  foldl_keeps (fun t : State => t.mem = s.mem) f (fun t a ht => (h t a).trans ht) l s rfl

@[simp] theorem State.hbmFetch_mem (s : State) (line : Nat) (m : BitVec 4) : (s.hbmFetch line m).mem = s.mem := by
  simp only [State.hbmFetch]
  split
  · rfl
  · rw [foldl_mem _ (fun t i => by split <;> simp)]
    simp

@[simp] theorem State.llcCount_mem (s : State) (line off : Nat) : (s.llcCount line off).mem = s.mem := rfl
@[simp] theorem State.countServed_mem (s : State) (line : Nat) (r : Bool) : (s.countServed line r).mem = s.mem := rfl
@[simp] theorem State.bumpClock_mem (s : State) (d : Nat) : (s.bumpClock d).mem = s.mem := rfl
@[simp] theorem State.touchLine_mem (s : State) (l : LLine) : (s.touchLine l).mem = s.mem := rfl

@[simp] theorem State.fillNow_mem (s : State) (l : LLine) (m : BitVec 4) : (s.fillNow l m).1.mem = s.mem :=
  State.hbmFetch_mem s l.line m

theorem recallOne_mem (q : State × LLine) (k : Nat) : (recallOne q k).1.mem = q.1.mem := by
  simp only [recallOne]
  split
  · rfl
  · split
    · rfl
    · rfl
    · rfl
    · split <;> rfl

theorem State.snoopAll_mem (s : State) (l : LLine) (f : State × LLine → Nat → State × LLine)
    (h : ∀ q k, (f q k).1.mem = q.1.mem) : (s.snoopAll l f).1.mem = s.mem :=
  foldl_keeps (fun q : State × LLine => q.1.mem = s.mem) f (fun q k hq => (h q k).trans hq) _ _ rfl

@[simp] theorem State.recall_mem (s : State) (l : LLine) : (s.recall l).1.mem = s.mem :=
  State.snoopAll_mem s l recallOne recallOne_mem

@[simp] theorem State.resolve_mem (s : State) (l : LLine) : (s.resolve l).1.mem = s.mem := by
  simp [State.resolve]

@[simp] theorem State.hbmAsk_mem (s : State) (line : Nat) (m : BitVec 4) (g : Bool) : (s.hbmAsk line m g).mem = s.mem := by
  simp [State.hbmAsk, apply_ite State.mem]

@[simp] theorem State.awrValue_mem (s : State) (who : Agent × Option Nat) (l : LLine) (bs : List (Nat × Byte)) :
    (s.awrValue who l bs).mem = s.mem := by
  simp [State.awrValue, apply_ite State.mem]

theorem State.hbmPut_wf (s : State) (line : Nat) (m : BitVec 4) (d : List Byte) (g : Bool) (h : Memory.wf s.mem = true) :
    Memory.wf (s.hbmPut line m d g).mem = true := by
  simp only [State.hbmPut]
  split
  · exact h
  · exact State.hbmWrite_wf s line m d h

theorem State.evict_wf (s : State) (l : LLine) (h : Memory.wf s.mem = true) : Memory.wf (s.evict l).mem = true := by
  have e : ∀ q : State × LLine, q.1.mem = s.mem →
      Memory.wf (((if q.2.dirty then ((q.1.addCount .llc (homeDie l.line) 0x818 l.targets.length).hbmPut l.line q.2.sect
        q.2.data (l.st = .red)) else q.1.addCount .llc (homeDie l.line) 0x818 l.targets.length).dropLine l.line).mem) =
        true := by
    intro q hq
    rw [State.dropLine_mem]
    split
    · exact State.hbmPut_wf _ _ _ _ _ (by simpa [hq] using h)
    · simpa [hq] using h
  unfold State.evict
  by_cases hr : l.st = .red
  · rw [if_pos hr]; exact e _ (State.resolve_mem s l)
  · rw [if_neg hr]; exact e _ (State.recall_mem s l)

theorem State.takeWay_wf (s : State) (free : Nat → Bool) (line : Nat) (h : Memory.wf s.mem = true) {t : State} {w : Nat}
    (e : s.takeWay free line = some (t, w)) : Memory.wf t.mem = true := by
  simp only [State.takeWay] at e
  split at e
  · cases e
  · split at e
    · cases e; simpa using h
    · cases e; exact h
    · split at e
      · cases e
      · split at e
        · cases e; exact State.evict_wf s _ h
        · cases e

@[simp] theorem State.awrLater_mem (s : State) (who : Agent × Option Nat) (line : Nat) (bs : List (Nat × Byte)) :
    (s.awrLater who line bs).mem = s.mem := by
  simp only [State.awrLater]
  split
  · rfl
  · split
    · rfl
    · split
      · rfl
      · split
        · rfl
        · split
          · simp
          · split
            · simp
            · rw [State.putLine_mem]
              exact foldl_mem (fun t k => (t.dnSend k line .inval).addCount .dir (homeDie line) 0x808 1)
                (fun _ _ => rfl) _ s

theorem State.awrLine_wf (s : State) (who : Agent × Option Nat) (line : Nat) (bs : List (Nat × Byte))
    (h : Memory.wf s.mem = true) : Memory.wf (s.awrLine who line bs).mem = true := by
  simp only [State.awrLine]
  split
  · simpa using h
  · split
    · split
      · simpa using h
      · rename_i e; simpa using State.takeWay_wf s _ line h e
    · split <;> simpa using h

theorem State.slowWrite_wf (s : State) (a : Nat) (bs : List Byte) (h : Memory.wf s.mem = true) :
    Memory.wf (s.slowWrite a bs).mem = true := by
  unfold State.slowWrite
  rw [foldl_mem _ (fun t k => by simp)]
  exact State.memWrite_wf s a bs h

theorem State.cohWrite_wf (s : State) (who : Agent × Option Nat) (a : Nat) (bs : List Byte) (h : Memory.wf s.mem = true) :
    Memory.wf (s.cohWrite who a bs).mem = true := by
  unfold State.cohWrite
  split
  · exact State.slowWrite_wf s a bs h
  · exact foldl_keeps (fun t : State => Memory.wf t.mem = true) _ (fun t x ht => State.awrLine_wf t _ _ _ ht) _ _ h

theorem State.devWrite_wf (s : State) (who : Agent × Option Nat) (a : Nat) (bs : List Byte) (h : Memory.wf s.mem = true) :
    Memory.wf (s.devWrite who a bs).mem = true := by
  unfold State.devWrite
  split
  · exact State.cohWrite_wf s who a bs h
  · exact State.cohWrite_wf s who a bs h
  · exact h

end Sys2Proof.Machine
end

