-- ==== Sys2Proof/WellFormed.lean ====
section
/-! DEFINITION. Which commands are well formed: the operands are such as the interface can carry. -/

namespace Sys2Proof

/-- A whole register is named (R42). -/
def wfWhole (a : BarAcc) : Bool :=
  match a.addr with
  | .bar0 o => o.toNat % 4 = 0
  | .bar2 o => o.toNat % 4 = 0

/-- A bundle holds one to four groups, each once (R175). -/
def Bundle.wf (b : Bundle) : Bool := b.groups ≠ [] && b.groups.length ≤ 4 && b.groups.Nodup

/-- Elements of a line (R313). -/
def wfElems : DType → Nat
  | .fp32 => 32
  | .int32 => 32
  | .bf16 => 64

/-- A configuration register is named whole. -/
def CfgOp.wf : CfgOp → Bool
  | .read (.other reg) => reg.toNat % 4 = 0
  | .read _ => true
  | .msixControl _ _ => true
  | .vfControl _ _ => true
  | .powerState _ => true
  | .bar4Size _ n => 28 ≤ n.val && n.val ≤ 36
  | .aerClear => true
  | .errors _ _ => true
  | .doeDiscovery _ => true
  | .linkTrain _ speed => 1 ≤ speed.val
  | .other reg _ => reg.toNat % 4 = 0

/-- A command is well formed. -/
def Instr.wf : Instr → Bool
  | .chselWrite _ _ _ _ => true
  | .statusRegisterRead _ _ => true
  | .statusWriteBack a _ => wfWhole a
  | .evackWrite _ _ _ _ => true
  | .configRegisterWrite _ _ _ => true
  | .mbxCommandFinish _ _ _ => true
  | .snapTake _ _ _ _ => true
  | .snapDone _ _ _ => true
  | .scrubVisit _ _ off _ => off.toNat % 4 = 0 && 0x100 ≤ off.toNat && off.toNat < 0x800
  | .eventFrame _ _ => true
  | .scrubFrame _ _ => true
  | .tick => true
  | .closingWindowOpen => true
  | .waveRelease _ => true
  | .launch _ => true
  | .launchStart _ _ => true
  | .blockDispatch _ => true
  | .launchCoreEnd _ _ => true
  | .cancel _ => true
  | .fence _ => true
  | .fenceComplete _ => true
  | .tlbInval _ => true
  | .tlbInvalComplete _ => true
  | .badOpcodeCommand _ => true
  | .markerReceive _ m _ => m.hops < 64 && 80000 ≤ m.period && m.period ≤ 80000000
  | .stringsTakeover => true
  | .stringsLost => true
  | .stringsFrameNo _ => true
  | .applyFrame _ => true
  | .frameSet _ => true
  | .puppeteerFrameNo _ => true
  | .stepBase _ => true
  | .stepNo _ => true
  | .grantCtxWrite _ _ _ => true
  | .grantCoresWrite _ _ _ _ => true
  | .grantWatchWrite _ _ _ => true
  | .grantSgWrite _ _ _ => true
  | .grantSlowWrite _ _ _ => true
  | .grantHbmLo _ => true
  | .grantHbmHi _ => true
  | .evtVectors _ => true
  | .measurementRecompute _ => true
  | .bar4Read _ _ len => 0 < len.toNat && len.toNat ≤ 4096
  | .bar4Write _ _ bytes => bytes ≠ [] && bytes.length ≤ 4096
  | .bar4BaseWrite _ _ => true
  | .doorbellWrite _ off _ => off.toNat % 4 = 0
  | .commandFetch _ _ => true
  | .atomicopRequest _ => true
  | .configRequest _ op => op.wf
  | .atsInvalidation _ _ _ _ => true
  | .vfEnableClear => true
  | .functionLevelReset _ => true
  | .createArg _ => true
  | .create _ => true
  | .destroy _ => true
  | .teardownClearStart _ => true
  | .teardownClearDone _ => true
  | .resume _ => true
  | .vectorAlu b _ => b.wf
  | .specialFunction b _ _ _ => b.wf
  | .cvtF b _ _ _ _ _ => b.wf
  | .cvtBlk b _ _ _ _ _ _ => b.wf
  | .cvtWide b _ _ _ _ => b.wf
  | .mskPack b _ _ => b.wf
  | .branch _ _ _ _ => true
  | .yieldEnd _ _ _ => true
  | .join _ _ => true
  | .barSync _ _ => true
  | .barArrive _ _ => true
  | .barrierMismatch _ _ _ => true
  | .exit _ => true
  | .specialValueRead _ _ _ => true
  | .groupPromote _ _ => true
  | .load b _ _ _ _ _ => b.wf
  | .loadReturn _ _ => true
  | .store b _ _ _ _ => b.wf
  | .scrCas b _ _ _ _ _ => b.wf
  | .scrExch b _ _ _ _ => b.wf
  | .stAdd b _ _ _ => b.wf
  | .scrAdd b _ _ _ _ => b.wf
  | .memDead b _ _ _ => b.wf
  | .memFence b _ => b.wf
  | .ldCmp b _ _ _ _ _ _ _ _ => b.wf
  | .mrPut b _ _ _ _ => b.wf
  | .spSegset b _ _ => b.wf
  | .spTake b _ _ _ => b.wf
  | .rngCtr b _ _ _ => b.wf
  | .rngStr b _ _ => b.wf
  | .arrReady _ _ => true
  | .arrUnready _ _ => true
  | .arrLds _ _ _ _ => true
  | .arrLdsh _ _ _ _ _ => true
  | .arrLdshStart _ => true
  | .arrLdshComplete _ _ => true
  | .arrMm _ _ => true
  | .arrPassStart _ _ => true
  | .arrPassComplete _ _ => true
  | .arrDrain _ _ _ _ _ => true
  | .arrDrainStart _ => true
  | .arrDrainComplete _ => true
  | .arrStat _ _ => true
  | .spFilt _ _ _ => true
  | .spLdw _ _ => true
  | .spEst _ _ _ _ _ => true
  | .spChk _ _ => true
  | .spStat _ _ => true
  | .rattleCheck _ => true
  | .rattleSeedWrite _ _ => true
  | .sortList _ => true
  | .marbleWindowTimeout _ => true
  | .marbleJobInputEnd _ _ => true
  | .marbleWindowEmit _ => true
  | .marbleJobEnd _ => true
  | .rd _ _ => true
  | .own _ _ => true
  | .ownFull _ _ => true
  | .joinRequest _ _ => true
  | .joinAck _ _ => true
  | .wbd _ _ => true
  | .wbr _ _ => true
  | .deadRequest _ _ => true
  | .ard _ _ _ _ => true
  | .awr _ _ off bytes => bytes ≠ [] && off.val + bytes.length ≤ 128
  | .aadd _ _ t elems => elems ≠ [] && elems.all (fun e => e.1.val < wfElems t)
  | .vict _ _ => true
  | .snoopShare _ _ => true
  | .snoopInval _ _ => true
  | .snoopDiscard _ _ => true
  | .snoopAnswer _ _ => true
  | .fillArrive _ => true
  | .fillDeliver _ _ => true
  | .conversionComplete _ => true
  | .mergeStart _ => true
  | .mergeComplete _ => true
  | .wbArg _ => true
  | .wbStart _ => true
  | .wbVisit _ => true
  | .wbScanComplete _ => true
  | .lookupArg _ => true
  | .lookup _ => true
  | .lastDead _ => true
  | .narrowSchedule _ _ => true
  | .hbmReadComplete _ _ => true
  | .hbmRefresh _ _ _ _ => true
  | .hbmScrub _ _ => true
  | .hbmLastUncorr _ => true
  | .scrubPasses _ => true
  | .copy _ => true
  | .fill _ => true
  | .gather _ => true
  | .storeCast _ => true
  | .amax _ => true
  | .transpose _ => true
  | .dmaPiece _ _ => true
  | .dmaCommandEnd _ => true
  | .lastHole _ => true
  | .update _ => true
  | .cast _ => true
  | .narogJobStart _ => true
  | .narogWriteDone _ => true
  | .narogFlip _ => true
  | .narogReport _ => true
  | .recordAddr _ => true
  | .loadRecord _ => true
  | .init _ => true
  | .narogCommitRead _ => true
  | .narogStepRead _ => true
  | .powers _ => true
  | .narogCfgWrite _ _ off _ => off.toNat % 4 = 0 && 0x100 ≤ off.toNat && off.toNat < 0x800
  | .slowtierLastUncorr _ => true
  | .watchReport => true
  | .stepClose _ => true
  | .dumpComplete _ => true
  | .watchCfgWrite _ _ _ => true
  | .closedStep _ => true
  | .closed _ _ => true
  | .live _ _ => true
  | .dump _ => true
  | .close _ => true
  | .norm _ => true
  | .lastDisagree _ => true
  | .portEnable _ _ => true
  | .portDisable _ _ => true
  | .retrain _ _ => true
  | .detourSet _ _ => true
  | .detourClear _ _ => true
  | .portUp _ _ _ => true
  | .trainFail _ _ => true
  | .nodeDimsWrite _ _ _ => true
  | .flitSlot _ => true
  | .flitReceive _ im => im.payload.length = 240
  | .retryTimeout _ => true
  | .noFlitTimeout _ => true
  | .ackTimeout _ => true
  | .reduceScatter _ => true
  | .allGather _ => true
  | .allReduce _ => true
  | .put _ => true
  | .collectiveStart _ => true
  | .collData => true
  | .collReady => true
  | .flowAck => true
  | .flowAckTimer => true
  | .rewindTimeout => true
  | .normUp => true
  | .normDown => true
  | .refuse => true
  | .collectiveEnd _ => true
  | .landing _ => true
  | .txFlits _ => true
  | .rxFlits _ => true
  | .sweepComplete _ => true
  | .ack => true
  | .storeTimeout _ => true
  | .buddyPut => true
  | .buddyAck => true
  | .openRecord => true
  | .rowRecord => true
  | .sealRecord => true
  | .abortRecord => true
  | .restoreReq => true
  | .replReq => true
  | .replAns => true
  | .restoreClearDone _ => true
  | .restoreCheckDone _ => true
  | .hostFeed _ => true
  | .stage _ => true
  | .hostRing _ => true
  | .hostConsumed _ => true
  | .hostAck _ => true
  | .feed _ => true
  | .sgSel _ => true
  | .sgTable _ => true
  | .base _ => true
  | .kiteCommits _ => true
  | .kiteDigest _ => true
  | .expect _ => true
  | .restore _ => true
  | .replica _ => true
  | .failNote _ => true
  | .adapt _ => true
  | .buddyArg _ => true
  | .buddyGet _ => true
  | .buddyDrop _ => true
  | .krecAddr _ => true
  | .krecInit _ => true
  | .wcStale _ => true
  | .kiteCfgWrite _ _ _ => true
  | .kiteMctlWrite _ _ => true
  | .rngSeed _ => true
  | .cursor _ => true
  | .pos _ _ => true
  | .snapPos _ => true
  | .snapCursor _ => true
  | .vinApplied _ => true
  | .firmwareVerified => true
  | .pwrEnAssert => true
  | .pwrEnDeassert => true
  | .railsUp => true
  | .perstDeassert => true
  | .perstAssert => true
  | .clocksDone => true
  | .memoryDone => true
  | .selftestDone _ => true
  | .bootClearDone => true
  | .supplyLow => true
  | .supplyLoss => true
  | .governorWindow m => m.temps.length = 12 && m.memDies.length = 4
  | .thermWarn _ _ => true
  | .thermalTrip _ _ => true
  | .thermalTripRelease _ _ => true
  | .crossingStall send recv _ => send ≠ recv
  | .pllUnlock send recv _ => send ≠ recv
  | .relockTimeout _ => true
  | .blockRst _ => true
  | .blockResetComplete _ _ => true
  | .moduleReset _ => true
  | .coreFailLo _ => true
  | .coreFailHi _ => true
  | .bootTime _ => true
  | .fwLoad _ => true
  | .fwLoadComplete => true
  | .fwInfo _ => true
  | .fwCommitSvn _ => true
  | .signIndex _ => true
  | .generation _ => true
  | .measArg _ => true
  | .secMeas _ => true
  | .getMeasurements _ _ => true
  | .getIdentity _ _ => true
  | .fwRecover _ _ => true
  | .reservationWriteDone => true
  | .signatureRelease => true
  | .treeBuildDone => true
  | .feedCycles _ => true
  | .swaps _ => true
  | .stallCountRead _ _ => true
  | .mispTotal _ => true
  | .entriesIn _ => true
  | .laneLockLost _ => true
  | .pllRelock _ => true
  | .clockResume _ => true
  | .moduleResetRelease => true
  | .atsCompletion _ _ => true
  | .ideKmMessage _ key => key.length = 32
  | .mctpControlMessage _ => true

end Sys2Proof
end

