-- ==== Sys2Proof/Tests/Slice0.lean ====
section
/-! SUPPORT. Tests: what is well formed, values the manual works out itself, and for every statement with hypotheses a
concrete state and operands that meet them, most with what the command then does. -/

namespace Sys2Proof.Tests

open Sys2Proof.Machine

/- One theorem after the other, so that the kernel's evaluations do not hold the machine's memory together. -/
set_option Elab.async false

/-- The state a command leaves. -/
def run (c : Instr) (s : State) : State :=
  match exec c s with
  | .next t => t
  | .fault _ => { s with nextWork := 0 }
  | .refused _ => { s with nextWork := 0 }

/-- The command goes on. -/
def goes (c : Instr) (s : State) : Bool :=
  match exec c s with
  | .next _ => true
  | .fault _ => false
  | .refused _ => false

/-- A module that is READY, after no command but those of its boot. -/
def up : State := { State.reset with ready := true, power := { State.reset.power with phase := 5, standby := true, rails := true, perst := false } }

/-- Mailbox requests of the management core in the global window. -/
def rq (op len : BitVec 4) : MbxReq := ⟨32, .glob, op, len, 0x5A⟩

/-- The same of a requester in a partition's window. -/
def rqp (r : Req) (p : PartId) (op len : BitVec 4) : MbxReq := ⟨r, .part p, op, len, 0x5A⟩

/-- A requester's data words on a page. -/
def State.withD (s : State) (r : Req) (w : Window) (b : Block) (ws : List Word) : State :=
  s.setCopy r w b { s.copyOf r w b with d := ws ++ List.replicate (8 - ws.length) 0 }

/-- A requester's CHSEL on a page. -/
def State.withSel (s : State) (r : Req) (w : Window) (b : Block) (i : Nat) : State :=
  s.setCopy r w b { s.copyOf r w b with inst := BitVec.ofNat 16 i }

theorem witness_ChannelSelect :
    up.hears 32 .core = true ∧ pageTakes 32 .glob .core = true ∧ globCount up.variant .core ≠ 0 ∧
    (383 : Word).toNat % 65536 < up.chCount .glob .core ∧ up.chCount .glob .core ≤ (384 : Word).toNat % 65536 ∧
    ((run (.chselWrite 32 .glob .core 383) up).copyOf 32 .glob .core).inst = 383 ∧
    bit ((run (.chselWrite 32 .glob .core 384) up).regWord 32 .glob .core 0x008) 23 = true := by decide +kernel

theorem witness_RequesterCopiesAreSeparate :
    (0 : Req) ≠ 32 ∧ goes (.chselWrite 32 .glob .core 1) up = true ∧ goes (.snapTake 32 .glob .core 1) up = true ∧
    goes (.snapDone 32 .glob .core) up = true ∧ goes (.mbxCommandFinish 32 .glob .core) up = true ∧
    goes (.statusRegisterRead ⟨32, .bar0 0x10004⟩ .w32) up = true ∧ goes (.eventFrame (rq 1 2) .core) up = true ∧
    goes (.scrubFrame (rq 1 2) .core) up = true := by decide +kernel

def evBusy : State := run (.eventFrame (rq 1 2) .core) up

theorem witness_MailboxCommands :
    up.asks (rq 1 2) .core (rdItem 0xFFF0 2) 0 false [0, 0] ∧
    up.asks (rq 1 2) .core { num := 0xFFF1, read := true, write := false, len := 2, follows := false } 0 false [0, 0] ∧
    (evBusy.copyOf 32 .glob .core).busy = true ∧
    (let t := run (.mbxCommandFinish 32 .glob .core) evBusy
     (t.copyOf 32 .glob .core).tag = 0x5A ∧ (t.copyOf 32 .glob .core).valid = true ∧
      (t.copyOf 32 .glob .core).d.take 3 = [0xFFFFFFFF, 0xFFFFFFFF, 0]) := by decide +kernel

/-- A FW_LOAD whose read of HBM waits, as the narrow path is in hold. -/
def loadWaits : State :=
  let t := up.setCopy 32 .glob .sec { busy := true, cmd := 0x5A020010, todo := some [4096, 128] }
  { t with regs := { t.regs with found := [(regKey .narrow 0 0x100, true)] } }

theorem witness_MailboxCommands_waiting :
    (loadWaits.copyOf 32 .glob .sec).todo = some [4096, 128] ∧
    (waitingRule .sec ((loadWaits.copyOf 32 .glob .sec).cmd.toNat % 65536) [4096, 128] loadWaits).isNone = true ∧
    (run (.mbxCommandFinish 32 .glob .sec) loadWaits).copyOf 32 .glob .sec = loadWaits.copyOf 32 .glob .sec ∧
    (waitingRule .sec 0x10 [4097, 128] loadWaits).map (·.1) = some errBadCmd ∧
    (let t := run (.mbxCommandFinish 32 .glob .sec)
        (loadWaits.setCopy 32 .glob .sec { loadWaits.copyOf 32 .glob .sec with todo := some [4097, 128] })
     (t.copyOf 32 .glob .sec).busy = false ∧ (t.copyOf 32 .glob .sec).todo = none ∧
      (t.copyOf 32 .glob .sec).err = errBadCmd) := by
  refine ⟨?_, ?_, ?_, ?_, ?_⟩ <;> decide +kernel

/-- A read and then a write-back of SQ fields that the read showed. -/
def sqLatched : State := up.latch .core 5 0x804 (fun _ => 0x800000)
def sqRead : State := run (.statusRegisterRead ⟨32, .bar0 0x10804⟩ .w32) (State.withSel sqLatched 32 .glob .core 5)

theorem witness_StatusReadAndWriteBack :
    up.hears 32 .core = true ∧ sqRead.statusInst 32 .glob .core 0x804 = some 5 ∧ up.selInst 32 .glob .core = some 0 ∧
    sqRead.sq .core 5 0x804 = 0x800000 ∧
    (run (.statusWriteBack ⟨32, .bar0 0x10804⟩ 0x01800000) sqRead).sq .core 5 0x804 = 0 ∧
    (run (.statusWriteBack ⟨32, .bar0 0x10804⟩ 0x02800000) sqRead).sq .core 5 0x804 = 0x800000 := by
  decide +kernel

/-- An event and a read of the source's register. -/
def evRead : State := run (.statusRegisterRead ⟨32, .bar0 0x10010⟩ .w32) (up.raise .core 0 0x2001)

theorem test_evack_matches :
    (evRead.source (srcKey .core 0)).pending = 1 ∧
    ((run (.evackWrite 32 .glob .core 0x01000000) evRead).source (srcKey .core 0)).pending = 0 ∧
    ((run (.evackWrite 32 .glob .core 0x02000000) evRead).source (srcKey .core 0)).pending = 1 ∧
    (let s : State := { evRead with pci := { evRead.pci with pba := [(7, [some (srcKey .core 0), none])] } }
     (run (.evackWrite 32 .glob .core 0x01000000) s).pci.pba = [(7, [none])] ∧
      (run (.evackWrite 32 .glob .core 0x02000000) s).pci.pba = s.pci.pba) := by decide +kernel

theorem witness_SnapshotTakeAndDone :
    readOnlyPage .glob .core = false ∧ readOnlyPage (.part 3) .module = true ∧ pageOk 32 .glob .core = true ∧
    (State.withSel up 32 .glob .core 384).selInst 32 .glob .core = none ∧ up.absent .core = false ∧ up.selInst 32 .glob .core = some 0 ∧ bit (5 : Word) 0 = true ∧ bit (5 : Word) 2 = true ∧
    bit (1 : Word) 0 = true ∧ bit (1 : Word) 2 = false ∧ up.shows .core 0 = true ∧
    ((run (.snapTake 32 .glob .core 5) up).copyOf 32 .glob .core).snapBusy = true ∧
    ((run (.snapTake 32 .glob .core 5) (up.addCount .core 0 0x808 3)).counter .core 0 0x808) = 0 ∧
    ((run (.snapTake 32 .glob .core 1) (up.addCount .core 0 0x808 3)).counter .core 0 0x808) = 3 := by decide +kernel

/-- A bit of a register of STALL has changed without a write. -/
def flipped : State := run (.scrubVisit .stall 383 0x100 1) up

theorem witness_ScrubFindsParityMismatch :
    up.scrubbed .stall 383 0x100 = true ∧ up.scrubbed .stall 383 0x104 = false ∧ up.mismatched .stall 383 0x100 = false ∧
    flipped.cfg .stall 383 0x100 = 0 ∧ flipped.mismatched .stall 383 0x100 = true ∧
    flipped.inHold .stall 383 = false ∧
    (let t := run (.scrubVisit .stall 383 0x100 0) flipped
     (t.source (srcKey .stall scrubber)).lastCode = 0x1002 ∧ t.inHold .stall 383 = true ∧
      (run (.configRegisterWrite ⟨32, .bar0 0x13100⟩ .w32 1) (State.withSel t 32 .glob .stall 383)).inHold .stall 383 =
        false) := by
  decide +kernel

theorem witness_ConfigRegisterWrite :
    BarAcc.acc ⟨32, .bar0 0x21100⟩ = some ⟨32, .glob, .dir, 0x100⟩ ∧ up.reaches 32 .glob .dir 0 0x100 ∧
    BarAcc.acc ⟨32, .bar0 0x0D000⟩ = none ∧ BarAcc.acc ⟨3, .bar0 0x06100⟩ = some ⟨3, .part 3, .rng, 0x100⟩ ∧
    (run (.configRegisterWrite ⟨32, .bar0 0x21100⟩ .w32 0xFFFFFFFF) up).cfg .dir 0 0x100 = 1 ∧
    run (.configRegisterWrite ⟨32, .bar0 0x21100⟩ .w16 0xFFFFFFFF) up = up ∧
    BarAcc.high ⟨32, .bar0 0x25100⟩ = some ⟨32, .bar0 0x25104⟩ ∧ BarAcc.high ⟨32, .bar0 0x3FFFFFC⟩ = none ∧ goes (.configRegisterWrite ⟨32, .bar0 0x25100⟩ .w64 0x22222222) up = true := by
  decide +kernel

/-- A node that was no follower, with a period that waits. -/
def waitingPeriod : State := { up with fr := { up.fr with pend := some (9, 100000) } }

theorem witness_ConfigRegisterWrite_limits :
    BarAcc.acc ⟨32, .bar0 0x02100⟩ = some ⟨32, .glob, .strings, 0x100⟩ ∧ waitingPeriod.reaches 32 .glob .strings 0 0x100 ∧
    waitingPeriod.reaches 32 .glob .strings 0 0x108 ∧ waitingPeriod.isFollower = false ∧ waitingPeriod.fr.free = false ∧
    cfgIgnores .strings 0x100 79999 = true ∧ cfgIgnores .strings 0x100 80000 = false ∧
    (run (.configRegisterWrite ⟨32, .bar0 0x02100⟩ .w32 80000) waitingPeriod).cfg .strings 0 0x100 = 80000 ∧
    (run (.configRegisterWrite ⟨32, .bar0 0x02104⟩ .w32 1) waitingPeriod).isFollower = true ∧
    (run (.configRegisterWrite ⟨32, .bar0 0x02104⟩ .w32 1) waitingPeriod).fr.pend = none ∧
    (run (.configRegisterWrite ⟨32, .bar0 0x02104⟩ .w32 2) waitingPeriod).fr.pend = some (9, 100000) ∧
    up.reaches 32 .glob .hbm 0 0x100 ∧ up.reaches 32 .glob .power 0 0x100 ∧ up.reaches 32 .glob .coll 0 0x104 ∧
    up.reaches 32 .glob .ulink 0 0x10C ∧ (∀ p, p < 6 → up.inHold .ulink p = false) := by
  refine ⟨?_, ?_, ?_, ?_, ?_, ?_, ?_, ?_, ?_, ?_, ?_, ?_, ?_, ?_, ?_, ?_⟩ <;> decide +kernel

set_option maxRecDepth 20000 in
theorem witness_StepRunsFrontCommand :
    (match step { up with pending := [.tick, .eventFrame (rq 1 2) .hbm] } with
      | .next t => (t.fr.no, t.pending.length)
      | .fault _ => (0, 0)
      | .refused _ => (0, 0)) = (1, 1) := by decide +kernel

/-- A partition 1 with contexts 0 to 3, cores 0 to 7, watch entries 0 to 9, shard groups 0 and 1, and stack 0. -/
def base : State :=
  let s : State := { up with pci := { up.pci with vfEnable := true, numVfs := 31 } }
  ((((((s.setCfg .puppeteer 1 0x104 (place 4 12)).setCfg .puppeteer 1 0x108 1).setCfg .puppeteer 1 0x110 (place 10 16)).setCfg
    .puppeteer 1 0x114 (place 2 16)).setCfg .puppeteer 1 0x118 (place 1 16)).setCfg .ctxtab 0 0x100 100000).setPart 1
      { ({} : Part) with hbm := BitVec.ofNat 432 (2 ^ 36 - 1) }

/-- A slot with an opcode and some fields. -/
def slot64 (op : Byte) (fs : List (Nat × List Byte)) : List Byte :=
  fs.foldl (fun a x => overlay a x.1 x.2) (overlay (List.replicate 64 0) 3 [op])

/-- An active context with a ring in host memory. -/
def ctxHost : Ctx := { st := .active, part := 1, desc := 0x1000, ringHost := true, ringBase := 0x20000, head := 5, tail := 6, key := 7 }

/-- Context 0 with a fetched command. -/
def cmd (sl : List Byte) : State := base.setCtx 0 { ctxHost with fetched := some { slot := sl, aux := [] } }

set_option maxRecDepth 20000 in
theorem witness_TickOpensNextFrame : up.ready = true ∧ (run .tick up).fr.no = 1 ∧ (run .tick up).fr.cycle = 0 := by
  decide +kernel

/-- Slot of a LAUNCH into the frame in progress: 8 cores, 2 groups a block, 16 registers, 4 blocks. -/
def launchSlot : List Byte :=
  slot64 0x01 [(2, [2]), (4, leBytes 4 40960), (16, leBytes 8 0x4000), (32, leBytes 4 4), (36, [8, 0, 2, 0]), (40, [32, 0, 16, 0])]

/-- After the launch is admitted. -/
def launched : State := run (.launch 0) (cmd launchSlot)

set_option maxRecDepth 20000 in
theorem witness_LaunchAdmission :
    ((cmd launchSlot).command 0).isSome = true ∧ opcodeOf launchSlot = 0x01 ∧
    (cmd launchSlot).launchOutcome 0 launchSlot = (0, 0) ∧ launched.works.length = 1 ∧ (launched.ctx 0).head = 6 ∧
    Tab.get 0 (launched.ctx 0).resv 0 = 80 ∧
    (cmd (overlay launchSlot 38 [33])).launchOutcome 0 (overlay launchSlot 38 [33]) = (0x11, 0) ∧
    (run (.launch 0) (cmd (overlay launchSlot 38 [33]))).works = [] := by decide +kernel

set_option maxRecDepth 20000 in
theorem witness_NoFrameWorkOutlivesItsFrame :
    launched.ready = true ∧ goes .tick launched = true ∧ launched.works.length = 1 ∧ (run .tick launched).works = [] := by
  decide +kernel

set_option maxRecDepth 20000 in
theorem witness_ClosingWindowAndWaves :
    up.ready = true ∧ up.fr.closing = false ∧ (run .closingWindowOpen up).fr.cycle = 797952 ∧
    (run (.waveRelease 7) up).fr.cycle = 224 ∧ (run (.waveRelease 7) up).fr.waves = 0x80 := by decide +kernel

/-- A follower of node 3, with ports 0 and 1 trained. -/
def follower : State :=
  ((up.setCfg .strings 0 0x104 1).setCfg .strings 0 0x108 3).setPort 0 { ({} : Port) with st := .up, delay := 100 }
    |>.setPort 1 { ({} : Port) with st := .up, delay := 200 }

def mark (f : FrameNo) : Marker := { frame := f, source := 3, period := 800000, pending := none, hops := 0, delayNs := 50 }

theorem witness_StringsAlignment :
    follower.acceptsMarker 0 (mark 0) = true ∧ follower.acceptsMarker 5 (mark 0) = false ∧
    (0 : FrameNo) = follower.fr.no ∧ (follower.markerErr (mark 0) 100).natAbs = 150 ∧ follower.fr.closing = false ∧
    (run (.markerReceive 0 (mark 0) 10) follower).fr.adj = 120 ∧
    (run (.markerReceive 0 (mark 9) 10) follower).fr.nextNo = some 9 ∧
    ((run (.markerReceive 0 (mark 0) 10) follower).port 1).markers.map (·.delayNs) = [160] ∧
    (let b : State := { follower.setCfg .strings 0 0x104 3 with fr := { follower.fr with missed := 16 } }
     b.role = 3 ∧ b.fr.tookOver = false ∧ b.takeoverFrames ≤ b.fr.missed ∧ b.isFollower = true ∧ b.fr.free = false ∧
      b.lostFrames ≤ b.fr.missed ∧ (run .stringsTakeover b).isMaster = true ∧
      ((run .stringsLost b).source (srcKey .strings 0)).lastCode = 0x1003) := by decide +kernel

/-- A requester's data words of a WRITE, in the global window. -/
def wr (b : Block) (ws : List Word) (s : State) : State := State.withD s 32 .glob b ws

theorem witness_FrameItems_others :
    up.asks (rq 1 2) .strings (rwItem 2 2) 0 false [0, 0] ∧ (wr .strings [3] up).asks (rq 2 2) .strings (wrItem 3 2) 0 true [3, 0] ∧
    (wr .strings [4] { follower with fr := { follower.fr with free := true } }).asks (rq 2 2) .strings (rwItem 2 2) 0 true
      [4, 0] ∧
    (wr .strings [4] follower).asks (rq 2 2) .strings (rwItem 2 2) 0 true [4, 0] ∧
    up.asks (rq 1 2) .puppeteer (rwItem 2 2) 0 false [0, 0] := by decide +kernel

theorem witness_FrameItems :
    up.asks (rq 1 2) .strings (rdItem 1 2) 0 false [0, 0] ∧
    (wr .strings [3] up).asks (rq 2 2) .strings (rwItem 2 2) 0 true [3, 0] ∧ natOf [(3 : Word), 0] < up.fr.no.toNat + 4 ∧
    (wr .strings [4] up).asks (rq 2 2) .strings (rwItem 2 2) 0 true [4, 0] ∧ up.isFollower = false ∧
    (wr .strings [4] up).asks (rq 2 2) .strings (wrItem 3 2) 0 true [4, 0] ∧ follower.isFollower = true ∧
    (wr .strings [4] follower).asks (rq 2 2) .strings (wrItem 3 2) 0 true [4, 0] ∧
    up.asks (rq 1 2) .puppeteer (rdItem 1 2) 0 false [0, 0] ∧ up.asks (rq 1 2) .puppeteer (rdItem 3 2) 0 false [0, 0] ∧
    (wr .puppeteer [9] up).asks (rq 2 2) .puppeteer (rwItem 2 2) 0 true [9, 0] ∧
    (run (.frameSet (rq 2 2)) (wr .strings [4] up)).fr.nextNo = some 4 ∧
    ((run (.stepBase (rq 2 2)) (wr .puppeteer [9] up)).part 0).stepBase = 9 := by decide +kernel

/-- A period that waits for a frame. -/
def pendAt (f : FrameNo) : State := { up with fr := { up.fr with pend := some (f, 900000) } }

set_option maxRecDepth 20000 in
theorem witness_PendingPeriodTakesEffect :
    (pendAt 1).ready = true ∧ (pendAt 1).fr.pend = some (1, 900000) ∧
    (let t := run .tick (pendAt 1)
     t.fr.no = 1 ∧ t.fr.period = 900000 ∧ t.fr.pend = none) := by decide +kernel

set_option maxRecDepth 20000 in
theorem witness_PendingPeriodTakesEffect_later :
    (let t := run .tick (pendAt 2)
     t.fr.no = 1 ∧ t.fr.period = 800000 ∧ t.fr.pend = some (2, 900000)) ∧ up.fr.pend = none := by decide +kernel

/-- Frame 1 is an update frame of partition 0. -/
def updateNext : State := (up.setCfg .puppeteer 0 0x100 0x80000000).setKpart 0 { (up.kpart 0) with seed := 7 }

/-- After the launch is admitted, and not started: its frame is overrun. -/
theorem witness_TickOpensNextFrame_overrun :
    launched.fr.nextNo = none ∧ (launched.works.map (·.running)) = [false] ∧
    (launched.works.map (·.frame)) = [launched.fr.no] ∧ (launched.works.map (·.ctx)) = [some 0] ∧
    (launched.works.map (fun w => w.launch?.isSome)) = [true] ∧ (launched.works.map (·.part)) = [1] ∧
    updateNext.kindOf 0 1 = .update := by
  refine ⟨?_, ?_, ?_, ?_, ?_, ?_, ?_⟩ <;> decide +kernel

set_option maxRecDepth 20000 in
theorem test_overrun_and_snapshot :
    (let t := run .tick launched
     bit (t.sq .ctxtab 0 0x800) 19 = true ∧ (t.source (srcKey .puppeteer 1)).lastCode = 0x1001) ∧
    ((run .tick updateNext).kpart 0).snap.seed = 7 := by decide +kernel

/-- The same of a step that comes too late, of one in the closing window, and of a marker that is not accepted. -/
theorem witness_StringsAlignment_late :
    (let b : State := { follower with fr := { follower.fr with closing := true } }
     b.acceptsMarker 0 (mark 0) = true ∧ b.fr.closed = true ∧ (run (.markerReceive 0 (mark 0) 10) b).fr.adjNext = 120 ∧
      (run (.markerReceive 0 (mark 9) 10) b).fr.afterNo = some 9) ∧
    (let b : State := { follower with fr := { follower.fr with cycle := 790000 } }
     let m : Marker := { mark 0 with delayNs := 20000 }
     b.acceptsMarker 0 m = true ∧ 16000 < (b.markerErr m 100).natAbs ∧
      goes (.markerReceive 0 m 10) b = true ∧ bit ((run (.markerReceive 0 m 10) b).sq .strings 0 0x800) 21 = true) ∧
    run (.markerReceive 5 (mark 0) 10) follower = follower := by decide +kernel

/-- All waves released. -/
def waved : State := { launched with fr := { launched.fr with cycle := 224, waves := 0xFF } }
def theWork (s : State) : Work := s.works.headD ⟨0, none, 0, 0, 0, false, false, 0, .sort ⟨.fp32, 0, 0, 0, 0⟩⟩
def theLaunch (s : State) : Launch := (theWork s).launch?.getD ⟨0, 0, 0, 0, 0, 0, 0, 0, [], 0, [], [], 0, [], false⟩
def started : State := run (.launchStart 1 0) waved

/-- Core 0 whose block has ended, with a block still to dispatch, and with none. -/
def blockOver : State := started.setCore 0 { started.core 0 with groups := [] }
def allOver : State := { blockOver with works := blockOver.works.map (fun w => { w with job := .launch { theLaunch started with nextBlock := 4 } }) }

theorem witness_LaunchesOnCores :
    waved.work 1 = some (theWork waved) ∧ (theWork waved).launch? = some (theLaunch waved) ∧
    waved.mayStart (theWork waved) (theLaunch waved) 0 = true ∧ (waved.core 0).key ≠ some (1, 7) ∧
    (started.core 0).blocks.map (·.no) = [0] ∧ (started.core 0).groups.length = 2 ∧
    allOver.running 0 = some (theWork allOver, theLaunch allOver) ∧
    ((allOver.core 0).sweep 2).blocks = [] ∧ (theLaunch allOver).blocks ≤ (theLaunch allOver).nextBlock ∧
    (allOver.core 0).arr.queue = [] ∧ (allOver.core 0).ops = [] ∧
    (theLaunch allOver).ended.length + 1 ≠ (theLaunch allOver).list.length ∧
    ((run (.launchCoreEnd 1 0) allOver).core 0).launch = none := by decide +kernel

/-- A launch on one core with two blocks of which one may be resident. -/
def oneCore : State :=
  run (.launchStart 1 0) { run (.launch 0) (cmd (overlay (overlay launchSlot 36 [1]) 42 [0, 1])) with
    fr := { up.fr with waves := 0xFF } }
def oneOver : State :=
  let s := oneCore.setCore 0 { oneCore.core 0 with groups := [] }
  { s with works := s.works.map (fun w => { w with job := .launch { theLaunch s with nextBlock := 3 } }) }
def oneEnd : State :=
  { oneOver with works := oneOver.works.map (fun w => { w with job := .launch { theLaunch oneOver with nextBlock := 4 } }) }

theorem witness_LaunchesOnCores_dispatch :
    oneOver.running 0 = some (theWork oneOver, theLaunch oneOver) ∧
    (theLaunch oneOver).nextBlock < (theLaunch oneOver).blocks ∧
    (List.range (theLaunch oneOver).resident).find? (fun i => ((oneOver.core 0).sweep 2).blocks.all (·.slot ≠ i)) = some 0 ∧
    ((run (.blockDispatch 0) oneOver).core 0).blocks.map (·.no) = [3] ∧
    (theLaunch oneEnd).ended.length + 1 = (theLaunch oneEnd).list.length ∧ (theLaunch oneEnd).puts = false ∧
    ((oneEnd.core 0).sweep 2).blocks = [] ∧ (run (.launchCoreEnd 1 0) oneEnd).works = [] := by decide +kernel

def fenced : State := base.setCtx 0 { ctxHost with fence := some (4, 0x03000000) }
def invalWait : State :=
  base.setCtx 0 { ctxHost with
    tlbWait := [(4, 0x04000000, 0x1000, 0x1000)]
    tlb := [(0, some ⟨0, true, true, false⟩), (1, some ⟨0, true, true, false⟩)] }

theorem witness_RingCommands :
    ((cmd (slot64 2 [])).command 0).map (·.slot) = some (slot64 2 []) ∧ opcodeOf (slot64 2 []) = 0x02 ∧
    hdrBad (hdrOf (slot64 2 [])) = false ∧ othersZero (slot64 2 []) [(8, 8)] = true ∧ opcodeOf (slot64 3 []) = 0x03 ∧
    othersZero (slot64 3 []) [] = true ∧ (fenced.ctx 0).fence = some (4, 0x03000000) ∧
    fenced.works.all (·.ctx ≠ some 0) = true ∧ othersZero (slot64 4 [(17, [0x10])]) [(16, 16)] = true ∧
    leAt (slot64 4 [(17, [0x10])]) 16 8 % 4096 = 0 ∧ (invalWait.ctx 0).tlbWait = [(4, 0x04000000, 0x1000, 0x1000)] ∧
    opcodeKnown base.variant (opcodeOf (slot64 0x05 [])) = false ∧ (ctxHost.ringHost) = true ∧
    (Out.hostWrite 1 none (0x20000 + 64 * 5 + 48) [0x10]) ∈ (run (.badOpcodeCommand 0) (cmd (slot64 5 []))).out ∧
    (run (.cancel 0) (launched.setCtx 0 { launched.ctx 0 with fetched := some ⟨slot64 2 [], []⟩ })).works = [] ∧
    (run (.fence 0) (cmd (slot64 3 []))).mayFetch 0 = false ∧
    ((run (.fenceComplete 0) fenced).ctx 0).fence = none ∧
    ((run (.tlbInval 0) (cmd (slot64 4 [(17, [0x10])]))).ctx 0).tlbWait = [(5, 0x04000000, 0x1000, 0)] ∧
    (((run (.tlbInvalComplete 0) invalWait).ctx 0).tlb.map (·.1)) = [0] := by decide +kernel

def toFetch : State := base.setCtx 0 { ctxHost with ats := [((0x20000 + 64 * 5) / 4096, true)] }
def toFetchDev : State := base.setCtx 0 { ctxHost with ringHost := false }

theorem witness_LaunchesOnCores_puts :
    let e : State := { oneEnd with works := oneEnd.works.map (fun w => { w with job := .launch { theLaunch oneEnd with puts := true } }) }
    e.running 0 = some (theWork e, theLaunch e) ∧ ((e.core 0).sweep 2).blocks = [] ∧
    (theLaunch e).ended.length + 1 = (theLaunch e).list.length ∧ (theLaunch e).puts = true ∧
    e.work 1 = some (theWork e) ∧ ((run (.launchCoreEnd 1 0) e).work 1).isSome = true ∧
    (started.core 0).clearTo = waved.now + 768 := by decide +kernel

theorem witness_CommandFetch :
    toFetch.mayFetch 0 = true ∧ toFetch.atsReady 0 ((toFetch.ctx 0).slotAddr 5) = true ∧
    usesAux (opcodeOf (bytesAt (([slot64 2 []] : HostData).headD []) 0 64)) = false ∧
    ((run (.commandFetch 0 [slot64 2 []]) toFetch).ctx 0).fetched = some ⟨slot64 2 [], []⟩ ∧
    toFetchDev.mayFetch 0 = true ∧ (toFetchDev.agentRead true ((toFetchDev.ctx 0).slotAddr 5) 64).isSome = true ∧ toFetchDev.bulkFault ((toFetchDev.ctx 0).slotAddr 5) 64 = none ∧
    usesAux (opcodeOf (toFetchDev.devRead ((toFetchDev.ctx 0).slotAddr 5) 64)) = false ∧
    ((run (.commandFetch 0 []) toFetchDev).ctx 0).fetched = some ⟨List.replicate 64 0, []⟩ := by decide +kernel

theorem witness_GrantWrites_none : up.grantTarget 3 .glob = none ∧ up.grantTarget 1 (.part 1) = none := by
  decide +kernel

theorem witness_GrantWrites :
    base.recorded.rangeRefused 0 4 100 3072 State.ctxBase State.ctxCount = false ∧
    base.recorded.rangeRefused 0 3 100 3072 State.ctxBase State.ctxCount = true ∧
    base.recorded.maskRefused 0 0 1 base.recorded.clusters = true ∧
    base.recorded.maskRefused 0 0 2 base.recorded.clusters = false ∧
    base.recorded.rangeRefused 0 5 9 8192 State.watchBase State.watchCount = true ∧
    base.recorded.rangeRefused 0 10 5 8192 State.watchBase State.watchCount = false ∧
    base.recorded.rangeRefused 0 1 254 256 State.sgBase State.sgCount = true ∧
    base.recorded.rangeRefused 0 2 254 256 State.sgBase State.sgCount = false ∧
    base.recorded.rangeRefused 0 0 1 2048 State.slowBase State.slowCount = true ∧
    base.recorded.rangeRefused 0 1 1023 2048 State.slowBase State.slowCount = false ∧
    (10 : Nat) ≤ 12 ∧ 12 < 10 + 5 ∧ ¬(base.recorded.watchBase 0 ≤ 12 ∧ 12 < base.recorded.watchBase 0 +
      base.recorded.watchCount 0) ∧
    (run (.grantWatchWrite 32 .glob (place 5 16 ||| 10)) base).cfg .watch 12 0x100 = 0x40 ∧
    (run (.grantSgWrite 32 .glob (place 254 16 ||| 2)) base).cfg .puppeteer 0 0x114 = place 254 16 ||| 2 ∧
    run (.grantWatchWrite 32 .glob (place 9 16 ||| 5)) base = base ∧
    run (.grantSlowWrite 32 .glob (place 1 16)) base = base ∧
    run (.grantCoresWrite 32 .glob true 0x10000) base ≠ base := by decide +kernel

theorem witness_GrantWrites_values :
    base.grantTarget 32 .glob = some 0 ∧ (768 < field (place 769 12) 23 12) ∧
    base.rangeRefused 0 4 100 3072 State.ctxBase State.ctxCount = false ∧
    base.rangeRefused 0 3 100 3072 State.ctxBase State.ctxCount = true ∧
    (run (.grantCtxWrite 32 .glob (place 100 12 ||| 4)) base).cfg .puppeteer 0 0x104 = place 100 12 ||| 4 ∧
    run (.grantCtxWrite 32 .glob (place 100 12 ||| 3)) base = base ∧
    base.maskRefused 0 0 1 base.clusters = true ∧ base.maskRefused 0 0 2 base.clusters = false ∧
    run (.grantCoresWrite 32 .glob false 1) base = base ∧
    (run (.grantCoresWrite 32 .glob false 2) base).clusters 0 = 2 ∧
    base.rangeRefused 0 10 5 8192 State.watchBase State.watchCount = false ∧
    base.rangeRefused 0 2 254 256 State.sgBase State.sgCount = false ∧
    base.rangeRefused 0 1 1023 2048 State.slowBase State.slowCount = false ∧ 1 + 1023 ≤ slowGib base.variant ∧
    (run (.grantSlowWrite 32 .glob (place 1023 16 ||| 1)) base).slowCount 0 = 1023 := by decide +kernel

def selPup (i : Nat) (ws : List Word) : State :=
  State.withD (State.withSel base 32 .glob .puppeteer i) 32 .glob .puppeteer ws

theorem witness_PartitionItems :
    (selPup 2 [0, 16]).asks (rq 2 8) .puppeteer (rwItem 0x10 8) 2 true [0, 16, 0, 0, 0, 0, 0, 0] ∧
    ((selPup 2 [0, 16]).grantHbm 2 (2 ^ 36)).1 = errDone ∧
    ((run (.grantHbmLo (rq 2 8)) (selPup 2 [0, 16])).part 2).hbm = BitVec.ofNat 432 (2 ^ 36) ∧
    ((selPup 2 [8]).grantHbm 2 (8 * 2 ^ 256)).1 = errDone ∧ natOf [(8 : Word), 0, 0, 0, 0, 0, 0, 0] < 2 ^ 176 ∧
    ((run (.grantHbmHi (rq 2 8)) (selPup 2 [8])).part 2).hbm = BitVec.ofNat 432 (8 * 2 ^ 256) ∧
    (State.withD base 1 (.part 1) .puppeteer [8]).asks (rqp 1 1 2 8) .puppeteer (rwItem 0x11 8) 1 true
      [8, 0, 0, 0, 0, 0, 0, 0] ∧
    ((List.range 16).all (fun k => evtEntry (BitVec.ofNat 256 (natOf [0x803F8000])) k / 32768 = 0 ||
      evtEntry (BitVec.ofNat 256 (natOf [0x803F8000])) k % 2048 < msixSize 2)) = true ∧
    ((run (.evtVectors (rq 2 8)) (selPup 2 [0x803F8000])).part 2).evt = 0x803F8000 := by decide +kernel

theorem witness_PartitionItems_others :
    (selPup 2 [1]).asks (rq 2 8) .puppeteer (rwItem 0x10 8) 2 true [1, 0, 0, 0, 0, 0, 0, 0] ∧
    ((selPup 2 [1]).grantHbm 2 1).1 ≠ errDone ∧ (run (.grantHbmLo (rq 2 8)) (selPup 2 [1])).part 2 = {} ∧
    (selPup 1 []).asks (rq 1 8) .puppeteer (rwItem 0x10 8) 1 false [0, 0, 0, 0, 0, 0, 0, 0] ∧
    (selPup 1 []).asks (rq 1 8) .puppeteer (rwItem 0x11 8) 1 false [0, 0, 0, 0, 0, 0, 0, 0] ∧
    (selPup 1 []).asks (rq 1 8) .puppeteer (rwItem 0x20 8) 1 false [0, 0, 0, 0, 0, 0, 0, 0] ∧
    ((run (.grantHbmLo (rq 1 8)) (selPup 1 [])).copyOf 32 .glob .puppeteer).result = (errDone, [0xFFFFFFFF, 0xF, 0, 0, 0, 0, 0, 0]) :=
  by decide +kernel

theorem witness_PartitionItems_measurement :
    ((selPup 2 []).touch 2).sec.touched.contains 2 = true ∧
    (run (.measurementRecompute 2) ((selPup 2 []).touch 2)).sec.touched = [] := by decide +kernel

theorem witness_HostAccesses :
    base.hostOk 1 = true ∧ base.bar4Map 1 (36 * 0x40000000) 8 = none ∧
    base.bar4Map 1 (36 * 0x40000000 - 8) 8 = some [(36 * 0x40000000 - 8, 8)] ∧
    base.rangePoison (36 * 0x40000000 - 8) 8 = false ∧
    (run (.bar4Read 1 (BitVec.ofNat 36 (36 * 0x40000000)) 8) base).out = [.unsupported 1] ∧
    (run (.bar4Read 1 (BitVec.ofNat 36 (36 * 0x40000000 - 8)) 8)
      (run (.bar4Write 1 (BitVec.ofNat 36 (36 * 0x40000000 - 8)) [1, 2]) base)).out =
        [.bar4Data 1 [1, 2, 0, 0, 0, 0, 0, 0]] ∧
    base.hears 32 .pcie = true ∧ base.inReset .pcie 0 = false ∧ (base.copyOf 32 .glob .pcie).inst = 0 ∧
    ((run (.bar4BaseWrite 32 0xFFF) base).cfg .pcie 0 0x100) = 0x7FF ∧ State.reset.ready = false ∧
    (run (.configRequest 0 (.read .totalVfs)) State.reset).out = [.cfgRetry 0] ∧ base.fnEnabled 1 = true ∧
    base.configWord 0 .firstVfOffset = some 1 ∧ base.fnEnabled 31 = true ∧ up.fnEnabled 1 = false ∧
    Tab.get false (run (.configRequest 1 (.powerState true)) base).pci.d3hot 1 = true ∧
    (run (.configRequest 0 (.doeDiscovery 0)) base).out.length = 2 ∧
    (run (.configRequest 1 (.doeDiscovery 0)) base).out = [.unsupported 1] := by decide +kernel

/-- Partition 1 holds the first granules of stacks 0 and 1 too; two symbols of sector 0 are in error. -/
def struck : State := base.strike 0 3

theorem witness_HostAccesses_pieces :
    let o := 36 * 0x40000000
    let two : State := base.setPart 1 { ({} : Part) with hbm := 3 }
    struck.hostOk 1 = true ∧ struck.bar4Map 1 32 8 = some [(32, 8)] ∧ struck.bar4Map 1 24 16 = some [(24, 16)] ∧
    struck.rangePoison 32 8 = false ∧ struck.rangePoison 24 16 = true ∧
    (Tab.get {} (run (.bar4Read 1 24 16) struck).pci.aer 1).nonFatal = true ∧
    struck.bar4Map 1 o 2 = none ∧ (Tab.get {} struck.pci.aer 1).nonFatal = false ∧
    (Tab.get {} (run (.bar4Write 1 (BitVec.ofNat 36 o) [1, 2]) struck).pci.aer 1).header = some (o, 2) ∧
    two.bar4Map 1 (0x40000000 - 3) 5 = some [(0x40000000 - 3, 3), (0x40000000, 2)] ∧
    goes (.bar4Write 1 0x3FFFFFFD [1, 2, 3, 4, 5]) two = true ∧ up.hostOk 1 = false ∧
    run (.doorbellWrite 1 0 0) up = up := by decide +kernel

/-- Doorbells: 63 is the last slot of a 4 KiB ring and 64 is none. -/
theorem witness_HostAccesses_doorbell :
    let s := base.setCtx 3 ctxHost
    3 < s.ctxCount 1 ∧ (3 : Nat) < 768 ∧ (0x3000 : BitVec 24).toNat = 4096 * 3 ∧ (s.ctx (s.ctxBase 1 + 3)).st = .active ∧
    (s.ctx 3).slots = 64 ∧ ((run (.doorbellWrite 1 0x3000 63) s).ctx 3).tail = 63 ∧
    ((run (.doorbellWrite 1 0x3000 64) s).ctx 3).tail = 6 ∧
    bit ((run (.doorbellWrite 1 0x3000 64) s).sq .ctxtab 3 0x800) 18 = true ∧
    s.hostOk 1 = true ∧ (s.ctx (s.ctxBase 1 + 2)).st ≠ .active ∧ (s.ctx (s.ctxBase 1 + 2)).st ≠ .stopped ∧
    s.ctxCount 1 ≤ (0x4000 : BitVec 24).toNat / 4096 ∧ (0x4000 : BitVec 24).toNat < 768 * 4096 ∧
    (0x300008 : BitVec 24).toNat = 768 * 4096 + 8 ∧ 8 < 16 * msixSize 1 ∧
    Tab.get (msixDefault 8) (run (.doorbellWrite 1 0x300008 0x55) s).pci.msixTable (65536 + 8) = 0x55 := by
  decide +kernel

theorem witness_FunctionsAndTranslations :
    base.hostOk 1 = true ∧ base.pci.ats.length < 32 ∧
    (run (.atsInvalidation 1 9 0x20000 0x1000) toFetch).pci.ats = [(1, 9)] ∧
    ((run (.atsInvalidation 1 9 0x20000 0x1000) toFetch).ctx 0).ats = [] ∧
    (let s := base.setCtx 0 { ctxHost with atsWait := some 32 }
     (s.ctx 0).atsWait = some 32 ∧ (s.ctx 0).st = .active ∧ ((run (.atsCompletion 0 true) s).ctx 0).st = .stopped ∧
      Tab.get false ((run (.atsCompletion 0 false) s).ctx 0).ats 32 = true ∧
      (let t := s.setCtx 0 { s.ctx 0 with st := .destroying }
       (t.ctx 0).st = .destroying ∧ field ((run (.atsCompletion 0 true) t).sq .ctxtab 0 0x800) 15 0 = 0x3013)) ∧
    base.ready = true ∧ base.pci.vfEnable = true ∧ (run .vfEnableClear base).fnEnabled 1 = false ∧
    (run (.functionLevelReset 0) base).cfg .puppeteer 1 0x104 = 0 := by decide +kernel

/-- A descriptor at 0x1000: a ring of 64 slots at 0x2000, PT_ROOT 0x4000, FRAME_BUDGET 7, KEY 9, PASID absent. -/
def descBytes : List Byte :=
  overlay (overlay (overlay (overlay (overlay (overlay (List.replicate 256 0) 0 (leBytes 8 0x2000)) 8 [12]) 0x10
    (leBytes 8 0x4000)) 0x18 [7]) 0x1C [9]) 0x24 [1]

def withDesc : State :=
  State.withD ((base.setArg 1 .ctxtab 1 0 [0x1000, 0]).cohWrite (.bar4, none) 0x1000 descBytes) 1 (.part 1) .ctxtab [0x1000]

theorem witness_ContextLife_create :
    withDesc.asks (rqp 1 1 2 2) .ctxtab { num := 1, read := false, write := true, len := 2, follows := false } 0 true
      [0x1000, 0] ∧
    withDesc.asks (rqp 1 1 1 2) .ctxtab { num := 2, read := true, write := false, len := 2, follows := false } 0 false
      [0x1000, 0] ∧
    withDesc.selPart 1 (.part 1) = 1 ∧ natOf (withDesc.arg 1 .ctxtab 1 0) = 0x1000 ∧
    withDesc.grantedRange 1 0x1000 256 = true ∧ (withDesc.agentRead false 0x1000 256).isSome = true ∧
    withDesc.descAddrBad (withDesc.cohRead 0x1000 256) 0x1000 1 = false ∧
    descBad (withDesc.cohRead 0x1000 256) 0x1000 1 = false ∧ withDesc.freeCtxSlot 1 = some 0 ∧
    ((run (.create (rqp 1 1 1 2)) withDesc).ctx 0).st = .active ∧
    ((run (.create (rqp 1 1 1 2)) withDesc).ctx 0).key = 9 ∧ (run (.create (rqp 1 1 1 2)) withDesc).budget 0 = 7 := by
  refine ⟨?_, ?_, ?_, ?_, ?_, ?_, ?_, ?_, ?_, ?_, ?_, ?_⟩ <;> decide +kernel

/-- The same with the narrow path of the descriptor's line in hold. -/
def descHeld : State :=
  let s := State.withD (base.setArg 1 .ctxtab 1 0 [0x1000, 0]) 1 (.part 1) .ctxtab [0x1000]
  { s with regs := { s.regs with found := (List.range 12).map (fun d => (regKey .narrow d 0x100, true)) } }

theorem witness_waiting :
    descHeld.grantedRange 1 0x1000 256 = true ∧ (descHeld.agentRead false 0x1000 256).isNone = true ∧
    ((run (.create (rqp 1 1 1 2)) descHeld).copyOf 1 (.part 1) .ctxtab).todo = some [1, 0x1000] ∧
    ((run (.create (rqp 1 1 1 2)) descHeld).copyOf 1 (.part 1) .ctxtab).busy = true ∧
    descHeld.bar4Map 1 0x1000 256 = some [(0x1000, 256)] ∧ (descHeld.agentReads false [(0x1000, 256)]).isNone = true ∧
    (run (.bar4Read 1 0x1000 256) descHeld).pci.reads = [(1, 0x1000, 256)] ∧
    (let s := descHeld.setCtx 0 { ctxHost with ringHost := false }
     s.mayFetch 0 = true ∧ (s.agentRead true ((s.ctx 0).slotAddr 5) 64).isNone = true ∧
      (run (.commandFetch 0 []) s).ctx 0 = s.ctx 0) := by
  refine ⟨?_, ?_, ?_, ?_, ?_, ?_, ?_, ?_⟩ <;> decide +kernel

theorem witness_ContextLife_refused :
    (let s := (base.setArg 1 .ctxtab 1 0 [0x1000, 0]).cohWrite (.bar4, none) 0x1000 (overlay descBytes 0x14 [0x10])
     s.grantedRange 1 0x1000 256 = true ∧ s.descAddrBad (s.cohRead 0x1000 256) 0x1000 1 = true) ∧
    (let s := base.setArg 1 .ctxtab 1 0 [0, 0x10]
     s.grantedRange 1 0x1000000000 256 = false ∧ natOf (s.arg 1 .ctxtab 1 0) = 0x1000000000) ∧
    (let s := (base.setArg 1 .ctxtab 1 0 [0x1000, 0]).cohWrite (.bar4, none) 0x1000 (overlay descBytes 8 [3])
     s.grantedRange 1 0x1000 256 = true ∧ s.descAddrBad (s.cohRead 0x1000 256) 0x1000 1 = false ∧
      descBad (s.cohRead 0x1000 256) 0x1000 1 = true) ∧
    (let s := (List.range 4).foldl (fun s i => s.setCtx i ctxHost) withDesc
     s.freeCtxSlot 1 = none) ∧
    base.asks (rqp 1 1 2 1) .ctxtab (wrItem 3 1) 0 true [0] ∧ (base.ctx 0).st ≠ .active ∧ (base.ctx 0).st ≠ .stopped ∧
    base.asks (rqp 1 1 2 1) .ctxtab (wrItem 4 1) 0 true [0] := by decide +kernel

set_option maxRecDepth 20000 in
theorem witness_ContextLife :
    (launched.ctx 0).st = .active ∧ launched.asks (rqp 1 1 2 1) .ctxtab (wrItem 3 1) 0 true [0] ∧
    launched.asks (rqp 1 1 2 1) .ctxtab (wrItem 4 1) 0 true [0] ∧
    ((run (.destroy (rqp 1 1 2 1)) launched).ctx 0).st = .destroying ∧
    (run (.destroy (rqp 1 1 2 1)) launched).works = [] ∧
    (let d := run (.destroy (rqp 1 1 2 1)) started
     let t := run .tick d
     (t.ctx 0).st = .destroying ∧ (t.ctx 0).halted ≠ 0 ∧ (t.ctx 0).halted ≤ t.fr.ticks ∧
      (t.coresRan 0).all (fun k => (t.core k).launch.isNone) = true ∧ t.coresRan 0 = [0] ∧
      (let u := run (.teardownClearStart 0) t
       (u.ctx 0).st = .clearing ∧ (u.core 0).clearing = true ∧ (run (.teardownClearDone 0) u).ctx 0 = {})) ∧
    (let s := base.setCtx 0 { ctxHost with st := .stopped }
     s.asks (rqp 1 1 2 1) .ctxtab (wrItem 4 1) 0 true [0] ∧ (s.ctx 0).st = .stopped ∧
      ((run (.resume (rqp 1 1 2 1)) s).ctx 0).st = .active) := by decide +kernel

/-- Core 0 runs the launch of `started`; its context holds translations of the code page 4 and of the data page 0x10. -/
def active : State :=
  { started with now := 1000 }.setCtx 0 { started.ctx 0 with tlb := [(4, some ⟨0x4000, false, true, false⟩), (16, some ⟨0x10000, true, false, false⟩)] }

/-- The same with one thread in group 0, and some of its registers set. -/
def single (rs : List (Nat × Word)) : State :=
  let c := active.core 0
  let d := rs.foldl (fun d r => d.setReg 0 r.1 r.2) c
  active.setCore 0 { d with groups := d.groups.map (fun g =>
    if g.gs = 0 then { g with strands := [{ mask := 1, pc := 0x4000 }] } else g) }

def bn : Bundle := ⟨0, [0], 0x4000, 0x4008⟩
def on1 : One := ⟨0, 0, 0x4000, 0x4008⟩

def issueOf (s : State) (b : Bundle) : Issue := (s.bundleOf b).getD ⟨theWork s, theLaunch s, []⟩

/-- The bundle issues in a state, with the leaf of its page. -/
abbrev issuesIn (s : State) (b : Bundle) (dst src : List Nat) (kind : IssueKind) : Prop :=
  s.issues b dst src kind (issueOf s b) ⟨0x4000, false, true, false⟩ 0x4000

/-- Core 0 marked by the self-test. -/
def marked (s : State) : State := { s with power := { s.power with coreFail := [0] } }

theorem witness_VectorInstructions_marked :
    (marked (single [(1, 5)])).issuesAny bn [2] [1] .vector (issueOf (marked (single [(1, 5)])) bn)
      ⟨0x4000, false, true, false⟩ 0x4000 ∧ (marked (single [(1, 5)])).power.coreFail.contains bn.core.val = true ∧
    1 ∉ (issueOf (marked (single [(1, 5)])) bn).threads := by decide +kernel

def regAfter (c : Instr) (s : State) (x r : Nat) : Word := ((run c s).core 0).reg x r

theorem witness_VectorInstructions :
    issuesIn (single [(1, 5)]) bn [2] [1] .vector ∧ 0 ∈ (issueOf (single []) bn).threads ∧
    1 ∉ (issueOf (single []) bn).threads ∧ ([240] : List Nat).any (breaksRegs (issueOf (single []) bn).l.regs) = true ∧
    ((run (.vectorAlu bn (.int .add 240 (.reg 1) (.imm 1))) (single [])).ctx 0).st = .stopped ∧
    issuesIn (single [(1, 5)]) bn [2, 3] [1, 4, predNum 0] .vector ∧
    CvtFmt.ok (.elem .bf16) = true ∧ CvtFmt.ok .int32 = true ∧ Fmt.isNarrow .e4m3 = true ∧ (2 : VReg) ≠ 3 ∧
    regAfter (.vectorAlu bn (.int .add 2 (.reg 1) (.imm 0xFFFFFFFF))) (single [(1, 5)]) 0 2 = 4 ∧
    regAfter (.cvtF bn .int32 (.elem .fp32) 2 1 4) (single [(1, 0x40200000)]) 0 2 = 2 ∧
    regAfter (.cvtF bn (.elem .bf16) (.elem .fp32) 2 1 4) (single [(1, 0x3F808000)]) 0 2 = 0x3F80 ∧
    regAfter (.mskPack bn 2 0) (single []) 0 2 = 0 := by decide +kernel

theorem witness_VectorInstructions_blocks :
    (0 ∈ lanesOf (1 : BitVec 32)) ∧ (issueOf (single []) bn).sel.map (fun p => p.2.mask) = [1] ∧
    regAfter (.cvtBlk bn .e4m3 2 3 1 0 4) (single [(1, 0x3F800000), (4, 0xFFFF)]) 0 2 = 0x78 ∧
    regAfter (.cvtBlk bn .e4m3 2 3 1 0 4) (single [(1, 0x3F800000), (4, 0xFFFF)]) 0 3 = 119 ∧
    regAfter (.cvtWide bn .e4m3 2 1 3) (single [(1, 0x78), (3, 119)]) 0 2 = 0x3F800000 ∧
    regAfter (.specialFunction bn .rcp 2 1) (single [(1, 0x7FC00001)]) 0 2 = 0x7FC00000 := by decide +kernel

theorem witness_AluResults :
    (1 : Nat) ≠ 0 ∧ (255 : Nat) < 256 ∧
    ((single [(1, 0x3F800000)]).core 0 |>.alu 0 (.add32 2 (.reg 1) (.reg 1)) |>.reg 0 2) = 0x40000000 ∧
    ((single [(1, 0x40000000)]).core 0 |>.alu 0 (.fma32 2 (.reg 1) (.reg 1) (.imm 0x3F800000)) |>.reg 0 2) = 0x40A00000 ∧
    ((single [(1, 0x3F803F80)]).core 0 |>.alu 0 (.fmaBf16 2 (.reg 1) (.reg 1) (.reg 1)) |>.reg 0 2) = 0x40004000 ∧
    ((single [(1, 0xFFFFFFFF)]).core 0 |>.alu 0 (.setp .ltS 7 (.reg 1) (.imm 0)) |>.pred 0 7) = true := by decide +kernel

/-- A group of one yielding strand, and one with a complete split record. -/
def withStrands (ss : List Strand) (sp : List Split) : State :=
  active.setCore 0 { active.core 0 with groups := (active.core 0).groups.map (fun g =>
    if g.gs = 0 then { g with strands := ss, splits := sp } else g) }

def yielding : State :=
  { withStrands [{ mask := 1, pc := 0x4000, wait := .yielding 0 [(1, 0)] }, { mask := 2, pc := 0x4010 }] [] with now := 1300 }

def joining : State := withStrands [{ mask := 3, pc := 0x4010 }] [⟨3, 0x4010⟩]

def g0 (s : State) : Group := ((s.core 0).group 0).getD { gs := 0, bslot := 0, gi := 0, active := false, strands := [] }

theorem witness_Divergence :
    issuesIn (single []) (oneBundle on1) [] [] .control ∧
    (issueOf (single []) (oneBundle on1)).sel = [(g0 (single []), { mask := 1, pc := 0x4000 })] ∧
    (g0 (run (.branch on1 none 0x4100 0x4200) (single []))).strands.map (·.pc) = [0x4100] ∧
    (yielding.core 0).group 0 = some (g0 yielding) ∧
    (g0 yielding).strands.find? (fun t => t.pc = 0x4000 && (g0 yielding).yieldOver yielding.now t) =
      some { mask := 1, pc := 0x4000, wait := .yielding 0 [(1, 0)] } ∧
    (g0 (run (.yieldEnd 0 0 0x4000) yielding)).strands.map (·.wait) = [.run, .run] ∧
    (joining.core 0).group 0 = some (g0 joining) ∧
    (g0 joining).splits.find? (g0 joining).complete = some ⟨3, 0x4010⟩ ∧
    joining.running 0 = some (theWork joining, theLaunch joining) ∧ (g0 joining).mayIssue joining.now = true ∧
    (joining.core 0).clearTo ≤ joining.now ∧ (joining.core 0).ports.free .control joining.now = true ∧
    joining.outranked 0 (theLaunch joining) 0 (g0 joining) = false ∧
    (g0 (run (.join 0 0) joining)).splits = [] ∧ (g0 (run (.join 0 0) joining)).issued = joining.now + 1 ∧
    (let s := (withStrands [{ mask := 3, pc := 0x4000 }] []).setCore 0
      (((withStrands [{ mask := 3, pc := 0x4000 }] []).core 0).setPred 0 1 true)
     (g0 (run (.branch on1 (some ⟨1, true⟩) 0x4100 0x4200) s)).strands.map (fun t => (t.mask, t.pc)) =
      [(1, 0x4100), (2, 0x4008)]) := by decide +kernel

/-- Lane 0 parked at barrier 1 and lane 1 at barrier 2, which never completes. -/
def parkedTwice : State :=
  let s := withStrands [{ mask := 1, pc := 0x4000, wait := .parked 1 }, { mask := 2, pc := 0x4000, wait := .parked 2 }] []
  s.setCore 0 { s.core 0 with
    groups := (s.core 0).groups.filter (·.gs = 0)
    blocks := [{ slot := 0, no := 0, arrived := [(1024, 1), (2049, 1)], parked := [(1, 0, 1), (2, 1, 1)] }] }

/-- Group 1 is pending and group 0 may give up its place. -/
def pendingGroup : State :=
  let s := withStrands [{ mask := 1, pc := 0x4000, wait := .parked 1 }] []
  s.setCore 0 { s.core 0 with groups := (s.core 0).groups.map (fun g => if g.gs = 1 then { g with active := false } else g) }

theorem witness_BarriersAndControl :
    ((single []).core 0).block 0 = some { slot := 0, no := 0 } ∧ issuesIn (single []) (oneBundle on1) [2] [] .control ∧
    (g0 (run (.barSync on1 3) (single []))).strands.map (·.wait) = [.parked 3] ∧
    (g0 (run (.barArrive on1 3) (single []))).strands.map (·.wait) = [.run] ∧
    ([1023] : List Nat).Nodup ∧ ([1023] : List Nat).all (· < 1024) = true ∧
    (parkedTwice.core 0).mismatch ((parkedTwice.core 0).blocks.headD ⟨9, 0, [], []⟩) 1 = true ∧
    parkedTwice.coreCtx 0 = some 0 ∧ (parkedTwice.ctx 0).st = .active ∧
    ((run (.barrierMismatch 0 0 1) parkedTwice).ctx 0).st = .stopped ∧
    field ((run (.barrierMismatch 0 0 1) parkedTwice).sq .core 0 0x804) 17 14 = 1 ∧
    (g0 (single [])).strands = [{ mask := 1, pc := 0x4000 }] ∧
    ((run (.exit on1) (single [])).core 0).group 0 = none ∧
    regAfter (.specialValueRead on1 .scratchSlice 2) (single []) 0 2 = 96 := by decide +kernel

theorem witness_BarriersAndControl_promote :
    pendingGroup.running 0 = some (theWork pendingGroup, theLaunch pendingGroup) ∧
    ((pendingGroup.core 0).nextPending (fun x => (pendingGroup.core 0).heldCause (theLaunch pendingGroup) false
      pendingGroup.now pendingGroup.govLevel x = 0) pendingGroup.now).map (·.gs) = some 1 ∧
    bit (pendingGroup.cfg .array 0 0x100) 1 = false ∧ (pendingGroup.core 0).promoted ≤ pendingGroup.now ∧ (pendingGroup.core 0).mayDemote 0 = true ∧ (1 : Nat) ≠ 0 ∧
    ((run (.groupPromote 0 0) pendingGroup).core 0).groups.map (fun g => (g.gs, g.active)) = [(0, false), (1, true)] := by
  decide +kernel

/-- A value on its way to register 2 of thread 0. -/
def returning : State :=
  let s := single []
  s.setCore 0 { s.core 0 with ops := [{ id := 9, ins := 9, thr := [0], kind := .result [(2, 0, 77)] }] }

theorem witness_ScratchAccesses :
    issuesIn (single [(1, 0x17FFC)]) bn [2] [1] .memory ∧
    ((single [(1, 0x17FFC)]).core 0).scrAccess (issueOf (single []) bn).l (issueOf (single []) bn).bslot false true
      ((issueOf (single []) bn).threads.map (fun x => (x, ((single [(1, 0x17FFC)]).core 0).scrOff x 1 4))) =
        .ok [(0, 0x17FFC)] ∧
    ((single [(1, 0x17FFC)]).core 0).scrAccess (issueOf (single []) bn).l (issueOf (single []) bn).bslot false false
      [(0, 0x17FFC)] = .ok [(0, 0x17FFC)] ∧
    issuesIn (single [(1, 0x17FFC)]) bn [] [2, 1] .memory ∧ issuesIn (single [(1, 8)]) bn [2] [1, 3, 4] .memory ∧
    (single [(1, 0x17FFC)]).portWins (((single [(1, 0x17FFC)]).core 0).released (issueOf (single []) bn).l 1000) = false ∧
    ((single []).core 0).scrAccess (issueOf (single []) bn).l 0 true true [(0, 0x7FFC)] = .ok [(0, 0x1FFFC)] ∧
    ((run (.store bn .scratch .b32 2 1) (single [(1, 0x17FFC), (2, 0x12345678)])).core 0).scrRead 0x17FFC 4 =
      [0x78, 0x56, 0x34, 0x12] ∧
    ((run (.load bn .scratch .b8 true 2 1) (single [(1, 0x17FFC)])).core 0).ops.map (·.kind) = [.result [(2, 0, 0)]] ∧
    (returning.core 0).ops.find? (·.id = 9) = some { id := 9, ins := 9, thr := [0], kind := .result [(2, 0, 77)] } ∧
    regAfter (.loadReturn 0 9) returning 0 2 = 77 ∧
    ((run (.scrCas bn .slice 2 1 3 4) (single [(1, 8), (4, 6)])).core 0).scrRead 8 4 = [6, 0, 0, 0] ∧
    ((run (.scrExch bn .slice 2 1 4) (single [(1, 8), (4, 6)])).core 0).scrRead 8 4 = [6, 0, 0, 0] ∧
    ((run (.scrAdd bn .region .int32 1 4) (single [(1, 8), (4, 6)])).core 0).scrRead (96 * 1024 + 8) 4 = [6, 0, 0, 0] := by
  decide +kernel

/-- Thread 0 of core 0 with an address in registers 2 and 3, and a datum in register 4. -/
def at2 (a v : Word) : State := single [(2, a), (4, v)]

abbrev dataLeaf : Leaf := ⟨0x10000, true, false, false⟩
def held (s : State) : State := s.holdTlb 0 0x4000 ⟨0x4000, false, true, false⟩

/-- A line in the L1 of core 0. -/
def withL1 (s : State) (l : L1Line) : State := s.setCore 0 { s.core 0 with l1 := [l] }

def zeroLine (st : L1St) : L1Line := { line := 0x203, way := 2, st := st, valid := 0xF, data := List.replicate 128 0 }

theorem witness_DeviceAccesses :
    issuesIn (at2 0x101FC 0x3F800000) bn [] [2, 3, 4] .memory ∧ issuesIn (at2 0x101FC 0) bn [4] [2, 3] .memory ∧
    issuesIn (at2 0x101FC 0) bn [] [4, 2, 3] .memory ∧ (issueOf (at2 0x101FC 0) bn).ctx = 0 ∧
    (issueOf (at2 0x101FC 0) bn).threads = [0] ∧ (issueOf (at2 0x101FC 0) bn).sel.map leadOf = [0] ∧
    (held (at2 0x101FC 0)).xlateAll 0 .write [(0, ((at2 0x101FC 0).core 0).devAddr 0 2 4)] =
      .ok [(0, 0x101FC, dataLeaf)] ∧
    (held (at2 0x101FC 0)).xlateAll 0 .read [(0, 0x101FC)] = .ok [(0, 0x101FC, dataLeaf)] ∧
    ((at2 0x101FC 0).core 0).l1Find 0x203 = none ∧ ((at2 0x101FC 0).core 0).pickWay 0x203 = some (2, none) ∧
    ((at2 0x101FC 0).core 0).ops = [] ∧ ((at2 0x101FC 0).core 0).miss = [] ∧ (0x101FC % 128 + 4 ≤ 128) ∧
    sectorsOf [0x101FC] &&& ~~~(zeroLine .m).valid = 0 := by
  refine ⟨?_, ?_, ?_, ?_⟩ <;> decide +kernel

theorem witness_DeviceAccesses_results :
    ((run (.stAdd bn .fp32 2 4) (at2 0x101FC 0x3F800000)).core 0).l1.map (fun l => (l.line, l.st, l.valid)) =
      [(0x203, .red, 8)] ∧
    (run (.stAdd bn .fp32 2 4) (at2 0x101FC 0x3F800000)).up = [⟨0, 0x203, .join .fp32⟩] ∧
    (run (.load bn .device .b32 false 4 2) (at2 0x101FC 0)).up = [⟨0, 0x203, .rd 8 (some 0)⟩] ∧
    (run (.store bn .device .b32 4 2) (at2 0x101FC 0)).up = [⟨0, 0x203, .own⟩] ∧
    ((run (.store bn .device .b16 4 2) (withL1 (at2 0x101FC 0x1234) (zeroLine .e))).core 0).l1.map
      (fun l => (l.st, l.data.drop 124)) = [(.m, [0x34, 0x12, 0, 0])] ∧
    ((run (.load bn .device .b32 false 4 2) (withL1 (at2 0x101FC 0) (zeroLine .s))).core 0).ops.map (·.kind) =
      [.load 4 .b32 false [] [(0, 0)]] := by decide +kernel

theorem witness_DeviceAccesses_dead :
    issuesIn (at2 0x10180 1) bn [] [2, 3, 4] .memory ∧ (((at2 0x10180 1).core 0).reg 0 4).toNat = 1 ∧
    (issueOf (at2 0x10180 1) bn).sel.map strandThreads = [[0]] ∧
    (held (at2 0x10180 1)).xlateAll 0 .write [(0, ((at2 0x10180 1).core 0).devAddr 0 2 128)] =
      .ok [(0, 0x10180, dataLeaf)] ∧
    (run (.memDead bn 2 4 true) (withL1 (at2 0x10180 1) (zeroLine .m))).up = [⟨0, 0x203, .dead true⟩] ∧
    ((run (.memDead bn 2 4 true) (withL1 (at2 0x10180 1) (zeroLine .m))).core 0).l1 = [] ∧
    issuesIn (single []) bn [] [] .memory ∧ ((run (.memFence bn true) (single [])).core 0).fences.length = 1 := by
  decide +kernel

/-- Partition 1 draws from streams. -/
def streamMode : State := (single []).setCfg .rng 1 0x100 1

/-- ROWPTR at 0x10000 gives 300 nonzeros to row 0; core 0 has a lane over rows 0 and 1. -/
def rowptr : State := (single [(2, 0x10000), (4, 16)]).memWrite 0x10004 [44, 1, 0, 0, 44, 1, 0, 0]
def lane0 : SegLane := { base := 0x10000, lo := 0, hi := 2 }
def withLane (x : SegLane) : State :=
  { rowptr with works := rowptr.works.map (fun w => { w with job := .launch { theLaunch rowptr with lanes := [(0, some x)] } }) }

theorem witness_SparseAndRandomInstructions :
    issuesIn (single []) bn [2, 3] [4, 5, 6] .memory ∧ (Fmt.bf16 ≠ .fp32) ∧
    eachStrand ((held (single [])).cmpStrand 0 (issueOf (single []) bn) .scratch false .bf16 2 3 4 5 6)
      (issueOf (single []) bn).sel = .ok [(2, 0, 0), (3, 0, 0)] [] ∧
    ((5 : Nat) < 32 ∧ 32 * 0 + 5 ∈ (⟨true, 2, 0, 0, [0x20]⟩ : CmpRow).present ∧
      32 * 0 + 6 ∉ (⟨true, 2, 0, 0, [0x20]⟩ : CmpRow).present) ∧
    issuesIn (single []) bn [2] [3, 4] .vector := by decide +kernel

theorem witness_SparseAndRandomInstructions_put :
    (let s := single [(2, 0x10000), (4, 3), (5, 9)]
     let e : MEntry := ⟨1, 1, 0x10006, .bf16, 9⟩
     issuesIn s bn [] [2, 3, 4, 5] .memory ∧ (s.core 0).putAddrs (issueOf s bn) .bf16 2 4 = [(0, 0x10006)] ∧
      (held s).xlateAll 0 .write [(0, 0x10006)] = .ok [(0, 0x10006, dataLeaf)] ∧ homeDie (0x10006 / 128) < 4 ∧
      entryOf (issueOf s bn).work .bf16 0x10006 ((s.core 0).reg 0 5) = e ∧
      (((held s).holdAll 0 [(0, 0x10006)]).putEntries 1 [e]).2 = true ∧
      (s.marble (homeDie (0x10006 / 128))).fill.length + 1 < 65536 ∧
      ((run (.mrPut bn .bf16 2 4 5) s).marble 0).fill = [e] ∧
      (let f := s.setMarble 0 { ({} : Marble) with closed := [(0, [e]), (0, [e])] }
       (((held f).holdAll 0 [(0, 0x10006)]).putEntries 1 [e]).2 = false ∧
        ((run (.mrPut bn .bf16 2 4 5) f).marble 0).fill = [])) := by decide +kernel

theorem witness_SparseAndRandomInstructions_streams :
    issuesIn streamMode bn [2] [] .memory ∧ issuesIn (single []) bn [2] [] .memory ∧
    bit ((single []).cfg .rng (issueOf (single []) bn).work.part 0x100) 0 = false ∧
    bit (streamMode.cfg .rng 1 0x100) 0 = true ∧ streamMode.inHold .rng 1 = false ∧ (issueOf streamMode bn).work.part = 1 ∧
    (streamMode.kpart 1).pos.length = 4 ∧ (3 : Nat) ≠ 2 ∧
    (run (.rngStr bn 2 3) streamMode).kpart 1 = { (streamMode.kpart 1) with pos := [0, 0, 0, 1] } := by decide +kernel

theorem witness_SparseAndRandomInstructions_segset :
    (let i := issueOf rowptr bn
     issuesIn rowptr bn [] [2, 3, 4] .memory ∧ Tab.get none i.l.lanes (i.l.localOf 0) = none ∧ i.l.localOf 0 = 0 ∧
      i.l.list.length = 8 ∧ i.sel.map leadOf = [0] ∧ i.sel.length = 1 ∧ ((rowptr.core 0).reg 0 4).toNat = 16 ∧
      (held rowptr).devSrc 0 i 0x10000 4 = .ok [0, 0, 0, 0] [⟨0x10000, 4, 0x10000⟩] ∧
      (held rowptr).devSrc 0 i 0x10008 4 = .ok [44, 1, 0, 0] [⟨0x10008, 4, 0x10000⟩] ∧
      (theLaunch (run (.spSegset bn 2 4) rowptr)).lanes = [(0, some lane0)]) ∧
    (let s := (single [(2, 0x10000), (4, 8)]).memWrite 0x10000 [1, 0, 0, 0]
     let i := issueOf s bn
     (held s).devSrc 0 i 0x10000 4 = .ok [1, 0, 0, 0] [⟨0x10000, 4, 0x10000⟩] ∧
      (held s).devSrc 0 i 0x10004 4 = .ok [0, 0, 0, 0] [⟨0x10004, 4, 0x10000⟩] ∧ 1 * 8 / 8 = 0 * 8 / 8 + 1 ∧
      ((run (.spSegset bn 2 4) s).ctx 0).st = .stopped) := by
  refine ⟨⟨?_, ?_, ?_, ?_, ?_, ?_, ?_, ?_, ?_, ?_⟩, ?_, ?_, ?_, ?_⟩ <;> decide +kernel

def noSeg {α : Type} : SrcRes (Option α) → Bool
  | .ok none _ => true
  | .ok (some _) _ => false
  | .fault _ _ => false
  | .wait _ => false

theorem witness_SparseAndRandomInstructions_segments :
    (let s := withLane lane0
     let i := issueOf s bn
     issuesIn s bn [5, 6, 7] [] .memory ∧ Tab.get none i.l.lanes 0 = some lane0 ∧ lane0.lo + 1 < lane0.hi ∧
      s.rowNonzeros 0 i 0x10000 0 = .ok (0, 300) [⟨0x10000, 8, 0x10000⟩] ∧ (0 : Nat) < ceilDiv 300 256 ∧
      (held s).takeSeg 0 i lane0 = .ok (some (0, (0, 0, 256), { lane0 with taken := 1 })) [⟨0x10000, 8, 0x10000⟩] ∧
      ((run (.spTake bn 5 6 7) s).core 0).ops.map (·.kind) = [.result [(5, 0, 0), (6, 0, 0), (7, 0, 256)]]) ∧
    (let x : SegLane := { lane0 with lo := 2 }
     let s := withLane x
     noSeg ((held s).takeSeg 0 (issueOf s bn) x) = true ∧ (7 : VReg) ≠ 5 ∧ (7 : VReg) ≠ 6 ∧
      ((run (.spTake bn 5 6 7) s).core 0).ops.length = 1) := by decide +kernel

/-- A line of slice 0 and the module with it. -/
def llcLine (st : LSt) : LLine := { line := 0x203, way := 0, st := st, sect := 0xF }
def withLine (l : LLine) : State := up.setSlice 0 { ({} : Slice) with lines := [l] }

/-- A message from core 5 to the line's slice. -/
def sent (l : LLine) (b : UpBody) : State := { withLine l with up := [⟨5, 0x203, b⟩] }
def after (c : Instr) (s : State) : Option LLine := (run c s).lline 0x203

theorem witness_CoreRequests :
    (sent (llcLine .s) (.rd 1 none)).sends 5 0x203 (.rd 1 none) ∧ (sent (llcLine .s) (.rd 1 none)).calm (llcLine .s) ∧
    (llcLine .s).idleS ∧ (1 &&& ~~~(llcLine .s).sect = 0) ∧ (1 &&& ~~~(0 : BitVec 4) ≠ 0) ∧
    (after (.rd 5 0x203) (sent (llcLine .s) (.rd 1 none))).map (fun l => (l.st, l.ptr, l.holders)) = some (.e, true, 5) ∧
    (run (.rd 5 0x203) (sent { llcLine .s with sect := 0 } (.rd 1 none))).hbm.nreq.map (·.sect) = [1] ∧
    (after (.rd 5 0x203) (sent (llcLine .red) (.rd 1 none))).bind (·.op) =
      some { req := .rd 5 1 none, phase := .mergeWait } ∧
    (sent (llcLine .s) .own).sends 5 0x203 .own ∧
    (after (.own 5 0x203) (sent (llcLine .s) .own)).map (·.st) = some .m ∧
    (sent (llcLine .s) .ownFull).sends 5 0x203 .ownFull ∧
    (after (.ownFull 5 0x203) (sent (llcLine .s) .ownFull)).map (·.st) = some .m ∧
    (sent (llcLine .red) (.join .fp32)).sends 5 0x203 (.join .fp32) ∧ (llcLine .red).dt = .fp32 ∧
    (run (.joinRequest 5 0x203) (sent (llcLine .red) (.join .fp32))).dn = [⟨5, 0x203, .joinAck⟩] ∧
    (sent (llcLine .s) (.dead true)).sends 5 0x203 (.dead true) ∧
    (after (.deadRequest 5 0x203) (sent (llcLine .s) (.dead true))).map (fun l => (l.st, l.chk)) = some (.dead, true) := by
  decide +kernel

theorem witness_CoreRequests_writeBacks :
    (let l : LLine := { llcLine .m with ptr := true, holders := 5 }
     let s := sent l (.wbd (List.replicate 128 7))
     s.upFirst 5 0x203 = some ⟨5, 0x203, .wbd (List.replicate 128 7)⟩ ∧ s.calm l ∧
      (after (.wbd 5 0x203) s).map (fun m => (m.st, m.dirty, m.data.take 1)) = some (.s, true, [7])) ∧
    (let l : LLine := { llcLine .red with ptr := true, holders := 5, sect := 0 }
     let d := overlay (List.replicate 128 0) 0 (leBytes 4 0x3E800000)
     let s := sent l (.wbr .fp32 1 d)
     s.upFirst 5 0x203 = some ⟨5, 0x203, .wbr .fp32 1 d⟩ ∧ s.calm l ∧
      (after (.wbr 5 0x203) s).map (fun m => (m.sect, m.data.take 4)) = some (1, leBytes 4 0x3E800000)) ∧
    (let s : State := { up with dn := [⟨5, 0x203, .joinAck⟩], cores := [(5, { ({} : Core) with
        joins := [(0x203, [⟨none, 0⟩])], ops := [{ id := 1, ins := 1, thr := [0], kind := .join 0x203 1 }, { id := 2, ins := 2, thr := [0], kind := .join 0x204 1 }] })] }
     s.dnFirst 5 0x203 = some ⟨5, 0x203, .joinAck⟩ ∧ (s.core 5).ops.map (·.id) = [1, 2] ∧
      ((run (.joinAck 5 0x203) s).core 5).ops.map (·.id) = [2]) := by decide +kernel

/-- The directory entry of the manual's worked example: a RED line of FP32 with SECT 1 and clusters 0 and 25. -/
theorem test_directory_entry :
    ({ llcLine .red with sect := 1, holders := 2 ^ 0 + 2 ^ 25 } : LLine).entry = 0x8001000002000001 := by decide +kernel

theorem witness_AgentRequests :
    up.homed 0x203 = true ∧ (withLine (llcLine .s)).accepts 0x203 = true ∧ (withLine (llcLine .s)).calm (llcLine .s) ∧
    (llcLine .s).idleS ∧ (llcLine .s).dirty = false ∧ (127 : Fin 128).val + [(9 : Byte)].length ≤ 128 ∧
    (after (.awr ⟨.dma, none⟩ 0x203 127 [9]) (withLine (llcLine .s))).map (fun l => (l.dirty, l.data.drop 127)) =
      some (true, [9]) ∧
    (run (.ard .dma none 0x203 0xF) (withLine (llcLine .s))).out = [.agentData .dma 0x203 (List.replicate 128 0)] ∧
    DType.bytes .bf16 * 63 < 128 ∧
    (after (.aadd .dma 0x203 .bf16 [(63, 0x3F80)]) (withLine (llcLine .s))).map (fun l => (l.st, l.dt, l.sect)) =
      some (.red, .bf16, 8) ∧
    (after (.aadd .dma 0x203 .fp32 [(31, 0x3F800000)]) (withLine { llcLine .red with sect := 0 })).map (·.sect) = some 8 ∧
    (let s := up.setSlice 0 { ({} : Slice) with lines := [llcLine .s], waitq := [(0x8203 + 0x8000 * 0, .own 5)] }
     llcSet 0x203 = 0x203 ∧ (s.slice 0).victim 0x203 = some (llcLine .s)) ∧
    (let s := (withLine { llcLine .s with dirty := true, data := List.replicate 128 3 })
     (s.perform { llcLine .s with dirty := true, data := List.replicate 128 3 } .vict).memByte (0x203 * 128 + 127) = 3 ∧
      (s.perform { llcLine .s with dirty := true, data := List.replicate 128 3 } .vict).lline 0x203 = none) := by
  decide +kernel

/-- A way is wanted for line 0x8202 of the set of line 0x203. -/
theorem witness_AgentRequests_victim :
    (let s := up.setSlice 0 { ({} : Slice) with lines := [llcLine .s], waitq := [(0x8202, .own 5)] }
     (s.slice 0).waitq = [(0x8202, .own 5)] ∧ llcSet 0x8202 = 0x203 ∧ (s.slice 0).victim 0x203 = some (llcLine .s) ∧
      (s.slice 0).lines.map (·.op) = [none] ∧ (run (.vict 0 0x203) s).lline 0x203 = none) := by decide +kernel

/-- A snoop on its way to core 5, which holds the line. -/
def snooping (b : DnBody) (st : L1St) : State :=
  { up with dn := [⟨5, 0x203, b⟩], cores := [(5, { ({} : Core) with l1 := [zeroLine st] })] }

theorem witness_SnoopsAndFills :
    (snooping .share .m).dnFirst 5 0x203 = some ⟨5, 0x203, .share⟩ ∧
    ((snooping .share .m).core 5).l1Find 0x203 = some (zeroLine .m) ∧
    (run (.snoopShare 5 0x203) (snooping .share .m)).up = [⟨5, 0x203, .answer (List.replicate 128 0)⟩] ∧
    (run (.snoopShare 5 0x203) (snooping .share .e)).up = [⟨5, 0x203, .empty⟩] ∧
    (snooping .inval .red).dnFirst 5 0x203 = some ⟨5, 0x203, .inval⟩ ∧
    (run (.snoopInval 5 0x203) (snooping .inval .red)).up = [⟨5, 0x203, .delta .fp32 0xF (List.replicate 128 0)⟩] ∧
    (snooping .discard .m).dnFirst 5 0x203 = some ⟨5, 0x203, .discard⟩ ∧
    (run (.snoopDiscard 5 0x203) (snooping .discard .m)).up = [⟨5, 0x203, .ack⟩] ∧
    (let l : LLine := { llcLine .m with ptr := true, holders := 5, op := some { req := .own 7, phase := .snoop, wait := [5] } }
     let s := sent l (.answer (List.replicate 128 4))
     s.upFirst 5 0x203 = some ⟨5, 0x203, .answer (List.replicate 128 4)⟩ ∧ s.inOp l (.own 7) .snoop [5] ∧
      (after (.snoopAnswer 5 0x203) s).map (fun m => (m.holders, m.op.isNone)) = some (7, true)) ∧
    (let l : LLine := { llcLine .s with sect := 0, op := some { req := .rd 7 3 none, phase := .fill [.rd 7 3 none] } }
     let s := withLine l
     s.inOp l (.rd 7 3 none) (.fill [.rd 7 3 none]) [] ∧ s.hbmBusy 0x203 = false ∧ s.badSectors 0x203 = 0 ∧
      (run (.fillArrive 0x203) s).dn = [⟨7, 0x203, .fill .e 3 (List.replicate 128 0)⟩]) ∧
    (let s : State := { up with dn := [⟨5, 0x203, .fill .s 1 []⟩], cores := [(5, { ({} : Core) with
        miss := [⟨0x203, 2, .rd 1, ⟨none, 0⟩⟩] })] }
     s.dnFirst 5 0x203 = some ⟨5, 0x203, .fill .s 1 []⟩ ∧ (s.core 5).miss.find? (·.line = 0x203) = some ⟨0x203, 2, .rd 1, ⟨none, 0⟩⟩ ∧
      wayIn (s.core 5).split 2 = false ∧ (s.core 5).ops = [] ∧
      ((run (.fillDeliver 5 0x203) s).core 5).l1.map (·.st) = [.s]) := by decide +kernel

theorem witness_ConversionAndMerge :
    (let l : LLine := { llcLine .s with dirty := true, op := some { req := .join 5 .fp32, phase := .conv } }
     (withLine l).inOp l (.join 5 .fp32) .conv [] ∧
      (run (.conversionComplete 0x203) (withLine l)).dn = [⟨5, 0x203, .joinAck⟩]) ∧
    (let l : LLine := { llcLine .red with ptr := true, holders := 5, op := some { req := .wb false, phase := .mergeWait } }
     (withLine l).lline 0x203 = some l ∧ ((withLine l).slice (homeDie 0x203)).merges.length < 64 ∧
      (run (.mergeStart 0x203) (withLine l)).dn = [⟨5, 0x203, .inval⟩]) ∧
    (let l : LLine := { llcLine .merging with
        data := overlay (List.replicate 128 0) 4 (leBytes 4 0x3F800000)
        op := some { req := .wb false, phase := .merging 0 } }
     let s := (up.setSlice 0 { ({} : Slice) with lines := [l], merges := [0x203] }).memWrite (0x203 * 128 + 4)
       (leBytes 4 0x3F800000)
     s.inOp l (.wb false) (.merging 0) [] ∧ (s.slice (homeDie 0x203)).merges.head? = some 0x203 ∧
      s.hbmBusy 0x203 = false ∧ s.badSectors 0x203 = 0 ∧
      (run (.mergeComplete 0x203) s).memRead (0x203 * 128 + 4) 4 = leBytes 4 0x40000000) := by decide +kernel

theorem witness_DeltaAddsByElement :
    DType.bytes .bf16 * 63 < 128 ∧ (List.replicate 128 (0 : Byte)).length = 128 ∧
    leAt (addDelta .bf16 8 (List.replicate 128 0) (overlay (List.replicate 128 0) 126 [0x80, 0x3F])) 126 2 = 0x3F80 := by
  decide +kernel

def llcD (w : List Word) : State := State.withD (withLine (llcLine .s)) 32 .glob .llc w
def dirD (w : List Word) : State := State.withD (withLine (llcLine .s)) 32 .glob .dir w

theorem witness_LlcItems :
    (llcD [0x10180, 0, 0x80, 0]).asks (rq 2 4) .llc (wrItem 1 4) 0 true [0x10180, 0, 0x80, 0] ∧
    natOf [(0x10180 : Word), 0] % 128 = 0 ∧ (0x1FFFFFFFF80 + 0x80 ≤ 0x20000000000) ∧
    (0x20000000000 < 0x1FFFFFFFF80 + 0x100) ∧
    ((run (.wbArg (rq 2 4)) (llcD [0x10180, 0, 0x80, 0])).copyOf 32 .glob .llc).result = (errDone, []) := by decide +kernel

theorem witness_LlcItems_scan :
    (let s := (llcD [0]).setArg 32 .llc 1 0 [0x10180, 0, 0x80, 0]
     s.asks (rq 2 1) .llc (wrItem 2 1) 0 true [0] ∧ (s.slice 0).wb = none ∧ s.arg 32 .llc 1 0 ≠ [] ∧
      ((run (.wbStart (rq 2 1)) s).slice 0).wb = some (0x10180, 0x80, false, 0)) := by decide +kernel

theorem witness_LlcItems_visit :
    (let s := up.setSlice 0 { ({} : Slice) with lines := [llcLine .s], wb := some (0x10180, 0x80, false, 0) }
     (s.slice 0).wb = some (0x10180, 0x80, false, 0) ∧ homeDie 0x203 = 0 ∧ (s.slice 0).scanNext 0x10180 0x80 0 = some (llcLine .s) ∧ s.calm (llcLine .s) ∧
      ((run (.wbVisit 0) s).slice 0).wb = some (0x10180, 0x80, false, 0x2031)) := by decide +kernel

theorem witness_LlcItems_scanEnd :
    (let s := up.setSlice 0 { ({} : Slice) with lines := [llcLine .s], wb := some (0x10180, 0x80, false, 0x2031) }
     (s.slice 0).wb = some (0x10180, 0x80, false, 0x2031) ∧ (s.slice 0).scanNext 0x10180 0x80 0x2031 = none ∧
      (s.slice 0).lines.map (·.op) = [none] ∧ ((run (.wbVisit 0) s).slice 0).wb = some (0x10180, 0x80, false, sliceEntries) ∧
      ((run (.wbScanComplete 0) s).slice 0).wb = none) := by decide +kernel

theorem witness_LlcItems_lookup :
    (dirD [0x101FF]).asks (rq 2 2) .dir (wrItem 1 2) 0 true [0x101FF, 0] ∧ isStack up.variant 0x101FF = true ∧
    homeDie (0x101FF / 128) = 0 ∧ isStack up.variant 0x900000000 = false ∧
    (run (.lookupArg (rq 2 2)) (dirD [0x101FF])).arg 32 .dir 1 0 = [0x10180, 0] ∧
    (dirD []).asks (rq 1 4) .dir (rdItem 2 4) 0 false [0, 0, 0, 0] ∧ (dirD []).arg 32 .dir 1 0 = [] ∧
    (let s := (dirD []).setArg 32 .dir 1 0 [0x10180, 0]
     s.lline (natOf (s.arg 32 .dir 1 0) / 128) = some (llcLine .s) ∧
      ((run (.lookup (rq 1 4)) s).copyOf 32 .glob .dir).result = (errDone, [0, 0x200F0000, 0x10180, 0x80000000])) ∧
    ((dirD []).setArg 32 .dir 1 0 [0x10200, 0]).lline 0x204 = none ∧
    (dirD []).asks (rq 1 2) .dir (rdItem 3 2) 0 false [0, 0] := by decide +kernel

/-- The state with another array, sparsity unit and cycle on core 0. -/
def arr (a : ArrState) (p : SpState) (now : Nat) : State :=
  { (single [(5, 64)]).setCore 0 { (single [(5, 64)]).core 0 with arr := a, sp := p, clearTo := 0 } with now := now }

def entry (a : ArrAct) (t : Option Nat) : ArrEntry := { id := 0, bslot := 0, act := a, issued := 0, started := t, fed := 1 }
def zeroSet : TileSet := { fmt := .bf16, tile := [], scales := [] }

/-- Slot 0 is ready with its scales, and a BF16 set is loaded. -/
def ready0 : State := arr { ({} : ArrState) with tr := 1, sv := 1, active := some zeroSet } {} 100

def mmForm : MmForm := ⟨false, 0, 0, 0, 1, 0, false, false, true, 0, false⟩
def mmOp : MmOp := ⟨false, 0, .bf16, 0, 1, 0, false, false, 0, false, true, 0, .none⟩

abbrev arrIn (s : State) (dst src : List Nat) (kind : IssueKind) (off : Bool) : Prop :=
  s.arrIssues on1 dst src kind off (issueOf s (oneBundle on1)) ⟨0x4000, false, true, false⟩ 0x4000

def arrAfter (c : Instr) (s : State) : ArrState := ((run c s).core 0).arr

/-- A bank held by a pass, and the launch's slots. -/
def heldBank : Bank := { hold := some { col := false, op := 0, int := false }, acc := [(0, 0x3F800000)] }
def drainable : State := arr { ({} : ArrState) with bank0 := heldBank } {} 200

theorem witness_ArrayIssue :
    arrIn ready0 [] [] .array true ∧ arrIn ready0 [] [5] .array true ∧ arrIn ready0 [6] [] .array false ∧
    maskOutside (issueOf ready0 (oneBundle on1)).l 1 = false ∧
    (issueOf ready0 (oneBundle on1)).l.slots = 1 ∧ (issueOf ready0 (oneBundle on1)).l.sliceKib = 96 ∧
    (((ready0.arrSettle 0).core 0).reg (issueOf ready0 (oneBundle on1)).lead 5).toNat = 64 := by decide +kernel

theorem witness_ArrayIssue_checks :
    (let l := (issueOf ready0 (oneBundle on1)).l
     let p := ready0.arrSettle 0
     ((p.core 0).proj l).ldshCheck l 0 2 false true = .ok (.ldsh 0 .e4m3 false true) 0 ∧
      ((p.core 0).proj l).mmCheck l (bit (p.cfg .array 0 0x100) 1) mmForm = .ok (.mm mmOp) 0 ∧
      (p.core 0).govAdmits p.now p.govLevel = true) ∧
    (let l := (issueOf drainable (oneBundle on1)).l
     (((drainable.arrSettle 0).core 0).proj l).drainCheck l 0 0 0 .release = .ok (.drain 0 0 .bf16 false 0) 1) ∧
    arrIn drainable [] [] .array true := by decide +kernel

theorem test_array_issue :
    (arrAfter (.arrReady on1 (.imm 1)) ready0).queue.map (·.act) = [.ready 1] ∧
    (arrAfter (.arrUnready on1 (.imm 1)) ready0).tr = 1 ∧
    (arrAfter (.arrLds on1 0 5 64) ready0).queue.map (·.act) = [.lds 0 64 64] ∧
    (arrAfter (.arrLdsh on1 0 2 false true) ready0).queue.map (·.act) = [.ldsh 0 .e4m3 false true] ∧
    (arrAfter (.arrMm on1 mmForm) ready0).queue.map (·.act) = [.mm mmOp] ∧
    (arrAfter (.arrDrain on1 0 0 0 .release) drainable).rs = 1 ∧
    (arrAfter (.arrStat on1 6) ready0).queue.map (·.act) = [.stat 6 [0] (some 4)] := by decide +kernel

/-- One entry alone in the queue. -/
def alone (e : ArrEntry) (now : Nat) : State := arr { ({} : ArrState) with queue := [e], nextId := 1 } {} now

theorem witness_ArrayIssue_settle :
    (let e := entry (.lds 0 64 64) none
     let s := alone e 8
     s.running 0 = some (theWork s, theLaunch s) ∧ e.started = none ∧ e.fin = none ∧
      (s.core 0).startAt (theLaunch s) 8 (field (s.cfg .sparse 0 0x100) 1 0) [] e = some 12 ∧
      ((s.arrSettle 0).core 0).arr.queue = [{ e with started := some 8, fin := some 12 }]) ∧
    (let e := { entry (.ready 1) (some 1) with fin := some 4 }
     e.broken = false ∧ (((alone e 4).arrSettle 0).core 0).arr.tr = 1 ∧
      (((alone e 3).arrSettle 0).core 0).arr.tr = 0) ∧
    (let e := { entry (.stat 6 [0] (some 4)) (some 2) with fin := some 2 }
     (((alone e 2).arrSettle 0).core 0).reg 0 6 = 4) ∧ (0 : Nat) < (alone (entry (.ready 1) none) 0 |>.core 0).arr.nextId := by
  decide +kernel

theorem witness_ArrayRuns :
    (let s := arr { ({} : ArrState) with tr := 1, sv := 1, queue := [entry (.ldsh 0 .e4m3 false true) none] } {} 8
     s.running 0 = some (theWork s, theLaunch s) ∧ 0 + 8 ≤ s.now ∧ (arrAfter (.arrLdshStart 0) s).loading = true) ∧
    (let s := arr { ({} : ArrState) with tr := 1, sv := 1, queue := [entry (.ldsh 0 .e4m3 false true) (some 8)] } {} 136
     8 + 128 ≤ s.now ∧ (arrAfter (.arrLdshComplete 0 none) s).tr = 0) ∧
    (let s := arr { ({} : ArrState) with tr := 1, active := some zeroSet, queue := [entry (.mm mmOp) none] } {} 8
     mmOp.sparse = false ∧ mmOp.sw = false ∧ (s.core 0).arr.active = some zeroSet ∧
      0 < mmOp.rows ∧ (arrAfter (.arrPassStart 0 none) s).queue = [{ entry (.mm mmOp) (some 8) with sats := [0] }]) ∧
    (let s := arr { ({} : ArrState) with tr := 1, queue := [entry (.mm mmOp) (some 8)] } {} 140
     8 + 1 + 131 ≤ s.now ∧ (arrAfter (.arrPassComplete 0 none) s).tr = 0) := by decide +kernel

theorem witness_ArrayRuns_discard :
    (let e := entry (.drain 0 0 .bf16 false 2) none
     let s := arr { ({} : ArrState) with bank0 := heldBank, queue := [e] } {} 8
     ((s.core 0).arr.bankOf 0).hold = some { col := false, op := 0, int := false } ∧
      (arrAfter (.arrDrainStart 0) s).bank0 = {} ∧ (arrAfter (.arrDrainStart 0) s).queue = []) := by decide +kernel

theorem witness_ArrayRuns_drain :
    (let s := arr { ({} : ArrState) with bank0 := heldBank, queue := [entry (.drain 0 0 .bf16 false 0) none] } {} 8
     ((s.core 0).arr.bankOf 0).hold = some { col := false, op := 0, int := false } ∧
      makeupPending (s.core 0).sp { col := false, op := 0, int := false } = false ∧
      ((arrAfter (.arrDrainStart 0) s).queue.map (fun e => e.vals.take 4)) = [[0x80, 0x3F, 0, 0]]) ∧
    (let s := arr { ({} : ArrState) with
        rs := 1, queue := [{ entry (.drain 0 0 .bf16 false 0) (some 8) with vals := [0x80, 0x3F] }] } {} 144
     8 + 136 ≤ s.now ∧ (arrAfter (.arrDrainComplete 0) s).tr = 1 ∧
      ((run (.arrDrainComplete 0) s).core 0).scrRead 0x18000 2 = [0x80, 0x3F]) ∧
    (0 < outsOf .bf16 false ∧ outsOf .bf16 false * 1 + 0 < outsOf .bf16 false * 1 + outsOf .bf16 false) := by
  decide +kernel

def spAfter (c : Instr) (s : State) : SpState := ((run c s).core 0).sp
def estReady : State := arr { ({} : ArrState) with tr := 1, sv := 1 } { ({} : SpState) with estTile := some zeroSet } 100
def roundOpen : State :=
  arr {} { ({} : SpState) with open_ := some 63, rounds := [⟨63, 2, [1], 1, false, []⟩], cnt := [(128 * 63 + 1, 2)] } 100

theorem witness_SparsityIssue :
    arrIn estReady [] [] .sparse false ∧ arrIn estReady [6] [] .sparse false ∧ (63 : BitVec 8).toNat ≤ 63 ∧ (2 : BitVec 2) ≠ 3 ∧
    (let l := (issueOf estReady (oneBundle on1)).l
     let p := ((estReady.arrSettle 0).core 0).proj l
     (0 : Nat) < l.slots ∧ p.tr.getLsbD 0 = true ∧ p.sv.getLsbD 0 = true ∧
      p.estCheck l 63 0 128 false = .ok (.est 63 0 128 false) 0) ∧
    (let l := (issueOf roundOpen (oneBundle on1)).l
     (((roundOpen.arrSettle 0).core 0).proj l).rounds.any (·.pid = 63) = true) ∧ arrIn roundOpen [] [] .sparse false := by
  decide +kernel

theorem witness_SparsityIssue_queue :
    (arrAfter (.spFilt on1 63 2) estReady).queue.map (·.act) = [.filt 63 .makeup] ∧
    (arrAfter (.spLdw on1 0) estReady).queue.map (·.act) = [.ldw 0] ∧
    (arrAfter (.spEst on1 63 0 128 false) estReady).queue.map (·.act) = [.est 63 0 128 false] ∧
    (arrAfter (.spChk on1 63) roundOpen).queue.map (·.act) = [.chk 63] ∧
    (arrAfter (.spStat on1 6) estReady).queue.map (·.act) = [.stat 6 [0] none] := by decide +kernel

theorem witness_SparsityIssue_effects :
    (estReady.core 0).sp.estTile.isSome = true ∧ (roundOpen.core 0).sp.open_ = some 63 ∧
    (roundOpen.core 0).sp.rounds.find? (·.pid = 63) = some ⟨63, 2, [1], 1, false, []⟩ ∧ ([1] : List Nat).Nodup ∧
    ((roundOpen.doChk 0 63).core 0).sp.cnt = [(128 * 63 + 1, 3)] ∧
    ((estReady.core 0).doEst (theLaunch estReady) 0 63 0 128 false).sp.open_ = some 63 ∧
    ((estReady.takeEffect 0 (theLaunch estReady) (entry (.filt 63 .makeup) none)).core 0).sp.filt = .makeup := by
  decide +kernel

def intSample (sum : Word) : Sample :=
  { frame := 9, fmt := .int8, ctx := 0, col := false, row := 3, out := 4, xs := [2], ws := [3], nonfin := false, sum := sum }
def sampled (x : Sample) : State := (single []).setCore 0 { (single []).core 0 with sample := some x }

theorem witness_RattleChecks :
    ((sampled (intSample 6)).core 0).sample = some (intSample 6) ∧
    (intSample 6).check (field ((sampled (intSample 6)).cfg .rattle 0 0x100) 19 16) = some (6, 0, false) ∧
    (intSample 7).check 12 = some (6, 0, true) ∧
    ({ intSample 6 with fmt := .bf16, nonfin := true } : Sample).check 12 = none ∧
    ((run (.rattleCheck 0) (sampled (intSample 7))).source (srcKey .rattle 0)).lastCode = 0x5009 ∧
    (run (.rattleCheck 0) (sampled (intSample 7))).lastDisagree = [9, 0, 0x70000000, 0x00030004, 7, 6, 0, 0] ∧
    up.reaches 32 .glob .rattle 0 0x108 ∧ (run (.rattleSeedWrite 32 5) up).lfsrOf 0 = 5 ∧
    up.asks (rq 1 8) .rattle (rdItem 1 8) 0 false [0, 0, 0, 0, 0, 0, 0, 0] ∧ (1 : Word) ≠ 0 ∧ lfsrStep 1 = 0x80200003 := by
  decide +kernel

/-- A context in device-ring form with a command and its parameter record. -/
def cmdAux (sl aux : List Byte) : State := base.setCtx 0 { ctxHost with fetched := some { slot := sl, aux := aux } }
def sortSlot : List Byte := slot64 0x20 [(2, [2]), (32, [1])]
def copySlot : List Byte := slot64 0x10 [(2, [2]), (4, leBytes 4 64)]
def gatherAux : List Byte := overlay (overlay (List.replicate 64 0) 8 [1]) 12 [32]
def storeAux : List Byte := overlay (List.replicate 64 0) 0 [2, 0, 0, 0, 32]
def transAux : List Byte :=
  overlay (overlay (overlay (List.replicate 64 0) 0 [1, 0, 0, 0, 1]) 16 [1]) 24 [1]
def collSlot (op : Byte) (fs : List (Nat × List Byte)) : List Byte := slot64 op ([(2, [2]), (4, leBytes 4 32)] ++ fs)

theorem witness_CommandAdmission :
    sortOf (slot64 0x20 []) = none ∧ (sortOf sortSlot).isSome = true ∧ opcodeOf sortSlot = 0x20 ∧
    (cmd sortSlot).placed sortSlot (fun _ => true) = (0, 0) ∧ (cmd (slot64 0x20 [(2, [0]), (8, [255, 1])])).placed
      (slot64 0x20 [(2, [0]), (8, [255, 1])]) (fun _ => true) = (2, 511) ∧
    (run (.sortList 0) (cmd sortSlot)).works.map (·.running) = [true] ∧
    (cmd copySlot).dmaBad (some 0) copySlot = false ∧ copyOf? copySlot = some .copy ∧
    fillOf? (overlay copySlot 3 [0x11]) = some .fill ∧ (gatherOf? (slot64 0x12 []) gatherAux).isSome = true ∧
    (storeOf? (slot64 0x13 [(4, [64])]) storeAux).isSome = true ∧ (amaxOf? (slot64 0x14 [(4, [64])]) storeAux).isSome = true ∧
    (transOf? (slot64 0x15 []) transAux).isSome = true ∧ copyOf? (overlay copySlot 32 [1]) = none ∧
    (run (.copy (.ctx 0)) (cmd copySlot)).works.length = 1 ∧
    (run (.copy (.mgmt copySlot [])) base).works.map (·.ctx) = [none] ∧ base.dmaBad none copySlot = false ∧
    base.placed copySlot (fun _ => true) = (0, 0) := by decide +kernel

theorem witness_CommandAdmission_others :
    (let s := (cmdAux (slot64 0x15 [(2, [2])]) transAux).setCfg .array 0 0x100 2
     s.colPathOff (s.partOf 0) = true ∧ (run (.transpose (.ctx 0)) s).works.length = 1) ∧
    base.colPathOff 1 = false ∧ (run (.transpose (.ctx 0)) (cmdAux (slot64 0x15 [(2, [2])]) transAux)).works = [] ∧
    narogPresent base.variant = true ∧
    (let s : State := { (cmd (slot64 0x40 [(2, [2]), (24, [1])])).setCfg .puppeteer 1 0x100 0x80000000 with fr := { base.fr with no := 1 } }
     (s.narogOf 0 false (slot64 0x40 [(2, [2]), (24, [1])])).isSome = true ∧
      s.placed (slot64 0x40 [(2, [2]), (24, [1])]) (fun g => false || s.kindOf (s.partOf 0) g = .update) = (0, 1) ∧
      (run (.update 0) s).works.length = 1) ∧
    (base.narogOf 0 true (slot64 0x41 [])) = none ∧
    (run (.cast 0) (cmd (slot64 0x41 [(2, [2]), (24, [1])]))).works.length = 1 ∧
    (ringOf? .reduceScatter (collSlot 0x30 [(45, [1])])).isSome = true ∧ ringOf? .allGather (collSlot 0x31 []) = none ∧
    (run (.reduceScatter 0) (cmd (collSlot 0x30 [(45, [1])]))).works.length = 1 ∧
    (run (.allGather 0) (cmd (collSlot 0x31 [(45, [1])]))).works.length = 1 ∧
    (run (.allReduce 0) (cmd (collSlot 0x32 [(45, [6])]))).works.length = 1 ∧
    (run (.put 0) (cmd (collSlot 0x33 []))).works.length = 1 := by decide +kernel

def marbled (m : Marble) (now : Nat) : State :=
  { (withLine { llcLine .red with sect := 0 }).setMarble 0 m with now := now }
def oneEntry : MEntry := ⟨1, 1, 0x10184, .fp32, 0x3F800000⟩

theorem witness_MarbleWindows :
    (let s := marbled { ({} : Marble) with fill := [oneEntry], first := 4 } 2735
     (s.marble 0).fill ≠ [] ∧ (s.marble 0).closed.length ≤ 1 ∧ 8192 ≤ 3 * (s.now - (s.marble 0).first) ∧
      (run (.marbleWindowTimeout 0) s).marble 0 = { ({} : Marble) with first := 4, closed := [(2735, [oneEntry])] }) ∧
    (let m := theLaunch started
     let l : Launch := { m with puts := true, ended := m.list }
     let s : State := { marbled { ({} : Marble) with fill := [oneEntry] } 9 with
        works := started.works.map (fun w => { w with job := .launch l }) }
     s.work 1 = some (theWork s) ∧ (theWork s).job = .launch l ∧ l.ended.length = l.list.length ∧
      ((run (.marbleJobInputEnd 0 1) s).marble 0).closed = [(9, [oneEntry])] ∧
      (let u := s.setMarble 0 {}
       (theWork u).job.inputEnded = true ∧ u.noEntries 1 = true ∧ (run (.marbleJobEnd 1) u).works = [])) ∧
    (let s := marbled { ({} : Marble) with closed := [(0, [oneEntry])] } 86
     256 ≤ 3 * (s.now - 0) ∧ s.inHold .marble 0 = false ∧ s.accepts (0x10184 / 128) = true ∧
      s.calm { llcLine .red with sect := 0 } ∧ 0x10184 / 128 = (llcLine .red).line ∧
      (after (.marbleWindowEmit 0) s).map (fun l => (l.sect, l.data.take 8)) = some (1, [0, 0, 0, 0, 0, 0, 0x80, 0x3F])) := by
  decide +kernel

theorem witness_MarbleWindows_slots :
    (let s := marbled { ({} : Marble) with closed := [(0, [oneEntry])] } 86
     slotsLeft 256 (s.marbleWeight 0) ((s.marble 0).turn s.now).sent [1] 1 ≠ 0 ∧ (llcLine .red).dt = oneEntry.t) ∧
    (let s := marbled { ({} : Marble) with closed := [(0, [oneEntry])], span := 2, sent := [(1, 256)] } 86
     slotsLeft 256 (s.marbleWeight 0) ((s.marble 0).turn s.now).sent [1] 1 = 0 ∧
      ((run (.marbleWindowEmit 0) s).marble 0).closed = [(0, [oneEntry])]) := by decide +kernel

/-- A request for line 0x203 that has waited since cycle 0. -/
def hreq (sect : BitVec 4) (w : Bool) : NReq := ⟨0x203, sect, w, false, 0, false⟩
def queued (r : NReq) : State := { up with hbm := { up.hbm with nreq := [r] } }

theorem witness_StackControllers :
    (queued (hreq 3 false)).inHold .narrow (0 / 3) = false ∧ (hbmAddr 0x203).pc = 3 ∧
    (queued (hreq 3 false)).chooseReq 0 (notBehind [] ((queued (hreq 3 false)).pcQueue 0 3)) = some (hreq 3 false) ∧
    (run (.narrowSchedule 0 3) (queued (hreq 3 false))).counter .narrow 0 0x800 = 2 ∧
    (run (.narrowSchedule 0 3) (queued (hreq 0xF true))).hbm.nreq = [] ∧
    (let s := queued { hreq 3 false with issued := true }
     (∀ i, i < 4 → s.upsetOf (4 * 0x203 + i) = 0) ∧ (run (.hbmReadComplete 0x203 ⟨0, 0, 0, 0⟩) s).hbm.nreq = []) ∧
    stackFitted up.variant 11 = true ∧ bit (up.cfg .hbm 11 0x100) 0 = true ∧ up.inHold .hbm 11 = false ∧
    (run (.hbmRefresh 11 31 2 15) up).hbm.refreshes = [(11, 1)] ∧
    Tab.get 0 (run (.hbmScrub 11 0) up).hbm.scrubPos 11 = 1 ∧
    up.asks (rq 1 2) .hbm (rdItem 1 2) 0 false [0, 0] ∧ up.asks (rq 1 2) .hbm (rdItem 2 2) 0 false [0, 0] ∧
    up.asks (rq 1 2) .slowtier (rdItem 1 2) 0 false [0, 0] ∧ up.asks (rq 1 2) .dma (rdItem 1 2) 0 false [0, 0] := by
  decide +kernel

/-- One symbol of sector 0x80C is in error, or two, or two of a sector of the slow tier. -/
theorem witness_StackControllers_errors :
    addrKind up.variant (32 * 0x80C) ≠ .hole ∧ symbols (up.upsetOf 0x80C ||| 0x20000) ≤ 2 ∧
    (let s := up.strike 0x80C 0x20000
     symbols (s.upsetOf 0x80C) = 1 ∧ (s.readSector 0x80C).upsetOf 0x80C = 0 ∧
      (s.readSector 0x80C).counter .hbm 0 0x804 = 1) ∧
    (let s := up.strike 0x80C 3
     s.poisoned 0x80C = true ∧ (s.readSector 0x80C).poisoned 0x80C = true ∧
      ((s.readSector 0x80C).source (srcKey .hbm 0)).lastCode = 0x5003) ∧
    (let k := (0x10000000000 + 0x1000000000) / 32
     let s := up.strike k 3
     s.poisoned k = true ∧ (32 * k - 0x10000000000) / 0x1000000000 = 1 ∧
      ((s.readSector k).source (srcKey .slowtier 1)).lastCode = 0x5003) := by decide +kernel

/-- The last sector of a pass. -/
theorem witness_StackControllers_pass :
    let s : State := { up with hbm := { up.hbm with scrubPos := [(11, 0x47FFFFFF)] } }
    s.upsetOf (11 * 0x80000000 + 0x47FFFFFF) = 0 ∧ up.upsetOf (11 * 0x80000000) = 0 ∧ up.hbm.nreq = [] ∧ Tab.get 0 (run (.hbmScrub 11 0) s).hbm.scrubPasses 11 = 1 := by
  decide +kernel

/-- The slow tier's first byte. -/
def slow0 : Nat := 0x10000000000

def dmaJob (op : DmaOp) (n src dst : Nat) : DmaJob := { op := op, len := n, src := src, dst := dst, slot := none, watch := 0, phys := true }
def workOf (j : Job) : Work := { id := 1, ctx := none, part := 1, frame := 0, slot := 0, irqEnd := false, running := true, job := j }
def moving (j : DmaJob) : State := { base with works := [workOf (.dma j)], nextWork := 2 }

/-- Engine 0 works on the job's first piece and takes no other. -/
def inFlight (j : DmaJob) : State :=
  (moving { j with taken := 1, flight := [{ n := 0, engine := 0 }] }).setCfg .dma 0 0x200 1

def okRun {α : Type} : DmaRes α → Bool
  | .ok _ _ _ _ => true
  | .fault _ _ => false
  | .ats _ => false
  | .wait => false

theorem witness_DmaPieces :
    (let j := dmaJob .fill 64 0x04030201 slow0
     let s := inFlight j
     let k : DmaJob := { j with taken := 1, flight := [{ n := 0, engine := 0 }] }
     State.takePieces 16 (s.dmaJobs.foldl (State.planPiece []) s) 0 [] = (s, []) ∧ field (s.cfg .dma 0 0x200) 4 0 ≤ s.engineLoad 0 ∧
      s.duePiece 0 = some (workOf (.dma k), k, { n := 0, engine := 0 }) ∧ okRun (runPiece (workOf (.dma k)) 0 s k []) = true ∧
      s.work 1 = some (workOf (.dma k)) ∧ k.probe = false ∧ k.cache = [] ∧ s.hbm.upset = [] ∧
      j.lo < j.hi ∧ (j.dst + j.lo) % 0x40000000 + (j.hi - j.lo) ≤ 0x40000000 ∧
      isSlow s.variant (j.dst + j.lo) = true ∧ (run (.dmaPiece 0 []) s).memRead (slow0 + 56) 9 = [1, 2, 3, 4, 1, 2, 3, 4, 0] ∧
      (run (.dmaPiece 0 []) s).counter .dma 0 0x804 = 64 ∧ (run (.dmaPiece 0 []) s).counter .dma 0 0x808 = 1 ∧
      (let t := run (.dmaPiece 0 []) s
       (t.works.map (fun w => match w.job with | .dma k => decide (k.pieces ≤ k.next) | _ => false)) = [true] ∧
        (run (.dmaCommandEnd 1) t).works = [])) ∧
    (let j := dmaJob .copy 32 slow0 (slow0 + 0x40000000 - 32)
     let s := (inFlight j).memWrite slow0 [5, 6]
     (j.dst + j.lo) % 0x40000000 + (j.hi - j.lo) ≤ 0x40000000 ∧ isSlow s.variant (j.src + j.lo) = true ∧
      (run (.dmaPiece 0 []) s).memRead (slow0 + 0x40000000 - 32) 3 = [5, 6, 0]) := by decide +kernel

theorem witness_DmaPieces_take :
    (let j := dmaJob .fill 64 0x04030201 slow0
     let s := moving j
     bit (s.cfg .dma 0 0x100) 0 = true ∧ s.inHold .dma 0 = false ∧ s.inReset .dma 0 = false ∧
      s.engineLoad 0 < field (s.cfg .dma 0 0x200) 4 0 ∧
      s.nextPiece 0 (s.waitingPieces 0 []) = some (workOf (.dma j), j)) := by decide +kernel

/-- A DMA access to a hole (2 × 36 GiB is one): it reads as zeros and is recorded. -/
theorem test_dma_hole :
    let s := inFlight (dmaJob .copy 32 0x900000000 slow0)
    Tab.get 0 (run (.dmaPiece 0 []) s).lastHole 0 = 0x900000000 ∧
    ((run (.dmaPiece 0 []) s).source (srcKey .dma 0)).lastCode = 0x5004 := by decide +kernel

/-- A job of shard group 0, whose record stands first in the slow tier. -/
def nJob (ph : NarogPhase) (cast : Bool) : NarogJob :=
  { cast := cast, sg := 0, tlist := 0, tcount := 0, clip := 0, normSq := 0, phase := ph, t := 5, p1 := 6, p2 := 7 }
def nWork (j : NarogJob) : Work := { workOf (.narog j) with ctx := some 0, running := false }
def inSg (j : NarogJob) (g : Sg) : State := { base.setSg 0 g with works := [nWork j], nextWork := 2, fr := { base.fr with } }
def sgReady : Sg := { recAddr := slow0, ready := true, commit := 4 }
def phaseAfter (c : Instr) (s : State) : List (Option NarogPhase) :=
  (run c s).works.map (fun w => match w.job with | .narog j => some j.phase | _ => none)

theorem witness_NarogJobs :
    (let s := inSg (nJob .waiting false) {}
     s.narogJob 1 = some (nWork (nJob .waiting false), nJob .waiting false) ∧
      s.narogMayStart (nWork (nJob .waiting false)) (nJob .waiting false) = true ∧
      phaseAfter (.narogJobStart 1) s = [some (.ended 5)]) ∧
    (let s := inSg (nJob .waiting false) sgReady
     s.narogMayStart (nWork (nJob .waiting false)) (nJob .waiting false) = true ∧
      phaseAfter (.narogJobStart 1) s = [some .writing]) ∧
    (let s := inSg (nJob .writing true) sgReady
     s.narogJob 1 = some (nWork (nJob .writing true), nJob .writing true) ∧ phaseAfter (.narogWriteDone 1) s = [some (.ended 0)]) ∧
    (let j := { nJob .writing false with nonfin := true }
     let s := (inSg j sgReady).setCfg .narogSg 0 0x100 16
     bit (s.sgCfg j.sg) 4 = true ∧ phaseAfter (.narogWriteDone 1) s = [some (.ended 2)]) ∧
    (let s := { inSg (nJob .writing false) sgReady with fr := { base.fr with cycle := 799488 } }
     s.fr.cycle + 512 ≤ s.frameLen ∧ phaseAfter (.narogWriteDone 1) s = [some .flipping] ∧
      phaseAfter (.narogWriteDone 1) { s with fr := { s.fr with cycle := 799489 } } = [some .writing]) := by decide +kernel

theorem witness_NarogJobs_flip :
    (let s := inSg (nJob .flipping false) sgReady
     s.narogJob 1 = some (nWork (nJob .flipping false), nJob .flipping false) ∧ isSlow s.variant (slow0 + 64) = true ∧
      (run (.narogFlip 1) s).sg 0 = { sgReady with commit := 5, step := 5, p1 := 6, p2 := 7, second := true } ∧
      phaseAfter (.narogFlip 1) s = [some (.ended 0)] ∧ (run (.narogFlip 1) s).counter .narog 0 0x804 = 1 ∧
      (((run (.narogFlip 1) s).setSg 0 { recAddr := slow0 }).loadRecord 0).map (fun t => t.sg 0) =
        some { sgReady with commit := 5, step := 5, p1 := 6, p2 := 7, second := true }) ∧
    (let s := inSg (nJob (.ended 7) false) sgReady
     s.narogJob 1 = some (nWork (nJob (.ended 7) false), nJob (.ended 7) false) ∧ (run (.narogReport 1) s).works = [] ∧
      ((run (.narogReport 1) s).source (srcKey .narogSg 0)).lastCode = 0x5005 ∧
      field ((run (.narogReport 1) s).sq .narogSg 0 0x800) 19 12 = 7) := by decide +kernel

/-- A slow-tier granule for partition 1. -/
def slowBase : State := (base.setCfg .puppeteer 1 0x11C (place 1 16)).setSg 0 { recAddr := slow0 }
def sgArg (ws : List Word) (s : State) : State := State.withD s 1 (.part 1) .narogSg ws

set_option maxRecDepth 20000 in
theorem witness_NarogGroups :
    slowBase.copyValid slow0 = false ∧ (slowBase.loadRecord 0).map (fun t => t.sg 0) = some { recAddr := slow0 } ∧
    (slowBase.initRecord 0 1 0 0 0).copyValid slow0 = true ∧
    slowBase.asks (rqp 1 1 1 2) .narogSg (rwItem 1 2) 0 false [0, 0] ∧
    (sgArg [0, 0x100] slowBase).asks (rqp 1 1 2 2) .narogSg (rwItem 1 2) 0 true [0, 0x100] ∧
    slowBase.sgBusy 0 = false ∧ natOf [(0 : Word), 0x100] = slow0 := by decide +kernel

theorem witness_NarogGroups_items :
    slowBase.partOfSg 0 = some 1 ∧ slowBase.recordOk 0 slow0 = true ∧ slowBase.recordOk 0 (slow0 + 64) = false ∧
    (sgArg [0] slowBase).asks (rqp 1 1 2 1) .narogSg (wrItem 2 1) 0 true [0] ∧
    (sgArg [9, 0, 8, 0, 7, 6] slowBase).asks (rqp 1 1 2 6) .narogSg (wrItem 3 6) 0 true [9, 0, 8, 0, 7, 6] ∧
    (run (.init (rqp 1 1 2 6)) (sgArg [9, 0, 8, 0, 7, 6] slowBase)).sg 0 =
      { recAddr := slow0, ready := true, commit := 9, step := 8, p1 := 7, p2 := 6 } ∧
    slowBase.asks (rqp 1 1 1 2) .narogSg (rdItem 4 2) 0 false [0, 0] ∧ slowBase.asks (rqp 1 1 1 2) .narogSg (rdItem 5 2) 0 false [0, 0] ∧
    slowBase.asks (rqp 1 1 1 2) .narogSg (rdItem 6 2) 0 false [0, 0] ∧
    slowBase.reaches 1 (.part 1) .narogSg 0 0x144 ∧ (0x144 : BitVec 12).toNat % 4 = 0 ∧
    phaseAfter (.narogCfgWrite 1 (.part 1) 0x120 5) (inSg (nJob .flipping false) sgReady) = [some (.ended 3)] := by
  decide +kernel

/-- Watch entry 3 of partition 1 with a report under way, and a close that is due. -/
def rep : Report := { entry := 3, fmt := 1, counts := [32, 5, 1, 0, 0], frame := 2 }
def closing : State :=
  base.setEntry 3 { ({} : WEntry) with live := [(0, [1, 1, 1, 1, 1])], fin := [(1, [32, 0, 0, 0, 0])] }
    |>.setPart 1 { base.part 1 with closeDue := some (7, 2) }

set_option maxRecDepth 20000 in
theorem witness_WatchTable :
    (let s := { base with reports := [rep] }
     s.partOfWatch 3 = some 1 ∧ (s.part 1).closeDue = none ∧ (run .watchReport s).reports = [] ∧
      ((run .watchReport s).entry 3).live = [(1, [32, 5, 1, 0, 0])]) ∧
    closing.closeReady 1 = some 7 ∧ ({ closing with reports := [rep] } : State).closeReady 1 = none ∧
    (run .watchReport { closing with reports := [rep] }).entry 3 =
      { closing.entry 3 with fin := [(1, [64, 5, 1, 0, 0])] } ∧
    3 < closing.watchCount 1 ∧ ((run (.stepClose 1) closing).entry 3).closed = [(1, [32, 0, 0, 0, 0])] ∧
    ((run (.stepClose 1) closing).entry 3).zrun = 1 ∧ (run (.stepClose 1) closing).fr.cycle = 4096 ∧
    (let s := base.setPart 1 { base.part 1 with dumping := some (0x1000, [1], [2]) }
     (run (.dumpComplete 1) s).devRead 0x1000 1 = [1] ∧ (run (.dumpComplete 1) s).devRead 0x1040 1 = [2]) ∧
    up.reaches 32 .glob .watch 0 0x100 ∧ field (0x180 : Word) 7 0 ≠ 0 ∧ field (0x100 : Word) 7 0 = 0 ∧
    (run (.watchCfgWrite 32 .glob 0x1FF) up).cfg .watch 0 0x100 = 0x1FF ∧ run (.watchCfgWrite 32 .glob 0x100) up = up := by
  decide +kernel

set_option maxRecDepth 20000 in
theorem witness_WatchItems :
    up.asks (rq 1 2) .watch (rdItem 1 2) 0 false [0, 0] ∧
    ((run (.closedStep (rq 1 2)) up).copyOf 32 .glob .watch).result = (errDone, [0xFFFFFFFF, 0xFFFFFFFF]) ∧
    (0x108 : Nat) < 0x200 := by decide +kernel

/-- A job whose tensor list stands in a line that its slice is busy with. -/
def blockedJob : State :=
  let j := { nJob .waiting false with tlist := 0x10180, tcount := 1 }
  ((inSg j sgReady).setCtx 0 { ctxHost with tlb := [(16, some dataLeaf)] }).setSlice 0
    { ({} : Slice) with lines := [{ llcLine .m with op := some { req := .own 7, phase := .snoop, wait := [5] } }] }

def okNone {α : Type} : Except Nat (Option α) → Bool
  | .ok none => true
  | .ok (some _) => false
  | .error _ => false

theorem witness_NarogJobs_blocked :
    (let j := { nJob .waiting false with tlist := 0x10180, tcount := 1 }
     let w := nWork j
     blockedJob.narogJob 1 = some (w, j) ∧ blockedJob.narogMayStart w j = true ∧
      okNone ((blockedJob.setWork { w with running := true }).narogReady w j) = true ∧
      ((blockedJob.setWork { w with running := true }).narogPhase1 { w with running := true } j none).isNone = true) ∧
    (let j := nJob .waiting false
     let s := (inSg j sgReady).setWork { nWork j with running := true }
     okNone (s.narogReady (nWork j) j) = true ∧
      (s.narogPhase1 { nWork j with running := true } j none).isSome = true) := by decide +kernel

set_option maxRecDepth 20000 in
theorem witness_NarogGroups_copies :
    (let s := slowBase.initRecord 0 1 0 0 0
     s.copyValid slow0 = true ∧ leAt (s.devRead (slow0 + 64) 64) 0 8 ≤ leAt (s.devRead slow0 64) 0 8 ∧
      ((s.loadRecord 0).map fun t => (t.sg 0).second) = some false) ∧
    (let s := slowBase.devWrite (.narog, none) (slow0 + 64) (recordBytes 5 4 3 2)
     s.copyValid (slow0 + 64) = true ∧ s.copyValid slow0 = false ∧ ((s.loadRecord 0).map fun t => (t.sg 0).second) = some true ∧
      ((s.loadRecord 0).map fun t => (t.sg 0).commit) = some 5) := by decide +kernel

set_option maxRecDepth 20000 in
theorem witness_NarogGroups_busy :
    (let s := { slowBase with works := [nWork (nJob .writing false)] }
     s.sgBusy 0 = true ∧ s.asks (rqp 1 1 1 2) .narogSg (rwItem 1 2) 0 false [0, 0]) ∧ slowBase.recordOk 0 64 = false ∧
    isSlow slowBase.variant (slowBase.sg 0).recAddr = true := by decide +kernel

/-- A write of an agent that its slice has not accepted. -/
def heldWrite (who : Agent × Option Nat) (s : State) : State :=
  s.setSlice 0 { ({} : Slice) with late := [(0x200, .awr who.1 who.2 [])] }

/-- A command ends, a Narog job goes on and a dump goes on only with its writes accepted. -/
theorem witness_writesLeft :
    (let j : DmaJob := { dmaJob .fill 64 0 slow0 with next := 1, taken := 1 }
     let s := moving j
     s.work 1 = some (workOf (.dma j)) ∧ j.pieces ≤ j.next ∧ s.writesLeft (dmaFor (workOf (.dma j))) = false ∧
      (heldWrite (.dma, none) s).writesLeft (dmaFor (workOf (.dma j))) = true ∧
      (run (.dmaCommandEnd 1) s).works = [] ∧ (run (.dmaCommandEnd 1) (heldWrite (.dma, none) s)).works.length = 1) ∧
    (let s := inSg (nJob .writing true) sgReady
     s.writesHeld (.narog, some 0) = false ∧ (heldWrite (.narog, some 0) s).writesHeld (.narog, some 0) = true ∧
      phaseAfter (.narogWriteDone 1) (heldWrite (.narog, some 0) s) = [some .writing]) ∧
    (let s := inSg (nJob (.ended 7) false) sgReady
     s.writesLeft (.narog, some 0) = false ∧ (heldWrite (.narog, some 0) s).writesLeft (.narog, some 0) = true ∧
      (run (.narogReport 1) (heldWrite (.narog, some 0) s)).works.length = 1) ∧
    (let s := base.setPart 1 { base.part 1 with dumping := some (slow0, [1], [2]) }
     (s.devWrite dumpAgent (slow0 + 64) [2]).writesHeld dumpAgent = false ∧
      ((heldWrite dumpAgent s).devWrite dumpAgent (slow0 + 64) [2]).writesHeld dumpAgent = true ∧
      ((run (.dumpComplete 1) (heldWrite dumpAgent s)).part 1).dumping = some (slow0, [1], [])) ∧
    (slowBase.loadRecord 0).isSome = true := by decide +kernel

set_option maxRecDepth 20000 in
theorem witness_WatchItems_others :
    up.asks (rq 1 8) .watch (rdItem 0x108 8) 0 false [0, 0, 0, 0, 0, 0, 0, 0] ∧
    up.asks (rq 1 8) .watch (rdItem 0x200 8) 0 false [0, 0, 0, 0, 0, 0, 0, 0] ∧
    base.asks (rqp 1 1 1 4) .watch { num := 0x10, read := true, write := true, len := 4, follows := false } 0 false
      [0, 0, 0, 0] ∧
    (State.withD base 1 (.part 1) .watch [0x1000, 0, 2, 0]).asks (rqp 1 1 2 4) .watch
      { num := 0x10, read := true, write := true, len := 4, follows := false } 0 true [0x1000, 0, 2, 0] ∧
    base.dumpOk 1 0x1000 2 = true ∧ base.dumpOk 1 0x1020 2 = false ∧
    base.asks (rqp 1 1 2 1) .watch { num := 0x11, read := false, write := true, len := 1, follows := false } 0 true [0] ∧
    base.stepMode 1 = false ∧ (base.setCfg .puppeteer 1 0x100 0x80000000).stepMode 1 = true ∧
    base.asks (rqp 1 1 1 4) .watch { num := 0x12, read := true, write := false, len := 4, follows := false } 0 false
      [0, 0, 0, 0] ∧ ((base.setPart 1 { base.part 1 with norm := some (7, 5) }).part 1).norm = some (7, 5) := by
  decide +kernel

/-- A torus of 8 × 8 × 8 (R459's example DIMS) at node (3, 5, 2), with ports in a state. -/
def torus (st : PortSt) : State :=
  let s := ((List.range 6).foldl (fun s q => (s.setCfg .ulink q 0x104 0x0CA2).setCfg .ulink q 0x108 0x1CE7) up)
  { (s.setPort 0 { ({} : Port) with st := st }) with now := 400000000 }

/-- The manual's worked node: DIMS 0x1CE7 is 8 × 8 × 8, node 0x0CA2 is (3, 5, 2), and port 2 leads to node 0x0CC2. -/
theorem test_torus_node :
    (torus .up).dimSize 0 = 8 ∧ (torus .up).dimSize 1 = 8 ∧ (torus .up).dimSize 2 = 8 ∧
    [coord 0x0CA2 0, coord 0x0CA2 1, coord 0x0CA2 2] = [3, 5, 2] ∧ (torus .up).neighbour 2 = 0x0CC2 := by decide +kernel

set_option maxRecDepth 20000 in
theorem witness_PortStates :
    (torus .off).reaches 32 .glob .ulink 0 0x100 ∧ (torus .off).dimSize (0 / 2) ≠ 1 ∧
    ((run (.portEnable 32 1) (torus .off)).port 0).st = .training ∧
    ((run (.retrain 32 3) (torus .dead)).port 0).st = .training ∧ ((run (.portDisable 32 0) (torus .up)).port 0).st = .off ∧
    (run (.detourClear 32 1) ((torus .dead).setCfg .ulink 0 0x100 5)).detour 0 = false ∧
    (run (.detourSet 32 0x1FD) (torus .dead)).sideMask 0 = 0x3F ∧
    ((run (.detourSet 32 5) (torus .dead)).source (srcKey .ulink 0)).lastCode = 0x6004 ∧
    (torus .training).neighbour 0 = 0x10A2 ∧ (torus .training).now - ((torus .training).port 0).since ≤ 400000000 ∧
    (torus .training).detour 0 = false ∧ ((run (.portUp 0 0x10A2 200000) (torus .training)).port 0).delay = 65535 ∧
    ((run (.trainFail 0 none) (torus .training)).source (srcKey .ulink 0)).lastCode = 0x6002 ∧
    (torus .off).reaches 32 .glob .ulink 0 0x104 ∧ (torus .off).reaches 32 .glob .ulink 0 0x108 ∧
    (run (.nodeDimsWrite 32 true 0x1CE7) up).dimSize 1 = 8 := by decide +kernel

theorem witness_PortStates_detour :
    ((List.range 6).all (fun q => !((torus .dead).inHold .ulink q))) = true ∧ bit (0x1FD : Word) 2 = true ∧
    bit (0x1FD : Word) 0 = true ∧ bit (0x1FD : Word) 1 = false ∧ field (0x1FD : Word) 8 3 ≠ 0 ∧ field (5 : Word) 8 3 = 0 ∧
    ((torus .dead).port 0).held = [] ∧ ((torus .dead).port 0).unreach ≠ (torus .dead).fr.ticks + 1 ∧
    (torus .off).variant ≠ .l7120 := by decide +kernel

set_option maxRecDepth 20000 in
theorem witness_PortStates_small :
    ({ torus .off with variant := .l7120 } : State).reaches 32 .glob .ulink 0 0x108 ∧ field (0x1CE7 : Word) 4 0 ≠ 0 ∧
    (let s := up.setPort 5 { ({} : Port) with lock := 0x80 }
     (s.port (47 / 8)).lock.getLsbD (47 % 8) = true ∧ ((run (.laneLockLost 47) s).port 5).lock = 0) := by decide +kernel

def dataFlit (dest : BitVec 15) (kind : Nat) (pl : List Byte) : Flit :=
  { vc := 1, kind := kind, dest := dest, src := 5, flow := 3, payload := bytesAt pl 0 240 }
def port0 (x : Port) : State := (torus .up).setPort 0 { x with st := .up }

/-- The image of a flit with a SEQ and a trailer whose CRC is good, or has one bit wrong. -/
def image (f : Flit) (seq : Nat) (wrong : Nat) : FlitImage :=
  { hdr := f.header seq, payload := f.payload
    tlr := BitVec.ofNat 64 (((flitCrc (f.header seq) f.payload).toNat ^^^ wrong) * 2 ^ 32 + 4095 * 2 ^ 20) }

set_option maxRecDepth 20000 in
theorem witness_LinkFlits :
    (port0 { ({} : Port) with markers := [mark 7] }).kiteRun = port0 { ({} : Port) with markers := [mark 7] } ∧
    (port0 { ({} : Port) with markers := [mark 7] }).inHold .ulink 0 = false ∧
    (run (.flitSlot 0) (port0 { ({} : Port) with markers := [mark 7] })).out.length = 1 ∧
    (let x : Port := { ({} : Port) with queues := [(1, [⟨dataFlit 0x10A2 2 [], none⟩])], seq := 4095 }
     let s := port0 x
     s.kiteRun = s ∧ s.chooseSlot 0 = .queue 1 (0, 0) ∧
      ((run (.flitSlot 0) s).port 0).seq = 0 ∧ ((run (.flitSlot 0) s).port 0).unacked.map (·.1) = [4095]) := by
  decide +kernel

set_option maxRecDepth 20000 in
theorem witness_LinkFlits_receive :
    (let f := dataFlit 0x0CA2 4 [9]
     let s := port0 { ({} : Port) with expect := 4095 }
     s.inTorus f.dest = true ∧ s.routePort f = none ∧ FlitImage.flit (image f 4095 0) = f ∧ FlitImage.seq (image f 4095 0) = 4095 ∧
      ((run (.flitReceive 0 (image f 4095 0)) s).port 0).expect = 0 ∧
      (run (.flitReceive 0 (image f 4095 0)) s).coll.inbox = [f] ∧
      ((run (.flitReceive 0 (image f 4095 1)) s).port 0).nak = true ∧
      (run (.flitReceive 0 (image f 4094 0)) s).coll.inbox = []) := by decide +kernel

set_option maxRecDepth 20000 in
/-- A flit for node (4, 5, 2) that came in by port 1 goes on by port 0; its CRC fails, or is the inverse. -/
theorem witness_LinkFlits_cut :
    (let f := dataFlit 0x10A2 4 [9]
     let s := (port0 {}).setPort 1 { ({} : Port) with st := .up }
     (s.port 1).st = .up ∧ s.inTorus f.dest = true ∧ FlitImage.flit (image f 0 1) = f ∧ FlitImage.seq (image f 0 1) = 0 ∧
      s.route (some 1) f = .send 0 f ∧ s.freeToSend 0 f = true ∧
      (let got (w : Nat) : Word := BitVec.ofNat 32 (field64 (image f 0 w).tlr 63 32)
       got 1 ≠ flitCrc (f.header 0) f.payload ∧ got 1 ≠ ~~~(flitCrc (f.header 0) f.payload) ∧
        got 0xFFFFFFFF = ~~~(flitCrc (f.header 0) f.payload) ∧ got 0 = flitCrc (f.header 0) f.payload) ∧
      FlitImage.seq (image f 7 0) ≠ (s.port 1).expect ∧ (FlitImage.flit (image (dataFlit 0x10A2 5 []) 0 0)).kind = 5) := by
  decide +kernel

set_option maxRecDepth 20000 in
/-- A flit of a reserved KIND, and one for a node outside the torus, each with the next SEQ or another. -/
theorem witness_LinkFlits_outside :
    (let s := port0 {}
     (FlitImage.flit (image (dataFlit 0x0CA2 5 []) 9 0)).kind = 5 ∧
      (run (.flitReceive 0 (image (dataFlit 0x0CA2 5 []) 0 0)) s).counter .ulink 0 0x814 = 1 ∧
      ((run (.flitReceive 0 (image (dataFlit 0x0CA2 5 []) 0 0)) s).port 0).expect = 0 ∧
      s.inTorus (dataFlit 0x2000 2 []).dest = false ∧ FlitImage.flit (image (dataFlit 0x2000 2 []) 9 0) = dataFlit 0x2000 2 [] ∧
      (run (.flitReceive 0 (image (dataFlit 0x2000 2 []) 9 0)) s).counter .ulink 0 0x814 = 1) := by decide +kernel

/-- Training again that fails keeps the flits held since the port died. -/
theorem witness_PortStates_held :
    (let h : Queued := ⟨dataFlit 0x10A2 2 [], none⟩
     let s := (torus .training).setPort 0 { (torus .training).port 0 with held := [h] }
     (s.port 0).st = .training ∧ ((run (.trainFail 0 none) s).port 0).held = [h]) := by decide +kernel

theorem witness_LinkFlits_timeouts :
    (let s := port0 { ({} : Port) with unacked := [(7, dataFlit 0x10A2 2 [], 400000000 - 1600)] }
     ((run (.retryTimeout 0) s).port 0).replay = [7]) ∧
    (let s := port0 { ({} : Port) with unacked := [(7, dataFlit 0x10A2 2 [], 400000000 - 6400)] }
     ((run (.ackTimeout 0) s).port 0).st = .dead ∧ ((run (.ackTimeout 0) s).port 0).held.map (·.flit) = [dataFlit 0x10A2 2 []]) ∧
    (let s := port0 { ({} : Port) with lastGood := 400000000 - 6400 }
     ((run (.noFlitTimeout 0) s).port 0).st = .dead) ∧
    up.asks (rq 1 2) .ulink (rdItem 1 2) 0 false [0, 0] ∧ up.asks (rq 1 2) .ulink (rdItem 2 2) 0 false [0, 0] := by
  decide +kernel

/-- From X 3: X 6 is three up, X 0 is three down, X 7 is four either way and goes up. -/
theorem witness_ShortestWay :
    (List.range 3).all (fun d => coord (torus .up).nodeId d < (torus .up).dimSize d) = true ∧
    (dataFlit 0x0CA2 2 []).det = false ∧ (torus .up).route none (dataFlit 0x0CA2 2 []) = .deliver ∧
    (torus .up).routePort (dataFlit 0x18A2 2 []) = some 0 ∧ (torus .up).routePort (dataFlit 0x00A2 2 []) = some 1 ∧
    (torus .up).routePort (dataFlit 0x1CA2 2 []) = some 0 ∧ (torus .up).routePort (dataFlit 0x0CA0 2 []) = some 5 := by
  decide +kernel

/-- Partition 1 of `base` as a node of the torus, with a collective of context 0 whose tables map VA 0x40000 to itself. -/
def collBase (j : CollJob) : State :=
  let s := (((base.setCfg .ulink 0 0x104 0x0CA2).setCfg .ulink 0 0x108 0x1CE7).setCfg .coll 0 0x100 1).setCtx 0
    { ctxHost with tlb := [(0, some ⟨0x40000, true, false, false⟩), (1, some ⟨0x41000, true, false, false⟩)] }
  { s with works := [{ workOf (.coll j) with ctx := some 0, running := false, id := 1 }], nextWork := 2 }

def theColl (s : State) : Work := theWork s
def cj : CollJob :=
  { op := .reduceScatter, count := 32, src := 0, dst := 128, ringVa := 0x1000, id := 2, sfmt := .bf16, dfmt := .bf16, norm := true
    rings := 1 }
/-- A record of one ring with one participant, which is the root. -/
def ringRec : List Byte := overlay (overlay (List.replicate 64 0) 0 (leBytes 8 (2 ^ 48 + 0xCA2 * 2 ^ 16 + 0xCA2))) 48 [0, 0x80]
def collOne : State := (collBase cj).memWrite 0x41000 ringRec

set_option maxRecDepth 20000 in
theorem witness_CollectiveWork :
    collOne.collJob 1 = some (theColl collOne, cj) ∧ collOne.collMayStart (theColl collOne) cj = true ∧
    collOne.nodeId = 0xCA2 ∧ ringOk 0xCA2 cj (collOne.cohRead 0x41000 64) = true ∧ ringOk 0xCA2 cj (List.replicate 64 0) = false ∧
    ringOk 0xCA3 cj ringRec = false ∧
    (run (.collectiveStart 1) collOne).works.map (fun w => match w.job with | .coll j => j.formed | _ => none) = [some 0] ∧
    (let t := run (.collectiveStart 1) collOne
     t.collComplete (theColl t) (match (theColl t).job with | .coll j => j | _ => cj) = true ∧
      t.writesLeft (.coll, some 0) = false ∧ (heldWrite (.coll, some 0) t).writesLeft (.coll, some 0) = true ∧
      (run (.collectiveEnd 1) (heldWrite (.coll, some 0) t)).works.length = 1 ∧
      (run (.collectiveEnd 1) t).works = [] ∧ ((run (.collectiveEnd 1) t).part 1).norm = some (0, 0)) ∧
    (let p := { cj with op := .put, norm := false, rings := 0 }
     (collBase p).collMayStart (theColl (collBase p)) p = true ∧ (run (.collectiveStart 1) (collBase p)).coll.tx.length = 1) ∧
    (State.withD (selPup 1 []) 32 .glob .coll [0x1000, 0, 0x1000]).asks (rq 2 4) .coll (rwItem 0x10 4) 0 true [0x1000, 0, 0x1000, 0] ∧
    (selPup 1 []).asks (rq 1 4) .coll (rwItem 0x10 4) 0 false [0, 0, 0, 0] ∧ base.grantedRange 1 0x1000 0x1000 = true := by
  decide +kernel

def okRead : NRes (List Byte) → Option (List Byte)
  | .ok b _ => some b
  | .fault _ _ => none
  | .wait => none

def resKind : NRes (List Byte) → Nat
  | .ok _ _ => 0
  | .fault _ _ => 1
  | .wait => 2

def startOf : NRes (List Byte) → Option State
  | .ok b v => v.startRings (theColl collOne) cj b
  | .fault _ _ => none
  | .wait => none

/-- The record read: as it stands, all zeros, at an address that is not translated, in a busy line. -/
theorem witness_CollectiveWork_records :
    (let u := collOne.setWork { theColl collOne with running := true }
     okRead (u.collRead 0 0x1000 64) = some ringRec ∧ ringOk 0xCA2 cj ringRec = true ∧
      (startOf (u.collRead 0 0x1000 64)).isSome = true) ∧
    (let s := collBase cj
     ((okRead ((s.setWork { theColl s with running := true }).collRead 0 0x1000 64)).map (ringOk 0xCA2 cj)) = some false) ∧
    (let j := { cj with ringVa := 0x5000 }
     let s := collBase j
     s.collMayStart (theColl s) j = true ∧ resKind ((s.setWork { theColl s with running := true }).collRead 0 0x5000 64) = 1) ∧
    (let l : LLine := { llcLine .m with line := 0x820, op := some { req := .own 7, phase := .snoop, wait := [5] } }
     let s := collOne.setSlice (homeDie 0x820) { ({} : Slice) with lines := [l] }
     resKind ((s.setWork { theColl s with running := true }).collRead 0 0x1000 64) = 2) ∧
    (let s := collOne.setCfg .coll 0 0x100 0
     s.collMayStart (theColl s) cj = false) := by decide +kernel

/-- A flit delivered here, and payloads of each kind for operation 2 of partition 1, frame 0. -/
def boxed (s : State) (f : Flit) : State := { s with coll := { s.coll with inbox := [f] } }
def dataPl (fseq phase step off : Nat) : List Byte :=
  leBytes 4 fseq ++ leBytes 2 2 ++ leBytes 2 0 ++ [1] ++ leBytes 1 phase ++ leBytes 2 step ++ leBytes 4 off
def landed : State := base.setPart 1 { base.part 1 with landing := (0x1000, 0x1000) }

theorem witness_CollectiveFlits_data :
    (let f := dataFlit 0x0CA2 2 (dataPl 0 2 0 (0x1000 - 224))
     f.phase = 2 ∧ f.part = 1 ∧ landed.lateFrame f.frameLo = false ∧ (landed.rxOf f f.frameLo).seen f.fseq = false ∧
      f.fseq < (landed.rxOf f f.frameLo).base + 1024 ∧ landed.flowsUsed < 4096 ∧ (landed.part 1).landing.1 ≠ 0 ∧
      f.offset + 224 ≤ (landed.part 1).landing.2 ∧ (landed.takeInbox (fun f => f.kind = 2)) = none ∧
      ((boxed landed f).takeInbox (fun f => f.kind = 2)).map (·.1) = some f ∧
      (run .collData (boxed base f)).counter .coll 0 0x810 = 1) ∧
    (let f := dataFlit 0x0CA2 2 (dataPl 4 0 0 0)
     let x : RxFlow := { src := 5, num := 3, base := 5 }
     let s : State := { base with coll := { base.coll with rx := [x] } }
     f.phase ≠ 2 ∧ (s.rxOf f f.frameLo).seen f.fseq = true ∧ (run .collData (boxed s f)).counter .coll 0 0x808 = 1) ∧
    (let f := dataFlit 0x0CA2 2 (overlay (dataPl 4 0 0 0) 6 [0xFF, 0xFF])
     base.opOf f = none ∧ base.lateFrame f.frameLo = true ∧ (run .collData (boxed base f)).counter .coll 0 0x804 = 1) := by
  decide +kernel

/-- A PUT of two flits into a window of 448 B: the first ends in zeros, and the second shows that it was full. -/
theorem witness_CollectiveFlits_tails :
    (let f := dataFlit 0x0CA2 2 (dataPl 1 2 0 224)
     let x : RxFlow := { src := 5, num := 3, vc := 1, frame := f.frameLo, part := 1, base := 1, tails := [(0, 0, 32)] }
     let s : State := { landed with coll := { landed.coll with rx := [x] } }
     f.phase = 2 ∧ f.part = 1 ∧ (s.rxOf f f.frameLo).seen f.fseq = false ∧ (s.rxOf f f.frameLo).tails = [(0, 0, 32)] ∧
      (s.rxOf f f.frameLo).part = f.part ∧ 0 + 224 ≤ (s.part 1).landing.2 ∧
      ((boxed s f).takeInbox (fun f => f.kind = 2)).map (·.1) = some f) ∧
    (let f := dataFlit 0x0CA2 2 (dataPl 0 2 0 0)
     (landed.rxOf f f.frameLo).tails = [] ∧ (base.rxOf f f.frameLo).tails = [] ∧ (base.part 1).landing.1 = 0) := by
  decide +kernel

def ctlFlit (ctype : Nat) (rest : List Byte) : Flit := dataFlit 0x0CA2 3 (leBytes 4 ctype ++ rest)
def running (j : CollJob) : State := collBase { j with started := true }

theorem witness_CollectiveFlits_ready :
    (let f := ctlFlit 1 [2, 0, 0, 0, 1]
     f.ctype = 1 ∧ base.opOf f = none ∧ base.lateFrame f.frameLo = false ∧
      (run .collReady (boxed base f)).coll.readies = [f] ∧
      (running { cj with list := [{ p := 2, rank := 0, next := 5, prev := 5, flow := 9 }] }).opOf f ≠ none) ∧
    (let f := ctlFlit 1 [2, 0, 0xFF, 0xFF, 1]
     base.lateFrame f.frameLo = true ∧ (run .collReady (boxed base f)).counter .coll 0 0x804 = 1) ∧
    (let f := ctlFlit 2 [2, 0, 0, 0]
     let x : TxFlow := { num := 3, dest := 5, vc := 1, kind := 2, work := some 1, items := [⟨[1], none⟩, ⟨[2], none⟩, ⟨[3], none⟩], sent := 3 }
     let s : State := { base with coll := { base.coll with tx := [x] } }
     s.coll.tx.find? (fun x => x.num = f.flow && x.dest = f.src) = some x ∧ x.base < leAt f.payload 4 4 ∧
      leAt f.payload 4 4 ≤ x.base + x.sent ∧ (s.kpart 31).streams = [] ∧
      (run .flowAck (boxed s f)).coll.tx.map (fun y => (y.base, y.sent, y.items.length)) = [(2, 1, 1)]) ∧
    (let x : RxFlow := { src := 5, num := 3, base := 7, moved := some 100 }
     let s : State := { base with coll := { base.coll with rx := [x] }, now := 500 }
     (run .flowAckTimer s).coll.rx = [{ x with acked := 7, moved := none }]) ∧
    (let x : TxFlow := { num := 3, dest := 5, vc := 1, kind := 2, items := [⟨[1], none⟩], sent := 1 }
     let s : State := { base with coll := { base.coll with tx := [x] }, now := 100000000 }
     x.since + 800 * field (s.cfg .coll 0 0x104) 15 0 ≤ s.now ∧ (run .rewindTimeout s).counter .coll 0 0x80C = 1) := by
  decide +kernel

theorem witness_CollectiveFlits_norm :
    (let j := { cj with started := true, children := [5, 6] }
     let s := collBase j
     let f := ctlFlit 3 ([2, 0, 0, 0, 1] ++ List.replicate 15 0 ++ [3])
     f.ctype = 3 ∧ s.opOf f = some (theColl s, j) ∧ s.collJob 1 = some (theColl s, j) ∧ f.acc = (3, false, false) ∧
      (run .normUp (boxed s f)).works.map (fun w => match w.job with | .coll k => (k.acc, k.heard) | _ => (0, [])) =
        [(3, [5])]) ∧
    (let j := { cj with started := true, parent := some 5 }
     let s := collBase j
     let f := ctlFlit 4 ([2, 0, 0, 0, 1] ++ List.replicate 15 0 ++ [3])
     s.opOf f = some (theColl s, j) ∧ j.formed = none ∧
      (run .normDown (boxed s f)).works.map (fun w => match w.job with | .coll k => k.formed | _ => none) = [some 3]) ∧
    (let f := ctlFlit 5 [0, 0, 0, 0]
     let x : TxFlow := { num := 3, dest := 5, vc := 2, kind := 2, work := some 1 }
     let s : State := { collBase cj with coll := { base.coll with tx := [x] } }
     s.coll.tx.find? (fun x => x.num = f.flow && x.dest = f.src && x.vc = 2) = some x ∧
      ((run .refuse (boxed s f)).ctx 0).st = .stopped) := by decide +kernel

/-- A record that has reached this node from node 5 for partition 1. -/
def recv (s : State) (b : List Byte) : State :=
  { s with coll := { s.coll with rx := [{ src := 5, num := 3, vc := 3, frame := 65536, part := 1, bytes := b }] } }
/-- The record that is taken, and the state then. -/
def tk (s : State) (type : Nat) : Option (KRec × State) := (s.kTake type).2.map (fun r => (r, (s.kTake type).1))
def armed (x : KGroup) : State := base.setKgroup 0 { x with shard := 9 }
def rec8 (type commit : Nat) : List Byte := kRecord type 0 commit (leBytes 8 9)

def ck : Ckpt := { commit := 4, stream := 7, base := none, flipped := true, header := List.replicate 128 0 }
def sweeping : State :=
  (armed { ({} : KGroup) with ckpt := some ck }).setKpart 1 { ({} : KPart) with stage := (0, 0x4000000), streams := [{ id := 7, sg := 0, host := true, dest := 0 }] }

theorem witness_KiteRecords_seal :
    sweeping.partOfSg 0 = some 1 ∧ (sweeping.kgroup 0).ckpt = some ck ∧ ck.swept = (tableRows (sweeping.kgroup 0).table).length ∧
    (sweeping.kpart 1).room 184 = true ∧ (sweeping.kDigest 0 4 ck.header).isSome = true ∧
    ((run (.sweepComplete 0) sweeping).kgroup 0).sealed_ = 4 ∧ ((run (.sweepComplete 0) sweeping).kgroup 0).waits.map (·.commit) = [4] := by
  decide +kernel

def sealedState (ack buddy : Bool) : State := armed { ({} : KGroup) with waits := [⟨4, 0, 0, ack, buddy, false⟩], durable := 2 }

theorem witness_KiteRecords_acks :
    (tk (recv (sealedState false false) (rec8 0x10 4)) 0x10).map (fun x => (x.1.commit, x.1.part, x.2.kShard 1 9)) =
      some (4, 1, some 0) ∧
    ((run .ack (recv (sealedState false false) (rec8 0x10 4))).kgroup 0).durable = 4 ∧
    (let s := (sealedState false false).setCfg .kite 1 0x104 0x8005
     bit (s.cfg .kite 1 0x104) 15 = true ∧ ((run .ack (recv s (rec8 0x10 4))).kgroup 0).durable = 2 ∧
      ((run .buddyAck (recv (run .ack (recv s (rec8 0x10 4))) (kRecord 0x21 0 4 (leBytes 8 9 ++ leBytes 8 0)))).kgroup 0).durable
        = 4) ∧
    (let s := sealedState false false
     let t := { s with now := 800000 * field (s.cfg .kite 1 0x10C) 31 16 }
     ((run (.storeTimeout 0) t).kgroup 0).base = some 2 ∧ ((run (.storeTimeout 0) t).source (srcKey .kite 1)).lastCode = 0x7002) ∧
    ((run .buddyAck (recv (sealedState false false) (kRecord 0x21 0 4 (leBytes 8 9 ++ leBytes 8 1)))).source
      (srcKey .kite 1)).lastCode = 0x7003 := by decide +kernel

theorem witness_KiteRecords_buddies :
    buddyPut [] 5 1 9 4 [1] = some [⟨5, 1, 9, [(4, [1])]⟩] ∧
    buddyPut (List.replicate 256 ⟨6, 1, 9, []⟩) 5 1 9 4 [1] = none ∧
    (holdEntry ((List.range 8).map (fun i => (i, []))) 8 [1]).map (·.1) = [1, 2, 3, 4, 5, 6, 7, 8] ∧
    (run .buddyPut (recv base (kRecord 0x20 0 4 (leBytes 8 9 ++ List.replicate 32 1)))).buddies =
      [⟨5, 1, 9, [(4, List.replicate 32 1)]⟩] := by decide +kernel

def restoring (st : Nat) (host : Bool) : State :=
  (armed {}).setKpart 1 { ({} : KPart) with restore := { state := st, sg := 0, commit := 4, host := host, peer := 5, v := List.replicate 32 7 } }

/-- An MTA-7120-L with host-fed group 0, whose partition 1 has bytes of the host in its staging ring at 0x4000000. -/
def feeding (f : Option Feed) (b : List Byte) : State :=
  let s : State := { armed { ({} : KGroup) with feed := f } with variant := .l7120 }
  ((s.setSg 0 { ready := true, commit := 4 }).setKpart 1 { ({} : KPart) with stage := (0x4000000, 0x4000000), fed := b.length }).devWrite
    kiteWrites 0x4000000 b

def restAfter (c : Instr) (s : State) : Nat × Nat := (((run c s).kpart 1).restore.state, ((run c s).kpart 1).restore.result)

theorem witness_KiteRecords_streams :
    (let s := recv (restoring 2 false) (kRecord 0x01 0 4 (List.replicate 24 0))
     (tk s 0x01).map (fun x => x.2.kRestores x.1) = some true) ∧
    (let s := feeding none (kRecord 0x01 0 4 (List.replicate 24 0))
     (tk s 0x01).map (fun x => (x.2.kRestores x.1, x.2.kIsFeed x.1)) = some (false, true) ∧
      ((run .openRecord s).kgroup 0).feed = some { commit := 4, drop := true } ∧ (run .openRecord s).counter .kite 1 0x818 = 1) ∧
    (let s := recv (restoring 2 false) (kRecord 0x02 0 4 (List.replicate 8 0))
     (tk s 0x02).map (fun x => x.2.kRestores x.1) = some true ∧ (run .rowRecord s).counter .kite 1 0x818 = 1) ∧
    (let s := recv base (kRecord 0x02 0 4 (List.replicate 8 0))
     (tk s 0x02).map (fun x => (x.2.kRestores x.1, x.2.kIsFeed x.1)) = some (false, false) ∧
      (run .rowRecord s).counter .kite 1 0x818 = 1) ∧
    (let s := feeding (some { commit := 5 }) (kRecord 0x02 0 5 (List.replicate 8 0))
     (tk s 0x02).map (fun x => (x.2.kRestores x.1, x.2.kIsFeed x.1)) = some (false, true)) ∧
    restAfter .sealRecord (recv (restoring 2 false) (kRecord 0x03 0 4 (List.replicate 168 0))) = (3, 0) ∧
    (let s := feeding (some { commit := 5, count := 1 }) (kRecord 0x03 0 5 (List.replicate 168 0))
     (tk s 0x03).map (fun x => (x.2.kRestores x.1, x.2.kIsFeed x.1)) = some (false, true) ∧
      ((run .sealRecord s).sg 0).commit = 5 ∧ ((run .sealRecord s).sg 0).second = true ∧
      ((run .sealRecord s).kgroup 0).feed = none) := by decide +kernel

theorem witness_KiteRecords_ends :
    (let s := feeding (some { commit := 5, count := 1 }) (kRecord 0x04 0 5 [])
     (tk s 0x04).map (fun x => (x.2.kRestores x.1, x.2.kIsFeed x.1)) = some (false, true) ∧
      ((run .abortRecord s).kgroup 0).feed = none) ∧
    (let s := recv (restoring 2 false) (kRecord 0x04 0 4 [])
     (tk s 0x04).map (fun x => (x.2.kRestores x.1, x.2.kIsFeed x.1)) = some (true, false) ∧ restAfter .abortRecord s = (2, 0)) ∧
    (tk (recv base (rec8 0x11 4)) 0x11).isSome = true := by decide +kernel

theorem witness_KiteRecords_replicas :
    (let s := recv ((armed {}).setSg 0 { ready := true, commit := 4 }) (rec8 0x30 4)
     ((tk s 0x30).map (fun x => (x.2.replAnswer 1 9 4).1)) = some 0 ∧ (s.replAnswer 1 8 4).1 = 2 ∧
      (s.replAnswer 1 9 5).1 = 1 ∧ (run .replReq s).coll.tx.map (fun f => (f.dest, f.vc)) = [(5, 3)]) ∧
    (let ans := fun (st v : Nat) => kRecord 0x31 0 4 (leBytes 8 9 ++ leBytes 8 st ++ leBytes 8 4 ++ List.replicate 32 (BitVec.ofNat 8 v))
     restAfter .replAns (recv (restoring 5 false) (ans 0 7)) = (6, 0) ∧
      restAfter .replAns (recv (restoring 5 false) (ans 0 8)) = (7, 3) ∧
      restAfter .replAns (recv (restoring 5 false) (ans 1 0)) = (4, 4) ∧
      restAfter .replAns (recv (restoring 5 false) (ans 2 0)) = (4, 5)) := by decide +kernel

/-- A header of commit 4 of shard 9 with an empty table, and, to skew the RNG, MODE 1 with RATE_0 1, CURSOR 6, POS_0 0. -/
def head4 (skew : Bool) : List Byte :=
  let h := overlay (overlay (overlay (List.replicate 128 0) 0 (leBytes 8 9)) 8 (leBytes 8 4)) 16 [8]
  if skew then overlay (overlay (overlay h 32 [6]) 48 [1]) 88 [1] else h
def checking (h d : List Byte) : State :=
  let s := restoring 3 false
  s.setKpart 1 { s.kpart 1 with restore := { (s.kpart 1).restore with header := h, digest := d } }

theorem witness_KiteRecords_restores :
    restAfter (.restoreClearDone 1) (restoring 1 true) = (2, 0) ∧ restAfter (.restoreClearDone 1) (restoring 1 false) = (2, 0) ∧
    restAfter (.restoreCheckDone 1) (checking (head4 false) (sha256 (head4 true))) = (7, 1) ∧
    (snapOf (head4 true)).skew = true ∧ (snapOf (head4 true)).moved = [6, 0, 0, 0] ∧ (snapOf (head4 false)).skew = false ∧
    (let s := checking (head4 true) (sha256 (head4 true))
     s.restoreBad 1 (s.kpart 1).restore = false ∧ bit (s.cfg .kite 1 0x108) 0 = false ∧
      restAfter (.restoreCheckDone 1) s = (7, 2) ∧
      restAfter (.restoreCheckDone 1) (s.setCfg .kite 1 0x108 1) = (4, 0) ∧
      ((run (.restoreCheckDone 1) (s.setCfg .kite 1 0x108 1)).kpart 1).pos = [6, 0, 0, 0]) := by decide +kernel

/-- The management core's KITE and RNG pages act for partition 1. -/
def kp : State := selPup 1 []
def kArg (ws : List Word) (s : State) : State := State.withD s 32 .glob .kite ws
def wrK (s : State) (n len : Nat) (ws : List Word) : Bool :=
  decide ((kArg ws s).asks (rq 2 (BitVec.ofNat 4 len)) .kite (wrItem n len) 1 true (ws ++ List.replicate (len - ws.length) 0))
def rwK (s : State) (n len : Nat) (ws : List Word) : Bool :=
  decide ((kArg ws s).asks (rq 2 (BitVec.ofNat 4 len)) .kite (rwItem n len) 1 true (ws ++ List.replicate (len - ws.length) 0))
def rdK (s : State) (i : Item) (len : Nat) : Bool :=
  decide (s.asks (rq 1 (BitVec.ofNat 4 len)) .kite i 1 false (List.replicate len 0))

theorem witness_KiteItems :
    rdK kp (rwItem 1 4) 4 ∧ rwK kp 1 4 [0, 0, 0x4000000, 0] ∧ kp.kOpenWork 1 = false ∧
    kp.stageOk 1 0 0x4000000 = true ∧ kp.stageOk 1 0x1000 0x4000000 = false ∧
    rwK kp 2 6 [0x1000, 0, 0x10000, 0, 0x80000001] ∧ ringWordsOk [0x1000, 0, 0x10000, 0, 0x80000001, 0] = true ∧
    rdK kp (rwItem 2 6) 6 ∧ wrK kp 3 2 [5] ∧ (kp.kpart 1).streams = [] ∧ wrK kp 4 4 [9, 0, 4, 0] ∧ wrK kp 5 2 [64] ∧
    wrK kp 0x32 2 [64] := by decide +kernel

theorem witness_KiteItems_more :
    rwK kp 0x10 1 [1] ∧ wrK kp 0x15 8 [7] ∧ wrK kp 0x17 1 [5] ∧ wrK kp 0x20 6 [5, 0, 9, 0, 4, 0] ∧
    rdK kp (rdItem 0x21 8) 8 ∧ kp.buddies.find? (kp.buddyKey (rq 1 8) 1) = none ∧ wrK kp 0x22 1 [0] ∧
    (let s : State := { kp.setArg 32 .kite 0x20 1 [5, 0, 9, 0, 4, 0] with buddies := [⟨5, 1, 9, [(4, List.replicate 32 3)]⟩] }
     rdK s (rdItem 0x21 8) 8 ∧ s.buddies.find? (s.buddyKey (rq 1 8) 1) = some ⟨5, 1, 9, [(4, List.replicate 32 3)]⟩ ∧
      ((run (.buddyGet (rq 1 8)) s).copyOf 32 .glob .kite).result = (errDone, List.replicate 8 0x03030303)) := by
  decide +kernel

theorem witness_KiteItems_replica :
    (let s := kp.setKpart 1 { ({} : KPart) with restore := { state := 4, sg := 0, commit := 4 } }
     wrK s 0x17 1 [5] ∧ (s.sg 0).wcStale = false ∧ restAfter (.replica (rq 2 1)) (kArg [5] s) = (5, 0)) := by decide +kernel

theorem witness_KiteItems_groups :
    kp.kSel (rq 2 6) 1 = some 0 ∧ (kp.setArg 32 .kite 0x10 1 [2]).kSel (rq 1 4) 1 = none ∧
    rdK (kp.setArg 32 .kite 0x10 1 [2]) (rdItem 0x13 4) 4 ∧ (kp.setArg 32 .kite 0x10 1 [1]).kSel (rq 1 4) 1 = some 1 ∧
    rdK kp (rwItem 0x11 6) 6 ∧ rwK kp 0x11 6 [0, 0, 0, 0, 9, 0] ∧ rwK kp 0x11 6 [0x1000, 0, 1, 0, 9, 0] ∧
    rdK kp (rwItem 0x12 4) 4 ∧ rwK kp 0x12 4 [4, 0, 1, 0] ∧ rdK kp (rdItem 0x13 4) 4 ∧ rdK kp (rdItem 0x14 8) 8 ∧
    wrK kp 0x16 4 [4, 0, 1, 0] ∧ kp.restoreOk 1 0 1 = false ∧
    (let s := (kp.setKgroup 0 { ({} : KGroup) with shard := 9 }).setSg 0 { recAddr := slow0 }
     s.restoreOk 1 0 1 = true ∧ restAfter (.restore (rq 2 4)) (kArg [4, 0, 1, 0] s) = (1, 0)) ∧
    wrK kp 0x18 1 [0] ∧ rdK kp (rdItem 0x19 6) 6 := by decide +kernel

/-- A table of one tensor: state in the slow tier, 1 row of 32 elements, working copy BF16 at 0x2000. -/
def kEntry : List Byte :=
  overlay (overlay (overlay (overlay (List.replicate 64 0) 0 (leBytes 8 slow0)) 8 (leBytes 8 0x2000)) 24 [1]) 28 [32]

theorem witness_KiteItems_table :
    (let s := ((kp.setCfg .puppeteer 1 0x11C (place 1 16)).setCfg .puppeteer 1 0x118 (place 1 16)).devWrite kiteWrites 0x1000 kEntry
     s.kTableOf 1 0 0x1000 1 = some [⟨slow0, 0x2000, 0, 1, 32, .bf16, false⟩]) := by decide +kernel

def kpHost : State := { kp with variant := .l7120 }

theorem witness_KiteItems_hostFed :
    kpHost.hostFed = true ∧ kpHost.kSel (rq 2 2) 1 = some 0 ∧ kpHost.kGroupOpen 1 0 = false ∧ kpHost.krecOk 1 0x1000 = true ∧
    rwK kpHost 0x30 2 [0x1000] ∧ rdK kpHost (rwItem 0x30 2) 2 ∧ wrK kpHost 0x31 6 [1] ∧
    (kpHost.setSg 0 { recAddr := 0x1000 }).hostFed = true ∧ rwK kpHost 0x33 1 [1] ∧ rdK kpHost (rwItem 0x33 1) 1 ∧
    wrK kpHost 0x32 2 [64] := by decide +kernel

def rgAsk (s : State) (len : Nat) (wr : Bool) (i : Item) : Bool :=
  decide (s.asks (rq (if wr then 2 else 1) (BitVec.ofNat 4 len)) .rng i 1 wr (List.replicate len 0))

theorem witness_KiteItems_registers :
    kp.reaches 32 .glob .kite 1 0x100 ∧ kp.reaches 32 .glob .kite 1 0x300 ∧
    (run (.kiteCfgWrite 32 .glob 0xE0000005) kp).cfg .kite 1 0x100 = 0x80000005 ∧
    rgAsk kp 2 true (rwItem 1 2) ∧ rgAsk kp 2 false (rwItem 1 2) ∧ rgAsk kp 2 true (rwItem 2 2) ∧
    rgAsk kp 2 false (rwItem 2 2) ∧ rgAsk kp 2 true (rwItem 0x13 2) ∧ rgAsk kp 2 false (rwItem 0x13 2) ∧
    rgAsk kp 8 false (rdItem 0x20 8) ∧ rgAsk kp 2 false (rdItem 0x21 2) := by decide +kernel

theorem witness_KiteItems_adapt :
    (let s := kp.setKgroup 0 { ({} : KGroup) with costs := [1600, 1600], interval := 9 }
     (s.kgroup 0).costs ≠ [] ∧ ((run (.adapt (rq 1 6)) s).copyOf 32 .glob .kite).result = (errDone, [2, 0, 2592000, 0, 9, 0])) ∧
    (kp.kpart 1).restore.state ≠ 4 ∧ (kp.kgroup 0).ckpt = none ∧ (kp.kgroup 0).feed = none ∧ bit (0x10000000 : Word) 28 = true ∧
    (tk (recv base (kRecord 0x01 0 4 (List.replicate 24 0))) 0x01).isSome = true := by decide +kernel


/-- Every narrow path is in hold, so that no stack can be read at once. -/
def noReads (s : State) : State :=
  { s with regs := { s.regs with found := s.regs.found ++ (List.range 12).map (fun d => (regKey .narrow d 0x100, true)) } }
def tab1 : List KTensor := [⟨0x4000, 0x2000, 0, 1, 32, .bf16, false⟩]
def onHost (s : State) : State := { s with variant := .l7120 }

theorem witness_KiteRecords_sweeps :
    (let c : Ckpt := { ck with digest := some [7] }
     let s := sweeping.setKgroup 0 { sweeping.kgroup 0 with ckpt := some c }
     c.digest = some [7] ∧ ((run (.sweepComplete 0) s).kgroup 0).digest = [7] ∧ ((run (.sweepComplete 0) s).kgroup 0).sealed_ = 4 ∧
      (let t := s.setKpart 1 { s.kpart 1 with stage := (0, 0) }
       (t.kpart 1).room 184 = false ∧ ((run (.sweepComplete 0) t).kgroup 0).ckpt = some c)) ∧
    ck.digest = none ∧ (sweeping.kSeen (sweeping.kDigestRanges 0 4)).isSome = true ∧
    (let c : Ckpt := { ck with swept := 1 }
     let s := noReads (onHost (sweeping.setKgroup 0 { sweeping.kgroup 0 with ckpt := some c, table := tab1 }))
     s.partOfSg 0 = some 1 ∧ c.swept = (tableRows (s.kgroup 0).table).length ∧
      (s.kSeen (s.kDigestRanges 0 c.commit)).isNone = true ∧ ((run (.sweepComplete 0) s).kgroup 0).ckpt = some c) := by
  decide +kernel

/-- Of a host restore in RECEIVING beside the host's feeds: its OPEN, and a ROW of a feed that is open. -/
theorem witness_KiteRecords_shared :
    (let s0 := feeding none (kRecord 0x01 1 4 (leBytes 8 9 ++ List.replicate 16 0))
     let s := s0.setKpart 1 { s0.kpart 1 with restore := { state := 2, sg := 0, commit := 4, host := true } }
     (tk s 0x01).map (fun x => (x.2.hostFed, x.1.fromHost, x.2.kOpensRestore 1 x.1.commit (leAt x.1.body 0 8))) =
        some (true, true, true) ∧ ((run .openRecord s).kpart 1).restore.num = some 1) ∧
    (let s := feeding (some { commit := 5 }) (kRecord 0x02 0 5 (List.replicate 392 0))
     let t := s.setKgroup 0 { s.kgroup 0 with table := tab1 }
     (tk t 0x02).map (fun x => (x.2.kRestores x.1, x.2.kIsFeed x.1, (x.2.kFeedRow x.1).isSome)) = some (false, true, true) ∧
      ((run .rowRecord t).kgroup 0).feed = some { commit := 5, count := 1, tags := [0x4008] } ∧
      (run .rowRecord t).devRead 0x4008 8 = [5, 0, 0, 0, 0, 0, 0, 0] ∧
      (tk t 0x02).map (fun x => ((noReads x.2).kFeedRow x.1).isNone) = some true) ∧
    (let s := feeding (some { commit := 5, count := 1, tags := [0x4000] }) (kRecord 0x04 0 5 [])
     (run .abortRecord s).devRead 0x4000 9 = List.replicate 8 0xFF ++ [0]) ∧
    (let s := feeding (some { commit := 5, count := 1 }) (kRecord 0x03 0 5 (List.replicate 168 0))
     let t := s.setKgroup 0 { s.kgroup 0 with table := tab1 }
     (tk t 0x03).map (fun x => (x.2.kFeedSeal x.1).isSome) = some true ∧
      (tk t 0x03).map (fun x => ((noReads x.2).kFeedSeal x.1).isNone) = some true) := by decide +kernel

/-- What waits: an answer whose copies cannot be read, a restore written in hold, and a check that cannot read. -/
theorem witness_KiteRecords_waits :
    (let s := noReads ((recv ((armed { ({} : KGroup) with table := tab1 }).setSg 0 { ready := true, commit := 4 }) (rec8 0x30 4)))
     (tk s 0x30).map (fun x => ((x.2.replAnswer 1 9 4).1, (x.2.kSeen (x.2.kCopyRanges 0)).isNone)) = some (0, true) ∧
      (run .replReq s).coll.tx = []) ∧
    (let s := recv ((armed {}).setSg 0 { ready := true, commit := 4 }) (rec8 0x30 4)
     (tk s 0x30).map (fun x => (x.2.kSeen (x.2.kCopyRanges 0)).isSome) = some true) ∧
    (let s := { restoring 1 true with regs := { (restoring 1 true).regs with found := [(regKey .kite 1 0x100, true)] } }
     (s.kpart 1).restore.begun = false ∧ s.inHold .kite 1 = true ∧ restAfter (.restoreClearDone 1) s = (1, 0) ∧
      (restoring 1 true).inHold .kite 1 = false ∧
      restAfter (.restoreClearDone 1) (s.setRestore 1 (fun x => { x with begun := true })) = (2, 0)) ∧
    (let s := checking (head4 false) []
     let t := noReads (onHost (s.setKgroup 0 { s.kgroup 0 with table := tab1 }))
     (s.kSeen (s.kDigestRanges 0 4)).isSome = true ∧ (t.kSeen (t.kDigestRanges 0 4)).isNone = true ∧
      restAfter (.restoreCheckDone 1) t = (3, 0)) := by decide +kernel

theorem witness_KiteItems_waits :
    (let s := (((kp.setKgroup 0 { ({} : KGroup) with shard := 9, table := tab1 }).setKpart 1 { ({} : KPart) with
       restore := { state := 4, sg := 0, commit := 4 } }))
     (s.kSeen (s.kCopyRanges 0)).isSome = true ∧ ((noReads s).kSeen (s.kCopyRanges 0)).isNone = true ∧
      wrK (noReads s) 0x17 1 [5] ∧
      ((run (.replica (rq 2 1)) (kArg [5] (noReads s))).copyOf 32 .glob .kite).todo = some [1, 5]) ∧
    (kp.kSeen [(0x1000, 64)]).isSome = true ∧
    (((kpHost.setSg 0 { recAddr := 0x1000 }).loadRecord 0).isSome = true) := by decide +kernel

def inPhase (n : Nat) : State := { up with power := { up.power with phase := n } }
def meas (w c : Nat) : PowerMeas :=
  { avgW := BitVec.ofNat 12 w, computeW := BitVec.ofNat 12 w, junction := 40, coolant := BitVec.ofNat 8 c
    temps := List.replicate 12 50, inputW := 500, vinDv := 540, windowW := 501, memDies := List.replicate 4 51, ioDie := 52
    narog := 53 }
def quietFor (n : Nat) : State := { up with govLevel := 8, power := { up.power with quiet := n } }

theorem witness_PowerAndBoot_supply :
    (480 ≤ (480 : BitVec 12).toNat ∧ (580 : BitVec 12).toNat ≤ 580) ∧
    (let low : State := { up with power := { up.power with low := true } }
     (run (.vinApplied ⟨480, 7⟩) low).power.low = false ∧ run (.vinApplied ⟨479, 7⟩) low = low) ∧
    (run (.vinApplied ⟨580, 7⟩) State.reset).power.standby = true ∧ (run (.vinApplied ⟨580, 7⟩) State.reset).power.slotId = 7 ∧
    (run .firmwareVerified (run (.vinApplied ⟨540, 7⟩) State.reset)).sec.recovery = true ∧
    (run .pwrEnDeassert base).ready = false ∧ (run .pwrEnDeassert base).power.standby = true ∧
    (let s : State := { up with power := { up.power with rails := false, pwrEn := true }, sec := { up.sec with slotRun := some false } }
     (run .railsUp s).out = [.pin "PWR_GOOD" true]) ∧
    up.power.low = false ∧ bit ((run .supplyLow up).sq .power 0 0x800) 21 = true ∧ (run .supplyLoss up).power.rails = false := by
  decide +kernel

theorem witness_PowerAndBoot_phases :
    (let s : State := { up with power := { up.power with perst := true, phase := 0 } }
     (run .perstDeassert s).power.phase = 1) ∧
    (run .perstAssert up).power.phase = 0 ∧ (run .perstAssert up).power.kind = 1 ∧ (run .perstAssert up).sec.next = 0 ∧
    (run .clocksDone (inPhase 1)).power.phase = 2 ∧ (run .memoryDone (inPhase 2)).power.phase = 3 ∧
    (let t := run (.selftestDone ⟨[383], [383, 4], [5], false⟩) (inPhase 3)
     t.power.coreFail = [383] ∧ bit (t.cfg .array 4 0x100) 0 = true ∧ bit (t.cfg .array 383 0x100) 0 = false ∧
      bit (t.cfg .array 5 0x100) 1 = true ∧ ((run .bootClearDone t).source (srcKey .clkrst 0)).lastCode = 0x2004) ∧
    (run .bootClearDone (inPhase 4)).ready = true ∧ (inPhase 4).power.failed = false := by decide +kernel

theorem witness_PowerAndBoot_limits :
    up.power.phase ≠ 0 ∧ ((quietFor 0).takeReadings (meas 4095 30)).limited (meas 4095 30) = true ∧
    (run (.governorWindow (meas 4095 30)) (quietFor 0)).govLevel = 7 ∧
    ((quietFor 9).takeReadings (meas 100 30)).limited (meas 100 30) = false ∧
    (run (.governorWindow (meas 100 30)) (quietFor 9)).govLevel = 9 ∧
    (run (.governorWindow (meas 100 30)) (quietFor 8)).power.quiet = 9 ∧
    (let limit := BitVec.ofNat 8 (field (up.cfg .power 0 0x104) 7 0)
     ((run (.thermWarn limit 45) up).source (srcKey .power 0)).num = 1 ∧
      (run (.thermWarn (limit - 1) 45) up).power.warm = (false, false)) ∧
    up.power.hot = false ∧ (run (.thermalTrip 110 0) up).power.trip = true ∧ run (.thermalTrip 109 104) up = up ∧
    (run (.thermalTripRelease 94 84) (run (.thermalTrip 0 105) up)).power.phase = 1 := by decide +kernel

theorem witness_PowerAndBoot_clocks :
    up.power.stalls.contains (2, 3, 511) = false ∧ field ((run (.crossingStall 2 3 511) up).sq .clkrst 0 0x804) 12 4 = 511 ∧
    (run (.pllUnlock 8 0 0) up).power.unlocked = [⟨8, 0, 0, 0, false⟩] ∧
    (let s := { run (.pllUnlock 8 0 0) up with now := 800000 }
     (run (.relockTimeout ⟨8, 0⟩) s).power.unlocked = [⟨8, 0, 0, 0, true⟩] ∧ (run (.pllRelock ⟨8, 0⟩) s).power.unlocked = []) ∧
    (run (.clockResume ⟨2, 0⟩) (run (.crossingStall 2 3 511) up)).power.stalls = [] := by decide +kernel

/-- The PLLs of HCLK of two stacks are out of lock, each with a CLK_STALL of its own; one locks again. -/
theorem test_two_stacks :
    (let s := run (.pllUnlock 3 2 1) { run (.pllUnlock 3 2 0) up with now := 50 }
     s.power.unlocked = [⟨3, 2, 0, 0, false⟩, ⟨3, 2, 1, 50, false⟩] ∧ (s.source (srcKey .clkrst 0)).num = 2 ∧
      (run (.pllRelock ⟨3, 0⟩) s).power.unlocked = [⟨3, 2, 1, 50, false⟩]) := by decide +kernel

theorem witness_ResetsAndCounters :
    (wr .clkrst [0x400000] up).asks (rq 2 1) .clkrst (wrItem 1 1) 0 true [0x400000] ∧ up.blockOf 0x400000 = some (.core, 0) ∧
    up.blockOf 0x400180 = none ∧ up.blockOf 0x54001F = some (.dma, 31) ∧ up.blockOf 0x200005 = some (.ulink, 5) ∧
    up.inReset .core 0 = false ∧ (run (.blockRst (rq 2 1)) (wr .clkrst [0x400000] up)).inReset .sparse 0 = true ∧
    up.coreCtx 383 = none ∧ (up.resetCore 383).inReset .stall 383 = true ∧ ((up.resetUlink 5).port 5).st = .off ∧
    (run (.blockResetComplete .core 0) (up.resetCore 0)).inReset .stall 0 = false ∧
    (wr .clkrst [0xAA55] up).asks (rq 2 1) .clkrst (wrItem 2 1) 0 true [0xAA55] ∧
    (run (.moduleReset (rq 2 1)) (wr .clkrst [0xAA55] up)).power.kind = 2 ∧
    (run .moduleResetRelease (run (.moduleReset (rq 2 1)) (wr .clkrst [0xAA55] up))).power.phase = 1 := by decide +kernel

def rdOk (b : Block) (n len : Nat) : Bool :=
  decide (up.asks (rq 1 (BitVec.ofNat 4 len)) b (rdItem n len) 0 false (List.replicate len 0))

theorem witness_ResetsAndCounters_items :
    rdOk .clkrst 3 8 ∧ rdOk .clkrst 4 4 ∧ rdOk .clkrst 5 2 ∧ rdOk .array 1 2 ∧ rdOk .array 2 2 ∧ rdOk .stall 0x14F 2 ∧
    rdOk .sparse 1 2 ∧ rdOk .marble 1 2 ∧
    (let s : State := { up with power := { up.power with coreFail := [383] } }
     ((run (.coreFailHi (rq 1 4)) s).copyOf 32 .glob .clkrst).result = (errDone, [0, 0, 0, 0x80000000])) := by decide +kernel

def secArg (n len : Nat) (ws : List Word) : Bool :=
  decide ((wr .sec ws up).asks (rq 2 (BitVec.ofNat 4 len)) .sec (wrItem n len) 0 true (ws ++ List.replicate (len - ws.length) 0))

theorem witness_FirmwareAndIdentity_items :
    secArg 0x10 4 [0x1000] ∧ isStack up.variant 0x1000 = true ∧ up.sec.loading = none ∧
    (run (.fwLoad (rq 2 4)) (wr .sec [0x1000, 0, 64] up)).sec.loading.map (·.2) = some false ∧ rdOk .sec 0x11 8 ∧
    secArg 0x12 1 [0x5AA5] ∧ rdOk .sec 1 4 ∧ rdOk .sec 2 2 ∧ secArg 3 1 [16] ∧ rdOk .sec 4 8 ∧
    (up.measurement 47).isSome = true ∧ up.measurement 48 = none ∧ up.measurement 15 = none := by decide +kernel

theorem witness_FirmwareAndIdentity_load :
    (let s : State := { up with sec := { up.sec with loading := some ([9], false), slotRun := some true } }
     (run .fwLoadComplete s).sec = { s.sec with loading := none } ∧
      ((run .fwLoadComplete s).source (srcKey .sec 0)).lastCode = 0x8001) ∧
    (let s : State := { up with sec := { up.sec with loading := some ([9], true), slotRun := some true } }
     (run .fwLoadComplete s).sec.slotA = [9] ∧ (run .fwLoadComplete s).sec.validA = true) ∧
    (let s : State := { up with sec := { up.sec with loading := some ([9], true), slotRun := some false } }
     (run .fwLoadComplete s).sec.slotB = [9] ∧ (run .fwLoadComplete s).sec.validB = true) ∧
    (let s : State := { up with sec := { up.sec with recovery := true } }
     let h : RecoverHead := ⟨.mctp 0x7E .motetas, 0x1201, 3⟩
     s.power.standby = true ∧ 3 + 2 ≤ imgMax ∧
     (run (.fwRecover h [1, 2]) s).sec.slotA = [0, 0, 0, 1, 2] ∧ (run (.fwRecover h [1, 2]) s).sec.recovery = true) ∧
    (let s := wr .sec [0x1000, 0, 64] up
     let t := { s with regs := { s.regs with found := [(regKey .narrow 0 0x100, true)] } }
     (s.agentRead false 0x1000 64).isSome = true ∧ (t.agentRead false 0x1000 64).isNone = true ∧
      ((run (.fwLoad (rq 2 4)) t).copyOf 32 .glob .sec).todo = some [0x1000, 64]) ∧
    (let s : State := { up with sec := { up.sec with image := (List.range 64).map (fun i => if i = 8 then 5 else 0) } }
     s.sec.loading = none ∧ imgSvn s.sec.image ≤ 64) := by
  decide +kernel

/-- A GET_MEASUREMENTS of partition 0's grants. -/
def measReq : List Byte := overlay (overlay (List.replicate 48 0) 0 [1, 0x10]) 36 (leBytes 8 (2 ^ 16))

theorem witness_FirmwareAndIdentity_messages :
    up.secHears viaDoe = true ∧ measRequestOk measReq = true ∧ measRequestOk [] = false ∧ up.sec.busy viaDoe = false ∧
    up.sec.left ≠ 0 ∧
    (let a := run (.getMeasurements viaDoe measReq) up
     a.sec.queue.map (fun q => (q.via, q.blocks.take 4, q.blocks.length)) = [(viaDoe, [16, 0, 0, 0], 36)] ∧
      a.sec.busy viaDoe = true ∧ a.sec.limit ≤ a.sec.next ∧ a.sec.next < signTotal ∧
      (run .signatureRelease a).sec.queue.length = 1 ∧ (run .reservationWriteDone a).sec.copy1 = ResvCopy.of 1024 ∧
      a.sec.loaded = false) ∧
    (let s := run .reservationWriteDone (run (.getMeasurements viaDoe measReq) up)
     s.sec.next < s.sec.limit ∧ s.sec.next / 2 ^ 20 ≤ s.sec.tree ∧ (run .signatureRelease s).sec.next = 1 ∧
      (run .signatureRelease s).sec.queue = []) := by decide +kernel

theorem witness_FirmwareAndIdentity_others :
    (let s : State := { up with sec := { up.sec with next := 2 ^ 19 } }
     s.sec.tree = s.sec.next / 2 ^ 20 ∧ 2 ^ 19 ≤ s.sec.next % 2 ^ 20 ∧ (run .treeBuildDone s).sec.tree = 1) ∧
    (let s : State := { up with sec := { up.sec with next := 2 ^ 21 } }
     s.sec.tree < s.sec.next / 2 ^ 20 ∧ (run .treeBuildDone s).sec.tree = 2) ∧
    up.pci.ide = [] ∧ up.ideRoom ⟨true, 255⟩ = true ∧ Tab.get [] (run (.ideKmMessage ⟨true, 255⟩ [1]) up).pci.ide 511 = [1] ∧
    (run (.ideKmMessage ⟨false, 255⟩ [1]) up).ideRoom ⟨false, 0⟩ = false ∧
    (run (.ideKmMessage ⟨false, 255⟩ [1]) up).ideRoom ⟨false, 255⟩ = true ∧ (0x85 : Byte).getLsbD 7 = true ∧
    (let s : State := { up with sec := { up.sec with slotRun := some false } }
     (run (.mctpControlMessage [0, 0x85, 1, 0, 9]) s).out = [.mctpControl [0, 5, 1, 0, 0, 9, 0]]) := by decide +kernel

/-- A restart loads the greater of two valid copies, or the valid one; a write that was cut may have torn its copy. -/
theorem witness_FirmwareAndIdentity_copies :
    (let c : SecState := { up.sec with copy0 := ResvCopy.of 2048, copy1 := ResvCopy.of 1024 }
     c.reserving = false ∧ c.copy0.valid = true ∧ c.copy1.valid = true ∧ (c.reload 0 0).next = 2048 ∧
      (c.powerOn 0 0).tree = 0 ∧
      ({ c with copy0 := ⟨2048, 0⟩ }.reload 0 0).next = 1024 ∧ (⟨2048, 0⟩ : ResvCopy).valid = false ∧
      ({ c with copy1 := ⟨4096, 0⟩ }.reload 0 0).next = 2048) ∧
    (let a := (run (.getMeasurements viaDoe measReq) up).sec
     a.reserving = true ∧ (if a.loaded then a.copy1 else a.copy0).valid = true) := by decide +kernel

theorem witness_MemoryStaysCanonical :
    (let s := { (base.memWrite 0x1000 [1, 0, 2]) with pending := [.tick] }
     s.memWf = true ∧ s.mem = [(0x1000, 1), (0x1002, 2)]) := by decide +kernel

/-- Each check of well-formedness refuses a command that breaks it. -/
theorem test_ill_formed :
    (Instr.statusWriteBack ⟨32, .bar0 0x22802⟩ 0).wf = false ∧ (Instr.statusWriteBack ⟨32, .bar2 0x22802⟩ 0).wf = false ∧ (Instr.scrubVisit .hbm 0 0x0FC 0).wf = false ∧
    (Instr.scrubVisit .hbm 0 0x800 0).wf = false ∧ (Instr.markerReceive 0 { mark 0 with hops := 64 } 0).wf = false ∧
    (Instr.markerReceive 0 { mark 0 with period := 79999 } 0).wf = false ∧ (Instr.bar4Read 1 0 0).wf = false ∧
    (Instr.bar4Read 1 0 4097).wf = false ∧ (Instr.bar4Write 1 0 []).wf = false ∧ (Instr.doorbellWrite 1 2 0).wf = false ∧
    (Instr.configRequest 0 (.read (.other 2))).wf = false ∧ (Instr.configRequest 0 (.bar4Size true 27)).wf = false ∧
    (Instr.configRequest 0 (.bar4Size true 37)).wf = false ∧ (Instr.configRequest 0 (.linkTrain true 0)).wf = false ∧
    (Instr.configRequest 0 (.other 2 0)).wf = false ∧ (Instr.memFence ⟨0, [], 0, 0⟩ true).wf = false ∧
    (Instr.memFence ⟨0, [0, 0], 0, 0⟩ true).wf = false ∧ (Instr.awr ⟨.dma, none⟩ 0 127 [1, 2]).wf = false ∧
    (Instr.awr ⟨.dma, none⟩ 0 0 []).wf = false ∧ (Instr.aadd .dma 0 .fp32 [(32, 1)]).wf = false ∧ (Instr.aadd .dma 0 .bf16 []).wf = false ∧
    (Instr.narogCfgWrite 1 (.part 1) 0x102 0).wf = false := by decide +kernel

theorem test_ill_formed_more :
    (Instr.flitReceive 0 ⟨0, List.replicate 239 0, 0⟩).wf = false ∧
    (Instr.governorWindow { meas 1 1 with temps := [] }).wf = false ∧ (Instr.crossingStall 3 3 0).wf = false ∧
    (Instr.pllUnlock 3 3 0).wf = false ∧ (Instr.ideKmMessage ⟨true, 0⟩ [1]).wf = false := by decide +kernel

/-- The value of an FP32 code. -/
def fp (w : Word) : Num := Num.ofF32 w

/-- The manual's gradient block of *Number formats*: lanes 470, −300, 0.001, −0.0003 and 3.7, every other lane 2. -/
def gradBlock : List Num :=
  ([0x43EB0000, 0xC3960000, 0x3A83126F, 0xB99D4952, 0x406CCCCD].map fp) ++ List.replicate 27 (fp 0x40000000)

theorem test_block_cast :
    (blockCast .e4m3 false gradBlock).scale = 0x7F ∧ (blockCast .e4m3 false gradBlock).ovf = true ∧
    (blockCast .e4m3 false gradBlock).codes.take 5 = [0x7E, 0xF9, 0x01, 0x80, 0x47] ∧
    (blockCast .e4m3 false gradBlock).counts = ⟨1, 1, 0⟩ ∧ (blockCast .e4m3 true gradBlock).scale = 0x80 ∧
    (blockCast .e4m3 true gradBlock).ovf = true ∧ (blockCast .e4m3 true gradBlock).codes.take 5 = [0x77, 0xF1, 0, 0x80, 0x3F] ∧
    (blockCast .e4m3 true gradBlock).counts = ⟨0, 2, 0⟩ := by decide +kernel

/-- The manual's AdamW group of *Narog*: one element with G 0.5 and w 0x3E99999A after the scalars of step 1. -/
def adamW : State :=
  [(0x104, 7), (0x120, 0x3F600000), (0x124, 0x3E000000), (0x128, 0x3F700000), (0x12C, 0x3D800000), (0x130, 0x35800000),
    (0x134, 0x3A800000), (0x138, 0x3D800000), (0x13C, 0), (0x140, 0x3F800000), (0x144, 0x3F800000)].foldl
    (fun s x => s.setCfg .narogSg 0 x.1 x.2) up

theorem test_adamw :
    adamW.scalars 0 (some 0x3F4F5C29) 0x3F600000 0x3F700000 = ⟨0x3F800000, 0x41000000, 0x41800000⟩ ∧
    adamW.ruleTable 0 ⟨0x3F800000, 0x41000000, 0x41800000⟩ true 0x3F000000 ⟨0x3E99999A, 0, 0⟩ =
      ⟨0x3E991734, 0x3D800000, 0x3C800000⟩ ∧
    (Num.ofF32 0x3E991734).toWide .bf16 = (0x3E99, (Num.ofF32 0x3E991734).toWide .bf16 |>.2) := by decide +kernel

/-- The manual's forecaster: STEP_LAYOUT 0x80000025 and STEP_BASE 1,000,000. -/
theorem test_frame_kinds :
    let s := (base.setCfg .puppeteer 1 0x100 0x80000025).setPart 1 { base.part 1 with stepBase := 1000000 }
    s.kindOf 1 1000050 = .forward ∧ s.stepOf 1 1000050 = 1 ∧ s.kindOf 1 1000077 = .reduce ∧ s.kindOf 1 1000078 = .update ∧
    s.kindOf 1 1000079 = .gather ∧ s.kindOf 1 1000080 = .forward ∧ s.kindOf 1 999999 = .general := by decide +kernel

/-- The manual's launch C: 210,000 cycles into its frame 650,000 do not fit, and in the next frame they do. -/
theorem test_fit :
    let s : State := { up with fr := { up.fr with no := 1000050, cycle := 210000 } }
    s.fits 1000050 650000 = false ∧ s.fits 1000051 650000 = true ∧ s.fits 1000051 798994 = true ∧
    s.fits 1000051 798995 = false := by decide +kernel

/-- The manual's weak column path: CLKRST.SELFTEST reads 0x01804000 after core 137 fails check 3. -/
theorem test_selftest :
    ((run .bootClearDone (run (.selftestDone ⟨[], [], [137], false⟩) (inPhase 3))).readReg 32 .glob .clkrst 0x808).1 =
      0x01804000 := by decide +kernel

/-- The manual's detour of *Urbenlink*: CTL 0x19D at (3, 5, 2), a flit for (3, 6, 2) leaves on Z+ with DET 1 and DDIM Y. -/
theorem test_detour :
    let s := ((torus .up).setPort 2 { ({} : Port) with st := .dead }).setCfg .ulink 2 0x100 0x19D
    let t := s.setPort 4 { ({} : Port) with st := .up }
    let f := dataFlit 0x0CC2 2 []
    t.route none f = .send 4 { f with det := true, ddim := 1 } ∧
    (State.setCfg (State.setCfg t .ulink 0 0x104 0x0CA3) .ulink 2 0x100 1).routePort { f with det := true, ddim := 1 } = some 2 ∧
    (t.setCfg .ulink 0 0x104 0x0CC3).routePort { f with det := true, ddim := 1 } = some 5 := by decide +kernel

/-- The manual's placements: 0x3000400080 is a line of S3, homed on MD1; row 5,000,000 of a table on S4 is too. -/
theorem test_homes :
    homeDie (0x3000400080 / 128) = 1 ∧ homeDie (0x4098968000 / 128) = 1 ∧ (hbmAddr (0x4098968000 / 128)).stack = 4 ∧
    llcSet (0x3000400080 / 128) = 0x4000 := by decide +kernel

/-- The manual's watch entry: 64 closes with CAST and no NZ raise VANISH; its dump record. -/
theorem test_vanish :
    let w : WEntry := { closed := [(2, [0x200000, 0, 0x200000, 0, 0])], zrun := 63, run := 63 }
    w.monitor false 64 = ({ w with zrun := 64, run := 0 }, true) ∧ ({ w with run := 62 }.monitor false 64).2 = false ∧
    dumpRecord 12 2 true false [0x200000, 0, 0x200000, 0, 0] 64 =
      [12, 0, 2, 1, 0, 0, 32, 0, 0, 0, 0, 0, 0, 0, 0, 0, 0, 0, 32, 0, 0, 0, 0, 0, 0, 0, 0, 0, 0, 0, 64, 0] := by decide +kernel

end Sys2Proof.Tests
end

namespace Sys2Proof.Proofs.Scope
open Sys2Proof Sys2Proof.Machine

/-- The branch of `step` with a command in the queue: the command sees the queue without itself. -/
theorem step_of_pending_cons {s : State} {c : Instr} {rest : List Instr} (h : s.pending = c :: rest) :
    step s = exec c { s with pending := rest } := by
  simp only [step, h]

/-- Settles O1: the queue of the state is `c :: rest` by its own update, and the second update of the queue replaces the
first. -/
theorem stepRunsFrontCommand : Obligations.StepRunsFrontCommand := by
  intro c rest s
  exact step_of_pending_cons rfl

end Sys2Proof.Proofs.Scope

namespace Sys2Proof.Machine

/-!
## Memory stays in its canonical form (log 40)

Only the writes of the laws (`State.memWrite_wf`, `State.cohWrite_wf`, `State.devWrite_wf`, `State.hbmPut_wf`) change
the list of bytes, and they keep its form. The operations of the model have here, in the order of the model's files:

* `f_mem`: `f` leaves memory;
* `f_wf`: `f` keeps the canonical form. Where `f` answers more than a state, a predicate on the answer says in which
  states the form is claimed (`ResCanonical`, `OptCanonical`, `ActCanonical`, `SortCanonical`, `NCanonical`);
* `f_keeps`: the DMA computation, or the table of mailbox items, `f` keeps the form from every state on.

`exec_wf` puts the commands together, `State.idle_wf` is the cycle without one, and `step_wf` has both.
-/

/-- Memory is in its canonical form (log 40). -/
@[simp] abbrev State.Canonical (s : State) : Prop := Memory.wf s.mem = true

/-- Where an outcome goes on, memory is in its canonical form. -/
def ResCanonical : Res → Prop
  | .next t => t.Canonical
  | .fault _ => True
  | .refused _ => True

/-- Where an operation that can fail answers a state, memory is in its canonical form there. -/
def OptCanonical (o : Option State) : Prop := ∀ t, o = some t → t.Canonical

@[simp] theorem resCanonical_next (t : State) : ResCanonical (.next t) ↔ t.Canonical := Iff.rfl

@[simp] theorem optCanonical_none : OptCanonical none := by simp [OptCanonical]

@[simp] theorem optCanonical_some (t : State) : OptCanonical (some t) ↔ t.Canonical := by simp [OptCanonical]

@[simp] theorem optCanonical_ite (c : Prop) [Decidable c] (a b : Option State) :
    OptCanonical (if c then a else b) ↔ if c then OptCanonical a else OptCanonical b := by
  split <;> rfl

theorem OptCanonical.bind {α : Type} {o : Option α} {f : α → Option State}
    (hf : ∀ a, o = some a → OptCanonical (f a)) :
    OptCanonical (o.bind f) := by
  cases o with
  | none => exact optCanonical_none
  | some a => exact hf a rfl

theorem OptCanonical.map {o : Option State} {f : State → State} (ho : OptCanonical o)
    (hf : ∀ t, t.Canonical → (f t).Canonical) :
    OptCanonical (o.map f) := by
  cases o with
  | none => exact optCanonical_none
  | some t => exact (optCanonical_some _).2 (hf t (ho t rfl))

theorem OptCanonical.getD {o : Option State} {s : State} (ho : OptCanonical o) (hs : s.Canonical) :
    (o.getD s).Canonical := by
  cases o with
  | none => exact hs
  | some t => exact ho t rfl

/-- A fold of operations that can fail, each of which keeps the canonical form, keeps it. -/
theorem OptCanonical.foldl_bind {α : Type} {f : State → α → Option State}
    (hf : ∀ t a, t.Canonical → OptCanonical (f t a)) (l : List α) {o : Option State} (ho : OptCanonical o) :
    OptCanonical (l.foldl (fun o a => o.bind (fun t => f t a)) o) :=
  foldl_keeps OptCanonical _ (fun _ a h => OptCanonical.bind (fun t e => hf t a (h t e))) l o ho

/-- The rule of a mailbox item that may have to wait keeps the canonical form of memory. -/
def ActCanonical (act : List Nat → State → Option ItemRes) : Prop :=
  ∀ a t x, t.Canonical → act a t = some x → x.2.2.Canonical

@[simp] theorem State.mem_ite (c : Prop) [Decidable c] (a b : State) :
    (if c then a else b).mem = if c then a.mem else b.mem := apply_ite State.mem c a b

@[simp] theorem Memory.wf_ite (c : Prop) [Decidable c] (a b : List Host.Cell) :
    Memory.wf (if c then a else b) = if c then Memory.wf a else Memory.wf b := apply_ite Memory.wf c a b

theorem State.canonical_ite {c : Prop} [Decidable c] {a b : State} (ha : a.Canonical) (hb : b.Canonical) :
    (if c then a else b).Canonical := by
  split
  · exact ha
  · exact hb

variable {s : State}

/-! ### Register flags and withdrawn requests -/

@[simp] theorem State.latchLast_mem (b : Block) (inst off multi : Nat) (v : Word) :
    (s.latchLast b inst off multi v).mem = s.mem := rfl

@[simp] theorem State.withdraw_mem (k : Nat) : (s.withdraw k).mem = s.mem := rfl

@[simp] theorem State.clearSq_mem (b : Block) (inst off : Nat) : (s.clearSq b inst off).mem = s.mem := rfl

/-! ### Agents: strikes on memory and reads of lines -/

@[simp] theorem State.strike_wf (hs : s.Canonical) (sector : Nat) (m : BitVec 18) :
    (s.strike sector m).Canonical := by
  simp [State.strike, hs, State.memWrite_wf]

@[simp] theorem State.deadRead_mem (line : Nat) (fault : Bool) : (s.deadRead line fault).mem = s.mem := by
  simp [State.deadRead]

theorem shareOne_mem (q : State × LLine) (k : Nat) : (shareOne q k).1.mem = q.1.mem := by
  simp only [shareOne]
  split
  · rfl
  · split <;> simp

theorem State.ardValue_wf (hs : s.Canonical) (free : Nat → Bool) (l : LLine) (m : BitVec 4) :
    OptCanonical (s.ardValue free l m) := by
  simpa [State.ardValue] using fun _ => hs

theorem State.ardLine_wf (hs : s.Canonical) (free : Nat → Bool) (ctx : Bool) (line : Nat) (m : BitVec 4) :
    OptCanonical (s.ardLine free ctx line m) := by
  have hd : ∀ b, (s.deadRead line b).Canonical := by simpa using hs
  have hshare : ∀ l, (s.snoopAll l shareOne).1.Canonical := fun l => by
    simpa [State.snoopAll_mem s l shareOne shareOne_mem] using hs
  simp only [State.ardLine]
  split
  · exact optCanonical_none
  · split
    · exact OptCanonical.bind fun tw e => State.ardValue_wf (State.takeWay_wf s free line hs e) _ _ _
    · split
      · exact State.ardValue_wf hs _ _ _
      · exact State.ardValue_wf (hshare _) _ _ _
      · exact State.ardValue_wf (hshare _) _ _ _
      · exact State.ardValue_wf (by simpa using hs) _ _ _
      · split
        · exact (optCanonical_some _).2 (hd true)
        · exact State.ardValue_wf (hd false) _ _ _
      · exact optCanonical_none

@[simp] theorem State.readSlow_mem (a n : Nat) : (s.readSlow a n).mem = s.mem := by simp [State.readSlow, foldl_mem]

theorem State.readRange_wf (hs : s.Canonical) (free : Nat → Bool) (ctx : Bool) (a n : Nat) :
    OptCanonical (s.readRange free ctx a n) := by
  simp only [State.readRange]
  split
  · exact OptCanonical.foldl_bind (fun t line ht => State.ardLine_wf ht _ _ _ _) _ ((optCanonical_some s).2 hs)
  · simpa using hs
  · simpa using hs

theorem State.agentReads_wf (hs : s.Canonical) (ctx : Bool) (ps : List (Nat × Nat)) :
    OptCanonical (s.agentReads ctx ps) :=
  OptCanonical.foldl_bind (fun _ _ ht => State.readRange_wf ht _ _ _ _) ps ((optCanonical_some s).2 hs)

theorem State.agentRead_wf (hs : s.Canonical) (ctx : Bool) (a n : Nat) : OptCanonical (s.agentRead ctx a n) :=
  State.agentReads_wf hs ctx _

@[simp] theorem State.reportRange_mem (a n : Nat) : (s.reportRange a n).mem = s.mem := by
  simp [State.reportRange, foldl_mem]

@[simp] theorem State.noteFault_wf (hs : s.Canonical) (a n : Nat) (code : BitVec 16) :
    (s.noteFault a n code).Canonical := by
  simp only [State.noteFault]
  split
  · exact foldl_keeps State.Canonical _ (fun t l ht => by simpa using ht) _ s hs
  · split
    · exact (State.agentRead_wf hs true a n).getD (by simpa using hs)
    · exact hs

/-! ### Faults: table walks, ring writes, the end of work -/

@[simp] theorem State.readTable_wf (hs : s.Canonical) (ea : Nat) : (s.readTable ea).Canonical := by
  simp [State.readTable, hs]

@[simp] theorem State.walkReads_wf (hs : s.Canonical) (c va : Nat) : (s.walkReads c va).Canonical := by
  simp only [State.walkReads]
  split
  · exact hs
  · exact foldl_keeps State.Canonical _ (fun t ea ht => State.readTable_wf ht ea) _ s hs

@[simp] theorem State.holdTlb_wf (hs : s.Canonical) (c va : Nat) (l : Leaf) : (s.holdTlb c va l).Canonical := by
  simp [State.holdTlb, hs]

@[simp] theorem State.walkRange_wf (hs : s.Canonical) (c va n : Nat) : (s.walkRange c va n).Canonical := by
  refine foldl_keeps State.Canonical _ (fun t a ht => ?_) _ _ hs
  simp [ht]

@[simp] theorem State.askAts_mem (c hostAddr : Nat) : (s.askAts c hostAddr).mem = s.mem := rfl

@[simp] theorem State.ringWrite_wf (hs : s.Canonical) (c slot off : Nat) (bs : List Byte) :
    (s.ringWrite c slot off bs).Canonical := by
  simp [State.ringWrite, hs, State.cohWrite_wf]

@[simp] theorem State.ctxIrq_mem (c : Nat) : (s.ctxIrq c).mem = s.mem := by simp [State.ctxIrq]

@[simp] theorem State.writeAdmit_wf (hs : s.Canonical) (c slot : Nat) (status : Byte) (result : Nat) (irq : Bool) :
    (s.writeAdmit c slot status result irq).Canonical := by
  simp [State.writeAdmit, hs]

@[simp] theorem State.writeEnd_wf (hs : s.Canonical) (c slot : Nat) (status : Byte) (irq : Bool) :
    (s.writeEnd c slot status irq).Canonical := by
  simp [State.writeEnd, hs]

@[simp] theorem State.writeBoth_wf (hs : s.Canonical) (c slot : Nat) (adm fin : Byte) (result : Nat)
    (irqAdmit irqEnd : Bool) :
    (s.writeBoth c slot adm fin result irqAdmit irqEnd).Canonical := by
  simp [State.writeBoth, hs]

@[simp] theorem State.unreserve_mem (c : Nat) (f : FrameNo) (units : Nat) : (s.unreserve c f units).mem = s.mem := rfl

@[simp] theorem State.kAppend_mem (p id : Nat) (bs : List Byte) (last : Bool) :
    (s.kAppend p id bs last).mem = s.mem := rfl

@[simp] theorem State.kAbandon_mem (p g : Nat) : (s.kAbandon p g).mem = s.mem := by
  simp only [State.kAbandon]
  split <;> simp

@[simp] theorem State.kUncommitted_mem (p g : Nat) (j : NarogJob) : (s.kUncommitted p g j).mem = s.mem := by
  simp [State.kUncommitted]

@[simp] theorem State.narogEnded_mem (w : Work) (j : NarogJob) : (s.narogEnded w j).mem = s.mem := by
  simp [State.narogEnded]

@[simp] theorem State.endWork_wf (hs : s.Canonical) (w : Work) (status : Byte) : (s.endWork w status).Canonical := by
  simp only [State.endWork]
  (repeat' split) <;> simp [hs]

@[simp] theorem State.notePass_mem (k : Nat) (e : ArrEntry) : (s.notePass k e).mem = s.mem := rfl

@[simp] theorem State.dropEntries_mem (job : Nat) : (s.dropEntries job).mem = s.mem := by
  unfold State.dropEntries
  refine foldl_mem _ (fun t d => ?_) _ s
  simp

@[simp] theorem State.stopColl_mem (w : Work) (j : CollJob) : (s.stopColl w j).mem = s.mem := rfl

@[simp] theorem State.countOverdraw_mem (w : Work) (charge : Nat) : (s.countOverdraw w charge).mem = s.mem := by
  simp [State.countOverdraw]

@[simp] theorem State.stopWork_mem (w : Work) : (s.stopWork w).mem = s.mem := by
  unfold State.stopWork
  split
  · rw [State.dropEntries_mem, foldl_mem _ (fun t k => ?_)]
    · simp
    · split
      · rw [State.setCore_mem, foldl_mem _ (fun _ _ => by simp)]
      · rfl
  all_goals simp

@[simp] theorem State.stopCtxWork_wf (hs : s.Canonical) (c : Nat) (runStatus : Byte) :
    (s.stopCtxWork c runStatus).Canonical := by
  refine foldl_keeps State.Canonical _ (fun t a ht => ?_) _ _ hs
  simp [ht]

@[simp] theorem State.noteFallen_mem (c : Nat) : (s.noteFallen c).mem = s.mem := rfl

@[simp] theorem State.ctxFault_wf (hs : s.Canonical) (c : Nat) (code : BitVec 16) :
    (s.ctxFault c code).Canonical := by
  simp only [State.ctxFault]
  split <;> simp [hs]

@[simp] theorem State.coreFault_wf (hs : s.Canonical) (k bslot barrier : Nat) (code : BitVec 16) :
    (s.coreFault k bslot barrier code).Canonical := by
  simp only [State.coreFault]
  split <;> simp [hs]

/-! ### The mailbox -/

@[simp] theorem itemBad_mem : (itemBad s).2.2.mem = s.mem := rfl

@[simp] theorem itemDenied_mem : (itemDenied s).2.2.mem = s.mem := rfl

@[simp] theorem itemRead_mem (ws : List Word) : (itemRead s ws).2.2.mem = s.mem := rfl

@[simp] theorem itemDone_mem : (itemDone s).2.2.mem = s.mem := rfl

@[simp] theorem State.mbxBegin_mem (r : MbxReq) (b : Block) (item : Nat) (err : BitVec 2) (ws : List Word) :
    (s.mbxBegin r b item err ws).mem = s.mem := rfl

/-- A command of the mailbox keeps the canonical form when its item's own rule does. -/
theorem State.mbxRun_wf (hs : s.Canonical) (r : MbxReq) (b : Block) (i : Item)
    {act : Nat → Bool → List Word → State → ItemRes} (ha : ∀ k wr ws t, t.Canonical → (act k wr ws t).2.2.Canonical) :
    (s.mbxRun r b i act).Canonical := by
  simp only [State.mbxRun]
  split
  · exact hs
  · split
    · simpa using hs
    · simpa using ha _ _ _ s hs

theorem State.mbxRead_wf (hs : s.Canonical) (r : MbxReq) (b : Block) (i : Item)
    (prep : Nat → Bool → List Word → State → List Nat) {act : List Nat → State → Option ItemRes}
    (ha : ActCanonical act) :
    (s.mbxRead r b i prep act).Canonical := by
  refine State.mbxRun_wf hs r b i fun k wr ws t ht => ?_
  split
  next x e => exact ha _ t x ht e
  next => simpa using ht

theorem State.mbxGet_wf (hs : s.Canonical) (r : MbxReq) (b : Block) (num len : Nat) (f : State → Nat → Nat) :
    (s.mbxGet r b num len f).Canonical :=
  State.mbxRun_wf hs r b _ fun _ _ _ _ ht => ht

theorem State.mbxCarryOut_wf (hs : s.Canonical) (r : Req) (w : Window) (b : Block)
    {act : List Nat → State → Option ItemRes} (ha : ActCanonical act) :
    (s.mbxCarryOut r w b act).Canonical := by
  simp only [State.mbxCarryOut]
  split
  · exact hs
  · split
    · exact hs
    next e => simpa using ha _ s _ hs e

/-! ### Pages: CHSEL, STATUS, EVACK, parity -/

@[simp] theorem State.chsel_mem (r : Req) (w : Window) (b : Block) (v : Word) : (s.chsel r w b v).mem = s.mem := by
  simp [State.chsel]

theorem execChselWrite_wf (hs : s.Canonical) (r : Req) (w : Window) (b : Block) (v : Word) :
    ResCanonical (execChselWrite r w b v s) := by
  simp [execChselWrite, hs]

@[simp] theorem State.writeBack_mem (r : Req) (w : Window) (b : Block) (off : Nat) (v : Word) :
    (s.writeBack r w b off v).mem = s.mem := by
  simp only [State.writeBack]
  split <;> simp

theorem execStatusWriteBack_wf (hs : s.Canonical) (x : BarAcc) (v : Word) :
    ResCanonical (execStatusWriteBack x v s) := by
  simp only [execStatusWriteBack]
  split <;> simp [hs]

@[simp] theorem State.evack_mem (r : Req) (w : Window) (b : Block) (v : Word) : (s.evack r w b v).mem = s.mem := by
  simp only [State.evack]
  split <;> simp

theorem execEvackWrite_wf (hs : s.Canonical) (r : Req) (w : Window) (b : Block) (v : Word) :
    ResCanonical (execEvackWrite r w b v s) := by
  simp [execEvackWrite, hs]

theorem execSnapDone_wf (hs : s.Canonical) (r : Req) (w : Window) (b : Block) :
    ResCanonical (execSnapDone r w b s) := by
  simp [execSnapDone, hs]

@[simp] theorem State.holdVanish_mem (b : Block) (inst off : Nat) : (s.holdVanish b inst off).mem = s.mem := by
  simp [State.holdVanish]

@[simp] theorem State.flip_mem (b : Block) (inst off : Nat) (f : BitVec 33) : (s.flip b inst off f).mem = s.mem := by
  simp [State.flip]

@[simp] theorem State.parityEvent_mem (b : Block) (inst off : Nat) : (s.parityEvent b inst off).mem = s.mem := by
  simp [State.parityEvent]

@[simp] theorem State.scrubCheck_mem (b : Block) (inst off : Nat) : (s.scrubCheck b inst off).mem = s.mem := by
  simp [State.scrubCheck]

@[simp] theorem State.scrub_mem (b : Block) (inst off : Nat) (f : BitVec 33) :
    (s.scrub b inst off f).mem = s.mem := by
  simp [State.scrub]

theorem execScrubVisit_wf (hs : s.Canonical) (b : Block) (inst : Fin 8192) (off : BitVec 12) (f : BitVec 33) :
    ResCanonical (execScrubVisit b inst off f s) := by
  simp [execScrubVisit, hs]

theorem execEventFrame_wf (hs : s.Canonical) (r : MbxReq) (b : Block) : ResCanonical (execEventFrame r b s) :=
  (resCanonical_next _).2 (State.mbxGet_wf hs _ _ _ _ _)

theorem execScrubFrame_wf (hs : s.Canonical) (r : MbxReq) (b : Block) : ResCanonical (execScrubFrame r b s) := by
  refine (resCanonical_next _).2 (State.mbxRun_wf hs _ _ _ fun k wr ws t ht => ?_)
  simp [ht]

/-! ### Charging cycles -/

@[simp] theorem State.chargeSpan_mem (k : Nat) (c : Core) (l? : Option Launch) (now n : Nat) :
    (s.chargeSpan k c l? now n).mem = s.mem := by
  unfold State.chargeSpan
  refine foldl_mem _ (fun t e => ?_) _ s
  exact foldl_mem _ (fun u x => u.addCount_mem _ _ _ _) _ t

@[simp] theorem State.chargeCore_mem (n k : Nat) : (s.chargeCore n k).mem = s.mem := by
  simp [State.chargeCore, foldl_mem]

@[simp] theorem State.endBusy_mem : s.endBusy.mem = s.mem := rfl

@[simp] theorem State.charge_mem (n : Nat) : (s.charge n).mem = s.mem := by
  simp only [State.charge]
  split
  · rw [State.endBusy_mem]
    exact foldl_mem _ (fun t k => State.chargeCore_mem n k) _ s
  · rfl

/-! ### Frames and steps -/

@[simp] theorem State.toCycle_mem (n : Nat) : (s.toCycle n).mem = s.mem := by simp [State.toCycle]

@[simp] theorem State.beginsFollowing_mem (old : State) : (s.beginsFollowing old).mem = s.mem := by
  simp [State.beginsFollowing]

@[simp] theorem State.sendMarker_mem (ps : List Nat) (m : Marker) : (s.sendMarker ps m).mem = s.mem := by
  simp only [State.sendMarker]
  rw [foldl_mem _ (fun _ _ => by simp)]

@[simp] theorem State.overrun_mem (p c : Nat) (f : FrameNo) : (s.overrun p c f).mem = s.mem := by simp [State.overrun]

@[simp] theorem State.stopFrame_wf (hs : s.Canonical) (f : FrameNo) (done : Work → Bool) :
    (s.stopFrame f done).Canonical := by
  simp only [State.stopFrame, State.Canonical]
  rw [foldl_mem _ (fun t x => by simp)]
  refine foldl_keeps State.Canonical _ (fun t w ht => ?_) _ s hs
  split <;> simp [ht]

@[simp] theorem State.cancelSkipped_wf (hs : s.Canonical) (f g : FrameNo) : (s.cancelSkipped f g).Canonical := by
  refine foldl_keeps State.Canonical _ (fun t a ht => ?_) _ _ hs
  simp [ht]

@[simp] theorem State.openWork_mem (g : FrameNo) : (s.openWork g).mem = s.mem := rfl

@[simp] theorem State.newLive_mem (p : Nat) : (s.newLive p).mem = s.mem := by
  simp only [State.newLive]
  rw [foldl_mem _ (fun _ _ => by simp)]

@[simp] theorem State.closeSteps_mem (f : FrameNo) : (s.closeSteps f).mem = s.mem := by
  simp only [State.closeSteps]
  rw [foldl_mem _ (fun _ _ => by (repeat' split) <;> simp)]

@[simp] theorem State.latchSnaps_mem (g : FrameNo) : (s.latchSnaps g).mem = s.mem := by
  simp [State.latchSnaps, foldl_mem]

@[simp] theorem State.forgetReadies_mem (f : FrameNo) : (s.forgetReadies f).mem = s.mem := rfl

@[simp] theorem State.forgetFrame_mem (f : FrameNo) : (s.forgetFrame f).mem = s.mem := rfl

theorem execClosingWindowOpen_wf (hs : s.Canonical) : ResCanonical (execClosingWindowOpen s) := by
  simp [execClosingWindowOpen, hs]

theorem execWaveRelease_wf (hs : s.Canonical) (w : Fin 8) : ResCanonical (execWaveRelease w s) := by
  simp [execWaveRelease, hs]

@[simp] theorem State.takeMarker_mem (port : Nat) (m : Marker) (residence : Nat) :
    (s.takeMarker port m residence).mem = s.mem := by
  simp [State.takeMarker]

theorem execMarkerReceive_wf (hs : s.Canonical) (port : PortId) (m : Marker) (residence : Nat) :
    ResCanonical (execMarkerReceive port m residence s) := by
  simp [execMarkerReceive, hs]

theorem execStringsTakeover_wf (hs : s.Canonical) : ResCanonical (execStringsTakeover s) := by
  simp [execStringsTakeover, hs]

theorem execStringsLost_wf (hs : s.Canonical) : ResCanonical (execStringsLost s) := by simp [execStringsLost, hs]

theorem execStringsFrameNo_wf (hs : s.Canonical) (r : MbxReq) : ResCanonical (execStringsFrameNo r s) :=
  (resCanonical_next _).2 (State.mbxGet_wf hs _ _ _ _ _)

@[simp] theorem State.applyFrame_mem (f : Nat) : (s.applyFrame f).2.2.mem = s.mem := by
  simp only [State.applyFrame]
  (repeat' split) <;> simp

theorem execApplyFrame_wf (hs : s.Canonical) (r : MbxReq) : ResCanonical (execApplyFrame r s) := by
  refine (resCanonical_next _).2 (State.mbxRun_wf hs _ _ _ fun k wr ws t ht => ?_)
  split <;> simp [ht]

theorem execFrameSet_wf (hs : s.Canonical) (r : MbxReq) : ResCanonical (execFrameSet r s) := by
  refine (resCanonical_next _).2 (State.mbxRun_wf hs _ _ _ fun k wr ws t ht => ?_)
  split <;> simp [ht]

theorem execPuppeteerFrameNo_wf (hs : s.Canonical) (r : MbxReq) : ResCanonical (execPuppeteerFrameNo r s) :=
  (resCanonical_next _).2 (State.mbxGet_wf hs _ _ _ _ _)

theorem execStepBase_wf (hs : s.Canonical) (r : MbxReq) : ResCanonical (execStepBase r s) := by
  refine (resCanonical_next _).2 (State.mbxRun_wf hs _ _ _ fun k wr ws t ht => ?_)
  split <;> simp [ht]

theorem execStepNo_wf (hs : s.Canonical) (r : MbxReq) : ResCanonical (execStepNo r s) :=
  (resCanonical_next _).2 (State.mbxGet_wf hs _ _ _ _ _)

/-! ### Launches and commands of a context -/

@[simp] theorem State.consume_wf (hs : s.Canonical) (c : Nat) : (s.consume c).Canonical := by
  simp [State.consume, hs, State.cohWrite_wf]

@[simp] theorem State.refuse_wf (hs : s.Canonical) (c : Nat) (h : Word) (status : Byte) :
    (s.refuse c h status).Canonical := by
  have hu : (s.useFree 1).Canonical := by simpa using hs
  simp only [State.refuse]
  split
  · exact State.consume_wf (State.writeBoth_wf hu ..) c
  · exact State.consume_wf (State.writeEnd_wf (State.writeAdmit_wf hu ..) ..) c

@[simp] theorem State.doneNow_wf (hs : s.Canonical) (c slot : Nat) (h : Word) (result : Nat) :
    (s.doneNow c slot h result).Canonical := by
  simp [State.doneNow, hs]

@[simp] theorem State.doneOpen_wf (hs : s.Canonical) (c slot : Nat) (h : Word) : (s.doneOpen c slot h).Canonical := by
  simp [State.doneOpen, hs]

@[simp] theorem State.accept_wf (hs : s.Canonical) (c : Nat) (h : Word) (f units : Nat) (running : Bool) (j : Job) :
    (s.accept c h f units running j).Canonical := by
  simp [State.accept, hs]

@[simp] theorem State.doLaunch_wf (hs : s.Canonical) (c : Nat) (slot : List Byte) :
    (s.doLaunch c slot).Canonical := by
  unfold State.doLaunch
  generalize s.launchOutcome c slot = q
  obtain ⟨k, f⟩ := q
  simp only
  split
  · exact State.accept_wf hs ..
  · exact State.refuse_wf (by simpa using hs) ..

/-- A command that a context fetched keeps the canonical form when what it does with its slot does. -/
theorem State.onCommand_wf (hs : s.Canonical) (c op : Nat) {f : List Byte → State} (hf : ∀ e, (f e).Canonical) :
    (s.onCommand c op f).Canonical := by
  simp only [State.onCommand]
  split
  · split
    · exact hf _
    · exact hs
  · exact hs

theorem execLaunch_wf (hs : s.Canonical) (c : CtxId) : ResCanonical (execLaunch c s) :=
  (resCanonical_next _).2 (State.onCommand_wf hs _ _ fun e => by simp [hs])

@[simp] theorem State.changeSplit_mem (k n : Nat) : (s.changeSplit k n).mem = s.mem := rfl

@[simp] theorem State.prepareCore_mem (k p : Nat) (key : Word) (n : Nat) : (s.prepareCore k p key n).mem = s.mem := by
  simp [State.prepareCore]

@[simp] theorem State.startLaunch_mem (w : Work) (l : Launch) (k : Nat) : (s.startLaunch w l k).mem = s.mem := by
  simp [State.startLaunch]

theorem execLaunchStart_wf (hs : s.Canonical) (id : Nat) (k : CoreId) : ResCanonical (execLaunchStart id k s) := by
  simp only [execLaunchStart]
  (repeat' split) <;> simp [hs]

@[simp] theorem State.dispatch_mem (k : Nat) : (s.dispatch k).mem = s.mem := by
  simp only [State.dispatch]
  (repeat' split) <;> simp

theorem execBlockDispatch_wf (hs : s.Canonical) (k : CoreId) : ResCanonical (execBlockDispatch k s) := by
  simp [execBlockDispatch, hs]

@[simp] theorem State.launchOver_wf (hs : s.Canonical) (w : Work) (l : Launch) : (s.launchOver w l).Canonical := by
  simp [State.launchOver, hs]

@[simp] theorem State.coreEnds_wf (hs : s.Canonical) (w : Work) (l : Launch) (k : Nat) :
    (s.coreEnds w l k).Canonical := by
  simp [State.coreEnds, hs]

theorem execLaunchCoreEnd_wf (hs : s.Canonical) (id : Nat) (k : CoreId) :
    ResCanonical (execLaunchCoreEnd id k s) := by
  simp only [execLaunchCoreEnd]
  split <;> simp [hs]

@[simp] theorem State.doCancel_wf (hs : s.Canonical) (c : Nat) (slot : List Byte) :
    (s.doCancel c slot).Canonical := by
  simp only [State.doCancel]
  split
  · exact State.refuse_wf hs ..
  · refine State.consume_wf (State.doneNow_wf ?_ ..) c
    exact foldl_keeps State.Canonical _ (fun t w ht => State.endWork_wf ht ..) _ s hs

theorem execCancel_wf (hs : s.Canonical) (c : CtxId) : ResCanonical (execCancel c s) :=
  (resCanonical_next _).2 (State.onCommand_wf hs _ _ fun e => by simp [hs])

@[simp] theorem State.doFence_wf (hs : s.Canonical) (c : Nat) (slot : List Byte) : (s.doFence c slot).Canonical := by
  simp [State.doFence, hs]

theorem execFence_wf (hs : s.Canonical) (c : CtxId) : ResCanonical (execFence c s) :=
  (resCanonical_next _).2 (State.onCommand_wf hs _ _ fun e => by simp [hs])

theorem execFenceComplete_wf (hs : s.Canonical) (c : CtxId) : ResCanonical (execFenceComplete c s) := by
  simp only [execFenceComplete]
  split <;> simp [hs]

@[simp] theorem State.doTlbInval_wf (hs : s.Canonical) (c : Nat) (slot : List Byte) :
    (s.doTlbInval c slot).Canonical := by
  simp [State.doTlbInval, hs]

theorem execTlbInval_wf (hs : s.Canonical) (c : CtxId) : ResCanonical (execTlbInval c s) :=
  (resCanonical_next _).2 (State.onCommand_wf hs _ _ fun e => by simp [hs])

theorem execTlbInvalComplete_wf (hs : s.Canonical) (c : CtxId) : ResCanonical (execTlbInvalComplete c s) := by
  simp only [execTlbInvalComplete]
  split <;> simp [hs]

theorem execBadOpcodeCommand_wf (hs : s.Canonical) (c : CtxId) : ResCanonical (execBadOpcodeCommand c s) := by
  simp only [execBadOpcodeCommand]
  split <;> simp [hs]

@[simp] theorem State.fetchFail_wf (hs : s.Canonical) (c : Nat) (r : FetchRes) (addr : Nat) :
    (s.fetchFail c r addr).Canonical := by
  simp only [State.fetchFail]
  split <;> simp [hs]

@[simp] theorem State.fetchDone_wf (hs : s.Canonical) (c : Nat) (slot aux : List Byte) (l : Option Leaf) :
    (s.fetchDone c slot aux l).Canonical := by
  simp only [State.fetchDone]
  split
  · exact hs
  next r e =>
    have hr := State.agentReads_wf hs true _ r e
    cases l with
    | none => simpa using hr
    | some l => simpa using State.holdTlb_wf hr ..

@[simp] theorem State.fetchCommand_wf (hs : s.Canonical) (c : Nat) (resp : HostData) :
    (s.fetchCommand c resp).Canonical := by
  simp only [State.fetchCommand]
  (repeat' split) <;> simp [hs]

theorem execCommandFetch_wf (hs : s.Canonical) (c : CtxId) (resp : HostData) :
    ResCanonical (execCommandFetch c resp s) := by
  simp [execCommandFetch, hs]

/-! ### The host: grants, BAR4, configuration, ATS, contexts -/

@[simp] theorem State.recorded_mem : s.recorded.mem = s.mem := rfl

@[simp] theorem State.touch_mem (p : Nat) : (s.touch p).mem = s.mem := by simp [State.touch]

@[simp] theorem State.grantCtx_mem (p : Nat) (v : Word) : (s.grantCtx p v).mem = s.mem := by simp [State.grantCtx]

theorem execGrantCtxWrite_wf (hs : s.Canonical) (r : Req) (w : Window) (v : Word) :
    ResCanonical (execGrantCtxWrite r w v s) := by
  simp only [execGrantCtxWrite]
  split <;> simp [hs]

@[simp] theorem State.grantCores_mem (p : Nat) (hi : Bool) (v : Word) : (s.grantCores p hi v).mem = s.mem := by
  simp [State.grantCores]

theorem execGrantCoresWrite_wf (hs : s.Canonical) (r : Req) (w : Window) (hi : Bool) (v : Word) :
    ResCanonical (execGrantCoresWrite r w hi v s) := by
  simp only [execGrantCoresWrite]
  split <;> simp [hs]

@[simp] theorem State.grantHbm_mem (p new : Nat) : (s.grantHbm p new).2.2.mem = s.mem := by
  simp only [State.grantHbm]
  split <;> simp

theorem execGrantHbmLo_wf (hs : s.Canonical) (r : MbxReq) : ResCanonical (execGrantHbmLo r s) := by
  refine (resCanonical_next _).2 (State.mbxRun_wf hs _ _ _ fun k wr ws t ht => ?_)
  (repeat' split) <;> simp [ht]

theorem execGrantHbmHi_wf (hs : s.Canonical) (r : MbxReq) : ResCanonical (execGrantHbmHi r s) := by
  refine (resCanonical_next _).2 (State.mbxRun_wf hs _ _ _ fun k wr ws t ht => ?_)
  (repeat' split) <;> simp [ht]

theorem execEvtVectors_wf (hs : s.Canonical) (r : MbxReq) : ResCanonical (execEvtVectors r s) := by
  refine (resCanonical_next _).2 (State.mbxRun_wf hs _ _ _ fun p wr ws t ht => ?_)
  dsimp only
  split
  · split
    · exact ht
    · simpa using ht
  · exact ht

@[simp] theorem State.logAer_mem (f o n : Nat) : (s.logAer f o n).mem = s.mem := rfl

theorem State.bar4Try_wf (hs : s.Canonical) (f o n : Nat) : OptCanonical (s.bar4Try f o n) := by
  simp only [State.bar4Try]
  split
  · simpa using hs
  · intro u e
    obtain ⟨t, ht, rfl⟩ := Option.map_eq_some_iff.1 e
    simpa using State.agentReads_wf hs false _ t ht

@[simp] theorem State.bar4Read_wf (hs : s.Canonical) (f o n : Nat) : (s.bar4Read f o n).Canonical :=
  (State.bar4Try_wf hs f o n).getD hs

@[simp] theorem State.serveHostReads_wf (hs : s.Canonical) : s.serveHostReads.Canonical := by
  refine foldl_keeps State.Canonical _ (fun t x ht => ?_) _ s hs
  split
  next u e => exact State.bar4Try_wf ht _ _ _ u e
  next => exact ht

theorem execBar4Read_wf (hs : s.Canonical) (f : Fun) (o : BitVec 36) (n : BitVec 13) :
    ResCanonical (execBar4Read f o n s) := by
  simp [execBar4Read, hs]

@[simp] theorem State.bar4Write_wf (hs : s.Canonical) (f o : Nat) (bs : List Byte) :
    (s.bar4Write f o bs).Canonical := by
  simp only [State.bar4Write]
  split
  · simpa using hs
  · exact foldl_keeps (fun q : State × List Byte => q.1.Canonical) _
      (fun q p hq => State.cohWrite_wf q.1 _ _ _ hq) _ (s, bs) hs

theorem execBar4Write_wf (hs : s.Canonical) (f : Fun) (o : BitVec 36) (bs : List Byte) :
    ResCanonical (execBar4Write f o bs s) := by
  simp [execBar4Write, hs]

@[simp] theorem State.doorbell_mem (c : Nat) (v : Word) : (s.doorbell c v).mem = s.mem := by
  simp only [State.doorbell]
  split <;> simp

@[simp] theorem State.flushVector_mem (f v : Nat) : (s.flushVector f v).mem = s.mem := by simp [State.flushVector]

@[simp] theorem State.msixWrite_mem (f o : Nat) (v : Word) : (s.msixWrite f o v).mem = s.mem := by
  simp [State.msixWrite]

@[simp] theorem State.bar2Write_mem (f o : Nat) (v : Word) : (s.bar2Write f o v).mem = s.mem := by
  simp [State.bar2Write]

theorem execDoorbellWrite_wf (hs : s.Canonical) (f : Fun) (o : BitVec 24) (v : Word) :
    ResCanonical (execDoorbellWrite f o v s) := by
  simp [execDoorbellWrite, hs]

theorem execAtomicopRequest_wf (hs : s.Canonical) (f : Fun) : ResCanonical (execAtomicopRequest f s) := by
  simp [execAtomicopRequest, hs]

@[simp] theorem State.beginTeardown_wf (hs : s.Canonical) (c : Nat) : (s.beginTeardown c).Canonical := by
  simp only [State.beginTeardown]
  split <;> simp [hs]

@[simp] theorem State.resetFunction_wf (hs : s.Canonical) (p : Nat) : (s.resetFunction p).Canonical := by
  refine foldl_keeps State.Canonical _ (fun t a ht => ?_) _ _ hs
  simp [ht]

@[simp] theorem State.clearVfs_wf (hs : s.Canonical) : s.clearVfs.Canonical := by
  simp only [State.clearVfs, State.Canonical]
  refine foldl_keeps State.Canonical _ (fun t p ht => ?_) _ s hs
  simp [ht]

theorem execVfEnableClear_wf (hs : s.Canonical) : ResCanonical (execVfEnableClear s) := by
  simp [execVfEnableClear, hs]

@[simp] theorem State.ungrant_mem (p : Nat) : (s.ungrant p).mem = s.mem := by
  rw [State.ungrant, State.setPart_mem, foldl_mem _ (fun t o => t.setCfg_mem _ _ _ _)]

@[simp] theorem State.msixOff_mem (f : Nat) : (s.msixOff f).mem = s.mem := rfl

@[simp] theorem State.flr_wf (hs : s.Canonical) (f : Nat) : (s.flr f).Canonical := by
  simp only [State.flr]
  split
  · simp only [State.Canonical, State.msixOff_mem, State.setCfg_mem]
    refine foldl_keeps State.Canonical _ (fun t p ht => ?_) _ s hs
    simp [ht]
  · simp [hs]

theorem execFunctionLevelReset_wf (hs : s.Canonical) (f : Fun) : ResCanonical (execFunctionLevelReset f s) := by
  simp [execFunctionLevelReset, hs]

@[simp] theorem State.configOp_wf (hs : s.Canonical) (f : Nat) (op : CfgOp) : (s.configOp f op).Canonical := by
  cases op with
  | read reg => simp only [State.configOp]; split <;> simpa using hs
  | msixControl en mask =>
    rw [State.configOp, State.Canonical, State.emit_mem, foldl_mem _ (fun _ _ => by simp)]
    exact hs
  | vfControl en n =>
    rw [State.configOp, State.Canonical, State.emit_mem]
    split
    · exact hs
    · split
      · rw [foldl_mem _ (fun _ _ => by simp)]; exact hs
      · simp [hs]
  | _ => simp [State.configOp, hs]

theorem execConfigRequest_wf (hs : s.Canonical) (f : Fun) (op : CfgOp) : ResCanonical (execConfigRequest f op s) := by
  simp [execConfigRequest, hs]

@[simp] theorem State.atsInvalidate_mem (f tag base len : Nat) : (s.atsInvalidate f tag base len).mem = s.mem := rfl

theorem execAtsInvalidation_wf (hs : s.Canonical) (f : Fun) (tag : BitVec 5) (base len : BitVec 64) :
    ResCanonical (execAtsInvalidation f tag base len s) := by
  simp [execAtsInvalidation, hs]

theorem execAtsCompletion_wf (hs : s.Canonical) (c : CtxId) (denied : Bool) :
    ResCanonical (execAtsCompletion c denied s) := by
  simp only [execAtsCompletion]
  split <;> simp [hs]

theorem execCreateArg_wf (hs : s.Canonical) (r : MbxReq) : ResCanonical (execCreateArg r s) := by
  refine (resCanonical_next _).2 (State.mbxRun_wf hs _ _ _ fun k wr ws t ht => ?_)
  simp [ht]

@[simp] theorem State.doCreate_wf (hs : s.Canonical) (p desc : Nat) : (s.doCreate p desc).2.Canonical := by
  simp only [State.doCreate]
  (repeat' split) <;> simp [hs, State.cohWrite_wf]

theorem createAct_wf : ActCanonical createAct := by
  intro a t x ht e
  simp only [createAct] at e
  obtain ⟨u, hu, rfl⟩ := Option.map_eq_some_iff.1 e
  refine State.doCreate_wf ?_ _ _
  split at hu
  · exact State.agentRead_wf ht _ _ _ u hu
  · cases hu; exact ht

theorem execCreate_wf (hs : s.Canonical) (r : MbxReq) : ResCanonical (execCreate r s) :=
  (resCanonical_next _).2 (State.mbxRead_wf hs _ _ _ _ createAct_wf)

theorem execDestroy_wf (hs : s.Canonical) (r : MbxReq) : ResCanonical (execDestroy r s) := by
  refine (resCanonical_next _).2 (State.mbxRun_wf hs _ _ _ fun k wr ws t ht => ?_)
  split <;> simp [ht]

@[simp] theorem State.markClear_mem (c k : Nat) : (s.markClear c k).mem = s.mem := rfl

theorem execTeardownClearStart_wf (hs : s.Canonical) (c : CtxId) : ResCanonical (execTeardownClearStart c s) := by
  simp only [execTeardownClearStart, resCanonical_next]
  split
  · rw [State.Canonical, State.setCtx_mem, foldl_mem _ (fun _ _ => by simp)]
    exact hs
  · exact hs

theorem execTeardownClearDone_wf (hs : s.Canonical) (c : CtxId) : ResCanonical (execTeardownClearDone c s) := by
  simp [execTeardownClearDone, hs]

theorem execResume_wf (hs : s.Canonical) (r : MbxReq) : ResCanonical (execResume r s) := by
  refine (resCanonical_next _).2 (State.mbxRun_wf hs _ _ _ fun k wr ws t ht => ?_)
  split <;> simp [ht]

/-! ### Threads of a core -/

@[simp] theorem State.held_mem (k : Nat) (i : Issue) (h : Held) : (s.held k i h).mem = s.mem := rfl

@[simp] theorem State.doubt_mem (k : Nat) (threads src : List Nat) : (s.doubt k threads src).mem = s.mem := by
  simp [State.doubt]

/-- A bundle that is presented keeps the canonical form when what it does on issue does. -/
theorem State.issueNow_wf (hs : s.Canonical) (b : Bundle) (dst src : List Nat) (kind : IssueKind)
    {f : Issue → State → State} (hf : ∀ u t, t.Canonical → (f u t).Canonical) :
    (s.issueNow b dst src kind f).Canonical := by
  simp only [State.issueNow]
  split
  · exact hs
  · split
    · simp [hs]
    · split
      · simp [hs]
      · (repeat' split) <;> simp [hs, hf]

/-- What is taken over from the state of a launch that has fallen leaves memory. -/
@[simp] theorem State.takeFault_mem (t : State) (k : Nat) : (s.takeFault t k).mem = s.mem := by simp [State.takeFault]

theorem State.orGhost_wf (hs : s.Canonical) (k : Nat) {f : State → State} (hf : ∀ t, t.Canonical → (f t).Canonical) :
    (s.orGhost k f).Canonical := by
  simp only [State.orGhost]
  split
  · exact hf s hs
  · simpa using hs

theorem State.issue_wf (hs : s.Canonical) (b : Bundle) (dst src : List Nat) (kind : IssueKind)
    {f : Issue → State → State} (hf : ∀ u t, t.Canonical → (f u t).Canonical) :
    (s.issue b dst src kind f).Canonical :=
  State.orGhost_wf hs _ fun _ ht => State.issueNow_wf ht _ _ _ _ hf

@[simp] theorem State.turnAway_mem (b : Bundle) (i : Issue) (kind : IssueKind) (why : HeldBy) :
    (s.turnAway b i kind why).mem = s.mem := rfl

@[simp] theorem State.bundleDone_mem (b : Bundle) (i : Issue) (engine : BitVec 5) (n lat : Nat) (dst : List Nat)
    (f : Core → Core) :
    (s.bundleDone b i engine n lat dst f).mem = s.mem := rfl

theorem execVectorAlu_wf (hs : s.Canonical) (b : Bundle) (i : AluInstr) : ResCanonical (execVectorAlu b i s) := by
  refine (resCanonical_next _).2 (State.issue_wf hs _ _ _ _ fun u t ht => ?_)
  simp [ht]

theorem execSpecialFunction_wf (hs : s.Canonical) (b : Bundle) (f : SpecialFn) (d a : VReg) :
    ResCanonical (execSpecialFunction b f d a s) := by
  refine (resCanonical_next _).2 (State.issue_wf hs _ _ _ _ fun u t ht => ?_)
  simp [ht]

@[simp] theorem State.report_mem (p : Nat) (frame : FrameNo) (w : Nat) (f : Fmt) (cast nz : Nat) (k : Counts) :
    (s.report p frame w f cast nz k).mem = s.mem := by
  simp [State.report]

@[simp] theorem State.cvtReport_mem (i : Issue) (df sf : Option Fmt) (a w : Nat) (c : Core) (p : Group × Strand) :
    (s.cvtReport i df sf a w c p).mem = s.mem := by
  simp only [State.cvtReport]
  split <;> simp

theorem execCvtF_wf (hs : s.Canonical) (b : Bundle) (df sf : CvtFmt) (d a w : VReg) :
    ResCanonical (execCvtF b df sf d a w s) := by
  refine (resCanonical_next _).2 (State.issue_wf hs _ _ _ _ fun u t ht => ?_)
  dsimp only
  split
  · exact State.coreFault_wf ht ..
  · rw [State.Canonical, foldl_mem _ (fun _ _ => by simp)]
    exact ht

theorem execCvtBlk_wf (hs : s.Canonical) (b : Bundle) (f : Fmt) (d v a : VReg) (bump : PReg) (w : VReg) :
    ResCanonical (execCvtBlk b f d v a bump w s) := by
  refine (resCanonical_next _).2 (State.issue_wf hs _ _ _ _ fun u t ht => ?_)
  dsimp only
  split
  · exact State.coreFault_wf ht ..
  · rw [State.Canonical, foldl_mem _ (fun _ _ => by simp)]
    exact ht

theorem execCvtWide_wf (hs : s.Canonical) (b : Bundle) (f : Fmt) (d a v : VReg) :
    ResCanonical (execCvtWide b f d a v s) := by
  refine (resCanonical_next _).2 (State.issue_wf hs _ _ _ _ fun u t ht => ?_)
  simp [ht]

theorem execMskPack_wf (hs : s.Canonical) (b : Bundle) (d : VReg) (p : PReg) :
    ResCanonical (execMskPack b d p s) := by
  refine (resCanonical_next _).2 (State.issue_wf hs _ _ _ _ fun u t ht => ?_)
  simp [ht]

theorem execBranch_wf (hs : s.Canonical) (o : One) (p : Option BranchPred) (target join : VAddr) :
    ResCanonical (execBranch o p target join s) := by
  refine (resCanonical_next _).2 (State.issue_wf hs _ _ _ _ fun u t ht => ?_)
  split <;> simp [ht]

theorem execYieldEnd_wf (hs : s.Canonical) (core : CoreId) (gs : GroupSlot) (pc : VAddr) :
    ResCanonical (execYieldEnd core gs pc s) := by
  simp only [execYieldEnd]
  (repeat' split) <;> simp [hs]

@[simp] theorem State.joinGroup_mem (k : Nat) (l : Launch) (g : Group) : (s.joinGroup k l g).mem = s.mem := by
  simp only [State.joinGroup]
  (repeat' split) <;> simp

theorem execJoin_wf (hs : s.Canonical) (core : CoreId) (gs : GroupSlot) : ResCanonical (execJoin core gs s) := by
  simp only [execJoin]
  split <;> simp [hs]

@[simp] theorem State.barrier_wf (hs : s.Canonical) (o : One) (id : Nat) (park : Bool) :
    (s.barrier o id park).Canonical := by
  refine State.issue_wf hs _ _ _ _ fun u t ht => ?_
  split <;> simp [ht]

theorem execBarSync_wf (hs : s.Canonical) (o : One) (id : Fin 16) : ResCanonical (execBarSync o id s) := by
  simp [execBarSync, hs]

theorem execBarArrive_wf (hs : s.Canonical) (o : One) (id : Fin 16) : ResCanonical (execBarArrive o id s) := by
  simp [execBarArrive, hs]

theorem execBarrierMismatch_wf (hs : s.Canonical) (core : CoreId) (slot : Fin 32) (id : Fin 16) :
    ResCanonical (execBarrierMismatch core slot id s) := by
  refine (resCanonical_next _).2 (State.orGhost_wf hs _ fun t ht => ?_)
  split
  · exact ht
  · split <;> simp [ht]

theorem execExit_wf (hs : s.Canonical) (o : One) : ResCanonical (execExit o s) := by
  refine (resCanonical_next _).2 (State.issue_wf hs _ _ _ _ fun u t ht => ?_)
  split <;> simp [ht]

theorem execSpecialValueRead_wf (hs : s.Canonical) (o : One) (v : SpecialVal) (d : VReg) :
    ResCanonical (execSpecialValueRead o v d s) := by
  refine (resCanonical_next _).2 (State.issue_wf hs _ _ _ _ fun u t ht => ?_)
  (repeat' split) <;> simp [ht]

theorem execGroupPromote_wf (hs : s.Canonical) (core : CoreId) (gs : GroupSlot) :
    ResCanonical (execGroupPromote core gs s) := by
  simp only [execGroupPromote]
  split <;> simp [hs]

/-! ### The L1 and memory operations of a core -/

@[simp] theorem State.sendMiss_mem (k line : Nat) (b : UpBody) : (s.sendMiss k line b).mem = s.mem := rfl

@[simp] theorem State.l1Evict_mem (k : Nat) (l : L1Line) : (s.l1Evict k l).mem = s.mem := rfl

@[simp] theorem State.l1Quit_mem (k line : Nat) : (s.l1Quit k line).mem = s.mem := rfl

theorem State.l1Ask_mem (k line : Nat) (kind : MissKind) (who : Asker) {t : State}
    (e : s.l1Ask k line kind who = some t) :
    t.mem = s.mem := by
  simp only [State.l1Ask] at e
  split at e
  · cases e
  · split at e
    · cases e
      simp
    · split at e
      · cases e
      next _ _ v _ => cases e; cases v <;> simp

/-- Memory is `m` in the state that a memory operation on one line comes to, if it comes to one. -/
def PumpMem (m : List Host.Cell) : Pump → Prop
  | .go t => t.mem = m
  | .wait o => ∀ t, o = some t → t.mem = m

@[simp] theorem pumpMem_go (m : List Host.Cell) (t : State) : PumpMem m (.go t) ↔ t.mem = m := Iff.rfl

theorem pumpMem_l1Ask (k line : Nat) (kind : MissKind) (who : Asker) :
    PumpMem s.mem (.wait (s.l1Ask k line kind who)) :=
  fun _ e => State.l1Ask_mem k line kind who e

theorem State.pumpLoad_mem (k line : Nat) (o : MemOp) (d : Nat) (size : MemSize) (sext : Bool)
    (need : List (Nat × Nat)) (got : List (Nat × Word)) :
    PumpMem s.mem (s.pumpLoad k line o d size sext need got) := by
  simp only [State.pumpLoad]
  split
  · exact pumpMem_l1Ask _ _ _ _
  · split
    · exact pumpMem_l1Ask (s := s.l1Evict k _) _ _ _ _
    · split
      · exact pumpMem_l1Ask (s := s.l1Quit k line) _ _ _ _
      · rfl

theorem State.pumpStore_mem (k line : Nat) (o : MemOp) (bytes : List (Nat × Byte)) (full : Bool) :
    PumpMem s.mem (s.pumpStore k line o bytes full) := by
  simp only [State.pumpStore]
  split
  · exact pumpMem_l1Ask _ _ _ _
  · split
    · exact pumpMem_l1Ask _ _ _ _
    · exact pumpMem_l1Ask (s := s.l1Evict k _) _ _ _ _
    · split
      · rfl
      · exact pumpMem_l1Ask (s := s.l1Quit k line) _ _ _ _
    · rfl

theorem State.allocRed_mem (k line : Nat) (o : MemOp) (t : DType) (es : List (Nat × Word)) :
    PumpMem s.mem (s.allocRed k line o t es) := by
  simp only [State.allocRed]
  split
  · intro t e
    cases e
  next _ v _ => cases v <;> simp

theorem State.pumpAdd_mem (k line : Nat) (o : MemOp) (t : DType) (es : List (Nat × Word)) :
    PumpMem s.mem (s.pumpAdd k line o t es) := by
  have quit : PumpMem s.mem ((s.l1Quit k line).allocRed k line o t es) :=
    State.allocRed_mem (s := s.l1Quit k line) k line o t es
  simp only [State.pumpAdd]
  split
  · exact State.allocRed_mem ..
  · split
    · exact quit
    · split
      · simp
      · exact quit
    · simp
    · split
      · simp
      · exact State.allocRed_mem (s := s.l1Evict k _) ..

theorem State.pumpDead_mem (k line : Nat) (o : MemOp) (chk : Bool) : PumpMem s.mem (s.pumpDead k line o chk) := by
  simp [State.pumpDead]

theorem State.pumpOp_mem (k line : Nat) (o : MemOp) : PumpMem s.mem (s.pumpOp k line o) := by
  simp only [State.pumpOp]
  split
  · exact State.pumpLoad_mem ..
  · exact State.pumpStore_mem ..
  · exact State.pumpAdd_mem ..
  · exact State.pumpDead_mem ..
  · rfl
  · rfl

theorem State.pumpLine_mem (n k line : Nat) : (State.pumpLine n s k line).mem = s.mem := by
  induction n generalizing s with
  | zero => rfl
  | succ n ih =>
    simp only [State.pumpLine]
    split
    · rfl
    · split
      · rfl
      next o _ =>
        have hp := s.pumpOp_mem k line o
        split
        next t e => rw [e] at hp; exact ih.trans hp
        next o' e =>
          rw [e] at hp
          cases o' with
          | none => rfl
          | some t => exact hp t rfl

@[simp] theorem State.pump_mem (k line : Nat) : (s.pump k line).mem = s.mem := State.pumpLine_mem ..

@[simp] theorem State.pumpStalled_mem (k : Nat) : (s.pumpStalled k).mem = s.mem := by
  simp [State.pumpStalled, foldl_mem]

@[simp] theorem State.memStart_mem (k bslot : Nat) (ks : List (List Nat × MemKind)) (lines : List Nat) :
    (s.memStart k bslot ks lines).mem = s.mem := by
  simp [State.memStart, foldl_mem]

@[simp] theorem State.holdAll_wf (hs : s.Canonical) (c : Nat) (as : List (Nat × Nat)) :
    (s.holdAll c as).Canonical := by
  refine foldl_keeps State.Canonical _ (fun t a ht => ?_) _ _ hs
  (repeat' split) <;> simp [ht]

@[simp] theorem State.walkAll_wf (hs : s.Canonical) (c : Nat) (as : List (Nat × Nat)) :
    (s.walkAll c as).Canonical := by
  refine foldl_keeps State.Canonical _ (fun t a ht => ?_) _ _ hs
  simp [ht]

@[simp] theorem State.lsuDone_mem (b : Bundle) (i : Issue) (n : Nat) : (s.lsuDone b i n).mem = s.mem := rfl

@[simp] theorem State.claim_mem (b : Bundle) (u : Issue) (dst : List Nat) : (s.claim b u dst).mem = s.mem := rfl

@[simp] theorem State.scrInstr_wf (hs : s.Canonical) (b : Bundle) (u : Issue) (region write : Bool) (dst : List Nat)
    (a n : Nat) (extra : List Nat → Nat) (f : Core → Nat → Nat → Core × Option (Nat × Nat × Word)) :
    (s.scrInstr b u region write dst a n extra f).Canonical := by
  simp only [State.scrInstr]
  split <;> simp [hs]

@[simp] theorem State.devLoad_wf (hs : s.Canonical) (b : Bundle) (u : Issue) (size : MemSize) (sext : Bool)
    (d a : Nat) :
    (s.devLoad b u size sext d a).Canonical := by
  simp only [State.devLoad]
  split <;> simp [hs]

theorem execLoad_wf (hs : s.Canonical) (b : Bundle) (sp : MemSpace) (size : MemSize) (sext : Bool) (d a : VReg) :
    ResCanonical (execLoad b sp size sext d a s) := by
  cases sp with
  | device => exact (resCanonical_next _).2 (State.issue_wf hs _ _ _ _ fun u t ht => State.devLoad_wf ht ..)
  | _ => exact (resCanonical_next _).2 (State.issue_wf hs _ _ _ _ fun u t ht => State.scrInstr_wf ht ..)

theorem execLoadReturn_wf (hs : s.Canonical) (core : CoreId) (id : Nat) :
    ResCanonical (execLoadReturn core id s) := by
  simp only [execLoadReturn]
  (repeat' split) <;> simp [hs]

@[simp] theorem State.devStore_wf (hs : s.Canonical) (b : Bundle) (u : Issue) (size : MemSize) (v a : Nat) :
    (s.devStore b u size v a).Canonical := by
  simp only [State.devStore]
  split <;> simp [hs]

theorem execStore_wf (hs : s.Canonical) (b : Bundle) (sp : MemSpace) (size : MemSize) (v a : VReg) :
    ResCanonical (execStore b sp size v a s) := by
  cases sp with
  | device => exact (resCanonical_next _).2 (State.issue_wf hs _ _ _ _ fun u t ht => State.devStore_wf ht ..)
  | _ => exact (resCanonical_next _).2 (State.issue_wf hs _ _ _ _ fun u t ht => State.scrInstr_wf ht ..)

theorem execScrCas_wf (hs : s.Canonical) (b : Bundle) (sp : ScrSpace) (d a cmp new : VReg) :
    ResCanonical (execScrCas b sp d a cmp new s) := by
  refine (resCanonical_next _).2 (State.issue_wf hs _ _ _ _ fun u t ht => ?_)
  simp [ht]

theorem execScrExch_wf (hs : s.Canonical) (b : Bundle) (sp : ScrSpace) (d a v : VReg) :
    ResCanonical (execScrExch b sp d a v s) := by
  refine (resCanonical_next _).2 (State.issue_wf hs _ _ _ _ fun u t ht => ?_)
  simp [ht]

theorem execScrAdd_wf (hs : s.Canonical) (b : Bundle) (sp : ScrSpace) (t : DType) (a v : VReg) :
    ResCanonical (execScrAdd b sp t a v s) := by
  refine (resCanonical_next _).2 (State.issue_wf hs _ _ _ _ fun u t ht => ?_)
  simp [ht]

theorem execStAdd_wf (hs : s.Canonical) (b : Bundle) (t : DType) (a v : VReg) :
    ResCanonical (execStAdd b t a v s) := by
  refine (resCanonical_next _).2 (State.issue_wf hs _ _ _ _ fun u t ht => ?_)
  dsimp only
  split <;> simp [ht]

theorem execMemDead_wf (hs : s.Canonical) (b : Bundle) (a n : VReg) (chk : Bool) :
    ResCanonical (execMemDead b a n chk s) := by
  refine (resCanonical_next _).2 (State.issue_wf hs _ _ _ _ fun u t ht => ?_)
  dsimp only
  (repeat' split) <;> simp [ht]

theorem execMemFence_wf (hs : s.Canonical) (b : Bundle) (module : Bool) : ResCanonical (execMemFence b module s) := by
  refine (resCanonical_next _).2 (State.issue_wf hs _ _ _ _ fun u t ht => ?_)
  simp [ht]

theorem execFillDeliver_wf (hs : s.Canonical) (core : CoreId) (line : Line) :
    ResCanonical (execFillDeliver core line s) := by
  simp only [execFillDeliver]
  (repeat' split) <;> simp [hs]

theorem execJoinAck_wf (hs : s.Canonical) (core : CoreId) (line : Line) : ResCanonical (execJoinAck core line s) := by
  simp only [execJoinAck]
  (repeat' split) <;> simp [hs]

@[simp] theorem State.snooped_mem (k line : Nat) (m : DnMsg) (r : UpBody × Core) :
    (s.snooped k line m r).mem = s.mem := rfl

theorem execSnoopShare_wf (hs : s.Canonical) (core : CoreId) (line : Line) :
    ResCanonical (execSnoopShare core line s) := by
  simp only [execSnoopShare]
  (repeat' split) <;> simp [hs]

theorem execSnoopInval_wf (hs : s.Canonical) (core : CoreId) (line : Line) :
    ResCanonical (execSnoopInval core line s) := by
  simp only [execSnoopInval]
  (repeat' split) <;> simp [hs]

theorem execSnoopDiscard_wf (hs : s.Canonical) (core : CoreId) (line : Line) :
    ResCanonical (execSnoopDiscard core line s) := by
  simp only [execSnoopDiscard]
  (repeat' split) <;> simp [hs]

/-! ### The LLC and the directory -/

@[simp] theorem State.remoteFault_wf (hs : s.Canonical) (k : Nat) (who : Asker) (code : BitVec 16) :
    (s.remoteFault k who code).Canonical := by
  simp only [State.remoteFault]
  split <;> simp [hs]

@[simp] theorem State.readerFault_wf (hs : s.Canonical) (line : Nat) (r : LReq) :
    (s.readerFault line r).Canonical := by
  simp only [State.readerFault]
  (repeat' split) <;> simp [hs]

@[simp] theorem State.startOp_mem (l : LLine) (r : LReq) (phase : OpPhase) (ks : List Nat) (b : DnBody) :
    (s.startOp l r phase ks b).mem = s.mem := by
  have h : (ks.foldl (fun t k => (t.dnSend k l.line b).addCount .dir (homeDie l.line) 0x808 1) s).mem = s.mem :=
    foldl_mem _ (fun t k => by simp) ks s
  simpa [State.startOp] using h

@[simp] theorem State.freeLine_mem (l : LLine) : (s.freeLine l).mem = s.mem := rfl

@[simp] theorem State.grantRead_mem (l : LLine) (st : L1St) (k : Nat) (m : BitVec 4) :
    (s.grantRead l st k m).mem = s.mem := rfl

@[simp] theorem State.supply_mem (l : LLine) (a : Agent) (m : BitVec 4) : (s.supply l a m).mem = s.mem := rfl

@[simp] theorem State.serveReads_mem (l : LLine) (rs : List LReq) : (s.serveReads l rs).mem = s.mem := by
  simp only [State.serveReads]
  rw [foldl_mem _ (fun _ _ => by (repeat' split) <;> simp)]
  simp

@[simp] theorem State.toRed_mem (l : LLine) (r : LReq) : (s.toRed l r).mem = s.mem := by
  simp only [State.toRed]
  split <;> simp

@[simp] theorem State.finishValue_wf (hs : s.Canonical) (l : LLine) (r : LReq) : (s.finishValue l r).Canonical := by
  simp only [State.finishValue]
  split <;> simp [hs, State.hbmPut_wf]

@[simp] theorem State.llcAdvance_wf (hs : s.Canonical) (line : Nat) : (s.llcAdvance line).Canonical := by
  simp only [State.llcAdvance]
  (repeat' split) <;> simp [hs]

@[simp] theorem State.opSnoop_wf (hs : s.Canonical) (l : LLine) (r : LReq) (ks : List Nat) (b : DnBody) :
    (s.opSnoop l r ks b).Canonical := by
  simp [State.opSnoop, hs]

@[simp] theorem State.convert_mem (l : LLine) (r : LReq) : (s.convert l r).mem = s.mem := by simp [State.convert]

@[simp] theorem State.performValue_wf (hs : s.Canonical) (l : LLine) (r : LReq) : (s.performValue l r).Canonical := by
  simp only [State.performValue]
  split <;> simp [hs]

@[simp] theorem State.toMerge_mem (l : LLine) (r : LReq) : (s.toMerge l r).mem = s.mem := rfl

@[simp] theorem State.performRed_wf (hs : s.Canonical) (l : LLine) (r : LReq) : (s.performRed l r).Canonical := by
  simp only [State.performRed]
  split <;> simp [hs]

@[simp] theorem State.deadFault_wf (hs : s.Canonical) (l : LLine) (r : LReq) (c : Nat) :
    (s.deadFault l r c).Canonical := by
  simp only [State.deadFault]
  split <;> simp [hs]

@[simp] theorem State.performDeadRead_wf (hs : s.Canonical) (l : LLine) (r : LReq) :
    (s.performDeadRead l r).Canonical := by
  simp only [State.performDeadRead]
  split <;> simp [hs]

@[simp] theorem State.performDead_wf (hs : s.Canonical) (l : LLine) (r : LReq) : (s.performDead l r).Canonical := by
  simp only [State.performDead]
  split <;> simp [hs]

@[simp] theorem State.perform_wf (hs : s.Canonical) (l0 : LLine) (r : LReq) : (s.perform l0 r).Canonical := by
  simp only [State.perform]
  split <;> simp [hs]

theorem State.drainLine_wf (n : Nat) (hs : s.Canonical) (line : Nat) : (State.drainLine n s line).Canonical := by
  induction n generalizing s with
  | zero => exact hs
  | succ n ih =>
    simp only [State.drainLine]
    split
    · exact hs
    · split
      · exact ih (State.perform_wf (by simpa using hs) ..)
      · exact hs
      · exact hs

@[simp] theorem State.queueAt_mem (l : LLine) (r : LReq) : (s.queueAt l r).mem = s.mem := by simp [State.queueAt]

@[simp] theorem State.mergeMore_mem (l : LLine) (m : BitVec 4) : (s.mergeMore l m).mem = s.mem := by
  simp [State.mergeMore]

@[simp] theorem State.atBusy_mem (l : LLine) (o : LOp) (r : LReq) : (s.atBusy l o r).mem = s.mem := by
  simp only [State.atBusy]
  (repeat' split) <;> simp

@[simp] theorem State.atEntry_wf (hs : s.Canonical) (l : LLine) (r : LReq) : (s.atEntry l r).Canonical := by
  simp only [State.atEntry]
  split <;> simp [hs]

theorem State.giveWays_wf (n : Nat) (hs : s.Canonical) (die set : Nat) : (State.giveWays n s die set).Canonical := by
  induction n generalizing s with
  | zero => exact hs
  | succ n ih =>
    simp only [State.giveWays]
    split
    · split
      · exact ih (State.atEntry_wf (by simpa using hs) ..)
      · simpa using hs
    · split
      · split
        · exact ih (State.perform_wf (by simpa using hs) ..)
        · exact ih (by simpa using hs)
      all_goals exact hs

@[simp] theorem State.settleLine_wf (hs : s.Canonical) (line : Nat) : (s.settleLine line).Canonical :=
  State.giveWays_wf _ (State.drainLine_wf _ hs _) ..

@[simp] theorem State.arrive_wf (hs : s.Canonical) (line : Nat) (r : LReq) : (s.arrive line r).Canonical := by
  simp only [State.arrive]
  split <;> simp [hs]

@[simp] theorem State.admitLate_wf (hs : s.Canonical) (d : Nat) : (s.admitLate d).Canonical := by
  simp only [State.admitLate]
  split <;> simp [hs]

@[simp] theorem State.ended_wf (hs : s.Canonical) (line : Nat) : (s.ended line).Canonical := by simp [State.ended, hs]

theorem State.onUp_wf (hs : s.Canonical) (k line : Nat) {f : UpMsg → Option State} (hf : ∀ m, OptCanonical (f m)) :
    (s.onUp k line f).Canonical := by
  simp only [State.onUp]
  split
  · exact hs
  · exact (hf _).getD hs

theorem execRd_wf (hs : s.Canonical) (core : CoreId) (line : Line) : ResCanonical (execRd core line s) := by
  refine (resCanonical_next _).2 (State.onUp_wf hs _ _ fun m => ?_)
  split <;> simp [hs]

theorem execOwn_wf (hs : s.Canonical) (core : CoreId) (line : Line) : ResCanonical (execOwn core line s) := by
  refine (resCanonical_next _).2 (State.onUp_wf hs _ _ fun m => ?_)
  split <;> simp [hs]

theorem execOwnFull_wf (hs : s.Canonical) (core : CoreId) (line : Line) : ResCanonical (execOwnFull core line s) := by
  refine (resCanonical_next _).2 (State.onUp_wf hs _ _ fun m => ?_)
  split <;> simp [hs]

theorem execJoinRequest_wf (hs : s.Canonical) (core : CoreId) (line : Line) :
    ResCanonical (execJoinRequest core line s) := by
  refine (resCanonical_next _).2 (State.onUp_wf hs _ _ fun m => ?_)
  split <;> simp [hs]

theorem execWbd_wf (hs : s.Canonical) (core : CoreId) (line : Line) : ResCanonical (execWbd core line s) := by
  refine (resCanonical_next _).2 (State.onUp_wf hs _ _ fun m => ?_)
  split <;> simp [hs]

theorem execWbr_wf (hs : s.Canonical) (core : CoreId) (line : Line) : ResCanonical (execWbr core line s) := by
  refine (resCanonical_next _).2 (State.onUp_wf hs _ _ fun m => ?_)
  split <;> simp [hs]

theorem execDeadRequest_wf (hs : s.Canonical) (core : CoreId) (line : Line) :
    ResCanonical (execDeadRequest core line s) := by
  refine (resCanonical_next _).2 (State.onUp_wf hs _ _ fun m => ?_)
  split <;> simp [hs]

@[simp] theorem State.agentReq_wf (hs : s.Canonical) (line : Nat) (r : LReq) : (s.agentReq line r).Canonical := by
  simp [State.agentReq, hs]

theorem execArd_wf (hs : s.Canonical) (a : Agent) (c : Option CtxId) (line : Line) (sect : BitVec 4) :
    ResCanonical (execArd a c line sect s) := by
  simp [execArd, hs]

theorem execAwr_wf (hs : s.Canonical) (a : AgentFor) (line : Line) (off : Fin 128) (bytes : List Byte) :
    ResCanonical (execAwr a line off bytes s) := by
  simp [execAwr, hs]

theorem execAadd_wf (hs : s.Canonical) (a : Agent) (line : Line) (t : DType) (es : List (Fin 64 × Word)) :
    ResCanonical (execAadd a line t es s) := by
  simp [execAadd, hs]

theorem execVict_wf (hs : s.Canonical) (die : DieId) (set : Fin 32768) : ResCanonical (execVict die set s) := by
  simp only [execVict]
  (repeat' split) <;> simp [hs]

@[simp] theorem State.noteDelta_mem (l : LLine) (b : UpBody) : (s.noteDelta l b).mem = s.mem := by
  simp only [State.noteDelta]
  split <;> simp

@[simp] theorem State.strayAnswer_wf (hs : s.Canonical) (m : UpMsg) : (s.strayAnswer m).Canonical := by
  simp only [State.strayAnswer]
  split <;> simp [hs]

@[simp] theorem State.takeAnswer_wf (hs : s.Canonical) (m : UpMsg) : (s.takeAnswer m).Canonical := by
  simp only [State.takeAnswer]
  (repeat' split) <;> simp [hs]

theorem execSnoopAnswer_wf (hs : s.Canonical) (core : CoreId) (line : Line) :
    ResCanonical (execSnoopAnswer core line s) := by
  refine (resCanonical_next _).2 (State.onUp_wf hs _ _ fun m => ?_)
  split <;> simp [hs]

@[simp] theorem State.fillFailed_wf (hs : s.Canonical) (l : LLine) (r : LReq) : (s.fillFailed l r).Canonical := by
  simp only [State.fillFailed]
  split <;> simp [hs]

@[simp] theorem State.fillFaults_wf (hs : s.Canonical) (line : Nat) (rs : List LReq) (valid bad : BitVec 4) :
    (s.fillFaults line rs valid bad).Canonical := by
  refine foldl_keeps State.Canonical _ (fun t a ht => ?_) _ _ hs
  simp [ht]

@[simp] theorem State.requeue_mem (line : Nat) (rs : List LReq) : (s.requeue line rs).mem = s.mem := by
  simp only [State.requeue]
  split <;> simp

@[simp] theorem State.fillArrive_wf (hs : s.Canonical) (line : Nat) : (s.fillArrive line).Canonical := by
  simp only [State.fillArrive]
  (repeat' split) <;> simp [hs]

theorem execFillArrive_wf (hs : s.Canonical) (line : Line) : ResCanonical (execFillArrive line s) := by
  simp [execFillArrive, hs]

@[simp] theorem State.conversionDone_wf (hs : s.Canonical) (line : Nat) : (s.conversionDone line).Canonical := by
  simp only [State.conversionDone]
  split
  · exact hs
  · split
    · exact hs
    · split
      · refine State.ended_wf (State.finishValue_wf ?_ ..) _
        split
        · simpa using State.hbmPut_wf s line _ _ false hs
        · simpa using hs
      · exact hs

theorem execConversionComplete_wf (hs : s.Canonical) (line : Line) :
    ResCanonical (execConversionComplete line s) := by
  simp [execConversionComplete, hs]

@[simp] theorem State.mergeStart_mem (line : Nat) : (s.mergeStart line).mem = s.mem := by
  simp only [State.mergeStart]
  (repeat' split) <;> simp

theorem execMergeStart_wf (hs : s.Canonical) (line : Line) : ResCanonical (execMergeStart line s) := by
  simp [execMergeStart, hs]

@[simp] theorem State.mergeDone_wf (hs : s.Canonical) (line : Nat) : (s.mergeDone line).Canonical := by
  simp only [State.mergeDone]
  split
  · exact hs
  · split
    · exact hs
    · split
      · split
        · refine State.ended_wf ?_ _
          split
          case h_2 => split <;> simp [hs, State.hbmPut_wf]
          case h_8 => split <;> simp [hs]
          all_goals simp [hs, State.hbmPut_wf]
        · exact hs
      all_goals exact hs

theorem execMergeComplete_wf (hs : s.Canonical) (line : Line) : ResCanonical (execMergeComplete line s) := by
  simp [execMergeComplete, hs]

theorem execWbArg_wf (hs : s.Canonical) (r : MbxReq) : ResCanonical (execWbArg r s) := by
  refine (resCanonical_next _).2 (State.mbxRun_wf hs _ _ _ fun k wr ws t ht => ?_)
  dsimp only
  split <;> simp [ht]

theorem execWbStart_wf (hs : s.Canonical) (r : MbxReq) : ResCanonical (execWbStart r s) := by
  refine (resCanonical_next _).2 (State.mbxRun_wf hs _ _ _ fun k wr ws t ht => ?_)
  dsimp only
  split <;> simp [ht]

theorem execWbVisit_wf (hs : s.Canonical) (die : DieId) : ResCanonical (execWbVisit die s) := by
  simp only [execWbVisit]
  (repeat' split) <;> simp [hs]

theorem execWbScanComplete_wf (hs : s.Canonical) (die : DieId) : ResCanonical (execWbScanComplete die s) := by
  simp only [execWbScanComplete]
  split <;> simp [hs]

theorem execLookupArg_wf (hs : s.Canonical) (r : MbxReq) : ResCanonical (execLookupArg r s) := by
  refine (resCanonical_next _).2 (State.mbxRun_wf hs _ _ _ fun k wr ws t ht => ?_)
  dsimp only
  split <;> simp [ht]

theorem execLookup_wf (hs : s.Canonical) (r : MbxReq) : ResCanonical (execLookup r s) := by
  refine (resCanonical_next _).2 (State.mbxRun_wf hs _ _ _ fun k wr ws t ht => ?_)
  dsimp only
  (repeat' split) <;> simp [ht]

theorem execLastDead_wf (hs : s.Canonical) (r : MbxReq) : ResCanonical (execLastDead r s) :=
  (resCanonical_next _).2 (State.mbxGet_wf hs _ _ _ _ _)

/-! ### RATTLE -/

@[simp] theorem State.rattlePass_mem (k : Nat) (w : Work) (op : MmOp) (set : TileSet) (rows : List (Nat × List Num)) :
    (s.rattlePass k w op set rows).mem = s.mem := by
  simp only [State.rattlePass]
  (repeat' split) <;> simp

@[simp] theorem State.disagree_mem (k : Nat) (x : Sample) (r m : Word) : (s.disagree k x r m).mem = s.mem := by
  simp [State.disagree]

theorem execRattleCheck_wf (hs : s.Canonical) (core : CoreId) : ResCanonical (execRattleCheck core s) := by
  simp only [execRattleCheck]
  (repeat' split) <;> simp [hs]

@[simp] theorem State.reseed_mem : s.reseed.mem = s.mem := rfl

theorem execLastDisagree_wf (hs : s.Canonical) (r : MbxReq) : ResCanonical (execLastDisagree r s) := by
  refine (resCanonical_next _).2 (State.mbxRun_wf hs _ _ _ fun k wr ws t ht => ?_)
  simp [ht]

/-! ### The array -/

@[simp] theorem State.mispredictEvent_mem (k : Nat) : (s.mispredictEvent k).mem = s.mem := by
  simp [State.mispredictEvent]

@[simp] theorem State.doChk_mem (k pid : Nat) : (s.doChk k pid).mem = s.mem := by
  simp only [State.doChk]
  split <;> simp

@[simp] theorem State.takeEffect_mem (k : Nat) (l : Launch) (e : ArrEntry) : (s.takeEffect k l e).mem = s.mem := by
  simp only [State.takeEffect]
  split <;> simp

theorem State.leaveHeld_wf (hs : s.Canonical) (k bank : Nat) {f : State → State}
    (hf : ∀ t, t.Canonical → (f t).Canonical) :
    (s.leaveHeld k bank f).Canonical := by
  simpa [State.leaveHeld] using hf s hs

@[simp] theorem State.cmpFault_wf (hs : s.Canonical) (k : Nat) (e : ArrEntry) : (s.cmpFault k e).Canonical := by
  simp only [State.cmpFault]
  split
  · exact State.leaveHeld_wf hs _ _ fun t ht => State.coreFault_wf ht ..
  · exact hs

theorem State.arrStep_wf (hs : s.Canonical) (k : Nat) (l : Launch) : OptCanonical (s.arrStep k l) := by
  simp only [State.arrStep]
  split
  · exact (optCanonical_some _).2 (State.cmpFault_wf hs ..)
  · split
    · exact (optCanonical_some _).2 (by simpa using hs)
    · intro t e
      obtain ⟨p, -, rfl⟩ := Option.map_eq_some_iff.1 e
      simpa using hs

theorem State.arrPump_wf (n : Nat) (hs : s.Canonical) (k : Nat) (l : Launch) : (State.arrPump n s k l).Canonical := by
  induction n generalizing s with
  | zero => exact hs
  | succ n ih =>
    simp only [State.arrPump]
    split
    · exact hs
    next t e => exact ih (State.arrStep_wf hs k l t e)

@[simp] theorem State.arrSettle_wf (hs : s.Canonical) (k : Nat) : (s.arrSettle k).Canonical := by
  simp only [State.arrSettle]
  split
  · exact hs
  · exact State.arrPump_wf 17 (by simpa using hs) ..

@[simp] theorem State.arrTick_wf (hs : s.Canonical) : s.arrTick.Canonical :=
  foldl_keeps State.Canonical _
    (fun _ p ht => State.orGhost_wf ht p.1 fun _ hu => State.arrSettle_wf hu p.1) _ s hs

@[simp] theorem State.arrIssue_wf (hs : s.Canonical) (o : One) (kind : IssueKind) (dst src : List Nat) (off : Bool)
    (try_ : ArrTry) (chk : Issue → Core → ArrChk) :
    (s.arrIssue o kind dst src off try_ chk).Canonical := by
  refine State.arrSettle_wf (State.issue_wf (State.arrSettle_wf hs _) _ _ _ _ fun u t ht => ?_) _
  refine State.canonical_ite ht (State.canonical_ite (State.coreFault_wf ht ..) ?_)
  split
  · exact State.coreFault_wf ht ..
  · simpa using ht
  · simp [ht]

@[simp] theorem State.tryIssue_wf (hs : s.Canonical) (o : One) (kind : IssueKind) (off : Bool) (try_ : ArrTry) :
    (s.tryIssue o kind off try_).Canonical := by
  simp [State.tryIssue, hs]

theorem execArrReady_wf (hs : s.Canonical) (o : One) (m : SlotMask) : ResCanonical (execArrReady o m s) := by
  simp [execArrReady, hs]

theorem execArrUnready_wf (hs : s.Canonical) (o : One) (m : SlotMask) : ResCanonical (execArrUnready o m s) := by
  simp [execArrUnready, hs]

theorem execArrLds_wf (hs : s.Canonical) (o : One) (slot : Fin 16) (src : VReg) (bytes : Nat) :
    ResCanonical (execArrLds o slot src bytes s) := by
  simp [execArrLds, hs]

theorem execArrLdsh_wf (hs : s.Canonical) (o : One) (slot : Fin 16) (fmt : BitVec 4) (col rel : Bool) :
    ResCanonical (execArrLdsh o slot fmt col rel s) := by
  simp [execArrLdsh, hs]

@[simp] theorem State.noteMm_mem (k before : Nat) : (s.noteMm k before).mem = s.mem := by simp [State.noteMm]

theorem execArrMm_wf (hs : s.Canonical) (o : One) (f : MmForm) : ResCanonical (execArrMm o f s) := by
  simp [execArrMm, hs]

theorem execArrDrain_wf (hs : s.Canonical) (o : One) (bank : Fin 2) (dst : Fin 16) (ofmt : BitVec 4)
    (mode : DrainMode) :
    ResCanonical (execArrDrain o bank dst ofmt mode s) := by
  simp [execArrDrain, hs]

theorem execArrStat_wf (hs : s.Canonical) (o : One) (d : VReg) : ResCanonical (execArrStat o d s) := by
  simp [execArrStat, hs]

theorem execSpFilt_wf (hs : s.Canonical) (o : One) (pid : BitVec 8) (mode : BitVec 2) :
    ResCanonical (execSpFilt o pid mode s) := by
  simp [execSpFilt, hs]

theorem execSpLdw_wf (hs : s.Canonical) (o : One) (slot : Fin 16) : ResCanonical (execSpLdw o slot s) := by
  simp [execSpLdw, hs]

theorem execSpEst_wf (hs : s.Canonical) (o : One) (pid : BitVec 8) (slot : Fin 16) (rows : Nat) (add : Bool) :
    ResCanonical (execSpEst o pid slot rows add s) := by
  simp [execSpEst, hs]

theorem execSpChk_wf (hs : s.Canonical) (o : One) (pid : BitVec 8) : ResCanonical (execSpChk o pid s) := by
  simp [execSpChk, hs]

theorem execSpStat_wf (hs : s.Canonical) (o : One) (d : VReg) : ResCanonical (execSpStat o d s) := by
  simp [execSpStat, hs]

@[simp] theorem State.arrayFault_wf (hs : s.Canonical) (k : Nat) (e : ArrEntry) (f : ArrFault) :
    (s.arrayFault k e f).Canonical := by
  have stop : ∀ t : State, t.Canonical → ((t.raise .array k 0x3005).coreFault k e.bslot 0 0x3005).Canonical :=
    fun t ht => State.coreFault_wf (by simpa using ht) ..
  simp only [State.arrayFault]
  split
  · exact hs
  · split
    · exact State.leaveHeld_wf (by simpa using hs) _ _ stop
    · exact stop _ (by simpa using hs)

@[simp] theorem State.arrayBad_wf (hs : s.Canonical) (k : Nat) (e : ArrEntry) (bad : Option ArrFault) :
    (s.arrayBad k e bad).Canonical := by
  simp only [State.arrayBad]
  split <;> simp [hs]

theorem execArrLdshStart_wf (hs : s.Canonical) (core : CoreId) : ResCanonical (execArrLdshStart core s) := by
  simp only [execArrLdshStart]
  (repeat' split) <;> simp [hs]

theorem execArrLdshComplete_wf {s0 : State} (hs : s0.Canonical) (core : CoreId) (bad : Option ArrFault) :
    ResCanonical (execArrLdshComplete core bad s0) := by
  refine (resCanonical_next _).2 (State.orGhost_wf hs _ fun t ht => ?_)
  dsimp only
  (repeat' split) <;> simp [ht]

@[simp] theorem State.runPass_mem (k : Nat) (w : Work) (l : Launch) (e : ArrEntry) (o : MmOp) :
    (s.runPass k w l e o).mem = s.mem := by
  simp only [State.runPass]
  split <;> simp

theorem execArrPassStart_wf {s0 : State} (hs : s0.Canonical) (core : CoreId) (bad : Option ArrFault) :
    ResCanonical (execArrPassStart core bad s0) := by
  refine (resCanonical_next _).2 (State.orGhost_wf hs _ fun t ht => ?_)
  dsimp only
  (repeat' split) <;> simp [ht]

theorem execArrPassComplete_wf {s0 : State} (hs : s0.Canonical) (core : CoreId) (bad : Option ArrFault) :
    ResCanonical (execArrPassComplete core bad s0) := by
  refine (resCanonical_next _).2 (State.orGhost_wf hs _ fun t ht => ?_)
  dsimp only
  (repeat' split) <;> simp [ht]

@[simp] theorem State.runDrain_wf (hs : s.Canonical) (k : Nat) (e : ArrEntry) (bank : Nat) (ofmt : Fmt) (int32 : Bool)
    (mode : Nat) :
    (s.runDrain k e bank ofmt int32 mode).Canonical := by
  simp only [State.runDrain]
  split <;> simp [hs]

theorem execArrDrainStart_wf {s0 : State} (hs : s0.Canonical) (core : CoreId) :
    ResCanonical (execArrDrainStart core s0) := by
  refine (resCanonical_next _).2 (State.orGhost_wf hs _ fun t ht => ?_)
  dsimp only
  (repeat' split) <;> simp [ht]

theorem execArrDrainComplete_wf (hs : s.Canonical) (core : CoreId) : ResCanonical (execArrDrainComplete core s) := by
  simp only [execArrDrainComplete]
  (repeat' split) <;> simp [hs]

theorem execFeedCycles_wf (hs : s.Canonical) (r : MbxReq) : ResCanonical (execFeedCycles r s) :=
  (resCanonical_next _).2 (State.mbxGet_wf hs _ _ _ _ _)

theorem execSwaps_wf (hs : s.Canonical) (r : MbxReq) : ResCanonical (execSwaps r s) :=
  (resCanonical_next _).2 (State.mbxGet_wf hs _ _ _ _ _)

/-! ### Sparse instructions and the MARBLE engines -/

/-- An instruction that reads memory keeps the canonical form when what it does with the data does. -/
theorem State.whenRead_wf {α : Type} (hs : s.Canonical) (b : Bundle) (u : Issue) (r : SrcRes α)
    {f : α → State → State} (hf : ∀ v t, t.Canonical → (f v t).Canonical) :
    (s.whenRead b u r f).Canonical := by
  simp only [State.whenRead]
  split
  · simpa using hs
  · refine State.coreFault_wf (foldl_keeps State.Canonical _ (fun t p ht => State.noteFault_wf ht ..) _ _ ?_) ..
    simp [State.walkParts, hs]
  · split
    · simpa using hs
    next t e =>
      rw [State.Canonical, State.lsuDone_mem]
      exact hf _ _ (State.holdAll_wf (State.agentReads_wf hs true _ t e) ..)

@[simp] theorem State.results_mem (b : Bundle) (u : Issue) (dst : List Nat) (vals : List (Nat × Nat × Word)) :
    (s.results b u dst vals).mem = s.mem := rfl

theorem execLdCmp_wf (hs : s.Canonical) (b : Bundle) (sp : MemSpace) (nz : Bool) (f : Fmt) (d i t row blk : VReg) :
    ResCanonical (execLdCmp b sp nz f d i t row blk s) := by
  refine (resCanonical_next _).2 (State.issue_wf hs _ _ _ _ fun u q hq => ?_)
  split
  · exact State.coreFault_wf hq ..
  · rw [State.Canonical, State.useFree_mem]
    exact State.whenRead_wf hq _ _ _ fun _ x hx => by simpa using hx

@[simp] theorem State.putEntries_mem (p : Nat) (es : List MEntry) : (s.putEntries p es).1.mem = s.mem := by
  simp only [State.putEntries]
  split
  · rw [foldl_mem _ (fun _ _ => by simp), foldl_mem _ (fun _ _ => by simp), foldl_mem _ (fun _ _ => by simp)]
  · rw [foldl_mem _ (fun _ _ => by simp), foldl_mem _ (fun _ _ => by simp)]

theorem State.putEntries_wf (hs : s.Canonical) (p : Nat) (es : List MEntry) {t : State} {ok : Bool}
    (e : s.putEntries p es = (t, ok)) :
    t.Canonical := by
  have h := s.putEntries_mem p es
  rw [e] at h
  rw [State.Canonical, h]
  exact hs

theorem execMrPut_wf (hs : s.Canonical) (b : Bundle) (t : DType) (base i v : VReg) :
    ResCanonical (execMrPut b t base i v s) := by
  refine (resCanonical_next _).2 (State.issue_wf hs _ _ _ _ fun u q hq => ?_)
  dsimp only
  split
  · exact State.coreFault_wf (State.walkAll_wf hq ..) ..
  next ps _ =>
    split
    next r e => simpa using State.putEntries_wf (State.holdAll_wf hq ..) _ _ e
    next r e => simpa using State.putEntries_wf (State.holdAll_wf hq ..) _ _ e

@[simp] theorem State.setLane_mem (u : Issue) (n : Nat) (x : SegLane) : (s.setLane u n x).mem = s.mem := rfl

theorem execSpSegset_wf (hs : s.Canonical) (b : Bundle) (base rows : VReg) :
    ResCanonical (execSpSegset b base rows s) := by
  refine (resCanonical_next _).2 (State.issue_wf hs _ _ _ _ fun u q hq => ?_)
  dsimp only
  split
  · exact State.coreFault_wf hq ..
  · exact State.whenRead_wf hq _ _ _ fun _ x hx => by simpa using hx

theorem execSpTake_wf (hs : s.Canonical) (b : Bundle) (d p n : VReg) : ResCanonical (execSpTake b d p n s) := by
  refine (resCanonical_next _).2 (State.issue_wf hs _ _ _ _ fun u q hq => ?_)
  dsimp only
  split
  · exact State.coreFault_wf hq ..
  · refine State.whenRead_wf hq _ _ _ fun r x hx => ?_
    split <;> simpa using hx

@[simp] theorem State.admitPlain_wf (hs : s.Canonical) (c : Nat) (slot : List Byte) (kindOk : FrameNo → Bool)
    (j : Job) :
    (s.admitPlain c slot kindOk j).Canonical := by
  simp [State.admitPlain, hs]

@[simp] theorem State.admitNotStarted_wf (hs : s.Canonical) (c : Nat) (slot : List Byte) (kindOk : FrameNo → Bool)
    (j : Job) :
    (s.admitNotStarted c slot kindOk j).Canonical := by
  simp [State.admitNotStarted, hs]

theorem execSortList_wf (hs : s.Canonical) (c : CtxId) : ResCanonical (execSortList c s) := by
  refine (resCanonical_next _).2 (State.onCommand_wf hs _ _ fun e => ?_)
  split <;> simp [hs]

theorem execMarbleWindowTimeout_wf (hs : s.Canonical) (die : DieId) :
    ResCanonical (execMarbleWindowTimeout die s) := by
  simp [execMarbleWindowTimeout, hs]

/-- Memory is in its canonical form in the state that reading a list entry comes to. -/
def SortCanonical : SortRead → Prop
  | .ok t => t.Canonical
  | .fault _ t => t.Canonical
  | .wait t => t.Canonical

theorem State.sortEntry_wf (hs : s.Canonical) (w : Work) (j : SortJob) (n : Nat) :
    SortCanonical (s.sortEntry w j n) := by
  simp only [State.sortEntry]
  split
  · exact State.walkReads_wf hs ..
  · split
    · exact State.noteFault_wf (State.walkReads_wf hs ..) ..
    · exact hs
    next t _ ht =>
      have hu := fun c va l => State.holdTlb_wf (State.agentRead_wf hs true _ _ t ht) c va l
      split
      · exact State.walkReads_wf (hu ..) ..
      · split
        · simpa [SortCanonical] using hs
        next v e =>
          have hv : v.Canonical := State.putEntries_wf (State.holdTlb_wf (hu ..) ..) _ _ e
          simpa [SortCanonical] using hv

theorem State.sortRun_wf (n : Nat) (hs : s.Canonical) (w : Work) (j : SortJob) :
    (State.sortRun n s w j).Canonical := by
  induction n generalizing s j with
  | zero => exact hs
  | succ n ih =>
    simp only [State.sortRun]
    have h := State.sortEntry_wf hs w j j.read
    split
    next e => rw [e] at h; exact ih h _
    next e => rw [e] at h; exact State.ctxFault_wf h ..
    next e => rw [e] at h; exact h

@[simp] theorem State.closeFor_mem (die job : Nat) : (s.closeFor die job).mem = s.mem := by simp [State.closeFor]

theorem execMarbleJobInputEnd_wf (hs : s.Canonical) (die : DieId) (work : Nat) :
    ResCanonical (execMarbleJobInputEnd die work s) := by
  simp only [execMarbleJobInputEnd, resCanonical_next]
  split
  · exact hs
  next w _ =>
    have hj : ∀ n j, (State.sortRun n s w j).Canonical := fun n j => State.sortRun_wf n hs w j
    (repeat' split) <;> simp [hs, hj]

theorem State.emitAdd_wf (d : Nat) (waiting : List Nat) (q : State × List MEntry) (x : WindowAdd)
    (hq : q.1.Canonical) :
    (State.emitAdd d waiting q x).1.Canonical := by
  simp only [State.emitAdd]
  split
  · exact hq
  · exact State.arrive_wf (by simpa using hq) ..

theorem State.emitWindow_wf (d : Nat) (waiting : List Nat) (q : State × List (Nat × List MEntry))
    (w : Nat × List MEntry) (hq : q.1.Canonical) :
    (State.emitWindow d waiting q w).1.Canonical :=
  foldl_keeps (fun q : State × List MEntry => q.1.Canonical) _ (fun q x => State.emitAdd_wf d waiting q x) _
    (q.1, []) hq

theorem execMarbleWindowEmit_wf (hs : s.Canonical) (die : DieId) : ResCanonical (execMarbleWindowEmit die s) := by
  simp only [execMarbleWindowEmit, resCanonical_next]
  split
  · rw [State.Canonical, State.setMarble_mem]
    exact foldl_keeps (fun q : State × List (Nat × List MEntry) => q.1.Canonical) _
      (fun q w => State.emitWindow_wf die.val _ q w) _ (_, []) (by simpa using hs)
  · exact hs

theorem execMarbleJobEnd_wf (hs : s.Canonical) (work : Nat) : ResCanonical (execMarbleJobEnd work s) := by
  simp only [execMarbleJobEnd]
  split <;> simp [hs]

theorem execMispTotal_wf (hs : s.Canonical) (r : MbxReq) : ResCanonical (execMispTotal r s) :=
  (resCanonical_next _).2 (State.mbxGet_wf hs _ _ _ _ _)

theorem execEntriesIn_wf (hs : s.Canonical) (r : MbxReq) : ResCanonical (execEntriesIn r s) :=
  (resCanonical_next _).2 (State.mbxGet_wf hs _ _ _ _ _)

/-! ### HBM -/

@[simp] theorem State.performReq_mem (r : NReq) : (s.performReq r).mem = s.mem := by simp [State.performReq]

theorem execNarrowSchedule_wf (hs : s.Canonical) (stack : Fin 12) (pc : Fin 32) :
    ResCanonical (execNarrowSchedule stack pc s) := by
  simp only [execNarrowSchedule]
  (repeat' split) <;> simp [hs]

@[simp] theorem State.strikeLine_wf (hs : s.Canonical) (line : Nat) (u : Upset) : (s.strikeLine line u).Canonical :=
  State.strike_wf (State.strike_wf (State.strike_wf (State.strike_wf hs ..) ..) ..) ..

@[simp] theorem State.readComplete_mem (line : Nat) : (s.readComplete line).mem = s.mem := by
  simp only [State.readComplete]
  (repeat' split) <;> simp [foldl_mem]

theorem execHbmReadComplete_wf (hs : s.Canonical) (line : Line) (upset : Upset) :
    ResCanonical (execHbmReadComplete line upset s) := by
  simp [execHbmReadComplete, hs]

theorem execHbmRefresh_wf (hs : s.Canonical) (stack : Fin 12) (pc : Fin 32) (sid : Fin 3) (bank : Fin 16) :
    ResCanonical (execHbmRefresh stack pc sid bank s) := by
  simp [execHbmRefresh, hs]

theorem execHbmScrub_wf (hs : s.Canonical) (stack : Fin 12) (upset : BitVec 18) :
    ResCanonical (execHbmScrub stack upset s) := by
  simp [execHbmScrub, hs]

theorem execHbmLastUncorr_wf (hs : s.Canonical) (r : MbxReq) : ResCanonical (execHbmLastUncorr r s) :=
  (resCanonical_next _).2 (State.mbxGet_wf hs _ _ _ _ _)

theorem execScrubPasses_wf (hs : s.Canonical) (r : MbxReq) : ResCanonical (execScrubPasses r s) :=
  (resCanonical_next _).2 (State.mbxGet_wf hs _ _ _ _ _)

/-! ### DMA -/

/-- Memory is in its canonical form in the state that a part of a piece comes to, if it comes to one. -/
def DmaCanonical {α : Type} : DmaRes α → Prop
  | .ok _ t _ _ => t.Canonical
  | .fault _ t => t.Canonical
  | .ats _ => True
  | .wait => True

/-- A step of a piece keeps the canonical form of memory. -/
def DmaKeeps {α : Type} (f : DmaM α) : Prop := ∀ s j h, s.Canonical → DmaCanonical (f s j h)

/-- What a command notes of its output keeps the canonical form of memory. -/
def NotedKeeps (f : Noted) : Prop := ∀ a b j s, s.Canonical → (f a b j s).Canonical

theorem DmaCanonical.andThen {α β : Type} {r : DmaRes α} {f : α → State → DmaJob → HostData → DmaRes β}
    (hr : DmaCanonical r) (hf : ∀ v, DmaKeeps (f v)) :
    DmaCanonical (r.andThen f) := by
  cases r with
  | ok v t k g => exact hf v t k g hr
  | fault c t => exact hr
  | ats a => trivial
  | wait => trivial

theorem dmaKeeps_ok {α : Type} (v : α) : DmaKeeps (fun s j h => .ok v s j h) := fun _ _ _ hs => hs

@[simp] theorem State.holeAccess_mem (e a : Nat) : (s.holeAccess e a).mem = s.mem := by simp [State.holeAccess]

theorem dmaMap_keeps (w : Work) (va n : Nat) (k : AccKind) : DmaKeeps (dmaMap w va n k) := by
  intro s j h hs
  simp only [dmaMap]
  split
  · exact hs
  · split
    · exact State.walkRange_wf hs ..
    · exact State.holdAll_wf hs ..

theorem readPart_keeps (w : Work) (e : Nat) (p : Part1) : DmaKeeps (readPart w e p) := by
  intro s j h hs
  have hr := State.agentRead_wf hs (!j.phys) p.addr p.len
  unfold readPart
  split
  · split
    · exact hs
    · trivial
  · split
    · simpa [DmaCanonical] using hs
    · split
      · split
        · trivial
        · exact State.noteFault_wf hs ..
      · split
        next t ht => exact hr t ht
        next => trivial

theorem eachPart_keeps {f : Part1 → DmaM (List Byte)} (hf : ∀ p, DmaKeeps (f p)) (ps : List Part1) :
    DmaKeeps (eachPart f ps) := by
  induction ps with
  | nil => exact dmaKeeps_ok _
  | cons p ps ih =>
    exact fun s j h hs => (hf p s j h hs).andThen fun a t k g ht => (ih t k g ht).andThen fun b => dmaKeeps_ok _

theorem dmaRead_keeps (w : Work) (e va n : Nat) : DmaKeeps (dmaRead w e va n) :=
  fun s j h hs => (dmaMap_keeps w va n .read s j h hs).andThen fun ps => eachPart_keeps (readPart_keeps w e) ps

theorem dmaSrc_keeps (w : Work) (e va n : Nat) : DmaKeeps (dmaSrc w e va n) := by
  intro s j h hs
  simp only [dmaSrc]
  split
  · exact hs
  · exact (dmaRead_keeps w e va n s j h hs).andThen fun bs t k g ht => ht

theorem writePart_keeps (w : Work) (e : Nat) (p : Part1) (bs : List Byte) : DmaKeeps (writePart w e p bs) := by
  intro s j h hs
  simp only [writePart]
  split
  · split
    · simpa [DmaCanonical] using hs
    · trivial
  · split
    · simpa [DmaCanonical] using hs
    · split
      · exact State.noteFault_wf hs ..
      · exact State.cohWrite_wf s _ _ _ hs

theorem nothing_keeps : NotedKeeps nothing := fun _ _ _ _ hs => hs

theorem writeParts_keeps (w : Work) (e : Nat) {f : Noted} (hf : NotedKeeps f) (off : Nat) (ps : List Part1)
    (bs : List Byte) :
    DmaKeeps (writeParts w e f off ps bs) := by
  induction ps generalizing off bs with
  | nil => exact dmaKeeps_ok ()
  | cons p ps ih =>
    exact fun s j h hs => (writePart_keeps w e p _ s j h hs).andThen fun _ t k g ht => ih _ _ _ k g (hf _ _ k t ht)

theorem dmaPut_keeps (w : Work) (e : Nat) {f : Noted} (hf : NotedKeeps f) (va : Nat) (bs : List Byte) :
    DmaKeeps (dmaPut w e f va bs) := by
  intro s j h hs
  simp only [dmaPut]
  split
  · exact hs
  · refine (dmaMap_keeps w va bs.length .write s j h hs).andThen fun ps => writeParts_keeps w e ?_ 0 ps bs
    exact fun a b k t ht => by simpa using hf a b k t ht

theorem dmaWrite_keeps (w : Work) (e va : Nat) (bs : List Byte) : DmaKeeps (dmaWrite w e va bs) :=
  dmaPut_keeps w e nothing_keeps va bs

@[simp] theorem State.noteTileWrite_mem (core : Nat) : (s.noteTileWrite core).mem = s.mem := rfl

theorem slotWrite_keeps (w : Work) (e core slot off : Nat) (bs : List Byte) :
    DmaKeeps (slotWrite w e core slot off bs) := by
  intro s j h hs
  simp only [slotWrite]
  split
  · exact hs
  · split
    · exact hs
    · split <;> simpa [DmaCanonical] using hs

theorem dmaOut_keeps (w : Work) (e : Nat) {f : Noted} (hf : NotedKeeps f) (off : Nat) (bs : List Byte) :
    DmaKeeps (dmaOut w e f off bs) := by
  intro s j h hs
  simp only [dmaOut]
  split
  · exact hs
  · split
    · exact (slotWrite_keeps w e _ _ off bs s j h hs).andThen fun _ t k g ht => hf _ _ k t ht
    · exact dmaPut_keeps w e hf _ bs s j h hs

theorem eachItem_keeps {α : Type} {f : α → DmaM Unit} (hf : ∀ x, DmaKeeps (f x)) (xs : List α) :
    DmaKeeps (eachItem f xs) := by
  induction xs with
  | nil => exact dmaKeeps_ok ()
  | cons x xs ih => exact fun s j h hs => (hf x s j h hs).andThen fun _ => ih

theorem gatherRow_keeps (w : Work) (e index rb stride : Nat) (scatter : Bool) (i : Nat) :
    DmaKeeps (gatherRow w e index rb stride scatter i) := fun s j h hs =>
  (dmaSrc_keeps w e _ 4 s j h hs).andThen fun _ t k g ht =>
    (dmaSrc_keeps w e _ _ t k g ht).andThen fun _ => dmaOut_keeps w e nothing_keeps _ _

theorem readBlock_keeps (w : Work) (e : Nat) (f : Fmt) (b : Nat) : DmaKeeps (readBlock w e f b) := fun s j h hs =>
  (dmaSrc_keeps w e _ _ s j h hs).andThen fun _ => dmaKeeps_ok _

theorem putAmax_keeps (w : Work) (e amax b : Nat) (a : List Num) : DmaKeeps (putAmax w e amax b a) := by
  intro s j h hs
  simp only [putAmax]
  split
  · exact hs
  · exact dmaWrite_keeps w e _ _ s j h hs

theorem readBump_keeps (w : Work) (e map b : Nat) : DmaKeeps (readBump w e map b) := by
  intro s j h hs
  simp only [readBump]
  split
  · exact hs
  · exact (dmaRead_keeps w e _ 1 s j h hs).andThen fun _ => dmaKeeps_ok _

theorem writeBump_keeps (w : Work) (e map b : Nat) (ovf : Bool) : DmaKeeps (writeBump w e map b ovf) := by
  intro s j h hs
  simp only [writeBump]
  split
  · exact hs
  · exact (dmaRead_keeps w e _ 1 s j h hs).andThen fun _ => dmaWrite_keeps w e _ _

theorem castBlock_keeps (w : Work) (e : Nat) (d f : Fmt) (scale map amax b : Nat) :
    DmaKeeps (castBlock w e d f scale map amax b) := by
  intro s j h hs
  refine (readBlock_keeps w e f b s j h hs).andThen fun a t k g ht => ?_
  refine (putAmax_keeps w e amax b a t k g ht).andThen fun _ t k g ht => ?_
  refine (readBump_keeps w e _ b t k g ht).andThen fun bump t k g ht => ?_
  refine (writeBump_keeps w e _ b _ t k g ht).andThen fun _ t k g ht => ?_
  refine DmaCanonical.andThen ?_ fun _ => dmaKeeps_ok _
  split
  · exact dmaWrite_keeps w e _ _ t k g ht
  · exact ht

@[simp] theorem State.dmaReport_mem (w : Work) (j : DmaJob) (d : Fmt) (es : List CastElem) :
    (s.dmaReport w j d es).mem = s.mem := by
  simp [State.dmaReport]

theorem noteElems_keeps (w : Work) (d : Fmt) (es : List CastElem) : NotedKeeps (noteElems w d es) :=
  fun a b j s hs => by simpa [noteElems] using hs

theorem blockOut_keeps (w : Work) (e off : Nat) (d : Fmt) (c : DmaCarry) : DmaKeeps (blockOut w e off d c) := by
  intro s j h hs
  refine (dmaOut_keeps w e (noteElems_keeps w d c.elems) off _ s j h hs).andThen fun _ t k g ht => ?_
  split <;> exact ht

theorem storeBlock_keeps (w : Work) (e : Nat) (d f : Fmt) (scale map amax b : Nat) :
    DmaKeeps (storeBlock w e d f scale map amax b) := fun s j h hs =>
  (castBlock_keeps w e d f scale map amax b s j h hs).andThen fun _ => blockOut_keeps w e _ d _

theorem storeBlocks_keeps (w : Work) (e : Nat) (d f : Fmt) (scale map amax : Nat) :
    DmaKeeps (storeBlocks w e d f scale map amax) := by
  intro s j h hs
  refine DmaCanonical.andThen ?_ fun _ t k g ht => eachItem_keeps (storeBlock_keeps w e d f scale map amax) _ t k g ht
  split
  · exact blockOut_keeps w e _ d _ s j h hs
  · exact hs

theorem castAll_keeps (w : Work) (e : Nat) (d f : Fmt) (scale map amax : Nat) (bs : List Nat) :
    DmaKeeps (castAll w e d f scale map amax bs) := by
  induction bs with
  | nil => exact dmaKeeps_ok []
  | cons b bs ih =>
    exact fun s j h hs => (castBlock_keeps w e d f scale map amax b s j h hs).andThen fun _ t k g ht =>
      (ih t k g ht).andThen fun _ => dmaKeeps_ok _

theorem storeTile_keeps (w : Work) (e : Nat) (d f : Fmt) (rowElems scale map amax : Nat) :
    DmaKeeps (storeTile w e d f rowElems scale map amax) := fun s j h hs =>
  (castAll_keeps w e d f scale map amax _ s j h hs).andThen fun _ => dmaOut_keeps w e (noteElems_keeps w d _) 0 _

theorem amaxBlock_keeps (w : Work) (e : Nat) (f : Fmt) (amax b : Nat) : DmaKeeps (amaxBlock w e f amax b) :=
  fun s j h hs => (readBlock_keeps w e f b s j h hs).andThen fun a => putAmax_keeps w e amax b a

theorem transElem_keeps (w : Work) (e rows size sp dp n : Nat) : DmaKeeps (transElem w e rows size sp dp n) :=
  fun s j h hs => (dmaSrc_keeps w e _ size s j h hs).andThen fun _ => dmaOut_keeps w e nothing_keeps _ _

theorem runPiece_keeps (w : Work) (e : Nat) : DmaKeeps (runPiece w e) := by
  intro s j h hs
  simp only [runPiece]
  split
  · exact (dmaSrc_keeps w e _ _ s j h hs).andThen fun _ t k g ht => dmaOut_keeps w e nothing_keeps _ _ t k g ht
  · exact dmaOut_keeps w e nothing_keeps _ _ s j h hs
  · exact eachItem_keeps (gatherRow_keeps w e _ _ _ _) _ s j h hs
  · split
    · exact storeTile_keeps w e _ _ _ _ _ _ s j h hs
    · exact storeBlocks_keeps w e _ _ _ _ _ s j h hs
  · exact eachItem_keeps (amaxBlock_keeps w e _ _) _ s j h hs
  · exact eachItem_keeps (transElem_keeps w e _ _ _ _) _ s j h hs

@[simp] theorem State.serve_mem (e : Nat) (ps : List Nat) (p : Nat) : (s.serve e ps p).mem = s.mem := rfl

@[simp] theorem State.dmaFault_wf (hs : s.Canonical) (w : Work) (code : BitVec 16) :
    (s.dmaFault w code).Canonical := by
  simp only [State.dmaFault]
  split <;> simp [hs]

@[simp] theorem State.readAhead_wf (hs : s.Canonical) (w : Work) (j : DmaJob) (p : DmaPiece) (host : HostData) :
    (s.readAhead w j p host).1.Canonical := by
  have hu : (s.useFree 1).Canonical := by simpa using hs
  have hr := runPiece_keeps w p.engine (s.useFree 1) { j with next := p.n, probe := true, cache := [] } host hu
  simp only [State.readAhead]
  split
  · exact hu
  · split
    next e => rw [e] at hr; exact hr
    next e => rw [e] at hr; exact State.dmaFault_wf hr ..
    next => exact hu
    next => exact hu

theorem State.takePieces_wf (n : Nat) (hs : s.Canonical) (e : Nat) (host : HostData) :
    (State.takePieces n s e host).1.Canonical := by
  induction n generalizing s host with
  | zero => exact hs
  | succ n ih =>
    simp only [State.takePieces]
    split
    · exact hs
    · split
      · exact hs
      · exact ih (State.readAhead_wf (by simpa using hs) ..) _

@[simp] theorem State.slotsReady_wf (hs : s.Canonical) (w : Work) (j : DmaJob) : (s.slotsReady w j).Canonical := by
  simp only [State.slotsReady]
  split <;> simp [hs]

@[simp] theorem State.pieceMoved_wf (hs : s.Canonical) (w : Work) (k : DmaJob) (p : DmaPiece) :
    (s.pieceMoved w k p).Canonical := by
  simp [State.pieceMoved, hs]

@[simp] theorem State.movePiece_wf (hs : s.Canonical) (e : Nat) (host : HostData) :
    (s.movePiece e host).Canonical := by
  simp only [State.movePiece]
  split
  · exact hs
  next w j p _ =>
    have hr := runPiece_keeps w e s { j with cache := p.cache } host hs
    split
    next => exact hs
    next => simpa using hs
    next e => rw [e] at hr; exact State.dmaFault_wf hr ..
    next e => rw [e] at hr; exact State.pieceMoved_wf hr ..

@[simp] theorem State.planPiece_mem (host : HostData) (x : Work × DmaJob) : (s.planPiece host x).mem = s.mem := by
  simp only [State.planPiece]
  (repeat' split) <;> simp

theorem execDmaPiece_wf (hs : s.Canonical) (engine : Fin 32) (host : HostData) :
    ResCanonical (execDmaPiece engine host s) := by
  have hp : (s.dmaJobs.foldl (State.planPiece host) s).Canonical :=
    foldl_keeps State.Canonical _ (fun t x ht => by simpa using ht) _ s hs
  exact (resCanonical_next _).2 (State.movePiece_wf (State.takePieces_wf 16 hp engine.val host) ..)

theorem execDmaCommandEnd_wf (hs : s.Canonical) (work : Nat) : ResCanonical (execDmaCommandEnd work s) := by
  simp only [execDmaCommandEnd]
  (repeat' split) <;> simp [hs]

theorem execLastHole_wf (hs : s.Canonical) (r : MbxReq) : ResCanonical (execLastHole r s) :=
  (resCanonical_next _).2 (State.mbxGet_wf hs _ _ _ _ _)

@[simp] theorem State.dmaFromCtx_wf (hs : s.Canonical) (c op : Nat) (parse : List Byte → List Byte → Option DmaOp) :
    (s.dmaFromCtx c op parse).Canonical := by
  simp only [State.dmaFromCtx]
  (repeat' split) <;> simp [hs]

@[simp] theorem State.dmaFromMgmt_mem (slot aux : List Byte) (parse : List Byte → List Byte → Option DmaOp) :
    (s.dmaFromMgmt slot aux parse).mem = s.mem := by
  simp only [State.dmaFromMgmt]
  split <;> simp

@[simp] theorem State.dmaCommand_wf (hs : s.Canonical) (i : Issuer) (op : Nat)
    (parse : List Byte → List Byte → Option DmaOp) :
    (s.dmaCommand i op parse).Canonical := by
  simp only [State.dmaCommand]
  split <;> simp [hs]

theorem execCopy_wf (hs : s.Canonical) (i : Issuer) : ResCanonical (execCopy i s) :=
  (resCanonical_next _).2 (State.dmaCommand_wf hs _ _ _)

theorem execFill_wf (hs : s.Canonical) (i : Issuer) : ResCanonical (execFill i s) :=
  (resCanonical_next _).2 (State.dmaCommand_wf hs _ _ _)

theorem execGather_wf (hs : s.Canonical) (i : Issuer) : ResCanonical (execGather i s) :=
  (resCanonical_next _).2 (State.dmaCommand_wf hs _ _ _)

theorem execStoreCast_wf (hs : s.Canonical) (i : Issuer) : ResCanonical (execStoreCast i s) :=
  (resCanonical_next _).2 (State.dmaCommand_wf hs _ _ _)

theorem execAmax_wf (hs : s.Canonical) (i : Issuer) : ResCanonical (execAmax i s) :=
  (resCanonical_next _).2 (State.dmaCommand_wf hs _ _ _)

theorem execTranspose_wf (hs : s.Canonical) (i : Issuer) : ResCanonical (execTranspose i s) := by
  simp only [execTranspose, resCanonical_next]
  split
  · split <;> simp [hs]
  · simp [hs]

/-! ### KITE: records and streams -/

@[simp] theorem State.takeCopy_mem (g : Nat) (second : Bool) : (s.takeCopy g second).mem = s.mem := rfl

theorem State.loadRecord_wf (hs : s.Canonical) (g : Nat) : OptCanonical (s.loadRecord g) := by
  intro t e
  obtain ⟨r, hr, rfl⟩ := Option.map_eq_some_iff.1 e
  have hr := State.agentRead_wf hs false _ 128 r hr
  (repeat' split) <;> simpa using hr

@[simp] theorem State.flipRecord_wf (hs : s.Canonical) (g commit step : Nat) (p1 p2 : Word) :
    (s.flipRecord g commit step p1 p2).Canonical := by
  simp [State.flipRecord, hs, State.devWrite_wf]

@[simp] theorem State.initRecord_wf (hs : s.Canonical) (g commit step : Nat) (p1 p2 : Word) :
    (s.initRecord g commit step p1 p2).Canonical := by
  simp [State.initRecord, hs, State.devWrite_wf]

@[simp] theorem State.kEvent_mem (p g bitNo : Nat) (code : BitVec 16) : (s.kEvent p g bitNo code).mem = s.mem := by
  simp [State.kEvent]

@[simp] theorem State.kOpen_mem (p g : Nat) (host : Bool) (dest : BitVec 15) (bs : List Byte) (whole : Bool) :
    (s.kOpen p g host dest bs whole).mem = s.mem := rfl

@[simp] theorem State.kGap_mem (p g : Nat) : (s.kGap p g).mem = s.mem := by simp [State.kGap]

@[simp] theorem State.kBegin_mem (p g commit : Nat) : (s.kBegin p g commit).mem = s.mem := by simp [State.kBegin]

@[simp] theorem State.kRow_mem (p g commit tensor row : Nat) (bs : List Byte) :
    (s.kRow p g commit tensor row bs).mem = s.mem := by
  simp only [State.kRow]
  split <;> simp

@[simp] theorem State.kFlipped_mem (p g commit : Nat) : (s.kFlipped p g commit).mem = s.mem := rfl

/-! ### NAROG -/

/-- Memory is in its canonical form in the state that a step of a job comes to, if it comes to one. -/
def NCanonical {α : Type} : NRes α → Prop
  | .ok _ t => t.Canonical
  | .fault _ t => t.Canonical
  | .wait => True

theorem NCanonical.andThen {α β : Type} {r : NRes α} {f : α → State → NRes β} (hr : NCanonical r)
    (hf : ∀ v t, t.Canonical → NCanonical (f v t)) :
    NCanonical (r.andThen f) := by
  cases r with
  | ok v t => exact hf v t hr
  | fault c t => exact hr
  | wait => trivial

theorem NCanonical.of_ok {α : Type} {r : NRes α} {v : α} {t : State} (e : r = .ok v t) (hr : NCanonical r) :
    t.Canonical := by
  rw [e] at hr
  exact hr

theorem NCanonical.of_fault {α : Type} {r : NRes α} {c : BitVec 16} {t : State} (e : r = .fault c t)
    (hr : NCanonical r) :
    t.Canonical := by
  rw [e] at hr
  exact hr

theorem nEach_wf {α : Type} {f : α → State → NRes Unit} (hf : ∀ x t, t.Canonical → NCanonical (f x t)) (xs : List α)
    (hs : s.Canonical) :
    NCanonical (nEach f xs s) := by
  induction xs generalizing s with
  | nil => exact hs
  | cons x xs ih => exact (hf x s hs).andThen fun _ t ht => ih ht

theorem State.vaRead_wf (hs : s.Canonical) (k : Party) (c va n : Nat) : NCanonical (s.vaRead k c va n) := by
  simp only [State.vaRead]
  split
  · exact State.walkRange_wf hs ..
  next ps _ =>
    have hr := State.agentReads_wf hs true (ps.map (·.2))
    split
    · exact State.walkRange_wf hs ..
    · split
      · split
        · trivial
        · exact foldl_keeps State.Canonical _ (fun t p ht => State.noteFault_wf ht ..) _ s hs
      next t _ ht => exact State.holdAll_wf (hr t ht) ..
      · trivial

theorem State.vaWrite_wf (hs : s.Canonical) (k : Party) (who : Agent) (c va : Nat) (bs : List Byte) :
    NCanonical (s.vaWrite k who c va bs) := by
  simp only [State.vaWrite]
  split
  · exact State.walkRange_wf hs ..
  · split
    · exact State.walkRange_wf hs ..
    · split
      · refine foldl_keeps State.Canonical _ (fun t p ht => ?_) _ s hs
        exact State.canonical_ite (State.noteFault_wf ht ..) ht
      · refine State.holdAll_wf ?_ ..
        exact foldl_keeps (fun q : State × List Byte => q.1.Canonical) _
          (fun q p hq => State.devWrite_wf q.1 _ _ _ hq) _ (s, bs) hs

theorem State.narogRead_wf (hs : s.Canonical) (c va n : Nat) : NCanonical (s.narogRead c va n) :=
  State.vaRead_wf hs ..

theorem State.narogWrite_wf (hs : s.Canonical) (c va : Nat) (bs : List Byte) : NCanonical (s.narogWrite c va bs) :=
  State.vaWrite_wf hs ..

@[simp] theorem State.updNarog_mem (id : Nat) (f : NarogJob → NarogJob) : (s.updNarog id f).mem = s.mem := by
  simp only [State.updNarog]
  split <;> simp

theorem State.rowsOf_wf (hs : s.Canonical) (c : Nat) (t : TRec) : NCanonical (s.rowsOf c t) := by
  simp only [State.rowsOf]
  split
  · exact hs
  · refine (State.narogRead_wf hs ..).andThen fun b u hu => ?_
    split <;> exact hu

theorem State.readMasters_wf (hs : s.Canonical) (c : Nat) (split : Bool) (base n row el : Nat) :
    NCanonical (s.readMasters c split base n row el) := by
  cases split with
  | true =>
    exact (State.narogRead_wf hs ..).andThen fun _ t ht => (State.narogRead_wf ht ..).andThen fun _ u hu => hu
  | false => exact (State.narogRead_wf hs ..).andThen fun _ t ht => ht

theorem State.readMoments_wf (hs : s.Canonical) (c : Nat) (m16 : Bool) (va el : Nat) :
    NCanonical (s.readMoments c m16 va el) := by
  cases m16 <;> exact (State.narogRead_wf hs ..).andThen fun _ t ht => ht

theorem State.writeMasters_wf (hs : s.Canonical) (c : Nat) (split : Bool) (base n row el : Nat) (ws : List Word) :
    NCanonical (s.writeMasters c split base n row el ws) := by
  cases split with
  | true => exact (State.narogWrite_wf hs ..).andThen fun _ t ht => State.narogWrite_wf ht ..
  | false => exact State.narogWrite_wf hs ..

theorem State.writeCopies_wf (hs : s.Canonical) (w : Work) (t : TRec) (row : Nat) (ws : List Word) :
    NCanonical (s.writeCopies w t row ws) := by
  refine nEach_wf (fun i u hu => (State.narogWrite_wf hu ..).andThen fun _ v hv => ?_) _ hs
  dsimp only
  split
  · exact State.narogWrite_wf (by simpa using hv) ..
  · simpa [NCanonical] using hv

@[simp] theorem State.teeRow_wf (hs : s.Canonical) (w : Work) (j : NarogJob) (p : RowPlace)
    (entry : Option (Nat × KTensor)) (row sh : Nat) (es : List Elem) :
    (s.teeRow w j p entry row sh es).Canonical := by
  simp only [State.teeRow]
  split <;> simp [hs, State.devWrite_wf]

theorem State.narogRow_wf (hs : s.Canonical) (w : Work) (j : NarogJob) (k : Scalars) (t : TRec)
    (entry : Option (Nat × KTensor)) (row : Nat) :
    NCanonical (s.narogRow w j k t entry row) := by
  refine (State.narogRead_wf hs ..).andThen fun tg s hs => ?_
  split
  · exact hs
  · refine (State.readMasters_wf hs ..).andThen fun ws s hs => ?_
    split
    · exact (State.writeCopies_wf hs ..).andThen fun _ u hu => by simpa [NCanonical] using hu
    · refine (State.narogRead_wf hs ..).andThen fun gb s hs => ?_
      refine (State.readMoments_wf hs ..).andThen fun ms s hs => ?_
      refine (State.readMoments_wf hs ..).andThen fun vs s hs => ?_
      refine (State.writeMasters_wf hs ..).andThen fun _ s hs => ?_
      refine (State.narogWrite_wf hs ..).andThen fun _ s hs => ?_
      refine (State.narogWrite_wf hs ..).andThen fun _ s hs => ?_
      refine (State.narogWrite_wf hs ..).andThen fun _ s hs => ?_
      refine State.writeCopies_wf (State.canonical_ite ?_ ?_) ..
      all_goals simp [hs]

theorem State.narogTensor_wf (hs : s.Canonical) (w : Work) (j : NarogJob) (k : Scalars) (i : Nat) :
    NCanonical (s.narogTensor w j k i) := by
  refine (State.narogRead_wf (by simpa using hs) ..).andThen fun b s hs => ?_
  split
  · exact hs
  · split
    · exact State.walkRange_wf hs ..
    · dsimp only
      split
      · exact State.walkReads_wf (State.walkReads_wf (State.holdAll_wf hs ..) ..) ..
      · split
        · exact State.holdAll_wf hs ..
        · refine (State.rowsOf_wf (State.holdAll_wf hs ..) ..).andThen fun rs u hu => ?_
          exact nEach_wf (fun r v hv => State.narogRow_wf hv ..) rs hu

@[simp] theorem State.narogStop_mem (id r : Nat) : (s.narogStop id r).mem = s.mem := by simp [State.narogStop]

theorem State.narogPhase1_wf (hs : s.Canonical) (w : Work) (j : NarogJob) (n : Option Word) :
    OptCanonical (s.narogPhase1 w j n) := by
  simp only [State.narogPhase1]
  split
  next e =>
    refine (optCanonical_some _).2 (NCanonical.of_ok e (nEach_wf (fun i u hu => State.narogTensor_wf hu ..) _ ?_))
    split <;> simpa using hs
  next e =>
    refine (optCanonical_some _).2 (State.ctxFault_wf ?_ ..)
    refine NCanonical.of_fault e (nEach_wf (fun i u hu => State.narogTensor_wf hu ..) _ ?_)
    split <;> simpa using hs
  next => exact optCanonical_none

theorem execNarogJobStart_wf (hs : s.Canonical) (work : Nat) : ResCanonical (execNarogJobStart work s) := by
  simp only [execNarogJobStart, resCanonical_next]
  split
  · exact hs
  · split
    · split
      · simpa using hs
      · exact (State.narogPhase1_wf (by simpa using hs) _ _ _).getD hs
    · exact hs

theorem execNarogWriteDone_wf (hs : s.Canonical) (work : Nat) : ResCanonical (execNarogWriteDone work s) := by
  simp only [execNarogWriteDone]
  split <;> simp [hs]

theorem execNarogFlip_wf (hs : s.Canonical) (work : Nat) : ResCanonical (execNarogFlip work s) := by
  simp only [execNarogFlip]
  split <;> simp [hs]

theorem execNarogReport_wf (hs : s.Canonical) (work : Nat) : ResCanonical (execNarogReport work s) := by
  simp only [execNarogReport]
  (repeat' split) <;> simp [hs]

@[simp] theorem State.narogAdmit_wf (hs : s.Canonical) (c : Nat) (cast : Bool) (slot : List Byte) :
    (s.narogAdmit c cast slot).Canonical := by
  simp only [State.narogAdmit]
  split <;> simp [hs]

theorem execUpdate_wf (hs : s.Canonical) (c : CtxId) : ResCanonical (execUpdate c s) :=
  (resCanonical_next _).2 (State.canonical_ite (State.onCommand_wf hs _ _ fun _ => State.narogAdmit_wf hs ..) hs)

theorem execCast_wf (hs : s.Canonical) (c : CtxId) : ResCanonical (execCast c s) :=
  (resCanonical_next _).2 (State.canonical_ite (State.onCommand_wf hs _ _ fun _ => State.narogAdmit_wf hs ..) hs)

theorem execRecordAddr_wf (hs : s.Canonical) (r : MbxReq) : ResCanonical (execRecordAddr r s) := by
  refine (resCanonical_next _).2 (State.mbxRun_wf hs _ _ _ fun g wr ws t ht => ?_)
  split
  · exact ht
  · split
    · exact ht
    · split
      · exact ht
      · have hu : ∀ x, (t.setSg g x).Canonical := fun x => by simpa using ht
        exact (State.loadRecord_wf (hu _) g).getD (hu _)

theorem execLoadRecord_wf (hs : s.Canonical) (r : MbxReq) : ResCanonical (execLoadRecord r s) := by
  refine (resCanonical_next _).2 (State.mbxRun_wf hs _ _ _ fun g wr ws t ht => ?_)
  split
  · exact ht
  · exact (State.loadRecord_wf ht g).getD ht

theorem execInit_wf (hs : s.Canonical) (r : MbxReq) : ResCanonical (execInit r s) := by
  refine (resCanonical_next _).2 (State.mbxRun_wf hs _ _ _ fun k wr ws t ht => ?_)
  split <;> simp [ht]

theorem execNarogCommitRead_wf (hs : s.Canonical) (r : MbxReq) : ResCanonical (execNarogCommitRead r s) :=
  (resCanonical_next _).2 (State.mbxGet_wf hs _ _ _ _ _)

theorem execNarogStepRead_wf (hs : s.Canonical) (r : MbxReq) : ResCanonical (execNarogStepRead r s) :=
  (resCanonical_next _).2 (State.mbxGet_wf hs _ _ _ _ _)

theorem execPowers_wf (hs : s.Canonical) (r : MbxReq) : ResCanonical (execPowers r s) := by
  refine (resCanonical_next _).2 (State.mbxRun_wf hs _ _ _ fun k wr ws t ht => ?_)
  simp [ht]

@[simp] theorem State.narogTouched_mem (g : Nat) : (s.narogTouched g).mem = s.mem := rfl

theorem execSlowtierLastUncorr_wf (hs : s.Canonical) (r : MbxReq) : ResCanonical (execSlowtierLastUncorr r s) :=
  (resCanonical_next _).2 (State.mbxGet_wf hs _ _ _ _ _)

/-! ### WATCH -/

@[simp] theorem State.takeReport_mem (x : Report) : (s.takeReport x).mem = s.mem := rfl

theorem execWatchReport_wf (hs : s.Canonical) : ResCanonical (execWatchReport s) := by
  simp only [execWatchReport]
  split <;> simp [hs]

@[simp] theorem State.closeEntry_mem (e step : Nat) : (s.closeEntry e step).1.mem = s.mem := by
  simp [State.closeEntry]

@[simp] theorem State.closeAll_mem (p step : Nat) : (s.closeAll p step).1.mem = s.mem :=
  foldl_keeps (fun q : State × List Nat => q.1.mem = s.mem) _
    (fun _ _ hq => (State.closeEntry_mem _ _).trans hq) _ (s, []) rfl

@[simp] theorem State.startDump_wf (hs : s.Canonical) (p step : Nat) (hits : List Nat) :
    (s.startDump p step hits).Canonical := by
  simp [State.startDump, hs, State.devWrite_wf]

@[simp] theorem State.closeStep_wf (hs : s.Canonical) (p step : Nat) : (s.closeStep p step).Canonical := by
  simp [State.closeStep, hs]

theorem execStepClose_wf (hs : s.Canonical) (p : PartId) : ResCanonical (execStepClose p s) := by
  simp only [execStepClose]
  split <;> simp [hs]

theorem execDumpComplete_wf (hs : s.Canonical) (p : PartId) : ResCanonical (execDumpComplete p s) := by
  simp only [execDumpComplete]
  split <;> simp [hs, State.devWrite_wf]

@[simp] theorem State.watchCfg_mem (e : Nat) (v : Word) : (s.watchCfg e v).mem = s.mem := by simp [State.watchCfg]

theorem execClosedStep_wf (hs : s.Canonical) (r : MbxReq) : ResCanonical (execClosedStep r s) :=
  (resCanonical_next _).2 (State.mbxGet_wf hs _ _ _ _ _)

theorem execClosed_wf (hs : s.Canonical) (r : MbxReq) (f : Fin 9) : ResCanonical (execClosed r f s) := by
  refine (resCanonical_next _).2 (State.mbxRun_wf hs _ _ _ fun k wr ws t ht => ?_)
  simp [ht]

theorem execLive_wf (hs : s.Canonical) (r : MbxReq) (f : Fin 9) : ResCanonical (execLive r f s) := by
  refine (resCanonical_next _).2 (State.mbxRun_wf hs _ _ _ fun k wr ws t ht => ?_)
  simp [ht]

theorem execDump_wf (hs : s.Canonical) (r : MbxReq) : ResCanonical (execDump r s) := by
  refine (resCanonical_next _).2 (State.mbxRun_wf hs _ _ _ fun k wr ws t ht => ?_)
  dsimp only
  (repeat' split) <;> simp [ht]

theorem execClose_wf (hs : s.Canonical) (r : MbxReq) : ResCanonical (execClose r s) := by
  refine (resCanonical_next _).2 (State.mbxRun_wf hs _ _ _ fun k wr ws t ht => ?_)
  dsimp only
  split <;> simp [ht]

theorem execNorm_wf (hs : s.Canonical) (r : MbxReq) : ResCanonical (execNorm r s) := by
  refine (resCanonical_next _).2 (State.mbxRun_wf hs _ _ _ fun k wr ws t ht => ?_)
  simp [ht]

@[simp] theorem State.deliverNorm_mem (p step : Nat) (n : Word) : (s.deliverNorm p step n).mem = s.mem := by
  simp [State.deliverNorm]

/-! ### ULINK -/

@[simp] theorem State.dropFlits_mem (p n : Nat) : (s.dropFlits p n).mem = s.mem := rfl

@[simp] theorem State.unreachable_mem (p : Nat) : (s.unreachable p).mem = s.mem := by simp [State.unreachable]

@[simp] theorem State.freeSlot_mem (at_ : Option (Nat × Nat)) : (s.freeSlot at_).mem = s.mem := by
  simp only [State.freeSlot]
  split <;> simp

@[simp] theorem State.holdFlit_mem (p : Nat) (f : Queued) : (s.holdFlit p f).mem = s.mem := by simp [State.holdFlit]

@[simp] theorem State.placeFlit_mem (f : Flit) (at_ : Option (Nat × Nat)) : (s.placeFlit f at_).mem = s.mem := by
  simp only [State.placeFlit]
  split <;> simp

@[simp] theorem State.portOff_mem (p : Nat) : (s.portOff p).mem = s.mem := by simp [State.portOff, foldl_mem]

@[simp] theorem State.failTraining_mem (p cause : Nat) : (s.failTraining p cause).mem = s.mem := by
  simp [State.failTraining]

@[simp] theorem State.startTraining_mem (p : Nat) : (s.startTraining p).mem = s.mem := by simp [State.startTraining]

@[simp] theorem State.releaseHeld_mem (p : Nat) : (s.releaseHeld p).mem = s.mem := by
  simp [State.releaseHeld, foldl_mem]

@[simp] theorem State.ulinkCtl_mem (p : Nat) (v : Word) : (s.ulinkCtl p v).mem = s.mem := by simp [State.ulinkCtl]

@[simp] theorem State.leaveHold_mem (before : State) : (s.leaveHold before).mem = s.mem := by
  unfold State.leaveHold
  exact foldl_mem _ (fun t p => by simp) _ s

@[simp] theorem State.forgetSlots_mem (p : Nat) : (s.forgetSlots p).mem = s.mem := rfl

theorem execPortUp_wf (hs : s.Canonical) (port : PortId) (peer : BitVec 15) (roundTrip : Nat) :
    ResCanonical (execPortUp port peer roundTrip s) := by
  simp [execPortUp, hs]

theorem execTrainFail_wf (hs : s.Canonical) (port : PortId) (peer : Option (BitVec 15)) :
    ResCanonical (execTrainFail port peer s) := by
  simp only [execTrainFail]
  (repeat' split) <;> simp [hs]

@[simp] theorem State.nodeDims_mem (dims : Bool) (v : Word) : (s.nodeDims dims v).mem = s.mem := by
  simp only [State.nodeDims]
  split
  · rfl
  · exact foldl_mem _ (fun t p => by simp) _ s

@[simp] theorem State.onLink_mem (p : Nat) (hdr : BitVec 64) (payload : List Byte) :
    (s.onLink p hdr payload).mem = s.mem := rfl

@[simp] theorem State.markerOut_mem (p : Nat) (m : Marker) : (s.markerOut p m).mem = s.mem := rfl

@[simp] theorem State.txFlit_mem (p : Nat) : (s.txFlit p).mem = s.mem := rfl

@[simp] theorem State.sendQueued_mem (p q : Nat) (turns : Nat × Nat) : (s.sendQueued p q turns).mem = s.mem := by
  simp only [State.sendQueued]
  split <;> simp

@[simp] theorem State.sendReplay_mem (p : Nat) : (s.sendReplay p).mem = s.mem := by
  simp only [State.sendReplay]
  (repeat' split) <;> simp

@[simp] theorem State.flitSlot_mem (p : Nat) : (s.flitSlot p).mem = s.mem := by
  simp only [State.flitSlot]
  split
  · split
    · rfl
    · simp
  · simp
  · simp
  · rw [State.onLink_mem, State.setPort_mem]

@[simp] theorem State.startReplay_mem (p : Nat) : (s.startReplay p).mem = s.mem := rfl

@[simp] theorem State.applyTrailer_mem (p : Nat) (t : BitVec 64) : (s.applyTrailer p t).mem = s.mem := by
  simp only [State.applyTrailer]
  (repeat' split) <;> simp

@[simp] theorem State.acceptFlit_mem (p : Nat) (f : Flit) : (s.acceptFlit p f).mem = s.mem := by
  simp [State.acceptFlit]

@[simp] theorem State.takeFlit_mem (p : Nat) (f : Flit) (seq : Nat) : (s.takeFlit p f seq).mem = s.mem := by
  simp [State.takeFlit]

@[simp] theorem State.stomp_mem (q : Nat) (g : Flit) : (s.stomp q g).mem = s.mem := rfl

@[simp] theorem State.cutThrough_mem (p : Nat) (im : FlitImage) : (s.cutThrough p im).mem = s.mem := by
  simp only [State.cutThrough]
  (repeat' split) <;> simp

@[simp] theorem State.receiveFlit_mem (p : Nat) (im : FlitImage) : (s.receiveFlit p im).mem = s.mem := by
  simp [State.receiveFlit]

theorem execFlitReceive_wf (hs : s.Canonical) (port : PortId) (im : FlitImage) :
    ResCanonical (execFlitReceive port im s) := by
  simp [execFlitReceive, hs]

theorem execRetryTimeout_wf (hs : s.Canonical) (port : PortId) : ResCanonical (execRetryTimeout port s) := by
  simp [execRetryTimeout, hs]

@[simp] theorem State.freeHeld_mem (fs : List Queued) : (s.freeHeld fs).mem = s.mem := by
  simp [State.freeHeld, foldl_mem]

@[simp] theorem State.declareDead_mem (p cause : Nat) : (s.declareDead p cause).mem = s.mem := by
  simp [State.declareDead, foldl_mem]

theorem execNoFlitTimeout_wf (hs : s.Canonical) (port : PortId) : ResCanonical (execNoFlitTimeout port s) := by
  simp [execNoFlitTimeout, hs]

theorem execAckTimeout_wf (hs : s.Canonical) (port : PortId) : ResCanonical (execAckTimeout port s) := by
  simp [execAckTimeout, hs]

theorem execLaneLockLost_wf (hs : s.Canonical) (lane : Fin 48) : ResCanonical (execLaneLockLost lane s) := by
  simp [execLaneLockLost, hs]

theorem execTxFlits_wf (hs : s.Canonical) (r : MbxReq) : ResCanonical (execTxFlits r s) :=
  (resCanonical_next _).2 (State.mbxGet_wf hs _ _ _ _ _)

theorem execRxFlits_wf (hs : s.Canonical) (r : MbxReq) : ResCanonical (execRxFlits r s) :=
  (resCanonical_next _).2 (State.mbxGet_wf hs _ _ _ _ _)

/-! ### Collectives -/

@[simp] theorem State.appendTx_mem (num : Nat) (items : List TxItem) : (s.appendTx num items).mem = s.mem := rfl

theorem State.collRead_wf (hs : s.Canonical) (c va n : Nat) : NCanonical (s.collRead c va n) := State.vaRead_wf hs ..

theorem State.collWrite_wf (hs : s.Canonical) (c va : Nat) (bs : List Byte) : NCanonical (s.collWrite c va bs) :=
  State.vaWrite_wf hs ..

theorem State.itemPayload_wf (hs : s.Canonical) (c : Nat) (x : TxItem) : NCanonical (s.itemPayload c x) := by
  simp only [State.itemPayload]
  split
  · exact hs
  · exact (State.collRead_wf hs ..).andThen fun _ t ht => ht

theorem State.pumpN_wf (n : Nat) (hs : s.Canonical) (num : Nat) : (State.pumpN n s num).Canonical := by
  induction n generalizing s with
  | zero => exact hs
  | succ n ih =>
    simp only [State.pumpN]
    split
    · exact hs
    · split
      · exact hs
      · split
        · exact hs
        · split
          next => exact hs
          next e => exact State.ctxFault_wf (NCanonical.of_fault e (State.itemPayload_wf hs ..)) ..
          next e =>
            have ht := NCanonical.of_ok e (State.itemPayload_wf hs ..)
            exact ih (by simpa using ht)

@[simp] theorem State.pumpFlow_wf (hs : s.Canonical) (num : Nat) : (s.pumpFlow num).Canonical :=
  State.pumpN_wf 1024 hs num

@[simp] theorem State.pumpFlows_wf (hs : s.Canonical) : s.pumpFlows.Canonical := by
  refine foldl_keeps State.Canonical _ (fun t a ht => ?_) _ _ hs
  simp [ht]

theorem State.takeInbox_wf (hs : s.Canonical) {p : Flit → Bool} {f : Flit} {t : State}
    (e : s.takeInbox p = some (f, t)) :
    t.Canonical := by
  simp only [State.takeInbox] at e
  split at e
  · cases e
  · cases e
    exact hs

@[simp] theorem State.countLate_mem : s.countLate.mem = s.mem := rfl

@[simp] theorem State.ackFlow_mem (x : RxFlow) : (s.ackFlow x).mem = s.mem := by simp [State.ackFlow]

@[simp] theorem State.setRx_mem (x : RxFlow) : (s.setRx x).mem = s.mem := by simp [State.setRx]

@[simp] theorem State.updColl_mem (id : Nat) (f : CollJob → CollJob) : (s.updColl id f).mem = s.mem := by
  simp only [State.updColl]
  split <;> simp

theorem State.finishSums_wf (hs : s.Canonical) (w : Work) (j : CollJob) (r rank e : Nat) (ws : List Word) :
    NCanonical (s.finishSums w j r rank e ws) :=
  (State.collWrite_wf hs ..).andThen fun _ t ht => by simpa [NCanonical] using ht

theorem State.ownPart_wf (hs : s.Canonical) (w : Work) (j : CollJob) (r c e n : Nat) :
    NCanonical (s.ownPart w j r c e n) :=
  (State.collRead_wf hs ..).andThen fun _ _ ht => ht

@[simp] theorem State.beginGather_wf (hs : s.Canonical) (id : Nat) : (s.beginGather id).Canonical := by
  simp only [State.beginGather]
  split
  · exact hs
  · split
    · have ht : ∀ f, (s.updColl id f).Canonical := fun f => by simpa using hs
      split
      · exact ht _
      · exact foldl_keeps State.Canonical _ (fun u x hu => State.pumpFlow_wf (by simpa using hu) _) _ _ (ht _)
    · exact hs

@[simp] theorem State.formNorm_mem (w : Work) (j : CollJob) (t : Nat × Bool × Bool) :
    (s.formNorm w j t).mem = s.mem := by
  simp [State.formNorm, foldl_mem]

@[simp] theorem State.tryNorm_mem (id : Nat) : (s.tryNorm id).mem = s.mem := by
  simp only [State.tryNorm]
  (repeat' split) <;> simp

@[simp] theorem State.advanceColl_wf (hs : s.Canonical) (id : Nat) : (s.advanceColl id).Canonical := by
  simp [State.advanceColl, hs]

@[simp] theorem State.meetReady_wf (hs : s.Canonical) (w : Work) (j : CollJob) (f : Flit) :
    (s.meetReady w j f).Canonical := by
  simp only [State.meetReady]
  (repeat' split) <;> simp [hs]

@[simp] theorem State.openRings_mem (w : Work) (xs : List CollRing) : (s.openRings w xs).mem = s.mem := by
  induction xs generalizing s with
  | nil => rfl
  | cons x xs ih => exact ih

theorem collRes_wf (w : Work) {r : NRes Unit} (hr : NCanonical r) : OptCanonical (collRes w r) := by
  cases r with
  | ok _ t => exact (optCanonical_some t).2 hr
  | fault c t => exact (optCanonical_some _).2 (State.ctxFault_wf hr ..)
  | wait => exact optCanonical_none

theorem State.firstData_wf (hs : s.Canonical) (w : Work) (j : CollJob) (r : Nat) (x : CollRing) :
    NCanonical (s.firstData w j r x) := by
  simp only [State.firstData]
  split
  · split
    · exact (State.ownPart_wf hs ..).andThen fun _ t ht => State.finishSums_wf ht ..
    · exact hs
  · refine (State.collRead_wf hs ..).andThen fun _ t ht => (State.collWrite_wf ht ..).andThen fun _ u hu => ?_
    exact State.canonical_ite hu hu

@[simp] theorem State.takeReadies_wf (hs : s.Canonical) (id : Nat) : (s.takeReadies id).Canonical := by
  simp only [State.takeReadies]
  split
  · exact hs
  · refine foldl_keeps State.Canonical _ (fun u f hu => ?_) _ _ hs
    split
    · exact hu
    · exact State.meetReady_wf hu ..

theorem State.startRings_wf (hs : s.Canonical) (w : Work) (j : CollJob) (b : List Byte) :
    OptCanonical (s.startRings w j b) := by
  intro t e
  obtain ⟨u, hu, rfl⟩ := Option.map_eq_some_iff.1 e
  refine State.advanceColl_wf (State.takeReadies_wf ?_ _) _
  refine collRes_wf _ (nEach_wf (fun x u hu => State.firstData_wf hu ..) _ ?_) u hu
  exact foldl_keeps State.Canonical _ (fun u x hu => by simpa using hu) _ _ (by simpa using hs)

@[simp] theorem State.startPut_wf (hs : s.Canonical) (w : Work) (j : CollJob) : (s.startPut w j).Canonical := by
  simp [State.startPut, hs]

theorem execCollectiveStart_wf (hs : s.Canonical) (work : Nat) : ResCanonical (execCollectiveStart work s) := by
  simp only [execCollectiveStart, resCanonical_next]
  split
  · exact hs
  next w j _ =>
    have hw : (s.setWork { w with running := true }).Canonical := by simpa using hs
    split
    · exact hs
    · split
      · exact State.startPut_wf hs ..
      · split
        next => exact hs
        next e => exact State.ctxFault_wf (NCanonical.of_fault e (State.collRead_wf hw ..)) ..
        next e =>
          have ht := NCanonical.of_ok e (State.collRead_wf hw ..)
          exact State.canonical_ite ((State.startRings_wf ht _ _ _).getD hs) (State.ctxFault_wf ht ..)

theorem State.reduceFlit_wf (hs : s.Canonical) (w : Work) (j : CollJob) (x : CollRing) (f : Flit) :
    NCanonical (s.reduceFlit w j x f) := by
  refine (State.ownPart_wf hs ..).andThen fun own t ht => ?_
  dsimp only
  split
  · exact ht
  · exact State.finishSums_wf ht ..

theorem State.gatherFlit_wf (hs : s.Canonical) (w : Work) (j : CollJob) (x : CollRing) (f : Flit) :
    NCanonical (s.gatherFlit w j x f) :=
  (State.collWrite_wf hs ..).andThen fun _ t ht => by simpa [NCanonical] using ht

theorem State.ringFlit_wf (hs : s.Canonical) (f : Flit) : OptCanonical (s.ringFlit f) := by
  simp only [State.ringFlit]
  split
  · simpa using hs
  · split
    · simpa using hs
    next w j _ =>
      split
      · simpa using hs
      next g _ =>
        have hr : NCanonical (if f.phase = 0 then s.reduceFlit w j g f else s.gatherFlit w j g f) := by
          split
          · exact State.reduceFlit_wf hs ..
          · exact State.gatherFlit_wf hs ..
        split
        · simpa using hs
        · split
          next => exact optCanonical_none
          next e => exact (optCanonical_some _).2 (State.ctxFault_wf (NCanonical.of_fault e hr) ..)
          next e =>
            refine (optCanonical_some _).2 (State.advanceColl_wf (State.pumpFlow_wf ?_ _) _)
            simpa using NCanonical.of_ok e hr

@[simp] theorem State.refusePut_mem (src : BitVec 15) (flow fseq : Nat) :
    (s.refusePut src flow fseq).mem = s.mem := by
  simp [State.refusePut]

@[simp] theorem State.landBytes_wf (hs : s.Canonical) (p off : Nat) (bs : List Byte) :
    (s.landBytes p off bs).Canonical := by
  simp [State.landBytes, hs, State.devWrite_wf]

@[simp] theorem State.putTails_wf (hs : s.Canonical) (x : RxFlow) (fseq : Nat) : (s.putTails x fseq).1.Canonical := by
  refine foldl_keeps State.Canonical _ (fun t a ht => ?_) _ _ hs
  simp [ht]

@[simp] theorem State.putFlit_wf (hs : s.Canonical) (f : Flit) : (s.putFlit f).Canonical := by
  simp [State.putFlit, hs]

theorem execCollData_wf (hs : s.Canonical) : ResCanonical (execCollData s) := by
  simp only [execCollData, resCanonical_next]
  split
  · exact hs
  next e =>
    have ht := State.takeInbox_wf hs e
    exact State.canonical_ite (State.putFlit_wf ht _) ((State.ringFlit_wf ht _).getD hs)

theorem execCollReady_wf (hs : s.Canonical) : ResCanonical (execCollReady s) := by
  simp only [execCollReady, resCanonical_next]
  split
  · exact hs
  next e =>
    have ht := State.takeInbox_wf hs e
    split
    · exact State.meetReady_wf ht ..
    · split <;> simpa using ht

@[simp] theorem State.flowAcked_wf (hs : s.Canonical) (f : TxFlow) (base : Nat) : (s.flowAcked f base).Canonical := by
  simp [State.flowAcked, hs]

@[simp] theorem State.lateCtrl_mem (f : Flit) : (s.lateCtrl f).mem = s.mem := by simp [State.lateCtrl]

@[simp] theorem State.takeFlowAck_wf (hs : s.Canonical) : s.takeFlowAck.Canonical := by
  simp only [State.takeFlowAck]
  split
  · exact hs
  next e =>
    have ht := State.takeInbox_wf hs e
    split
    · simpa using ht
    · exact State.flowAcked_wf ht ..

theorem execFlowAckTimer_wf (hs : s.Canonical) : ResCanonical (execFlowAckTimer s) := by
  simp only [execFlowAckTimer]
  split <;> simp [hs]

theorem execRewindTimeout_wf (hs : s.Canonical) : ResCanonical (execRewindTimeout s) := by
  simp only [execRewindTimeout]
  split <;> simp [hs]

theorem execNormUp_wf (hs : s.Canonical) : ResCanonical (execNormUp s) := by
  simp only [execNormUp, resCanonical_next]
  split
  · exact hs
  next e =>
    have ht := State.takeInbox_wf hs e
    split
    · split <;> simpa using ht
    · split <;> simpa using ht

theorem execNormDown_wf (hs : s.Canonical) : ResCanonical (execNormDown s) := by
  simp only [execNormDown, resCanonical_next]
  split
  · exact hs
  next e =>
    have ht := State.takeInbox_wf hs e
    split
    · split <;> simpa using ht
    · split <;> simpa using ht

theorem execRefuse_wf (hs : s.Canonical) : ResCanonical (execRefuse s) := by
  simp only [execRefuse, resCanonical_next]
  split
  · exact hs
  next e =>
    have ht := State.takeInbox_wf hs e
    split
    · simpa using ht
    · exact State.canonical_ite ht (State.ctxFault_wf ht ..)

@[simp] theorem State.leaveFlows_mem (id : Nat) : (s.leaveFlows id).mem = s.mem := rfl

theorem execCollectiveEnd_wf (hs : s.Canonical) (work : Nat) : ResCanonical (execCollectiveEnd work s) := by
  simp only [execCollectiveEnd]
  (repeat' split) <;> simp [hs]

@[simp] theorem State.collAdmit_wf (hs : s.Canonical) (c : Nat) (slot : List Byte) (j? : Option CollJob) :
    (s.collAdmit c slot j?).Canonical := by
  simp only [State.collAdmit]
  split <;> simp [hs]

theorem execReduceScatter_wf (hs : s.Canonical) (c : CtxId) : ResCanonical (execReduceScatter c s) :=
  (resCanonical_next _).2 (State.onCommand_wf hs _ _ fun e => by simp [hs])

theorem execAllGather_wf (hs : s.Canonical) (c : CtxId) : ResCanonical (execAllGather c s) :=
  (resCanonical_next _).2 (State.onCommand_wf hs _ _ fun e => by simp [hs])

theorem execAllReduce_wf (hs : s.Canonical) (c : CtxId) : ResCanonical (execAllReduce c s) :=
  (resCanonical_next _).2 (State.onCommand_wf hs _ _ fun e => by simp [hs])

theorem execPut_wf (hs : s.Canonical) (c : CtxId) : ResCanonical (execPut c s) :=
  (resCanonical_next _).2 (State.onCommand_wf hs _ _ fun e => by simp [hs])

theorem execLanding_wf (hs : s.Canonical) (r : MbxReq) : ResCanonical (execLanding r s) := by
  refine (resCanonical_next _).2 (State.mbxRun_wf hs _ _ _ fun k wr ws t ht => ?_)
  dsimp only
  (repeat' split) <;> simp [ht]

/-! ### KITE: checkpoints, feeds and restores -/

@[simp] theorem State.kWriteRow_wf (hs : s.Canonical) (g : Nat) (x : KTensor) (row slot : Nat) (b : List Byte) :
    (s.kWriteRow g x row slot b).Canonical := by
  refine State.devWrite_wf _ _ _ _ (State.devWrite_wf _ _ _ _ (State.canonical_ite ?_ ?_))
  · exact State.devWrite_wf _ _ _ _ (State.devWrite_wf _ _ _ _ hs)
  · exact State.devWrite_wf _ _ _ _ hs

theorem State.kSeen_wf (hs : s.Canonical) (rs : List (Nat × Nat)) : OptCanonical (s.kSeen rs) :=
  State.agentReads_wf hs false rs

/-- What follows a read of memory that may have to wait keeps the form when it does from the state after it. -/
theorem State.kSeen_map_wf (hs : s.Canonical) (rs : List (Nat × Nat)) {f : State → State}
    (hf : ∀ t, t.Canonical → (f t).Canonical) :
    OptCanonical ((s.kSeen rs).map f) :=
  (State.kSeen_wf hs rs).map hf

@[simp] theorem State.kRelease_mem (p : Nat) : (s.kRelease p).mem = s.mem := by
  simp only [State.kRelease]
  rw [foldl_mem _ (fun _ _ => by (repeat' split) <;> simp)]
  simp

@[simp] theorem State.setStream_mem (p : Nat) (x : KStream) : (s.setStream p x).mem = s.mem := rfl

@[simp] theorem State.kFlow_mem (p : Nat) (x : KStream) : (s.kFlow p x).1.mem = s.mem := by
  simp only [State.kFlow]
  (repeat' split) <;> simp

@[simp] theorem State.kTorus_wf (hs : s.Canonical) (p : Nat) (x : KStream) : (s.kTorus p x).Canonical := by
  simp only [State.kTorus]
  split <;> simp [hs]

@[simp] theorem State.kHostBytes_mem (p : Nat) (k : KPart) (n : Nat) (b : List Byte) :
    (s.kHostBytes p k n b).mem = s.mem := by
  simp [State.kHostBytes]

@[simp] theorem State.kHostOut_mem (p : Nat) (x : KStream) : (s.kHostOut p x).mem = s.mem := by simp [State.kHostOut]

@[simp] theorem State.kTransmit_wf (hs : s.Canonical) (p : Nat) : (s.kTransmit p).Canonical := by
  refine foldl_keeps State.Canonical _ (fun t a ht => ?_) _ _ hs
  simp [ht]

@[simp] theorem State.kTakeFlit_mem (f : Flit) : (s.kTakeFlit f).mem = s.mem := by simp [State.kTakeFlit]

@[simp] theorem State.kIntake_mem : s.kIntake.mem = s.mem := by simp [State.kIntake, foldl_mem]

@[simp] theorem State.kiteRun_wf (hs : s.Canonical) : s.kiteRun.Canonical := by
  unfold State.kiteRun
  exact foldl_keeps State.Canonical _ (fun t p ht => State.kTransmit_wf ht p) _ _ (by simpa using hs)

theorem execFlitSlot_wf (hs : s.Canonical) (port : PortId) : ResCanonical (execFlitSlot port s) := by
  simp [execFlitSlot, hs]

theorem execFlowAck_wf (hs : s.Canonical) : ResCanonical (execFlowAck s) := by
  simp only [execFlowAck]
  simp [hs, foldl_mem]

theorem State.kPop_wf (hs : s.Canonical) (src : KSrc) (b : List Byte) : OptCanonical (s.kPop src b) := by
  simp only [State.kPop]
  split
  · split
    · simpa using hs
    · split <;> simpa using hs
  · exact State.kSeen_map_wf hs _ fun t ht => by simpa using ht

@[simp] theorem State.kDrop_mem (p : Nat) : (s.kDrop p).mem = s.mem := rfl

theorem State.kClean_wf (n : Nat) (hs : s.Canonical) (src : KSrc) : (State.kClean n s src).Canonical := by
  induction n generalizing s with
  | zero => exact hs
  | succ n ih =>
    simp only [State.kClean]
    split
    · exact hs
    · split
      · exact hs
      · split
        next => exact hs
        next t e => exact ih (by simpa using State.kPop_wf hs _ _ t e)

@[simp] theorem State.kTake_wf (hs : s.Canonical) (type : Nat) : (s.kTake type).1.Canonical := by
  unfold State.kTake
  have hi : s.kIntake.Canonical := by simpa using hs
  have hc := foldl_keeps State.Canonical (fun t x => State.kClean 64 t x) (fun t x ht => State.kClean_wf 64 ht x)
    s.kIntake.kSources _ hi
  dsimp only
  generalize s.kIntake.kSources.foldl (fun t x => State.kClean 64 t x) s.kIntake = t at hc ⊢
  cases e : t.kSources.findSome? _ with
  | none => exact hc
  | some q =>
    obtain ⟨x, -, hx⟩ := List.exists_of_findSome?_eq_some e
    obtain ⟨b, -, hb⟩ := Option.bind_eq_some_iff.1 hx
    split at hb
    · obtain ⟨u, hu, rfl⟩ := Option.map_eq_some_iff.1 hb
      exact State.kPop_wf hc x b u hu
    · cases hb

theorem State.kTake_eq_wf (hs : s.Canonical) {type : Nat} {q : State × Option KRec} (e : s.kTake type = q) :
    q.1.Canonical := e ▸ State.kTake_wf hs type

@[simp] theorem State.kSend_mem (p g : Nat) (dest : BitVec 15) (b : List Byte) : (s.kSend p g dest b).mem = s.mem :=
  rfl

@[simp] theorem State.kCadence_mem (p g : Nat) : (s.kCadence p g).mem = s.mem := by
  simp only [State.kCadence]
  (repeat' split) <;> simp

@[simp] theorem State.kSettle_mem (p g : Nat) : (s.kSettle p g).mem = s.mem := by simp [State.kSettle]

@[simp] theorem State.kAcked_mem (p g commit : Nat) (f : SealWait → SealWait) :
    (s.kAcked p g commit f).mem = s.mem := by
  simp [State.kAcked]

@[simp] theorem State.storeAck_mem (p shard commit : Nat) : (s.storeAck p shard commit).mem = s.mem := by
  simp only [State.storeAck]
  split <;> simp

theorem execAck_wf (hs : s.Canonical) : ResCanonical (execAck s) := by
  simp only [execAck, resCanonical_next]
  split
  next e => exact State.kTake_eq_wf hs e
  next t r e =>
    have ht : t.Canonical := State.kTake_eq_wf hs e
    simpa using ht

theorem execStoreTimeout_wf (hs : s.Canonical) (g : Fin 256) : ResCanonical (execStoreTimeout g s) := by
  simp only [execStoreTimeout]
  (repeat' split) <;> simp [hs]

theorem execBuddyPut_wf (hs : s.Canonical) : ResCanonical (execBuddyPut s) := by
  simp only [execBuddyPut, resCanonical_next]
  split
  next e => exact State.kTake_eq_wf hs e
  next t r e =>
    have ht : t.Canonical := State.kTake_eq_wf hs e
    exact State.kTransmit_wf (by simpa using ht) _

theorem execBuddyAck_wf (hs : s.Canonical) : ResCanonical (execBuddyAck s) := by
  simp only [execBuddyAck, resCanonical_next]
  split
  next e => exact State.kTake_eq_wf hs e
  next t r e =>
    have ht : t.Canonical := State.kTake_eq_wf hs e
    (repeat' split) <;> simpa using ht

@[simp] theorem State.kSeal_mem (p g stream commit flippedAt rows : Nat) (header d : List Byte) :
    (s.kSeal p g stream commit flippedAt rows header d).mem = s.mem := by
  simp [State.kSeal]

theorem State.kSweep_wf (hs : s.Canonical) (p g : Nat) (xs : List (Nat × KTensor × Nat)) :
    (State.kSweep p g xs s).Canonical := by
  induction xs generalizing s with
  | nil => exact hs
  | cons x xs ih =>
    simp only [State.kSweep]
    split
    · exact hs
    · split
      next => exact hs
      next e => exact ih (by simpa using State.kSeen_wf hs _ _ e)
      next e =>
        split
        · exact ih (by simpa using State.kSeen_wf hs _ _ e)
        · exact hs

@[simp] theorem State.kSweptAll_wf (hs : s.Canonical) (p g : Nat) (c : Ckpt) : (s.kSweptAll p g c).Canonical := by
  unfold State.kSweptAll
  cases c.digest with
  | some d =>
    dsimp only
    split <;> simpa using hs
  | none =>
    cases e : s.kSeen _ with
    | none => exact hs
    | some t =>
      have ht := State.kSeen_wf hs _ t e
      cases s.kDigest g c.commit c.header with
      | none => simpa using ht
      | some d =>
        simp only [Option.map_some]
        split <;> simpa using ht

theorem execSweepComplete_wf (hs : s.Canonical) (g : Fin 256) : ResCanonical (execSweepComplete g s) := by
  simp only [execSweepComplete, resCanonical_next]
  split
  · exact hs
  next p _ =>
    split
    · exact hs
    next c0 _ =>
      split
      · exact hs
      · have ht := State.kSweep_wf hs p g.val ((tableRows (s.kgroup g.val).table).drop c0.swept)
        refine State.kTransmit_wf ?_ _
        split
        · exact ht
        · exact State.canonical_ite ht (State.kSweptAll_wf ht ..)

@[simp] theorem State.kFeedUnsent_mem (p g : Nat) : (s.kFeedUnsent p g).mem = s.mem := by
  simp only [State.kFeedUnsent]
  (repeat' split) <;> simp

@[simp] theorem State.kFeedDropped_wf (hs : s.Canonical) (p g : Nat) : (s.kFeedDropped p g).Canonical := by
  simp only [State.kFeedDropped, State.Canonical, State.setKgroup_mem]
  exact foldl_keeps State.Canonical _ (fun u a hu => State.devWrite_wf u _ _ _ hu) _ _ (by simpa using hs)

@[simp] theorem State.kAbandonAll_mem (p : Nat) : (s.kAbandonAll p).mem = s.mem := by
  simp [State.kAbandonAll, foldl_mem]

@[simp] theorem State.setRestore_mem (p : Nat) (f : Restore → Restore) : (s.setRestore p f).mem = s.mem := rfl

@[simp] theorem State.kRestoreRow_wf (hs : s.Canonical) (r : KRec) : (s.kRestoreRow r).Canonical := by
  simp only [State.kRestoreRow]
  split
  · simpa using hs
  next x row _ =>
    have hw : ∀ t : State, t.Canonical → ∀ a b v w,
        ((t.devWrite kiteWrites a v).devWrite kiteWrites b w).Canonical :=
      fun t ht a b v w => State.devWrite_wf _ _ _ _ (State.devWrite_wf _ _ _ _ ht)
    have ht : (if s.hostFed then s else s.kWriteRow (s.kpart r.part).restore.sg x row 0
        (bytesAt r.body 8 (s.kRowLen (s.kpart r.part).restore.sg x))).Canonical :=
      State.canonical_ite hs (State.kWriteRow_wf hs ..)
    split
    · simpa using hw _ ht _ _ _ _
    · exact hw _ ht _ _ _ _

theorem State.kFeedRow_wf (hs : s.Canonical) (r : KRec) : OptCanonical (s.kFeedRow r) := by
  simp only [State.kFeedRow]
  split
  · simpa using hs
  · split
    · simpa using hs
    · split
      · simpa using hs
      · refine State.kSeen_map_wf hs _ fun t ht => ?_
        have hw : ∀ a b v w, ((t.devWrite kiteWrites a v).devWrite kiteWrites b w).Canonical :=
          fun a b v w => State.devWrite_wf _ _ _ _ (State.devWrite_wf _ _ _ _ ht)
        split <;> simpa using hw ..

@[simp] theorem State.kFeedOpen_wf {s0 : State} (hs : s0.Canonical) (r : KRec) : (s0.kFeedOpen r).Canonical := by
  simp [State.kFeedOpen, hs]

theorem execOpenRecord_wf (hs : s.Canonical) : ResCanonical (execOpenRecord s) := by
  simp only [execOpenRecord, resCanonical_next]
  split
  next e => exact State.kTake_eq_wf hs e
  next t r e =>
    have ht : t.Canonical := State.kTake_eq_wf hs e
    split
    · simpa using ht
    · split
      · exact ht
      · split
        · exact State.kTransmit_wf (State.kFeedOpen_wf ht _) _
        · split <;> simpa using ht

theorem execRowRecord_wf (hs : s.Canonical) : ResCanonical (execRowRecord s) := by
  simp only [execRowRecord, resCanonical_next]
  split
  next e => exact State.kTake_eq_wf hs e
  next t r e =>
    have ht : t.Canonical := State.kTake_eq_wf hs e
    split
    · exact State.kTransmit_wf (State.kRestoreRow_wf ht _) _
    · split
      · exact ((State.kFeedRow_wf ht r).map fun u hu => State.kTransmit_wf hu _).getD hs
      · simpa using ht

@[simp] theorem State.kStagedSeal_wf (hs : s.Canonical) (p : Nat) (b : List Byte) :
    (s.kStagedSeal p b).Canonical := by
  refine foldl_keeps State.Canonical _ (fun t a ht => ?_) _ _ hs
  simp [ht, State.devWrite_wf]

theorem State.kFeedSeal_wf (hs : s.Canonical) (r : KRec) : OptCanonical (s.kFeedSeal r) := by
  simp only [State.kFeedSeal]
  split
  · simpa using hs
  · split
    · simpa using hs
    · refine State.kSeen_map_wf (by simp [hs]) _ fun t ht => ?_
      split <;> simp [ht]

@[simp] theorem State.kRestoreSeal_mem (r : KRec) : (s.kRestoreSeal r).mem = s.mem := rfl

theorem execSealRecord_wf (hs : s.Canonical) : ResCanonical (execSealRecord s) := by
  simp only [execSealRecord, resCanonical_next]
  split
  next e => exact State.kTake_eq_wf hs e
  next t r e =>
    have ht : t.Canonical := State.kTake_eq_wf hs e
    split
    · simpa using ht
    · split
      · exact ((State.kFeedSeal_wf ht r).map fun u hu => State.kTransmit_wf hu _).getD hs
      · exact ht

theorem execAbortRecord_wf (hs : s.Canonical) : ResCanonical (execAbortRecord s) := by
  simp only [execAbortRecord, resCanonical_next]
  split
  next e => exact State.kTake_eq_wf hs e
  next t r e =>
    have ht : t.Canonical := State.kTake_eq_wf hs e
    exact State.canonical_ite (State.kTransmit_wf (State.kFeedDropped_wf ht ..) _) ht

theorem execRestoreReq_wf (hs : s.Canonical) : ResCanonical (execRestoreReq s) := by simp [execRestoreReq, hs]

theorem execReplReq_wf (hs : s.Canonical) : ResCanonical (execReplReq s) := by
  simp only [execReplReq, resCanonical_next]
  split
  next e => exact State.kTake_eq_wf hs e
  next t r e =>
    have ht : t.Canonical := State.kTake_eq_wf hs e
    split
    next => exact hs
    next e => exact State.kTransmit_wf (by simpa using State.kSeen_wf ht _ _ e) _

@[simp] theorem State.replEnd_mem (p status : Nat) (v : List Byte) : (s.replEnd p status v).mem = s.mem := by
  simp [State.replEnd]

theorem execReplAns_wf (hs : s.Canonical) : ResCanonical (execReplAns s) := by
  simp only [execReplAns, resCanonical_next]
  split
  next e => exact State.kTake_eq_wf hs e
  next t r e =>
    have ht : t.Canonical := State.kTake_eq_wf hs e
    split <;> simpa using ht

theorem execRestoreClearDone_wf (hs : s.Canonical) (part : PartId) : ResCanonical (execRestoreClearDone part s) := by
  simp only [execRestoreClearDone, resCanonical_next]
  split
  · exact hs
  · have ht : ∀ f, (((tableRows (s.kgroup (s.kpart part.val).restore.sg).table).foldl (fun t e =>
        t.devWrite kiteWrites (s.kTagAt (s.kpart part.val).restore.sg e.2.1 e.2.2) (List.replicate 16 0xFF))
        s).setRestore part.val f).Canonical := fun f => by
      rw [State.Canonical, State.setRestore_mem]
      exact foldl_keeps State.Canonical _ (fun u a hu => State.devWrite_wf u _ _ _ hu) _ _ hs
    split
    · exact ht _
    · exact State.kTransmit_wf (by simpa using ht id) _

@[simp] theorem State.loadRng_mem (p : Nat) (n : RngSnap) : (s.loadRng p n).mem = s.mem := by
  unfold State.loadRng
  exact (foldl_mem _ (fun u i => State.setCfg_mem u _ _ _ _) _ _).trans (by simp)

theorem execRestoreCheckDone_wf {s0 : State} (hs : s0.Canonical) (part : PartId) :
    ResCanonical (execRestoreCheckDone part s0) := by
  simp only [execRestoreCheckDone, resCanonical_next]
  split
  next => exact hs
  next t e =>
    have ht := State.kSeen_wf hs _ t e
    split
    · exact hs
    · split
      · simpa using ht
      · split
        · simpa using ht
        · simpa using State.initRecord_wf ht ..

/-! ### Mailbox items of KITE and RNG -/

theorem State.kItem_wf (hs : s.Canonical) (r : MbxReq) (num : Nat) (rd wr : Bool) (len : Nat)
    {act : Nat → Bool → List Word → State → ItemRes} (ha : ∀ p w ws t, t.Canonical → (act p w ws t).2.2.Canonical) :
    (s.kItem r num rd wr len act).Canonical :=
  State.mbxRun_wf hs r _ _ ha

theorem State.kGroupItem_wf (hs : s.Canonical) (r : MbxReq) (num : Nat) (rd wr : Bool) (len : Nat)
    {act : Nat → Nat → Bool → List Word → State → ItemRes}
    (ha : ∀ p g w ws t, t.Canonical → (act p g w ws t).2.2.Canonical) :
    (s.kGroupItem r num rd wr len act).Canonical := by
  refine State.kItem_wf hs r num rd wr len fun p w ws t ht => ?_
  split
  · exact ht
  · exact ha _ _ _ _ t ht

theorem State.kGroupRead_wf (hs : s.Canonical) (r : MbxReq) (num : Nat) (rd wr : Bool) (len : Nat)
    {act : List Nat → State → Option ItemRes} (ha : ActCanonical act) :
    (s.kGroupRead r num rd wr len act).Canonical :=
  State.mbxRead_wf hs r _ _ _ ha

theorem kGroupAct_wf {act : Nat → Nat → Bool → List Word → State → Option ItemRes}
    (ha : ∀ p g w ws t x, t.Canonical → act p g w ws t = some x → x.2.2.Canonical) :
    ActCanonical (kGroupAct act) := by
  intro a t x ht e
  simp only [kGroupAct] at e
  split at e
  · cases e
    exact ht
  · exact ha _ _ _ _ t x ht e

theorem execStage_wf (hs : s.Canonical) (r : MbxReq) : ResCanonical (execStage r s) := by
  refine (resCanonical_next _).2 (State.kItem_wf hs _ _ _ _ _ fun k wr ws t ht => ?_)
  (repeat' split) <;> simp [ht]

theorem execHostRing_wf (hs : s.Canonical) (r : MbxReq) : ResCanonical (execHostRing r s) := by
  refine (resCanonical_next _).2 (State.kItem_wf hs _ _ _ _ _ fun k wr ws t ht => ?_)
  (repeat' split) <;> simp [ht]

theorem execHostConsumed_wf (hs : s.Canonical) (r : MbxReq) : ResCanonical (execHostConsumed r s) := by
  refine (resCanonical_next _).2 (State.kItem_wf hs _ _ _ _ _ fun k wr ws t ht => ?_)
  simp [ht]

theorem execHostAck_wf (hs : s.Canonical) (r : MbxReq) : ResCanonical (execHostAck r s) := by
  refine (resCanonical_next _).2 (State.kItem_wf hs _ _ _ _ _ fun k wr ws t ht => ?_)
  simp [ht]

theorem execFeed_wf (hs : s.Canonical) (r : MbxReq) : ResCanonical (execFeed r s) := by
  refine (resCanonical_next _).2 (State.kItem_wf hs _ _ _ _ _ fun k wr ws t ht => ?_)
  simp [ht]

theorem execHostFeed_wf (hs : s.Canonical) (r : MbxReq) : ResCanonical (execHostFeed r s) := by
  refine (resCanonical_next _).2 (State.kItem_wf hs _ _ _ _ _ fun k wr ws t ht => ?_)
  split <;> simp [ht]

theorem execSgSel_wf (hs : s.Canonical) (r : MbxReq) : ResCanonical (execSgSel r s) := by
  refine (resCanonical_next _).2 (State.kItem_wf hs _ _ _ _ _ fun k wr ws t ht => ?_)
  split <;> simp [ht]

theorem sgTableAct_wf : ActCanonical sgTableAct := by
  refine kGroupAct_wf fun p g w ws t x ht e => ?_
  dsimp only at e
  split at e
  · cases e; exact ht
  · split at e
    · cases e; exact ht
    · split at e
      · cases e; simpa using ht
      · split at e
        · cases e; exact ht
        · obtain ⟨u, hu, rfl⟩ := Option.map_eq_some_iff.1 e
          simpa using State.kSeen_wf ht _ u hu

theorem execSgTable_wf (hs : s.Canonical) (r : MbxReq) : ResCanonical (execSgTable r s) :=
  (resCanonical_next _).2 (State.kGroupRead_wf hs _ _ _ _ _ sgTableAct_wf)

theorem execBase_wf (hs : s.Canonical) (r : MbxReq) : ResCanonical (execBase r s) := by
  refine (resCanonical_next _).2 (State.kGroupItem_wf hs _ _ _ _ _ fun p g wr ws t ht => ?_)
  (repeat' split) <;> simp [ht]

theorem execKiteCommits_wf (hs : s.Canonical) (r : MbxReq) : ResCanonical (execKiteCommits r s) := by
  refine (resCanonical_next _).2 (State.kGroupItem_wf hs _ _ _ _ _ fun p g wr ws t ht => ?_)
  simp [ht]

theorem execKiteDigest_wf (hs : s.Canonical) (r : MbxReq) : ResCanonical (execKiteDigest r s) := by
  refine (resCanonical_next _).2 (State.kGroupItem_wf hs _ _ _ _ _ fun p g wr ws t ht => ?_)
  simp [ht]

theorem execExpect_wf (hs : s.Canonical) (r : MbxReq) : ResCanonical (execExpect r s) := by
  refine (resCanonical_next _).2 (State.kItem_wf hs _ _ _ _ _ fun k wr ws t ht => ?_)
  simp [ht]

theorem execRestore_wf (hs : s.Canonical) (r : MbxReq) : ResCanonical (execRestore r s) := by
  refine (resCanonical_next _).2 (State.kGroupItem_wf hs _ _ _ _ _ fun p g wr ws t ht => ?_)
  dsimp only
  split <;> simp [ht]

theorem replicaAct_wf : ActCanonical replicaAct := by
  intro a t x ht e
  simp only [replicaAct] at e
  split at e
  · cases e; exact ht
  · obtain ⟨u, hu, rfl⟩ := Option.map_eq_some_iff.1 e
    exact State.kTransmit_wf (by simpa using State.kSeen_wf ht _ u hu) _

theorem execReplica_wf (hs : s.Canonical) (r : MbxReq) : ResCanonical (execReplica r s) :=
  (resCanonical_next _).2 (State.mbxRead_wf hs _ _ _ _ replicaAct_wf)

theorem execFailNote_wf (hs : s.Canonical) (r : MbxReq) : ResCanonical (execFailNote r s) := by
  refine (resCanonical_next _).2 (State.kGroupItem_wf hs _ _ _ _ _ fun p g wr ws t ht => ?_)
  simp [ht]

theorem execAdapt_wf (hs : s.Canonical) (r : MbxReq) : ResCanonical (execAdapt r s) := by
  refine (resCanonical_next _).2 (State.kGroupItem_wf hs _ _ _ _ _ fun p g wr ws t ht => ?_)
  dsimp only
  split <;> simp [ht]

theorem execBuddyArg_wf (hs : s.Canonical) (r : MbxReq) : ResCanonical (execBuddyArg r s) := by
  refine (resCanonical_next _).2 (State.kItem_wf hs _ _ _ _ _ fun k wr ws t ht => ?_)
  split <;> simp [ht]

theorem execBuddyGet_wf (hs : s.Canonical) (r : MbxReq) : ResCanonical (execBuddyGet r s) := by
  refine (resCanonical_next _).2 (State.kItem_wf hs _ _ _ _ _ fun k wr ws t ht => ?_)
  dsimp only
  split <;> simp [ht]

theorem execBuddyDrop_wf (hs : s.Canonical) (r : MbxReq) : ResCanonical (execBuddyDrop r s) := by
  refine (resCanonical_next _).2 (State.kItem_wf hs _ _ _ _ _ fun k wr ws t ht => ?_)
  simp [ht]

theorem krecAddrAct_wf : ActCanonical krecAddrAct := by
  refine kGroupAct_wf fun p g w ws t x ht e => ?_
  split at e
  · cases e; exact ht
  · split at e
    · cases e; exact ht
    · split at e
      · cases e; exact ht
      · split at e
        · cases e; simpa using ht
        · obtain ⟨u, hu, rfl⟩ := Option.map_eq_some_iff.1 e
          exact State.loadRecord_wf (by simpa using ht) g u hu

theorem execKrecAddr_wf (hs : s.Canonical) (r : MbxReq) : ResCanonical (execKrecAddr r s) :=
  (resCanonical_next _).2 (State.kGroupRead_wf hs _ _ _ _ _ krecAddrAct_wf)

theorem execKrecInit_wf (hs : s.Canonical) (r : MbxReq) : ResCanonical (execKrecInit r s) := by
  refine (resCanonical_next _).2 (State.kGroupItem_wf hs _ _ _ _ _ fun p g wr ws t ht => ?_)
  split <;> simp [ht]

theorem execWcStale_wf (hs : s.Canonical) (r : MbxReq) : ResCanonical (execWcStale r s) := by
  refine (resCanonical_next _).2 (State.kGroupItem_wf hs _ _ _ _ _ fun p g wr ws t ht => ?_)
  (repeat' split) <;> simp [ht]

@[simp] theorem State.kiteCfg_mem (p : Nat) (v : Word) : (s.kiteCfg p v).mem = s.mem := by
  unfold State.kiteCfg
  dsimp only
  rw [State.mem_ite, foldl_mem _ (fun q g => State.setKgroup_mem q g _), ite_self]
  simp

@[simp] theorem State.kiteBuddy_mem (p : Nat) (v : Word) : (s.kiteBuddy p v).mem = s.mem := by
  simp [State.kiteBuddy, foldl_mem]

@[simp] theorem State.kiteMctl_mem (v : Word) : (s.kiteMctl v).mem = s.mem := by simp [State.kiteMctl, foldl_mem]

theorem State.rngItem_wf (hs : s.Canonical) (r : MbxReq) (num : Nat) (wr : Bool) (len : Nat)
    {act : Nat → Bool → List Word → State → ItemRes} (ha : ∀ p w ws t, t.Canonical → (act p w ws t).2.2.Canonical) :
    (s.rngItem r num wr len act).Canonical :=
  State.mbxRun_wf hs r _ _ ha

theorem execRngSeed_wf (hs : s.Canonical) (r : MbxReq) : ResCanonical (execRngSeed r s) := by
  refine (resCanonical_next _).2 (State.rngItem_wf hs _ _ _ _ fun k wr ws t ht => ?_)
  split <;> simp [ht]

theorem execCursor_wf (hs : s.Canonical) (r : MbxReq) : ResCanonical (execCursor r s) := by
  refine (resCanonical_next _).2 (State.rngItem_wf hs _ _ _ _ fun k wr ws t ht => ?_)
  split <;> simp [ht]

theorem execPos_wf (hs : s.Canonical) (r : MbxReq) (st : Fin 4) : ResCanonical (execPos r st s) := by
  refine (resCanonical_next _).2 (State.rngItem_wf hs _ _ _ _ fun k wr ws t ht => ?_)
  split <;> simp [ht]

theorem execSnapPos_wf (hs : s.Canonical) (r : MbxReq) : ResCanonical (execSnapPos r s) := by
  refine (resCanonical_next _).2 (State.rngItem_wf hs _ _ _ _ fun k wr ws t ht => ?_)
  simp [ht]

theorem execSnapCursor_wf (hs : s.Canonical) (r : MbxReq) : ResCanonical (execSnapCursor r s) := by
  refine (resCanonical_next _).2 (State.rngItem_wf hs _ _ _ _ fun k wr ws t ht => ?_)
  simp [ht]

theorem execRngCtr_wf (hs : s.Canonical) (b : Bundle) (d t e : VReg) : ResCanonical (execRngCtr b d t e s) := by
  refine (resCanonical_next _).2 (State.issue_wf hs _ _ _ _ fun u t ht => ?_)
  simp [ht]

theorem execRngStr_wf (hs : s.Canonical) (b : Bundle) (d : VReg) (st : Fin 4) :
    ResCanonical (execRngStr b d st s) := by
  refine (resCanonical_next _).2 (State.issue_wf hs _ _ _ _ fun u t ht => ?_)
  simp [ht]

/-! ### Identity -/

@[simp] theorem State.measChanged_mem : s.measChanged.mem = s.mem := by simp [State.measChanged]

@[simp] theorem State.remeasure_wf (hs : s.Canonical) (p : Nat) : (s.remeasure p).Canonical := by
  simp [State.remeasure, hs]

@[simp] theorem State.remeasureAll_wf (hs : s.Canonical) : s.remeasureAll.Canonical := by
  refine foldl_keeps State.Canonical _ (fun t a ht => ?_) _ _ hs
  simp [ht]

theorem execMeasurementRecompute_wf (hs : s.Canonical) (p : PartId) :
    ResCanonical (execMeasurementRecompute p s) := by
  simp [execMeasurementRecompute, hs]

/-! ### Boot, resets, power and clocks -/

@[simp] theorem State.signWatch_mem : s.signWatch.mem = s.mem := by simp [State.signWatch]

@[simp] theorem State.powerOn_wf (standby : Bool) : (s.powerOn standby).Canonical := rfl

theorem execVinApplied_wf (hs : s.Canonical) (x : Supply) : ResCanonical (execVinApplied x s) := by
  simp [execVinApplied, hs]

theorem execFirmwareVerified_wf (hs : s.Canonical) : ResCanonical (execFirmwareVerified s) := by
  simp [execFirmwareVerified, hs]

theorem execPwrEnAssert_wf (hs : s.Canonical) : ResCanonical (execPwrEnAssert s) := by simp [execPwrEnAssert, hs]

@[simp] theorem State.railsOff_wf (standby : Bool) : (s.railsOff standby).Canonical := State.powerOn_wf standby

theorem execPwrEnDeassert_wf (hs : s.Canonical) : ResCanonical (execPwrEnDeassert s) := by
  simp [execPwrEnDeassert, hs]

theorem execRailsUp_wf (hs : s.Canonical) : ResCanonical (execRailsUp s) := by simp [execRailsUp, hs]

@[simp] theorem State.release_mem : s.release.mem = s.mem := by simp [State.release]

theorem execPerstDeassert_wf (hs : s.Canonical) : ResCanonical (execPerstDeassert s) := by
  simp [execPerstDeassert, hs]

@[simp] theorem State.moduleReset_wf (hs : s.Canonical) (kind : Nat) : (s.moduleReset kind).Canonical := by
  simp [State.moduleReset, hs]

theorem execPerstAssert_wf (hs : s.Canonical) : ResCanonical (execPerstAssert s) := by simp [execPerstAssert, hs]

theorem State.phaseDone_wf (hs : s.Canonical) (n : Nat) {f : State → State}
    (hf : ∀ t, t.Canonical → (f t).Canonical) :
    (s.phaseDone n f).Canonical :=
  State.canonical_ite (hf _ hs) hs

theorem execClocksDone_wf (hs : s.Canonical) : ResCanonical (execClocksDone s) :=
  (resCanonical_next _).2 (State.phaseDone_wf hs _ fun _ ht => ht)

@[simp] theorem State.bootMemory_mem : s.bootMemory.mem = s.mem := rfl

theorem execMemoryDone_wf (hs : s.Canonical) : ResCanonical (execMemoryDone s) :=
  (resCanonical_next _).2 (State.phaseDone_wf hs _ fun t ht => by simpa using ht)

@[simp] theorem State.setArrayBit_mem (k i : Nat) : (s.setArrayBit k i).mem = s.mem := rfl

theorem execSelftestDone_wf (hs : s.Canonical) (r : SelfTest) : ResCanonical (execSelftestDone r s) := by
  refine (resCanonical_next _).2 (State.phaseDone_wf hs _ fun t ht => ?_)
  simp only [State.Canonical]
  rw [foldl_mem _ (fun u k => by simp), foldl_mem _ (fun u k => by simp)]
  exact ht

@[simp] theorem State.selftestFail_mem : s.selftestFail.mem = s.mem := by simp [State.selftestFail]

theorem execBootClearDone_wf (hs : s.Canonical) : ResCanonical (execBootClearDone s) :=
  (resCanonical_next _).2 (State.phaseDone_wf hs _ fun t ht => by simp [ht])

theorem execSupplyLow_wf (hs : s.Canonical) : ResCanonical (execSupplyLow s) := by simp [execSupplyLow, hs]

theorem execSupplyLoss_wf (hs : s.Canonical) : ResCanonical (execSupplyLoss s) := by simp [execSupplyLoss, hs]

@[simp] theorem State.takeReadings_mem (m : PowerMeas) : (s.takeReadings m).mem = s.mem := rfl

theorem execGovernorWindow_wf (hs : s.Canonical) (m : PowerMeas) : ResCanonical (execGovernorWindow m s) := by
  simp [execGovernorWindow, hs]

@[simp] theorem State.thermEvent_mem : s.thermEvent.mem = s.mem := by simp [State.thermEvent]

theorem execThermWarn_wf (hs : s.Canonical) (junction coolant : BitVec 8) :
    ResCanonical (execThermWarn junction coolant s) := by
  simp [execThermWarn, hs]

theorem execThermalTrip_wf (hs : s.Canonical) (junction stack : BitVec 8) :
    ResCanonical (execThermalTrip junction stack s) := by
  simp [execThermalTrip, hs]

theorem execThermalTripRelease_wf (hs : s.Canonical) (junction stack : BitVec 8) :
    ResCanonical (execThermalTripRelease junction stack s) := by
  simp [execThermalTripRelease, hs]

@[simp] theorem State.clkStall_mem (cause : Bool) (send recv inst : Nat) :
    (s.clkStall cause send recv inst).mem = s.mem := by
  simp [State.clkStall]

theorem execCrossingStall_wf (hs : s.Canonical) (send recv : Fin 9) (inst : BitVec 9) :
    ResCanonical (execCrossingStall send recv inst s) := by
  simp [execCrossingStall, hs]

theorem execPllUnlock_wf (hs : s.Canonical) (send recv : Fin 9) (inst : BitVec 9) :
    ResCanonical (execPllUnlock send recv inst s) := by
  simp [execPllUnlock, hs]

theorem execRelockTimeout_wf (hs : s.Canonical) (c : ClockId) : ResCanonical (execRelockTimeout c s) := by
  simp [execRelockTimeout, hs]

theorem execPllRelock_wf (hs : s.Canonical) (c : ClockId) : ResCanonical (execPllRelock c s) := by
  simp [execPllRelock, hs]

theorem execClockResume_wf (hs : s.Canonical) (c : ClockId) : ResCanonical (execClockResume c s) := by
  simp [execClockResume, hs]

@[simp] theorem State.enterReset_mem (b : Block) (i : Nat) (keep : Nat → Bool) :
    (s.enterReset b i keep).mem = s.mem := rfl

@[simp] theorem State.endStalls_mem (a b i : Nat) : (s.endStalls a b i).mem = s.mem := rfl

@[simp] theorem State.dropMessages_mem (k : Nat) : (s.dropMessages k).mem = s.mem := rfl

@[simp] theorem State.resetCore_wf (hs : s.Canonical) (k : Nat) : (s.resetCore k).Canonical := by
  simp only [State.resetCore]
  split <;> simp [hs]

@[simp] theorem State.stopEngine_wf (hs : s.Canonical) (e : Nat) : (s.stopEngine e).Canonical := by
  refine foldl_keeps State.Canonical _ (fun t a ht => ?_) _ _ hs
  (repeat' split) <;> simp [ht]

@[simp] theorem State.resetDma_wf (hs : s.Canonical) (e : Nat) : (s.resetDma e).Canonical := by
  simp [State.resetDma, hs]

@[simp] theorem State.resetUlink_mem (p : Nat) : (s.resetUlink p).mem = s.mem := by
  unfold State.resetUlink
  exact (foldl_mem _ (fun u l => by simp) _ _).trans (by simp)

@[simp] theorem State.blockReset_wf (hs : s.Canonical) (b : Block) (i : Nat) : (s.blockReset b i).Canonical := by
  simp [State.blockReset, hs]

theorem execBlockRst_wf (hs : s.Canonical) (r : MbxReq) : ResCanonical (execBlockRst r s) := by
  refine (resCanonical_next _).2 (State.mbxRun_wf hs _ _ _ fun k wr ws t ht => ?_)
  (repeat' split) <;> simp [ht]

theorem execBlockResetComplete_wf (hs : s.Canonical) (b : Block) (inst : Fin 384) :
    ResCanonical (execBlockResetComplete b inst s) := by
  simp [execBlockResetComplete, hs]

theorem execModuleReset_wf (hs : s.Canonical) (r : MbxReq) : ResCanonical (execModuleReset r s) :=
  (resCanonical_next _).2 (State.canonical_ite hs (State.mbxRun_wf hs _ _ _ fun _ _ _ _ ht => ht))

theorem execModuleResetRelease_wf (hs : s.Canonical) : ResCanonical (execModuleResetRelease s) := by
  simp [execModuleResetRelease, hs]

theorem execCoreFailLo_wf (hs : s.Canonical) (r : MbxReq) : ResCanonical (execCoreFailLo r s) :=
  (resCanonical_next _).2 (State.mbxGet_wf hs _ _ _ _ _)

theorem execCoreFailHi_wf (hs : s.Canonical) (r : MbxReq) : ResCanonical (execCoreFailHi r s) :=
  (resCanonical_next _).2 (State.mbxGet_wf hs _ _ _ _ _)

theorem execBootTime_wf (hs : s.Canonical) (r : MbxReq) : ResCanonical (execBootTime r s) :=
  (resCanonical_next _).2 (State.mbxGet_wf hs _ _ _ _ _)

/-! ### SEC -/

theorem fwLoadAct_wf : ActCanonical fwLoadAct := by
  intro a t x ht e
  simp only [fwLoadAct] at e
  split at e
  · cases e; exact ht
  · obtain ⟨u, hu, rfl⟩ := Option.map_eq_some_iff.1 e
    exact State.agentRead_wf ht _ _ _ u hu

theorem execFwLoad_wf (hs : s.Canonical) (r : MbxReq) : ResCanonical (execFwLoad r s) :=
  (resCanonical_next _).2 (State.mbxRead_wf hs _ _ _ _ fwLoadAct_wf)

theorem execFwLoadComplete_wf (hs : s.Canonical) : ResCanonical (execFwLoadComplete s) := by
  simp only [execFwLoadComplete]
  split <;> simp [hs]

theorem execFwInfo_wf (hs : s.Canonical) (r : MbxReq) : ResCanonical (execFwInfo r s) := by
  refine (resCanonical_next _).2 (State.mbxRun_wf hs _ _ _ fun k wr ws t ht => ?_)
  simp [ht]

@[simp] theorem State.commitSvn_mem : s.commitSvn.mem = s.mem := by simp [State.commitSvn]

theorem execFwCommitSvn_wf (hs : s.Canonical) (r : MbxReq) : ResCanonical (execFwCommitSvn r s) := by
  refine (resCanonical_next _).2 (State.mbxRun_wf hs _ _ _ fun k wr ws t ht => ?_)
  split <;> simp [ht]

theorem execSignIndex_wf (hs : s.Canonical) (r : MbxReq) : ResCanonical (execSignIndex r s) := by
  refine (resCanonical_next _).2 (State.mbxRun_wf hs _ _ _ fun k wr ws t ht => ?_)
  simp [ht]

theorem execGeneration_wf (hs : s.Canonical) (r : MbxReq) : ResCanonical (execGeneration r s) :=
  (resCanonical_next _).2 (State.mbxGet_wf hs _ _ _ _ _)

theorem execMeasArg_wf (hs : s.Canonical) (r : MbxReq) : ResCanonical (execMeasArg r s) := by
  refine (resCanonical_next _).2 (State.mbxRun_wf hs _ _ _ fun k wr ws t ht => ?_)
  simp [ht]

theorem execSecMeas_wf (hs : s.Canonical) (r : MbxReq) : ResCanonical (execSecMeas r s) := by
  refine (resCanonical_next _).2 (State.mbxRun_wf hs _ _ _ fun k wr ws t ht => ?_)
  simp [ht]

@[simp] theorem State.measRefuse_mem (via : Via) (status : Nat) : (s.measRefuse via status).mem = s.mem := rfl

theorem execGetMeasurements_wf (hs : s.Canonical) (via : Via) (bytes : List Byte) :
    ResCanonical (execGetMeasurements via bytes s) := by
  simp [execGetMeasurements, hs]

theorem execGetIdentity_wf (hs : s.Canonical) (via : Via) (bytes : List Byte) :
    ResCanonical (execGetIdentity via bytes s) := by
  simp [execGetIdentity, hs]

theorem execFwRecover_wf (hs : s.Canonical) (head : RecoverHead) (bytes : List Byte) :
    ResCanonical (execFwRecover head bytes s) := by
  simp [execFwRecover, hs]

theorem execReservationWriteDone_wf (hs : s.Canonical) : ResCanonical (execReservationWriteDone s) := by
  simp [execReservationWriteDone, hs]

theorem execSignatureRelease_wf (hs : s.Canonical) : ResCanonical (execSignatureRelease s) := by
  simp only [execSignatureRelease]
  split <;> simp [hs]

theorem execTreeBuildDone_wf (hs : s.Canonical) : ResCanonical (execTreeBuildDone s) := by
  simp [execTreeBuildDone, hs]

theorem execIdeKmMessage_wf (hs : s.Canonical) (stream : IdeStream) (key : List Byte) :
    ResCanonical (execIdeKmMessage stream key s) := by
  simp [execIdeKmMessage, hs]

theorem execMctpControlMessage_wf (hs : s.Canonical) (bytes : List Byte) :
    ResCanonical (execMctpControlMessage bytes s) := by
  simp [execMctpControlMessage, hs]

/-! ### Register reads -/

@[simp] theorem State.afterRead_mem (r : Req) (w : Window) (b : Block) (off : Nat) :
    (s.afterRead r w b off).mem = s.mem := by
  simp only [State.afterRead]
  (repeat' split) <;> simp

@[simp] theorem State.readReg_mem (r : Req) (w : Window) (b : Block) (off : Nat) :
    (s.readReg r w b off).2.mem = s.mem := by
  simp only [State.readReg]
  split <;> simp

@[simp] theorem State.readBar_mem (x : BarAcc) : (s.readBar x).2.mem = s.mem := by
  simp only [State.readBar]
  split <;> simp

@[simp] theorem State.readAcc_mem (x : BarAcc) (w : AccWidth) : (s.readAcc x w).2.mem = s.mem := by
  simp only [State.readAcc]
  (repeat' split) <;> simp

theorem execStatusRegisterRead_wf (hs : s.Canonical) (x : BarAcc) (w : AccWidth) :
    ResCanonical (execStatusRegisterRead x w s) := by
  simp [execStatusRegisterRead, hs]

@[simp] theorem State.zeroCounters_mem (w : Window) (b : Block) (i : Nat) : (s.zeroCounters w b i).mem = s.mem := by
  simp [State.zeroCounters]

@[simp] theorem State.snapWrite_mem (r : Req) (w : Window) (b : Block) (v : Word) :
    (s.snapWrite r w b v).mem = s.mem := by
  simp only [State.snapWrite]
  (repeat' split) <;> simp

theorem execSnapTake_wf (hs : s.Canonical) (r : Req) (w : Window) (b : Block) (v : Word) :
    ResCanonical (execSnapTake r w b v s) := by
  simp [execSnapTake, hs]

/-! ### Register writes and the mailbox items of each block -/

@[simp] theorem State.freshEntry_mem (e : Nat) : (s.freshEntry e).mem = s.mem := rfl

@[simp] theorem State.grantWatch_mem (p : Nat) (v : Word) : (s.grantWatch p v).mem = s.mem := by
  simp [State.grantWatch, foldl_mem]

@[simp] theorem State.grantSg_mem (p : Nat) (v : Word) : (s.grantSg p v).mem = s.mem := by simp [State.grantSg]

@[simp] theorem State.grantSlow_mem (p : Nat) (v : Word) : (s.grantSlow p v).mem = s.mem := by simp [State.grantSlow]

@[simp] theorem State.plainCfg_mem (b : Block) (i off : Nat) (v : Word) : (s.plainCfg b i off v).mem = s.mem := rfl

@[simp] theorem State.keepField_mem (b : Block) (i off hi lo : Nat) (bad : Bool) (v : Word) :
    (s.keepField b i off hi lo bad v).mem = s.mem := rfl

@[simp] theorem State.puppeteerCfg_mem (r : Req) (w : Window) (p off : Nat) (v : Word) :
    (s.puppeteerCfg r w p off v).mem = s.mem := by
  simp only [State.puppeteerCfg]
  (repeat' split) <;> simp

@[simp] theorem State.narogCfg_mem (g off : Nat) (v : Word) : (s.narogCfg g off v).mem = s.mem := by
  simp [State.narogCfg]

@[simp] theorem State.rattleCfg_mem (off : Nat) (v : Word) : (s.rattleCfg off v).mem = s.mem := by
  simp [State.rattleCfg]

@[simp] theorem State.portCfg_mem (p off : Nat) (v : Word) : (s.portCfg p off v).mem = s.mem := by
  simp [State.portCfg]

@[simp] theorem State.kiteWrite_mem (w : Window) (p off : Nat) (v : Word) : (s.kiteWrite w p off v).mem = s.mem := by
  simp only [State.kiteWrite]
  (repeat' split) <;> simp

@[simp] theorem State.powerCfg_mem (off : Nat) (v : Word) : (s.powerCfg off v).mem = s.mem := by simp [State.powerCfg]

@[simp] theorem State.storeCfg_mem (r : Req) (w : Window) (b : Block) (i off : Nat) (v : Word) :
    (s.storeCfg r w b i off v).mem = s.mem := by
  simp only [State.storeCfg]
  split <;> simp

@[simp] theorem State.writeCfg_mem (r : Req) (w : Window) (b : Block) (off : Nat) (v : Word) :
    (s.writeCfg r w b off v).mem = s.mem := by
  simp only [State.writeCfg]
  split <;> simp

theorem execStallCountRead_wf (hs : s.Canonical) (r : MbxReq) (n : Fin 80) :
    ResCanonical (execStallCountRead r n s) :=
  (resCanonical_next _).2 (State.mbxGet_wf hs _ _ _ _ _)

/-- A mailbox command of an item keeps the canonical form of memory. -/
def ItemKeeps (f : MbxReq → State → Res) : Prop := ∀ r s, s.Canonical → ResCanonical (f r s)

theorem itemsOf_keeps (b : Block) : ∀ x ∈ itemsOf b, ItemKeeps x.2 := by
  cases b with
  | strings =>
    simp +contextual [itemsOf, ItemKeeps, execStringsFrameNo_wf, execApplyFrame_wf, execFrameSet_wf]
  | puppeteer =>
    simp +contextual [itemsOf, ItemKeeps, execPuppeteerFrameNo_wf, execStepBase_wf, execStepNo_wf, execGrantHbmLo_wf,
      execGrantHbmHi_wf, execEvtVectors_wf]
  | ctxtab =>
    simp +contextual [itemsOf, ItemKeeps, execCreateArg_wf, execCreate_wf, execDestroy_wf, execResume_wf]
  | array => simp +contextual [itemsOf, ItemKeeps, execFeedCycles_wf, execSwaps_wf]
  | sparse => simp +contextual [itemsOf, ItemKeeps, execMispTotal_wf]
  | marble => simp +contextual [itemsOf, ItemKeeps, execEntriesIn_wf]
  | llc => simp +contextual [itemsOf, ItemKeeps, execWbArg_wf, execWbStart_wf]
  | dir => simp +contextual [itemsOf, ItemKeeps, execLookupArg_wf, execLookup_wf, execLastDead_wf]
  | hbm => simp +contextual [itemsOf, ItemKeeps, execHbmLastUncorr_wf, execScrubPasses_wf]
  | dma => simp +contextual [itemsOf, ItemKeeps, execLastHole_wf]
  | narogSg =>
    simp +contextual [itemsOf, ItemKeeps, execRecordAddr_wf, execLoadRecord_wf, execInit_wf, execNarogCommitRead_wf,
      execNarogStepRead_wf, execPowers_wf]
  | slowtier => simp +contextual [itemsOf, ItemKeeps, execSlowtierLastUncorr_wf]
  | watch =>
    simp +contextual [itemsOf, ItemKeeps, execClosedStep_wf, execDump_wf, execClose_wf, execNorm_wf, execClosed_wf,
      execLive_wf, or_imp, forall_and]
  | rattle => simp +contextual [itemsOf, ItemKeeps, execLastDisagree_wf]
  | ulink => simp +contextual [itemsOf, ItemKeeps, execTxFlits_wf, execRxFlits_wf]
  | coll => simp +contextual [itemsOf, ItemKeeps, execLanding_wf]
  | kite =>
    simp +contextual [itemsOf, ItemKeeps, execStage_wf, execHostRing_wf, execHostConsumed_wf, execHostAck_wf,
      execFeed_wf, execSgSel_wf, execSgTable_wf, execBase_wf, execKiteCommits_wf, execKiteDigest_wf, execExpect_wf,
      execRestore_wf, execReplica_wf, execFailNote_wf, execAdapt_wf, execBuddyArg_wf, execBuddyGet_wf,
      execBuddyDrop_wf, execKrecAddr_wf, execKrecInit_wf, execHostFeed_wf, execWcStale_wf]
  | rng =>
    simp +contextual [itemsOf, ItemKeeps, execRngSeed_wf, execCursor_wf, execSnapPos_wf, execSnapCursor_wf,
      execPos_wf, or_imp]
  | clkrst =>
    simp +contextual [itemsOf, ItemKeeps, execBlockRst_wf, execModuleReset_wf, execCoreFailLo_wf, execCoreFailHi_wf,
      execBootTime_wf]
  | sec =>
    simp +contextual [itemsOf, ItemKeeps, execSignIndex_wf, execGeneration_wf, execMeasArg_wf, execSecMeas_wf,
      execFwLoad_wf, execFwInfo_wf, execFwCommitSvn_wf]
  | stall => simp +contextual [itemsOf, ItemKeeps, execStallCountRead_wf]
  | module | pcie | mgmt | power | core | narrow | narog | ulane => simp [itemsOf]

theorem waitingRule_wf (b : Block) (item : Nat) : ActCanonical (waitingRule b item) := by
  unfold waitingRule
  (repeat' split)
  · exact createAct_wf
  · exact fwLoadAct_wf
  · exact sgTableAct_wf
  · exact replicaAct_wf
  · exact krecAddrAct_wf
  · intro a t x ht e
    cases e
    exact ht

theorem execMbxCommandFinish_wf (hs : s.Canonical) (r : Req) (w : Window) (b : Block) :
    ResCanonical (execMbxCommandFinish r w b s) := by
  have ht := State.mbxCarryOut_wf hs r w b (waitingRule_wf b ((s.copyOf r w b).cmd.toNat % 65536))
  exact (resCanonical_next _).2 (State.canonical_ite ht (by simpa using ht))

@[simp] theorem after_wf {o : Res} (ho : ResCanonical o) (hs : s.Canonical) : (after o s).Canonical := by
  cases o with
  | next t => exact ho
  | fault _ => exact hs
  | refused _ => exact hs

@[simp] theorem State.mbxWrite_wf (hs : s.Canonical) (r : Req) (w : Window) (b : Block) (v : Word) :
    (s.mbxWrite r w b v).Canonical := by
  unfold State.mbxWrite
  dsimp only
  split
  · exact after_wf (execEventFrame_wf hs ..) hs
  · split
    · exact after_wf (execScrubFrame_wf hs ..) hs
    · split
      next x e => exact after_wf (itemsOf_keeps b x (List.mem_of_find?_eq_some e) _ s hs) hs
      next => split <;> simp [hs]

@[simp] theorem State.writeReg_wf (hs : s.Canonical) (r : Req) (w : Window) (b : Block) (off : Nat) (v : Word) :
    (s.writeReg r w b off v).Canonical := by
  simp [State.writeReg, hs]

@[simp] theorem State.writeBar_wf (hs : s.Canonical) (x : BarAcc) (v : Word) : (s.writeBar x v).Canonical := by
  simp only [State.writeBar]
  split <;> simp [hs]

theorem execConfigRegisterWrite_wf (hs : s.Canonical) (x : BarAcc) (w : AccWidth) (v : BitVec 64) :
    ResCanonical (execConfigRegisterWrite x w v s) := by
  simp only [execConfigRegisterWrite]
  (repeat' split) <;> simp [hs]

theorem execGrantWatchWrite_wf (hs : s.Canonical) (r : Req) (w : Window) (v : Word) :
    ResCanonical (execGrantWatchWrite r w v s) := by
  simp only [execGrantWatchWrite]
  split <;> simp [hs]

theorem execGrantSgWrite_wf (hs : s.Canonical) (r : Req) (w : Window) (v : Word) :
    ResCanonical (execGrantSgWrite r w v s) := by
  simp only [execGrantSgWrite]
  split <;> simp [hs]

theorem execGrantSlowWrite_wf (hs : s.Canonical) (r : Req) (w : Window) (v : Word) :
    ResCanonical (execGrantSlowWrite r w v s) := by
  simp only [execGrantSlowWrite]
  split <;> simp [hs]

theorem execBar4BaseWrite_wf (hs : s.Canonical) (r : Req) (v : Word) : ResCanonical (execBar4BaseWrite r v s) := by
  simp [execBar4BaseWrite, hs]

theorem execRattleSeedWrite_wf (hs : s.Canonical) (r : Req) (v : Word) :
    ResCanonical (execRattleSeedWrite r v s) := by
  simp [execRattleSeedWrite, hs]

theorem execNarogCfgWrite_wf (hs : s.Canonical) (r : Req) (w : Window) (off : BitVec 12) (v : Word) :
    ResCanonical (execNarogCfgWrite r w off v s) := by
  simp [execNarogCfgWrite, hs]

theorem execWatchCfgWrite_wf (hs : s.Canonical) (r : Req) (w : Window) (v : Word) :
    ResCanonical (execWatchCfgWrite r w v s) := by
  simp [execWatchCfgWrite, hs]

theorem execPortEnable_wf (hs : s.Canonical) (r : Req) (v : Word) : ResCanonical (execPortEnable r v s) := by
  simp [execPortEnable, hs]

theorem execPortDisable_wf (hs : s.Canonical) (r : Req) (v : Word) : ResCanonical (execPortDisable r v s) := by
  simp [execPortDisable, hs]

theorem execRetrain_wf (hs : s.Canonical) (r : Req) (v : Word) : ResCanonical (execRetrain r v s) := by
  simp [execRetrain, hs]

theorem execDetourSet_wf (hs : s.Canonical) (r : Req) (v : Word) : ResCanonical (execDetourSet r v s) := by
  simp [execDetourSet, hs]

theorem execDetourClear_wf (hs : s.Canonical) (r : Req) (v : Word) : ResCanonical (execDetourClear r v s) := by
  simp [execDetourClear, hs]

theorem execNodeDimsWrite_wf (hs : s.Canonical) (r : Req) (dims : Bool) (v : Word) :
    ResCanonical (execNodeDimsWrite r dims v s) := by
  simp [execNodeDimsWrite, hs]

theorem execKiteCfgWrite_wf (hs : s.Canonical) (r : Req) (w : Window) (v : Word) :
    ResCanonical (execKiteCfgWrite r w v s) := by
  simp [execKiteCfgWrite, hs]

theorem execKiteMctlWrite_wf (hs : s.Canonical) (r : Req) (v : Word) : ResCanonical (execKiteMctlWrite r v s) := by
  simp [execKiteMctlWrite, hs]

/-! ### A cycle without a command -/

@[simp] theorem State.clock_mem : s.clock.mem = s.mem := by simp [State.clock]

@[simp] theorem State.finishAts_mem : s.finishAts.mem = s.mem := by
  simp only [State.finishAts]
  split <;> simp

@[simp] theorem State.runSlices_wf (hs : s.Canonical) : s.runSlices.Canonical := by
  unfold State.runSlices
  refine foldl_keeps State.Canonical _ (fun t d ht => State.admitLate_wf ?_ d) _ s hs
  exact foldl_keeps State.Canonical _ (fun _ l hu => State.settleLine_wf hu l) _ t ht

@[simp] theorem State.correctCodeword_mem (p : Nat) : (s.correctCodeword p).mem = s.mem := by
  simp only [State.correctCodeword]
  split
  · rfl
  · split
    · rfl
    · exact (foldl_mem _ (fun t x => by simp) _ _).trans (by simp)

@[simp] theorem State.lockLane_mem (l : Nat) : (s.lockLane l).mem = s.mem := by simp [State.lockLane]

@[simp] theorem State.testLane_mem (l : Nat) : (s.testLane l).mem = s.mem := by simp [State.testLane]

@[simp] theorem State.laneErrors_mem : s.laneErrors.mem = s.mem := by
  unfold State.laneErrors
  exact (foldl_mem _ (fun t l => State.testLane_mem l) _ _).trans
    (foldl_mem _ (fun t p => State.correctCodeword_mem p) _ s)

@[simp] theorem State.idle_wf (hs : s.Canonical) : s.idle.Canonical := by
  have h1 : s.clock.arrTick.finishAts.Canonical := by
    simpa using State.arrTick_wf (s := s.clock) (by simpa using hs)
  have h2 := State.kiteRun_wf (State.pumpFlows_wf (State.runSlices_wf (State.serveHostReads_wf h1)))
  rw [State.idle, State.Canonical, State.laneErrors_mem]
  exact h2

/-! ### The frame tick -/

theorem State.arrOver_wf (n : Nat) (k : CoreId) (hs : s.Canonical) : (State.arrOver n k s).Canonical := by
  induction n generalizing s with
  | zero => exact hs
  | succ n ih =>
    have ht := after_wf (execArrDrainComplete_wf hs k) hs
    have hu := after_wf (execArrPassComplete_wf ht k none) ht
    exact ih (after_wf (execArrLdshComplete_wf hu k none) hu)

@[simp] theorem State.lastStarts_wf (hs : s.Canonical) (f : FrameNo) : (s.lastStarts f).Canonical :=
  foldl_keeps State.Canonical _ (fun _ k ht => State.arrOver_wf 9 k (State.arrSettle_wf ht _)) _ s hs

@[simp] theorem State.finishCore_wf (hs : s.Canonical) (id : Nat) (k : CoreId) : (s.finishCore id k).Canonical := by
  have ht := State.canonical_ite (c := (s.core k.val).arr.queue.all (fun e => ArrEntry.over e s.now) = true)
    (State.arrOver_wf 9 k hs) hs
  exact after_wf (execLaunchCoreEnd_wf ht ..) ht

@[simp] theorem State.finishWork_wf (hs : s.Canonical) (w : Work) : (s.finishWork w).Canonical := by
  simp only [State.finishWork]
  split
  · have ht := foldl_keeps State.Canonical _ (fun t k ht => State.finishCore_wf ht w.id k) (Work.cores w) s hs
    exact after_wf (execMarbleJobEnd_wf ht _) ht
  · exact after_wf (execMarbleJobEnd_wf hs _) hs
  · exact after_wf (execDmaCommandEnd_wf hs _) hs
  · have ht := after_wf (execNarogFlip_wf hs w.id) hs
    exact State.canonical_ite (after_wf (execNarogWriteDone_wf ht _) ht) ht
  · exact after_wf (execCollectiveEnd_wf hs _) hs

@[simp] theorem State.finishFrame_wf (hs : s.Canonical) (f : FrameNo) : (s.finishFrame f).Canonical := by
  refine foldl_keeps State.Canonical _ (fun t a ht => ?_) _ _ hs
  simp [ht]

@[simp] theorem State.turnFrame_wf (hs : s.Canonical) (f g : FrameNo) : (s.turnFrame f g).Canonical := by
  have hl : ((s.toCycle (s.frameLen - 1)).lastStarts f).Canonical := State.lastStarts_wf (by simpa using hs) f
  have ha : ((((s.toCycle (s.frameLen - 1)).lastStarts f).toCycle s.frameLen).finishFrame f).Canonical :=
    State.finishFrame_wf (by simpa using hl) f
  exact State.cancelSkipped_wf (State.stopFrame_wf (by simpa using ha) ..) ..

@[simp] theorem State.doTick_wf (hs : s.Canonical) : s.doTick.Canonical := by simp [State.doTick, hs]

theorem execTick_wf (hs : s.Canonical) : ResCanonical (execTick s) := by simp [execTick, hs]

/-! ### Every command -/

/-- Every command keeps the canonical form of memory. -/
theorem exec_wf (hs : s.Canonical) (i : Instr) : ResCanonical (exec i s) := by
  cases i with
  | chselWrite => exact execChselWrite_wf hs ..
  | statusRegisterRead => exact execStatusRegisterRead_wf hs ..
  | statusWriteBack => exact execStatusWriteBack_wf hs ..
  | evackWrite => exact execEvackWrite_wf hs ..
  | configRegisterWrite => exact execConfigRegisterWrite_wf hs ..
  | mbxCommandFinish => exact execMbxCommandFinish_wf hs ..
  | snapTake => exact execSnapTake_wf hs ..
  | snapDone => exact execSnapDone_wf hs ..
  | scrubVisit => exact execScrubVisit_wf hs ..
  | eventFrame => exact execEventFrame_wf hs ..
  | scrubFrame => exact execScrubFrame_wf hs ..
  | tick => exact execTick_wf hs
  | closingWindowOpen => exact execClosingWindowOpen_wf hs
  | waveRelease => exact execWaveRelease_wf hs ..
  | launch => exact execLaunch_wf hs ..
  | launchStart => exact execLaunchStart_wf hs ..
  | blockDispatch => exact execBlockDispatch_wf hs ..
  | launchCoreEnd => exact execLaunchCoreEnd_wf hs ..
  | cancel => exact execCancel_wf hs ..
  | fence => exact execFence_wf hs ..
  | fenceComplete => exact execFenceComplete_wf hs ..
  | tlbInval => exact execTlbInval_wf hs ..
  | tlbInvalComplete => exact execTlbInvalComplete_wf hs ..
  | badOpcodeCommand => exact execBadOpcodeCommand_wf hs ..
  | markerReceive => exact execMarkerReceive_wf hs ..
  | stringsTakeover => exact execStringsTakeover_wf hs
  | stringsLost => exact execStringsLost_wf hs
  | stringsFrameNo => exact execStringsFrameNo_wf hs ..
  | applyFrame => exact execApplyFrame_wf hs ..
  | frameSet => exact execFrameSet_wf hs ..
  | puppeteerFrameNo => exact execPuppeteerFrameNo_wf hs ..
  | stepBase => exact execStepBase_wf hs ..
  | stepNo => exact execStepNo_wf hs ..
  | grantCtxWrite => exact execGrantCtxWrite_wf hs ..
  | grantCoresWrite => exact execGrantCoresWrite_wf hs ..
  | grantWatchWrite => exact execGrantWatchWrite_wf hs ..
  | grantSgWrite => exact execGrantSgWrite_wf hs ..
  | grantSlowWrite => exact execGrantSlowWrite_wf hs ..
  | grantHbmLo => exact execGrantHbmLo_wf hs ..
  | grantHbmHi => exact execGrantHbmHi_wf hs ..
  | evtVectors => exact execEvtVectors_wf hs ..
  | measurementRecompute => exact execMeasurementRecompute_wf hs ..
  | bar4Read => exact execBar4Read_wf hs ..
  | bar4Write => exact execBar4Write_wf hs ..
  | bar4BaseWrite => exact execBar4BaseWrite_wf hs ..
  | doorbellWrite => exact execDoorbellWrite_wf hs ..
  | commandFetch => exact execCommandFetch_wf hs ..
  | atomicopRequest => exact execAtomicopRequest_wf hs ..
  | configRequest => exact execConfigRequest_wf hs ..
  | atsInvalidation => exact execAtsInvalidation_wf hs ..
  | vfEnableClear => exact execVfEnableClear_wf hs
  | functionLevelReset => exact execFunctionLevelReset_wf hs ..
  | createArg => exact execCreateArg_wf hs ..
  | create => exact execCreate_wf hs ..
  | destroy => exact execDestroy_wf hs ..
  | teardownClearStart => exact execTeardownClearStart_wf hs ..
  | teardownClearDone => exact execTeardownClearDone_wf hs ..
  | resume => exact execResume_wf hs ..
  | vectorAlu => exact execVectorAlu_wf hs ..
  | specialFunction => exact execSpecialFunction_wf hs ..
  | cvtF => exact execCvtF_wf hs ..
  | cvtBlk => exact execCvtBlk_wf hs ..
  | cvtWide => exact execCvtWide_wf hs ..
  | mskPack => exact execMskPack_wf hs ..
  | branch => exact execBranch_wf hs ..
  | yieldEnd => exact execYieldEnd_wf hs ..
  | join => exact execJoin_wf hs ..
  | barSync => exact execBarSync_wf hs ..
  | barArrive => exact execBarArrive_wf hs ..
  | barrierMismatch => exact execBarrierMismatch_wf hs ..
  | exit => exact execExit_wf hs ..
  | specialValueRead => exact execSpecialValueRead_wf hs ..
  | groupPromote => exact execGroupPromote_wf hs ..
  | load => exact execLoad_wf hs ..
  | loadReturn => exact execLoadReturn_wf hs ..
  | store => exact execStore_wf hs ..
  | scrCas => exact execScrCas_wf hs ..
  | scrExch => exact execScrExch_wf hs ..
  | stAdd => exact execStAdd_wf hs ..
  | scrAdd => exact execScrAdd_wf hs ..
  | memDead => exact execMemDead_wf hs ..
  | memFence => exact execMemFence_wf hs ..
  | ldCmp => exact execLdCmp_wf hs ..
  | mrPut => exact execMrPut_wf hs ..
  | spSegset => exact execSpSegset_wf hs ..
  | spTake => exact execSpTake_wf hs ..
  | rngCtr => exact execRngCtr_wf hs ..
  | rngStr => exact execRngStr_wf hs ..
  | arrReady => exact execArrReady_wf hs ..
  | arrUnready => exact execArrUnready_wf hs ..
  | arrLds => exact execArrLds_wf hs ..
  | arrLdsh => exact execArrLdsh_wf hs ..
  | arrLdshStart => exact execArrLdshStart_wf hs ..
  | arrLdshComplete => exact execArrLdshComplete_wf hs ..
  | arrMm => exact execArrMm_wf hs ..
  | arrPassStart => exact execArrPassStart_wf hs ..
  | arrPassComplete => exact execArrPassComplete_wf hs ..
  | arrDrain => exact execArrDrain_wf hs ..
  | arrDrainStart => exact execArrDrainStart_wf hs ..
  | arrDrainComplete => exact execArrDrainComplete_wf hs ..
  | arrStat => exact execArrStat_wf hs ..
  | spFilt => exact execSpFilt_wf hs ..
  | spLdw => exact execSpLdw_wf hs ..
  | spEst => exact execSpEst_wf hs ..
  | spChk => exact execSpChk_wf hs ..
  | spStat => exact execSpStat_wf hs ..
  | rattleCheck => exact execRattleCheck_wf hs ..
  | rattleSeedWrite => exact execRattleSeedWrite_wf hs ..
  | sortList => exact execSortList_wf hs ..
  | marbleWindowTimeout => exact execMarbleWindowTimeout_wf hs ..
  | marbleJobInputEnd => exact execMarbleJobInputEnd_wf hs ..
  | marbleWindowEmit => exact execMarbleWindowEmit_wf hs ..
  | marbleJobEnd => exact execMarbleJobEnd_wf hs ..
  | rd => exact execRd_wf hs ..
  | own => exact execOwn_wf hs ..
  | ownFull => exact execOwnFull_wf hs ..
  | joinRequest => exact execJoinRequest_wf hs ..
  | joinAck => exact execJoinAck_wf hs ..
  | wbd => exact execWbd_wf hs ..
  | wbr => exact execWbr_wf hs ..
  | deadRequest => exact execDeadRequest_wf hs ..
  | ard => exact execArd_wf hs ..
  | awr => exact execAwr_wf hs ..
  | aadd => exact execAadd_wf hs ..
  | vict => exact execVict_wf hs ..
  | snoopShare => exact execSnoopShare_wf hs ..
  | snoopInval => exact execSnoopInval_wf hs ..
  | snoopDiscard => exact execSnoopDiscard_wf hs ..
  | snoopAnswer => exact execSnoopAnswer_wf hs ..
  | fillArrive => exact execFillArrive_wf hs ..
  | fillDeliver => exact execFillDeliver_wf hs ..
  | conversionComplete => exact execConversionComplete_wf hs ..
  | mergeStart => exact execMergeStart_wf hs ..
  | mergeComplete => exact execMergeComplete_wf hs ..
  | wbArg => exact execWbArg_wf hs ..
  | wbStart => exact execWbStart_wf hs ..
  | wbVisit => exact execWbVisit_wf hs ..
  | wbScanComplete => exact execWbScanComplete_wf hs ..
  | lookupArg => exact execLookupArg_wf hs ..
  | lookup => exact execLookup_wf hs ..
  | lastDead => exact execLastDead_wf hs ..
  | narrowSchedule => exact execNarrowSchedule_wf hs ..
  | hbmReadComplete => exact execHbmReadComplete_wf hs ..
  | hbmRefresh => exact execHbmRefresh_wf hs ..
  | hbmScrub => exact execHbmScrub_wf hs ..
  | hbmLastUncorr => exact execHbmLastUncorr_wf hs ..
  | scrubPasses => exact execScrubPasses_wf hs ..
  | copy => exact execCopy_wf hs ..
  | fill => exact execFill_wf hs ..
  | gather => exact execGather_wf hs ..
  | storeCast => exact execStoreCast_wf hs ..
  | amax => exact execAmax_wf hs ..
  | transpose => exact execTranspose_wf hs ..
  | dmaPiece => exact execDmaPiece_wf hs ..
  | dmaCommandEnd => exact execDmaCommandEnd_wf hs ..
  | lastHole => exact execLastHole_wf hs ..
  | update => exact execUpdate_wf hs ..
  | cast => exact execCast_wf hs ..
  | narogJobStart => exact execNarogJobStart_wf hs ..
  | narogWriteDone => exact execNarogWriteDone_wf hs ..
  | narogFlip => exact execNarogFlip_wf hs ..
  | narogReport => exact execNarogReport_wf hs ..
  | recordAddr => exact execRecordAddr_wf hs ..
  | loadRecord => exact execLoadRecord_wf hs ..
  | init => exact execInit_wf hs ..
  | narogCommitRead => exact execNarogCommitRead_wf hs ..
  | narogStepRead => exact execNarogStepRead_wf hs ..
  | powers => exact execPowers_wf hs ..
  | narogCfgWrite => exact execNarogCfgWrite_wf hs ..
  | slowtierLastUncorr => exact execSlowtierLastUncorr_wf hs ..
  | watchReport => exact execWatchReport_wf hs
  | stepClose => exact execStepClose_wf hs ..
  | dumpComplete => exact execDumpComplete_wf hs ..
  | watchCfgWrite => exact execWatchCfgWrite_wf hs ..
  | closedStep => exact execClosedStep_wf hs ..
  | closed => exact execClosed_wf hs ..
  | live => exact execLive_wf hs ..
  | dump => exact execDump_wf hs ..
  | close => exact execClose_wf hs ..
  | norm => exact execNorm_wf hs ..
  | lastDisagree => exact execLastDisagree_wf hs ..
  | portEnable => exact execPortEnable_wf hs ..
  | portDisable => exact execPortDisable_wf hs ..
  | retrain => exact execRetrain_wf hs ..
  | detourSet => exact execDetourSet_wf hs ..
  | detourClear => exact execDetourClear_wf hs ..
  | portUp => exact execPortUp_wf hs ..
  | trainFail => exact execTrainFail_wf hs ..
  | nodeDimsWrite => exact execNodeDimsWrite_wf hs ..
  | flitSlot => exact execFlitSlot_wf hs ..
  | flitReceive => exact execFlitReceive_wf hs ..
  | retryTimeout => exact execRetryTimeout_wf hs ..
  | noFlitTimeout => exact execNoFlitTimeout_wf hs ..
  | ackTimeout => exact execAckTimeout_wf hs ..
  | reduceScatter => exact execReduceScatter_wf hs ..
  | allGather => exact execAllGather_wf hs ..
  | allReduce => exact execAllReduce_wf hs ..
  | put => exact execPut_wf hs ..
  | collectiveStart => exact execCollectiveStart_wf hs ..
  | collData => exact execCollData_wf hs
  | collReady => exact execCollReady_wf hs
  | flowAck => exact execFlowAck_wf hs
  | flowAckTimer => exact execFlowAckTimer_wf hs
  | rewindTimeout => exact execRewindTimeout_wf hs
  | normUp => exact execNormUp_wf hs
  | normDown => exact execNormDown_wf hs
  | refuse => exact execRefuse_wf hs
  | collectiveEnd => exact execCollectiveEnd_wf hs ..
  | landing => exact execLanding_wf hs ..
  | txFlits => exact execTxFlits_wf hs ..
  | rxFlits => exact execRxFlits_wf hs ..
  | sweepComplete => exact execSweepComplete_wf hs ..
  | ack => exact execAck_wf hs
  | storeTimeout => exact execStoreTimeout_wf hs ..
  | buddyPut => exact execBuddyPut_wf hs
  | buddyAck => exact execBuddyAck_wf hs
  | openRecord => exact execOpenRecord_wf hs
  | rowRecord => exact execRowRecord_wf hs
  | sealRecord => exact execSealRecord_wf hs
  | abortRecord => exact execAbortRecord_wf hs
  | restoreReq => exact execRestoreReq_wf hs
  | replReq => exact execReplReq_wf hs
  | replAns => exact execReplAns_wf hs
  | restoreClearDone => exact execRestoreClearDone_wf hs ..
  | restoreCheckDone => exact execRestoreCheckDone_wf hs ..
  | hostFeed => exact execHostFeed_wf hs ..
  | stage => exact execStage_wf hs ..
  | hostRing => exact execHostRing_wf hs ..
  | hostConsumed => exact execHostConsumed_wf hs ..
  | hostAck => exact execHostAck_wf hs ..
  | feed => exact execFeed_wf hs ..
  | sgSel => exact execSgSel_wf hs ..
  | sgTable => exact execSgTable_wf hs ..
  | base => exact execBase_wf hs ..
  | kiteCommits => exact execKiteCommits_wf hs ..
  | kiteDigest => exact execKiteDigest_wf hs ..
  | expect => exact execExpect_wf hs ..
  | restore => exact execRestore_wf hs ..
  | replica => exact execReplica_wf hs ..
  | failNote => exact execFailNote_wf hs ..
  | adapt => exact execAdapt_wf hs ..
  | buddyArg => exact execBuddyArg_wf hs ..
  | buddyGet => exact execBuddyGet_wf hs ..
  | buddyDrop => exact execBuddyDrop_wf hs ..
  | krecAddr => exact execKrecAddr_wf hs ..
  | krecInit => exact execKrecInit_wf hs ..
  | wcStale => exact execWcStale_wf hs ..
  | kiteCfgWrite => exact execKiteCfgWrite_wf hs ..
  | kiteMctlWrite => exact execKiteMctlWrite_wf hs ..
  | rngSeed => exact execRngSeed_wf hs ..
  | cursor => exact execCursor_wf hs ..
  | pos => exact execPos_wf hs ..
  | snapPos => exact execSnapPos_wf hs ..
  | snapCursor => exact execSnapCursor_wf hs ..
  | vinApplied => exact execVinApplied_wf hs ..
  | firmwareVerified => exact execFirmwareVerified_wf hs
  | pwrEnAssert => exact execPwrEnAssert_wf hs
  | pwrEnDeassert => exact execPwrEnDeassert_wf hs
  | railsUp => exact execRailsUp_wf hs
  | perstDeassert => exact execPerstDeassert_wf hs
  | perstAssert => exact execPerstAssert_wf hs
  | clocksDone => exact execClocksDone_wf hs
  | memoryDone => exact execMemoryDone_wf hs
  | selftestDone => exact execSelftestDone_wf hs ..
  | bootClearDone => exact execBootClearDone_wf hs
  | supplyLow => exact execSupplyLow_wf hs
  | supplyLoss => exact execSupplyLoss_wf hs
  | governorWindow => exact execGovernorWindow_wf hs ..
  | thermWarn => exact execThermWarn_wf hs ..
  | thermalTrip => exact execThermalTrip_wf hs ..
  | thermalTripRelease => exact execThermalTripRelease_wf hs ..
  | crossingStall => exact execCrossingStall_wf hs ..
  | pllUnlock => exact execPllUnlock_wf hs ..
  | relockTimeout => exact execRelockTimeout_wf hs ..
  | blockRst => exact execBlockRst_wf hs ..
  | blockResetComplete => exact execBlockResetComplete_wf hs ..
  | moduleReset => exact execModuleReset_wf hs ..
  | coreFailLo => exact execCoreFailLo_wf hs ..
  | coreFailHi => exact execCoreFailHi_wf hs ..
  | bootTime => exact execBootTime_wf hs ..
  | fwLoad => exact execFwLoad_wf hs ..
  | fwLoadComplete => exact execFwLoadComplete_wf hs
  | fwInfo => exact execFwInfo_wf hs ..
  | fwCommitSvn => exact execFwCommitSvn_wf hs ..
  | signIndex => exact execSignIndex_wf hs ..
  | generation => exact execGeneration_wf hs ..
  | measArg => exact execMeasArg_wf hs ..
  | secMeas => exact execSecMeas_wf hs ..
  | getMeasurements => exact execGetMeasurements_wf hs ..
  | getIdentity => exact execGetIdentity_wf hs ..
  | fwRecover => exact execFwRecover_wf hs ..
  | reservationWriteDone => exact execReservationWriteDone_wf hs
  | signatureRelease => exact execSignatureRelease_wf hs
  | treeBuildDone => exact execTreeBuildDone_wf hs
  | feedCycles => exact execFeedCycles_wf hs ..
  | swaps => exact execSwaps_wf hs ..
  | stallCountRead => exact execStallCountRead_wf hs ..
  | mispTotal => exact execMispTotal_wf hs ..
  | entriesIn => exact execEntriesIn_wf hs ..
  | laneLockLost => exact execLaneLockLost_wf hs ..
  | pllRelock => exact execPllRelock_wf hs ..
  | clockResume => exact execClockResume_wf hs ..
  | moduleResetRelease => exact execModuleResetRelease_wf hs
  | atsCompletion => exact execAtsCompletion_wf hs ..
  | ideKmMessage => exact execIdeKmMessage_wf hs ..
  | mctpControlMessage => exact execMctpControlMessage_wf hs ..

/-! ### A step -/

theorem step_wf (hs : s.Canonical) : ResCanonical (step s) := by
  unfold step
  split
  next => exact (resCanonical_next _).2 (State.idle_wf hs)
  next c rest _ => exact exec_wf (s := { s with pending := rest }) hs c

end Sys2Proof.Machine

namespace Sys2Proof.Proofs.MemoryForm
open Sys2Proof Sys2Proof.Machine

/-- Settles O59: each command that a step may run, and a cycle without one, keeps the canonical form. -/
theorem memoryStaysCanonical : Obligations.MemoryStaysCanonical := by
  intro s t hs e
  have h := step_wf hs
  rw [e] at h
  exact h

end Sys2Proof.Proofs.MemoryForm

namespace Sys2Proof.Machine

/-!
## Register pages: what their commands do (R51 to R84)
-/

variable {s : State} {r r' : Req} {w w' : Window} {b b' : Block} {i off : Nat}

/-! ### CHSEL -/

/-- CHSEL where a write reaches the page (R55). -/
theorem State.chsel_of_takes (v : Word) (hh : s.hears r b = true) (hp : pageTakes r w b = true)
    (hg : globCount s.variant b ≠ 0) :
    s.chsel r w b v = s.setCopy r w b
      (if v.toNat % 65536 < s.chCount w b then
        { s.copyOf r w b with inst := BitVec.ofNat 16 (v.toNat % 65536), bad := false }
      else { s.copyOf r w b with bad := true }) := by
  simp only [State.chsel, hh, hp, Bool.not_true, Bool.or_self, Bool.false_or, decide_eq_true_eq]
  rw [if_neg hg]
  split <;> rfl

/-- BAD as the requester reads it in CHSEL (R53). -/
theorem State.regWord_chsel_bad (hp : pageExists w b = true) (ha : s.absent b = false)
    (hbad : (s.copyOf r w b).bad = true) : bit (s.regWord r w b 0x008) 23 = true := by
  have hword : s.regWord r w b 0x008 = flag (s.copyOf r w b).bad 23 ||| place (s.copyOf r w b).inst.toNat 0 := by
    simp [State.regWord, hp, ha]
  rw [hword, hbad]
  simp [bit, flag, place]

theorem pageExists_of_pageTakes (h : pageTakes r w b = true) : pageExists w b = true := by
  simp only [pageTakes, pageOk, Bool.and_eq_true] at h
  exact h.1.2

/-! ### The copies of other requesters (R51) -/

theorem State.chsel_copyOf_ne (v : Word) (h : r' ≠ r) : (s.chsel r w b v).copyOf r' w' b' = s.copyOf r' w' b' := by
  simp only [State.chsel]
  split
  · rfl
  · split <;> exact State.copyOf_setCopy _ _ h

@[simp] theorem State.zeroCounters_regs_copy (i : Nat) : (s.zeroCounters w b i).regs.copy = s.regs.copy := by
  simp only [State.zeroCounters]
  split <;> rfl

theorem State.snapWrite_copyOf_ne (v : Word) (h : r' ≠ r) :
    (s.snapWrite r w b v).copyOf r' w' b' = s.copyOf r' w' b' := by
  simp only [State.snapWrite]
  split
  · rfl
  · split
    · exact State.copyOf_setCopy _ _ h
    · split
      · exact State.copyOf_setCopy _ _ h
      · next i _ =>
        have hset := State.copyOf_setCopy (w := w) (w' := w') (b := b) (b' := b') s
          { s.copyOf r w b with
            snapZero := bit v 2, snapInst := (s.copyOf r w b).inst, snapDone := false, snapBusy := true
            hold := s.snapshot w b i } h
        rw [← hset]
        apply State.copyOf_congr
        split <;> split <;> simp

theorem State.mbxBegin_copyOf_ne (q : MbxReq) (item : Nat) (e : BitVec 2) (ws : List Word) (h : r' ≠ q.req) :
    (s.mbxBegin q b item e ws).copyOf r' w' b' = s.copyOf r' w' b' :=
  State.copyOf_setCopy _ _ h

/-- An item whose own rule changes nothing changes at most the requester's copy of the page. -/
theorem State.mbxRun_copyOf_ne {act : Nat → Bool → List Word → State → ItemRes} (q : MbxReq) (i : Item)
    (ha : ∀ k wr ws t, (act k wr ws t).2.2 = t) (h : r' ≠ q.req) :
    (s.mbxRun q b i act).copyOf r' w' b' = s.copyOf r' w' b' := by
  simp only [State.mbxRun]
  split
  · rfl
  · split
    · exact State.mbxBegin_copyOf_ne _ _ _ _ h
    · rw [State.mbxBegin_copyOf_ne _ _ _ _ h, ha]

/-! ### Reads at an address (R42) -/

/-- What a 32-bit read leaves: at most other event numbers at its readers and other free values. -/
theorem State.readBar_eq (s : State) (x : BarAcc) :
    ∃ n k, (s.readBar x).2 = { s with regs := { s.regs with seen := n }, free := k } := by
  simp only [State.readBar]
  split
  · exact State.readReg_eq s _ _ _ _
  · exact ⟨_, _, rfl⟩
  · exact ⟨_, _, rfl⟩

theorem State.readAcc_eq (s : State) (x : BarAcc) (n : AccWidth) :
    ∃ m k, (s.readAcc x n).2 = { s with regs := { s.regs with seen := m }, free := k } := by
  obtain ⟨m, k, hx⟩ := State.readBar_eq s x
  cases n with
  | w8 => exact ⟨m, k, hx⟩
  | w16 => exact ⟨m, k, hx⟩
  | w32 => exact ⟨m, k, hx⟩
  | w64 =>
    simp only [State.readAcc]
    split
    · next y _ =>
      obtain ⟨m', k', hy⟩ := State.readBar_eq (s.readBar x).2 y
      exact ⟨m', k', by rw [hy, hx]⟩
    · exact ⟨m, k, hx⟩

theorem State.readAcc_copyOf (s : State) (x : BarAcc) (n : AccWidth) :
    (s.readAcc x n).2.copyOf r w b = s.copyOf r w b := by
  obtain ⟨m, k, h⟩ := State.readAcc_eq s x n
  rw [h]
  rfl

theorem execStatusRegisterRead_copyOf {a : BarAcc} {n : AccWidth} {t : State}
    (e : execStatusRegisterRead a n s = .next t) : t.copyOf r w b = s.copyOf r w b := by
  cases e
  split
  · exact State.readAcc_copyOf s a n
  · rfl

/-! ### The end of a mailbox command (R59) -/

section
variable {c : ReqCopy} (h : c.busy = true)
include h

/-- What the end of a running command makes of the requester's copy. -/
theorem ReqCopy.finish_of_busy :
    c.finish = { c with
      busy := false, valid := true, err := c.result.1, tag := BitVec.ofNat 8 (c.cmd.toNat / 2 ^ 24)
      d := if c.result.1 = errDone then c.result.2 ++ c.d.drop c.result.2.length else c.d
      result := (0, []) } := by
  simp [ReqCopy.finish, h]

theorem ReqCopy.finish_busy : c.finish.busy = false := by rw [ReqCopy.finish_of_busy h]

theorem ReqCopy.finish_valid : c.finish.valid = true := by rw [ReqCopy.finish_of_busy h]

theorem ReqCopy.finish_todo : c.finish.todo = c.todo := by rw [ReqCopy.finish_of_busy h]

theorem ReqCopy.finish_err : c.finish.err = c.result.1 := by rw [ReqCopy.finish_of_busy h]

theorem ReqCopy.finish_tag : c.finish.tag.toNat = c.cmd.toNat / 2 ^ 24 % 256 := by
  rw [ReqCopy.finish_of_busy h]
  exact BitVec.toNat_ofNat _ 8

theorem ReqCopy.finish_d :
    c.finish.d = if c.result.1 = errDone then c.result.2 ++ c.d.drop c.result.2.length else c.d := by
  rw [ReqCopy.finish_of_busy h]

end

/-- A command that waited for memory, with the outcome of its rule. -/
def ReqCopy.carriedOut (c : ReqCopy) (err : BitVec 2) (ws : List Word) : ReqCopy :=
  { c with todo := none, result := (err, ws) }

/-- A command that waits for no memory finishes. -/
theorem execMbxCommandFinish_of_ready (h : (s.copyOf r w b).todo = none) :
    execMbxCommandFinish r w b s = .next (s.setCopy r w b (s.copyOf r w b).finish) := by
  simp [execMbxCommandFinish, State.mbxCarryOut, h]

/-- A command whose rule still has to wait for memory stays as it is. -/
theorem execMbxCommandFinish_of_waits {a : List Nat} (h : (s.copyOf r w b).todo = some a)
    (hw : waitingRule b ((s.copyOf r w b).cmd.toNat % 65536) a s = none) :
    execMbxCommandFinish r w b s = .next s := by
  simp [execMbxCommandFinish, State.mbxCarryOut, h, hw]

/-- A command that waited for memory is carried out and finishes with the outcome of its rule. -/
theorem execMbxCommandFinish_of_done {a : List Nat} {err : BitVec 2} {ws : List Word} {u : State}
    (h : (s.copyOf r w b).todo = some a)
    (hd : waitingRule b ((s.copyOf r w b).cmd.toNat % 65536) a s = some (err, ws, u)) :
    execMbxCommandFinish r w b s =
      .next ((u.setCopy r w b ((u.copyOf r w b).carriedOut err ws)).setCopy r w b
        ((u.copyOf r w b).carriedOut err ws).finish) := by
  have hout : s.mbxCarryOut r w b (waitingRule b ((s.copyOf r w b).cmd.toNat % 65536)) =
      u.setCopy r w b ((u.copyOf r w b).carriedOut err ws) := by
    simp only [State.mbxCarryOut, h, hd]
    rfl
  have htodo : ((u.copyOf r w b).carriedOut err ws).todo = none := rfl
  simp [execMbxCommandFinish, hout, htodo]

/-- A requester whose command runs on a page begins no other there (R60). -/
theorem State.mbxReady_of_busy {q : MbxReq} (h : (s.copyOf q.req q.win b).busy = true) : s.mbxReady q b = false := by
  simp [State.mbxReady, h]

/-! ### Reads, write-backs and acknowledgements (R42, R76, R84) -/

/-- A read by a requester that reaches the page delivers its value. -/
theorem execStatusRegisterRead_of_hears {x : BarAcc} (n : AccWidth) (h : s.hears x.req (BarAcc.page x) = true) :
    execStatusRegisterRead x n s = .next ((s.readAcc x n).2.emit (.readData x.req.val (s.readAcc x n).1)) := by
  simp [execStatusRegisterRead, h]

/-- A write-back to a register behind which the latch at `i` stands. -/
theorem State.writeBack_of_inst {off i : Nat} (v : Word) (h : s.statusInst r w b off = some i) :
    s.writeBack r w b off v =
      if readOnlyPage w b = false ∧ s.matchesRead (regKey b i off) r (s.seqNum b i off) (field v 31 24) = true then
        s.clearSq b i off
      else s := by
  simp only [State.writeBack, h, Bool.and_eq_true, Bool.not_eq_true']

/-- An acknowledgement that the comparison of R76 upholds: PENDING is 0 and the request withdrawn; ALERT# may rise. -/
theorem State.evack_of_held {v : Word} {i : Nat} (h : s.selInst r w b = some i)
    (hheld : readOnlyPage w b = false ∧
      s.matchesRead (regKey b i 0x010) r (s.source (srcKey b i)).num (field v 31 24) = true) :
    ∃ o, s.evack r w b v =
      { (s.setSource (srcKey b i) { s.source (srcKey b i) with pending := 0 }).withdraw (srcKey b i) with
        out := o } := by
  simp only [State.evack, h]
  rw [if_pos (by simp [hheld])]
  split <;> exact ⟨_, rfl⟩

/-- An acknowledgement that it does not uphold changes nothing. -/
theorem State.evack_of_not_held {v : Word} {i : Nat} (h : s.selInst r w b = some i)
    (hheld : ¬(readOnlyPage w b = false ∧
      s.matchesRead (regKey b i 0x010) r (s.source (srcKey b i)).num (field v 31 24) = true)) :
    s.evack r w b v = s := by
  simp only [State.evack, h]
  rw [if_neg (by simpa using hheld)]

/-! ### A TAKE in a block reset (R62, R515) -/

/-- Where the selected registers do not show, as in a block reset, a TAKE restarts no counter, and what the passes on a
core have saturated still counts. -/
theorem State.snapWrite_satsNow_of_hidden {i : Nat} (v : Word) (k : Nat) (h : s.selInst r w b = some i)
    (hs : s.shows b i = false) : (s.snapWrite r w b v).satsNow k = s.satsNow k := by
  simp only [State.snapWrite, h, hs, Bool.and_false, Bool.false_eq_true, if_false]
  split
  · rfl
  · split
    · rfl
    · split <;> rfl

/-- A pass that fed its first row at cycle 0, with one saturation in it. -/
def saturatedPass : ArrEntry :=
  { id := 0, bslot := 0, issued := 0, started := some 0, fed := 1, sats := [1]
    act := .mm {
      col := false, op := 0, fmt := .bf16, slot := 0, rows := 1, bank := 0, add := false, sw := false, pred := 0
      sparse := false, rel := false } }

/-- Core 0's array is in a block reset with that pass in its queue. -/
def passInReset : State :=
  { now := 200, ready := true, regs := { rst := [srcKey .array 0] }
    cores := [(0, { arr := { queue := [saturatedPass] } })] }

/-! ### Recording an event (R79 to R84) -/

/-- A message on a vector changes the endpoint's state and what has left the module. -/
theorem State.sendMsix_eq (s : State) (f v : Nat) (why : Option Nat) :
    ∃ p o, s.sendMsix f v why = { s with pci := p, out := o } := by
  simp only [State.sendMsix]
  split
  · exact ⟨_, _, rfl⟩
  · split
    · exact ⟨_, _, rfl⟩
    · split <;> exact ⟨_, _, rfl⟩

theorem State.signal_eq (s : State) (src f k : Nat) : ∃ p o, s.signal src f k = { s with pci := p, out := o } := by
  simp only [State.signal]
  split
  · exact State.sendMsix_eq s _ _ _
  · exact ⟨_, _, rfl⟩

theorem State.deliver_eq (s : State) (b : Block) (i : Nat) (code : BitVec 16) :
    ∃ p o, s.deliver b i code = { s with pci := p, out := o } := by
  simp only [State.deliver]
  split
  · exact State.signal_eq s _ _ _
  · obtain ⟨p, o, h⟩ := State.signal_eq s (srcKey b i) 0 (code.toNat / 4096)
    exact ⟨p, _, by rw [h]; rfl⟩

/-- The source after it has recorded an event of a frame. -/
def Source.record (x : Source) (code : BitVec 16) (frame : FrameNo) : Source :=
  { num := x.num + 1, pending := x.pending + 1, lastCode := code, lastFrame := frame }

/-- An event is recorded at its source and delivered; nothing else changes. -/
theorem State.raise_eq (s : State) (b : Block) (i : Nat) (code : BitVec 16) :
    ∃ p o, s.raise b i code =
      { s.setSource (srcKey b i) ((s.source (srcKey b i)).record code s.fr.no) with pci := p, out := o } := by
  obtain ⟨p, o, h⟩ :=
    State.deliver_eq (s.setSource (srcKey b i) ((s.source (srcKey b i)).record code s.fr.no)) b i code
  simp only [State.raise, State.raiseAt]
  split
  · exact ⟨p, _, congrArg (State.emit · _) h⟩
  · exact ⟨p, o, h⟩

theorem Tab.mem_put_same {α : Type} (k : Nat) (v : α) (t : Tab α) : (k, v) ∈ Tab.put k v t := by
  induction t with
  | nil => simp [Tab.put]
  | cons p t ih =>
    obtain ⟨j, u⟩ := p
    unfold Tab.put
    split
    · simp
    · split
      · simp
      · simp [ih]

/-! ### A visit of the scrubber (R69 to R71) -/

/-- A mismatch that the scrubber has not found before. -/
abbrev State.newMismatch (s : State) (b : Block) (i off : Nat) : Bool :=
  s.mismatched b i off && !(s.mismatchFound b i off)

/-- A new mismatch is noted, latched in PARITY_STATUS and recorded at the page's scrubber. -/
theorem State.scrubCheck_of_new (h : s.newMismatch b i off = true) :
    ∃ st ev la p o, s.scrubCheck b i off =
      { s with
        regs := { s.regs with
          found := Tab.set false s.regs.found (regKey b i off) true, status := st, evnum := ev, latched := la
          src := Tab.set {} s.regs.src (srcKey b scrubber) ((s.source (srcKey b scrubber)).record 0x1002 s.fr.no) }
        pci := p, out := o } := by
  simp only [State.scrubCheck, State.parityEvent]
  rw [if_pos h]
  obtain ⟨p, o, hraise⟩ := State.raise_eq
    (State.latchLast { s with regs := { s.regs with found := Tab.set false s.regs.found (regKey b i off) true } }
      b scrubber 0x018 22 (place i 9 ||| place (off / 4) 0)) b scrubber 0x1002
  exact ⟨_, _, _, p, o, hraise⟩

theorem State.scrubCheck_source_of_new (h : s.newMismatch b i off = true) :
    (s.scrubCheck b i off).source (srcKey b scrubber) = (s.source (srcKey b scrubber)).record 0x1002 s.fr.no := by
  obtain ⟨_, _, _, _, _, e⟩ := State.scrubCheck_of_new h
  rw [e]
  exact Tab.get_set_same _ _ _ _

theorem State.mem_found_scrubCheck_of_new (h : s.newMismatch b i off = true) :
    (regKey b i off, true) ∈ (s.scrubCheck b i off).regs.found := by
  obtain ⟨_, _, _, _, _, e⟩ := State.scrubCheck_of_new h
  rw [e]
  exact Tab.mem_put_same _ _ _

theorem State.scrubCheck_of_not_new (h : s.newMismatch b i off = false) : s.scrubCheck b i off = s := by
  simp only [State.scrubCheck]
  exact if_neg (Bool.eq_false_iff.1 h)

/-- What a check changes: what the scrubber has found, the flags and sources of events, and what leaves the module. -/
theorem State.scrubCheck_eq (s : State) (b : Block) (i off : Nat) :
    ∃ fo st ev la so p o, s.scrubCheck b i off =
      { s with
        regs := { s.regs with found := fo, status := st, evnum := ev, latched := la, src := so }
        pci := p, out := o } := by
  cases h : s.newMismatch b i off with
  | false => exact ⟨_, _, _, _, _, _, _, State.scrubCheck_of_not_new h⟩
  | true =>
    obtain ⟨st, ev, la, p, o, e⟩ := State.scrubCheck_of_new h
    exact ⟨_, st, ev, la, _, p, o, e⟩

@[simp] theorem State.scrubCheck_regs_cfg : (s.scrubCheck b i off).regs.cfg = s.regs.cfg := by
  obtain ⟨_, _, _, _, _, _, _, h⟩ := State.scrubCheck_eq s b i off
  rw [h]

@[simp] theorem State.scrubCheck_mismatched : (s.scrubCheck b i off).mismatched b i off = s.mismatched b i off := by
  obtain ⟨_, _, _, _, _, _, _, h⟩ := State.scrubCheck_eq s b i off
  rw [h]
  rfl

theorem State.holdVanish_eq (s : State) (b : Block) (i off : Nat) :
    ∃ wt, s.holdVanish b i off = { s with watch := wt } := by
  simp only [State.holdVanish]
  split <;> exact ⟨_, rfl⟩

/-- Bits that change without a write change the register, its parity and what the scrubber has found, and the run of a
watch entry where VANISH_OFF is 1. -/
theorem State.flip_eq (s : State) (b : Block) (i off : Nat) (f : BitVec 33) :
    ∃ ac wt, s.flip b i off f =
      { s with
        regs := { s.regs with
          cfg := Tab.set (cfgReset b off) s.regs.cfg (regKey b i off)
            (s.cfg b i off ^^^ (BitVec.setWidth 32 f &&& cfgMask b off))
          par := Tab.set false s.regs.par (regKey b i off) (s.mismatched b i off != oddOnes f)
          found := if s.mismatched b i off != oddOnes f then s.regs.found else Tab.del (regKey b i off) s.regs.found
          accepted := ac }
        watch := wt } :=
  ⟨_, _, (State.holdVanish_eq _ b i off).choose_spec⟩

@[simp] theorem State.flip_cfg (f : BitVec 33) :
    (s.flip b i off f).cfg b i off = s.cfg b i off ^^^ (BitVec.setWidth 32 f &&& cfgMask b off) := by
  obtain ⟨_, _, h⟩ := State.flip_eq s b i off f
  rw [h]
  exact Tab.get_set_same (cfgReset b off) _ _ _

theorem State.flip_regs_cfg_ne (f : BitVec 33) {k : Nat} (hk : k ≠ regKey b i off) :
    Tab.get 0 (s.flip b i off f).regs.cfg k = Tab.get 0 s.regs.cfg k := by
  obtain ⟨_, _, h⟩ := State.flip_eq s b i off f
  rw [h]
  exact Tab.get_set_ne _ _ _ _ hk.symm

@[simp] theorem State.flip_mismatched (f : BitVec 33) :
    (s.flip b i off f).mismatched b i off = (s.mismatched b i off != oddOnes f) := by
  obtain ⟨_, _, h⟩ := State.flip_eq s b i off f
  rw [h]
  exact Tab.get_set_same false _ _ _

@[simp] theorem State.flip_source (f : BitVec 33) (k : Nat) : (s.flip b i off f).source k = s.source k := by
  obtain ⟨_, _, h⟩ := State.flip_eq s b i off f
  rw [h]
  rfl

/-- What the scrubber has found lasts where the flips leave a mismatch. -/
theorem State.flip_regs_found {f : BitVec 33} (h : (s.mismatched b i off != oddOnes f) = true) :
    (s.flip b i off f).regs.found = s.regs.found := by
  obtain ⟨_, _, e⟩ := State.flip_eq s b i off f
  rw [e]
  exact if_pos h

/-- A mismatch that the scrubber has found puts the register's owner into hold (R70). -/
theorem State.inHold_of_found (hi : i < 65536) (ho : off < 4096) (h : (regKey b i off, true) ∈ s.regs.found) :
    s.inHold b i = true := by
  have hinst : regKey b i off / 4096 = srcKey b i := by unfold regKey srcKey; omega
  have hblock : regKey b i off / 4096 / 65536 = Block.idx b := by rw [hinst]; unfold srcKey; omega
  simp only [State.inHold, State.pageHold]
  split
  · exact List.any_eq_true.2 ⟨_, h, by simp [hblock]⟩
  · exact List.any_eq_true.2 ⟨_, h, by simp [hinst]⟩

/-! ### Writes of configuration registers (R42, R65, R71) -/

/-- The table of every block lists offsets of the configuration region alone (R41). -/
theorem cfgSpec_range (h : (cfgSpec b off).isSome = true) : 0x100 ≤ off ∧ off < 0x800 := by
  cases b <;> grind [cfgSpec]

theorem isCfg_range (h : isCfg b off = true) : off % 4 = 0 ∧ 0x100 ≤ off ∧ off < 0x800 := by
  simp only [isCfg, Bool.and_eq_true, decide_eq_true_eq] at h
  exact ⟨h.1, cfgSpec_range h.2⟩

/-- The page that is a read-only copy in a window has no configuration register. -/
theorem readOnlyPage_of_isCfg (h : isCfg b off = true) : readOnlyPage w b = false := by
  have hb : b ≠ .module := by
    rintro rfl
    simp [isCfg, cfgSpec] at h
  cases w with
  | glob => rfl
  | part p => exact decide_eq_false hb

/-- A write that reaches a configuration register stores what the register's own rule says. -/
theorem State.writeReg_of_reaches (v : Word) (h : s.reaches r w b i off) :
    s.writeReg r w b off v = s.storeCfg r w b i off v := by
  obtain ⟨hh, hp, ha, hsel, hshow, hcfg⟩ := h
  obtain ⟨h4, hlo, hhi⟩ := isCfg_range hcfg
  have halign : off / 4 * 4 = off := by omega
  have htakes : pageTakes r w b = true := by simp [pageTakes, hp, readOnlyPage_of_isCfg hcfg]
  have hwrite : s.writeCfg r w b off v = s.storeCfg r w b i off v := by
    simp [State.writeCfg, hsel, hcfg, hshow]
  simp only [State.writeReg, halign]
  rw [if_neg (by simp [hh, htakes, ha]), if_neg (by omega), if_neg (by omega), if_neg (by omega),
    if_neg (by simp; omega), if_neg (by omega), if_pos (by simp; omega), hwrite]

theorem execConfigRegisterWrite_of_reaches {x : BarAcc} {a : Acc} (v : BitVec 64) (hacc : BarAcc.acc x = some a)
    (h : s.reaches a.req a.win a.blk i (a.off.toNat / 4 * 4)) :
    execConfigRegisterWrite x .w32 v s =
      .next (s.storeCfg a.req a.win a.blk i (a.off.toNat / 4 * 4) (BitVec.setWidth 32 v)) := by
  have hbar : s.writeBar x (BitVec.setWidth 32 v) =
      s.writeReg a.req a.win a.blk (a.off.toNat / 4 * 4) (BitVec.setWidth 32 v) := by
    simp only [State.writeBar, hacc]
  exact congrArg Host.Outcome.next (hbar.trans (State.writeReg_of_reaches _ h))

@[simp] theorem State.setCfg_mismatched (v : Word) : (s.setCfg b i off v).mismatched b i off = false :=
  Tab.get_del_same _ _ _

@[simp] theorem State.setCfg_mismatchFound (v : Word) : (s.setCfg b i off v).mismatchFound b i off = false :=
  Tab.get_del_same _ _ _

/-- A role that begins to follow drops a period that waits (R113). -/
theorem State.beginsFollowing_eq (t old : State) :
    t.beginsFollowing old = { t with fr := { t.fr with
      pend := if t.isFollower = true ∧ old.isFollower = false ∧ t.fr.free = false then none else t.fr.pend } } := by
  simp only [State.beginsFollowing, Bool.and_eq_true, Bool.not_eq_true', and_assoc]
  split <;> rfl

/-- While no port is in hold, none leaves it. -/
theorem State.leaveHold_of_none {t : State} (h : ∀ p, s.inHold .ulink p = false) : t.leaveHold s = t := by
  simp [State.leaveHold, h]

/-- The value that a register with limits stores: SCRUB_HOURS 0 of HBM keeps its field (R71, log 41). -/
def State.storedValue (s : State) (b : Block) (i off : Nat) (v : Word) : Word :=
  if b = .hbm ∧ field v 15 8 = 0 then (v &&& ~~~(span 15 8)) ||| (s.cfg .hbm i off &&& span 15 8) else v

/-- What a write within the limits leaves: the register's value, and no period that waits where the role of STRINGS
begins to follow (R113). -/
def State.storeLimited (s : State) (b : Block) (i off : Nat) (v : Word) : State :=
  let t := s.plainCfg b i off (s.storedValue b i off v)
  { t with fr := { t.fr with
    pend :=
      if b = .strings ∧ t.isFollower = true ∧ s.isFollower = false ∧ s.fr.free = false then none else s.fr.pend } }

theorem State.storeLimited_strings (v : Word) :
    s.storeLimited .strings i off v = (s.plainCfg .strings i off v).beginsFollowing s := by
  rw [State.beginsFollowing_eq]
  simp only [State.storeLimited, State.storedValue, reduceCtorEq, false_and, if_false, true_and]
  rfl

theorem State.storeLimited_of_ne (v : Word) (h : b ≠ .strings) :
    s.storeLimited b i off v = s.plainCfg b i off (s.storedValue b i off v) := by
  simp only [State.storeLimited, h, false_and, if_false]
  rfl

/-- The blocks whose registers have limits; of a port's page the arbitration weights alone. -/
def hasLimits (b : Block) (off : Nat) : Prop :=
  b = .strings ∨ b = .hbm ∨ b = .narrow ∨ b = .dma ∨ b = .coll ∨ b = .power ∨ (b = .ulink ∧ off = 0x10C)

/-- Such a register ignores a value outside its limits. A port that leaves hold trains, so the ports' case is that of
none in hold. -/
theorem State.storeCfg_of_hasLimits (r : Req) (w : Window) (v : Word) (hb : hasLimits b off)
    (hpower : b = .power → i = 0) (hhold : b = .ulink → ∀ p, s.inHold .ulink p = false) :
    s.storeCfg r w b i off v = if cfgIgnores b off v = true then s else s.storeLimited b i off v := by
  rcases hb with rfl | rfl | rfl | rfl | rfl | rfl | ⟨rfl, rfl⟩
  · simp [State.storeCfg, cfgIgnores, State.storeLimited_strings]
  · simp [State.storeCfg, cfgIgnores, State.keepField, State.storeLimited_of_ne, State.storedValue]
  · simp [State.storeCfg, cfgIgnores, State.storeLimited_of_ne, State.storedValue]
  · simp [State.storeCfg, cfgIgnores, State.storeLimited_of_ne, State.storedValue]
  · simp [State.storeCfg, cfgIgnores, State.storeLimited_of_ne, State.storedValue]
  · obtain rfl := hpower rfl
    by_cases ho : off = 0x100 <;>
      simp [State.storeCfg, State.powerCfg, cfgIgnores, State.storeLimited_of_ne, State.storedValue, ho]
  · simp [State.storeCfg, State.portCfg, cfgIgnores, State.storeLimited_of_ne, State.storedValue,
      State.leaveHold_of_none (hhold rfl)]

/-- CHSEL of POWER can select nothing but 0 (R46). -/
theorem State.selInst_power (h : s.selInst r w .power = some i) : i = 0 := by
  have hcount : s.chCount w .power ≤ 1 := by cases w <;> simp [State.chCount, globCount]
  simp only [State.selInst, State.instAt] at h
  split at h
  · split at h
    · cases h
      omega
    · cases h
  · cases h

/-! ### Grants (R128, R129, R131, R369) -/

/-- GRANT_CTX takes at most so many contexts and a range that R131 does not refuse. -/
theorem State.grantCtx_eq (s : State) (p : Nat) (v : Word) :
    s.grantCtx p v =
      if (if p = 0 then 3072 else 768) < field v 23 12 ∨
          s.recorded.rangeRefused p (field v 11 0) (field v 23 12) 3072 State.ctxBase State.ctxCount = true then s
      else (s.setCfg .puppeteer p 0x104 (v &&& 0x00FFFFFF)).touch p := by
  simp only [State.grantCtx, Bool.or_eq_true, decide_eq_true_eq]
  rfl

theorem State.grantSg_eq (s : State) (p : Nat) (v : Word) :
    s.grantSg p v =
      if s.recorded.rangeRefused p (field v 7 0) (field v 24 16) 256 State.sgBase State.sgCount = true then s
      else (s.setCfg .puppeteer p 0x114 (v &&& 0x01FF00FF)).touch p := rfl

theorem State.grantSlow_eq (s : State) (p : Nat) (v : Word) :
    s.grantSlow p v =
      if (field v 26 16 ≠ 0 ∧ slowGib s.variant < field v 9 0 + field v 26 16) ∨
          s.recorded.rangeRefused p (field v 9 0) (field v 26 16) 2048 State.slowBase State.slowCount = true then s
      else (s.setCfg .puppeteer p 0x118 (v &&& 0x07FF03FF)).touch p := by
  simp only [State.grantSlow, Bool.or_eq_true, Bool.and_eq_true, decide_eq_true_eq]
  rfl

/-- GRANT_CORES_LO replaces clusters 0 to 31, all 32 bits of it. -/
theorem State.grantCores_lo_eq (s : State) (p : Nat) (v : Word) :
    s.grantCores p false v =
      if s.recorded.maskRefused p (s.recorded.clusters p) (s.recorded.clusters p / 2 ^ 32 * 2 ^ 32 + v.toNat)
          s.recorded.clusters = true then s
      else (s.setCfg .puppeteer p 0x108 v).touch p := by
  have hall : v &&& cfgMask .puppeteer 0x108 = v := BitVec.and_allOnes
  simp only [State.grantCores, Bool.false_eq_true, if_false, hall]

/-- GRANT_CORES_HI replaces clusters 32 to 47, its low 16 bits. -/
theorem State.grantCores_hi_eq (s : State) (p : Nat) (v : Word) :
    s.grantCores p true v =
      if s.recorded.maskRefused p (s.recorded.clusters p)
          (s.recorded.clusters p % 2 ^ 32 + v.toNat % 65536 * 2 ^ 32) s.recorded.clusters = true then s
      else (s.setCfg .puppeteer p 0x10C (v &&& 0xFFFF)).touch p := by
  have hmask : cfgMask .puppeteer 0x10C = 0xFFFF := rfl
  have hlow : (v &&& 0xFFFF).toNat = v.toNat % 65536 := Nat.and_two_pow_sub_one_eq_mod v.toNat 16
  simp only [State.grantCores, if_true, hmask, hlow]

/-! ### Watch entries that a grant adds (R402) -/

@[simp] theorem State.touch_regs (s : State) (p : Nat) : (s.touch p).regs = s.regs := by
  simp only [State.touch]
  split <;> rfl

@[simp] theorem State.touch_watch (s : State) (p : Nat) : (s.touch p).watch = s.watch := by
  simp only [State.touch]
  split <;> rfl

@[simp] theorem State.touch_cfg (s : State) (p : Nat) (b : Block) (i off : Nat) :
    (s.touch p).cfg b i off = s.cfg b i off := by
  simp [State.cfg]

theorem State.touch_eq (s : State) (p : Nat) : ∃ c, s.touch p = { s with sec := c } := by
  simp only [State.touch]
  split <;> exact ⟨_, rfl⟩

theorem State.mem_touched_touch (s : State) (p : Nat) : p ∈ (s.touch p).sec.touched := by
  simp only [State.touch]
  split
  · next h => simpa using h
  · simp

theorem mem_upFrom {a n e : Nat} : e ∈ upFrom a n ↔ a ≤ e ∧ e < a + n := by
  simp only [upFrom, List.mem_map, List.mem_range]
  constructor
  · rintro ⟨k, hk, rfl⟩
    omega
  · exact fun h => ⟨e - a, by omega, by omega⟩

/-- A watch entry with its configuration register. -/
def State.watchPair (s : State) (e : Nat) : WEntry × Word := (s.entry e, s.cfg .watch e 0x100)

theorem State.watchPair_freshEntry (s : State) (e j : Nat) :
    (s.freshEntry e).watchPair j = if e = j then ({}, 0x40) else s.watchPair j := by
  have hentry : (s.freshEntry e).entry j = (s.setEntry e {}).entry j := rfl
  have hcfg : (s.freshEntry e).cfg .watch j 0x100 =
      ((s.setEntry e {}).setCfg .watch e 0x100 (cfgReset .watch 0x100)).cfg .watch j 0x100 := rfl
  simp only [State.watchPair, hentry, hcfg]
  split
  · next h =>
    subst h
    rw [State.entry_setEntry_same, State.cfg_setCfg_same]
    rfl
  · next h =>
    rw [State.entry_setEntry, if_neg h, State.cfg_setCfg_ne _ _ (by unfold regKey; omega)]
    rfl

/-- The walk over the entries of a grant: those that `held` names pass, the others start anew. -/
def State.freshEntries (s : State) (held : Nat → Bool) (l : List Nat) : State :=
  l.foldl (fun t e => if held e then t else t.freshEntry e) s

theorem State.watchPair_freshEntries (held : Nat → Bool) (l : List Nat) (s : State) (j : Nat) :
    (s.freshEntries held l).watchPair j = if j ∈ l ∧ held j = false then ({}, 0x40) else s.watchPair j := by
  induction l generalizing s with
  | nil => simp [State.freshEntries]
  | cons e l ih =>
    have hstep : s.freshEntries held (e :: l) = (if held e then s else s.freshEntry e).freshEntries held l := rfl
    rw [hstep, ih]
    by_cases hj : e = j
    · subst hj
      cases held e <;> simp [State.watchPair_freshEntry]
    · cases held e <;> simp [State.watchPair_freshEntry, hj, Ne.symm hj]

/-- The walk changes registers and watch entries alone. -/
theorem State.freshEntries_eq (s : State) (held : Nat → Bool) (l : List Nat) :
    ∃ g wt, s.freshEntries held l = { s with regs := g, watch := wt } := by
  refine foldl_keeps (fun t => ∃ g wt, t = { s with regs := g, watch := wt }) _ ?_ l s ⟨_, _, rfl⟩
  rintro _ e ⟨g, wt, rfl⟩
  split <;> exact ⟨_, _, rfl⟩

/-- It leaves the registers of PUPPETEER. -/
theorem State.freshEntries_cfg_puppeteer (s : State) (held : Nat → Bool) (l : List Nat) (p : Nat) :
    (s.freshEntries held l).cfg .puppeteer p 0x110 = s.cfg .puppeteer p 0x110 := by
  refine foldl_keeps (fun t : State => t.cfg .puppeteer p 0x110 = s.cfg .puppeteer p 0x110) _ (fun t e ht => ?_) l s rfl
  split
  · exact ht
  · have hkey : regKey .watch e 0x100 ≠ regKey .puppeteer p 0x110 := by unfold regKey; omega
    exact (State.cfg_setCfg_ne (t.setEntry e {}) (cfgReset .watch 0x100) hkey).trans ht

/-- An entry lies in a partition's recorded grant. -/
def State.watchHeld (s : State) (p e : Nat) : Bool :=
  s.recorded.watchBase p ≤ e && e < s.recorded.watchBase p + s.recorded.watchCount p

theorem State.grantWatch_eq (s : State) (p : Nat) (v : Word) :
    s.grantWatch p v =
      if s.recorded.rangeRefused p (field v 12 0) (field v 29 16) 8192 State.watchBase State.watchCount = true then s
      else ((s.setCfg .puppeteer p 0x110 (v &&& 0x3FFF1FFF)).touch p).freshEntries (s.watchHeld p)
        (upFrom (field v 12 0) (field v 29 16)) := rfl

/-- The watch entries after a grant that is not refused. -/
theorem State.watchPair_grantWatch (s : State) (p b n : Nat) (v : Word) (e : Nat) :
    (((s.setCfg .puppeteer p 0x110 v).touch p).freshEntries (s.watchHeld p) (upFrom b n)).watchPair e =
      if b ≤ e ∧ e < b + n ∧ s.watchHeld p e = false then ({}, 0x40) else s.watchPair e := by
  have hbase : ((s.setCfg .puppeteer p 0x110 v).touch p).watchPair e = s.watchPair e := by
    have hkey : regKey .puppeteer p 0x110 ≠ regKey .watch e 0x100 := by unfold regKey; omega
    simp [State.watchPair, State.entry, State.cfg_setCfg_ne s v hkey]
  rw [State.watchPair_freshEntries, hbase]
  simp only [mem_upFrom, and_assoc]

end Sys2Proof.Machine

namespace Sys2Proof.Proofs.BlockPages
open Sys2Proof Sys2Proof.Machine

/-- Settles O2: CHSEL where the write reaches the page, and BAD as the register then reads. -/
theorem channelSelect : Obligations.ChannelSelect := by
  intro r w b v s hh hp hg
  have hsel := State.chsel_of_takes v hh hp hg
  refine ⟨fun hlt => ?_, fun hge => ?_⟩
  · rw [if_pos hlt] at hsel
    exact congrArg Host.Outcome.next hsel
  · rw [if_neg (by omega)] at hsel
    exact ⟨_, congrArg Host.Outcome.next hsel, rfl, by simp,
      State.regWord_chsel_bad (pageExists_of_pageTakes hp) (decide_eq_false hg) (by simp)⟩

/-- Settles O3: each of these commands writes copies under its own requester's key alone (`copyKey_inj`). -/
theorem requesterCopiesAreSeparate : Obligations.RequesterCopiesAreSeparate := by
  intro r r' w w' b b' s t c hne hc e
  rcases hc with ⟨v, rfl⟩ | ⟨v, rfl⟩ | rfl | ⟨rfl, htodo⟩ | ⟨a, n, -, rfl⟩ | ⟨q, rfl, rfl | rfl⟩
  · cases e
    exact State.chsel_copyOf_ne v hne
  · cases e
    exact State.snapWrite_copyOf_ne v hne
  · cases e
    split
    · exact State.copyOf_setCopy _ _ hne
    · rfl
  · cases (execMbxCommandFinish_of_ready htodo).symm.trans e
    exact State.copyOf_setCopy _ _ hne
  · exact execStatusRegisterRead_copyOf e
  · cases e
    exact State.mbxRun_copyOf_ne _ _ (fun _ _ _ _ => rfl) hne
  · cases e
    exact State.mbxRun_copyOf_ne _ _ (fun _ _ _ _ => rfl) hne

/-- Settles O4: the laws of an accepted and of an ignored request, and the three ways in which a finish goes, by
what the copy has to do. -/
theorem mailboxCommands : Obligations.MailboxCommands := by
  refine ⟨?_, ?_, ?_, ?_, ?_⟩
  · intro r b s k ws h
    exact congrArg Host.Outcome.next (State.mbxGet_asks h)
  · intro r b s k ws h
    exact congrArg Host.Outcome.next (State.mbxRun_asks h)
  · intro r w b s hbusy htodo
    refine ⟨_, execMbxCommandFinish_of_ready htodo, ?_⟩
    rw [State.copyOf_setCopy_same]
    exact ⟨ReqCopy.finish_busy hbusy, ReqCopy.finish_valid hbusy, ReqCopy.finish_err hbusy, ReqCopy.finish_tag hbusy,
      ReqCopy.finish_d hbusy, rfl⟩
  · intro r w b s a htodo act
    refine ⟨fun hw => execMbxCommandFinish_of_waits htodo hw, fun err ws u hd hbusy => ?_⟩
    refine ⟨_, execMbxCommandFinish_of_done htodo hd, ?_⟩
    have hb : ((u.copyOf r w b).carriedOut err ws).busy = true := hbusy
    rw [State.copyOf_setCopy_same]
    refine ⟨ReqCopy.finish_busy hb, ReqCopy.finish_todo hb, ReqCopy.finish_err hb, fun he => ?_⟩
    rw [ReqCopy.finish_d hb]
    simp [ReqCopy.carriedOut, he]
  · intro r b s hbusy
    have hidle := State.mbxReady_of_busy hbusy
    exact ⟨congrArg Host.Outcome.next (State.mbxRun_idle hidle), congrArg Host.Outcome.next (State.mbxRun_idle hidle)⟩

/-- Settles O5: what a read leaves behind, and the comparison of R76 for the two writes. -/
theorem statusReadAndWriteBack : Obligations.StatusReadAndWriteBack := by
  refine ⟨fun x n s hh => ?_, fun x a v s i hacc hi => ?_, fun r w b v s i hi => ?_⟩
  · obtain ⟨m, k, hread⟩ := State.readAcc_eq s x n
    refine ⟨_, execStatusRegisterRead_of_hears n hh, ?_, ?_⟩
    · rw [hread]
      rfl
    · rw [hread]
      rfl
  · intro o
    refine congrArg Host.Outcome.next ?_
    simp only [hacc]
    exact State.writeBack_of_inst v hi
  · intro held
    by_cases hheld : held
    · obtain ⟨o, ht⟩ := State.evack_of_held hi hheld
      refine ⟨_, congrArg Host.Outcome.next ht, ?_, fun j hj => ?_, ?_, rfl⟩
      · rw [if_pos hheld]
        exact congrArg Source.pending (State.source_setSource_same s (srcKey b i) _)
      · exact (State.source_setSource s (srcKey b i) j _).trans (if_neg hj.symm)
      · rw [if_pos hheld]
        rfl
    · refine ⟨_, congrArg Host.Outcome.next (State.evack_of_not_held hi hheld), ?_, fun j _ => rfl, ?_, rfl⟩
      · rw [if_neg hheld]
      · rw [if_neg hheld]

/-- Refutes O6: a TAKE with ZERO selects an array in a block reset (`passInReset`). Its counters do not restart, so the
one saturation that the pass has written by now still counts, where the statement's `satsNow` clause says 0; the clause
does not ask, as the one on `counter` does, that the array shows its registers. -/
theorem not_snapshotTakeAndDone : ¬ Obligations.SnapshotTakeAndDone := by
  intro h
  have hsel : passInReset.selInst 0 .glob .array = some 0 := by decide
  obtain ⟨t, ht, -, -, -, -, -, -, -, hsats, -⟩ :=
    h.1 0 .glob .array 5 passInReset 0 (by decide) (by decide) hsel (by decide)
  cases ht
  have hkept := State.snapWrite_satsNow_of_hidden 5 0 hsel (by decide)
  have hone : passInReset.satsNow 0 = 1 := by decide
  rw [hkept, hone] at hsats
  exact absurd hsats (by decide)

/-- Settles O7: the check records what was wrong before the visit, and the flips come after it. -/
theorem scrubFindsParityMismatch : Obligations.ScrubFindsParityMismatch := by
  intro b i off f s
  refine ⟨fun h => ?_, fun h => ?_⟩
  · exact congrArg Host.Outcome.next (if_neg (by rw [h]; decide))
  · intro new src
    have hrun : exec (.scrubVisit b i off f) s = .next ((s.scrubCheck b i.val off.toNat).flip b i.val off.toNat f) :=
      congrArg Host.Outcome.next (if_pos h)
    have hcfg : (s.scrubCheck b i.val off.toNat).cfg b i.val off.toNat = s.cfg b i.val off.toNat := by
      simp [State.cfg]
    refine ⟨_, hrun, ?_, ?_, fun k hk => ?_, ?_, fun hnew => ?_, fun hnew => ?_⟩
    · rw [State.flip_cfg, hcfg]
    · rw [State.flip_mismatched, State.scrubCheck_mismatched]
    · rw [State.flip_regs_cfg_ne f hk, State.scrubCheck_regs_cfg]
    · obtain ⟨ac, wt, hflip⟩ := State.flip_eq (s.scrubCheck b i.val off.toNat) b i.val off.toNat f
      obtain ⟨fo, st, ev, la, so, p, o, hcheck⟩ := State.scrubCheck_eq s b i.val off.toNat
      rw [hflip, hcheck]
    · have hsource := State.scrubCheck_source_of_new hnew
      have hbad : s.mismatched b i.val off.toNat = true := (Bool.and_eq_true_iff.1 hnew).1
      rw [State.flip_source, hsource]
      refine ⟨rfl, rfl, rfl, fun hf => ?_⟩
      refine State.inHold_of_found (by omega) off.isLt ?_
      rw [State.flip_regs_found (by rw [State.scrubCheck_mismatched, hbad, hf]; rfl)]
      exact State.mem_found_scrubCheck_of_new hnew
    · rw [State.flip_source, State.scrubCheck_of_not_new hnew]

/-- Settles O8: a write that reaches a register runs the register's own rule, which is a plain store or
one with limits. -/
theorem configRegisterWrite : Obligations.ConfigRegisterWrite := by
  refine ⟨?_, ?_, ?_, ?_, ?_⟩
  · intro x a v s i hacc hb o hreach
    have hstore : s.storeCfg a.req a.win a.blk i o (BitVec.setWidth 32 v) =
        s.setCfg a.blk i o (BitVec.setWidth 32 v &&& cfgMask a.blk o) := by
      rcases hb with h | h | h | h | h | h | h | h | h | h | h <;> rw [h] <;> rfl
    refine ⟨_, (execConfigRegisterWrite_of_reaches v hacc hreach).trans (congrArg Host.Outcome.next hstore), ?_⟩
    exact ⟨by simp, by simp, by simp, fun b j q hk => State.cfg_setCfg_ne s _ hk.symm, rfl⟩
  · intro x a v s i hacc o new hb hreach
    obtain ⟨-, -, -, hsel, -, -⟩ := id hreach
    have hlim : hasLimits a.blk o := by
      rcases hb with h | h | h | h | h | h | ⟨h, ho, -⟩ <;> simp [hasLimits, h]
      exact ho
    have hpower : a.blk = .power → i = 0 := fun h => State.selInst_power (h ▸ hsel)
    have hhold : a.blk = .ulink → ∀ p, s.inHold .ulink p = false := fun h => by simp_all
    have hstore := State.storeCfg_of_hasLimits a.req a.win new hlim hpower hhold
    have hrun := execConfigRegisterWrite_of_reaches v hacc hreach
    refine ⟨fun hbad => ?_, fun hgood => ?_⟩
    · rw [if_pos hbad] at hstore
      exact hrun.trans (congrArg Host.Outcome.next hstore)
    · rw [if_neg (by rw [hgood]; decide)] at hstore
      refine ⟨_, hrun.trans (congrArg Host.Outcome.next hstore), ?_⟩
      exact ⟨State.cfg_setCfg_same _ _ _ _ _, State.setCfg_mismatched _, State.setCfg_mismatchFound _,
        fun b j q hk => State.cfg_setCfg_ne s _ hk.symm, rfl, rfl⟩
  · exact fun x v s => ⟨rfl, rfl⟩
  · intro r o v s hacc
    refine congrArg Host.Outcome.next ?_
    simp only [State.writeBar, hacc]
  · intro x v s
    refine ⟨fun y hy => ⟨_, _, rfl, rfl, congrArg Host.Outcome.next ?_⟩, fun hnone => congrArg Host.Outcome.next ?_⟩
    · simp only [hy]
    · simp only [hnone]

/-- Settles O19: each grant by its own equation; for the watch grant, the walk over the entries it adds. -/
theorem grantWrites : Obligations.GrantWrites := by
  refine ⟨fun r w v s hnone => ?_, fun r w v s p hp => ?_, fun r w v s p hp => ?_, fun r w v s p hp => ?_,
    fun r w v s p hp => ?_, fun r w v s p hp => ?_⟩
  · exact ⟨congrArg Host.Outcome.next (by rw [hnone]), fun hi => congrArg Host.Outcome.next (by rw [hnone]),
      congrArg Host.Outcome.next (by rw [hnone]), congrArg Host.Outcome.next (by rw [hnone]),
      congrArg Host.Outcome.next (by rw [hnone])⟩
  · intro bad
    have hrun : exec (.grantCtxWrite r w v) s = .next (s.grantCtx p v) :=
      congrArg Host.Outcome.next (by rw [hp])
    rw [hrun, State.grantCtx_eq]
    exact ⟨fun h => congrArg Host.Outcome.next (if_pos h), fun h => congrArg Host.Outcome.next (if_neg h)⟩
  · intro old lo hi
    have hlo : exec (.grantCoresWrite r w false v) s = .next (s.grantCores p false v) :=
      congrArg Host.Outcome.next (by rw [hp])
    have hhi : exec (.grantCoresWrite r w true v) s = .next (s.grantCores p true v) :=
      congrArg Host.Outcome.next (by rw [hp])
    rw [hlo, hhi, State.grantCores_lo_eq, State.grantCores_hi_eq]
    exact ⟨fun h => by rw [if_pos h], fun h => by rw [if_pos h],
      fun h => by rw [if_neg (Bool.eq_false_iff.1 h)], fun h => by rw [if_neg (Bool.eq_false_iff.1 h)]⟩
  · intro b n
    have hrun : exec (.grantWatchWrite r w v) s = .next (s.grantWatch p v) :=
      congrArg Host.Outcome.next (by rw [hp])
    rw [hrun, State.grantWatch_eq]
    refine ⟨fun h => by rw [if_pos h], fun h => ?_⟩
    rw [if_neg (Bool.eq_false_iff.1 h)]
    obtain ⟨g, wt, hwalk⟩ := State.freshEntries_eq ((s.setCfg .puppeteer p 0x110 (v &&& 0x3FFF1FFF)).touch p)
      (s.watchHeld p) (upFrom b n)
    refine ⟨_, rfl, ?_, ?_, fun e he => ?_, ?_⟩
    · rw [State.freshEntries_cfg_puppeteer, State.touch_cfg, State.cfg_setCfg_same]
    · rw [hwalk]
      exact State.mem_touched_touch _ p
    · intro old
      have hheld : s.watchHeld p e = true ↔ old := by
        simp only [State.watchHeld, Bool.and_eq_true, decide_eq_true_eq, old]
      have hpair := State.watchPair_grantWatch s p b n (v &&& 0x3FFF1FFF) e
      refine ⟨fun ⟨hb, hn, hold⟩ => ?_, fun h => ?_⟩
      · rw [if_pos ⟨hb, hn, Bool.eq_false_iff.2 (hold ∘ hheld.1)⟩] at hpair
        exact Prod.mk.inj hpair
      · rw [if_neg fun ⟨hb, hn, hf⟩ => h.elim (· ⟨hb, hn⟩) (fun ho => Bool.eq_false_iff.1 hf (hheld.2 ho))] at hpair
        exact Prod.mk.inj hpair
    · obtain ⟨c, htouch⟩ := State.touch_eq (s.setCfg .puppeteer p 0x110 (v &&& 0x3FFF1FFF)) p
      rw [hwalk, htouch]
      rfl
  · intro bad
    have hrun : exec (.grantSgWrite r w v) s = .next (s.grantSg p v) :=
      congrArg Host.Outcome.next (by rw [hp])
    rw [hrun, State.grantSg_eq]
    exact ⟨fun h => congrArg Host.Outcome.next (if_pos h), fun h => congrArg Host.Outcome.next (if_neg h)⟩
  · intro bad
    have hrun : exec (.grantSlowWrite r w v) s = .next (s.grantSlow p v) :=
      congrArg Host.Outcome.next (by rw [hp])
    rw [hrun, State.grantSlow_eq]
    exact ⟨fun h => congrArg Host.Outcome.next (if_pos h), fun h => congrArg Host.Outcome.next (if_neg h)⟩

end Sys2Proof.Proofs.BlockPages

namespace Sys2Proof.Machine

/-!
## What schedules work (R85 to R98)

Memory traffic, events, charges and the end of work all leave the clock, the frame, the context slots and the list of
admitted work (or drop the ended work alone). `f_plan` says so of an operation `f`; what it says of one field follows by
`congrArg`.
-/

/-- The part of the state that schedules work. -/
structure Plan where
  now : Nat
  fr : FrameState
  ctxs : Tab Ctx
  works : List Work
  nextWork : Nat

/-- What a state says about the scheduling of work. -/
def State.plan (s : State) : Plan :=
  { now := s.now, fr := s.fr, ctxs := s.ctxs, works := s.works, nextWork := s.nextWork }

section
variable {s t : State}

theorem State.works_of_plan (h : t.plan = s.plan) : t.works = s.works := congrArg Plan.works h

theorem State.fr_of_plan (h : t.plan = s.plan) : t.fr = s.fr := congrArg Plan.fr h

theorem State.ctx_of_plan (h : t.plan = s.plan) (c : Nat) : t.ctx c = s.ctx c := by
  have hctxs : t.ctxs = s.ctxs := congrArg Plan.ctxs h
  simp only [State.ctx, hctxs]

theorem State.nextWork_of_plan (h : t.plan = s.plan) : t.nextWork = s.nextWork := congrArg Plan.nextWork h

/-- A fold of operations that each leave the plan leaves it. -/
theorem foldl_plan {α : Type} {f : State → α → State} (h : ∀ s a, (f s a).plan = s.plan) (l : List α) (s : State) :
    (l.foldl f s).plan = s.plan :=
  foldl_keeps (fun t : State => t.plan = s.plan) f (fun t a ht => (h t a).trans ht) l s rfl

@[simp] theorem State.plan_ite (c : Prop) [Decidable c] (a b : State) :
    (if c then a else b).plan = if c then a.plan else b.plan := apply_ite State.plan c a b

end

section
variable (s : State)

/-! ### Events, counters and the parts of the state that work does not stand in -/

@[simp] theorem State.useFree_plan (n : Nat) : (s.useFree n).plan = s.plan := rfl
@[simp] theorem State.setCore_plan (k : Nat) (v : Core) : (s.setCore k v).plan = s.plan := rfl
@[simp] theorem State.setMarble_plan (d : Nat) (v : Marble) : (s.setMarble d v).plan = s.plan := rfl
@[simp] theorem State.memWrite_plan (a : Nat) (bs : List Byte) : (s.memWrite a bs).plan = s.plan := rfl
@[simp] theorem State.addCount_plan (b : Block) (i off n : Nat) : (s.addCount b i off n).plan = s.plan := rfl
theorem State.withHbm_plan (h : HbmState) : ({ s with hbm := h } : State).plan = s.plan := rfl
theorem State.withSlowUncorr_plan (u : Tab Nat) : ({ s with slowUncorr := u } : State).plan = s.plan := rfl
@[simp] theorem State.putLine_plan (l : LLine) : (s.putLine l).plan = s.plan := rfl
@[simp] theorem State.dropLine_plan (line : Nat) : (s.dropLine line).plan = s.plan := rfl
@[simp] theorem State.touchLine_plan (l : LLine) : (s.touchLine l).plan = s.plan := rfl
@[simp] theorem State.countServed_plan (line : Nat) (r : Bool) : (s.countServed line r).plan = s.plan := rfl

theorem State.sendMsix_plan (f v : Nat) (why : Option Nat) : (s.sendMsix f v why).plan = s.plan := by
  obtain ⟨p, o, h⟩ := State.sendMsix_eq s f v why
  rw [h]
  rfl

/-- An event with the frame it carries is recorded at its source and delivered; nothing else changes. -/
theorem State.raiseAt_eq (b : Block) (i : Nat) (code : BitVec 16) (f : FrameNo) :
    ∃ p o, s.raiseAt b i code f =
      { s.setSource (srcKey b i) ((s.source (srcKey b i)).record code f) with pci := p, out := o } := by
  obtain ⟨p, o, h⟩ := State.deliver_eq (s.setSource (srcKey b i) ((s.source (srcKey b i)).record code f)) b i code
  simp only [State.raiseAt]
  split
  · exact ⟨p, _, congrArg (State.emit · _) h⟩
  · exact ⟨p, o, h⟩

@[simp] theorem State.raiseAt_plan (b : Block) (i : Nat) (code : BitVec 16) (f : FrameNo) :
    (s.raiseAt b i code f).plan = s.plan := by
  obtain ⟨p, o, h⟩ := State.raiseAt_eq s b i code f
  rw [h]
  rfl

@[simp] theorem State.raise_plan (b : Block) (i : Nat) (code : BitVec 16) : (s.raise b i code).plan = s.plan :=
  State.raiseAt_plan s b i code _

/-! ### Reads and writes of a stack -/

theorem State.correction_plan (a : Nat) : (s.correction a).plan = s.plan := by
  simp only [State.correction, State.plan_ite, State.raise_plan]
  exact ite_self _

theorem State.reportUncorr_plan (a : Nat) : (s.reportUncorr a).plan = s.plan := by
  simp only [State.reportUncorr]
  split
  · exact (State.withHbm_plan _ _).trans (State.raise_plan _ _ _ _)
  · exact (State.withSlowUncorr_plan _ _).trans (State.raise_plan _ _ _ _)

theorem State.burst_plan (line : Nat) (m : BitVec 4) (w : Bool) : (s.burst line m w).plan = s.plan := by
  simp only [State.burst]
  split <;> rfl

theorem State.readSector_plan (n : Nat) : (s.readSector n).plan = s.plan := by
  simp only [State.readSector]
  split
  · exact State.reportUncorr_plan s _
  · split
    · rfl
    · split
      · exact (State.burst_plan _ _ _ _).trans (State.correction_plan _ _)
      · exact State.correction_plan _ _

@[simp] theorem State.hbmFetch_plan (line : Nat) (m : BitVec 4) : (s.hbmFetch line m).plan = s.plan := by
  simp only [State.hbmFetch]
  split
  · rfl
  · refine (foldl_plan (fun t i => ?_) _ _).trans (State.burst_plan s _ _ _)
    split
    · exact State.readSector_plan t _
    · rfl

theorem State.hbmWrite_plan (line : Nat) (m : BitVec 4) (d : List Byte) : (s.hbmWrite line m d).plan = s.plan := by
  refine foldl_plan (fun t i => ?_) _ s
  split <;> rfl

@[simp] theorem State.hbmPut_plan (line : Nat) (m : BitVec 4) (d : List Byte) (g : Bool) :
    (s.hbmPut line m d g).plan = s.plan := by
  simp only [State.hbmPut]
  split
  · rfl
  · exact State.hbmWrite_plan s line m d

@[simp] theorem State.hbmAsk_plan (line : Nat) (m : BitVec 4) (g : Bool) : (s.hbmAsk line m g).plan = s.plan := by
  simp only [State.hbmAsk]
  split <;> rfl

/-! ### A write at a home slice -/

theorem recallOne_plan (q : State × LLine) (k : Nat) : (recallOne q k).1.plan = q.1.plan := by
  simp only [recallOne]
  split
  · rfl
  · split
    · rfl
    · rfl
    · rfl
    · split <;> rfl

@[simp] theorem State.recall_plan (l : LLine) : (s.recall l).1.plan = s.plan :=
  foldl_keeps (fun q : State × LLine => q.1.plan = s.plan) recallOne (fun q k hq => (recallOne_plan q k).trans hq) _ _
    rfl

@[simp] theorem State.resolve_plan (l : LLine) : (s.resolve l).1.plan = s.plan :=
  (State.hbmFetch_plan _ _ _).trans (State.recall_plan s l)

theorem State.evict_plan (l : LLine) : (s.evict l).plan = s.plan := by
  unfold State.evict
  by_cases hr : l.st = .red <;> simp [hr]

theorem State.takeWay_plan {free : Nat → Bool} {line w : Nat} {t : State} (e : s.takeWay free line = some (t, w)) :
    t.plan = s.plan := by
  simp only [State.takeWay] at e
  split at e
  · cases e
  · split at e
    · cases e; rfl
    · cases e; rfl
    · split at e
      · cases e
      · split at e
        · cases e; exact State.evict_plan s _
        · cases e

@[simp] theorem State.awrValue_plan (who : Agent × Option Nat) (l : LLine) (bs : List (Nat × Byte)) :
    (s.awrValue who l bs).plan = s.plan := by
  simp only [State.awrValue]
  split
  · simp [State.fillNow]
  · simp

@[simp] theorem State.awrLater_plan (who : Agent × Option Nat) (line : Nat) (bs : List (Nat × Byte)) :
    (s.awrLater who line bs).plan = s.plan := by
  simp only [State.awrLater]
  split
  · rfl
  · split
    · rfl
    · split
      · rfl
      · split
        · rfl
        · split
          · exact State.awrValue_plan s _ _ _
          · split
            · exact State.awrValue_plan s _ _ _
            · refine (State.putLine_plan _ _).trans (foldl_plan (fun t k => ?_) _ s)
              rfl

theorem State.awrLine_plan (who : Agent × Option Nat) (line : Nat) (bs : List (Nat × Byte)) :
    (s.awrLine who line bs).plan = s.plan := by
  simp only [State.awrLine]
  split
  · exact State.awrLater_plan s _ _ _
  · split
    · split
      · exact State.awrLater_plan s _ _ _
      next e => exact (State.awrValue_plan _ _ _ _).trans (State.takeWay_plan s e)
    · split <;> simp

@[simp] theorem State.cohWrite_plan (who : Agent × Option Nat) (a : Nat) (bs : List Byte) :
    (s.cohWrite who a bs).plan = s.plan := by
  unfold State.cohWrite
  split
  · refine (foldl_plan (fun t k => ?_) _ _).trans (State.memWrite_plan s a bs)
    rfl
  · exact foldl_plan (fun t x => State.awrLine_plan t _ _ _) _ s

/-! ### Completion records -/

@[simp] theorem State.ringWrite_plan (c slot off : Nat) (bs : List Byte) :
    (s.ringWrite c slot off bs).plan = s.plan := by
  simp only [State.ringWrite]
  split
  · rfl
  · exact State.cohWrite_plan s _ _ _

@[simp] theorem State.ctxIrq_plan (c : Nat) : (s.ctxIrq c).plan = s.plan := State.sendMsix_plan s _ _ _

@[simp] theorem State.writeAdmit_plan (c slot : Nat) (status : Byte) (result : Nat) (irq : Bool) :
    (s.writeAdmit c slot status result irq).plan = s.plan := by
  simp [State.writeAdmit]

@[simp] theorem State.writeEnd_plan (c slot : Nat) (status : Byte) (irq : Bool) :
    (s.writeEnd c slot status irq).plan = s.plan := by
  simp [State.writeEnd]

@[simp] theorem State.writeBoth_plan (c slot : Nat) (adm fin : Byte) (result : Nat) (irqAdmit irqEnd : Bool) :
    (s.writeBoth c slot adm fin result irqAdmit irqEnd).plan = s.plan := by
  simp [State.writeBoth]

/-! ### Charges -/

theorem State.chargeSpan_plan (k : Nat) (c : Core) (l? : Option Launch) (now n : Nat) :
    (s.chargeSpan k c l? now n).plan = s.plan := by
  refine foldl_plan (fun t e => ?_) _ s
  refine foldl_plan (fun u x => ?_) _ t
  rfl

theorem State.chargeCore_plan (n k : Nat) : (s.chargeCore n k).plan = s.plan := by
  simp only [State.chargeCore]
  split
  · rfl
  · exact foldl_plan (fun t x => State.chargeSpan_plan t _ _ _ _ _) _ s

theorem State.endBusy_plan : s.endBusy.plan = s.plan := rfl

@[simp] theorem State.charge_plan (n : Nat) : (s.charge n).plan = s.plan := by
  simp only [State.charge]
  split
  · exact (State.endBusy_plan _).trans (foldl_plan (fun t k => State.chargeCore_plan t n k) _ s)
  · rfl

/-! ### The stopping of work -/

theorem State.dropEntries_plan (job : Nat) : (s.dropEntries job).plan = s.plan := by
  refine foldl_plan (fun t d => ?_) _ s
  simp

theorem State.countOverdraw_plan (w : Work) (charge : Nat) : (s.countOverdraw w charge).plan = s.plan := by
  simp [State.countOverdraw]

@[simp] theorem State.stopWork_plan (w : Work) : (s.stopWork w).plan = s.plan := by
  unfold State.stopWork
  split
  · refine (State.dropEntries_plan _ _).trans ((foldl_plan (fun t k => ?_) _ _).trans ?_)
    · split
      · refine (State.setCore_plan _ _ _).trans (foldl_plan (fun u e => ?_) _ t)
        rfl
      · rfl
    · split
      · rfl
      · exact State.countOverdraw_plan s w _
  · exact State.dropEntries_plan s w.id
  · rfl
  · rfl
  · rfl

theorem State.kUncommitted_plan (p g : Nat) (j : NarogJob) : (s.kUncommitted p g j).plan = s.plan := by
  simp only [State.kUncommitted, State.kAbandon]
  split
  · split <;> rfl
  · rfl

@[simp] theorem State.narogEnded_plan (w : Work) (j : NarogJob) : (s.narogEnded w j).plan = s.plan := by
  simp only [State.narogEnded]
  split
  · exact (State.kUncommitted_plan _ _ _ _).trans (State.raise_plan _ _ _ _)
  · rfl

@[simp] theorem State.overrun_plan (p c : Nat) (f : FrameNo) : (s.overrun p c f).plan = s.plan :=
  State.raiseAt_plan _ _ _ _ _

end

section
variable {s : State}

/-! ### The end of work -/

section
variable (s : State)

@[simp] theorem State.ringWrite_works (c slot off : Nat) (bs : List Byte) :
    (s.ringWrite c slot off bs).works = s.works := State.works_of_plan (State.ringWrite_plan s _ _ _ _)
@[simp] theorem State.ringWrite_fr (c slot off : Nat) (bs : List Byte) :
    (s.ringWrite c slot off bs).fr = s.fr := State.fr_of_plan (State.ringWrite_plan s _ _ _ _)
@[simp] theorem State.writeEnd_works (c slot : Nat) (status : Byte) (irq : Bool) :
    (s.writeEnd c slot status irq).works = s.works := State.works_of_plan (State.writeEnd_plan s _ _ _ _)
@[simp] theorem State.writeEnd_fr (c slot : Nat) (status : Byte) (irq : Bool) :
    (s.writeEnd c slot status irq).fr = s.fr := State.fr_of_plan (State.writeEnd_plan s _ _ _ _)
@[simp] theorem State.narogEnded_works (w : Work) (j : NarogJob) : (s.narogEnded w j).works = s.works :=
  State.works_of_plan (State.narogEnded_plan s w j)
@[simp] theorem State.narogEnded_fr (w : Work) (j : NarogJob) : (s.narogEnded w j).fr = s.fr :=
  State.fr_of_plan (State.narogEnded_plan s w j)
@[simp] theorem State.unreserve_works (c : Nat) (f : FrameNo) (n : Nat) : (s.unreserve c f n).works = s.works := rfl
@[simp] theorem State.unreserve_fr (c : Nat) (f : FrameNo) (n : Nat) : (s.unreserve c f n).fr = s.fr := rfl
@[simp] theorem State.dropWork_works (id : Nat) : (s.dropWork id).works = s.works.filter (·.id ≠ id) := rfl

/-- Work that ends leaves the list, and nothing enters it. -/
theorem State.endWork_works (w : Work) (status : Byte) :
    (s.endWork w status).works = s.works.filter (·.id ≠ w.id) := by
  simp only [State.endWork]
  (repeat' split) <;> simp

@[simp] theorem State.endWork_fr (w : Work) (status : Byte) : (s.endWork w status).fr = s.fr := by
  simp only [State.endWork]
  (repeat' split) <;> simp

end

/-- Work that ends one by one: what is left was there before, and is none of it. -/
theorem mem_foldl_works {g : State → Work → State} (hg : ∀ t w, (g t w).works = t.works.filter (·.id ≠ w.id))
    (ws : List Work) (s : State) (v : Work) :
    v ∈ (ws.foldl g s).works ↔ v ∈ s.works ∧ ∀ w ∈ ws, v.id ≠ w.id := by
  induction ws generalizing s with
  | nil => simp
  | cons w ws ih => simp [ih, hg, and_assoc]

/-- A fold of operations that each leave the frame leaves it. -/
theorem foldl_fr {α : Type} {f : State → α → State} (h : ∀ s a, (f s a).fr = s.fr) (l : List α) (s : State) :
    (l.foldl f s).fr = s.fr :=
  foldl_keeps (fun t : State => t.fr = s.fr) f (fun t a ht => (h t a).trans ht) l s rfl

/-! ### The frame that ends -/

/-- One piece of frame work that its tick stops (R96). -/
def State.cutWork (t : State) (w : Work) : State := (if w.running then t.stopWork w else t).endWork w stTick

theorem State.cutWork_works (t : State) (w : Work) : (t.cutWork w).works = t.works.filter (·.id ≠ w.id) := by
  rw [State.cutWork, State.endWork_works]
  split
  · rw [State.works_of_plan (State.stopWork_plan t w)]
  · rfl

theorem State.cutWork_fr (t : State) (w : Work) : (t.cutWork w).fr = t.fr := by
  rw [State.cutWork, State.endWork_fr]
  split
  · exact State.fr_of_plan (State.stopWork_plan t w)
  · rfl

/-- Frame work of frame f that is not complete when its tick comes (R96). -/
def State.cutList (s : State) (f : FrameNo) (done : Work → Bool) : List Work :=
  s.works.filter (fun w => w.frame = f && w.ctx.isSome && !(done w))

/-- Partition and context of each work that is stopped (R98). -/
def overrunOf (ws : List Work) : List (Nat × Nat) :=
  ((ws.filter (fun w => w.job.endStatus stTick = stTick)).filterMap (fun w => w.ctx.map (fun c => (w.part, c)))).dedup

theorem State.stopFrame_eq (s : State) (f : FrameNo) (done : Work → Bool) :
    s.stopFrame f done = (overrunOf (s.cutList f done)).foldl (fun t x => t.overrun x.1 x.2 f)
      ((s.cutList f done).foldl State.cutWork s) := rfl

theorem State.stopFrame_fr (s : State) (f : FrameNo) (done : Work → Bool) : (s.stopFrame f done).fr = s.fr := by
  rw [State.stopFrame_eq, State.fr_of_plan (foldl_plan (fun t x => State.overrun_plan t _ _ _) _ _)]
  exact foldl_fr State.cutWork_fr _ s

/-- Work that outlives the tick was complete, or belongs to another frame or to no context. -/
theorem State.mem_stopFrame_works {s : State} {f : FrameNo} {done : Work → Bool} {v : Work} :
    v ∈ (s.stopFrame f done).works ↔ v ∈ s.works ∧ ∀ w ∈ s.cutList f done, v.id ≠ w.id := by
  rw [State.stopFrame_eq, State.works_of_plan (foldl_plan (fun t x => State.overrun_plan t _ _ _) _ _)]
  exact mem_foldl_works State.cutWork_works _ s v

theorem State.mem_cutList {s : State} {f : FrameNo} {done : Work → Bool} {w : Work} :
    w ∈ s.cutList f done ↔ w ∈ s.works ∧ w.frame = f ∧ w.ctx ≠ none ∧ done w = false := by
  simp [State.cutList, Option.isSome_iff_ne_none, and_assoc]

/-- Frame work that survives the tick of its frame was complete (R96, R338). -/
theorem State.done_of_mem_stopFrame {s : State} {f : FrameNo} {done : Work → Bool} {v : Work}
    (h : v ∈ (s.stopFrame f done).works) (hf : v.frame = f) (hc : v.ctx ≠ none) : done v = true := by
  obtain ⟨hmem, hcut⟩ := State.mem_stopFrame_works.1 h
  by_contra hdone
  exact hcut v (State.mem_cutList.2 ⟨hmem, hf, hc, Bool.eq_false_iff.2 hdone⟩) rfl

/-! ### Skipped frame numbers -/

theorem State.cancelSkipped_fr (s : State) (f g : FrameNo) : (s.cancelSkipped f g).fr = s.fr :=
  foldl_fr (fun t w => State.endWork_fr t w _) _ s

theorem State.mem_works_of_cancelSkipped {s : State} {f g : FrameNo} {v : Work} (h : v ∈ (s.cancelSkipped f g).works) :
    v ∈ s.works :=
  ((mem_foldl_works (fun t w => State.endWork_works t w stCancelled) _ s v).1 h).1

/-- The next number skips none (R111). -/
theorem State.cancelSkipped_succ (s : State) (f : FrameNo) : s.cancelSkipped f (f + 1) = s := by
  have hnone : ∀ x : FrameNo, ¬(f.toNat < x.toNat ∧ x.toNat < (f + 1).toNat) := by
    intro x
    bv_omega
  rw [State.cancelSkipped, List.filter_eq_nil_iff.2 (fun w _ => ?_)]
  · rfl
  · simpa [and_assoc] using fun _ h => Nat.le_of_not_lt fun h' => hnone w.frame ⟨h, h'⟩

/-! ### The frame that opens -/

section
variable (s : State) (f : FrameNo)
theorem State.forgetFrame_fr : (s.forgetFrame f).fr = s.fr := rfl
theorem State.forgetFrame_regs : (s.forgetFrame f).regs = s.regs := rfl
theorem State.forgetFrame_works : (s.forgetFrame f).works = s.works := rfl
theorem State.forgetReadies_fr : (s.forgetReadies f).fr = s.fr := rfl
theorem State.forgetReadies_regs : (s.forgetReadies f).regs = s.regs := rfl
theorem State.forgetReadies_works : (s.forgetReadies f).works = s.works := rfl
theorem State.openWork_fr : (s.openWork f).fr = s.fr := rfl
theorem State.openWork_regs : (s.openWork f).regs = s.regs := rfl
end

/-- Work as the tick that opens its frame leaves it: nothing but that it may run now (R299, R355). -/
theorem State.mem_openWork {s : State} {g : FrameNo} {w : Work} (h : w ∈ (s.openWork g).works) :
    ∃ v ∈ s.works, w = { v with running := w.running } ∧ (v.running = true → w.running = true) := by
  obtain ⟨v, hv, rfl⟩ := List.mem_map.1 h
  refine ⟨v, hv, ?_⟩
  split
  · exact ⟨rfl, id⟩
  · split <;> simp
  · split <;> simp
  · exact ⟨rfl, id⟩
  · exact ⟨rfl, id⟩

theorem State.sendMarker_eq (s : State) (ps : List Nat) (m : Marker) :
    ∃ x, s.sendMarker ps m = { s with ports := x } := by
  refine foldl_keeps (fun t : State => ∃ x, t = { s with ports := x }) _ (fun t p h => ?_) ps s ⟨_, rfl⟩
  obtain ⟨x, rfl⟩ := h
  exact ⟨_, rfl⟩

/-- The snapshot that the RNG of a partition latches (R481). -/
def State.snapOf (s : State) (p : Nat) (k : KPart) : RngSnap :=
  { seed := k.seed, mode := bit (s.cfg .rng p 0x100) 0, cursor := k.cursor, pos := k.pos
    rate := (List.range 4).map (fun i => s.cfg .rng p (0x110 + 4 * i)) }

/-- The RNG of one partition at the tick that opens frame g (R481). -/
def State.latchSnap (s : State) (g : FrameNo) (t : State) (p : Nat) : State :=
  if s.kindOf p g = .update then t.setKpart p { t.kpart p with snap := s.snapOf p (t.kpart p) } else t

theorem State.latchSnaps_eq_foldl (s : State) (g : FrameNo) :
    s.latchSnaps g = (List.range 32).foldl (s.latchSnap g) s := rfl

theorem State.latchSnap_eq (s t : State) (g : FrameNo) (p : Nat) : ∃ x, s.latchSnap g t p = { t with kparts := x } := by
  rw [State.latchSnap]
  split <;> exact ⟨_, rfl⟩

theorem State.latchSnaps_eq (s : State) (g : FrameNo) : ∃ x, s.latchSnaps g = { s with kparts := x } := by
  rw [State.latchSnaps_eq_foldl]
  refine foldl_keeps (fun t : State => ∃ x, t = { s with kparts := x }) _ (fun t p h => ?_) _ s ⟨_, rfl⟩
  obtain ⟨x, rfl⟩ := h
  obtain ⟨y, hy⟩ := State.latchSnap_eq s { s with kparts := x } g p
  exact ⟨y, hy⟩

/-- The snapshot of a partition's RNG is that of its own state. -/
def State.Snapped (s t : State) (p : Nat) : Prop := (t.kpart p).snap = s.snapOf p (t.kpart p)

theorem State.snapped_latchSnap_same (t : State) {g : FrameNo} {p : Nat} (h : s.kindOf p g = .update) :
    s.Snapped (s.latchSnap g t p) p := by
  rw [State.Snapped, State.latchSnap, if_pos h, State.kpart_setKpart_same]
  rfl

/-- A later partition's latch leaves a snapshot that is taken. -/
theorem State.Snapped.latchSnap {t : State} {p : Nat} (h : s.Snapped t p) (g : FrameNo) (q : Nat) :
    s.Snapped (s.latchSnap g t q) p := by
  by_cases hq : q = p
  · subst hq
    by_cases hk : s.kindOf q g = .update
    · exact State.snapped_latchSnap_same t hk
    · rwa [State.latchSnap, if_neg hk]
  · rw [State.Snapped, State.latchSnap]
    split
    · rwa [State.kpart_setKpart, if_neg hq]
    · exact h

theorem State.snapped_foldl_latchSnap {g : FrameNo} {p : Nat} (hk : s.kindOf p g = .update) (l : List Nat) (hp : p ∈ l)
    (t : State) : s.Snapped (l.foldl (s.latchSnap g) t) p := by
  induction l generalizing t with
  | nil => simp at hp
  | cons q l ih =>
    rcases List.mem_cons.1 hp with rfl | hp
    · exact foldl_keeps (s.Snapped · p) _ (fun u q h => h.latchSnap g q) l _ (State.snapped_latchSnap_same t hk)
    · exact ih hp _

/-- Every partition whose update frame opens has its snapshot (R481). -/
theorem State.snapped_latchSnaps {g : FrameNo} {p : Nat} (hk : s.kindOf p g = .update) (hp : p < 32) :
    s.Snapped (s.latchSnaps g) p := by
  rw [State.latchSnaps_eq_foldl]
  exact State.snapped_foldl_latchSnap hk _ (List.mem_range.2 hp) s

/-! ### The tick -/

/-- The module once the frame that ends is closed and the next one's work runs. -/
def State.opened (s : State) : State :=
  (((s.turnFrame s.fr.no s.nextFrame).forgetFrame s.fr.no).forgetReadies s.fr.no).openWork s.nextFrame

/-- After that the tick writes snapshots and sends markers, and nothing else. -/
theorem State.doTick_eq_latchSnaps (s : State) :
    ∃ x, s.doTick = { s.opened.latchSnaps s.nextFrame with ports := x } := by
  simp only [State.doTick]
  split
  · exact State.sendMarker_eq _ _ _
  · exact ⟨_, rfl⟩

theorem State.doTick_eq (s : State) : ∃ y x, s.doTick = { s.opened with kparts := y, ports := x } := by
  obtain ⟨x, hx⟩ := State.doTick_eq_latchSnaps s
  obtain ⟨y, hy⟩ := State.latchSnaps_eq s.opened s.nextFrame
  exact ⟨y, x, by rw [hx, hy]⟩

theorem State.opened_fr (s : State) : s.opened.fr = (s.turnFrame s.fr.no s.nextFrame).fr := by
  rw [State.opened, State.openWork_fr, State.forgetReadies_fr, State.forgetFrame_fr]

theorem State.opened_regs (s : State) : s.opened.regs = (s.turnFrame s.fr.no s.nextFrame).regs := by
  rw [State.opened, State.openWork_regs, State.forgetReadies_regs, State.forgetFrame_regs]

theorem State.mem_opened_works {w : Work} (h : w ∈ s.opened.works) :
    ∃ v ∈ (s.turnFrame s.fr.no s.nextFrame).works, w = { v with running := w.running } ∧
      (v.running = true → w.running = true) := by
  obtain ⟨v, hv, hw⟩ := State.mem_openWork h
  rw [State.forgetReadies_works, State.forgetFrame_works] at hv
  exact ⟨v, hv, hw⟩

theorem execTick_of_ready (h : s.ready = true) : exec .tick s = .next s.doTick :=
  congrArg Host.Outcome.next (if_pos h)

/-- The module at the end of the frame: its arrays and its work are taken as far as they come, and the closes of the
frame's step are in motion. -/
def State.frameEnd (s : State) : State :=
  ((((s.toCycle (s.frameLen - 1)).lastStarts s.fr.no).toCycle s.frameLen).finishFrame s.fr.no).closeSteps s.fr.no

/-- The same in the first cycle of the next frame. -/
def State.frameBegin (s : State) : State := { s.frameEnd with fr := s.fr.tick s.isFollower s.nextFrame }

theorem State.turnFrame_eq (s : State) : s.turnFrame s.fr.no s.nextFrame =
    (s.frameBegin.stopFrame s.fr.no s.frameEnd.lastAccepted).cancelSkipped s.fr.no s.nextFrame := rfl

theorem State.turnFrame_fr (s : State) :
    (s.turnFrame s.fr.no s.nextFrame).fr = s.fr.tick s.isFollower s.nextFrame := by
  rw [State.turnFrame_eq, State.cancelSkipped_fr, State.stopFrame_fr]
  rfl

/-- The frame after the tick (R85, R109, R113). -/
theorem State.doTick_fr (s : State) : s.doTick.fr = s.fr.tick s.isFollower s.nextFrame := by
  obtain ⟨y, x, h⟩ := State.doTick_eq s
  simp only [h, State.opened_fr, State.turnFrame_fr]

theorem State.doTick_regs (s : State) : s.doTick.regs = (s.turnFrame s.fr.no s.nextFrame).regs := by
  obtain ⟨y, x, h⟩ := State.doTick_eq s
  simp only [h, State.opened_regs]

/-- Admitted work after the tick was there when its frame had ended. -/
theorem State.mem_doTick_works {w : Work} (h : w ∈ s.doTick.works) :
    ∃ v ∈ (s.frameBegin.stopFrame s.fr.no s.frameEnd.lastAccepted).works,
      w = { v with running := w.running } ∧ (v.running = true → w.running = true) := by
  obtain ⟨y, x, hs⟩ := State.doTick_eq s
  simp only [hs] at h
  obtain ⟨v, hv, hw⟩ := State.mem_opened_works h
  rw [State.turnFrame_eq] at hv
  exact ⟨v, State.mem_works_of_cancelSkipped hv, hw⟩

/-- What it takes to outlive the tick of one's frame, by what the work is (R96, R338). -/
theorem State.job_of_lastAccepted {t : State} {v : Work} (h : t.lastAccepted v = true) :
    (∃ j, v.job = .dma j ∧ v.running = true ∧ j.pieces ≤ j.next) ∨ (∃ j, v.job = .narog j ∧ j.result ≠ 7) ∨
      ∃ j, v.job = .coll j := by
  cases hj : v.job with
  | launch l => simp [State.lastAccepted, hj] at h
  | sort j => simp [State.lastAccepted, hj] at h
  | dma j => exact .inl ⟨j, rfl, by simp_all [State.lastAccepted]⟩
  | narog j => exact .inr (.inl ⟨j, rfl, by simp_all [State.lastAccepted]⟩)
  | coll j => exact .inr (.inr ⟨j, rfl⟩)

/-! ### Snapshots after the tick (R481) -/

section
variable (t : State) (x : Tab Port) (g : FrameNo) (p : Nat)

theorem State.kindOf_withPorts (f : FrameNo) : State.kindOf { t with ports := x } p f = t.kindOf p f := rfl
theorem State.kpart_withPorts : State.kpart { t with ports := x } p = t.kpart p := rfl
theorem State.snapOf_withPorts (k : KPart) : State.snapOf { t with ports := x } p k = t.snapOf p k := rfl

theorem State.kindOf_latchSnaps (f : FrameNo) : (t.latchSnaps g).kindOf p f = t.kindOf p f := by
  obtain ⟨y, hy⟩ := State.latchSnaps_eq t g
  rw [hy]
  rfl

theorem State.snapOf_latchSnaps (k : KPart) : (t.latchSnaps g).snapOf p k = t.snapOf p k := by
  obtain ⟨y, hy⟩ := State.latchSnaps_eq t g
  rw [hy]
  rfl

end

theorem State.snapped_doTick {p : Nat} (hp : p < 32) (hk : s.doTick.kindOf p s.nextFrame = .update) :
    s.doTick.Snapped s.doTick p := by
  obtain ⟨x, hx⟩ := State.doTick_eq_latchSnaps s
  rw [hx, State.kindOf_withPorts, State.kindOf_latchSnaps] at hk
  rw [State.Snapped, hx, State.kpart_withPorts, State.snapOf_withPorts, State.snapOf_latchSnaps]
  exact State.snapped_latchSnaps hk hp

/-! ### FRAME_OVERRUN (R98) -/

/-- FRAME_OVERRUN of frame f is recorded for a partition and a context. -/
def State.Overran (t : State) (p c : Nat) (f : FrameNo) : Prop :=
  bit (t.sq .ctxtab c 0x800) 19 = true ∧ (t.source (srcKey .puppeteer p)).lastCode = 0x1001 ∧
    (t.source (srcKey .puppeteer p)).lastFrame = f

theorem bit_or_flag_same (v : Word) (i : Nat) (hi : i < 32) : bit (v ||| flag true i) i = true := by
  simp only [bit, flag, place, if_true, BitVec.getLsbD_or, BitVec.getLsbD_ofNat, hi, decide_true, one_mul,
    Nat.testBit_two_pow_self, Bool.and_self, Bool.or_true]

theorem bit_or_of_bit {v : Word} {i : Nat} (h : bit v i = true) (w : Word) : bit (v ||| w) i = true := by
  simp only [bit, BitVec.getLsbD_or] at h ⊢
  rw [h, Bool.true_or]

/-- The status registers after an event are those before it. -/
theorem State.sq_raiseAt (t : State) (b b' : Block) (i i' off : Nat) (code : BitVec 16) (f : FrameNo) :
    (t.raiseAt b i code f).sq b' i' off = t.sq b' i' off := by
  obtain ⟨p, o, h⟩ := State.raiseAt_eq t b i code f
  rw [h]
  rfl

theorem State.source_raiseAt (t : State) (b : Block) (i k : Nat) (code : BitVec 16) (f : FrameNo) :
    (t.raiseAt b i code f).source k =
      if srcKey b i = k then (t.source (srcKey b i)).record code f else t.source k := by
  obtain ⟨p, o, h⟩ := State.raiseAt_eq t b i code f
  rw [h]
  exact State.source_setSource t _ k _

theorem State.source_overrun (t : State) (p c : Nat) (f : FrameNo) (k : Nat) :
    (t.overrun p c f).source k =
      if srcKey .puppeteer p = k then (t.source (srcKey .puppeteer p)).record 0x1001 f else t.source k :=
  State.source_raiseAt _ _ _ _ _ _

theorem State.sq_addCount (t : State) (b b' : Block) (i i' off off' n : Nat) :
    (t.addCount b i off n).sq b' i' off' = t.sq b' i' off' := rfl

theorem State.sq_overrun (t : State) (p c d : Nat) (f : FrameNo) :
    (t.overrun p c f).sq .ctxtab d 0x800 =
      if regKey .ctxtab c 0x800 = regKey .ctxtab d 0x800 then t.sq .ctxtab d 0x800 ||| flag true 19
      else t.sq .ctxtab d 0x800 := by
  have hkey : regKey .puppeteer p 0x804 ≠ regKey .ctxtab d 0x800 := by unfold regKey; omega
  have hlast : ((t.latchLast .puppeteer p 0x804 23 (place c 0)).addCount .puppeteer p 0x808 1).sq .ctxtab d 0x800 =
      t.sq .ctxtab d 0x800 := by
    rw [State.sq_addCount, State.latchLast, State.sq_latch_ne t _ hkey]
  rw [State.overrun, State.sq_raiseAt]
  split
  next h =>
    obtain rfl : c = d := by unfold regKey at h; omega
    rw [State.sq_latch_same, hlast]
  next h => rw [State.sq_latch_ne _ _ h, hlast]

theorem State.overran_overrun (t : State) (p c : Nat) (f : FrameNo) : (t.overrun p c f).Overran p c f := by
  rw [State.Overran, State.sq_overrun, State.source_overrun, if_pos rfl, if_pos rfl]
  exact ⟨bit_or_flag_same _ 19 (by decide), rfl, rfl⟩

/-- A further overrun of the frame leaves one that is recorded: at the same source it records the same. -/
theorem State.Overran.overrun {t : State} {p c : Nat} {f : FrameNo} (h : t.Overran p c f) (q d : Nat) :
    (t.overrun q d f).Overran p c f := by
  obtain ⟨hbit, hcode, hframe⟩ := h
  rw [State.Overran, State.sq_overrun, State.source_overrun]
  refine ⟨?_, ?_⟩
  · split
    · exact bit_or_of_bit hbit _
    · exact hbit
  · split
    · exact ⟨rfl, rfl⟩
    · exact ⟨hcode, hframe⟩

theorem State.overran_foldl_overrun {p c : Nat} (f : FrameNo) {xs : List (Nat × Nat)} (h : (p, c) ∈ xs) (t : State) :
    (xs.foldl (fun t x => t.overrun x.1 x.2 f) t).Overran p c f := by
  induction xs generalizing t with
  | nil => simp at h
  | cons x xs ih =>
    rcases List.mem_cons.1 h with rfl | h
    · exact foldl_keeps (fun u : State => u.Overran p c f) (fun (u : State) (x : Nat × Nat) => u.overrun x.1 x.2 f)
        (fun u x hu => State.Overran.overrun hu x.1 x.2) xs (t.overrun p c f) (State.overran_overrun t p c f)
    · exact ih h _

theorem mem_overrunOf {ws : List Work} {w : Work} {c : Nat} (hw : w ∈ ws) (hc : w.ctx = some c)
    (hl : w.launch?.isSome = true) : (w.part, c) ∈ overrunOf ws := by
  have hend : w.job.endStatus stTick = stTick := by
    cases hj : w.job <;> simp [Work.launch?, hj] at hl
    rfl
  refine List.mem_dedup.2 (List.mem_filterMap.2 ⟨w, List.mem_filter.2 ⟨hw, decide_eq_true hend⟩, ?_⟩)
  rw [hc]
  rfl

/-! ### A frame of which nothing runs -/

/-- Nothing of frame f has started. -/
def State.Unstarted (s : State) (f : FrameNo) : Prop :=
  ∀ v ∈ s.works, v.frame = f → v.ctx ≠ none → v.running = false

theorem State.frameWork_of_unstarted {f : FrameNo} (h : s.Unstarted f) : s.frameWork f = [] := by
  refine List.filter_eq_nil_iff.2 fun v hv => ?_
  simpa [Option.isSome_iff_ne_none] using h v hv

theorem State.toCycle_works (s : State) (n : Nat) : (s.toCycle n).works = s.works := by
  simp only [State.toCycle]
  split
  next =>
    have h := State.works_of_plan (State.charge_plan s (n - s.fr.cycle))
    simpa only using h
  next => rfl

theorem State.Unstarted.toCycle {f : FrameNo} (h : s.Unstarted f) (n : Nat) : (s.toCycle n).Unstarted f := by
  rwa [State.Unstarted, State.toCycle_works]

theorem State.lastStarts_of_unstarted {f : FrameNo} (h : s.Unstarted f) : s.lastStarts f = s := by
  rw [State.lastStarts, State.frameWork_of_unstarted h]
  rfl

theorem State.finishFrame_of_unstarted {f : FrameNo} (h : s.Unstarted f) : s.finishFrame f = s := by
  rw [State.finishFrame, State.frameWork_of_unstarted h]
  rfl

theorem State.newLive_plan (s : State) (p : Nat) : (s.newLive p).plan = s.plan := by
  refine foldl_plan (fun t e => ?_) _ s
  rfl

theorem State.closeSteps_plan (s : State) (f : FrameNo) : (s.closeSteps f).plan = s.plan := by
  refine foldl_plan (fun t p => ?_) _ s
  dsimp only
  split
  · exact State.newLive_plan _ p
  · split
    · rfl
    · exact State.newLive_plan _ p

theorem State.frameEnd_works (h : s.Unstarted s.fr.no) : s.frameEnd.works = s.works := by
  rw [State.frameEnd, State.works_of_plan (State.closeSteps_plan _ _), State.lastStarts_of_unstarted (h.toCycle _),
    State.finishFrame_of_unstarted ((h.toCycle _).toCycle _), State.toCycle_works, State.toCycle_works]

theorem State.lastAccepted_of_launch (t : State) {w : Work} (h : w.launch?.isSome = true) :
    t.lastAccepted w = false := by
  cases hj : w.job <;> simp [Work.launch?, hj] at h
  rw [State.lastAccepted, hj]

/-- A launch that its frame leaves unstarted is among what its tick stops (R96). -/
theorem State.mem_cutList_of_unstarted (h : s.Unstarted s.fr.no) {w : Work} (hw : w ∈ s.works) (hf : w.frame = s.fr.no)
    (hc : w.ctx ≠ none) (hl : w.launch?.isSome = true) :
    w ∈ s.frameBegin.cutList s.fr.no s.frameEnd.lastAccepted := by
  refine State.mem_cutList.2 ⟨?_, hf, hc, State.lastAccepted_of_launch _ hl⟩
  have hworks : s.frameBegin.works = s.frameEnd.works := rfl
  rwa [hworks, State.frameEnd_works h]

/-- The tick to the number that follows skips none. -/
theorem State.turnFrame_regs (h : s.fr.nextNo = none) : (s.turnFrame s.fr.no s.nextFrame).regs =
    (s.frameBegin.stopFrame s.fr.no s.frameEnd.lastAccepted).regs := by
  have hnext : s.nextFrame = s.fr.no + 1 := by rw [State.nextFrame, h]; rfl
  rw [State.turnFrame_eq, hnext, State.cancelSkipped_succ]

theorem State.Overran.congr_regs {t u : State} {p c : Nat} {f : FrameNo} (h : u.Overran p c f) (e : t.regs = u.regs) :
    t.Overran p c f := by
  simpa only [State.Overran, State.sq, State.source, e] using h

/-! ### Cycles of the frame (R86, R104) -/

/-- A frame that reaches a cycle changes nothing of itself but its cycle. -/
theorem State.toCycle_fr (s : State) (n : Nat) : (s.toCycle n).fr = { s.fr with cycle := max s.fr.cycle n } := by
  simp only [State.toCycle]
  split
  next hlt => simp only [State.fr_of_plan (State.charge_plan s _), Nat.max_eq_right hlt.le]
  next hge => rw [Nat.max_eq_left (Nat.not_lt.1 hge)]

/-! ### Markers (R108, R109) -/

section
variable (fr : FrameState) (err : Int) (f : FrameNo) (m : Marker)

theorem FrameState.adopt_eq : ∃ x, fr.adopt m = { fr with pend := x } := by
  simp only [FrameState.adopt]
  split <;> exact ⟨_, rfl⟩

/-- The slew of R109, in the frame whose length it changes. -/
theorem FrameState.slew_adj : (if fr.closed = true then (fr.slew err).adjNext else (fr.slew err).adj) =
    clampInt (-(fr.period / 1024 : Nat)) (fr.period / 1024 : Nat) (errCycles err) := by
  simp only [FrameState.slew]
  split <;> rfl

theorem FrameState.slew_no : (fr.slew err).no = fr.no := by
  simp only [FrameState.slew]
  split <;> rfl

/-- A step comes too late for the frame in progress (R109; log 32). -/
def FrameState.Late : Prop := fr.closed = true ∨ (fr.period : Int) + errCycles err < fr.cycle + 2048

theorem FrameState.step_of_late (h : fr.Late err) :
    fr.step err f = { fr with adjNext := errCycles err, afterNo := some f } := by
  simp only [FrameState.step]
  exact if_pos (by simpa [FrameState.Late] using h)

theorem FrameState.step_of_not_late (h : ¬fr.Late err) :
    fr.step err f = { fr with adj := errCycles err, nextNo := some f } := by
  simp only [FrameState.step]
  exact if_neg (by simpa [FrameState.Late] using h)

theorem FrameState.step_no : (fr.step err f).no = fr.no := by
  simp only [FrameState.step]
  split <;> rfl

end

theorem State.markerSteps_iff {m : Marker} {err : Int} :
    s.markerSteps m err = true ↔ m.frame ≠ s.fr.no ∨ 16000 < err.natAbs := by
  simp [State.markerSteps]

/-- The frame as an accepted marker corrects it (R109). -/
def State.corrected (s : State) (m : Marker) (err : Int) : FrameState :=
  if s.markerSteps m err then s.fr.step err m.frame else s.fr.slew err

/-- Beside the correction an accepted marker changes what is pending and what is known of markers. -/
theorem State.markerFrame_eq (s : State) (port : Nat) (m : Marker) (err : Int) :
    ∃ x, s.markerFrame port m err = { s.corrected m err with
      pend := x, lastMarker := some m.frame, marked := m.frame :: (s.corrected m err).marked, gotMarker := true
      missed := 0, free := false, lastErr := lastErrOf err, port := port, hops := m.hops, sourceId := m.source } := by
  obtain ⟨x, hx⟩ := FrameState.adopt_eq (s.corrected m err) m
  refine ⟨x, ?_⟩
  simp only [State.markerFrame]
  rw [← State.corrected, hx]

theorem State.corrected_no (s : State) (m : Marker) (err : Int) : (s.corrected m err).no = s.fr.no := by
  rw [State.corrected]
  split
  · exact FrameState.step_no _ _ _
  · exact FrameState.slew_no _ _

/-- A marker sent on some ports reaches the queues of those ports alone (R108). -/
theorem State.port_sendMarker (m : Marker) {ps : List Nat} (h : ps.Nodup) (s : State) (q : Nat) :
    ((s.sendMarker ps m).port q).markers = (s.port q).markers ++ (if q ∈ ps then [m] else []) := by
  induction ps generalizing s with
  | nil => simp [State.sendMarker]
  | cons p ps ih =>
    obtain ⟨hp, hps⟩ := List.nodup_cons.1 h
    have hcons : s.sendMarker (p :: ps) m =
        (s.setPort p { s.port p with markers := (s.port p).markers ++ [m] }).sendMarker ps m := rfl
    rw [hcons, ih hps, State.port_setPort]
    by_cases hq : p = q
    · subst hq; simp [hp]
    · simp [hq, Ne.symm hq]

/-- The module once it has taken an accepted marker in, before it sends it on (R109). -/
def State.aligned (s : State) (port : Nat) (m : Marker) (err : Int) : State :=
  let t : State := { s with fr := s.markerFrame port m err }
  if s.markerSteps m err then t.latch .strings 0 0x800 (· ||| flag true 21) else t

theorem State.aligned_fr (s : State) (port : Nat) (m : Marker) (err : Int) :
    (s.aligned port m err).fr = s.markerFrame port m err := by
  simp only [State.aligned]
  split <;> rfl

theorem State.aligned_ports (s : State) (port : Nat) (m : Marker) (err : Int) :
    (s.aligned port m err).ports = s.ports := by
  simp only [State.aligned]
  split <;> rfl

theorem State.port_congr {s t : State} (h : t.ports = s.ports) (q : Nat) : t.port q = s.port q := by
  rw [State.port, h, State.port]

theorem State.upPorts_congr {s t : State} (h : t.ports = s.ports) : t.upPorts = s.upPorts := by
  simp only [State.upPorts, State.port_congr h]

theorem State.sq_aligned_of_steps {m : Marker} {err : Int} (h : s.markerSteps m err = true) (port : Nat) :
    bit ((s.aligned port m err).sq .strings 0 0x800) 21 = true := by
  simp only [State.aligned, if_pos h, State.sq_latch_same]
  exact bit_or_flag_same _ 21 (by decide)

theorem State.takeMarker_eq (s : State) (p : Nat) (m : Marker) (res : Nat) :
    s.takeMarker p m res = (s.aligned p m (s.markerErr m (s.port p).delay)).sendMarker (s.upPorts.filter (· ≠ p))
      (Marker.forward m (s.port p).delay res) := by
  rw [← State.upPorts_congr (State.aligned_ports s p m (s.markerErr m (s.port p).delay))]
  rfl

theorem State.upPorts_nodup (s : State) : s.upPorts.Nodup := List.nodup_range.filter _

theorem State.sendMarker_fr (s : State) (ps : List Nat) (m : Marker) : (s.sendMarker ps m).fr = s.fr := by
  obtain ⟨x, h⟩ := State.sendMarker_eq s ps m
  rw [h]

theorem State.sq_sendMarker (s : State) (ps : List Nat) (m : Marker) (b : Block) (i off : Nat) :
    (s.sendMarker ps m).sq b i off = s.sq b i off := by
  obtain ⟨x, h⟩ := State.sendMarker_eq s ps m
  rw [h]
  rfl

/-- The frame after an accepted marker. -/
theorem State.takeMarker_fr (s : State) (p : Nat) (m : Marker) (res : Nat) :
    (s.takeMarker p m res).fr = s.markerFrame p m (s.markerErr m (s.port p).delay) := by
  rw [State.takeMarker_eq, State.sendMarker_fr, State.aligned_fr]

/-- Where an accepted marker goes (R108). -/
theorem State.takeMarker_markers (s : State) (p : Nat) (m : Marker) (res q : Nat) :
    ((s.takeMarker p m res).port q).markers = (s.port q).markers ++
      (if q ∈ s.upPorts ∧ q ≠ p then [Marker.forward m (s.port p).delay res] else []) := by
  rw [State.takeMarker_eq, State.port_sendMarker _ ((State.upPorts_nodup s).filter _),
    State.port_congr (State.aligned_ports _ _ _ _)]
  simp [List.mem_filter]

theorem State.isMaster_of_tookOver (hr : s.role = 3) (ht : s.fr.tookOver = true) : s.isMaster = true := by
  rw [State.isMaster, hr, ht]
  rfl

theorem execMarkerReceive_of_accepts {p : PortId} {m : Marker} {res : Nat} (h : s.acceptsMarker p.val m = true) :
    exec (.markerReceive p m res) s = .next (s.takeMarker p.val m res) :=
  congrArg Host.Outcome.next (if_pos h)

/-! ### Items of STRINGS and PUPPETEER (R113 to R115) -/

theorem State.applyFrame_of_near {f : Nat} (h : f < s.fr.no.toNat + 4) : s.applyFrame f = itemBad s := if_pos h

/-- The pair that a WRITE of APPLY_FRAME puts in wait (R113). -/
theorem State.applyFrame_of_far {f : Nat} (h : s.fr.no.toNat + 4 ≤ f) (hf : s.isFollower = false ∨ s.fr.free = true) :
    s.applyFrame f = itemDone { s with fr := { s.fr with
      pend := some (BitVec.ofNat 64 f, field (s.cfg .strings 0 0x100) 26 0) } } := by
  rw [State.applyFrame, if_neg (Nat.not_lt.2 h), if_neg]
  rcases hf with hf | hf <;> simp [hf]

/-- A follower that hears a master takes no period of its own (R113). -/
theorem State.applyFrame_of_follower {f : Nat} (h : s.fr.no.toNat + 4 ≤ f) (hf : s.isFollower = true)
    (hfree : s.fr.free = false) : s.applyFrame f = itemDone s := by
  rw [State.applyFrame, if_neg (Nat.not_lt.2 h), if_pos]
  rw [hf, hfree]
  rfl

/-- The module once FRAME_SET has named the number that the next tick opens (R111). -/
def State.renumbered (s : State) (f : FrameNo) : State :=
  State.latch { s with fr := { s.fr with nextNo := some f } } .strings 0 0x800 (· ||| flag true 21)

theorem State.sq_renumbered (s : State) (f : FrameNo) : bit ((s.renumbered f).sq .strings 0 0x800) 21 = true := by
  rw [State.renumbered, State.sq_latch_same]
  exact bit_or_flag_same _ 21 (by decide)

theorem State.sq_mbxBegin (s : State) (r : MbxReq) (b b' : Block) (item i off : Nat) (e : BitVec 2) (ws : List Word) :
    (s.mbxBegin r b item e ws).sq b' i off = s.sq b' i off := rfl

theorem State.stepOf_eq (s : State) (k : Nat) (f : FrameNo) : s.stepOf k f =
    if s.stepMode k = true ∧ (s.part k).stepBase.toNat ≤ f.toNat then
      (f.toNat - (s.part k).stepBase.toNat) / (s.fbFrames k + 3) else 0 := by
  simp only [State.stepOf]
  by_cases hm : s.stepMode k = true
  · by_cases hb : (s.part k).stepBase.toNat ≤ f.toNat
    · rw [if_neg (by simp [hm, hb]), if_pos ⟨hm, hb⟩]
    · rw [if_pos (by simp [Nat.lt_of_not_le hb]), if_neg (fun h => hb h.2)]
  · rw [if_pos (by simp [hm]), if_neg (fun h => hm h.1)]

/-! ### Commands that leave their slot (R88, R139, R146) -/

section
variable (s : State) (c : Nat)

/-- HEAD moves past the slot, and the context holds no command (R139). -/
theorem State.consume_ctx : (s.consume c).ctx c =
    { s.ctx c with head := ((s.ctx c).head + 1) % (s.ctx c).slots, fetched := none } := by
  rw [State.consume, State.ctx_of_plan (State.cohWrite_plan _ _ _ _), State.ctx_setCtx_same]

theorem State.consume_works : (s.consume c).works = s.works := by
  rw [State.consume, State.works_of_plan (State.cohWrite_plan _ _ _ _), State.setCtx_works]

theorem State.consume_nextWork : (s.consume c).nextWork = s.nextWork := by
  rw [State.consume, State.nextWork_of_plan (State.cohWrite_plan _ _ _ _), State.setCtx_nextWork]

/-- A command that leaves its slot after its record is written. -/
theorem State.turnsAway_consume {s t : State} {c : Nat} (h : t.plan = s.plan) : s.turnsAway (t.consume c) c := by
  have hctx := State.ctx_of_plan h c
  refine ⟨?_, ?_, ?_⟩
  · rw [State.consume_works, State.works_of_plan h]
  · rw [State.consume_ctx, hctx]
  · rw [State.consume_ctx]

/-- A refused command admits nothing (R146). -/
theorem State.turnsAway_refuse (h : Word) (status : Byte) : s.turnsAway (s.refuse c h status) c := by
  simp only [State.refuse]
  split
  · exact State.turnsAway_consume (by simp)
  · exact State.turnsAway_consume (by simp)

/-- The work that an accepted command admits (R88). -/
def State.admitted (s : State) (c : Nat) (h : Word) (f units : Nat) (running : Bool) (j : Job) : Work :=
  { id := s.nextWork, ctx := some c, part := s.partOf c, frame := BitVec.ofNat 64 f, slot := (s.ctx c).head
    irqEnd := hdrIrqEnd h, running := running, units := units, job := j }

variable (h : Word) (f units : Nat) (running : Bool) (j : Job)

theorem State.accept_works :
    (s.accept c h f units running j).works = s.works ++ [s.admitted c h f units running j] := by
  rw [State.accept, State.consume_works, State.works_of_plan (State.writeAdmit_plan _ _ _ _ _ _)]
  rfl

theorem State.accept_nextWork : (s.accept c h f units running j).nextWork = s.nextWork + 1 := by
  rw [State.accept, State.consume_nextWork, State.nextWork_of_plan (State.writeAdmit_plan _ _ _ _ _ _)]
  rfl

/-- The context of an accepted command: HEAD moves, and the units are reserved in the frame (R89). -/
theorem State.accept_ctx : (s.accept c h f units running j).ctx c = { s.ctx c with
    head := ((s.ctx c).head + 1) % (s.ctx c).slots, fetched := none
    resv := Tab.set 0 (s.ctx c).resv f (Tab.get 0 (s.ctx c).resv f + units) } := by
  rw [State.accept, State.consume_ctx, State.ctx_of_plan (State.writeAdmit_plan _ _ _ _ _ _), State.ctx_setCtx_same]
  rfl

end

/-- A slot with the opcode of a command runs that command. -/
theorem State.onCommand_of {c op : Nat} {x : Fetched} (hx : s.command c = some x) (ho : opcodeOf x.slot = op)
    (f : List Byte → State) : s.onCommand c op f = f x.slot := by
  rw [State.onCommand, hx]
  exact if_pos ho

theorem execLaunch_of {c : CtxId} {x : Fetched} (hx : s.command c.val = some x) (ho : opcodeOf x.slot = 0x01) :
    exec (.launch c) s = .next (s.doLaunch c.val x.slot) :=
  congrArg Host.Outcome.next (State.onCommand_of hx ho _)

theorem State.doLaunch_of_accepted {c f : Nat} {slot : List Byte} (h : s.launchOutcome c slot = (0, f)) :
    s.doLaunch c slot = s.accept c (hdrOf slot) f (unitsOf (leAt slot 36 2) (leAt slot 4 4)) false
      (.launch (launchOf slot (s.grantedCores (s.partOf c)))) := by
  unfold State.doLaunch
  rw [h]
  exact if_pos rfl

theorem State.doLaunch_of_refused {c f : Nat} {k : Byte} {slot : List Byte} (h : s.launchOutcome c slot = (k, f))
    (hk : k ≠ 0) : s.doLaunch c slot = (s.addCount .puppeteer (s.partOf c) 0x80C 1).refuse c (hdrOf slot) k := by
  unfold State.doLaunch
  rw [h]
  exact if_neg hk

/-! ### Commands charged to no budget (R91, R92, R95) -/

/-- An accepted command without a budget (R88, R95). -/
theorem State.takesIn_accept (s : State) (c : Nat) (slot : List Byte) (f : Nat) (running : Bool) (j : Job) :
    s.takesIn (s.accept c (hdrOf slot) f 0 running j) c slot f running j := by
  refine ⟨?_, State.accept_nextWork s c _ f 0 running j, ?_, ?_⟩
  · rw [State.accept_works]
    rfl
  · rw [State.accept_ctx]
  · rw [State.accept_ctx]

/-- What admission does with a command, by the outcome `k` of its checks and the frame `f` they give. -/
abbrev State.Admits (s t : State) (c : Nat) (slot : List Byte) (k f : Nat) (running : Bool) (j : Job) : Prop :=
  (k ≠ 0 → s.turnsAway t c) ∧ (k = 0 → s.takesIn t c slot f running j)

section
variable {c k f : Nat} {slot : List Byte} {kindOk : FrameNo → Bool}

/-- An outcome of 0 accepts the command, any other refuses it (R91). -/
theorem State.admits_ite (running : Bool) (j : Job) :
    s.Admits (if k = 0 then s.accept c (hdrOf slot) f 0 running j else s.refuse c (hdrOf slot) (BitVec.ofNat 8 k))
      c slot k f running j := by
  refine ⟨fun hk => ?_, fun hk => ?_⟩
  · rw [if_neg hk]
    exact s.turnsAway_refuse c _ _
  · rw [if_pos hk]
    exact s.takesIn_accept c slot f running j

theorem State.admitPlain_admits (h : s.placed slot kindOk = (k, f)) (j : Job) :
    s.Admits (s.admitPlain c slot kindOk j) c slot k f (f = s.fr.no.toNat) j := by
  unfold State.placed at h
  unfold State.admitPlain
  simp only [h]
  exact State.admits_ite _ j

theorem State.admitNotStarted_admits (h : s.placed slot kindOk = (k, f)) (j : Job) :
    s.Admits (s.admitNotStarted c slot kindOk j) c slot k f false j := by
  unfold State.placed at h
  unfold State.admitNotStarted
  simp only [h]
  exact State.admits_ite false j

end

/-! ### Data movement (R345, R355) -/

/-- The commands of R360 to R364 with their opcodes and the descriptors they take. -/
def dmaForms : List ((Issuer → Instr) × Nat × (List Byte → List Byte → Option DmaOp)) :=
  [(.copy, 0x10, fun a _ => copyOf? a), (.fill, 0x11, fun a _ => fillOf? a), (.gather, 0x12, gatherOf?),
    (.storeCast, 0x13, storeOf?), (.amax, 0x14, amaxOf?), (.transpose, 0x15, transOf?)]

/-- One of these commands in the ring of a context; TRANSPOSE needs the column path (R226, R364). -/
theorem exec_dmaForm_ctx {mk : Issuer → Instr} {op : Nat} {parse : List Byte → List Byte → Option DmaOp}
    (h : (mk, op, parse) ∈ dmaForms) {c : CtxId} (hcol : op = 0x15 → s.colPathOff (s.partOf c.val) = true) :
    exec (mk (.ctx c)) s = .next (s.dmaFromCtx c.val op parse) := by
  simp only [dmaForms, List.mem_cons, Prod.mk.injEq, List.not_mem_nil, or_false] at h
  obtain h | h | h | h | h | h := h <;> obtain ⟨rfl, rfl, rfl⟩ := h
  · rfl
  · rfl
  · rfl
  · rfl
  · rfl
  · exact congrArg Host.Outcome.next (if_pos (hcol rfl))

/-- One of these commands from the management core (R345). -/
theorem exec_dmaForm_mgmt {mk : Issuer → Instr} {op : Nat} {parse : List Byte → List Byte → Option DmaOp}
    (h : (mk, op, parse) ∈ dmaForms) (slot aux : List Byte) :
    exec (mk (.mgmt slot aux)) s = .next (s.dmaFromMgmt slot aux parse) := by
  simp only [dmaForms, List.mem_cons, Prod.mk.injEq, List.not_mem_nil, or_false] at h
  obtain h | h | h | h | h | h := h <;> obtain ⟨rfl, rfl, rfl⟩ := h <;> rfl

section
variable {c op : Nat} {x : Fetched} {parse : List Byte → List Byte → Option DmaOp}

theorem State.dmaFromCtx_of_bad (hx : s.command c = some x) (ho : opcodeOf x.slot = op)
    (h : s.dmaBad (some c) x.slot = true ∨ parse x.slot x.aux = none) :
    s.dmaFromCtx c op parse = s.refuse c (hdrOf x.slot) 0x11 := by
  have hnone : (if s.dmaBad (some c) x.slot = true then none else parse x.slot x.aux) = none := by
    rcases h with h | h <;> simp [h]
  simp only [State.dmaFromCtx, hx, ho, hnone, ne_eq, not_true_eq_false, if_false]

theorem State.dmaFromCtx_of_good {o : DmaOp} (hx : s.command c = some x) (ho : opcodeOf x.slot = op)
    (h : s.dmaBad (some c) x.slot = false) (hp : parse x.slot x.aux = some o) : s.dmaFromCtx c op parse =
      s.admitPlain c x.slot (fun _ => true) (.dma (dmaJobOf (some c) x.slot o)) := by
  simp only [State.dmaFromCtx, hx, ho, h, hp, ne_eq, not_true_eq_false, if_false, Bool.false_eq_true]

end

/-- A command of the management core that its frame takes (R345). -/
theorem State.dmaFromMgmt_of_placed {slot aux : List Byte} {parse : List Byte → List Byte → Option DmaOp} {o : DmaOp}
    {f : Nat} (h : s.dmaBad none slot = false) (hp : parse slot aux = some o)
    (hf : s.placed slot (fun _ => true) = (0, f)) : s.dmaFromMgmt slot aux parse =
      { s with
        works := s.works ++ [{
          id := s.nextWork, ctx := none, part := 0, frame := BitVec.ofNat 64 f, slot := 0, irqEnd := false
          running := f = s.fr.no.toNat, job := .dma (dmaJobOf none slot o) }]
        nextWork := s.nextWork + 1 } := by
  unfold State.placed at hf
  simp only [State.dmaFromMgmt, h, hp, hf, if_true, if_false, Bool.false_eq_true]

/-! ### UPDATE, CAST and collectives (R387, R447) -/

theorem exec_narogForm {mk : CtxId → Instr} {op : Nat} {cast : Bool}
    (h : (mk, op, cast) ∈ ([(.update, 0x40, false), (.cast, 0x41, true)] : List ((CtxId → Instr) × Nat × Bool)))
    (hn : narogPresent s.variant = true) {c : CtxId} {x : Fetched} (hx : s.command c.val = some x)
    (ho : opcodeOf x.slot = op) : exec (mk c) s = .next (s.narogAdmit c.val cast x.slot) := by
  simp only [List.mem_cons, Prod.mk.injEq, List.not_mem_nil, or_false] at h
  rcases h with ⟨rfl, rfl, rfl⟩ | ⟨rfl, rfl, rfl⟩
  · exact congrArg Host.Outcome.next ((if_pos hn).trans (State.onCommand_of hx ho _))
  · exact congrArg Host.Outcome.next ((if_pos hn).trans (State.onCommand_of hx ho _))

/-- The commands of R447 with their opcodes and the descriptors they take. -/
def collForms : List ((CtxId → Instr) × Nat × (List Byte → Option CollJob)) :=
  [(.reduceScatter, 0x30, ringOf? .reduceScatter), (.allGather, 0x31, ringOf? .allGather),
    (.allReduce, 0x32, ringOf? .allReduce), (.put, 0x33, putOf?)]

theorem exec_collForm {mk : CtxId → Instr} {op : Nat} {parse : List Byte → Option CollJob}
    (h : (mk, op, parse) ∈ collForms) {c : CtxId} {x : Fetched} (hx : s.command c.val = some x)
    (ho : opcodeOf x.slot = op) : exec (mk c) s = .next (s.collAdmit c.val x.slot (parse x.slot)) := by
  simp only [collForms, List.mem_cons, Prod.mk.injEq, List.not_mem_nil, or_false] at h
  obtain h | h | h | h := h <;> obtain ⟨rfl, rfl, rfl⟩ := h
  all_goals exact congrArg Host.Outcome.next (State.onCommand_of hx ho _)

section
variable {c : CtxId} {x : Fetched} (hx : s.command c.val = some x) (ho : opcodeOf x.slot = 0x20)
include hx ho

theorem execSortList_of_none (h : sortOf x.slot = none) :
    exec (.sortList c) s = .next (s.refuse c.val (hdrOf x.slot) 0x11) :=
  congrArg Host.Outcome.next ((State.onCommand_of hx ho _).trans (by rw [h]))

theorem execSortList_of_some {j : SortJob} (h : sortOf x.slot = some j) :
    exec (.sortList c) s = .next (s.admitPlain c.val x.slot (fun _ => true) (.sort j)) :=
  congrArg Host.Outcome.next ((State.onCommand_of hx ho _).trans (by rw [h]))

end

/-! ### Launches on cores (R153, R159, R165) -/

/-- Blocks enter a core one after the other, and leave all else of it but its groups (R165). -/
theorem Core.foldl_placeBlock_eq (l : Launch) (now : Nat) (bs : List (Nat × Nat)) (k : Core) :
    ∃ gs, bs.foldl (fun q b => q.placeBlock l now b.2 b.1) k =
      { k with blocks := k.blocks ++ bs.map (fun b => { slot := b.2, no := b.1 }), groups := gs } := by
  induction bs generalizing k with
  | nil => exact ⟨k.groups, by simp⟩
  | cons b bs ih =>
    obtain ⟨gs, h⟩ := ih (k.placeBlock l now b.2 b.1)
    refine ⟨gs, ?_⟩
    rw [List.foldl_cons, h]
    simp [Core.placeBlock]

/-- The state whose core has the split of a launch (R309). -/
def State.withSplit (s : State) (k n : Nat) : State :=
  if (s.core k).split = n then s else (s.useFree 1).changeSplit k n

theorem State.withSplit_now (s : State) (k n : Nat) : (s.withSplit k n).now = s.now := by
  rw [State.withSplit]
  split <;> rfl

theorem State.withSplit_split (s : State) (k n : Nat) : ((s.withSplit k n).core k).split = n := by
  rw [State.withSplit]
  split
  next h => exact h
  next => rw [State.changeSplit, State.core_setCore_same]

theorem State.withSplit_key (s : State) (k n : Nat) : ((s.withSplit k n).core k).key = (s.core k).key := by
  rw [State.withSplit]
  split
  · rfl
  · rw [State.changeSplit, State.core_setCore_same]
    rfl

/-- A core as a launch finds it (R153, R309). -/
def State.preparedCore (s : State) (k p : Nat) (key : Word) (n : Nat) : Core :=
  let c := (s.withSplit k n).core k
  { (if c.needsClear p key then { c.zero with zeroTo := s.now + 768 } else c) with
    clearTo := s.now + s.startCycles k p key n }

theorem State.prepareCore_eq (s : State) (k p : Nat) (key : Word) (n : Nat) :
    s.prepareCore k p key n = (s.withSplit k n).setCore k (s.preparedCore k p key n) := by
  have h : s.prepareCore k p key n = (s.withSplit k n).setCore k
      { (if ((s.withSplit k n).core k).needsClear p key then
          { ((s.withSplit k n).core k).zero with zeroTo := (s.withSplit k n).now + 768 }
        else (s.withSplit k n).core k) with
        clearTo := (s.withSplit k n).now + s.startCycles k p key n } := rfl
  rw [h, State.withSplit_now]
  rfl

theorem State.preparedCore_split (s : State) (k p : Nat) (key : Word) (n : Nat) :
    (s.preparedCore k p key n).split = n := by
  simp only [State.preparedCore]
  split <;> exact State.withSplit_split s k n

theorem State.needsClear_withSplit {k p : Nat} {key : Word} (n : Nat)
    (h : (s.core k).key ≠ some (p, key) ∨ key = 0) : ((s.withSplit k n).core k).needsClear p key = true := by
  rw [Core.needsClear, State.withSplit_key]
  rcases h with h | h <;> simp [h]

/-- A core that another key or a key of 0 finds is zeroed (R153). -/
theorem State.preparedCore_zeroed {k p : Nat} {key : Word} (n : Nat)
    (h : (s.core k).key ≠ some (p, key) ∨ key = 0) :
    (s.preparedCore k p key n).regs = [] ∧ (s.preparedCore k p key n).scratch = [] := by
  simp only [State.preparedCore, if_pos (State.needsClear_withSplit n h)]
  exact ⟨rfl, rfl⟩

/-- A core on which a launch has begun: nothing of the one before, and its first blocks (R165, R203, R213). -/
def Core.begun (x : Core) (w : Work) (l : Launch) (c : Nat) (key : Word) (k now : Nat) : Core :=
  ((l.firstBlocks (l.localOf k)).zipIdx).foldl (fun q b => q.placeBlock l now b.2 b.1) { x with
    key := some (w.part, key), launch := some w.id, since := now, ran := (c :: x.ran).dedup
    blocks := [], groups := [], ops := [], fences := [], usable := []
    arr := { ({} : ArrState) with comp := x.arr.comp }
    sp := { x.sp with rounds := [], open_ := none, est := [], bound := [], estTile := none, filt := .none, misp := 0 } }

/-- The core's own first blocks, each in a slot (R165). -/
def Launch.slotted (l : Launch) (k : Nat) : List Blk :=
  ((l.firstBlocks (l.localOf k)).zipIdx).map (fun b => { slot := b.2, no := b.1 })

theorem Launch.map_no_slotted (l : Launch) (k : Nat) : (l.slotted k).map (·.no) = l.firstBlocks (l.localOf k) := by
  rw [Launch.slotted, List.map_map]
  exact List.zipIdx_map_fst 0 _

theorem Core.begun_eq (x : Core) (w : Work) (l : Launch) (c : Nat) (key : Word) (k now : Nat) :
    ∃ rn gs sp, x.begun w l c key k now = { x with
      key := some (w.part, key), launch := some w.id, since := now, ran := rn, blocks := l.slotted k, groups := gs
      ops := [], fences := [], usable := [], arr := { ({} : ArrState) with comp := x.arr.comp }, sp := sp } := by
  obtain ⟨gs, h⟩ := Core.foldl_placeBlock_eq l now (l.firstBlocks (l.localOf k)).zipIdx _
  exact ⟨_, gs, _, h⟩

theorem State.startLaunch_core (s : State) (w : Work) (l : Launch) (k : Nat) :
    (s.startLaunch w l k).core k =
      (s.preparedCore k w.part (s.ctx (w.ctx.getD 0)).key l.split).begun w l (w.ctx.getD 0) (s.ctx (w.ctx.getD 0)).key k
        s.now := by
  have h : (s.startLaunch w l k).core k = Core.begun
      ((s.prepareCore k w.part (s.ctx (w.ctx.getD 0)).key l.split).core k) w l (w.ctx.getD 0) (s.ctx (w.ctx.getD 0)).key k
      (s.prepareCore k w.part (s.ctx (w.ctx.getD 0)).key l.split).now :=
    State.core_setCore_same _ _ _
  rw [h, State.prepareCore_eq, State.core_setCore_same, State.setCore_now, State.withSplit_now]

theorem execLaunchStart_of {id : Nat} {k : CoreId} {w : Work} {l : Launch} (hw : s.work id = some w)
    (hl : w.launch? = some l) (hm : s.mayStart w l k.val = true) :
    exec (.launchStart id k) s = .next (s.startLaunch w l k.val) := by
  refine congrArg Host.Outcome.next ?_
  simp only [hw, hl, hm, if_true]

/-- BLOCK_DISPATCH where a slot is free and a block is left (R165). -/
theorem State.dispatch_of {k i : Nat} {w : Work} {l : Launch} (hr : s.running k = some (w, l))
    (hn : l.nextBlock < l.blocks)
    (hi : (List.range l.resident).find? (fun i => ((s.core k).sweep l.gpb).blocks.all (·.slot ≠ i)) = some i) :
    s.dispatch k = (s.setCore k (((s.core k).sweep l.gpb).placeBlock l s.now i l.nextBlock)).setWork
      { w with job := .launch { l with nextBlock := l.nextBlock + 1 } } := by
  simp only [State.dispatch, hr, hi, if_pos hn]

theorem execLaunchCoreEnd_of {k : CoreId} {w : Work} {l : Launch} (hr : s.running k.val = some (w, l))
    (hb : ((s.core k.val).sweep l.gpb).blocks = []) (hn : l.blocks ≤ l.nextBlock)
    (hq : (s.core k.val).arr.queue = []) (ho : (s.core k.val).ops = []) :
    exec (.launchCoreEnd w.id k) s = .next (s.coreEnds w l k.val) := by
  refine congrArg Host.Outcome.next ?_
  have hsweep : ((s.core k.val).sweep l.gpb).arr.queue = [] ∧ ((s.core k.val).sweep l.gpb).ops = [] := ⟨hq, ho⟩
  simp only [hr]
  exact if_pos (by simp [hb, hn, hsweep])

theorem State.core_setWork (s : State) (w : Work) (k : Nat) : (s.setWork w).core k = s.core k := rfl

/-- The core's part of a launch that has ended on it (R93, R159). -/
def Launch.endedOn (l : Launch) (k cycles : Nat) : Launch :=
  { l with ended := k :: l.ended, charge := l.charge + cycles }

section
variable {w : Work} {l : Launch} {k : Nat}

/-- Another core still has to run its part (R159). -/
theorem State.coreEnds_of_more (h : l.ended.length + 1 ≠ l.list.length) : s.coreEnds w l k =
    (s.setCore k { (s.core k).halt with ops := [] }).setWork
      { w with job := .launch (l.endedOn k (s.now - (s.core k).since)) } := if_neg h

theorem State.coreEnds_of_last (h : l.ended.length + 1 = l.list.length) : s.coreEnds w l k =
    (s.setCore k { (s.core k).halt with ops := [] }).launchOver w (l.endedOn k (s.now - (s.core k).since)) := if_pos h

theorem State.launchOver_of_puts {n : Nat} (h : l.puts = true) : s.launchOver w (l.endedOn k n) =
    (s.countOverdraw w (l.charge + n)).setWork { w with job := .launch (l.endedOn k n) } := if_pos h

theorem State.launchOver_of_no_puts {n : Nat} (h : l.puts = false) : s.launchOver w (l.endedOn k n) =
    (s.countOverdraw w (l.charge + n)).endWork w stEnded := if_neg (by rw [Launch.endedOn, h]; decide)

theorem State.work_countOverdraw (s : State) (w : Work) (n id : Nat) : (s.countOverdraw w n).work id = s.work id := by
  simp only [State.work, State.works_of_plan (State.countOverdraw_plan s w n)]

end

theorem State.isSome_work_setWork {v w : Work} (h : s.work w.id = some v) :
    ((s.setWork w).work w.id).isSome = true := by
  have hmem := List.mem_of_find?_eq_some h
  have hid := List.find?_some h
  exact List.find?_isSome.2 ⟨w, List.mem_map.2 ⟨v, hmem, if_pos (of_decide_eq_true hid)⟩, decide_eq_true rfl⟩

end
end Sys2Proof.Machine

namespace Sys2Proof.Proofs.FrameDiscipline
open Sys2Proof Sys2Proof.Machine

/-- Settles O10: work of the frame that is left after the stop of its frame is such whose last write was accepted. -/
theorem noFrameWorkOutlivesItsFrame : Obligations.NoFrameWorkOutlivesItsFrame := by
  intro s t hready ht w hw hctx hframe
  rw [execTick_of_ready hready] at ht
  cases ht
  obtain ⟨v, hv, hvw, hrun⟩ := State.mem_doTick_works hw
  rw [hvw] at hctx hframe ⊢
  rcases State.job_of_lastAccepted (State.done_of_mem_stopFrame hv hframe hctx) with ⟨j, hj, hr, hn⟩ | h | h
  · exact .inl ⟨j, hj, hrun hr, hn⟩
  · exact .inr (.inl h)
  · exact .inr (.inr h)

/-- Settles O14: the pair that the tick leaves, by what was pending. -/
theorem pendingPeriodTakesEffect : Obligations.PendingPeriodTakesEffect := by
  intro s hready
  refine ⟨_, execTick_of_ready hready, ?_⟩
  rw [State.doTick_fr]
  simp only [FrameState.tick, FrameState.opened]
  refine ⟨fun f p hpend hle => ?_, fun f p hpend hlt => ?_, fun hpend => ?_⟩
  · simp [hpend, hle]
  · simp [hpend, Nat.not_le.2 hlt]
  · simp [hpend]

/-- Settles O9: the frame by the tick's own rule for it; the overrun by the stop of the frame that ends, of which
nothing runs, so that its launches stand in the list as they were admitted. -/
theorem tickOpensNextFrame : Obligations.TickOpensNextFrame := by
  refine ⟨fun s hready => ?_, fun s w c hready hnext hidle hw hf hc _ hl => ?_⟩
  · refine ⟨_, execTick_of_ready hready, ?_⟩
    rw [State.doTick_fr]
    exact ⟨rfl, rfl, rfl, rfl, rfl, rfl, rfl, rfl, rfl, fun p hp hk => State.snapped_doTick hp hk⟩
  · have hun : s.Unstarted s.fr.no := hidle
    have hcut := State.mem_cutList_of_unstarted hun hw hf (by simp [hc]) hl
    have hover : s.doTick.Overran w.part c.val s.fr.no :=
      (State.overran_foldl_overrun s.fr.no (mem_overrunOf hcut hc hl) _).congr_regs
        ((State.doTick_regs s).trans ((State.turnFrame_regs hnext).trans (by rw [State.stopFrame_eq])))
    obtain ⟨hbit, hcode, hframe⟩ := hover
    refine ⟨_, execTick_of_ready hready, hbit, hcode, hframe, fun v hv => ?_⟩
    obtain ⟨u, hu, huv, -⟩ := State.mem_doTick_works hv
    rw [huv]
    exact (State.mem_stopFrame_works.1 hu).2 w hcut

/-- Settles O11: both commands let the frame reach a cycle, and then set one field of it. -/
theorem closingWindowAndWaves : Obligations.ClosingWindowAndWaves := by
  refine ⟨fun s hready hclosing => ?_, fun w s hready => ?_⟩
  · refine ⟨_, congrArg Host.Outcome.next (if_pos (by rw [hready, hclosing]; rfl)), ?_, ?_, ?_, ?_⟩
    · simp only [State.toCycle_fr]
      rfl
    · simp only [State.closedNow, FrameState.closed, Bool.true_or]
    · simp only [State.toCycle_mem]
    · simp only [State.toCycle_works]
  · refine ⟨_, congrArg Host.Outcome.next (if_pos hready), ?_, ?_, ?_⟩
    · simp only [State.toCycle_fr]
    · simp only [State.toCycle_mem]
    · simp only [State.toCycle_works]

/-- Settles O12: the correction by the two ways in which a node corrects, the queues by the ports the marker goes to. -/
theorem stringsAlignment : Obligations.StringsAlignment := by
  refine ⟨fun p m res s hacc => ?_, fun p m res s hacc => ?_, fun s hready hrole htook hmiss => ?_,
    fun s hready hfol hfree hlost => ?_⟩
  · intro err
    obtain ⟨x, hframe⟩ := State.markerFrame_eq s p.val m err
    refine ⟨_, execMarkerReceive_of_accepts hacc, ?_⟩
    rw [State.takeMarker_fr, hframe]
    refine ⟨rfl, rfl, rfl, State.corrected_no s m err, fun hno hsmall => ?_, fun hstep => ?_, ?_, fun q hq hne => ?_⟩
    · have hslew : s.corrected m err = s.fr.slew err :=
        if_neg fun h => (State.markerSteps_iff.1 h).elim (· hno) (Nat.not_lt.2 hsmall)
      rw [hslew]
      exact FrameState.slew_adj s.fr err
    · have hsteps : s.markerSteps m err = true := State.markerSteps_iff.2 hstep
      have hcorr : s.corrected m err = s.fr.step err m.frame := if_pos hsteps
      intro late
      have hbit : bit ((s.takeMarker p.val m res).sq .strings 0 0x800) 21 = true := by
        rw [State.takeMarker_eq, State.sq_sendMarker]
        exact State.sq_aligned_of_steps hsteps p.val
      by_cases hl : late
      · rw [hcorr, FrameState.step_of_late _ _ _ hl, if_pos hl, if_pos hl]
        exact ⟨rfl, rfl, hbit⟩
      · rw [hcorr, FrameState.step_of_not_late _ _ _ hl, if_neg hl, if_neg hl]
        exact ⟨rfl, rfl, hbit⟩
    · rw [State.takeMarker_markers, if_neg (fun h => h.2 rfl), List.append_nil]
    · rw [State.takeMarker_markers, if_pos ⟨hq, hne⟩]
      rfl
  · exact congrArg Host.Outcome.next (if_neg (by rw [hacc]; decide))
  · refine ⟨_, congrArg Host.Outcome.next (if_pos (by simp [hready, hrole, htook, hmiss])), rfl, ?_, ?_⟩
    · rw [State.sq_latch_same]
      exact bit_or_flag_same _ 20 (by decide)
    · exact State.isMaster_of_tookOver hrole rfl
  · refine ⟨_, congrArg Host.Outcome.next (if_pos (by simp [hready, hfol, hfree, hlost])), ?_, ?_, ?_, ?_⟩
    · exact State.fr_of_plan (State.raise_plan _ _ _ _)
    · rw [State.raise, State.sq_raiseAt, State.sq_latch_same]
      exact bit_or_flag_same _ 22 (by decide)
    · rw [State.raise, State.source_raiseAt, if_pos rfl]
      rfl
    · rw [State.raise, State.source_raiseAt, if_pos rfl]
      rfl

/-- Settles O13: the law of an accepted request, and each item's own rule. -/
theorem frameItems : Obligations.FrameItems := by
  refine ⟨fun r s k ws h => ?_, fun r s k ws h => ?_, fun r s k ws h => ?_, fun r s k ws h => ?_, fun r s k ws h => ?_,
    fun r s k ws h => ?_, fun r s k ws h => ?_⟩
  · exact congrArg Host.Outcome.next (State.mbxGet_asks h)
  · have hrun : exec (.applyFrame r) s = .next ((s.applyFrame (natOf ws)).2.2.mbxBegin r .strings 2
        (s.applyFrame (natOf ws)).1 (s.applyFrame (natOf ws)).2.1) :=
      congrArg Host.Outcome.next (State.mbxRun_asks h)
    rw [hrun]
    refine ⟨fun hnear => ?_, fun hfar hf => ?_, fun hfar hf hfree => ?_⟩
    · rw [State.applyFrame_of_near hnear]
      rfl
    · rw [State.applyFrame_of_far hfar hf]
      rfl
    · rw [State.applyFrame_of_follower hfar hf hfree]
      rfl
  · refine ⟨fun hf => ?_, fun hf => ?_⟩
    · refine congrArg Host.Outcome.next ((State.mbxRun_asks h).trans ?_)
      rw [if_pos hf]
      rfl
    · have hrun : exec (.frameSet r) s =
          .next ((s.renumbered (BitVec.ofNat 64 (natOf ws))).mbxBegin r .strings 3 errDone []) := by
        refine congrArg Host.Outcome.next ((State.mbxRun_asks h).trans ?_)
        rw [if_neg (by rw [hf]; decide)]
        rfl
      refine ⟨_, hrun, rfl, ?_, ?_⟩
      · rw [State.sq_mbxBegin]
        exact State.sq_renumbered s _
      · rw [State.copyOf_mbxBegin]
  · exact congrArg Host.Outcome.next (State.mbxGet_asks h)
  · exact congrArg Host.Outcome.next (State.mbxRun_asks h)
  · exact congrArg Host.Outcome.next (State.mbxRun_asks h)
  · rw [← State.stepOf_eq]
    exact congrArg Host.Outcome.next (State.mbxGet_asks h)

/-- Settles O15: a launch is accepted or refused by its outcome alone. -/
theorem launchAdmission : Obligations.LaunchAdmission := by
  unfold Obligations.LaunchAdmission
  intro c s x k f hx hop hout
  refine ⟨_, execLaunch_of hx hop, ?_⟩
  by_cases hk : k = 0
  · subst hk
    rw [State.doLaunch_of_accepted hout, State.accept_ctx, State.accept_works]
    exact ⟨rfl, rfl, fun h => absurd rfl h, fun _ => ⟨rfl, Tab.get_set_same _ _ _ _⟩⟩
  · rw [State.doLaunch_of_refused hout hk]
    obtain ⟨hworks, hhead, hfetched⟩ :=
      (s.addCount .puppeteer (s.partOf c.val) 0x80C 1).turnsAway_refuse c.val (hdrOf x.slot) k
    exact ⟨hhead, hfetched, fun _ => hworks, fun h => absurd h hk⟩

/-- Settles O41: each command parses its slot, and one rule admits or refuses what it names. -/
theorem commandAdmission : Obligations.CommandAdmission := by
  unfold Obligations.CommandAdmission
  refine ⟨fun c s x hx ho => ⟨fun hnone => ?_, fun j k f hj hf => ?_⟩, fun mk op parse hform => ⟨?_, ?_⟩,
    fun c s x hx ho hcol => ?_, fun mk op cast hform c s x hn hx ho => ⟨fun hnone => ?_, fun j k f hj hf => ?_⟩,
    fun mk op parse hform c s x hx ho => ⟨fun hnone => ?_, fun j k f hj hf => ?_⟩⟩
  · exact ⟨_, execSortList_of_none hx ho hnone, s.turnsAway_refuse c.val _ _⟩
  · exact ⟨_, execSortList_of_some hx ho hj, State.admitPlain_admits hf _⟩
  · intro c s x hx ho hcol
    have hrun := exec_dmaForm_ctx hform hcol
    refine ⟨fun hbad => ⟨_, hrun, ?_⟩, fun o k f hgood hp hf => ⟨_, hrun, ?_⟩⟩
    · rw [State.dmaFromCtx_of_bad hx ho hbad]
      exact s.turnsAway_refuse c.val _ _
    · rw [State.dmaFromCtx_of_good hx ho hgood hp]
      exact State.admitPlain_admits hf _
  · intro slot aux s o f hgood hp hf
    refine ⟨_, exec_dmaForm_mgmt hform slot aux, ?_⟩
    rw [State.dmaFromMgmt_of_placed hgood hp hf]
    exact ⟨rfl, rfl⟩
  · have hrun : exec (.transpose (.ctx c)) s = .next (s.dmaFromCtx c.val 0x15 (fun _ _ => none)) :=
      congrArg Host.Outcome.next (if_neg (by rw [hcol]; decide))
    refine ⟨_, hrun, ?_⟩
    rw [State.dmaFromCtx_of_bad hx ho (.inr rfl)]
    exact s.turnsAway_refuse c.val _ _
  · refine ⟨_, exec_narogForm hform hn hx ho, ?_⟩
    rw [State.narogAdmit, hnone]
    exact s.turnsAway_refuse c.val _ _
  · refine ⟨_, exec_narogForm hform hn hx ho, ?_⟩
    rw [State.narogAdmit, hj]
    exact State.admitNotStarted_admits hf _
  · refine ⟨_, exec_collForm hform hx ho, ?_⟩
    rw [hnone]
    exact s.turnsAway_refuse c.val _ _
  · refine ⟨_, exec_collForm hform hx ho, ?_⟩
    rw [hj]
    exact State.admitNotStarted_admits hf _

/-- Settles O16: the core that a launch starts on is known field by field, and the other two commands change one core
and one piece of work. -/
theorem launchesOnCores : Obligations.LaunchesOnCores := by
  unfold Obligations.LaunchesOnCores
  refine ⟨fun id k s w l hw hl hm => ?_, fun k s w l i hr hn hi => ?_, fun k s w l hr hb hn hq ho => ?_⟩
  · refine ⟨_, execLaunchStart_of hw hl hm, ?_⟩
    obtain ⟨rn, gs, sp, hbegun⟩ := Core.begun_eq (s.preparedCore k.val w.part (s.ctx (w.ctx.getD 0)).key l.split) w l
      (w.ctx.getD 0) (s.ctx (w.ctx.getD 0)).key k.val s.now
    rw [State.startLaunch_core, hbegun]
    exact ⟨rfl, rfl, State.preparedCore_split s k.val _ _ l.split, rfl, rfl, Launch.map_no_slotted l k.val, rfl, rfl,
      fun h => State.preparedCore_zeroed l.split h⟩
  · refine ⟨_, congrArg Host.Outcome.next (State.dispatch_of hr hn hi), ?_, ?_, rfl⟩
    · rw [State.core_setWork, State.core_setCore_same]
      rfl
    · rw [State.core_setWork, State.core_setCore_same]
      simp [Core.placeBlock, Core.sweep]
  · refine ⟨_, execLaunchCoreEnd_of hr hb hn hq ho, fun hne => ?_, fun heq hputs v hv => ?_, fun heq hputs v hv => ?_⟩
    · rw [State.coreEnds_of_more hne, State.core_setWork, State.core_setCore_same]
      exact ⟨rfl, rfl, rfl⟩
    · rw [State.coreEnds_of_last heq, State.launchOver_of_no_puts hputs, State.endWork_works] at hv
      exact of_decide_eq_true (List.mem_filter.1 hv).2
    · rw [State.coreEnds_of_last heq, State.launchOver_of_puts hputs]
      exact State.isSome_work_setWork ((State.work_countOverdraw _ _ _ _).trans hv)

end Sys2Proof.Proofs.FrameDiscipline

namespace Sys2Proof.Machine

/-!
## What memory traffic leaves (R75 to R84, R318 to R352)

Reads and writes at a home slice latch and raise events of their own; they leave the configuration, the requesters'
copies, the status of every context and the security engine, take nothing back that has left the module, and leave what
schedules work. `State.Traffic` says so of two states, and `f_traffic` of an operation `f`. The end of a context's work
changes the schedule alone beside that: `State.Spares`, `f_spares`.
-/

/-- The part of a state that memory traffic leaves, but for events. -/
structure Face where
  cfg : Tab Word
  copy : Tab ReqCopy
  status : Tab Word
  sec : SecState
  out : List Out

/-- What a state shows of it. -/
def State.face (s : State) : Face :=
  { cfg := s.regs.cfg, copy := s.regs.copy, status := s.regs.status, sec := s.sec, out := s.out }

/-- From `s` to `t` registers, copies, the status of contexts and the security engine stay, and what has left the module
stays out. -/
structure State.Spares (s t : State) : Prop where
  cfg : t.regs.cfg = s.regs.cfg
  copy : t.regs.copy = s.regs.copy
  ctxStatus : ∀ c < 65536, t.sq .ctxtab c 0x800 = s.sq .ctxtab c 0x800
  sec : t.sec = s.sec
  out : s.out <:+ t.out

/-- Beside that, what schedules work stays. -/
structure State.Traffic (s t : State) : Prop extends State.Spares s t where
  plan : t.plan = s.plan

section
variable {s t u : State}

theorem State.Spares.of_face (h : t.face = s.face) : s.Spares t := by
  obtain ⟨hcfg, hcopy, hstatus, hsec, hout⟩ := Face.mk.inj h
  refine ⟨hcfg, hcopy, fun c _ => ?_, hsec, ?_⟩
  · rw [State.sq, hstatus, State.sq]
  · rw [hout]

theorem State.Spares.refl (s : State) : s.Spares s := .of_face rfl

theorem State.Spares.trans (h : s.Spares t) (h' : t.Spares u) : s.Spares u :=
  ⟨h'.cfg.trans h.cfg, h'.copy.trans h.copy, fun c hc => (h'.ctxStatus c hc).trans (h.ctxStatus c hc),
    h'.sec.trans h.sec, h.out.trans h'.out⟩

theorem State.Traffic.of_same (h : t.face = s.face) (hp : t.plan = s.plan) : s.Traffic t := ⟨.of_face h, hp⟩

theorem State.Traffic.refl (s : State) : s.Traffic s := ⟨.refl s, rfl⟩

theorem State.Traffic.trans (h : s.Traffic t) (h' : t.Traffic u) : s.Traffic u :=
  ⟨h.toSpares.trans h'.toSpares, h'.plan.trans h.plan⟩

theorem foldl_spares {α : Type} {f : State → α → State} (h : ∀ (s : State) (a : α), s.Spares (f s a))
    (l : List α) (s : State) : s.Spares (l.foldl f s) :=
  foldl_keeps (fun t : State => s.Spares t) f (fun t a ht => ht.trans (h t a)) l s (.refl s)

theorem foldl_traffic {α : Type} {f : State → α → State} (h : ∀ (s : State) (a : α), s.Traffic (f s a))
    (l : List α) (s : State) : s.Traffic (l.foldl f s) :=
  foldl_keeps (fun t : State => s.Traffic t) f (fun t a ht => ht.trans (h t a)) l s (.refl s)

theorem State.traffic_ite {c : Prop} [Decidable c] {a b : State} (ha : s.Traffic a) (hb : s.Traffic b) :
    s.Traffic (if c then a else b) := by
  split
  · exact ha
  · exact hb

theorem State.Traffic.withHbm (h : s.Traffic t) (x : HbmState) : s.Traffic { t with hbm := x } :=
  h.trans (.of_same rfl rfl)

theorem State.Traffic.withSlowUncorr (h : s.Traffic t) (x : Tab Nat) : s.Traffic { t with slowUncorr := x } :=
  h.trans (.of_same rfl rfl)

theorem State.Spares.copyOf (h : s.Spares t) (r : Req) (w : Window) (b : Block) : t.copyOf r w b = s.copyOf r w b :=
  State.copyOf_congr h.copy r w b

theorem State.Spares.cfgOf (h : s.Spares t) (b : Block) (i off : Nat) : t.cfg b i off = s.cfg b i off := by
  rw [State.cfg, h.cfg, State.cfg]

theorem State.Spares.mem_out (h : s.Spares t) {o : Out} (ho : o ∈ s.out) : o ∈ t.out := h.out.subset ho

end

section
variable (s : State)

/-! ### Events and counters -/

theorem State.sendMsix_out (f v : Nat) (why : Option Nat) : s.out <:+ (s.sendMsix f v why).out := by
  simp only [State.sendMsix]
  split
  · exact List.suffix_rfl
  · split
    · exact List.suffix_rfl
    · split
      · exact List.suffix_rfl
      · exact List.suffix_cons _ _

theorem State.signal_out (src f k : Nat) : s.out <:+ (s.signal src f k).out := by
  simp only [State.signal]
  split
  · exact State.sendMsix_out s _ _ _
  · exact List.suffix_rfl

theorem State.deliver_out (b : Block) (i : Nat) (code : BitVec 16) : s.out <:+ (s.deliver b i code).out := by
  simp only [State.deliver]
  split
  · exact State.signal_out s _ _ _
  · exact (State.signal_out s _ _ _).trans (List.suffix_cons _ _)

theorem State.raiseAt_out (b : Block) (i : Nat) (code : BitVec 16) (f : FrameNo) :
    s.out <:+ (s.raiseAt b i code f).out := by
  simp only [State.raiseAt]
  have h := State.deliver_out (s.setSource (srcKey b i) ((s.source (srcKey b i)).record code f)) b i code
  split
  · exact h.trans (List.suffix_cons _ _)
  · exact h

theorem State.sendMsix_traffic (f v : Nat) (why : Option Nat) : s.Traffic (s.sendMsix f v why) := by
  have hout := State.sendMsix_out s f v why
  obtain ⟨p, o, h⟩ := State.sendMsix_eq s f v why
  rw [h] at hout ⊢
  exact ⟨⟨rfl, rfl, fun _ _ => rfl, rfl, hout⟩, rfl⟩

theorem State.raise_traffic (b : Block) (i : Nat) (code : BitVec 16) : s.Traffic (s.raise b i code) := by
  have hout : s.out <:+ (s.raise b i code).out := State.raiseAt_out s b i code _
  obtain ⟨p, o, h⟩ := State.raise_eq s b i code
  rw [h] at hout ⊢
  exact ⟨⟨rfl, rfl, fun _ _ => rfl, rfl, hout⟩, rfl⟩

/-- The status registers of a block behind CTXTAB are none of a context's. -/
theorem State.latch_traffic {b : Block} (hb : Block.idx .ctxtab < Block.idx b) (i off : Nat) (f : Word → Word) :
    s.Traffic (s.latch b i off f) := by
  refine ⟨⟨rfl, rfl, fun c hc => ?_, rfl, List.suffix_rfl⟩, rfl⟩
  refine State.sq_latch_ne s f ?_
  have hctx : Block.idx .ctxtab = 3 := rfl
  unfold regKey
  omega

theorem State.addCount_traffic (b : Block) (i off n : Nat) : s.Traffic (s.addCount b i off n) := .of_same rfl rfl

/-! ### Reads and writes of a stack -/

theorem Block.idx_eccAt (a : Nat) : Block.idx .ctxtab < Block.idx (eccAt a).1 := by
  rw [eccAt]
  split
  · show Block.idx .ctxtab < Block.idx .hbm
    decide
  · show Block.idx .ctxtab < Block.idx .slowtier
    decide

theorem State.correction_traffic (a : Nat) : s.Traffic (s.correction a) := by
  have h := (State.addCount_traffic s (eccAt a).1 (eccAt a).2 0x804 1).trans
    (State.latch_traffic _ (Block.idx_eccAt a) (eccAt a).2 0x800 (· ||| flag true 22))
  simp only [State.correction]
  exact State.traffic_ite ((h.withHbm _).trans (State.raise_traffic _ _ _ _)) (h.withHbm _)

theorem State.reportUncorr_traffic (a : Nat) : s.Traffic (s.reportUncorr a) := by
  have h := ((State.latch_traffic s (Block.idx_eccAt a) (eccAt a).2 0x800
      (fun w => (w &&& flag true 22) ||| flag true 23 ||| flag (s.latchedUncorr a) 21 ||| lastEcc a)).trans
    (State.addCount_traffic _ (eccAt a).1 (eccAt a).2 0x808 1)).trans (State.raise_traffic _ (eccAt a).1 (eccAt a).2 0x5003)
  simp only [State.reportUncorr]
  exact State.traffic_ite (h.withHbm _) (h.withSlowUncorr _)

theorem State.burst_traffic (line : Nat) (m : BitVec 4) (w : Bool) : s.Traffic (s.burst line m w) := by
  simp only [State.burst]
  split <;> exact .of_same rfl rfl

theorem State.readSector_traffic (n : Nat) : s.Traffic (s.readSector n) := by
  have hfix : s.Traffic ((s.setUpset n 0).correction (32 * n)) :=
    ((State.Traffic.refl s).withHbm _).trans (State.correction_traffic (s.setUpset n 0) _)
  simp only [State.readSector]
  exact State.traffic_ite (State.reportUncorr_traffic s _)
    (State.traffic_ite (.refl s) (State.traffic_ite (hfix.trans (State.burst_traffic _ _ _ _)) hfix))

theorem State.hbmFetch_traffic (line : Nat) (m : BitVec 4) : s.Traffic (s.hbmFetch line m) := by
  simp only [State.hbmFetch]
  refine State.traffic_ite (.refl s) ((State.burst_traffic s line m false).trans (foldl_traffic (fun t i => ?_) _ _))
  split
  · exact State.readSector_traffic t _
  · exact .refl t

theorem State.hbmWrite_traffic (line : Nat) (m : BitVec 4) (d : List Byte) : s.Traffic (s.hbmWrite line m d) := by
  refine foldl_traffic (fun t i => ?_) _ s
  split
  · exact .of_same rfl rfl
  · exact .refl t

theorem State.hbmPut_traffic (line : Nat) (m : BitVec 4) (d : List Byte) (g : Bool) :
    s.Traffic (s.hbmPut line m d g) := by
  simp only [State.hbmPut]
  exact State.traffic_ite (.refl s) ((State.hbmWrite_traffic s line m d).withHbm _)

theorem State.hbmAsk_traffic (line : Nat) (m : BitVec 4) (g : Bool) : s.Traffic (s.hbmAsk line m g) := by
  simp only [State.hbmAsk]
  exact State.traffic_ite (.refl s) (.of_same rfl rfl)

/-! ### A home slice -/

theorem State.setSlice_traffic (d : Nat) (x : Slice) : s.Traffic (s.setSlice d x) := .of_same rfl rfl

theorem State.putLine_traffic (l : LLine) : s.Traffic (s.putLine l) := .of_same rfl rfl

theorem State.dropLine_traffic (line : Nat) : s.Traffic (s.dropLine line) := .of_same rfl rfl

theorem State.touchLine_traffic (l : LLine) : s.Traffic (s.touchLine l) := .of_same rfl rfl

theorem State.countServed_traffic (line : Nat) (r : Bool) : s.Traffic (s.countServed line r) := .of_same rfl rfl

/-- A walk over holders that each leave what traffic leaves. -/
theorem State.snoopAll_traffic (l : LLine) {f : State × LLine → Nat → State × LLine}
    (h : ∀ (q : State × LLine) (k : Nat), q.1.Traffic (f q k).1) : s.Traffic (s.snoopAll l f).1 :=
  foldl_keeps (fun q : State × LLine => s.Traffic q.1) f (fun q k hq => hq.trans (h q k)) _ _
    (State.addCount_traffic s _ _ _ _)

theorem recallOne_traffic (q : State × LLine) (k : Nat) : q.1.Traffic (recallOne q k).1 := by
  simp only [recallOne]
  split
  · exact .refl _
  · split
    · exact .of_same rfl rfl
    · exact .of_same rfl rfl
    · exact .of_same rfl rfl
    · split
      · exact .of_same rfl rfl
      · exact .refl _

theorem shareOne_traffic (q : State × LLine) (k : Nat) : q.1.Traffic (shareOne q k).1 := by
  simp only [shareOne]
  split
  · exact .refl _
  · split
    · exact .refl _
    · exact .of_same rfl rfl
    · exact .of_same rfl rfl
    · exact .refl _

theorem State.recall_traffic (l : LLine) : s.Traffic (s.recall l).1 := State.snoopAll_traffic s l recallOne_traffic

theorem State.resolve_traffic (l : LLine) : s.Traffic (s.resolve l).1 :=
  ((State.recall_traffic s l).trans (State.hbmFetch_traffic _ _ _)).trans (State.addCount_traffic _ _ _ _ _)

theorem State.evict_traffic (l : LLine) : s.Traffic (s.evict l) := by
  have h : s.Traffic (if l.st = .red then s.resolve l else s.recall l).1 := by
    split
    · exact State.resolve_traffic s l
    · exact State.recall_traffic s l
  have hcount := h.trans (State.addCount_traffic _ .llc (homeDie l.line) 0x818 l.targets.length)
  refine State.Traffic.trans (State.traffic_ite ?_ hcount) (State.dropLine_traffic _ _)
  exact hcount.trans (State.hbmPut_traffic _ _ _ _ _)

theorem State.takeWay_traffic {s t : State} {free : Nat → Bool} {line w : Nat} (e : s.takeWay free line = some (t, w)) :
    s.Traffic t := by
  simp only [State.takeWay] at e
  split at e
  · cases e
  · split at e
    · cases e; exact State.dropLine_traffic s _
    · cases e; exact .refl s
    · split at e
      · cases e
      · split at e
        · cases e; exact State.evict_traffic s _
        · cases e

/-! ### Writes of agents -/

theorem State.awrValue_traffic (who : Agent × Option Nat) (l : LLine) (bs : List (Nat × Byte)) :
    s.Traffic (s.awrValue who l bs) := by
  simp only [State.awrValue]
  split
  · exact ((State.hbmFetch_traffic s _ _).trans (State.touchLine_traffic _ _)).trans (State.countServed_traffic _ _ _)
  · exact ((State.touchLine_traffic s _).trans (State.countServed_traffic _ _ _)).trans (State.hbmAsk_traffic _ _ _ _)

theorem State.awrLater_traffic (who : Agent × Option Nat) (line : Nat) (bs : List (Nat × Byte)) :
    s.Traffic (s.awrLater who line bs) := by
  simp only [State.awrLater]
  split
  · exact .of_same rfl rfl
  · split
    · exact .of_same rfl rfl
    · split
      · exact .of_same rfl rfl
      · split
        · exact .of_same rfl rfl
        · split
          · exact State.awrValue_traffic s _ _ _
          · split
            · exact State.awrValue_traffic s _ _ _
            · refine State.Traffic.trans (foldl_traffic (fun t k => ?_) _ s) (State.putLine_traffic _ _)
              exact .of_same rfl rfl

theorem State.awrLine_traffic (who : Agent × Option Nat) (line : Nat) (bs : List (Nat × Byte)) :
    s.Traffic (s.awrLine who line bs) := by
  simp only [State.awrLine]
  split
  · exact State.awrLater_traffic s _ _ _
  · split
    · split
      · exact State.awrLater_traffic s _ _ _
      next e => exact (State.takeWay_traffic e).trans (State.awrValue_traffic _ _ _ _)
    · split
      · exact (State.recall_traffic s _).trans (State.awrValue_traffic _ _ _ _)
      · exact (State.recall_traffic s _).trans (State.awrValue_traffic _ _ _ _)
      · exact (State.recall_traffic s _).trans (State.awrValue_traffic _ _ _ _)
      · exact (State.resolve_traffic s _).trans (State.awrValue_traffic _ _ _ _)
      · exact State.awrValue_traffic s _ _ _
      · exact State.awrLater_traffic s _ _ _

theorem State.slowWrite_traffic (a : Nat) (bs : List Byte) : s.Traffic (s.slowWrite a bs) := by
  have hbytes : s.Traffic (s.memWrite a bs) := .of_same rfl rfl
  exact hbytes.trans (foldl_traffic (fun t k => (State.Traffic.refl t).withHbm _) _ _)

theorem State.cohWrite_traffic (who : Agent × Option Nat) (a : Nat) (bs : List Byte) :
    s.Traffic (s.cohWrite who a bs) := by
  unfold State.cohWrite
  split
  · exact State.slowWrite_traffic s a bs
  · exact foldl_traffic (fun t x => State.awrLine_traffic t _ _ _) _ s

/-! ### Reads of agents -/

theorem State.deadRead_traffic (line : Nat) (fault : Bool) : s.Traffic (s.deadRead line fault) := by
  have hdir : Block.idx .ctxtab < Block.idx .dir := by decide
  have h := (State.latch_traffic s hdir (homeDie line) 0x800 (fun w => w ||| flag true (if fault then 22 else 23))).trans
    (State.addCount_traffic _ .dir (homeDie line) 0x804 1)
  have hnoted := fun x => h.trans (State.setSlice_traffic _ (homeDie line) x)
  simp only [State.deadRead]
  exact State.traffic_ite ((hnoted _).trans (State.raise_traffic _ _ _ _)) (hnoted _)

theorem State.ardValue_traffic {s t : State} {free : Nat → Bool} {l : LLine} {m : BitVec 4}
    (e : s.ardValue free l m = some t) : s.Traffic t := by
  simp only [State.ardValue] at e
  split at e
  · cases e
  · cases e
    exact ((State.hbmFetch_traffic s _ _).trans (State.touchLine_traffic _ _)).trans (State.countServed_traffic _ _ _)

theorem State.ardLine_traffic {s t : State} {free : Nat → Bool} {ctx : Bool} {line : Nat} {m : BitVec 4}
    (e : s.ardLine free ctx line m = some t) : s.Traffic t := by
  simp only [State.ardLine] at e
  split at e
  · cases e
  · split at e
    · obtain ⟨⟨u, w⟩, hway, hval⟩ := Option.bind_eq_some_iff.1 e
      exact (State.takeWay_traffic hway).trans (State.ardValue_traffic hval)
    · split at e
      · exact State.ardValue_traffic e
      · exact (State.snoopAll_traffic s _ shareOne_traffic).trans (State.ardValue_traffic e)
      · exact (State.snoopAll_traffic s _ shareOne_traffic).trans (State.ardValue_traffic e)
      · exact (State.resolve_traffic s _).trans (State.ardValue_traffic e)
      · split at e
        · cases e
          exact State.deadRead_traffic s _ _
        · exact (State.deadRead_traffic s _ _).trans (State.ardValue_traffic e)
      · cases e

theorem State.readSlow_traffic (a n : Nat) : s.Traffic (s.readSlow a n) :=
  State.traffic_ite (.refl s) (foldl_traffic State.readSector_traffic _ s)

/-- Steps that may have to wait, one after the other. -/
theorem foldl_bind_traffic {α : Type} {f : State → α → Option State}
    (h : ∀ (s t : State) (a : α), f s a = some t → s.Traffic t) (l : List α) {s t : State}
    (e : l.foldl (fun o a => o.bind (fun t => f t a)) (some s) = some t) : s.Traffic t := by
  refine foldl_keeps (fun o : Option State => ∀ t, o = some t → s.Traffic t) _ (fun o a ho t ht => ?_) l (some s)
    (fun t ht => ?_) t e
  · obtain ⟨u, hu, hstep⟩ := Option.bind_eq_some_iff.1 ht
    exact (ho u hu).trans (h u t a hstep)
  · cases ht
    exact .refl s

theorem State.readRange_traffic {s t : State} {free : Nat → Bool} {ctx : Bool} {a n : Nat}
    (e : s.readRange free ctx a n = some t) : s.Traffic t := by
  simp only [State.readRange] at e
  split at e
  · exact foldl_bind_traffic (fun _ _ _ h => State.ardLine_traffic h) _ e
  · cases e
    exact State.readSlow_traffic s _ _
  · cases e
    exact .refl s

theorem State.agentReads_traffic {s t : State} {ctx : Bool} {ps : List (Nat × Nat)}
    (e : s.agentReads ctx ps = some t) : s.Traffic t :=
  foldl_bind_traffic (fun _ _ _ h => State.readRange_traffic h) ps e

end
end Sys2Proof.Machine

namespace Sys2Proof.Machine

/-! ### Completion records and the end of work (R96, R145 to R147, R152, R155) -/

section
variable (s : State)

theorem State.ringWrite_traffic (c slot off : Nat) (bs : List Byte) : s.Traffic (s.ringWrite c slot off bs) := by
  simp only [State.ringWrite]
  split
  · exact ⟨⟨rfl, rfl, fun _ _ => rfl, rfl, List.suffix_cons _ _⟩, rfl⟩
  · exact State.cohWrite_traffic s _ _ _

theorem State.ctxIrq_traffic (c : Nat) : s.Traffic (s.ctxIrq c) := State.sendMsix_traffic s _ _ _

theorem State.writeEnd_traffic (c slot : Nat) (status : Byte) (irq : Bool) :
    s.Traffic (s.writeEnd c slot status irq) := by
  have h := State.ringWrite_traffic s c slot 49 [status]
  simp only [State.writeEnd]
  exact State.traffic_ite (h.trans (State.ctxIrq_traffic _ _)) h

theorem State.consume_spares (c : Nat) : s.Spares (s.consume c) := by
  have hslot : s.Spares (s.setCtx c { s.ctx c with head := ((s.ctx c).head + 1) % (s.ctx c).slots, fetched := none }) :=
    .of_face rfl
  exact hslot.trans (State.cohWrite_traffic _ _ _ _).toSpares

/-! #### The stopping of work -/

theorem State.dropEntries_traffic (job : Nat) : s.Traffic (s.dropEntries job) := by
  refine foldl_traffic (fun t d => ?_) _ s
  dsimp only
  split
  · exact .refl t
  · exact .of_same rfl rfl

theorem State.countOverdraw_traffic (w : Work) (charge : Nat) : s.Traffic (s.countOverdraw w charge) := by
  simp only [State.countOverdraw]
  exact State.traffic_ite (State.addCount_traffic s _ _ _ _) (.refl s)

theorem State.notePass_traffic (k : Nat) (e : ArrEntry) : s.Traffic (s.notePass k e) := .of_same rfl rfl

theorem State.setCore_traffic (k : Nat) (v : Core) : s.Traffic (s.setCore k v) := .of_same rfl rfl

theorem State.stopWork_traffic (w : Work) : s.Traffic (s.stopWork w) := by
  unfold State.stopWork
  split
  next l _ =>
    have hcharge : s.Traffic (if l.ended.length = l.list.length then s else s.countOverdraw w (s.chargeOf w l)) :=
      State.traffic_ite (.refl s) (State.countOverdraw_traffic s w _)
    refine (hcharge.trans (foldl_traffic (fun t k => ?_) _ _)).trans (State.dropEntries_traffic _ _)
    split
    · exact (foldl_traffic (fun u e => State.notePass_traffic u k e) _ t).trans (State.setCore_traffic _ _ _)
    · exact .refl t
  · exact State.dropEntries_traffic s w.id
  · exact .refl s
  · exact .refl s
  · exact .of_same rfl rfl

theorem State.kUncommitted_traffic (p g : Nat) (j : NarogJob) : s.Traffic (s.kUncommitted p g j) := by
  simp only [State.kUncommitted, State.kAbandon]
  split
  · split
    · exact .refl s
    · exact .of_same rfl rfl
  · exact .refl s

theorem State.setSg_traffic (g : Nat) (v : Sg) : s.Traffic (s.setSg g v) := .of_same rfl rfl

theorem State.narogEnded_traffic (w : Work) (j : NarogJob) : s.Traffic (s.narogEnded w j) := by
  have hsg : Block.idx .ctxtab < Block.idx .narogSg := by decide
  have hlatch := State.latch_traffic s hsg j.sg 0x800 (fun v =>
    (v &&& ~~~(span 19 12)) ||| place j.result 12 ||| flag (j.result ≠ 0 && !j.cast) 20)
  have hset := fun x => hlatch.trans (State.setSg_traffic _ j.sg x)
  simp only [State.narogEnded]
  refine State.traffic_ite ?_ (hset _)
  exact (((hset _).trans (State.addCount_traffic _ .narog 0 0x808 1)).trans (State.raise_traffic _ _ _ _)).trans
    (State.kUncommitted_traffic _ _ _ _)

/-! #### Work leaves the list -/

/-- A context slot but for what it has reserved. -/
def Ctx.unreserved (x : Ctx) : Ctx := { x with resv := [] }

theorem State.unreserved_unreserve (c k : Nat) (f : FrameNo) (n : Nat) :
    ((s.unreserve c f n).ctx k).unreserved = (s.ctx k).unreserved := by
  simp only [State.unreserve, State.ctx_setCtx]
  split
  next h => subst h; rfl
  next => rfl

/-- Work that ends leaves the list, with traffic for its record; cancelled work returns what it has reserved. -/
theorem State.endWork_cases (w : Work) (status : Byte) :
    ∃ r, (s.dropWork w.id).Traffic r ∧
      (s.endWork w status = r ∨ ∃ c, w.ctx = some c ∧ s.endWork w status = r.unreserve c w.frame w.units) := by
  unfold State.endWork
  extract_lets t
  have ht : (s.dropWork w.id).Traffic t := by
    simp only [t]
    split
    · exact State.narogEnded_traffic _ _ _
    all_goals exact .refl _
  split
  · exact ⟨t, ht, .inl rfl⟩
  next c hc =>
    extract_lets v u
    have hv : t.Traffic v := by
      simp only [v]
      split
      · exact State.ringWrite_traffic _ _ _ _ _
      all_goals exact .refl _
    refine ⟨u, (ht.trans hv).trans (State.writeEnd_traffic _ _ _ _ _), ?_⟩
    split
    · exact .inr ⟨c, hc, rfl⟩
    · exact .inl rfl

theorem State.endWork_spares (w : Work) (status : Byte) : s.Spares (s.endWork w status) := by
  have hdrop : s.Spares (s.dropWork w.id) := .of_face rfl
  obtain ⟨r, hr, h | ⟨c, -, h⟩⟩ := State.endWork_cases s w status
  · rw [h]
    exact hdrop.trans hr.toSpares
  · rw [h]
    exact (hdrop.trans hr.toSpares).trans (.of_face rfl)

/-- Of the context slots the end of work changes the reservations alone. -/
theorem State.unreserved_endWork (w : Work) (status : Byte) (k : Nat) :
    ((s.endWork w status).ctx k).unreserved = (s.ctx k).unreserved := by
  obtain ⟨r, hr, h | ⟨c, -, h⟩⟩ := State.endWork_cases s w status
  · rw [h, State.ctx_of_plan hr.plan]
    rfl
  · rw [h, State.unreserved_unreserve, State.ctx_of_plan hr.plan]
    rfl

/-- One piece of work of a context that stops (R152, R155). -/
def State.endCtxWork (runStatus : Byte) (t : State) (w : Work) : State :=
  if w.running then (t.stopWork w).endWork w runStatus else t.endWork w stCancelled

theorem State.stopCtxWork_eq (c : Nat) (runStatus : Byte) :
    s.stopCtxWork c runStatus = (s.works.filter (·.ctx = some c)).foldl (State.endCtxWork runStatus) s := rfl

theorem State.endCtxWork_works (runStatus : Byte) (t : State) (w : Work) :
    (State.endCtxWork runStatus t w).works = t.works.filter (·.id ≠ w.id) := by
  rw [State.endCtxWork]
  split
  · rw [State.endWork_works, State.works_of_plan (State.stopWork_plan t w)]
  · exact State.endWork_works t w _

theorem State.endCtxWork_spares (runStatus : Byte) (t : State) (w : Work) :
    t.Spares (State.endCtxWork runStatus t w) := by
  rw [State.endCtxWork]
  split
  · exact (State.stopWork_traffic t w).toSpares.trans (State.endWork_spares _ _ _)
  · exact State.endWork_spares t w _

theorem State.unreserved_endCtxWork (runStatus : Byte) (t : State) (w : Work) (k : Nat) :
    ((State.endCtxWork runStatus t w).ctx k).unreserved = (t.ctx k).unreserved := by
  rw [State.endCtxWork]
  split
  · rw [State.unreserved_endWork, State.ctx_of_plan (State.stopWork_plan t w)]
  · exact State.unreserved_endWork t w _ k

theorem State.stopCtxWork_spares (c : Nat) (runStatus : Byte) : s.Spares (s.stopCtxWork c runStatus) :=
  foldl_spares (State.endCtxWork_spares runStatus) _ s

theorem State.unreserved_stopCtxWork (c : Nat) (runStatus : Byte) (k : Nat) :
    ((s.stopCtxWork c runStatus).ctx k).unreserved = (s.ctx k).unreserved :=
  foldl_keeps (fun t : State => (t.ctx k).unreserved = (s.ctx k).unreserved) _
    (fun t w ht => (State.unreserved_endCtxWork runStatus t w k).trans ht) _ s rfl

/-- No work of the context is left. -/
theorem State.ctx_ne_of_mem_stopCtxWork {s : State} {c : Nat} {runStatus : Byte} {w : Work}
    (h : w ∈ (s.stopCtxWork c runStatus).works) : w.ctx ≠ some c := by
  rw [State.stopCtxWork_eq] at h
  obtain ⟨hmem, hne⟩ := (mem_foldl_works (State.endCtxWork_works runStatus) _ s w).1 h
  exact fun hc => hne w (List.mem_filter.2 ⟨hmem, decide_eq_true hc⟩) rfl

end
end Sys2Proof.Machine

namespace Sys2Proof.Machine

/-!
## Commands without work of their own (R145 to R149)
-/

/-! ### Bytes as numbers -/

theorem length_bytesAt (bs : List Byte) (o n : Nat) : (bytesAt bs o n).length = n := by
  simp only [bytesAt, List.length_append, List.length_replicate, List.length_take]
  omega

theorem getElem_bytesAt (bs : List Byte) (o n i : Nat) (h : i < (bytesAt bs o n).length) :
    (bytesAt bs o n)[i] = bs.getD (o + i) 0 := by
  simp only [bytesAt]
  rw [List.getElem_append]
  split
  next hlt =>
    simp only [List.length_take, List.length_drop] at hlt
    rw [List.getElem_take, List.getElem_drop, List.getD_eq_getElem _ _ (by omega)]
  next hge =>
    rw [length_bytesAt] at h
    simp only [List.length_take, List.length_drop] at hge
    rw [List.getElem_replicate, List.getD_eq_default _ _ (by omega)]

/-- Bytes of a slot one by one. -/
theorem bytesAt_eq_map (bs : List Byte) (o n : Nat) :
    bytesAt bs o n = (List.range n).map (fun i => bs.getD (o + i) 0) :=
  List.ext_getElem (by simp [length_bytesAt]) (fun i h _ => by simp [getElem_bytesAt bs o n i h])

theorem leNat_lt (bs : List Byte) : leNat bs < 256 ^ bs.length := by
  induction bs with
  | nil => decide
  | cons b t ih =>
    have hb := b.isLt
    simp only [leNat, List.length_cons, pow_succ]
    omega

theorem leAt_lt (bs : List Byte) (o n : Nat) : leAt bs o n < 256 ^ n := by
  have h := leNat_lt (bytesAt bs o n)
  rwa [length_bytesAt] at h

/-- The opcode stands in bits [31:24] of the header (R145). -/
theorem field_hdrOf (slot : List Byte) : field (hdrOf slot) 31 24 = opcodeOf slot := by
  have hword : leAt slot 0 4 = (slot.getD 0 0).toNat + 256 * ((slot.getD 1 0).toNat + 256 * ((slot.getD 2 0).toNat +
      256 * (slot.getD 3 0).toNat)) := by
    rw [leAt, bytesAt_eq_map]
    simp [List.range_succ, leNat]
  have hbyte : opcodeOf slot = (slot.getD 3 0).toNat := by
    rw [opcodeOf, leAt, bytesAt_eq_map]
    simp [List.range_succ, leNat]
  have h0 := (slot.getD 0 0).isLt
  have h1 := (slot.getD 1 0).isLt
  have h2 := (slot.getD 2 0).isLt
  have h3 := (slot.getD 3 0).isLt
  rw [field, hdrOf, BitVec.toNat_ofNat, hbyte, hword]
  omega

/-- Two contexts that agree but for their reservations. -/
theorem Ctx.eq_of_unreserved {x y : Ctx} (h : x.unreserved = y.unreserved) : ∃ r, x = { y with resv := r } :=
  ⟨x.resv, congrArg (fun z : Ctx => { z with resv := x.resv }) h⟩

section
variable {s : State} {c : Nat}

/-! ### CANCEL -/

/-- Launches of a context that CANCEL ends: not started, and of frame f or a later one (R149). -/
def State.cancelList (s : State) (c f : Nat) : List Work :=
  s.works.filter (fun w => w.ctx = some c && !w.running && w.launch?.isSome && f ≤ w.frame.toNat)

/-- The module with these launches ended. -/
def State.cancelled (s : State) (c f : Nat) : State := (s.cancelList c f).foldl (fun t w => t.endWork w stCancelled) s

theorem State.doCancel_of_good {slot : List Byte} (hbad : hdrBad (hdrOf slot) = false)
    (hzero : othersZero slot [(8, 8)] = true) :
    s.doCancel c slot = (((s.cancelled c (leAt slot 8 8)).doneNow c ((s.cancelled c (leAt slot 8 8)).ctx c).head
      (hdrOf slot) (s.cancelList c (leAt slot 8 8)).length)).consume c :=
  if_neg (by rw [hbad, hzero]; decide)

theorem State.unreserved_cancelled (s : State) (c f : Nat) :
    ((s.cancelled c f).ctx c).unreserved = (s.ctx c).unreserved :=
  foldl_keeps (fun t : State => (t.ctx c).unreserved = (s.ctx c).unreserved) _
    (fun t w ht => (State.unreserved_endWork t w _ c).trans ht) _ s rfl

theorem State.mem_cancelList {f : Nat} {v : Work} : v ∈ s.cancelList c f ↔
    v ∈ s.works ∧ v.ctx = some c ∧ v.running = false ∧ v.launch?.isSome = true ∧ f ≤ v.frame.toNat := by
  simp [State.cancelList, and_assoc]

theorem State.mem_cancelled_works {f : Nat} {v : Work} (h : v ∈ (s.cancelled c f).works) :
    v ∈ s.works ∧ v ∉ s.cancelList c f := by
  obtain ⟨hmem, hne⟩ := (mem_foldl_works (fun t w => State.endWork_works t w stCancelled) _ s v).1 h
  exact ⟨hmem, fun hv => hne v hv rfl⟩

/-! ### FENCE and TLB_INVAL -/

theorem State.doneNow_plan (s : State) (c slot : Nat) (h : Word) (n : Nat) : (s.doneNow c slot h n).plan = s.plan :=
  State.writeBoth_plan _ _ _ _ _ _ _ _

theorem State.doneOpen_plan (s : State) (c slot : Nat) (h : Word) : (s.doneOpen c slot h).plan = s.plan :=
  State.doneNow_plan _ _ _ _ _

theorem State.doFence_of_good {slot : List Byte} (hbad : hdrBad (hdrOf slot) = false)
    (hzero : othersZero slot [] = true) :
    s.doFence c slot = (s.setCtx c { s.ctx c with fence := some ((s.ctx c).head, hdrOf slot) }).consume c :=
  if_neg (by rw [hbad, hzero]; decide)

/-- A FENCE holds the fetch of later commands (R149). -/
theorem State.mayFetch_of_fence {x : Nat × Word} (h : (s.ctx c).fence = some x) : s.mayFetch c = false := by
  simp [State.mayFetch, h]

theorem State.doTlbInval_of_good {slot : List Byte} (hbad : hdrBad (hdrOf slot) = false)
    (hzero : othersZero slot [(16, 16)] = true) (hbase : leAt slot 16 8 % 4096 = 0) (hlen : leAt slot 24 8 % 4096 = 0) :
    s.doTlbInval c slot = (s.setCtx c { s.ctx c with tlbWait := (s.ctx c).tlbWait ++
      [((s.ctx c).head, hdrOf slot, leAt slot 16 8, leAt slot 24 8)] }).consume c :=
  if_neg (by simp [hbad, hzero, hbase, hlen])

/-- A page lies in a range of virtual addresses that a TLB_INVAL names. -/
theorem keepsPage_iff {base len pg : Nat} :
    (decide (pg * 4096 < base) || decide (base + len ≤ pg * 4096)) = true ↔
      pg * 4096 < base ∨ base + len ≤ pg * 4096 := by
  simp

/-! ### An unsupported opcode -/

/-- An unsupported opcode is none of the three without an end phase (R145, R146). -/
theorem hdrNoEnd_of_unknown {v : Variant} {slot : List Byte} (h : opcodeKnown v (opcodeOf slot) = false) :
    hdrNoEnd (hdrOf slot) = false := by
  rw [hdrNoEnd, field_hdrOf]
  simp only [opcodeKnown, Bool.or_eq_false_iff, Bool.and_eq_false_iff, decide_eq_false_iff_not] at h ⊢
  omega

theorem State.refuse_of_end {h : Word} (status : Byte) (hend : hdrNoEnd h = false) :
    s.refuse c h status = (((s.useFree 1).writeAdmit c (s.ctx c).head status s.freeWord.toNat (hdrIrqAdmit h)).writeEnd c
      (s.ctx c).head stNone (hdrIrqEnd h)).consume c :=
  if_neg (by rw [hend]; decide)

/-- Byte 48 of a record in a ring in host memory leaves the module (R138, R146). -/
theorem State.hostWrite_mem_writeAdmit {slot result : Nat} {status : Byte} {irq : Bool} (h : (s.ctx c).ringHost = true) :
    .hostWrite (s.ctx c).part (s.ctx c).pasid ((s.ctx c).slotAddr slot + 48) [status] ∈
      (s.writeAdmit c slot status result irq).out := by
  have hctx : (s.ringWrite c slot 56 (leBytes 8 result)).ctx c = s.ctx c :=
    State.ctx_of_plan (State.ringWrite_plan s _ _ _ _) c
  have hwrite : .hostWrite (s.ctx c).part (s.ctx c).pasid ((s.ctx c).slotAddr slot + 48) [status] ∈
      ((s.ringWrite c slot 56 (leBytes 8 result)).ringWrite c slot 48 [status]).out := by
    rw [State.ringWrite, hctx, if_pos h]
    exact List.mem_cons_self
  simp only [State.writeAdmit]
  split
  · exact (State.ctxIrq_traffic _ c).mem_out hwrite
  · exact hwrite

/-- Every later write of a refusal leaves what has left the module. -/
theorem State.hostWrite_mem_refuse {h : Word} {status : Byte} (hend : hdrNoEnd h = false)
    (hhost : (s.ctx c).ringHost = true) :
    .hostWrite (s.ctx c).part (s.ctx c).pasid ((s.ctx c).slotAddr (s.ctx c).head + 48) [status] ∈
      (s.refuse c h status).out := by
  rw [State.refuse_of_end status hend]
  exact (State.consume_spares _ _).mem_out ((State.writeEnd_traffic _ _ _ _ _).mem_out
    (State.hostWrite_mem_writeAdmit (s := s.useFree 1) hhost))

/-! ### The fetch of a slot (R138, R144, R548) -/

/-- What the fetch of a slot without a parameter record leaves, once the slot is read. -/
def State.withFetched (s : State) (c : Nat) (slot : List Byte) : State :=
  s.setCtx c { s.ctx c with fetched := some { slot := slot, aux := [] } }

theorem State.fetchAux_of_none {slot : List Byte} {resp : HostData} (h : usesAux (opcodeOf slot) = false) :
    s.fetchAux c slot resp = (.ok [] resp, none) :=
  if_neg (by rw [h]; simp)

theorem State.fetchCommand_of_slot {slot : List Byte} {resp rest : HostData}
    (h : s.fetch64 c (s.ctx c).ringHost ((s.ctx c).slotAddr (s.ctx c).head) resp = .ok slot rest)
    (haux : usesAux (opcodeOf slot) = false) : s.fetchCommand c resp = s.fetchDone c slot [] none := by
  simp only [State.fetchCommand, h, State.fetchAux_of_none haux]

/-- A slot of a ring in host memory is there with the answer of the host. -/
theorem State.fetchDone_of_host {slot : List Byte} (h : (s.ctx c).ringHost = true) :
    s.fetchDone c slot [] none = s.withFetched c slot := by
  have hreads : (s.ctx c).fetchReads none = [] := by simp [Ctx.fetchReads, h]
  simp only [State.fetchDone, Option.map_none, hreads]
  rfl

/-- A slot of a ring in device memory is there once the home slice has read it. -/
theorem State.fetchDone_of_device {slot : List Byte} (h : (s.ctx c).ringHost = false) :
    s.fetchDone c slot [] none =
      ((s.agentRead true ((s.ctx c).slotAddr (s.ctx c).head) 64).map (·.withFetched c slot)).getD s := by
  have hreads : (s.ctx c).fetchReads none = [((s.ctx c).slotAddr (s.ctx c).head, 64)] := by simp [Ctx.fetchReads, h]
  simp only [State.fetchDone, Option.map_none, hreads]
  rw [State.agentRead]
  split
  next e => rw [e]; rfl
  next r e => rw [e]; rfl

end

section
variable {s : State} {c : CtxId}

theorem execCommandFetch_of_slot {slot : List Byte} {host rest : HostData} (hm : s.mayFetch c.val = true)
    (h : s.fetch64 c.val (s.ctx c.val).ringHost ((s.ctx c.val).slotAddr (s.ctx c.val).head) host = .ok slot rest)
    (haux : usesAux (opcodeOf slot) = false) :
    exec (.commandFetch c host) s = .next (s.fetchDone c.val slot [] none) :=
  congrArg Host.Outcome.next ((if_pos hm).trans (State.fetchCommand_of_slot h haux))

end
end Sys2Proof.Machine

namespace Sys2Proof.Proofs.HostPartitionsContexts
open Sys2Proof Sys2Proof.Machine

/-- Settles O17: every command leaves its slot by `State.consume` or writes its record, which leaves the schedule; CANCEL
beside that takes the launches of its own list out of the work. -/
theorem ringCommands : Obligations.RingCommands := by
  unfold Obligations.RingCommands
  refine ⟨fun c s x hx ho hbad hzero => ?_, fun c s x hx ho hbad hzero => ?_, fun c s slot h hf hw => ?_,
    fun c s x hx ho hbad hzero hbase hlen => ?_, fun c s slot base len h rest hwait => ?_, fun c s x hx ho hhost => ?_⟩
  · have hrun : exec (.cancel c) s = .next (s.doCancel c.val x.slot) :=
      congrArg Host.Outcome.next (State.onCommand_of hx ho _)
    have hctx := State.unreserved_cancelled s c.val (leAt x.slot 8 8)
    obtain ⟨r, hr⟩ := Ctx.eq_of_unreserved hctx
    refine ⟨_, hrun, ?_, fun v hv => ?_⟩
    · rw [State.doCancel_of_good hbad hzero, State.consume_ctx, State.ctx_of_plan (State.doneNow_plan _ _ _ _ _), hr]
      rfl
    · rw [State.doCancel_of_good hbad hzero, State.consume_works, State.works_of_plan (State.doneNow_plan _ _ _ _ _)] at hv
      obtain ⟨hmem, hnot⟩ := State.mem_cancelled_works hv
      exact ⟨hmem, fun hmatch => hnot (State.mem_cancelList.2 ⟨hmem, hmatch⟩)⟩
  · have hrun : exec (.fence c) s = .next (s.doFence c.val x.slot) :=
      congrArg Host.Outcome.next (State.onCommand_of hx ho _)
    rw [State.doFence_of_good hbad hzero] at hrun
    have hctx := State.consume_ctx (s.setCtx c.val { s.ctx c.val with fence := some ((s.ctx c.val).head, hdrOf x.slot) })
      c.val
    rw [State.ctx_setCtx_same] at hctx
    have hfence := congrArg Ctx.fence hctx
    exact ⟨_, hrun, hfence, congrArg Ctx.head hctx, State.mayFetch_of_fence hfence, State.consume_works _ _⟩
  · refine ⟨_, congrArg Host.Outcome.next (by simp only [hf, hw, if_true]; rfl), ?_, ?_⟩
    · rw [State.ctx_of_plan (State.doneOpen_plan _ _ _ _), State.ctx_setCtx_same]
    · rw [State.works_of_plan (State.doneOpen_plan _ _ _ _), State.setCtx_works]
  · have hrun : exec (.tlbInval c) s = .next (s.doTlbInval c.val x.slot) :=
      congrArg Host.Outcome.next (State.onCommand_of hx ho _)
    rw [State.doTlbInval_of_good hbad hzero hbase hlen] at hrun
    refine ⟨_, hrun, ?_, ?_⟩
    · rw [State.consume_ctx, State.ctx_setCtx_same]
    · rw [State.consume_ctx, State.ctx_setCtx_same]
      rfl
  · refine ⟨_, congrArg Host.Outcome.next (by simp only [hwait]; rfl), ?_, fun pg hlo hhi => ?_, fun pg hout => ?_⟩
    · rw [State.ctx_of_plan (State.doneOpen_plan _ _ _ _), State.ctx_setCtx_same]
    · rw [State.ctx_of_plan (State.doneOpen_plan _ _ _ _), State.ctx_setCtx_same]
      refine Tab.get_filter_drop _ _ (fun pg => pg * 4096 < base || base + len ≤ pg * 4096) ?_
      exact Bool.eq_false_iff.2 fun h => by have := keepsPage_iff.1 h; omega
    · rw [State.ctx_of_plan (State.doneOpen_plan _ _ _ _), State.ctx_setCtx_same]
      exact Tab.get_filter_keep _ _ (fun pg => pg * 4096 < base || base + len ≤ pg * 4096) (keepsPage_iff.2 hout)
  · have hrun : exec (.badOpcodeCommand c) s = .next (s.refuse c.val (hdrOf x.slot) 0x10) := by
      refine congrArg Host.Outcome.next ?_
      simp only [hx]
      exact if_neg (by rw [ho]; decide)
    obtain ⟨hworks, hhead, -⟩ := s.turnsAway_refuse c.val (hdrOf x.slot) 0x10
    exact ⟨_, hrun, hworks, hhead, State.hostWrite_mem_refuse (hdrNoEnd_of_unknown ho) hhost⟩

/-- Settles O18: the slot comes with the host's answer, or with the read of the home slice, which leaves the schedule. -/
theorem commandFetch : Obligations.CommandFetch := by
  unfold Obligations.CommandFetch
  refine ⟨fun c host s hm hring hats haux => ?_, fun c host s hm hring hfault haux => ?_⟩
  · have hslot : s.fetch64 c.val (s.ctx c.val).ringHost ((s.ctx c.val).slotAddr (s.ctx c.val).head) host =
        .ok (bytesAt (host.headD []) 0 64) host.tail := by
      rw [State.fetch64, if_pos hring, if_pos hats]
    have hrun := execCommandFetch_of_slot hm hslot haux
    rw [State.fetchDone_of_host hring] at hrun
    exact ⟨_, hrun, congrArg Ctx.fetched (State.ctx_setCtx_same _ _ _), rfl⟩
  · have hslot : s.fetch64 c.val (s.ctx c.val).ringHost ((s.ctx c.val).slotAddr (s.ctx c.val).head) host =
        .ok (s.devRead ((s.ctx c.val).slotAddr (s.ctx c.val).head) 64) host := by
      rw [State.fetch64, if_neg (by rw [hring]; decide), hfault]
    have hrun := execCommandFetch_of_slot hm hslot haux
    rw [State.fetchDone_of_device hring] at hrun
    refine ⟨fun u hu => ?_, fun hnone => ?_⟩
    · rw [hu] at hrun
      have hnext : exec (.commandFetch c host) s =
          .next (u.withFetched c.val (s.devRead ((s.ctx c.val).slotAddr (s.ctx c.val).head) 64)) := hrun
      have hplan := (State.agentReads_traffic hu).plan
      exact ⟨_, hnext, congrArg Ctx.fetched (State.ctx_setCtx_same _ _ _),
        (State.setCtx_works _ _ _).trans (State.works_of_plan hplan),
        (State.setCtx_fr _ _ _).trans (State.fr_of_plan hplan)⟩
    · rw [hnone] at hrun
      exact hrun

end Sys2Proof.Proofs.HostPartitionsContexts

namespace Sys2Proof.Machine

/-!
## Items of a partition and its measurement (R130, R131, R135, R532)
-/

section
variable (s : State) (p : Nat)

@[simp] theorem State.part_touch (q : Nat) : (s.touch p).part q = s.part q := by
  obtain ⟨c, hc⟩ := State.touch_eq s p
  rw [hc, State.part, State.part]

@[simp] theorem State.part_mbxBegin (r : MbxReq) (b : Block) (item : Nat) (err : BitVec 2) (ws : List Word) (q : Nat) :
    (s.mbxBegin r b item err ws).part q = s.part q := rfl

@[simp] theorem State.sec_mbxBegin (r : MbxReq) (b : Block) (item : Nat) (err : BitVec 2) (ws : List Word) :
    (s.mbxBegin r b item err ws).sec = s.sec := rfl

/-- A grant of HBM is refused as a whole, or taken as a whole (R131). -/
theorem State.grantHbm_cases (new : Nat) :
    s.grantHbm p new = (errBadCmd, [], s) ∨
      s.grantHbm p new = (errDone, [], (s.setPart p { s.part p with hbm := BitVec.ofNat 432 new }).touch p) := by
  simp only [State.grantHbm]
  split
  · exact .inl rfl
  · exact .inr rfl

theorem State.grantHbm_of_done {new : Nat} (h : (s.grantHbm p new).1 = errDone) :
    s.grantHbm p new = (errDone, [], (s.setPart p { s.part p with hbm := BitVec.ofNat 432 new }).touch p) := by
  rcases State.grantHbm_cases s p new with hbad | hdone
  · rw [hbad] at h
    exact absurd h (show ¬errBadCmd = errDone by decide)
  · exact hdone

theorem State.grantHbm_of_refused {new : Nat} (h : (s.grantHbm p new).1 ≠ errDone) :
    s.grantHbm p new = (errBadCmd, [], s) := by
  rcases State.grantHbm_cases s p new with hbad | hdone
  · exact hbad
  · rw [hdone] at h
    exact absurd rfl h

/-- A write of an item that grants HBM, with the granules it names. -/
def State.hbmItem (r : MbxReq) (item new : Nat) : State :=
  (s.grantHbm p new).2.2.mbxBegin r .puppeteer item (s.grantHbm p new).1 (s.grantHbm p new).2.1

/-- The item of a granted write: its outcome, the partition's granules and its mark (R130, R532). -/
theorem State.grantHbm_mbxBegin {new : Nat} (h : (s.grantHbm p new).1 = errDone) (r : MbxReq) (item : Nat) :
    let t := s.hbmItem p r item new
    (t.copyOf r.req r.win .puppeteer).result = (errDone, []) ∧ (t.part p).hbm = BitVec.ofNat 432 new ∧
      p ∈ t.sec.touched := by
  rw [State.hbmItem, State.grantHbm_of_done s p h]
  dsimp only
  refine ⟨?_, ?_, ?_⟩
  · rw [State.copyOf_mbxBegin]
  · rw [State.part_mbxBegin, State.part_touch, State.part_setPart_same]
  · rw [State.sec_mbxBegin]
    exact State.mem_touched_touch _ p

/-- No used entry names a vector beyond the function's table. -/
theorem evtEntry_any_bad {e : BitVec 256} {n : Nat}
    (h : (List.range 16).all (fun k => evtEntry e k / 32768 = 0 || evtEntry e k % 2048 < n) = true) :
    (List.range 16).any (fun k => evtEntry e k / 32768 = 1 && n ≤ evtEntry e k % 2048) = false := by
  simp only [List.all_eq_true, List.any_eq_false, Bool.or_eq_true, Bool.and_eq_true, decide_eq_true_eq] at h ⊢
  intro k hk hbad
  have := h k hk
  omega

/-! ### The measurement of a partition -/

theorem State.measurement_of_range {i : Nat} (hlo : 16 ≤ i) (hhi : i < 48) :
    s.measurement i = some (Tab.get (measReset (i - 16)) s.sec.meas (i - 16)) := by
  have h0 : ¬i = 0 := by omega
  have h1 : ¬i = 1 := by omega
  have h2 : ¬i = 2 := by omega
  have h3 : ¬i = 3 := by omega
  have hrange : (decide (16 ≤ i) && decide (i < 48)) = true := by simp [hlo, hhi]
  simp only [State.measurement, h0, h1, h2, h3, hrange, if_false, if_true]

theorem State.measurement_part {p : Nat} (hp : p < 32) :
    s.measurement (16 + p) = some (Tab.get (measReset p) s.sec.meas p) := by
  have h := State.measurement_of_range s (i := 16 + p) (by omega) (by omega)
  have hsub : 16 + p - 16 = p := by omega
  rwa [hsub] at h

/-- The security engine with other marks and measurements. -/
def SecState.withMeas (c : SecState) (l : List Nat) (m : Tab (List Byte)) : SecState := { c with touched := l, meas := m }

/-- The security engine with another GENERATION. -/
def SecState.withGeneration (c : SecState) (n : Nat) : SecState := { c with generation := n }

theorem SecState.withMeas_touched (c : SecState) (l : List Nat) (m : Tab (List Byte)) : (c.withMeas l m).touched = l := rfl

theorem SecState.withMeas_meas (c : SecState) (l : List Nat) (m : Tab (List Byte)) : (c.withMeas l m).meas = m := rfl

theorem SecState.withMeas_generation (c : SecState) (l : List Nat) (m : Tab (List Byte)) :
    (c.withMeas l m).generation = c.generation := rfl

theorem SecState.withGeneration_touched (c : SecState) (n : Nat) : (c.withGeneration n).touched = c.touched := rfl

theorem SecState.withGeneration_meas (c : SecState) (n : Nat) : (c.withGeneration n).meas = c.meas := rfl

theorem SecState.withGeneration_generation (c : SecState) (n : Nat) : (c.withGeneration n).generation = n := rfl

theorem SecState.withGeneration_self (c : SecState) : c.withGeneration c.generation = c := rfl

/-- A change of a measurement counts in GENERATION and leaves the rest of the security engine (R532). -/
theorem State.measChanged_sec : s.measChanged.sec = s.sec.withGeneration ((s.sec.generation + 1) % 2 ^ 64) :=
  (State.raise_traffic _ .sec 0 0x8004).sec

/-- The security engine with the partition's new measurement, and without its mark. -/
def State.remeasuredSec : SecState :=
  s.sec.withMeas (s.sec.touched.filter (· ≠ p)) (Tab.set (measReset p) s.sec.meas p (s.measureNow p))

/-- The recomputation of a measurement changes the security engine, and GENERATION with a measurement that changes. -/
theorem State.remeasure_sec : (s.remeasure p).sec = (s.remeasuredSec p).withGeneration
    (if s.measureNow p = Tab.get (measReset p) s.sec.meas p then s.sec.generation
      else (s.sec.generation + 1) % 2 ^ 64) := by
  by_cases h : s.measureNow p = Tab.get (measReset p) s.sec.meas p
  · have hsame : s.remeasure p = { s with sec := s.remeasuredSec p } := if_pos h
    rw [if_pos h, hsame, State.remeasuredSec, ← SecState.withMeas_generation s.sec, SecState.withGeneration_self]
  · have hchanged : s.remeasure p = ({ s with sec := s.remeasuredSec p } : State).measChanged := if_neg h
    rw [if_neg h, hchanged, State.measChanged_sec, State.remeasuredSec, SecState.withMeas_generation]

end
end Sys2Proof.Machine

namespace Sys2Proof.Proofs.HostPartitionsContexts
open Sys2Proof Sys2Proof.Machine

/-- Settles O20: an accepted item runs its own rule, which takes a grant as a whole or refuses it; a measurement is taken
from the grants as they stand. -/
theorem partitionItems : Obligations.PartitionItems := by
  unfold Obligations.PartitionItems
  refine ⟨fun r s p ws h hwin hdone => ?_, fun r s p ws h hwin hbad => ?_,
    fun r s p ws => ⟨fun h => ?_, fun h => ?_, fun h => ?_⟩,
    fun r s p ws h => ⟨fun q hwin => ?_, fun hwin hlen hdone => ?_⟩, fun r s p ws h hgood => ?_, fun p s h => ?_⟩
  · have hrun : exec (.grantHbmLo r) s = .next (s.hbmItem p r 0x10
        ((s.part p).hbm.toNat / 2 ^ 256 * 2 ^ 256 + natOf ws)) := by
      refine congrArg Host.Outcome.next ((State.mbxRun_asks h).trans ?_)
      simp only [hwin, if_true]
      rfl
    exact ⟨_, hrun, State.grantHbm_mbxBegin s p hdone r 0x10⟩
  · refine congrArg Host.Outcome.next ((State.mbxRun_asks h).trans ?_)
    simp only [hwin, if_true, State.grantHbm_of_refused s p hbad]
  · exact congrArg Host.Outcome.next (State.mbxRun_asks h)
  · exact congrArg Host.Outcome.next (State.mbxRun_asks h)
  · exact congrArg Host.Outcome.next (State.mbxRun_asks h)
  · refine congrArg Host.Outcome.next ((State.mbxRun_asks h).trans ?_)
    simp only [hwin, if_true]
    rfl
  · have hrun : exec (.grantHbmHi r) s = .next (s.hbmItem p r 0x11
        ((s.part p).hbm.toNat % 2 ^ 256 + natOf ws * 2 ^ 256)) := by
      refine congrArg Host.Outcome.next ((State.mbxRun_asks h).trans ?_)
      simp only [hwin, hlen, if_true]
      rfl
    obtain ⟨hresult, hhbm, -⟩ := State.grantHbm_mbxBegin s p hdone r 0x11
    exact ⟨_, hrun, hresult, hhbm⟩
  · refine congrArg Host.Outcome.next ((State.mbxRun_asks h).trans ?_)
    simp only [if_true, evtEntry_any_bad hgood]
    rfl
  · have hrun : exec (.measurementRecompute p) s = .next (s.remeasure p.val) := congrArg Host.Outcome.next (if_pos h)
    refine ⟨_, hrun, ?_, ?_, ?_⟩
    · rw [State.remeasure_sec, SecState.withGeneration_touched, State.remeasuredSec, SecState.withMeas_touched]
      simp
    · rw [State.measurement_part _ p.isLt, State.remeasure_sec, SecState.withGeneration_meas, State.remeasuredSec,
        SecState.withMeas_meas, Tab.get_set_same]
    · rw [State.remeasure_sec, SecState.withGeneration_generation]

end Sys2Proof.Proofs.HostPartitionsContexts

namespace Sys2Proof.Machine

/-!
## Accesses of the host (R120 to R127, R143, R144, R352, R506)
-/

section
variable {s : State}

/-! ### BAR4 -/

section
variable {f o n : Nat} {ps : List (Nat × Nat)}

theorem State.bar4Read_of_unmapped (h : s.bar4Map f o n = none) : s.bar4Read f o n = s.emit (.unsupported f) := by
  simp only [State.bar4Read, State.bar4Try, h, Option.getD_some]

theorem State.bar4Read_of_mapped (h : s.bar4Map f o n = some ps) {u : State} (hu : s.agentReads false ps = some u) :
    s.bar4Read f o n = if ps.any (fun p => s.rangePoison p.1 p.2) then (u.emit (.bar4Poison f)).logAer f o n
      else u.emit (.bar4Data f (ps.flatMap (fun p => s.cohRead p.1 p.2))) := by
  simp only [State.bar4Read, State.bar4Try, h, hu, Option.map_some, Option.getD_some]

theorem State.bar4Read_of_waiting (h : s.bar4Map f o n = some ps) (hu : s.agentReads false ps = none) :
    s.bar4Read f o n = { s with pci := { s.pci with reads := s.pci.reads ++ [(f, o, n)] } } := by
  simp only [State.bar4Read, State.bar4Try, h, hu, Option.map_none, Option.getD_none]

theorem State.logAer_nonFatal (s : State) (f o n : Nat) : (Tab.get {} (s.logAer f o n).pci.aer f).nonFatal = true := by
  simp only [State.logAer, State.emit, Tab.get_set_same]

/-- The header of the first request that met an error stays (R119). -/
theorem State.logAer_header (s : State) (f o n : Nat) (h : (Tab.get {} s.pci.aer f).nonFatal = false) :
    (Tab.get {} (s.logAer f o n).pci.aer f).header = some (o, n) := by
  simp only [State.logAer, State.emit, Tab.get_set_same]
  exact if_neg (by rw [h]; decide)

variable {bs : List Byte}

theorem State.bar4Write_of_unmapped (h : s.bar4Map f o bs.length = none) : s.bar4Write f o bs = s.logAer f o bs.length := by
  simp only [State.bar4Write, h]

theorem State.bar4Write_of_one {a : Nat} (h : s.bar4Map f o bs.length = some [(a, bs.length)]) :
    s.bar4Write f o bs = s.cohWrite (.bar4, none) a bs := by
  simp only [State.bar4Write, h, List.foldl_cons, List.foldl_nil, List.take_length]

theorem State.bar4Write_of_two {a b n : Nat} (h : s.bar4Map f o bs.length = some [(a, n), (b, bs.length - n)]) :
    s.bar4Write f o bs = (s.cohWrite (.bar4, none) a (bs.take n)).cohWrite (.bar4, none) b (bs.drop n) := by
  have hrest : (bs.drop n).take (bs.length - n) = bs.drop n := List.take_of_length_le (by rw [List.length_drop])
  simp only [State.bar4Write, h, List.foldl_cons, List.foldl_nil, hrest]

end

/-- The physical function and the management core reach BAR4_BASE unless the endpoint is in reset (R125). -/
theorem State.reaches_bar4Base {r : Req} (hears : s.hears r .pcie = true) (hr : r.val = 0 ∨ r.val = 32)
    (hup : s.inReset .pcie 0 = false) (hinst : (s.copyOf r .glob .pcie).inst = 0) :
    s.reaches r .glob .pcie 0 0x100 := by
  have hpage : pageOk r .glob .pcie = true := by
    rcases hr with hr | hr <;> simp [pageOk, Machine.reaches, hr, pageExists]
  have hsel : s.selInst r .glob .pcie = some 0 := by
    rw [State.selInst, hears, hpage, hinst]
    rfl
  refine ⟨hears, hpage, rfl, hsel, ?_, rfl⟩
  rw [State.shows, hup]
  rfl

/-! ### BAR2 -/

theorem field_18 (v : Word) : field v 17 0 = v.toNat % 2 ^ 18 := by
  rw [field, pow_zero, Nat.div_one]

/-- Doorbell pages of a function (R123). -/
def doorbellPages (f : Nat) : Nat := if f = 0 then 3072 else 768

theorem State.bar2Write_of_page {f i : Nat} {v : Word} (hcount : i < s.ctxCount f) (hpage : i < doorbellPages f) :
    s.bar2Write f (4096 * i) v = s.doorbell (s.ctxBase f + i) v := by
  have hlt : 4096 * i < doorbellPages f * 4096 := by omega
  have hmod : 4096 * i % 4096 = 0 := Nat.mul_mod_right _ _
  have hdiv : 4096 * i / 4096 = i := Nat.mul_div_cancel_left _ (by decide)
  refine (if_pos hlt).trans ((if_pos ?_).trans ?_)
  · rw [hmod, hdiv]
    simpa using hcount
  · rw [hdiv]

/-- A doorbell page of no context takes no write (R123). -/
theorem State.bar2Write_of_no_ctx {f o : Nat} {v : Word} (hcount : s.ctxCount f ≤ o / 4096)
    (hpage : o < doorbellPages f * 4096) : s.bar2Write f o v = s := by
  refine (if_pos hpage).trans (if_neg ?_)
  simp only [Bool.and_eq_true, decide_eq_true_eq]
  omega

theorem State.bar2Write_of_table {f o : Nat} {v : Word} (ho : o < 16 * msixSize f) (h4 : o % 4 = 0) :
    s.bar2Write f (doorbellPages f * 4096 + o) v = s.msixWrite f o v := by
  have hsub : doorbellPages f * 4096 + o - (if f = 0 then 3072 else 768) * 4096 = o := Nat.add_sub_cancel_left _ _
  have hmod : (doorbellPages f * 4096 + o) % 4 = 0 := by omega
  refine (if_neg (Nat.not_lt.2 (Nat.le_add_right _ _))).trans ((if_pos ?_).trans ?_)
  · rw [hsub]
    simp [ho, hmod]
  · rw [hsub]

/-- A context that takes doorbells (R143). -/
theorem State.doorbell_of_open {c : Nat} {v : Word} (h : (s.ctx c).st = .active ∨ (s.ctx c).st = .stopped) :
    s.doorbell c v = if v.toNat % 2 ^ 18 < (s.ctx c).slots then s.setCtx c { s.ctx c with tail := v.toNat % 2 ^ 18 }
      else s.latch .ctxtab c 0x800 (· ||| flag true 18) := by
  rw [← field_18]
  rcases h with h | h
  all_goals simp only [State.doorbell, h]

theorem State.doorbell_of_shut {c : Nat} {v : Word} (h : ¬((s.ctx c).st = .active ∨ (s.ctx c).st = .stopped)) :
    s.doorbell c v = s := by
  simp only [State.doorbell]
  cases hst : (s.ctx c).st with
  | active => exact absurd (.inl hst) h
  | stopped => exact absurd (.inr hst) h
  | destroying => rfl
  | clearing => rfl
  | free => rfl

theorem State.sendMsix_table (s : State) (f v : Nat) (why : Option Nat) :
    (s.sendMsix f v why).pci.msixTable = s.pci.msixTable := by
  simp only [State.sendMsix]
  split
  · rfl
  · split
    · rfl
    · split <;> rfl

/-- An unmasked vector sends what it holds: a message, and no change of the table (R136). -/
theorem State.flushVector_eq (s : State) (f v : Nat) :
    ∃ p o, s.flushVector f v = { s with pci := p, out := o } ∧ p.msixTable = s.pci.msixTable := by
  rw [State.flushVector]
  split
  · have htable := State.sendMsix_table ({ s with pci := { s.pci with pba := Tab.del (msixKey f v) s.pci.pba } }) f v none
    obtain ⟨p, o, h⟩ :=
      State.sendMsix_eq ({ s with pci := { s.pci with pba := Tab.del (msixKey f v) s.pci.pba } }) f v none
    rw [h] at htable ⊢
    exact ⟨p, o, rfl, htable⟩
  · exact ⟨s.pci, s.out, rfl, rfl⟩

/-! ### Configuration requests -/

/-- Every request of the configuration space is answered, but for a discovery through a virtual function (R119). -/
theorem State.configOp_answers (s : State) (f : Nat) (op : CfgOp) (h : (∀ i, op ≠ .doeDiscovery i) ∨ f = 0) :
    ∃ v, (s.configOp f op).out.head? = some (.cfgDone f v) := by
  cases op with
  | read reg =>
    cases hreg : s.configWord f reg with
    | some v => exact ⟨v, by simp only [State.configOp, hreg]; rfl⟩
    | none => exact ⟨s.freeWord, by simp only [State.configOp, hreg]; rfl⟩
  | doeDiscovery i =>
    have hf : f = 0 := h.resolve_left fun hne => hne i rfl
    exact ⟨0, by rw [State.configOp, if_pos hf]; rfl⟩
  | msixControl => exact ⟨0, rfl⟩
  | vfControl => exact ⟨0, rfl⟩
  | powerState => exact ⟨0, rfl⟩
  | bar4Size => exact ⟨0, rfl⟩
  | aerClear => exact ⟨0, rfl⟩
  | linkTrain => exact ⟨0, rfl⟩
  | errors => exact ⟨0, rfl⟩
  | other => exact ⟨0, rfl⟩

theorem State.configOp_read {f : Nat} {reg : CfgReg} {v : Word} (h : s.configWord f reg = some v) :
    s.configOp f (.read reg) = s.emit (.cfgDone f v) := by
  simp only [State.configOp, h]

end

section
variable {f : Fun} {s : State}

theorem execBar4Read_of_ok (h : s.hostOk f.val = true) (o : BitVec 36) (n : BitVec 13) :
    exec (.bar4Read f o n) s = .next (s.bar4Read f.val o.toNat n.toNat) := congrArg Host.Outcome.next (if_pos h)

theorem execBar4Write_of_ok (h : s.hostOk f.val = true) (o : BitVec 36) (bs : List Byte) :
    exec (.bar4Write f o bs) s = .next (s.bar4Write f.val o.toNat bs) := congrArg Host.Outcome.next (if_pos h)

theorem execDoorbellWrite_of_ok (h : s.hostOk f.val = true) (o : BitVec 24) (v : Word) :
    exec (.doorbellWrite f o v) s = .next (s.bar2Write f.val o.toNat v) := congrArg Host.Outcome.next (if_pos h)

theorem execConfigRequest_of_ready (op : CfgOp) (h : s.ready = true) : exec (.configRequest f op) s =
    .next (if s.fnEnabled f.val then s.configOp f.val op else s.emit (.unsupported f.val)) :=
  congrArg Host.Outcome.next (if_neg (by rw [h]; decide))

theorem execConfigRequest_of_enabled (op : CfgOp) (h : s.ready = true) (hf : s.fnEnabled f.val = true) :
    exec (.configRequest f op) s = .next (s.configOp f.val op) :=
  (execConfigRequest_of_ready op h).trans (congrArg Host.Outcome.next (if_pos hf))

end
end Sys2Proof.Machine

namespace Sys2Proof.Proofs.HostPartitionsContexts
open Sys2Proof Sys2Proof.Machine

/-- Settles O21: an access that is heard goes to the rule of its BAR; the reads of a slice leave the schedule. -/
theorem hostAccesses : Obligations.HostAccesses := by
  unfold Obligations.HostAccesses
  refine ⟨fun f o n s hok => ?_, fun f o bs s hok => ?_, fun f o n bs off v s hdeaf => ?_,
    fun r v s hhears hr hup hinst => ?_, fun f i off v s hok hcount hpage hoff => ?_, fun f off v s hok hcount hpage => ?_,
    fun f off v s o hok hoff ho h4 => ?_, fun f s => rfl, fun f op s => ?_⟩
  · rw [execBar4Read_of_ok hok]
    refine ⟨fun h => ?_, fun ps u h hu hclean => ?_, fun ps u h hu hpoison => ?_, fun ps h hu => ?_⟩
    · rw [State.bar4Read_of_unmapped h]
    · have hplan := (State.agentReads_traffic hu).plan
      rw [State.bar4Read_of_mapped h hu, if_neg (by rw [hclean]; decide)]
      exact ⟨_, rfl, rfl, State.works_of_plan hplan, congrArg Plan.ctxs hplan, State.fr_of_plan hplan⟩
    · rw [State.bar4Read_of_mapped h hu, if_pos hpoison]
      exact ⟨_, rfl, rfl, State.logAer_nonFatal _ _ _ _, rfl⟩
    · rw [State.bar4Read_of_waiting h hu]
  · rw [execBar4Write_of_ok hok]
    refine ⟨fun h => ?_, fun a h => ?_, fun a b n _ h => ?_⟩
    · rw [State.bar4Write_of_unmapped h]
      exact ⟨_, rfl, rfl, State.logAer_nonFatal _ _ _ _, State.logAer_header _ _ _ _, rfl⟩
    · rw [State.bar4Write_of_one h]
    · rw [State.bar4Write_of_two h]
  · have hno : ¬s.hostOk f.val = true := by rw [hdeaf]; decide
    exact ⟨congrArg Host.Outcome.next (if_neg hno), congrArg Host.Outcome.next (if_neg hno),
      congrArg Host.Outcome.next (if_neg hno)⟩
  · exact congrArg Host.Outcome.next (State.writeReg_of_reaches v (State.reaches_bar4Base hhears hr hup hinst))
  · rw [execDoorbellWrite_of_ok hok, hoff, State.bar2Write_of_page hcount hpage]
    refine ⟨fun hopen hn => ?_, fun hopen hn => ?_, fun hshut => ?_⟩
    · rw [State.doorbell_of_open hopen, if_pos hn]
    · rw [State.doorbell_of_open hopen, if_neg (Nat.not_lt.2 hn)]
      refine ⟨_, rfl, rfl, ?_⟩
      rw [State.sq_latch_same]
      exact bit_or_flag_same _ 18 (by decide)
    · rw [State.doorbell_of_shut hshut]
  · rw [execDoorbellWrite_of_ok hok, State.bar2Write_of_no_ctx hcount hpage]
  · have hwrite := State.bar2Write_of_table (s := s) (f := f.val) (v := v) ho h4
    obtain ⟨p, out, heq, htable⟩ := State.flushVector_eq ({ s with pci := { s.pci with
      msixTable := Tab.set (msixDefault o) s.pci.msixTable (f.val * 65536 + o) v } }) f.val (o / 16)
    have hrun : exec (.doorbellWrite f off v) s = .next { s with pci := p, out := out } := by
      rw [execDoorbellWrite_of_ok hok, hoff]
      exact congrArg Host.Outcome.next (hwrite.trans heq)
    refine ⟨_, hrun, ?_, rfl⟩
    rw [htable]
    exact Tab.get_set_same _ _ _ _
  · refine ⟨fun hoff => ?_, fun hready hno => ?_, fun hready hf hop => ?_, fun i hop hready hf => ?_,
      fun reg v hop hv hready hf => ?_, fun d3 hop hready hf => ?_⟩
    · exact congrArg Host.Outcome.next (if_pos (by rw [hoff]; decide))
    · rw [execConfigRequest_of_ready op hready, if_neg (by rw [hno]; decide)]
    · obtain ⟨v, hv⟩ := State.configOp_answers s f.val op hop
      exact ⟨_, v, execConfigRequest_of_enabled op hready hf, hv⟩
    · subst hop
      rw [execConfigRequest_of_enabled _ hready hf, State.configOp]
      split
      next h0 => rw [h0]
      next => rfl
    · subst hop
      rw [execConfigRequest_of_enabled _ hready hf, State.configOp_read hv]
    · subst hop
      exact ⟨_, execConfigRequest_of_enabled _ hready hf, Tab.get_set_same _ _ _ _, rfl⟩

end Sys2Proof.Proofs.HostPartitionsContexts

namespace Sys2Proof.Machine

/-!
## Translations and the resets of functions (R119, R133, R151)
-/

/-- What one element of a list establishes, and every element keeps, holds after the fold over the list. -/
theorem foldl_establishes {α β : Type} {P : β → Prop} {f : β → α → β} {l : List α} {a : α} (ha : a ∈ l)
    (hest : ∀ b, P (f b a)) (hkeep : ∀ x ∈ l, ∀ b, P b → P (f b x)) (b : β) : P (l.foldl f b) := by
  induction l generalizing b with
  | nil => exact absurd ha List.not_mem_nil
  | cons x t ih =>
    have hrest : ∀ y ∈ t, ∀ b, P b → P (f b y) := fun y hy => hkeep y (List.mem_cons_of_mem _ hy)
    rcases List.mem_cons.1 ha with rfl | hat
    · exact List.foldlRecOn t f (hest b) fun c hc y hy => hrest y hy c hc
    · exact ih hat hrest _

section
variable (s : State)

/-! ### A fault stops a context (R144, R151, R152) -/

/-- The fault of a context is latched and raised (R152). -/
def State.reportCtxFault (c : Nat) (code : BitVec 16) : State :=
  (s.latch .ctxtab c 0x800 (ctxFaultBits code)).raise .ctxtab c code

theorem State.reportCtxFault_plan (c : Nat) (code : BitVec 16) : (s.reportCtxFault c code).plan = s.plan :=
  (State.raise_traffic _ .ctxtab c code).plan

theorem State.sq_reportCtxFault (c : Nat) (code : BitVec 16) :
    (s.reportCtxFault c code).sq .ctxtab c 0x800 = ctxFaultBits code (s.sq .ctxtab c 0x800) :=
  (State.sq_raiseAt _ _ _ _ _ _ _ _).trans (State.sq_latch_same _ _ _ _ _)

theorem bit_ctxFaultBits (code : BitVec 16) (o : Word) : bit (ctxFaultBits code o) 20 = true :=
  bit_or_of_bit (bit_or_flag_same _ 20 (by decide)) _

/-- The code of the fault stands in bits [15:0]: what stood there is cleared, and bit 20 lies above (R152). -/
theorem setWidth_ctxFaultBits (code : BitVec 16) (o : Word) : (ctxFaultBits code o).setWidth 16 = code := by
  have hspan : (~~~(span 15 0)).setWidth 16 = (0 : BitVec 16) := by decide
  have hflag : (flag true 20).setWidth 16 = (0 : BitVec 16) := by decide
  have hcode : (BitVec.setWidth 32 code).setWidth 16 = code := by simp
  rw [ctxFaultBits, BitVec.setWidth_or, BitVec.setWidth_or, BitVec.setWidth_and, hspan, hflag, hcode]
  simp

theorem field_ctxFaultBits (code : BitVec 16) (o : Word) : field (ctxFaultBits code o) 15 0 = code.toNat := by
  have h := congrArg BitVec.toNat (setWidth_ctxFaultBits code o)
  rw [BitVec.toNat_setWidth] at h
  rw [field, pow_zero, Nat.div_one]
  exact h

variable {s} in
theorem State.ctxFault_of_active {c : Nat} {code : BitVec 16} (h : (s.ctx c).st = .active) :
    s.ctxFault c code = (((s.reportCtxFault c code).setCtx c { s.ctx c with
      st := .stopped, fetched := none, atsWait := none }).noteFallen c).stopCtxWork c stFaulted := by
  have hctx : (s.reportCtxFault c code).ctx c = s.ctx c := State.ctx_of_plan (State.reportCtxFault_plan s c code) c
  rw [← hctx]
  simp only [State.ctxFault, h]
  rfl

variable {s} in
theorem State.ctxFault_of_destroying {c : Nat} {code : BitVec 16} (h : (s.ctx c).st = .destroying) :
    s.ctxFault c code = ((s.reportCtxFault c code).noteFallen c).stopCtxWork c stCancelled := by
  simp only [State.ctxFault, h]
  rfl

/-- What a stop of a context's work leaves of its slot and its status. -/
theorem State.stopCtxWork_ctx (c : Nat) (runStatus : Byte) (k : Nat) :
    ∃ r, (s.stopCtxWork c runStatus).ctx k = { s.ctx k with resv := r } :=
  Ctx.eq_of_unreserved (State.unreserved_stopCtxWork s c runStatus k)

/-- The status of a context after its fault, in the words of R152. -/
theorem State.status_of_fault {t : State} {c : Nat} {code : BitVec 16} {runStatus : Byte} (hc : c < 65536)
    (ht : t.sq .ctxtab c 0x800 = ctxFaultBits code (s.sq .ctxtab c 0x800)) :
    bit ((t.stopCtxWork c runStatus).sq .ctxtab c 0x800) 20 = true ∧
      field ((t.stopCtxWork c runStatus).sq .ctxtab c 0x800) 15 0 = code.toNat := by
  rw [(State.stopCtxWork_spares t c runStatus).ctxStatus c hc, ht]
  exact ⟨bit_ctxFaultBits _ _, field_ctxFaultBits _ _⟩

theorem State.sq_noteFallen (c : Nat) (b : Block) (i off : Nat) : (s.noteFallen c).sq b i off = s.sq b i off := rfl

theorem State.sq_setCtx (c : Nat) (v : Ctx) (b : Block) (i off : Nat) : (s.setCtx c v).sq b i off = s.sq b i off := rfl

theorem State.ctx_noteFallen (c k : Nat) : (s.noteFallen c).ctx k = s.ctx k := rfl

variable {s} in
/-- A fault of an ACTIVE context (R152). -/
theorem State.ctxFault_active_spec {c : Nat} {code : BitVec 16} (hc : c < 65536) (h : (s.ctx c).st = .active) :
    ((s.ctxFault c code).ctx c).st = .stopped ∧ ((s.ctxFault c code).ctx c).atsWait = none ∧
      bit ((s.ctxFault c code).sq .ctxtab c 0x800) 20 = true ∧
      field ((s.ctxFault c code).sq .ctxtab c 0x800) 15 0 = code.toNat := by
  rw [State.ctxFault_of_active h]
  obtain ⟨r, hctx⟩ := State.stopCtxWork_ctx (((s.reportCtxFault c code).setCtx c { s.ctx c with
    st := .stopped, fetched := none, atsWait := none }).noteFallen c) c stFaulted c
  rw [State.ctx_noteFallen, State.ctx_setCtx_same] at hctx
  rw [hctx]
  refine ⟨rfl, rfl, State.status_of_fault s hc ?_⟩
  rw [State.sq_noteFallen, State.sq_setCtx, State.sq_reportCtxFault]

variable {s} in
/-- A fault of a context in teardown (R157). -/
theorem State.ctxFault_destroying_spec {c : Nat} {code : BitVec 16} (hc : c < 65536) (h : (s.ctx c).st = .destroying) :
    ((s.ctxFault c code).ctx c).st = .destroying ∧ ((s.ctxFault c code).ctx c).atsWait = (s.ctx c).atsWait ∧
      field ((s.ctxFault c code).sq .ctxtab c 0x800) 15 0 = code.toNat := by
  rw [State.ctxFault_of_destroying h]
  obtain ⟨r, hctx⟩ := State.stopCtxWork_ctx ((s.reportCtxFault c code).noteFallen c) c stCancelled c
  rw [State.ctx_noteFallen, State.ctx_of_plan (State.reportCtxFault_plan s c code)] at hctx
  rw [hctx]
  refine ⟨h, rfl, (State.status_of_fault s hc ?_).2⟩
  rw [State.sq_noteFallen, State.sq_reportCtxFault]

/-! ### Teardown begins (R155) -/

theorem State.setCtx_spares (c : Nat) (v : Ctx) : s.Spares (s.setCtx c v) := .of_face rfl

variable {s} in
theorem State.beginTeardown_of_open {c : Nat} (h : (s.ctx c).st = .active ∨ (s.ctx c).st = .stopped) :
    s.beginTeardown c = (s.setCtx c { s.ctx c with
      st := .destroying, fetched := none, halted := s.fr.ticks + 1 }).stopCtxWork c stCancelled := by
  rcases h with h | h
  all_goals simp only [State.beginTeardown, h]

theorem State.beginTeardown_spares (c : Nat) : s.Spares (s.beginTeardown c) := by
  have hopen : s.Spares ((s.setCtx c { s.ctx c with
      st := .destroying, fetched := none, halted := s.fr.ticks + 1 }).stopCtxWork c stCancelled) :=
    (State.setCtx_spares s c _).trans (State.stopCtxWork_spares _ _ _)
  simp only [State.beginTeardown]
  split
  · exact hopen
  · exact hopen
  · exact .refl s
  · exact .refl s
  · exact .refl s

/-! ### A function starts anew (R133) -/

/-- The requester of a copy is read off the copy's key. -/
theorem copyKey_div (r : Req) (w : Window) (b : Block) : copyKey r w b / 32 / 33 = r.val := by
  have hb := Block.idx_lt b
  have hw := Window.idx_lt w
  unfold copyKey
  omega

theorem State.copyOf_resetCopies_same (r : Req) (w : Window) (b : Block) : (s.resetCopies r.val).copyOf r w b = {} :=
  Tab.get_filter_drop _ _ (fun k => k / 32 / 33 ≠ r.val) (by rw [copyKey_div]; simp)

theorem State.copyOf_resetCopies_ne {q : Nat} {r : Req} (h : r.val ≠ q) (w : Window) (b : Block) :
    (s.resetCopies q).copyOf r w b = s.copyOf r w b :=
  Tab.get_filter_keep _ _ (fun k => k / 32 / 33 ≠ q) (by rw [copyKey_div]; simpa using h)

/-- The contexts of a partition begin their teardown. -/
def State.teardownAll (p : Nat) : State := (s.ctxsOf p).foldl (fun t c => t.beginTeardown c) s

theorem State.teardownAll_spares (p : Nat) : s.Spares (s.teardownAll p) := foldl_spares State.beginTeardown_spares _ s

theorem State.copyOf_resetFunction_same (r : Req) (w : Window) (b : Block) : (s.resetFunction r.val).copyOf r w b = {} :=
  State.copyOf_resetCopies_same (s.teardownAll r.val) r w b

/-- A requester's copies that are at their reset values stay so. -/
theorem State.copyOf_resetFunction_keeps {r : Req} {w : Window} {b : Block} (p : Nat) (h : s.copyOf r w b = {}) :
    (s.resetFunction p).copyOf r w b = {} := by
  by_cases hp : r.val = p
  · subst hp
    exact State.copyOf_resetFunction_same s r w b
  · exact (State.copyOf_resetCopies_ne _ hp w b).trans (((State.teardownAll_spares s p).copyOf r w b).trans h)

theorem State.cfg_resetFunction (p : Nat) (b : Block) (i off : Nat) :
    (s.resetFunction p).cfg b i off = s.cfg b i off := (State.teardownAll_spares s p).cfgOf b i off

@[simp] theorem State.copyOf_touch (p : Nat) (r : Req) (w : Window) (b : Block) :
    (s.touch p).copyOf r w b = s.copyOf r w b := by
  obtain ⟨c, hc⟩ := State.touch_eq s p
  rw [hc, State.copyOf, State.copyOf]

/-! ### Grants return to their reset values (R133) -/

/-- The grant registers of a partition at 0. -/
def State.zeroGrants (p : Nat) : State := grantOffsets.foldl (fun t o => t.setCfg .puppeteer p o 0) s

theorem State.ungrant_regs (p : Nat) : (s.ungrant p).regs = (s.zeroGrants p).regs := rfl

theorem State.copyOf_ungrant (p : Nat) (r : Req) (w : Window) (b : Block) :
    (s.ungrant p).copyOf r w b = s.copyOf r w b := by
  have hcopy : (s.zeroGrants p).regs.copy = s.regs.copy :=
    List.foldlRecOn (motive := fun t : State => t.regs.copy = s.regs.copy) grantOffsets _ rfl fun t ht o _ => ht
  rw [← State.ungrant_regs] at hcopy
  exact State.copyOf_congr hcopy r w b

theorem State.cfg_ungrant (p : Nat) (b : Block) (i off : Nat) :
    (s.ungrant p).cfg b i off = (s.zeroGrants p).cfg b i off := by
  rw [State.cfg, State.ungrant_regs, State.cfg]

theorem grantOffsets_lt {o : Nat} (h : o ∈ grantOffsets) : o < 4096 := by
  simp only [grantOffsets, List.mem_cons, List.not_mem_nil, or_false] at h
  omega

/-- A grant register that is 0 stays 0 where one is set to 0. -/
theorem State.cfg_setGrant_keeps {p q o o' : Nat} (hp : p < 32) (hq : q < 32) (ho : o < 4096) (ho' : o' < 4096)
    (h : s.cfg .puppeteer p o = 0) : (s.setCfg .puppeteer q o' 0).cfg .puppeteer p o = 0 := by
  by_cases hkey : regKey .puppeteer q o' = regKey .puppeteer p o
  · obtain ⟨-, rfl, rfl⟩ := regKey_inj (by omega) (by omega) ho' ho hkey
    exact State.cfg_setCfg_same s _ _ _ _
  · rw [State.cfg_setCfg_ne s 0 hkey, h]

theorem State.cfg_ungrant_same {p o : Nat} (hp : p < 32) (ho : o ∈ grantOffsets) :
    (s.ungrant p).cfg .puppeteer p o = 0 := by
  rw [State.cfg_ungrant]
  exact foldl_establishes (P := fun t : State => t.cfg .puppeteer p o = 0) ho (fun t => State.cfg_setCfg_same t _ _ _ _)
    (fun x hx t ht => State.cfg_setGrant_keeps t hp hp (grantOffsets_lt ho) (grantOffsets_lt hx) ht) s

theorem State.cfg_ungrant_keeps {p q o : Nat} (hp : p < 32) (hq : q < 32) (ho : o < 4096)
    (h : s.cfg .puppeteer p o = 0) : (s.ungrant q).cfg .puppeteer p o = 0 := by
  rw [State.cfg_ungrant]
  exact List.foldlRecOn (motive := fun t : State => t.cfg .puppeteer p o = 0) grantOffsets _ h
    fun t ht x hx => State.cfg_setGrant_keeps t hp hq ho (grantOffsets_lt hx) ht

/-! ### Virtual functions are disabled, and the physical function starts anew -/

/-- A partition as VF Enable is cleared (R133). -/
def State.dropFunction (t : State) (p : Nat) : State := (t.resetFunction p).touch p

theorem State.clearVfs_regs : s.clearVfs.regs = ((upFrom 1 31).foldl State.dropFunction s).regs := by
  have hstep : State.dropFunction = fun t p => (t.resetFunction p).touch p := rfl
  rw [State.clearVfs, hstep]

/-- After VF Enable is cleared no virtual function has copies (R133). -/
theorem State.copyOf_clearVfs {r : Req} (hpf : r.val ≠ 0) (hmgmt : r.val ≠ 32) (w : Window) (b : Block) :
    s.clearVfs.copyOf r w b = {} := by
  have hmem : r.val ∈ upFrom 1 31 := mem_upFrom.2 (by omega)
  rw [State.copyOf_congr (congrArg RegState.copy (State.clearVfs_regs s))]
  refine foldl_establishes (P := fun t : State => t.copyOf r w b = {}) hmem (fun t => ?_) (fun p _ t ht => ?_) s
  · rw [State.dropFunction, State.copyOf_touch, State.copyOf_resetFunction_same]
  · rw [State.dropFunction, State.copyOf_touch, State.copyOf_resetFunction_keeps t p ht]

/-- A partition in the reset of the physical function (R133). -/
def State.resetPart (t : State) (p : Nat) : State := ((t.resetFunction p).ungrant p).touch p

theorem State.copyOf_resetAll {r : Req} (h : r.val < 32) (w : Window) (b : Block) :
    ((List.range 32).foldl State.resetPart s).copyOf r w b = {} := by
  refine foldl_establishes (P := fun t : State => t.copyOf r w b = {}) (List.mem_range.2 h) (fun t => ?_)
    (fun p _ t ht => ?_) s
  · rw [State.resetPart, State.copyOf_touch, State.copyOf_ungrant, State.copyOf_resetFunction_same]
  · rw [State.resetPart, State.copyOf_touch, State.copyOf_ungrant, State.copyOf_resetFunction_keeps t p ht]

theorem State.cfg_resetAll {p o : Nat} (hp : p < 32) (ho : o ∈ grantOffsets) :
    ((List.range 32).foldl State.resetPart s).cfg .puppeteer p o = 0 := by
  refine foldl_establishes (P := fun t : State => t.cfg .puppeteer p o = 0) (List.mem_range.2 hp) (fun t => ?_)
    (fun q hq t ht => ?_) s
  · rw [State.resetPart, State.touch_cfg, State.cfg_ungrant_same _ hp ho]
  · rw [State.resetPart, State.touch_cfg, State.cfg_ungrant_keeps _ hp (List.mem_range.1 hq) (grantOffsets_lt ho)]
    rw [State.cfg_resetFunction, ht]

/-- Virtual functions are off, with no number of them. -/
def State.vfsOff : State := { s with pci := { s.pci with vfEnable := false, numVfs := 0 } }

theorem State.flr_physical :
    s.flr 0 = (((List.range 32).foldl State.resetPart s).vfsOff.setCfg .pcie 0 0x100 0).msixOff 0 := by
  have hstep : State.resetPart = fun t p => ((t.resetFunction p).ungrant p).touch p := rfl
  rw [State.flr, if_pos rfl, hstep, State.vfsOff]

theorem State.flr_virtual {f : Nat} (h : f ≠ 0) : s.flr f = (s.dropFunction f).msixOff f := by
  rw [State.flr, if_neg h, State.dropFunction]

theorem State.copyOf_msixOff (f : Nat) (r : Req) (w : Window) (b : Block) :
    (s.msixOff f).copyOf r w b = s.copyOf r w b := rfl

theorem State.cfg_msixOff (f : Nat) (b : Block) (i off : Nat) : (s.msixOff f).cfg b i off = s.cfg b i off := rfl

theorem State.vfEnable_msixOff (f : Nat) : (s.msixOff f).pci.vfEnable = s.pci.vfEnable := rfl

theorem State.msixEnable_msixOff (f : Nat) : Tab.get false (s.msixOff f).pci.msixEnable f = false :=
  Tab.get_del_same _ _ _

theorem State.copyOf_setCfg (b : Block) (i off : Nat) (v : Word) (r : Req) (w : Window) (b' : Block) :
    (s.setCfg b i off v).copyOf r w b' = s.copyOf r w b' := rfl

theorem State.copyOf_vfsOff (r : Req) (w : Window) (b : Block) : s.vfsOff.copyOf r w b = s.copyOf r w b := rfl

theorem State.cfg_vfsOff (b : Block) (i off : Nat) : s.vfsOff.cfg b i off = s.cfg b i off := rfl

theorem State.vfEnable_vfsOff : s.vfsOff.pci.vfEnable = false := rfl

theorem State.vfEnable_flr : (s.flr 0).pci.vfEnable = false := by
  rw [State.flr_physical, State.vfEnable_msixOff, State.setCfg_pci, State.vfEnable_vfsOff]

theorem State.msixEnable_flr (f : Nat) : Tab.get false (s.flr f).pci.msixEnable f = false := by
  by_cases hf : f = 0
  · subst hf
    rw [State.flr_physical, State.msixEnable_msixOff]
  · rw [State.flr_virtual s hf, State.msixEnable_msixOff]

theorem State.copyOf_flr {f : Nat} {r : Req} (hr : r.val = f) (hf : f < 32) (w : Window) (b : Block) :
    (s.flr f).copyOf r w b = {} := by
  by_cases h0 : f = 0
  · subst h0
    rw [State.flr_physical, State.copyOf_msixOff, State.copyOf_setCfg, State.copyOf_vfsOff,
      State.copyOf_resetAll s (by omega)]
  · subst hr
    rw [State.flr_virtual s h0, State.copyOf_msixOff, State.dropFunction, State.copyOf_touch,
      State.copyOf_resetFunction_same]

theorem State.cfg_flr {p o : Nat} (hp : p < 32) (ho : o ∈ grantOffsets) : (s.flr 0).cfg .puppeteer p o = 0 := by
  have hne : regKey .pcie 0 0x100 ≠ regKey .puppeteer p o := by
    have h := grantOffsets_lt ho
    exact fun hkey => absurd (regKey_inj (by omega) (by omega) (by omega) h hkey).1 (by decide)
  rw [State.flr_physical, State.cfg_msixOff, State.cfg_setCfg_ne _ 0 hne, State.cfg_vfsOff, State.cfg_resetAll s hp ho]

/-! ### An invalidation of translations (R119) -/

variable {s} in
/-- A translation that an invalidation leaves to its function lies outside the range. -/
theorem State.ats_atsInvalidate {f tag base len : Nat} {x : Nat × Ctx} (hx : x ∈ (s.atsInvalidate f tag base len).ctxs)
    (hpart : x.2.part = f) {p : Nat × Bool} (hp : p ∈ x.2.ats) :
    p.1 * 4096 + 4096 ≤ base ∨ base + len ≤ p.1 * 4096 := by
  obtain ⟨y, -, rfl⟩ := List.mem_map.1 hx
  by_cases hy : y.2.part = f
  · rw [if_pos hy] at hp
    simpa using (List.mem_filter.1 hp).2
  · rw [if_neg hy] at hpart
    exact absurd hpart hy

end
end Sys2Proof.Machine

namespace Sys2Proof.Proofs.HostPartitionsContexts
open Sys2Proof Sys2Proof.Machine

/-- Settles O22: a fault of a context stands in its status when its work is stopped; every function that is reset drops its
own copies, and no later reset of another brings one back. -/
theorem functionsAndTranslations : Obligations.FunctionsAndTranslations := by
  unfold Obligations.FunctionsAndTranslations
  refine ⟨fun f tag base len s hok hroom => ?_, fun c s pg hwait => ?_, fun s hready hvf => ?_, fun f s hready hf => ?_⟩
  · have hrun : exec (.atsInvalidation f tag base len) s =
        .next (s.atsInvalidate f.val tag.toNat base.toNat len.toNat) :=
      congrArg Host.Outcome.next (if_pos (by rw [hok]; simpa using hroom))
    refine ⟨_, hrun, rfl, rfl, fun x hx hpart p hp => ?_⟩
    exact State.ats_atsInvalidate hx hpart hp
  · have hdenied : exec (.atsCompletion c true) s =
        .next ((s.setCtx c.val { s.ctx c.val with atsWait := none }).ctxFault c.val 0x3013) :=
      congrArg Host.Outcome.next (by simp only [hwait, if_true])
    have hc : c.val < 65536 := by omega
    refine ⟨congrArg Host.Outcome.next (by simp only [hwait]; rfl), fun hst => ?_, fun hst => ?_⟩
    · have hactive : ((s.setCtx c.val { s.ctx c.val with atsWait := none }).ctx c.val).st = .active := by
        rw [State.ctx_setCtx_same]
        exact hst
      exact ⟨_, hdenied, State.ctxFault_active_spec hc hactive⟩
    · have hdestroying : ((s.setCtx c.val { s.ctx c.val with atsWait := none }).ctx c.val).st = .destroying := by
        rw [State.ctx_setCtx_same]
        exact hst
      obtain ⟨hst', hats, hcode⟩ := State.ctxFault_destroying_spec (code := 0x3013) hc hdestroying
      rw [State.ctx_setCtx_same] at hats
      exact ⟨_, hdenied, hst', hats, hcode⟩
  · have hrun : exec .vfEnableClear s = .next s.clearVfs := congrArg Host.Outcome.next (if_pos (by rw [hready, hvf]; rfl))
    refine ⟨_, hrun, rfl, fun f hf => ?_, fun r w b hpf hmgmt => State.copyOf_clearVfs s hpf hmgmt w b⟩
    simpa [State.fnEnabled, State.clearVfs] using hf
  · have hrun : exec (.functionLevelReset f) s = .next (s.flr f.val) :=
      congrArg Host.Outcome.next (if_pos (by rw [hready, hf]; rfl))
    refine ⟨_, hrun, State.msixEnable_flr s f.val, fun r w b hr => State.copyOf_flr s hr (by omega) w b, fun h0 => ?_⟩
    rw [h0]
    exact ⟨State.vfEnable_flr s, fun p o hp ho => State.cfg_flr s hp ho⟩

end Sys2Proof.Proofs.HostPartitionsContexts

namespace Sys2Proof.Machine

/-!
## The life of a context (R137 to R142, R152, R155)
-/

/-! ### Items that read memory -/

section
variable {s : State} {r : MbxReq} {b : Block} {i : Item} {k : Nat} {wr : Bool} {ws : List Word}
  {prep : Nat → Bool → List Word → State → List Nat} {act : List Nat → State → Option ItemRes}

/-- An accepted request whose item can read at once. -/
theorem State.mbxRead_of_some {x : ItemRes} (h : s.asks r b i k wr ws) (ha : act (prep k wr ws s) s = some x) :
    s.mbxRead r b i prep act = x.2.2.mbxBegin r b i.num x.1 x.2.1 :=
  (State.mbxRun_asks h).trans (by simp only [ha])

/-- An accepted request whose item has to wait stays BUSY with what it acts on. -/
theorem State.mbxRead_of_none (h : s.asks r b i k wr ws) (ha : act (prep k wr ws s) s = none) :
    s.mbxRead r b i prep act = (s.setCopy r.req r.win b { s.copyOf r.req r.win b with
      todo := some (prep k wr ws s) }).mbxBegin r b i.num errDone [] :=
  (State.mbxRun_asks h).trans (by simp only [ha])

end

section
variable (s : State)

theorem State.arg_setArg_same (r : Req) (b : Block) (item inst : Nat) (v : List Word) :
    (s.setArg r b item inst v).arg r b item inst = v := Tab.get_set_same _ _ _ _

theorem State.arg_mbxBegin (q : MbxReq) (b' : Block) (n : Nat) (e : BitVec 2) (ws : List Word) (r : Req) (b : Block)
    (item inst : Nat) : (s.mbxBegin q b' n e ws).arg r b item inst = s.arg r b item inst := rfl

@[simp] theorem State.ctx_mbxBegin (q : MbxReq) (b : Block) (n : Nat) (e : BitVec 2) (ws : List Word) (c : Nat) :
    (s.mbxBegin q b n e ws).ctx c = s.ctx c := rfl

@[simp] theorem State.works_mbxBegin (q : MbxReq) (b : Block) (n : Nat) (e : BitVec 2) (ws : List Word) :
    (s.mbxBegin q b n e ws).works = s.works := rfl

@[simp] theorem State.budget_mbxBegin (q : MbxReq) (b : Block) (n : Nat) (e : BitVec 2) (ws : List Word) (c : Nat) :
    (s.mbxBegin q b n e ws).budget c = s.budget c := rfl

end

/-! ### CREATE (R141) -/

section
variable {s : State} {p desc : Nat}

theorem createAct_of_ungranted (h : s.grantedRange p desc 256 = false) :
    createAct [p, desc] s = some (errDone, [place 0x22 24, 0], s) := by
  have hbad : s.descAddrBad [] desc p = true := by simp [State.descAddrBad, h]
  simp [createAct, State.doCreate, h, hbad]

theorem createAct_of_granted {u : State} (h : s.grantedRange p desc 256 = true) (hu : s.agentRead false desc 256 = some u) :
    createAct [p, desc] s = some (errDone, [(u.doCreate p desc).1, 0], (u.doCreate p desc).2) := by
  simp [createAct, h, hu]

theorem createAct_of_waiting (h : s.grantedRange p desc 256 = true) (hu : s.agentRead false desc 256 = none) :
    createAct [p, desc] s = none := by
  simp [createAct, h, hu]

theorem State.ctx_setCfg (s : State) (b : Block) (i off : Nat) (v : Word) (c : Nat) :
    (s.setCfg b i off v).ctx c = s.ctx c := rfl

/-- A context as CREATE leaves it, before HEAD is written to its descriptor. -/
def State.withCreated (s : State) (d : List Byte) (desc p c : Nat) : State :=
  (s.setCtx c (ctxOf d desc p)).setCfg .ctxtab c 0x100 (BitVec.ofNat 32 (leAt d 0x18 4))

theorem State.doCreate_of_addrBad (h : s.grantedRange p desc 256 = true)
    (hbad : s.descAddrBad (s.cohRead desc 256) desc p = true) : s.doCreate p desc = (place 0x22 24, s) := by
  simp only [State.doCreate, h, hbad, if_true]

theorem State.doCreate_of_bad (h : s.grantedRange p desc 256 = true)
    (haddr : s.descAddrBad (s.cohRead desc 256) desc p = false) (hbad : descBad (s.cohRead desc 256) desc p = true) :
    s.doCreate p desc = (place 0x21 24, s) := by
  simp [State.doCreate, h, haddr, hbad]

theorem State.doCreate_of_full (h : s.grantedRange p desc 256 = true)
    (haddr : s.descAddrBad (s.cohRead desc 256) desc p = false) (hgood : descBad (s.cohRead desc 256) desc p = false)
    (hfull : s.freeCtxSlot p = none) : s.doCreate p desc = (place 0x20 24, s) := by
  simp [State.doCreate, h, haddr, hgood, hfull]

theorem State.doCreate_of_slot {i : Nat} (h : s.grantedRange p desc 256 = true)
    (haddr : s.descAddrBad (s.cohRead desc 256) desc p = false) (hgood : descBad (s.cohRead desc 256) desc p = false)
    (hslot : s.freeCtxSlot p = some i) : s.doCreate p desc =
      (place i 0, (s.withCreated (s.cohRead desc 256) desc p (s.ctxBase p + i)).cohWrite
        (.fetch, some (s.ctxBase p + i)) (desc + 0x40) (leBytes 8 0)) := by
  simp [State.doCreate, h, haddr, hgood, hslot, State.withCreated]

variable {d : List Byte} {c : Nat}

theorem State.ctx_withCreated : (s.withCreated d desc p c).ctx c = ctxOf d desc p := by
  rw [State.withCreated, State.ctx_setCfg, State.ctx_setCtx_same]

theorem State.budget_withCreated : (s.withCreated d desc p c).budget c = leAt d 0x18 4 := by
  rw [State.budget, State.withCreated, State.cfg_setCfg_same, BitVec.toNat_ofNat]
  exact Nat.mod_eq_of_lt (leAt_lt d 0x18 4)

theorem State.budget_cohWrite (s : State) (who : Agent × Option Nat) (a : Nat) (bs : List Byte) (c : Nat) :
    (s.cohWrite who a bs).budget c = s.budget c := by
  rw [State.budget, (State.cohWrite_traffic s who a bs).cfgOf, State.budget]

end

/-! ### Teardown (R155) -/

section
variable (s : State)

/-- A core that has cleared. -/
def Core.Cleared (x : Core) : Prop := x.regs = [] ∧ x.scratch = [] ∧ x.l1 = [] ∧ x.clearing = true

theorem State.core_markClear (c k : Nat) : (s.markClear c k).core k =
    { (s.core k).zero with l1 := [], ran := [], clearFor := c :: (s.core k).clearFor } := by
  have hclear : (s.clearCore k).core k = { (s.core k).zero with l1 := [], ran := [] } := State.core_setCore_same _ _ _
  rw [State.markClear, State.core_setCore_same, hclear]

theorem State.core_markClear_ne (c : Nat) {k j : Nat} (h : k ≠ j) : (s.markClear c k).core j = s.core j := by
  rw [State.markClear, State.core_setCore, if_neg h, State.clearCore, State.core_setCore, if_neg h]
  rfl

theorem State.cleared_markClear (c k : Nat) : ((s.markClear c k).core k).Cleared := by
  rw [State.core_markClear]
  exact ⟨rfl, rfl, rfl, rfl⟩

theorem State.cleared_foldl_markClear {c k : Nat} {l : List Nat} (hk : k ∈ l) :
    ((l.foldl (fun t k => t.markClear c k) s).core k).Cleared := by
  refine foldl_establishes (P := fun t : State => (t.core k).Cleared) hk (fun t => State.cleared_markClear t c k)
    (fun j _ t ht => ?_) s
  by_cases hj : j = k
  · subst hj
    exact State.cleared_markClear t c j
  · rw [State.core_markClear_ne t c hj]
    exact ht

theorem State.foldl_markClear_works (c : Nat) (l : List Nat) :
    (l.foldl (fun t k => t.markClear c k) s).works = s.works :=
  foldl_keeps (fun t : State => t.works = s.works) (fun t k => t.markClear c k) (fun _ _ ht => ht) l s rfl

theorem State.foldl_markClear_mem (c : Nat) (l : List Nat) : (l.foldl (fun t k => t.markClear c k) s).mem = s.mem :=
  foldl_keeps (fun t : State => t.mem = s.mem) (fun t k => t.markClear c k) (fun _ _ ht => ht) l s rfl

/-- A map over the values of a table that keeps the default is a map of what is read. -/
theorem Tab.get_mapValues {α : Type} (d : α) (g : α → α) (hd : g d = d) (t : Tab α) (k : Nat) :
    Tab.get d (t.map (fun x => (x.1, g x.2))) k = g (Tab.get d t k) := by
  induction t with
  | nil => exact hd.symm
  | cons x t ih =>
    obtain ⟨j, v⟩ := x
    by_cases h : j = k
    · simp [Tab.get, h]
    · simpa [Tab.get, h] using ih

/-- A core is done with its clear for a context. -/
def Core.doneFor (c : Nat) (x : Core) : Core := { x with clearFor := x.clearFor.filter (· ≠ c) }

/-- The cores are done with the clear for a context. -/
def State.clearsDone (c : Nat) : State := { s with cores := s.cores.map (fun p => (p.1, p.2.doneFor c)) }

/-- What the end of a teardown leaves. -/
def State.freed (c : Nat) : State :=
  (((s.clearsDone c).setCfg .ctxtab c 0x100 0).clearSq .ctxtab c 0x800).setCtx c {}

theorem State.clearFor_freed (c k : Nat) :
    ((s.freed c).core k).clearFor = (s.core k).clearFor.filter (· ≠ c) :=
  congrArg Core.clearFor (Tab.get_mapValues ({} : Core) (Core.doneFor c) rfl s.cores k)

theorem State.budget_freed (c : Nat) : (s.freed c).budget c = 0 :=
  congrArg BitVec.toNat (State.cfg_setCfg_same (s.clearsDone c) .ctxtab c 0x100 0)

theorem State.sq_freed (c : Nat) : (s.freed c).sq .ctxtab c 0x800 = 0 := Tab.get_del_same _ _ _

end
end Sys2Proof.Machine

namespace Sys2Proof.Proofs.HostPartitionsContexts
open Sys2Proof Sys2Proof.Machine

/-- Settles O23: each item is accepted and runs its own rule; the end of a context's work leaves the slot as the teardown has
set it. -/
theorem contextLife : Obligations.ContextLife := by
  unfold Obligations.ContextLife
  refine ⟨fun r s k ws h => ?_, fun r s k desc p ws h hp hdesc => ?_, fun r s c ws h hopen => ?_,
    fun r s c ws h hactive hstopped => ?_, fun c s hst hhalt hticks hidle => ?_, fun c s hst => ?_,
    fun r s c ws h => ⟨fun hst => ?_, fun hst => ?_⟩⟩
  · have hrun : exec (.createArg r) s = .next ((s.setArg r.req .ctxtab 1 0 ws).mbxBegin r .ctxtab 1 errDone []) :=
      congrArg Host.Outcome.next (State.mbxRun_asks h)
    exact ⟨_, hrun, (State.arg_mbxBegin _ _ _ _ _ _ _ _ _ _).trans (State.arg_setArg_same _ _ _ _ _ _), rfl, rfl⟩
  · subst hp hdesc
    have hdone : ∀ x, createAct [s.selPart r.req r.win, natOf (s.arg r.req .ctxtab 1 0)] s = some x →
        exec (.create r) s = .next (x.2.2.mbxBegin r .ctxtab 2 x.1 x.2.1) := fun x hx =>
      congrArg Host.Outcome.next (State.mbxRead_of_some h hx)
    refine ⟨fun hno => hdone _ (createAct_of_ungranted hno), fun hin u hu hinu => ?_, fun hin hu => ?_⟩
    · have hact := createAct_of_granted hin hu
      refine ⟨fun haddr => ?_, fun haddr hbad => ?_, fun haddr hgood hfull => ?_, fun i haddr hgood hslot => ?_⟩
      · rw [State.doCreate_of_addrBad hinu haddr] at hact
        exact hdone _ hact
      · rw [State.doCreate_of_bad hinu haddr hbad] at hact
        exact hdone _ hact
      · rw [State.doCreate_of_full hinu haddr hgood hfull] at hact
        exact hdone _ hact
      · rw [State.doCreate_of_slot hinu haddr hgood hslot] at hact
        have hplan := (State.cohWrite_traffic (u.withCreated (u.cohRead (natOf (s.arg r.req .ctxtab 1 0)) 256)
          (natOf (s.arg r.req .ctxtab 1 0)) (s.selPart r.req r.win) (u.ctxBase (s.selPart r.req r.win) + i))
          (.fetch, some (u.ctxBase (s.selPart r.req r.win) + i)) (natOf (s.arg r.req .ctxtab 1 0) + 0x40) (leBytes 8 0)).plan
        refine ⟨_, hdone _ hact, ?_, ?_, ?_, ?_⟩
        · rw [State.copyOf_mbxBegin]
        · rw [State.ctx_mbxBegin, State.ctx_of_plan hplan, State.ctx_withCreated]
        · rw [State.budget_mbxBegin, State.budget_cohWrite, State.budget_withCreated]
        · rw [State.works_mbxBegin, State.works_of_plan hplan]
          rfl
    · have hrun : exec (.create r) s = .next ((s.setCopy r.req r.win .ctxtab { s.copyOf r.req r.win .ctxtab with
          todo := some [s.selPart r.req r.win, natOf (s.arg r.req .ctxtab 1 0)] }).mbxBegin r .ctxtab 2 errDone []) :=
        congrArg Host.Outcome.next (State.mbxRead_of_none (act := createAct) h (createAct_of_waiting hin hu))
      refine ⟨_, hrun, ?_, ?_, rfl⟩
      · rw [State.copyOf_mbxBegin, State.copyOf_setCopy_same]
      · rw [State.copyOf_mbxBegin]
  · have hrun : exec (.destroy r) s = .next ((s.beginTeardown c).mbxBegin r .ctxtab 3 errDone []) := by
      refine congrArg Host.Outcome.next ((State.mbxRun_asks h).trans ?_)
      rcases hopen with hst | hst
      all_goals
        simp only [hst]
        rfl
    rw [State.beginTeardown_of_open hopen] at hrun
    obtain ⟨x, hctx⟩ := State.stopCtxWork_ctx (s.setCtx c { s.ctx c with
      st := .destroying, fetched := none, halted := s.fr.ticks + 1 }) c stCancelled c
    rw [State.ctx_setCtx_same] at hctx
    refine ⟨_, hrun, ?_, ?_, fun w hw => State.ctx_ne_of_mem_stopCtxWork hw⟩
    · rw [State.ctx_mbxBegin, hctx]
    · rw [State.ctx_mbxBegin, hctx]
  · refine congrArg Host.Outcome.next ((State.mbxRun_asks h).trans ?_)
    cases hst : (s.ctx c).st with
    | active => exact absurd hst hactive
    | stopped => exact absurd hst hstopped
    | destroying => rfl
    | clearing => rfl
    | free => rfl
  · have hrun : exec (.teardownClearStart c) s =
        .next (((s.coresRan c.val).foldl (fun t k => t.markClear c.val k) s).setCtx c.val
          { s.ctx c.val with st := .clearing, tlb := [], ats := [], atsWait := none }) :=
      congrArg Host.Outcome.next (if_pos (by simp [hst, hhalt, hticks, hidle]))
    refine ⟨_, hrun, ?_, ?_, ?_, fun k hk => State.cleared_foldl_markClear s hk, State.foldl_markClear_works s _ _,
      State.foldl_markClear_mem s _ _⟩
    all_goals rw [State.ctx_setCtx_same]
  · have hrun : exec (.teardownClearDone c) s = .next (s.freed c.val) := congrArg Host.Outcome.next (if_pos hst)
    exact ⟨_, hrun, State.ctx_setCtx_same _ _ _, State.budget_freed s c.val, State.clearFor_freed s c.val, rfl, rfl,
      State.sq_freed s c.val, rfl⟩
  · refine congrArg Host.Outcome.next ((State.mbxRun_asks h).trans ?_)
    simp only [hst]
    rfl
  · refine congrArg Host.Outcome.next ((State.mbxRun_asks h).trans ?_)
    cases hcase : (s.ctx c).st with
    | stopped => exact absurd hcase hst
    | active => rfl
    | destroying => rfl
    | clearing => rfl
    | free => rfl

end Sys2Proof.Proofs.HostPartitionsContexts

namespace Sys2Proof.Machine

/-!
## Firmware, measurements and the identity key (R119, R525 to R536)
-/

/-! ### Firmware images -/

section
variable (c : SecState) (b : List Byte)

/-- FW_LOAD as the security engine sees it: from then on a valid image is being written (R527). -/
def SecState.beginLoad (ok : Bool) : SecState :=
  if ok then ({ c with loading := some (b, ok) } : SecState).store c.spare [] false else { c with loading := some (b, ok) }

theorem SecState.spare_of_slotB (h : c.slotRun = some true) : c.spare = false := by rw [SecState.spare, h]; rfl

theorem SecState.spare_of_slotA (h : c.slotRun ≠ some true) : c.spare = true := by
  rw [SecState.spare, bne_iff_ne]
  exact h

theorem SecState.beginLoad_slotA (h : c.slotRun = some true) : c.beginLoad b true =
    { c with loading := some (b, true), slotA := [], validA := false } := by
  rw [SecState.beginLoad, if_pos rfl, SecState.spare_of_slotB c h, SecState.store, if_neg (by decide)]

theorem SecState.beginLoad_slotB (h : c.slotRun ≠ some true) : c.beginLoad b true =
    { c with loading := some (b, true), slotB := [], validB := false } := by
  rw [SecState.beginLoad, if_pos rfl, SecState.spare_of_slotA c h, SecState.store, if_pos rfl]

theorem SecState.beginLoad_rejected : c.beginLoad b false = { c with loading := some (b, false) } := if_neg (by decide)

/-- What every load leaves: the image under way, the slot that runs and FUSE_SVN. -/
theorem SecState.beginLoad_keeps (ok : Bool) : (c.beginLoad b ok).loading = some (b, ok) ∧
    (c.beginLoad b ok).slotRun = c.slotRun ∧ (c.beginLoad b ok).fuseSvn = c.fuseSvn := by
  cases ok with
  | false =>
    rw [SecState.beginLoad_rejected]
    exact ⟨rfl, rfl, rfl⟩
  | true =>
    by_cases h : c.slotRun = some true
    · rw [SecState.beginLoad_slotA c b h]
      exact ⟨rfl, rfl, rfl⟩
    · rw [SecState.beginLoad_slotB c b h]
      exact ⟨rfl, rfl, rfl⟩

/-- The last byte of an image is written: the slot that does not run holds it (R527). -/
def SecState.endLoad : SecState := ({ c with loading := none } : SecState).store c.spare b true

theorem SecState.endLoad_slotA (h : c.slotRun = some true) :
    c.endLoad b = { c with loading := none, slotA := b, validA := true } := by
  rw [SecState.endLoad, SecState.spare_of_slotB c h, SecState.store, if_neg (by decide)]

theorem SecState.endLoad_slotB (h : c.slotRun ≠ some true) :
    c.endLoad b = { c with loading := none, slotB := b, validB := true } := by
  rw [SecState.endLoad, SecState.spare_of_slotA c h, SecState.store, if_pos rfl]

end

section
variable {s : State} {o n : Nat}

/-- The image of a FW_LOAD, and whether it may be written (R525, R527). -/
def State.imageAt (s : State) (o n : Nat) : List Byte × Bool :=
  (s.devRead o n, imageValid s.sec.fuseSvn (s.devRead o n) && !(s.rangePoison o n))

theorem fwLoadAct_of_busy (h : s.sec.loading.isSome = true) : fwLoadAct [o, n] s = some (errBadCmd, [], s) :=
  if_pos (by rw [h]; rfl)

theorem fwLoadAct_of_free (hfree : s.sec.loading = none) (halign : o % 4096 = 0) (hstack : isStack s.variant o = true) :
    fwLoadAct [o, n] s = (s.agentRead false o n).map (fun z => (errDone, [],
      { z with sec := z.sec.beginLoad (s.imageAt o n).1 (s.imageAt o n).2 })) :=
  if_neg (by simp [hfree, halign, hstack])

end

/-! ### FUSE_SVN -/

section
variable (s : State)

/-- The security engine once FUSE_SVN has risen (R528). -/
def SecState.withSvn (c : SecState) (n : Nat) : SecState :=
  { c with fuseSvn := n, validA := c.validA && n ≤ imgSvn c.slotA, validB := c.validB && n ≤ imgSvn c.slotB }

theorem State.commitSvn_of_le (h : min 64 (imgSvn s.sec.image) ≤ s.sec.fuseSvn) : s.commitSvn = s := if_pos h

theorem State.commitSvn_sec (h : ¬min 64 (imgSvn s.sec.image) ≤ s.sec.fuseSvn) : ∃ g,
    s.commitSvn.sec = (s.sec.withSvn (min 64 (imgSvn s.sec.image))).withGeneration g := by
  have hrise : s.commitSvn = ({ s with sec := s.sec.withSvn (min 64 (imgSvn s.sec.image)) } : State).measChanged := if_neg h
  rw [hrise]
  exact ⟨_, State.measChanged_sec _⟩

/-- FW_COMMIT_SVN: FUSE_SVN takes the greater value, and an image with a lower SVN is invalid from then on (R528). -/
theorem State.commitSvn_spec : s.commitSvn.sec.fuseSvn = max s.sec.fuseSvn (min 64 (imgSvn s.sec.image)) ∧
    s.commitSvn.sec.slotA = s.sec.slotA ∧ s.commitSvn.sec.slotB = s.sec.slotB ∧
    (s.commitSvn.sec.fuseSvn = s.sec.fuseSvn →
      s.commitSvn.sec.validA = s.sec.validA ∧ s.commitSvn.sec.validB = s.sec.validB) ∧
    (s.sec.fuseSvn < s.commitSvn.sec.fuseSvn →
      s.commitSvn.sec.validA = (s.sec.validA && decide (s.commitSvn.sec.fuseSvn ≤ imgSvn s.sec.slotA)) ∧
      s.commitSvn.sec.validB = (s.sec.validB && decide (s.commitSvn.sec.fuseSvn ≤ imgSvn s.sec.slotB))) := by
  by_cases h : min 64 (imgSvn s.sec.image) ≤ s.sec.fuseSvn
  · rw [State.commitSvn_of_le s h]
    exact ⟨(max_eq_left h).symm, rfl, rfl, fun _ => ⟨rfl, rfl⟩, fun hlt => absurd hlt (lt_irrefl _)⟩
  · obtain ⟨g, hsec⟩ := State.commitSvn_sec s h
    have hfuse : s.commitSvn.sec.fuseSvn = min 64 (imgSvn s.sec.image) := by rw [hsec]; rfl
    rw [hfuse]
    refine ⟨(max_eq_right (by omega)).symm, by rw [hsec]; rfl, by rw [hsec]; rfl, fun heq => ?_, fun _ => ?_⟩
    · exact absurd heq.le h
    · rw [hsec]
      exact ⟨rfl, rfl⟩

end

/-! ### The reservation record (R529) -/

section
variable (c : SecState)

theorem ResvCopy.valid_of (n : Nat) : (ResvCopy.of n).valid = true := decide_eq_true rfl

/-- A torn copy is invalid: its CRC-32 differs in bit 0 from the right one. -/
theorem ResvCopy.not_valid_torn (n : Nat) :
    ({ reserved := n, crc := (ResvCopy.of n).crc ^^^ 1 } : ResvCopy).valid = false := by
  refine decide_eq_false fun h => ?_
  have hcrc : (ResvCopy.of n).crc ^^^ 1 = (ResvCopy.of n).crc := congrArg ResvCopy.crc h
  generalize (ResvCopy.of n).crc = x at hcrc
  have hbit := congrArg (fun w : Word => w.getLsbD 0) hcrc
  simp at hbit

theorem SecState.load_tree : c.load.tree = c.load.next / 2 ^ 20 := rfl

theorem SecState.load_next : c.load.next =
    if c.copy1.valid && (!c.copy0.valid || decide (c.copy0.reserved < c.copy1.reserved)) then c.copy1.reserved
    else if c.copy0.valid then c.copy0.reserved else signTotal := rfl

variable {c} in
theorem SecState.load_next_of_both (h0 : c.copy0.valid = true) (h1 : c.copy1.valid = true) :
    c.load.next = max c.copy0.reserved c.copy1.reserved := by
  rw [SecState.load_next, h0, h1]
  by_cases h : c.copy0.reserved < c.copy1.reserved
  · simp [h, h.le]
  · simp [h, not_lt.1 h]

variable {c} in
theorem SecState.load_next_of_first (h0 : c.copy0.valid = true) (h1 : c.copy1.valid = false) :
    c.load.next = c.copy0.reserved := by
  rw [SecState.load_next, h0, h1]
  rfl

variable {c} in
theorem SecState.load_next_of_second (h0 : c.copy0.valid = false) (h1 : c.copy1.valid = true) :
    c.load.next = c.copy1.reserved := by
  rw [SecState.load_next, h0, h1]
  rfl

/-- The copy that is loaded. -/
def SecState.current : ResvCopy := if c.loaded then c.copy1 else c.copy0

theorem SecState.limit_eq : c.limit = c.current.reserved := by
  rw [SecState.limit, SecState.current]
  split <;> rfl

/-- The record is written in the copy that is not the loaded one. -/
theorem SecState.writeCopy_cases (x : ResvCopy) :
    ((c.writeCopy x).copy0 = x ∧ (c.writeCopy x).copy1 = c.current) ∨
      ((c.writeCopy x).copy0 = c.current ∧ (c.writeCopy x).copy1 = x) := by
  rw [SecState.writeCopy, SecState.current]
  split
  · exact .inl ⟨rfl, rfl⟩
  · exact .inr ⟨rfl, rfl⟩

/-- A record that is written whole beside the loaded copy: the greater RESERVED is taken. -/
theorem SecState.load_next_of_written (h : c.current.valid = true) {x : ResvCopy} (hx : x.valid = true) :
    (c.writeCopy x).load.next = max c.limit x.reserved := by
  rw [SecState.limit_eq]
  rcases SecState.writeCopy_cases c x with ⟨h0, h1⟩ | ⟨h0, h1⟩
  · rw [SecState.load_next_of_both (by rw [h0, hx]) (by rw [h1, h]), h0, h1, max_comm]
  · rw [SecState.load_next_of_both (by rw [h0, h]) (by rw [h1, hx]), h0, h1]

/-- A torn record beside the loaded copy: the loaded copy is taken. -/
theorem SecState.load_next_of_torn (h : c.current.valid = true) {x : ResvCopy} (hx : x.valid = false) :
    (c.writeCopy x).load.next = c.limit := by
  rw [SecState.limit_eq]
  rcases SecState.writeCopy_cases c x with ⟨h0, h1⟩ | ⟨h0, h1⟩
  · rw [SecState.load_next_of_second (by rw [h0, hx]) (by rw [h1, h]), h1]
  · rw [SecState.load_next_of_first (by rw [h0, h]) (by rw [h1, hx]), h0]

theorem SecState.cut_of_idle (v w : Word) (h : c.reserving = false) : c.cut v w = c := if_pos (by rw [h]; rfl)

/-- A reset during a write of the record: the next index is the loaded RESERVED, or the one being written (R529). -/
theorem SecState.load_next_of_cut (v w : Word) (hr : c.reserving = true) (h : c.current.valid = true) :
    (c.cut v w).load.next = c.limit ∨ (c.cut v w).load.next = c.limit + 1024 := by
  rw [SecState.cut, if_neg (by rw [hr]; decide)]
  split
  · refine .inr ?_
    rw [SecState.reserve, SecState.load_next_of_written c h (ResvCopy.valid_of _)]
    exact max_eq_right (Nat.le_add_right _ _)
  · exact .inl (SecState.load_next_of_torn c h (ResvCopy.not_valid_torn _))

/-- What a reset of the engine and a power-on reset have in common: the record is loaded after the cut (R509, R529). -/
theorem SecState.loaded_of_reset {d : SecState} {v w : Word} (h : d = c.reload v w ∨ d = c.powerOn v w) :
    d.next = (c.cut v w).load.next ∧ d.tree = (c.cut v w).load.tree ∧ d.queue = [] ∧ d.copy0 = (c.cut v w).copy0 ∧
      d.copy1 = (c.cut v w).copy1 := by
  rcases h with rfl | rfl
  · exact ⟨rfl, rfl, rfl, rfl, rfl⟩
  · exact ⟨rfl, rfl, rfl, rfl, rfl⟩

end
end Sys2Proof.Machine

namespace Sys2Proof.Machine

/-! ### FW_LOAD and its end (R527) -/

section
variable (c : SecState) (b : List Byte)

theorem SecState.beginLoad_spec (ok : Bool) : (c.beginLoad b ok).loading = some (b, ok) ∧
    (c.beginLoad b ok).slotRun = c.slotRun ∧ (c.beginLoad b ok).fuseSvn = c.fuseSvn ∧
    (ok = true → c.slotRun = some true → (c.beginLoad b ok).validA = false ∧ (c.beginLoad b ok).slotB = c.slotB ∧
      (c.beginLoad b ok).validB = c.validB) ∧
    (ok = true → c.slotRun ≠ some true → (c.beginLoad b ok).validB = false ∧ (c.beginLoad b ok).slotA = c.slotA ∧
      (c.beginLoad b ok).validA = c.validA) ∧
    (ok = false → c.beginLoad b ok = { c with loading := some (b, ok) }) := by
  obtain ⟨hload, hrun, hfuse⟩ := SecState.beginLoad_keeps c b ok
  refine ⟨hload, hrun, hfuse, fun hok h => ?_, fun hok h => ?_, fun hok => ?_⟩
  · subst hok
    rw [SecState.beginLoad_slotA c b h]
    exact ⟨rfl, rfl, rfl⟩
  · subst hok
    rw [SecState.beginLoad_slotB c b h]
    exact ⟨rfl, rfl, rfl⟩
  · subst hok
    exact SecState.beginLoad_rejected c b

theorem SecState.endLoad_spec : (c.endLoad b).loading = none ∧ (c.endLoad b).slotRun = c.slotRun ∧
    (c.slotRun = some true → (c.endLoad b).slotA = b ∧ (c.endLoad b).validA = true ∧ (c.endLoad b).slotB = c.slotB ∧
      (c.endLoad b).validB = c.validB) ∧
    (c.slotRun ≠ some true → (c.endLoad b).slotB = b ∧ (c.endLoad b).validB = true ∧ (c.endLoad b).slotA = c.slotA ∧
      (c.endLoad b).validA = c.validA) := by
  by_cases h : c.slotRun = some true
  · rw [SecState.endLoad_slotA c b h]
    exact ⟨rfl, rfl, fun _ => ⟨rfl, rfl, rfl, rfl⟩, fun hne => absurd h hne⟩
  · rw [SecState.endLoad_slotB c b h]
    exact ⟨rfl, rfl, fun hrun => absurd hrun h, fun _ => ⟨rfl, rfl, rfl, rfl⟩⟩

end

section
variable {s : State} {b : List Byte}

theorem execFwLoad_of_some {r : MbxReq} {k : Nat} {wr : Bool} {ws : List Word} {x : ItemRes}
    (h : s.asks r .sec (wrItem 0x10 4) k wr ws) (hx : fwLoadAct [natOf (ws.take 2), natOf (ws.drop 2)] s = some x) :
    exec (.fwLoad r) s = .next (x.2.2.mbxBegin r .sec 0x10 x.1 x.2.1) :=
  congrArg Host.Outcome.next (State.mbxRead_of_some (act := fwLoadAct)
    (prep := fun _ _ ws _ => [natOf (ws.take 2), natOf (ws.drop 2)]) h hx)

theorem execFwLoadComplete_of_valid (h : s.sec.loading = some (b, true)) :
    exec .fwLoadComplete s = .next { s with sec := s.sec.endLoad b } :=
  congrArg Host.Outcome.next (by simp only [h]; rfl)

/-- FW_REJECTED is latched and raised (R527). -/
def State.reportRejected (s : State) : State :=
  (({ s with sec := { s.sec with loading := none } } : State).latch .sec 0 0x800 (· ||| flag true 23)).raise .sec 0 0x8001

theorem execFwLoadComplete_of_invalid (h : s.sec.loading = some (b, false)) :
    exec .fwLoadComplete s = .next s.reportRejected :=
  congrArg Host.Outcome.next (by simp only [h]; rfl)

theorem State.reportRejected_sec (s : State) : s.reportRejected.sec = { s.sec with loading := none } :=
  (State.raise_traffic _ .sec 0 0x8001).sec

theorem State.reportRejected_mem (s : State) : s.reportRejected.mem = s.mem := by
  obtain ⟨p, o, h⟩ := State.raise_eq (({ s with sec := { s.sec with loading := none } } : State).latch .sec 0 0x800
    (· ||| flag true 23)) .sec 0 0x8001
  rw [State.reportRejected, h]
  rfl

theorem State.reportRejected_sq (s : State) : bit (s.reportRejected.sq .sec 0 0x800) 23 = true := by
  rw [State.reportRejected, State.raise, State.sq_raiseAt, State.sq_latch_same]
  exact bit_or_flag_same _ 23 (by decide)

theorem State.reportRejected_source (s : State) : (s.reportRejected.source (srcKey .sec 0)).lastCode = 0x8001 := by
  rw [State.reportRejected, State.raise, State.source_raiseAt, if_pos rfl]
  rfl

end

/-! ### Writes of the reservation record (R529) -/

theorem SecState.reserving_of {c : SecState} (hq : c.queue ≠ []) (hl : c.limit ≤ c.next) (ht : c.next < signTotal) :
    c.reserving = true := by simp [SecState.reserving, hq, hl, ht]

/-- A write of the record raises RESERVED, and leaves the copy that was loaded, the next index and the requests. -/
theorem SecState.reserve_spec (c : SecState) : c.reserve.limit = c.limit + 1024 ∧ c.reserve.next = c.next ∧
    c.reserve.queue = c.queue ∧
    (c.loaded = true → c.reserve.copy1 = c.copy1 ∧ c.reserve.copy0 = ResvCopy.of (c.limit + 1024)) ∧
    (c.loaded = false → c.reserve.copy0 = c.copy0 ∧ c.reserve.copy1 = ResvCopy.of (c.limit + 1024)) := by
  cases h : c.loaded with
  | true =>
    have hres : c.reserve = { c with copy0 := ResvCopy.of (c.limit + 1024), loaded := false } := if_pos h
    rw [hres]
    exact ⟨rfl, rfl, rfl, fun _ => ⟨rfl, rfl⟩, fun hno => Bool.noConfusion hno⟩
  | false =>
    have hres : c.reserve = { c with copy1 := ResvCopy.of (c.limit + 1024), loaded := true } :=
      if_neg (by rw [h]; decide)
    rw [hres]
    exact ⟨rfl, rfl, rfl, fun hno => Bool.noConfusion hno, fun _ => ⟨rfl, rfl⟩⟩

/-! ### Attestation messages (R530 to R534) -/

section
variable (s : State)

theorem SecState.withMeas_requests (c : SecState) (l : List Nat) (m : Tab (List Byte)) :
    (c.withMeas l m).queue = c.queue ∧ (c.withMeas l m).next = c.next := ⟨rfl, rfl⟩

theorem SecState.withGeneration_requests (c : SecState) (n : Nat) :
    (c.withGeneration n).queue = c.queue ∧ (c.withGeneration n).next = c.next := ⟨rfl, rfl⟩

theorem State.remeasure_requests (p : Nat) :
    (s.remeasure p).sec.queue = s.sec.queue ∧ (s.remeasure p).sec.next = s.sec.next := by
  rw [State.remeasure_sec, (SecState.withGeneration_requests _ _).1, (SecState.withGeneration_requests _ _).2,
    State.remeasuredSec]
  exact SecState.withMeas_requests _ _ _

theorem State.remeasure_mem (p : Nat) : (s.remeasure p).mem = s.mem := by
  by_cases h : s.measureNow p = Tab.get (measReset p) s.sec.meas p
  · have hsame : s.remeasure p = { s with sec := s.remeasuredSec p } := if_pos h
    rw [hsame]
  · have hchanged : s.remeasure p = ({ s with sec := s.remeasuredSec p } : State).measChanged := if_neg h
    rw [hchanged, State.measChanged_mem]

theorem State.remeasureAll_requests :
    s.remeasureAll.sec.queue = s.sec.queue ∧ s.remeasureAll.sec.next = s.sec.next :=
  foldl_keeps (fun t : State => t.sec.queue = s.sec.queue ∧ t.sec.next = s.sec.next) (fun t p => t.remeasure p)
    (fun t p ht => ⟨(State.remeasure_requests t p).1.trans ht.1, (State.remeasure_requests t p).2.trans ht.2⟩) _ s
    ⟨rfl, rfl⟩

theorem State.remeasureAll_mem : s.remeasureAll.mem = s.mem :=
  foldl_keeps (fun t : State => t.mem = s.mem) (fun t p => t.remeasure p)
    (fun t p ht => (State.remeasure_mem t p).trans ht) _ s rfl

/-- A request as it waits: what the grants hold at its arrival is captured (R533, R534). -/
def State.signReq (via : Via) (bytes : List Byte) : SignReq :=
  { via := via, request := bytes, gen := s.sec.generation, blocks := s.measBlocks (leAt bytes 36 8) }

/-- The request waits behind those that the engine has accepted. -/
def State.enqueue (q : SignReq) : State := { s with sec := { s.sec with queue := s.sec.queue ++ [q] } }

/-- SIGN_LOW, raised once (R530). -/
def State.watchLow : State :=
  if signTotal - s.sec.next < 2 ^ 32 && !s.sec.lowRaised then
    (({ s with sec := { s.sec with lowRaised := true } } : State).latch .sec 0 0x800 (· ||| flag true 22)).raise .sec 0 0x8002
  else s

/-- SIGN_EXHAUSTED, raised once (R530). -/
def State.watchExhausted : State :=
  if signTotal ≤ s.sec.next && !s.sec.exhaustedRaised then
    (({ s with sec := { s.sec with exhaustedRaised := true } } : State).latch .sec 0 0x800 (· ||| flag true 21)).raise .sec 0
      0x8003
  else s

theorem State.signWatch_eq : s.signWatch = s.watchLow.watchExhausted := rfl

/-- The index and the requests stay, and what has left the module stays out. -/
def State.SameRequests (t : State) : Prop :=
  t.sec.next = s.sec.next ∧ t.sec.queue = s.sec.queue ∧ s.out <:+ t.out

theorem State.watchLow_requests : s.SameRequests s.watchLow := by
  rw [State.watchLow]
  split
  · have hraise := State.raise_traffic (({ s with sec := { s.sec with lowRaised := true } } : State).latch .sec 0 0x800
      (· ||| flag true 22)) .sec 0 0x8002
    rw [State.SameRequests, hraise.sec]
    exact ⟨rfl, rfl, hraise.out⟩
  · exact ⟨rfl, rfl, List.suffix_rfl⟩

theorem State.watchExhausted_requests : s.SameRequests s.watchExhausted := by
  rw [State.watchExhausted]
  split
  · have hraise := State.raise_traffic (({ s with sec := { s.sec with exhaustedRaised := true } } : State).latch .sec 0 0x800
      (· ||| flag true 21)) .sec 0 0x8003
    rw [State.SameRequests, hraise.sec]
    exact ⟨rfl, rfl, hraise.out⟩
  · exact ⟨rfl, rfl, List.suffix_rfl⟩

/-- SIGN_LOW and SIGN_EXHAUSTED leave the index and the requests (R530). -/
theorem State.signWatch_requests : s.SameRequests s.signWatch := by
  obtain ⟨hnext, hqueue, hout⟩ := State.watchLow_requests s
  obtain ⟨hnext', hqueue', hout'⟩ := State.watchExhausted_requests s.watchLow
  rw [State.signWatch_eq]
  exact ⟨hnext'.trans hnext, hqueue'.trans hqueue, hout.trans hout'⟩

section
variable {s : State} {via : Via} {bytes : List Byte}

theorem execGetMeasurements_of_heard (h : s.secHears via = true) : exec (.getMeasurements via bytes) s =
    .next (if s.sec.busy via then s.measRefuse via 1 else if !(measRequestOk bytes) then s.measRefuse via 3
      else if s.sec.left = 0 then s.signWatch.measRefuse via 2
      else s.remeasureAll.enqueue (s.remeasureAll.signReq via bytes)) :=
  congrArg Host.Outcome.next (if_neg (by rw [h]; decide))

theorem execGetIdentity_of_heard (h : s.secHears via = true) : exec (.getIdentity via bytes) s =
    .next (if s.sec.busy via then s.emit (.message via (respHead 0x91 1))
      else if bytes ≠ [1, 0x11, 0, 0] then s.emit (.message via (respHead 0x91 3))
      else s.emit (.message via (respHead 0x91 0 ++ hssPublic false ++ leBytes 16 Config.serialNumber.toNat ++ endorsement))) :=
  congrArg Host.Outcome.next (if_neg (by rw [h]; decide))

end

/-- The oldest request is answered with the next index (R529, R530). -/
def State.answered (q : SignReq) (rest : List SignReq) : State :=
  ({ s with sec := { s.sec with queue := rest, next := s.sec.next + 1 } } : State).emit
    (.message q.via (q.response ++ hssSign false s.sec.next (q.request ++ q.response)))

variable {s} in
theorem execSignatureRelease_of_held {q : SignReq} {rest : List SignReq} (hq : s.sec.queue = q :: rest)
    (h : s.sec.limit ≤ s.sec.next) : exec .signatureRelease s = .next s := by
  refine congrArg Host.Outcome.next ?_
  simp only [hq]
  exact if_pos (by simp [h])

variable {s} in
theorem execSignatureRelease_of_free {q : SignReq} {rest : List SignReq} (hq : s.sec.queue = q :: rest)
    (hlimit : s.sec.next < s.sec.limit) (htree : s.sec.next / 2 ^ 20 ≤ s.sec.tree) (htotal : s.sec.next < signTotal) :
    exec .signatureRelease s = .next (s.answered q rest).signWatch := by
  have hgo : ¬(decide (s.sec.limit ≤ s.sec.next) || decide (s.sec.tree < s.sec.next / 2 ^ 20) ||
      decide (signTotal ≤ s.sec.next)) = true := by
    simp only [Bool.or_eq_true, decide_eq_true_eq]
    omega
  refine congrArg Host.Outcome.next ?_
  simp only [hq]
  exact if_neg hgo

end

/-! ### Lengths of keys and signatures (R523) -/

theorem length_leBytes (n v : Nat) : (leBytes n v).length = n := by
  induction n generalizing v with
  | zero => rfl
  | succ n ih => rw [leBytes, List.length_cons, ih]

theorem length_beBytes (n v : Nat) : (beBytes n v).length = n := by
  rw [beBytes, List.length_reverse, length_leBytes]

theorem length_lmsPublic (m : Bool) (tree : Nat) : (lmsPublic m tree).length = 56 := by
  simp [lmsPublic, lmsType, otsType, length_beBytes, length_leBytes]

theorem length_hssPublic (m : Bool) : (hssPublic m).length = 60 := by
  rw [hssPublic, List.length_append, length_beBytes, length_lmsPublic]

theorem length_lmsSign (m : Bool) (tree leaf : Nat) (msg : List Byte) : (lmsSign m tree leaf msg).length = 1772 := by
  simp [lmsSign, lmsType, otsType, length_beBytes, length_leBytes, List.length_flatMap]

theorem length_hssSign (m : Bool) (q : Nat) (msg : List Byte) : (hssSign m q msg).length = 3604 := by
  simp [hssSign, length_beBytes, length_lmsPublic, length_lmsSign]

/-! ### Recovery (R526, R533) -/

theorem getD_overlay {α : Type} (d : α) {l n : List α} {o i : Nat} (ho : o ≤ l.length) (hi : i < n.length) :
    (overlay l o n).getD (o + i) d = n.getD i d := by
  have htake : (l.take o).length = o := by rw [List.length_take]; omega
  rw [overlay, List.append_assoc, List.getD_append_right _ _ _ _ (by omega), htake, Nat.add_sub_cancel_left,
    List.getD_append _ _ _ _ hi]

section
variable {s : State}

/-- Slot A once bytes of an image have come in at an offset; bytes between are 0. -/
def State.recovered (s : State) (off : Nat) (bytes : List Byte) : List Byte :=
  overlay (s.sec.slotA ++ List.replicate (off - s.sec.slotA.length) 0) off bytes

theorem State.getD_recovered {off i : Nat} {bytes : List Byte} (hi : i < bytes.length) :
    (s.recovered off bytes).getD (off + i) 0 = bytes.getD i 0 :=
  getD_overlay 0 (by rw [List.length_append, List.length_replicate]; omega) hi

/-- The security engine with another image in slot A, and what its validity says of recovery. -/
def SecState.withRecovered (c : SecState) (b : List Byte) (ok : Bool) : SecState :=
  { c with slotA := b, validA := ok, recovery := !ok }

theorem execFwRecover_of_recovery {head : RecoverHead} {bytes b : List Byte} (hstandby : s.power.standby = true)
    (hrec : s.sec.recovery = true) (hvia : head.via = viaMctp) (hhead : head.head = 0x1201) (hlen : bytes.length ≤ 1024)
    (hmax : head.off.toNat + bytes.length ≤ imgMax) (hb : s.recovered head.off.toNat bytes = b) :
    exec (.fwRecover head bytes) s = .next { s with sec := s.sec.withRecovered b (imageValid s.sec.fuseSvn b) } := by
  have hgo : ¬(!s.power.standby || !s.sec.recovery || decide (head.via ≠ viaMctp) || decide (head.head ≠ 0x1201) ||
      decide (1024 < bytes.length) || decide (imgMax < head.off.toNat + bytes.length)) = true := by
    simp only [hstandby, hrec, hvia, hhead, ne_eq, not_true_eq_false, Bool.not_true, decide_false, Bool.false_or,
      Bool.or_eq_true, decide_eq_true_eq]
    omega
  subst hb
  refine congrArg Host.Outcome.next ((if_neg hgo).trans ?_)
  cases hvalid : imageValid s.sec.fuseSvn (s.recovered head.off.toNat bytes) with
  | true => exact if_pos hvalid
  | false =>
    have hsame : s.sec.withRecovered (s.recovered head.off.toNat bytes) false =
        s.sec.store false (s.recovered head.off.toNat bytes) false :=
      congrArg (fun r => { s.sec with slotA := s.recovered head.off.toNat bytes, validA := false, recovery := r }) hrec.symm
    rw [hsame]
    exact if_neg (by rw [Bool.not_eq_true]; exact hvalid)

end

/-! ### IDE streams and the endpoint ID (R119, R533) -/

section
variable {s : State}

theorem State.ideRoom_of_none (x : IdeStream) (h : s.pci.ide = []) : s.ideRoom x = true := by
  simp only [State.ideRoom, h]
  split <;> rfl

theorem execMctpControlMessage_of_request {bytes : List Byte} (hstandby : s.power.standby = true)
    (hrun : s.sec.slotRun.isSome = true) (hlen : 3 ≤ bytes.length) (hkind : bytes.getD 0 0 = 0)
    (hrq : (bytes.getD 1 0).getLsbD 7 = true) : exec (.mctpControlMessage bytes) s =
      .next (({ s with sec := { s.sec with eid := (mctpAnswer bytes s.sec.eid).2 } } : State).emit
        (.mctpControl (mctpAnswer bytes s.sec.eid).1)) := by
  have hsome : s.sec.slotRun.isNone = false := by rw [← Option.not_isSome, hrun]; rfl
  refine congrArg Host.Outcome.next (if_neg ?_)
  simp only [hstandby, hsome, hkind, hrq, ne_eq, not_true_eq_false, Bool.not_true, decide_false, Bool.false_or,
    Bool.or_false, decide_eq_true_eq]
  omega

theorem mctpAnswer_setEid (head new eid : Byte) (h0 : new ≠ 0) (hff : new ≠ 0xFF) :
    mctpAnswer [0, head, 1, 0, new] eid = ([0, head &&& 0x1F, 1, 0, 0, new, 0], new) := by
  simp only [mctpAnswer]
  refine (if_pos (by simp)).trans (if_pos ?_)
  simpa using ⟨h0, hff⟩

theorem mctpAnswer_getEid (head eid : Byte) :
    mctpAnswer [0, head, 2] eid = ([0, head &&& 0x1F, 2, 0, eid, 0, 0], eid) := by
  simp [mctpAnswer]

end
end Sys2Proof.Machine

namespace Sys2Proof.Proofs.HostPartitionsContexts
open Sys2Proof Sys2Proof.Machine

/-- Settles O58: an accepted item runs its own rule, firmware and record change the security engine alone, and what a reset
loads is read off the copies that the cut has left. -/
theorem firmwareAndIdentity : Obligations.FirmwareAndIdentity := by
  unfold Obligations.FirmwareAndIdentity
  refine ⟨fun r s k ws => ⟨fun h => ⟨fun hfree halign hstack => ⟨fun z hz => ?_, fun hz => ?_⟩, fun hbusy => ?_⟩, fun h => ?_,
      fun h => ⟨fun hkey hfree => ?_, fun hbad => ?_⟩, fun h => ?_, fun h => ?_, fun h => ?_, fun d h hd => ?_⟩,
    fun s b ok hload => ?_,
    fun via bytes s hhears => ⟨fun hbusy => ?_, fun hbusy hbad => ?_, fun hbusy hok hleft => ?_, fun hbusy => ?_,
      fun hbusy hbytes => ?_, fun hbusy => ?_⟩,
    fun m q msg => ⟨length_hssSign m q msg, length_hssPublic m⟩,
    fun head bytes s hstandby hrec hvia hhead hlen hmax => ?_, fun s hq hlimit htotal => ?_, fun c d v w hd => ?_,
    fun s q rest hq => ⟨fun hlimit htree htotal => ?_, fun hlimit => execSignatureRelease_of_held hq hlimit⟩,
    fun s htree hhalf => ?_, fun s htree => ?_,
    fun x key s hready => ⟨fun hfull => ?_, State.ideRoom_of_none x, fun hroom => ?_⟩,
    fun head new s hstandby hrun hrq h0 hff => ⟨?_, ?_⟩⟩
  · have hsec := (State.agentReads_traffic hz).sec
    have hact := fwLoadAct_of_free hfree halign hstack (n := natOf (ws.drop 2))
    rw [hz, Option.map_some, hsec] at hact
    exact ⟨_, execFwLoad_of_some h hact, rfl, SecState.beginLoad_spec s.sec _ _⟩
  · have hact := fwLoadAct_of_free hfree halign hstack (n := natOf (ws.drop 2))
    rw [hz, Option.map_none] at hact
    exact congrArg Host.Outcome.next (State.mbxRead_of_none (act := fwLoadAct)
      (prep := fun _ _ ws _ => [natOf (ws.take 2), natOf (ws.drop 2)]) h hact)
  · exact execFwLoad_of_some h (fwLoadAct_of_busy hbusy)
  · exact congrArg Host.Outcome.next (State.mbxRun_asks h)
  · have hrun : exec (.fwCommitSvn r) s = .next (s.commitSvn.mbxBegin r .sec 0x12 errDone []) := by
      refine congrArg Host.Outcome.next ((State.mbxRun_asks h).trans ?_)
      simp only [hkey, hfree]
      rfl
    obtain ⟨hfuse, hslotA, hslotB, hsame, hrise⟩ := State.commitSvn_spec s
    exact ⟨_, hrun, hfuse, State.commitSvn_mem, hslotA, hslotB, hsame, hrise⟩
  · refine congrArg Host.Outcome.next ((State.mbxRun_asks h).trans ?_)
    have hcond : (decide (ws.getD 0 0 ≠ 0x5AA5) || s.sec.loading.isSome) = true := by simpa using hbad
    simp only [hcond, if_true]
    rfl
  · exact congrArg Host.Outcome.next (State.mbxRun_asks h)
  · exact congrArg Host.Outcome.next (State.mbxGet_asks h)
  · exact congrArg Host.Outcome.next (State.mbxRun_asks h)
  · refine congrArg Host.Outcome.next ((State.mbxRun_asks h).trans ?_)
    simp only [hd, Option.getD_some]
    rfl
  · cases ok with
    | true =>
      obtain ⟨hnone, hrun, hA, hB⟩ := SecState.endLoad_spec s.sec b
      refine ⟨_, execFwLoadComplete_of_valid hload, hnone, hrun, rfl, fun _ h => ?_, fun _ h => ?_,
        fun hno => Bool.noConfusion hno⟩
      · obtain ⟨h1, h2, h3, h4⟩ := hA h
        exact ⟨h1, h2, h3, h4, rfl⟩
      · obtain ⟨h1, h2, h3, h4⟩ := hB h
        exact ⟨h1, h2, h3, h4, rfl⟩
    | false =>
      have hsec := State.reportRejected_sec s
      exact ⟨_, execFwLoadComplete_of_invalid hload, by rw [hsec], by rw [hsec],
        State.reportRejected_mem s, fun hno => Bool.noConfusion hno, fun hno => Bool.noConfusion hno,
        fun _ => ⟨hsec, State.reportRejected_sq s, State.reportRejected_source s⟩⟩
  · rw [execGetMeasurements_of_heard hhears, if_pos hbusy]
    rfl
  · rw [execGetMeasurements_of_heard hhears, if_neg (by rw [hbusy]; decide), if_pos (by rw [hbad]; rfl)]
    rfl
  · obtain ⟨hqueue, hnext⟩ := State.remeasureAll_requests s
    refine ⟨s.remeasureAll.enqueue (s.remeasureAll.signReq via bytes), s.remeasureAll.signReq via bytes, ?_, ?_, rfl, rfl, rfl,
      rfl, hnext, State.remeasureAll_mem s⟩
    · rw [execGetMeasurements_of_heard hhears, if_neg (by rw [hbusy]; decide), if_neg (by rw [hok]; decide), if_neg hleft]
    · rw [← hqueue]
      rfl
  · rw [execGetIdentity_of_heard hhears, if_neg (by rw [hbusy]; decide), if_neg (fun h => h rfl)]
  · rw [execGetIdentity_of_heard hhears, if_neg (by rw [hbusy]; decide), if_pos hbytes]
  · rw [execGetIdentity_of_heard hhears, if_pos hbusy]
  · exact ⟨_, execFwRecover_of_recovery hstandby hrec hvia hhead hlen hmax rfl, rfl, rfl,
      fun i hi => State.getD_recovered hi, rfl, rfl⟩
  · exact ⟨_, congrArg Host.Outcome.next (if_pos (SecState.reserving_of hq hlimit htotal)), rfl, SecState.reserve_spec s.sec⟩
  · obtain ⟨hnext, htree, hqueue, h0, h1⟩ := SecState.loaded_of_reset c hd
    refine ⟨?_, hqueue, fun hidle => ?_, fun hres hvalid => ?_⟩
    · rw [htree, hnext, SecState.load_tree]
    · rw [SecState.cut_of_idle c v w hidle] at hnext h0 h1
      rw [hnext]
      exact ⟨h0, h1, SecState.load_next_of_both, SecState.load_next_of_first, SecState.load_next_of_second⟩
    · rw [hnext]
      exact SecState.load_next_of_cut c v w hres hvalid
  · obtain ⟨hnext, hqueue, l, hout⟩ := State.signWatch_requests (s.answered q rest)
    exact ⟨_, l, execSignatureRelease_of_free hq hlimit htree htotal, hnext, hqueue, State.signWatch_mem, hout.symm⟩
  · have hhere : (decide (s.sec.tree = s.sec.next / 2 ^ 20) && decide (2 ^ 19 ≤ s.sec.next % 2 ^ 20)) = true := by
      rw [decide_eq_true htree, decide_eq_true hhalf]
      rfl
    refine congrArg Host.Outcome.next ((if_neg (by omega)).trans ((if_pos hhere).trans ?_))
    rw [← htree]
  · exact congrArg Host.Outcome.next (if_pos htree)
  · exact congrArg Host.Outcome.next (if_neg (by rw [hready, hfull]; decide))
  · exact ⟨_, congrArg Host.Outcome.next (if_pos (by rw [hready, hroom]; rfl)), Tab.get_set_same _ _ _ _,
      fun n hn => Tab.get_set_ne _ _ _ _ hn.symm, rfl⟩
  · refine ⟨_, execMctpControlMessage_of_request hstandby hrun (by simp) rfl hrq, ?_, ?_⟩
    all_goals
      rw [mctpAnswer_setEid head new s.sec.eid h0 hff]
      rfl
  · exact ⟨_, execMctpControlMessage_of_request hstandby hrun (by simp) rfl hrq, by rw [mctpAnswer_getEid]; rfl,
      by rw [mctpAnswer_getEid]; rfl⟩

end Sys2Proof.Proofs.HostPartitionsContexts

namespace Sys2Proof.Machine

/-!
## What a walk of the page tables leaves (R149, R150, R347 to R352)

A fetch reads table entries and holds a translation: registers, events, stacks, slices and context slots change, and
nothing else. `State.bench` is what stays, and `f_bench` says so of an operation `f`.
-/

/-- The state but for what reading page tables changes. -/
def State.bench (s : State) : State :=
  { s with regs := {}, pci := {}, ctxs := [], slices := [], hbm := {}, slowUncorr := [], out := [] }

section
variable {s t : State}

theorem State.core_of_bench (h : t.bench = s.bench) (k : Nat) : t.core k = s.core k := by
  have hcores : t.cores = s.cores := (congrArg State.cores h :)
  simp only [State.core, hcores]

theorem State.now_of_bench (h : t.bench = s.bench) : t.now = s.now := (congrArg State.now h :)

theorem State.mem_of_bench (h : t.bench = s.bench) : t.mem = s.mem := (congrArg State.mem h :)

theorem State.works_of_bench (h : t.bench = s.bench) : t.works = s.works := (congrArg State.works h :)

theorem State.power_of_bench (h : t.bench = s.bench) : t.power = s.power := (congrArg State.power h :)

theorem State.fr_of_bench (h : t.bench = s.bench) : t.fr = s.fr := (congrArg State.fr h :)

theorem State.freeWord_of_bench (h : t.bench = s.bench) : t.freeWord = s.freeWord :=
  congrArg Config.freeWord (congrArg State.free h :)

/-- A fold of operations that each leave the bench leaves it. -/
theorem foldl_bench {α : Type} {f : State → α → State} (h : ∀ s a, (f s a).bench = s.bench) (l : List α)
    (s : State) : (l.foldl f s).bench = s.bench :=
  foldl_keeps (fun t : State => t.bench = s.bench) f (fun t a ht => (h t a).trans ht) l s rfl

theorem State.bench_ite {c : Prop} [Decidable c] {a b : State} (ha : a.bench = s.bench) (hb : b.bench = s.bench) :
    (if c then a else b).bench = s.bench := by
  split
  · exact ha
  · exact hb

end

section
variable (s : State)

theorem State.raise_bench (b : Block) (i : Nat) (code : BitVec 16) : (s.raise b i code).bench = s.bench := by
  obtain ⟨p, o, h⟩ := State.raise_eq s b i code
  rw [h]
  rfl

theorem State.correction_bench (a : Nat) : (s.correction a).bench = s.bench := by
  simp only [State.correction]
  exact State.bench_ite (State.raise_bench _ _ _ _) rfl

theorem State.withHbm_bench (x : HbmState) : ({ s with hbm := x } : State).bench = s.bench := rfl

theorem State.withSlowUncorr_bench (x : Tab Nat) : ({ s with slowUncorr := x } : State).bench = s.bench := rfl

theorem State.reportUncorr_bench (a : Nat) : (s.reportUncorr a).bench = s.bench := by
  simp only [State.reportUncorr]
  split
  · exact (State.withHbm_bench _ _).trans (State.raise_bench _ _ _ _)
  · exact (State.withSlowUncorr_bench _ _).trans (State.raise_bench _ _ _ _)

theorem State.burst_bench (line : Nat) (m : BitVec 4) (w : Bool) : (s.burst line m w).bench = s.bench := by
  simp only [State.burst]
  split <;> rfl

theorem State.readSector_bench (n : Nat) : (s.readSector n).bench = s.bench := by
  have hfix : ((s.setUpset n 0).correction (32 * n)).bench = s.bench := State.correction_bench (s.setUpset n 0) _
  simp only [State.readSector]
  exact State.bench_ite (State.reportUncorr_bench s _)
    (State.bench_ite rfl (State.bench_ite ((State.burst_bench _ _ _ _).trans hfix) hfix))

theorem State.hbmFetch_bench (line : Nat) (m : BitVec 4) : (s.hbmFetch line m).bench = s.bench := by
  simp only [State.hbmFetch]
  refine State.bench_ite rfl ((foldl_bench (fun t i => ?_) _ _).trans (State.burst_bench s line m false))
  exact State.bench_ite (State.readSector_bench t _) rfl

theorem State.deadRead_bench (line : Nat) (fault : Bool) : (s.deadRead line fault).bench = s.bench := by
  simp only [State.deadRead]
  exact State.bench_ite (State.raise_bench _ _ _ _) rfl

theorem State.readTable_bench (ea : Nat) : (s.readTable ea).bench = s.bench := by
  have hdead : (s.noteFault ea 8 0x300B).bench = s.bench :=
    foldl_bench (fun t l => State.bench_ite (State.deadRead_bench t _ _) rfl) _ s
  exact State.bench_ite hdead (State.bench_ite rfl (State.hbmFetch_bench s _ _))

theorem State.walkReads_bench (c va : Nat) : (s.walkReads c va).bench = s.bench := by
  simp only [State.walkReads]
  split
  · rfl
  · exact foldl_bench State.readTable_bench _ s

theorem State.holdTlb_bench (c va : Nat) (l : Leaf) : (s.holdTlb c va l).bench = s.bench := State.walkReads_bench s c va

end

/-!
## The issue of a bundle (R150, R166, R167, R175, R188)
-/

section
variable {s : State} {b : Bundle} {i : Issue} {dst src : List Nat} {kind : IssueKind} {lf : Leaf} {a : Nat}

theorem State.isSome_launch_of_running {k : Nat} {wl : Work × Launch} (h : s.running k = some wl) :
    (s.core k).launch.isSome = true := by
  obtain ⟨j, hj, -⟩ := Option.bind_eq_some_iff.1 h
  rw [hj]
  rfl

/-- A core with a launch is no core that a fault has stopped in this cycle (R188). -/
theorem State.orGhost_of_launch {k : Nat} {f : State → State} (h : (s.core k).launch.isSome = true) :
    s.orGhost k f = f s := by
  have hghost : s.ghost k = none := if_pos h
  simp only [State.orGhost, hghost]

/-- The group a bundle names, with its strand at the bundle's address (R175). -/
def Core.pick (c : Core) (pc gs : Nat) : Option (Group × Strand) :=
  (c.group gs).bind (fun g => (g.strandAt pc).map (fun t => (g, t)))

/-- The launch of a bundle that issues, and where its strands come from. -/
theorem State.bundleOf_spec (h : s.bundleOf b = some i) :
    s.running b.core.val = some (i.work, i.l) ∧ b.groups.Nodup ∧
      b.groups.mapM (fun g => (s.core b.core.val).pick b.pc.toNat g.val) = some i.sel := by
  obtain ⟨wl, hrun, hrest⟩ := Option.bind_eq_some_iff.1 h
  obtain ⟨sel, hsel, hif⟩ := Option.bind_eq_some_iff.1 hrest
  split at hif
  next hcond =>
    cases hif
    simp only [Bool.and_eq_true, decide_eq_true_eq] at hcond
    exact ⟨hrun, by tauto, hsel⟩
  next => cases hif

theorem State.issue_of_bundleOf {f : Issue → State → State} (h : s.bundleOf b = some i) :
    s.issue b dst src kind f = s.issueNow b dst src kind f :=
  State.orGhost_of_launch (State.isSome_launch_of_running (State.bundleOf_spec h).1)

/-- An instruction with a register that is not there (R188). -/
theorem State.issue_of_breaks {f : Issue → State → State} (h : s.bundleOf b = some i)
    (hx : s.xlate i.ctx b.pc.toNat .exec .core = .ok (lf, a)) (hr : (dst ++ src).any (breaksRegs i.l.regs) = true) :
    s.issue b dst src kind f = s.coreFault b.core.val i.bslot 0 0x3002 := by
  rw [State.issue_of_bundleOf h]
  simp only [State.issueNow, h, hx, hr, if_true]

/-- A bundle that issues takes effect in a state whose bench is as it was. -/
theorem State.issue_of_issuesAny (h : s.issuesAny b dst src kind i lf a) (f : Issue → State → State) :
    ∃ t : State, t.bench = s.bench ∧ s.issue b dst src kind f = f i (t.doubt b.core.val i.threads src) := by
  obtain ⟨hb, hx, hr, hp, hport, hrank, hmem⟩ := h
  refine ⟨_, State.holdTlb_bench s i.ctx b.pc.toNat lf, ?_⟩
  rw [State.issue_of_bundleOf hb]
  simp only [Bool.and_eq_false_iff, Bool.or_eq_false_iff, decide_eq_false_iff_not] at hmem
  simp only [State.issueNow, hb, hx, hr, hp, hport, hrank]
  rcases hmem with hk | ⟨hfence, hfull⟩
  · simp [hk]
  · simp [hfence, hfull]

theorem State.doubt_of_unmarked {k : Nat} {ts src : List Nat} (h : s.power.coreFail.contains k = false) :
    s.doubt k ts src = s := if_neg (by rw [h]; decide)

theorem State.issue_of_issues (h : s.issues b dst src kind i lf a) (f : Issue → State → State) :
    ∃ t : State, t.bench = s.bench ∧ s.issue b dst src kind f = f i t := by
  obtain ⟨hany, hmark⟩ := h
  obtain ⟨t, hbench, heq⟩ := State.issue_of_issuesAny hany f
  rw [State.doubt_of_unmarked (by rw [State.power_of_bench hbench]; exact hmark)] at heq
  exact ⟨t, hbench, heq⟩

/-- What an instruction does that issues. -/
theorem exec_of_issues {ins : Instr} {f : Issue → State → State} (h : s.issues b dst src kind i lf a)
    (hexec : exec ins s = .next (s.issue b dst src kind f)) :
    ∃ u : State, u.bench = s.bench ∧ exec ins s = .next (f i u) := by
  obtain ⟨u, hbench, hissue⟩ := State.issue_of_issues h f
  exact ⟨u, hbench, by rw [hexec, hissue]⟩

end

end Sys2Proof.Machine

namespace Sys2Proof.Machine

/-! ### Threads of an issue (R160, R175) -/

section
variable {c : Core} {pc gs : Nat} {p : Group × Strand}

theorem Core.gs_of_group {g : Group} (h : c.group gs = some g) : g.gs = gs := by
  simpa using List.find?_some h

theorem Core.pick_eq_some : c.pick pc gs = some p ↔ c.group gs = some p.1 ∧ p.1.strandAt pc = some p.2 := by
  obtain ⟨g, x⟩ := p
  simp only [Core.pick, Option.bind_eq_some_iff, Option.map_eq_some_iff, Prod.mk.injEq]
  constructor
  · rintro ⟨_, hg, _, hx, rfl, rfl⟩
    exact ⟨hg, hx⟩
  · rintro ⟨hg, hx⟩
    exact ⟨g, hg, x, hx, rfl, rfl⟩

/-- What a bundle selects: of each group it names, in their order, a strand at its address. -/
theorem Core.picked (gss : List GroupSlot) {sel : List (Group × Strand)}
    (h : gss.mapM (fun g => c.pick pc g.val) = some sel) :
    sel.map (·.1.gs) = gss.map (·.val) ∧ ∀ q ∈ sel, c.group q.1.gs = some q.1 ∧ q.1.strandAt pc = some q.2 := by
  induction gss generalizing sel with
  | nil =>
    cases h
    exact ⟨rfl, fun q hq => absurd hq List.not_mem_nil⟩
  | cons g gss ih =>
    rw [List.mapM_cons] at h
    obtain ⟨p, hp, hrest⟩ := Option.bind_eq_some_iff.1 h
    obtain ⟨ps, hps, hcons⟩ := Option.bind_eq_some_iff.1 hrest
    cases hcons
    obtain ⟨hgs, hall⟩ := ih hps
    obtain ⟨hgroup, hstrand⟩ := Core.pick_eq_some.1 hp
    have hslot := Core.gs_of_group hgroup
    refine ⟨by rw [List.map_cons, List.map_cons, hgs, hslot], fun q hq => ?_⟩
    rcases List.mem_cons.1 hq with rfl | hq
    · exact ⟨hslot.symm ▸ hgroup, hstrand⟩
    · exact hall q hq

end

theorem lt_of_mem_lanesOf {m : BitVec 32} {l : Nat} (h : l ∈ lanesOf m) : l < 32 :=
  List.mem_range.1 (List.mem_filter.1 h).1

theorem nodup_lanesOf (m : BitVec 32) : (lanesOf m).Nodup := List.nodup_range.filter _

theorem mem_lanesOf {m : BitVec 32} {l : Nat} (hl : l < 32) : l ∈ lanesOf m ↔ m.getLsbD l = true := by
  simp [lanesOf, hl]

theorem thrOf_inj {gs gs' l l' : Nat} (hl : l < 32) (hl' : l' < 32) (h : thrOf gs l = thrOf gs' l') :
    gs = gs' ∧ l = l' := by
  unfold thrOf at h
  omega

theorem Issue.nodup_threads {i : Issue} (h : (i.sel.map (·.1.gs)).Nodup) : i.threads.Nodup := by
  refine List.nodup_flatMap.2 ⟨fun p _ => ?_, (List.pairwise_map.1 h).imp ?_⟩
  · refine (nodup_lanesOf p.2.mask).map_on (fun l hl l' hl' e => ?_)
    exact (thrOf_inj (lt_of_mem_lanesOf hl) (lt_of_mem_lanesOf hl') e).2
  · intro p q hne x hp hq
    obtain ⟨l, hl, rfl⟩ := List.mem_map.1 hp
    obtain ⟨l', hl', e⟩ := List.mem_map.1 hq
    exact hne (thrOf_inj (lt_of_mem_lanesOf hl) (lt_of_mem_lanesOf hl') e.symm).1

theorem Issue.mem_threads {i : Issue} {p : Group × Strand} {l : Nat} (hp : p ∈ i.sel) (hl : l ∈ lanesOf p.2.mask) :
    thrOf p.1.gs l ∈ i.threads := List.mem_flatMap.2 ⟨p, hp, List.mem_map_of_mem hl⟩

section
variable {s : State} {b : Bundle} {i : Issue}

theorem State.nodup_threads (h : s.bundleOf b = some i) : i.threads.Nodup := by
  obtain ⟨-, hnodup, hsel⟩ := State.bundleOf_spec h
  refine Issue.nodup_threads ?_
  rw [(Core.picked _ hsel).1]
  exact hnodup.map Fin.val_injective

/-- A strand that issues stands in its group, which is on the core, and can run at the bundle's address. -/
theorem State.picked {p : Group × Strand} (h : s.bundleOf b = some i) (hp : p ∈ i.sel) :
    (s.core b.core.val).group p.1.gs = some p.1 ∧ p.1.strandAt b.pc.toNat = some p.2 :=
  (Core.picked _ (State.bundleOf_spec h).2.2).2 p hp

end

theorem Group.mem_of_strandAt {g : Group} {pc : Nat} {x : Strand} (h : g.strandAt pc = some x) : x ∈ g.strands :=
  List.mem_of_find?_eq_some h

/-!
## Registers and predicates of a core (R162)
-/

section
variable (c : Core)

@[simp] theorem Core.reg_setReg_same (x d : Nat) (v : Word) : (c.setReg x d v).reg x d = v := Tab.get_set_same _ _ _ _

theorem Core.reg_setReg_ne {x y d r : Nat} (v : Word) (hd : d < 256) (hr : r < 256) (h : y ≠ x ∨ r ≠ d) :
    (c.setReg x d v).reg y r = c.reg y r := Tab.get_set_ne _ _ _ _ (by omega)

theorem testBit_byte {p : Nat} (hp : p < 8) (q : Nat) : (BitVec.ofNat 8 (2 ^ p)).getLsbD q = decide (q = p) := by
  rw [BitVec.getLsbD_ofNat, Nat.testBit_two_pow]
  by_cases h : p = q
  · subst h; simp [hp]
  · simp [h, Ne.symm h]

@[simp] theorem Core.pred_setPred_same {x p : Nat} (hp : p < 8) (v : Bool) : (c.setPred x p v).pred x p = v := by
  simp only [Core.pred, Core.setPred, Tab.get_set_same]
  cases v with
  | true => rw [if_pos rfl, BitVec.getLsbD_or, testBit_byte hp, decide_eq_true rfl, Bool.or_true]
  | false => rw [if_neg Bool.false_ne_true, BitVec.getLsbD_and, BitVec.getLsbD_not, testBit_byte hp, decide_eq_true rfl,
      Bool.not_true, Bool.and_false, Bool.and_false]

end

/-- Two cores give a thread the same registers and predicates. -/
def Core.SameAt (x : Nat) (c d : Core) : Prop :=
  (∀ r < 256, c.reg x r = d.reg x r) ∧ Tab.get 0 c.preds x = Tab.get 0 d.preds x

section
variable {x y : Nat} {c d e : Core}

theorem Core.SameAt.refl (x : Nat) (c : Core) : Core.SameAt x c c := ⟨fun _ _ => rfl, rfl⟩

theorem Core.SameAt.trans (h : Core.SameAt x c d) (h' : Core.SameAt x d e) : Core.SameAt x c e :=
  ⟨fun r hr => (h.1 r hr).trans (h'.1 r hr), h.2.trans h'.2⟩

theorem Core.SameAt.reg (h : Core.SameAt x c d) {r : Nat} (hr : r < 256) : c.reg x r = d.reg x r := h.1 r hr

theorem Core.SameAt.pred (h : Core.SameAt x c d) (p : Nat) : c.pred x p = d.pred x p :=
  congrArg (BitVec.getLsbD · p) h.2

theorem Core.SameAt.of_tables (hr : c.regs = d.regs) (hp : c.preds = d.preds) : Core.SameAt x c d :=
  ⟨fun r _ => by rw [Core.reg, hr, Core.reg], by rw [hp]⟩

theorem Core.SameAt.src (h : Core.SameAt x c d) (v : Src) : c.src x v = d.src x v := by
  cases v with
  | reg r => exact h.reg r.isLt
  | imm v => rfl

theorem Core.sameAt_setReg_other {r : Nat} (v : Word) (hr : r < 256) (h : x ≠ y) :
    Core.SameAt x (c.setReg y r v) c := ⟨fun _ hq => Core.reg_setReg_ne c v hr hq (.inl h), rfl⟩

theorem Core.sameAt_setPred_other (p : Nat) (v : Bool) (h : x ≠ y) : Core.SameAt x (c.setPred y p v) c :=
  ⟨fun _ _ => rfl, Tab.get_set_ne _ _ _ _ h.symm⟩

theorem Core.SameAt.setReg (h : Core.SameAt x c d) {r : Nat} {v w : Word} (hr : r < 256) (hv : v = w) :
    Core.SameAt x (c.setReg x r v) (d.setReg x r w) := by
  subst hv
  refine ⟨fun q hq => ?_, h.2⟩
  by_cases hqr : q = r
  · subst hqr; simp
  · rw [Core.reg_setReg_ne c v hr hq (.inr hqr), Core.reg_setReg_ne d v hr hq (.inr hqr), h.reg hq]

theorem Core.SameAt.setPred (h : Core.SameAt x c d) {p : Nat} {v w : Bool} (hv : v = w) :
    Core.SameAt x (c.setPred x p v) (d.setPred x p w) := by
  subst hv
  refine ⟨h.1, ?_⟩
  simp only [Core.setPred, Tab.get_set_same, h.2]

end

/-- Steps that each act in a thread of their own: in that thread the result is that of its step alone, from the
registers before, and every other thread keeps its own. -/
theorem Core.foldl_sameAt {α : Type} {thr : α → Nat} {f : Core → α → Core}
    (hown : ∀ a c d, Core.SameAt (thr a) c d → Core.SameAt (thr a) (f c a) (f d a))
    (hother : ∀ a x c, x ≠ thr a → Core.SameAt x (f c a) c) (as : List α) (hnodup : (as.map thr).Nodup) (c : Core) :
    (∀ a ∈ as, Core.SameAt (thr a) (as.foldl f c) (f c a)) ∧
      ∀ x, x ∉ as.map thr → Core.SameAt x (as.foldl f c) c := by
  induction as generalizing c with
  | nil => exact ⟨fun a ha => absurd ha List.not_mem_nil, fun x _ => .refl x c⟩
  | cons a as ih =>
    rw [List.map_cons, List.nodup_cons] at hnodup
    obtain ⟨hfirst, hnodup⟩ := hnodup
    obtain ⟨hin, hout⟩ := ih hnodup (f c a)
    constructor
    · intro e he
      rcases List.mem_cons.1 he with rfl | he
      · exact hout _ hfirst
      · have hne : thr e ≠ thr a := fun heq => hfirst (heq ▸ List.mem_map_of_mem he)
        exact (hin e he).trans (hown e _ _ (hother a _ c hne))
    · intro x hx
      rw [List.map_cons, List.mem_cons, not_or] at hx
      exact (hout x hx.2).trans (hother a x c hx.1)

/-! ### Vector instructions in one thread (R168) -/

section
variable {c d : Core} {x y : Nat}

theorem Core.SameAt.alu (h : Core.SameAt x c d) (ins : AluInstr) : Core.SameAt x (c.alu x ins) (d.alu x ins) := by
  cases ins with
  | int op r a b => exact h.setReg r.isLt (by rw [h.src a, h.src b])
  | setp op p a b => exact h.setPred (by rw [h.src a, h.src b])
  | add32 r a b => exact h.setReg r.isLt (by rw [h.src a, h.src b])
  | mul32 r a b => exact h.setReg r.isLt (by rw [h.src a, h.src b])
  | fma32 r a b e => exact h.setReg r.isLt (by rw [h.src a, h.src b, h.src e])
  | fmaBf16 r a b e => exact h.setReg r.isLt (by rw [h.src a, h.src b, h.src e])

theorem Core.sameAt_alu_other (ins : AluInstr) (h : x ≠ y) : Core.SameAt x (c.alu y ins) c := by
  cases ins with
  | int op r a b => exact Core.sameAt_setReg_other _ r.isLt h
  | setp op p a b => exact Core.sameAt_setPred_other _ _ h
  | add32 r a b => exact Core.sameAt_setReg_other _ r.isLt h
  | mul32 r a b => exact Core.sameAt_setReg_other _ r.isLt h
  | fma32 r a b e => exact Core.sameAt_setReg_other _ r.isLt h
  | fmaBf16 r a b e => exact Core.sameAt_setReg_other _ r.isLt h

end

end Sys2Proof.Machine

namespace Sys2Proof.Proofs.CoresThreadGroups
open Sys2Proof Sys2Proof.Machine

/-- Settles O25: each instruction writes its result to its destination, and its thread alone. -/
theorem aluResults : Obligations.AluResults := by
  unfold Obligations.AluResults
  intro c x d p a b e
  refine ⟨fun op => ?_, fun op => ?_, ?_, ?_, ?_, ?_, fun ins y r hy hr => (Core.sameAt_alu_other ins hy).reg hr⟩
  · exact Core.reg_setReg_same _ _ _ _
  · exact Core.pred_setPred_same c p.isLt _
  · exact Core.reg_setReg_same _ _ _ _
  · exact Core.reg_setReg_same _ _ _ _
  · exact Core.reg_setReg_same _ _ _ _
  · exact Core.reg_setReg_same _ _ _ _

end Sys2Proof.Proofs.CoresThreadGroups

namespace Sys2Proof.Machine

/-!
## The effect of a bundle on its core (R167, R168, R175)
-/

section
variable (c : Core)

/-- Strands that go on change their groups alone. -/
theorem Core.advance_eq (sel : List (Group × Strand)) (next now : Nat) :
    ∃ gs, c.advance sel next now = { c with groups := gs } := by
  refine foldl_keeps (fun d : Core => ∃ gs, d = { c with groups := gs }) _ (fun d p hd => ?_) sel c ⟨_, rfl⟩
  obtain ⟨gs, rfl⟩ := hd
  split
  · exact ⟨_, rfl⟩
  · exact ⟨gs, rfl⟩

theorem Core.overwrite_eq (ts dst : List Nat) : ∃ ops arr, c.overwrite ts dst = { c with ops := ops, arr := arr } := by
  unfold Core.overwrite
  split
  · exact ⟨_, _, rfl⟩
  · exact ⟨_, _, rfl⟩

@[simp] theorem Core.overwrite_nil (ts : List Nat) : c.overwrite ts [] = c := if_pos rfl

theorem Core.sameAt_overwrite (x : Nat) (ts dst : List Nat) : Core.SameAt x (c.overwrite ts dst) c := by
  obtain ⟨ops, arr, h⟩ := Core.overwrite_eq c ts dst
  rw [h]
  exact .of_tables rfl rfl

/-- The registers that threads write are ready from the cycle given on. -/
theorem Core.usable_delay {ts dst : List Nat} {x r : Nat} (hx : x ∈ ts) (hr : r ∈ dst) (n : Nat) :
    Tab.get 0 (c.delay ts dst n).usable (depKey x r) = n := by
  have hset : ∀ (y q : Nat) (u : Tab Nat), Tab.get 0 u (depKey x r) = n →
      Tab.get 0 (Tab.set 0 u (depKey y q) n) (depKey x r) = n := fun y q u hu => by rw [Tab.get_set, hu, ite_self]
  refine foldl_establishes (P := fun u : Tab Nat => Tab.get 0 u (depKey x r) = n) hx (fun u => ?_) (fun y _ u hu => ?_) _
  · exact foldl_establishes (P := fun u : Tab Nat => Tab.get 0 u (depKey x r) = n) hr
      (fun u => Tab.get_set_same _ _ _ _) (fun q _ u hu => hset x q u hu) u
  · exact foldl_keeps (fun u : Tab Nat => Tab.get 0 u (depKey x r) = n) _ (fun u q hu => hset y q u hu) dst u hu

end

/-- A bundle's core as its instruction finds it: what earlier loads have still to bring to the destination is lost, and
the destination is ready `lat` cycles later. -/
def State.claimed (s : State) (b : Bundle) (i : Issue) (lat : Nat) (dst : List Nat) : Core :=
  ((s.core b.core.val).overwrite i.threads dst).delay i.threads dst (s.now + lat)

section
variable (s : State) (b : Bundle) (i : Issue) (engine : BitVec 5) (n lat : Nat) (dst : List Nat) (F : Core → Core)

theorem State.bundleDone_core : ∃ gs, (s.bundleDone b i engine n lat dst F).core b.core.val =
    { (F (s.claimed b i lat dst)).accept engine s.now n with groups := gs } := by
  have h : (s.bundleDone b i engine n lat dst F).core b.core.val =
      ((F (s.claimed b i lat dst)).accept engine s.now n).advance i.sel b.next.toNat s.now := State.core_setCore_same _ _ _
  rw [h]
  exact Core.advance_eq _ _ _ _

theorem State.core_bundleDone_ne {k : Nat} (h : k ≠ b.core.val) : (s.bundleDone b i engine n lat dst F).core k = s.core k :=
  (State.core_setCore _ _ _ _).trans (if_neg h.symm)

@[simp] theorem State.bundleDone_works : (s.bundleDone b i engine n lat dst F).works = s.works := rfl

theorem State.sameAt_bundleDone (x : Nat) :
    Core.SameAt x ((s.bundleDone b i engine n lat dst F).core b.core.val) (F (s.claimed b i lat dst)) := by
  obtain ⟨gs, h⟩ := State.bundleDone_core s b i engine n lat dst F
  rw [h]
  exact .of_tables rfl rfl

theorem State.usable_bundleDone : ((s.bundleDone b i engine n lat dst F).core b.core.val).usable =
    (F (s.claimed b i lat dst)).usable := by
  obtain ⟨gs, h⟩ := State.bundleDone_core s b i engine n lat dst F
  rw [h]
  rfl

theorem State.sameAt_claimed (x : Nat) : Core.SameAt x (s.claimed b i lat dst) (s.core b.core.val) :=
  (Core.SameAt.of_tables rfl rfl).trans (Core.sameAt_overwrite _ x i.threads dst)

end

section
variable {s u : State} {b : Bundle} {i : Issue} {engine : BitVec 5} {n lat : Nat} {dst : List Nat} {F : Core → Core}

/-- An instruction that acts thread by thread: each issuing thread gets what its own step gives from the registers before,
and every other thread keeps its own. -/
theorem State.bundleDone_foldl {α : Type} {thr : α → Nat} {f : Core → α → Core} {as : List α}
    (hbench : u.bench = s.bench) (hthr : as.map thr = i.threads) (hnodup : i.threads.Nodup)
    (hF : F (u.claimed b i lat dst) = as.foldl f (u.claimed b i lat dst))
    (hown : ∀ a c d, Core.SameAt (thr a) c d → Core.SameAt (thr a) (f c a) (f d a))
    (hother : ∀ a x c, x ≠ thr a → Core.SameAt x (f c a) c) :
    (∀ a ∈ as, Core.SameAt (thr a) ((u.bundleDone b i engine n lat dst F).core b.core.val) (f (s.core b.core.val) a)) ∧
      ∀ x, x ∉ i.threads →
        Core.SameAt x ((u.bundleDone b i engine n lat dst F).core b.core.val) (s.core b.core.val) := by
  have hdone := State.sameAt_bundleDone u b i engine n lat dst F
  have hclaimed := State.sameAt_claimed u b i lat dst
  rw [State.core_of_bench hbench] at hclaimed
  rw [hF] at hdone
  rw [← hthr] at hnodup ⊢
  obtain ⟨hin, hout⟩ := Core.foldl_sameAt hown hother as hnodup (u.claimed b i lat dst)
  exact ⟨fun a ha => ((hdone _).trans (hin a ha)).trans (hown a _ _ (hclaimed _)),
    fun x hx => ((hdone x).trans (hout x hx)).trans (hclaimed x)⟩

/-- An instruction that writes one register of each thread from the thread's own registers. -/
theorem State.bundleDone_setReg {α : Type} {thr : α → Nat} {as : List α} {val : Core → α → Word} {d : Nat}
    (hbench : u.bench = s.bench) (hthr : as.map thr = i.threads) (hnodup : i.threads.Nodup) (hd : d < 256)
    (hF : F (u.claimed b i lat dst) = as.foldl (fun e a => e.setReg (thr a) d (val e a)) (u.claimed b i lat dst))
    (hval : ∀ a c e, Core.SameAt (thr a) c e → val c a = val e a) :
    let t := u.bundleDone b i engine n lat dst F
    (∀ a, a ∈ as → (t.core b.core.val).reg (thr a) d = val (s.core b.core.val) a) ∧
      (∀ x r, r < 256 → x ∉ i.threads ∨ r ≠ d → (t.core b.core.val).reg x r = (s.core b.core.val).reg x r) ∧
      t.mem = s.mem := by
  intro t
  obtain ⟨hin, hout⟩ := State.bundleDone_foldl (engine := engine) (n := n) hbench hthr hnodup hF
    (fun a c e h => h.setReg hd (hval a c e h)) (fun a x c h => Core.sameAt_setReg_other _ hd h)
  refine ⟨fun a ha => ((hin a ha).reg hd).trans (Core.reg_setReg_same _ _ _ _), fun x r hr hne => ?_,
    (State.bundleDone_mem ..).trans (State.mem_of_bench hbench)⟩
  by_cases hx : x ∈ i.threads
  · obtain ⟨a, ha, rfl⟩ := List.mem_map.1 (hthr ▸ hx)
    exact ((hin a ha).reg hr).trans (Core.reg_setReg_ne _ _ hd hr (.inr (hne.resolve_left (not_not_intro hx))))
  · exact (hout x hx).reg hr

end

/-! ### Strands and their lanes (R160, R251, R269) -/

/-- The lanes of the issuing strands, each with its strand. -/
def Issue.lanes (i : Issue) : List ((Group × Strand) × Nat) :=
  i.sel.flatMap (fun p => (lanesOf p.2.mask).map (fun l => (p, l)))

/-- The thread of a lane. -/
def laneThr (a : (Group × Strand) × Nat) : Nat := thrOf a.1.1.gs a.2

theorem Issue.map_laneThr_lanes (i : Issue) : i.lanes.map laneThr = i.threads := by
  rw [Issue.lanes, List.map_flatMap]
  exact congrArg (i.sel.flatMap ·) (funext fun p => List.map_map)

theorem Issue.foldl_lanes {β : Type} (i : Issue) (f : β → (Group × Strand) × Nat → β) (e : β) :
    i.lanes.foldl f e = i.sel.foldl (fun e p => (lanesOf p.2.mask).foldl (fun e l => f e (p, l)) e) e := by
  rw [Issue.lanes, List.foldl_flatMap]
  simp only [List.foldl_map]

theorem Issue.mem_lanes {i : Issue} {p : Group × Strand} {l : Nat} (hp : p ∈ i.sel) (hl : l ∈ lanesOf p.2.mask) :
    (p, l) ∈ i.lanes := List.mem_flatMap.2 ⟨p, hp, List.mem_map_of_mem hl⟩

theorem Issue.exists_lane {i : Issue} {x : Nat} (hx : x ∈ i.threads) : ∃ a ∈ i.lanes, laneThr a = x :=
  List.mem_map.1 (by rw [Issue.map_laneThr_lanes]; exact hx)

section
variable {s u : State} {b : Bundle} {i : Issue} {engine : BitVec 5} {n lat : Nat} {dst : List Nat} {F : Core → Core}

/-- An instruction that writes registers `d` and then `v` of each lane with values that strand and lane decide. -/
theorem State.bundleDone_setReg_lanes {d v : VReg} {val : Group × Strand → Nat → Word} {scale : Group × Strand → Word}
    (hbench : u.bench = s.bench) (hnodup : i.threads.Nodup)
    (hF : ∀ c, F c = i.sel.foldl (fun e p => (lanesOf p.2.mask).foldl (fun e l =>
      (e.setReg (thrOf p.1.gs l) d.val (val p l)).setReg (thrOf p.1.gs l) v.val (scale p)) e) c) :
    let t := u.bundleDone b i engine n lat dst F
    (∀ p l, p ∈ i.sel → l ∈ lanesOf p.2.mask →
        (d ≠ v → (t.core b.core.val).reg (thrOf p.1.gs l) d.val = val p l) ∧
          (t.core b.core.val).reg (thrOf p.1.gs l) v.val = scale p) ∧
      (∀ x r, r < 256 → x ∉ i.threads ∨ (r ≠ d.val ∧ r ≠ v.val) →
        (t.core b.core.val).reg x r = (s.core b.core.val).reg x r) ∧ t.mem = s.mem := by
  intro t
  obtain ⟨hin, hout⟩ := State.bundleDone_foldl (engine := engine) (n := n) hbench i.map_laneThr_lanes hnodup
    ((hF (u.claimed b i lat dst)).trans (Issue.foldl_lanes i
      (fun (e : Core) a => (e.setReg (laneThr a) d.val (val a.1 a.2)).setReg (laneThr a) v.val (scale a.1)) _).symm)
    (fun a c e h => (h.setReg d.isLt rfl).setReg v.isLt rfl)
    (fun a x c h => (Core.sameAt_setReg_other _ v.isLt h).trans (Core.sameAt_setReg_other _ d.isLt h))
  refine ⟨fun p l hp hl => ?_, fun x r hr hne => ?_, (State.bundleDone_mem ..).trans (State.mem_of_bench hbench)⟩
  · have hlane := hin _ (Issue.mem_lanes hp hl)
    refine ⟨fun hdv => (hlane.reg d.isLt).trans ?_, (hlane.reg v.isLt).trans (Core.reg_setReg_same _ _ _ _)⟩
    rw [Core.reg_setReg_ne _ _ v.isLt d.isLt (.inr (Fin.val_ne_of_ne hdv)), Core.reg_setReg_same]
  · by_cases hx : x ∈ i.threads
    · obtain ⟨hrd, hrv⟩ := hne.resolve_left (not_not_intro hx)
      obtain ⟨a, ha, rfl⟩ := Issue.exists_lane hx
      exact ((hin a ha).reg hr).trans ((Core.reg_setReg_ne _ _ v.isLt hr (.inr hrv)).trans
        (Core.reg_setReg_ne _ _ d.isLt hr (.inr hrd)))
    · exact (hout x hx).reg hr

end

/-! ### Reports of casts, and a core that the self-test has marked (R249, R508) -/

@[simp] theorem State.report_cores (s : State) (p : Nat) (frame : FrameNo) (w : Nat) (f : Fmt) (cast nz : Nat) (k : Counts) :
    (s.report p frame w f cast nz k).cores = s.cores := by
  unfold State.report
  split <;> rfl

@[simp] theorem State.cvtReport_cores (s : State) (i : Issue) (df sf : Option Fmt) (a w : Nat) (c : Core)
    (p : Group × Strand) : (s.cvtReport i df sf a w c p).cores = s.cores := by
  unfold State.cvtReport
  split
  · rfl
  · rfl
  · exact State.report_cores s _ _ _ _ _ _ _

/-- Operations that leave the cores and memory, one after the other. -/
theorem foldl_core_mem {α : Type} {f : State → α → State} (hcores : ∀ s a, (f s a).cores = s.cores)
    (hmem : ∀ s a, (f s a).mem = s.mem) (l : List α) (s : State) (k : Nat) :
    (l.foldl f s).core k = s.core k ∧ (l.foldl f s).mem = s.mem := by
  refine ⟨?_, foldl_mem f hmem l s⟩
  have h : (l.foldl f s).cores = s.cores :=
    foldl_keeps (fun t : State => t.cores = s.cores) f (fun t a ht => (hcores t a).trans ht) l s rfl
  simp only [State.core, h]

section
variable (s : State) {k : Nat} {ts src : List Nat}

theorem State.core_useFree (n j : Nat) : (s.useFree n).core j = s.core j := rfl

@[simp] theorem State.doubt_works : (s.doubt k ts src).works = s.works := by
  unfold State.doubt
  split <;> rfl

theorem State.core_doubt_ne {j : Nat} (h : j ≠ k) : (s.doubt k ts src).core j = s.core j := by
  unfold State.doubt
  split
  · exact (State.core_setCore _ _ _ _).trans (if_neg h.symm)
  · rfl

/-- What a marked core's instruction reads is free, and nothing else. -/
theorem State.sameAt_doubt (hsrc : ∀ r ∈ src, r ≠ 256) {x : Nat} (hx : x ∉ ts) :
    Core.SameAt x ((s.doubt k ts src).core k) (s.core k) := by
  unfold State.doubt
  split
  next =>
    rw [State.core_useFree, State.core_setCore_same]
    refine List.foldlRecOn (motive := fun c => Core.SameAt x c (s.core k)) _ _ (.refl x _)
      (fun c hc a ha => Core.SameAt.trans ?_ hc)
    obtain ⟨y, hy, hya⟩ := List.mem_flatMap.1 (List.fst_mem_of_mem_zipIdx ha)
    obtain ⟨r, hr, hra⟩ := List.mem_map.1 hya
    have hne : x ≠ y := fun h => hx (h ▸ hy)
    rw [← hra, Core.doubtReg]
    split
    next hlt =>
      have hne256 := hsrc r hr
      exact Core.sameAt_setReg_other _ (by omega) hne
    next => exact Core.sameAt_setPred_other _ _ hne
  next => exact .refl x _

end

theorem Src.lt_of_mem_regs {v : Src} {r : Nat} (h : r ∈ Src.regs v) : r < 256 := by
  cases v with
  | reg q => exact List.mem_singleton.1 h ▸ q.isLt
  | imm w => exact absurd h List.not_mem_nil

theorem AluInstr.lt_of_mem_reads {ins : AluInstr} {r : Nat} (h : r ∈ AluInstr.reads ins) : r < 256 := by
  have htwo : ∀ v w : Src, r ∈ Src.regs v ++ Src.regs w → r < 256 := fun v w h =>
    (List.mem_append.1 h).elim Src.lt_of_mem_regs Src.lt_of_mem_regs
  have hthree : ∀ v w z : Src, r ∈ Src.regs v ++ Src.regs w ++ Src.regs z → r < 256 := fun v w z h =>
    (List.mem_append.1 h).elim (htwo v w) Src.lt_of_mem_regs
  cases ins with
  | int op d a b => exact htwo a b h
  | setp op p a b => exact htwo a b h
  | add32 d a b => exact htwo a b h
  | mul32 d a b => exact htwo a b h
  | fma32 d a b e => exact hthree a b e h
  | fmaBf16 d a b e => exact hthree a b e h

@[simp] theorem Core.alu_usable (c : Core) (x : Nat) (ins : AluInstr) : (c.alu x ins).usable = c.usable := by
  cases ins <;> rfl

end Sys2Proof.Machine

namespace Sys2Proof.Machine

/-!
## Vector instructions that issue (R168, R241 to R251, R269)
-/

section
variable {s : State} {b : Bundle} {i : Issue} {dst src : List Nat} {lf : Leaf} {z : Nat}

/-- An instruction on registers and predicates, in the state in which it takes effect. -/
theorem State.bundleDone_alu {u : State} (hbench : u.bench = s.bench) (hnodup : i.threads.Nodup) (ins : AluInstr) :
    let t := u.bundleDone b i onVector 1 (AluInstr.latency ins) (AluInstr.writes ins)
      (fun c => c.forThreads i.threads (fun x d => d.alu x ins))
    (∀ x, x ∈ i.threads → Core.SameAt x (t.core b.core.val) ((s.core b.core.val).alu x ins)) ∧
      (∀ x, x ∉ i.threads → Core.SameAt x (t.core b.core.val) (s.core b.core.val)) ∧
      ∀ x r, x ∈ i.threads → r ∈ AluInstr.writes ins →
        Tab.get 0 (t.core b.core.val).usable (depKey x r) = s.now + AluInstr.latency ins := by
  intro t
  obtain ⟨hin, hout⟩ := State.bundleDone_foldl (s := s) (thr := id) (f := fun c x => c.alu x ins) (as := i.threads)
    (F := fun c => c.forThreads i.threads (fun x d => d.alu x ins)) (b := b) (engine := onVector) (n := 1)
    (lat := AluInstr.latency ins) (dst := AluInstr.writes ins) hbench (List.map_id _) hnodup rfl
    (fun x c d h => h.alu ins) (fun a x c h => Core.sameAt_alu_other ins h)
  refine ⟨hin, hout, fun x r hx hr => ?_⟩
  have hfold : ∀ c : Core, (c.forThreads i.threads (fun x d => d.alu x ins)).usable = c.usable := fun c =>
    foldl_keeps (fun d : Core => d.usable = c.usable) _ (fun d x hd => (Core.alu_usable d x ins).trans hd) _ c rfl
  rw [State.usable_bundleDone, hfold, State.claimed, Core.usable_delay _ hx hr, State.now_of_bench hbench]

theorem exec_vectorAlu_of_issues {ins : AluInstr}
    (h : s.issues b (AluInstr.writes ins) (AluInstr.reads ins) .vector i lf z) :
    ∃ t, exec (.vectorAlu b ins) s = .next t ∧
      (∀ x r, x ∈ i.threads → r < 256 → (t.core b.core.val).reg x r = ((s.core b.core.val).alu x ins).reg x r) ∧
      (∀ x p, x ∈ i.threads → p < 8 → (t.core b.core.val).pred x p = ((s.core b.core.val).alu x ins).pred x p) ∧
      (∀ x r, x ∉ i.threads → r < 256 → (t.core b.core.val).reg x r = (s.core b.core.val).reg x r) ∧
      (∀ x r, x ∈ i.threads → r ∈ AluInstr.writes ins →
        Tab.get 0 (t.core b.core.val).usable (depKey x r) = s.now + AluInstr.latency ins) ∧
      (∀ k, k ≠ b.core.val → t.core k = s.core k) ∧ t.mem = s.mem ∧ t.works = s.works := by
  obtain ⟨u, hbench, hexec⟩ := exec_of_issues h (ins := .vectorAlu b ins) rfl
  obtain ⟨hin, hout, husable⟩ := State.bundleDone_alu (b := b) hbench (State.nodup_threads h.1.1) ins
  exact ⟨_, hexec, fun x r hx hr => (hin x hx).reg hr, fun x p hx _ => (hin x hx).pred p,
    fun x r hx hr => (hout x hx).reg hr, husable,
    fun k hk => (State.core_bundleDone_ne _ _ _ _ _ _ _ _ hk).trans (State.core_of_bench hbench k),
    (State.bundleDone_mem ..).trans (State.mem_of_bench hbench),
    (State.bundleDone_works ..).trans (State.works_of_bench hbench)⟩

/-- On a marked core the results are not defined; the threads that do not issue keep theirs (R508). -/
theorem exec_vectorAlu_of_issuesAny {ins : AluInstr}
    (h : s.issuesAny b (AluInstr.writes ins) (AluInstr.reads ins) .vector i lf z) :
    ∃ t, exec (.vectorAlu b ins) s = .next t ∧
      (∀ x r, x ∉ i.threads → r < 256 → (t.core b.core.val).reg x r = (s.core b.core.val).reg x r) ∧
      (∀ k, k ≠ b.core.val → t.core k = s.core k) ∧ t.mem = s.mem ∧ t.works = s.works := by
  obtain ⟨u, hbench, hissue⟩ := State.issue_of_issuesAny h (fun u t => t.bundleDone b u onVector 1
    (AluInstr.latency ins) (AluInstr.writes ins) (fun c => c.forThreads u.threads (fun x d => d.alu x ins)))
  have hsrc : ∀ r ∈ AluInstr.reads ins, r ≠ 256 := fun r hr => (AluInstr.lt_of_mem_reads hr).ne
  obtain ⟨-, hout, -⟩ := State.bundleDone_alu (s := u.doubt b.core.val i.threads (AluInstr.reads ins)) (b := b) rfl
    (State.nodup_threads h.1) ins
  refine ⟨_, congrArg Host.Outcome.next hissue, fun x r hx hr => ?_, fun k hk => ?_, ?_, ?_⟩
  · rw [(hout x hx).reg hr, (State.sameAt_doubt u hsrc hx).reg hr, State.core_of_bench hbench]
  · rw [State.core_bundleDone_ne _ _ _ _ _ _ _ _ hk, State.core_doubt_ne u hk, State.core_of_bench hbench]
  · rw [State.bundleDone_mem, State.doubt_mem, State.mem_of_bench hbench]
  · rw [State.bundleDone_works, State.doubt_works, State.works_of_bench hbench]

theorem exec_specialFunction_of_issues {f : SpecialFn} {d a : VReg} (h : s.issues b [d.val] [a.val] .vector i lf z) :
    ∃ t, exec (.specialFunction b f d a) s = .next t ∧
      (∀ x, x ∈ i.threads → (t.core b.core.val).reg x d.val = special f ((s.core b.core.val).reg x a.val)) ∧
      (∀ x r, r < 256 → x ∉ i.threads ∨ r ≠ d.val → (t.core b.core.val).reg x r = (s.core b.core.val).reg x r) ∧
      t.mem = s.mem := by
  obtain ⟨u, hbench, hexec⟩ := exec_of_issues h (ins := .specialFunction b f d a) rfl
  exact ⟨_, hexec, State.bundleDone_setReg (thr := id) (val := fun e x => special f (e.reg x a.val)) hbench
    (List.map_id _) (State.nodup_threads h.1.1) d.isLt rfl
    (fun x c e hsame => congrArg (special f) (hsame.reg a.isLt))⟩

theorem exec_cvtF_of_issues {df sf : CvtFmt} {d a w : VReg} (h : s.issues b [d.val] [a.val, w.val] .vector i lf z)
    (hdf : CvtFmt.ok df = true) (hsf : CvtFmt.ok sf = true) :
    ∃ t, exec (.cvtF b df sf d a w) s = .next t ∧
      (∀ x, x ∈ i.threads → (t.core b.core.val).reg x d.val =
        (convert (CvtFmt.fmt? df) (CvtFmt.fmt? sf) ((s.core b.core.val).reg x a.val)).1) ∧
      (∀ x r, r < 256 → x ∉ i.threads ∨ r ≠ d.val → (t.core b.core.val).reg x r = (s.core b.core.val).reg x r) ∧
      t.mem = s.mem := by
  obtain ⟨u, hbench, hexec⟩ := exec_of_issues h (ins := .cvtF b df sf d a w) rfl
  rw [if_neg (by rw [hdf, hsf]; decide)] at hexec
  refine ⟨_, hexec, ?_⟩
  obtain ⟨hcore, hmem⟩ := foldl_core_mem (f := fun q p => q.cvtReport i (CvtFmt.fmt? df) (CvtFmt.fmt? sf) a.val w.val
    (u.core b.core.val) p) (by simp) (by simp) i.sel _ b.core.val
  rw [hcore, hmem]
  exact State.bundleDone_setReg (thr := id)
    (val := fun e x => (convert (CvtFmt.fmt? df) (CvtFmt.fmt? sf) (e.reg x a.val)).1) hbench (List.map_id _)
    (State.nodup_threads h.1.1) d.isLt rfl
    (fun x c e hsame => congrArg (fun v => (convert (CvtFmt.fmt? df) (CvtFmt.fmt? sf) v).1) (hsame.reg a.isLt))

theorem exec_cvtWide_of_issues {f : Fmt} {d a v : VReg} (h : s.issues b [d.val] [a.val, v.val] .vector i lf z)
    (hf : f.isNarrow = true) :
    ∃ t, exec (.cvtWide b f d a v) s = .next t ∧
      (∀ x, x ∈ i.threads → (t.core b.core.val).reg x d.val =
        widen f ((s.core b.core.val).reg x a.val).toNat ((s.core b.core.val).reg x v.val).toNat) ∧
      (∀ x r, r < 256 → x ∉ i.threads ∨ r ≠ d.val → (t.core b.core.val).reg x r = (s.core b.core.val).reg x r) ∧
      t.mem = s.mem := by
  obtain ⟨u, hbench, hexec⟩ := exec_of_issues h (ins := .cvtWide b f d a v) rfl
  rw [if_neg (by rw [hf]; decide)] at hexec
  exact ⟨_, hexec, State.bundleDone_setReg (thr := id)
    (val := fun e x => widen f (e.reg x a.val).toNat (e.reg x v.val).toNat) hbench (List.map_id _)
    (State.nodup_threads h.1.1) d.isLt rfl
    (fun x c e hsame => congrArg₂ (fun p q : Word => widen f p.toNat q.toNat) (hsame.reg a.isLt) (hsame.reg v.isLt))⟩

theorem exec_cvtBlk_of_issues {f : Fmt} {d v a w : VReg} {bump : PReg}
    (h : s.issues b [d.val, v.val] [a.val, w.val, predNum bump] .vector i lf z) (hf : f.isNarrow = true) :
    ∃ t, exec (.cvtBlk b f d v a bump w) s = .next t ∧
      (∀ p l, p ∈ i.sel → l ∈ lanesOf p.2.mask →
        let r := (s.core b.core.val).castOf f a.val bump.val p
        (d ≠ v → (t.core b.core.val).reg (thrOf p.1.gs l) d.val = BitVec.ofNat 32 (r.codes.getD l 0)) ∧
        (t.core b.core.val).reg (thrOf p.1.gs l) v.val = castWord r) ∧
      (∀ x r, r < 256 → x ∉ i.threads ∨ (r ≠ d.val ∧ r ≠ v.val) →
        (t.core b.core.val).reg x r = (s.core b.core.val).reg x r) ∧ t.mem = s.mem := by
  obtain ⟨u, hbench, hexec⟩ := exec_of_issues h (ins := .cvtBlk b f d v a bump w) rfl
  rw [if_neg (by rw [hf]; decide), State.core_of_bench hbench] at hexec
  refine ⟨_, hexec, ?_⟩
  have hreport := fun t : State => foldl_core_mem (f := fun q p =>
    let r := (s.core b.core.val).castOf f a.val bump.val p
    let ls := lanesOf p.2.mask
    q.report i.work.part i.work.frame (((s.core b.core.val).reg (leadOf p) w.val).toNat % 65536) f ls.length
      (ls.filter (fun l => present f (r.codes.getD l 0) r.scale)).length r.counts)
    (by simp) (by simp) i.sel t b.core.val
  rw [(hreport _).1, (hreport _).2]
  exact State.bundleDone_setReg_lanes
    (val := fun p l => BitVec.ofNat 32 (((s.core b.core.val).castOf f a.val bump.val p).codes.getD l 0))
    (scale := fun p => castWord ((s.core b.core.val).castOf f a.val bump.val p)) hbench (State.nodup_threads h.1.1)
    (fun _ => rfl)

theorem exec_mskPack_of_issues {d : VReg} {p : PReg} (h : s.issues b [d.val] [predNum p] .vector i lf z) :
    ∃ t, exec (.mskPack b d p) s = .next t ∧
      (∀ q l, q ∈ i.sel → l ∈ lanesOf q.2.mask → (t.core b.core.val).reg (thrOf q.1.gs l) d.val =
        maskWhere (fun m => q.2.mask.getLsbD m && (s.core b.core.val).pred (thrOf q.1.gs m) p.val)) ∧
      (∀ x r, r < 256 → x ∉ i.threads ∨ r ≠ d.val → (t.core b.core.val).reg x r = (s.core b.core.val).reg x r) ∧
      t.mem = s.mem := by
  obtain ⟨u, hbench, hexec⟩ := exec_of_issues h (ins := .mskPack b d p) rfl
  refine ⟨_, hexec, ?_⟩
  have hpred : ∀ x, (u.claimed b i 2 [d.val]).pred x p.val = (s.core b.core.val).pred x p.val := fun x => by
    rw [(State.sameAt_claimed u b i 2 [d.val] x).pred, State.core_of_bench hbench]
  refine And.imp_left (fun hin q l hq hl => hin (q, l) (Issue.mem_lanes hq hl)) (State.bundleDone_setReg
    (val := fun _ (a : (Group × Strand) × Nat) => maskWhere (fun m =>
      a.1.2.mask.getLsbD m && (s.core b.core.val).pred (thrOf a.1.1.gs m) p.val))
    hbench i.map_laneThr_lanes (State.nodup_threads h.1.1) d.isLt ?_ (fun _ _ _ _ => rfl))
  rw [Issue.foldl_lanes]
  simp only [Core.forThreads, strandThreads, List.foldl_map, hpred, laneThr]

end

end Sys2Proof.Machine

namespace Sys2Proof.Proofs.CoresThreadGroups
open Sys2Proof Sys2Proof.Machine

/-- Settles O24: an instruction that issues acts thread by thread, in a state whose cores and memory its fetch has left. -/
theorem vectorInstructions : Obligations.VectorInstructions := by
  unfold Obligations.VectorInstructions
  refine ⟨fun b ins s i lf a h => exec_vectorAlu_of_issues h,
    fun b ins s i lf a hb hx hr => congrArg Host.Outcome.next (State.issue_of_breaks hb hx hr),
    fun b ins s i lf a h _ => exec_vectorAlu_of_issuesAny h,
    fun b f d a s i lf z h => exec_specialFunction_of_issues h,
    fun b df sf d a w s i lf z h hdf hsf => exec_cvtF_of_issues h hdf hsf,
    fun b f d v a bump w s i lf z h hf => exec_cvtBlk_of_issues h hf,
    fun b f d a v s i lf z h hf => exec_cvtWide_of_issues h hf,
    fun b d p s i lf z h => exec_mskPack_of_issues h⟩

end Sys2Proof.Proofs.CoresThreadGroups

namespace Sys2Proof.Machine

/-!
## Strands of a group (R172 to R174, R180, R181)
-/

/-- A strand holds the lanes of another, at its address, and waits as it does. -/
def Strand.Holds (z y : Strand) : Prop :=
  (∀ l, y.mask.getLsbD l = true → z.mask.getLsbD l = true) ∧ z.pc = y.pc ∧ z.wait = y.wait

section
variable {x y z : Strand} {ts : List Strand}

theorem Strand.Holds.refl (y : Strand) : y.Holds y := ⟨fun _ h => h, rfl, rfl⟩

theorem Strand.Holds.trans (h : z.Holds y) (h' : y.Holds x) : z.Holds x :=
  ⟨fun l hl => h.1 l (h'.1 l hl), h.2.1.trans h'.2.1, h.2.2.trans h'.2.2⟩

/-- What stood among the strands stands there after a merge. -/
theorem exists_holds_mergeInto (x : Strand) (hy : y ∈ ts) : ∃ z ∈ mergeInto ts x, z.Holds y := by
  unfold mergeInto
  split
  · refine ⟨_, List.mem_map_of_mem hy, ?_⟩
    split
    · exact ⟨fun l hl => by rw [BitVec.getLsbD_or, hl, Bool.true_or], rfl, rfl⟩
    · exact .refl y
  · exact ⟨y, List.mem_append_left _ hy, .refl y⟩

/-- A strand that joins the others stands among them, alone or in one at its address. -/
theorem exists_holds_mergeInto_self (ts : List Strand) (x : Strand) : ∃ z ∈ mergeInto ts x, z.Holds x := by
  unfold mergeInto
  split
  next hmerge =>
    simp only [Bool.and_eq_true, decide_eq_true_eq, List.any_eq_true] at hmerge
    obtain ⟨hrun, y, hy, hyrun, hpc⟩ := hmerge
    refine ⟨_, List.mem_map_of_mem hy, ?_⟩
    rw [if_pos (by simp [hyrun, hpc])]
    exact ⟨fun l hl => by rw [BitVec.getLsbD_or, hl, Bool.or_true], hpc, hyrun.trans hrun.symm⟩
  next => exact ⟨x, List.mem_append_right _ (List.mem_singleton_self x), .refl x⟩

theorem exists_holds_foldl_mergeInto (xs : List Strand) (h : y ∈ ts ∨ y ∈ xs) :
    ∃ z ∈ xs.foldl mergeInto ts, z.Holds y := by
  induction xs generalizing ts y with
  | nil => exact ⟨y, h.resolve_right List.not_mem_nil, .refl y⟩
  | cons x xs ih =>
    have hstep : ∃ z, z.Holds y ∧ (z ∈ mergeInto ts x ∨ z ∈ xs) := by
      rcases h with hts | hxs
      · obtain ⟨z, hz, hold⟩ := exists_holds_mergeInto x hts
        exact ⟨z, hold, .inl hz⟩
      · rcases List.mem_cons.1 hxs with rfl | hxs
        · obtain ⟨z, hz, hold⟩ := exists_holds_mergeInto_self ts y
          exact ⟨z, hold, .inl hz⟩
        · exact ⟨y, .refl y, .inr hxs⟩
    obtain ⟨z, hold, hz⟩ := hstep
    obtain ⟨w, hw, hwz⟩ := ih hz
    exact ⟨w, hw, hwz.trans hold⟩

end

theorem Group.exists_holds_merge {g : Group} {y : Strand} (h : y ∈ g.strands) : ∃ z ∈ g.merge.strands, z.Holds y :=
  exists_holds_foldl_mergeInto g.strands (.inr h)

@[simp] theorem Core.group_accept (c : Core) (e : BitVec 5) (now n gs : Nat) :
    (c.accept e now n).group gs = c.group gs := rfl

/-- A group takes the place of the one in its slot. -/
theorem Core.group_setGroup {c : Core} {g h : Group} {gs : Nat} (hg : c.group gs = some g) (hslot : h.gs = gs) :
    (c.setGroup h).group gs = some h := by
  have hsame : ((fun k : Group => decide (k.gs = gs)) ∘ fun k => if k.gs = h.gs then h else k) =
      fun k => decide (k.gs = gs) := by
    funext k
    by_cases hk : k.gs = gs <;> simp [hk, hslot]
  have hgs := Core.gs_of_group hg
  rw [Core.group] at hg
  rw [Core.group, Core.setGroup, List.find?_map, hsame, hg, Option.map_some, if_pos (hgs.trans hslot.symm)]

/-! ### BRANCH (R173, R180, R181) -/

/-- The count of R180 reaches 64 only at a branch that every lane takes. -/
theorem whole_of_branchCount {t : Strand} {whole back : Bool} {pc : Nat} (h : (branchCount t whole back pc).2 = 64) :
    whole = true := by
  cases whole with
  | true => rfl
  | false => cases back <;> simp [branchCount] at h

section
variable {g : Group} {t : Strand} {taken : BitVec 32} {pc target next join now : Nat}

/-- The strands of a group stand, lane by lane, where a branch of strand `t` sends them. -/
def Strand.Branched (t : Strand) (taken : BitVec 32) (target next : Nat) (ss : List Strand) : Prop :=
  ∀ l, t.mask.getLsbD l = true →
    ∃ y ∈ ss, y.mask.getLsbD l = true ∧ y.pc = if taken.getLsbD l then target else next

/-- The strand of the lanes that take a branch. -/
def Strand.taker (t : Strand) (taken : BitVec 32) (pc target now : Nat) : Strand :=
  let count := branchCount t (t.mask &&& ~~~taken = 0) (target ≤ pc) pc
  { mask := taken, pc := target, brAddr := count.1, brCount := count.2, ready := now + 4, issued := now + 1 }

/-- The strand of those that do not. -/
def Strand.stayer (t : Strand) (taken : BitVec 32) (pc target next now : Nat) : Strand :=
  { mask := t.mask &&& ~~~taken, pc := next, brAddr := if target ≤ pc || taken ≠ 0 then none else t.brAddr
    brCount := if target ≤ pc || taken ≠ 0 then 0 else t.brCount, ready := now + 4, issued := now + 1 }

/-- What a strand becomes at a branch. -/
def Strand.fork (t : Strand) (taken : BitVec 32) (pc target next now : Nat) : List Strand :=
  (if taken = 0 then [] else [t.taker taken pc target now]) ++
    if t.mask &&& ~~~taken = 0 then [] else [t.stayer taken pc target next now]

/-- A group whose strand has issued and becomes others. -/
def Group.forked (g : Group) (t : Strand) (after : List Strand) (now : Nat) : Group :=
  { g with
    issued := now + 1
    strands := g.strands.flatMap (fun z => if z.mask = t.mask then after else [noteIssue t.mask z]) }

/-- A branch in these words. -/
theorem Group.branch_def : g.branch t taken pc target next join now =
    let x := t.taker taken pc target now
    let h := if taken ≠ 0 && t.mask &&& ~~~taken ≠ 0 && target ≠ next then g.openSplit t.mask join else g
    let f := h.forked t (t.fork taken pc target next now) now
    if taken ≠ 0 && x.brCount = 64 then
      if f.strands.length = 1 then (Group.merge { f with strands := [{ x with brAddr := none, brCount := 0 }] }, false)
      else ((f.spinSplit x now).merge, true)
    else (f.merge, false) := rfl

/-- The lanes that take the branch stand in one strand, the others in another. -/
theorem Strand.branched_fork : t.Branched taken target next (t.fork taken pc target next now) := by
  intro l hl
  unfold Strand.fork
  cases htaken : taken.getLsbD l with
  | true =>
    have hne : taken ≠ 0 := fun h => by simp [h] at htaken
    exact ⟨t.taker taken pc target now,
      List.mem_append_left _ (by rw [if_neg hne]; exact List.mem_singleton_self _), htaken, rfl⟩
  | false =>
    have hrest : (t.mask &&& ~~~taken).getLsbD l = true := by
      rw [BitVec.getLsbD_and, BitVec.getLsbD_not, hl, htaken, decide_eq_true (BitVec.lt_of_getLsbD hl)]
      rfl
    have hne : t.mask &&& ~~~taken ≠ 0 := fun h => by simp [h] at hrest
    exact ⟨t.stayer taken pc target next now,
      List.mem_append_right _ (by rw [if_neg hne]; exact List.mem_singleton_self _), hrest, rfl⟩

/-- The strand that issued becomes others; the rest of its group stays. -/
theorem Strand.Branched.flatMap {after ss : List Strand} (h : t.Branched taken target next after) (ht : t ∈ ss)
    (f : Strand → List Strand) :
    t.Branched taken target next (ss.flatMap (fun z => if z.mask = t.mask then after else f z)) := by
  intro l hl
  obtain ⟨y, hy, hmask, hpc⟩ := h l hl
  exact ⟨y, List.mem_flatMap.2 ⟨t, ht, by rwa [if_pos rfl]⟩, hmask, hpc⟩

theorem getLsbD_of_whole {l : Nat} (hwhole : t.mask &&& ~~~taken = 0) (hl : t.mask.getLsbD l = true) :
    taken.getLsbD l = true := by
  have h := congrArg (BitVec.getLsbD · l) hwhole
  simpa [hl, BitVec.lt_of_getLsbD hl] using h

/-- Where every lane takes the branch, a strand of all of them at the target may stand for another. -/
theorem Strand.Branched.map {x : Strand} {m : BitVec 32} {ss : List Strand} (h : t.Branched taken target next ss)
    (hmask : x.mask = taken) (hpc : x.pc = target) (hwhole : t.mask &&& ~~~taken = 0) :
    t.Branched taken target next (ss.map (fun y => if y.mask = m then x else y)) := by
  intro l hl
  obtain ⟨y, hy, hymask, hypc⟩ := h l hl
  have htaken := getLsbD_of_whole hwhole hl
  refine ⟨_, List.mem_map_of_mem hy, ?_⟩
  by_cases hsame : y.mask = m
  · rw [if_pos hsame]
    exact ⟨by rw [hmask, htaken], by rw [hpc, if_pos htaken]⟩
  · rw [if_neg hsame]
    exact ⟨hymask, hypc⟩

theorem Group.openSplit_eq (c : Prop) [Decidable c] (m : BitVec 32) :
    ∃ sp, (if c then g.openSplit m join else g) = { g with splits := sp } := by
  unfold Group.openSplit
  split
  · split
    · exact ⟨_, rfl⟩
    · exact ⟨_, rfl⟩
  · exact ⟨_, rfl⟩

/-- What a branch makes of its group, before strands at one address merge. -/
theorem Group.branch_eq (ht : t ∈ g.strands) : ∃ sp ss, (g.branch t taken pc target next join now).1 =
    Group.merge { g with issued := now + 1, splits := sp, strands := ss } ∧ t.Branched taken target next ss := by
  have hfork := (Strand.branched_fork (pc := pc) (now := now)).flatMap (taken := taken) (target := target) (next := next) ht
    (fun z => [noteIssue t.mask z])
  obtain ⟨sp, hsplit⟩ := Group.openSplit_eq (g := g) (join := join)
    ((taken ≠ 0 && t.mask &&& ~~~taken ≠ 0 && target ≠ next) = true) t.mask
  rw [Group.branch_def, hsplit]
  dsimp only
  split
  next h64 =>
    rw [Bool.and_eq_true, decide_eq_true_eq, decide_eq_true_eq] at h64
    have hwhole := of_decide_eq_true (whole_of_branchCount h64.2)
    split
    · refine ⟨sp, _, rfl, fun l hl => ⟨_, List.mem_singleton_self _, getLsbD_of_whole hwhole hl, ?_⟩⟩
      rw [if_pos (getLsbD_of_whole hwhole hl)]
      rfl
    · exact ⟨_, _, rfl, hfork.map rfl rfl hwhole⟩
  next => exact ⟨sp, _, rfl, hfork⟩

theorem Strand.Branched.merge {g : Group} (h : t.Branched taken target next g.strands) :
    t.Branched taken target next g.merge.strands := by
  intro l hl
  obtain ⟨y, hy, hmask, hpc⟩ := h l hl
  obtain ⟨z, hz, hlanes, hzpc, -⟩ := Group.exists_holds_merge hy
  exact ⟨z, hz, hlanes l hmask, hzpc.trans hpc⟩

/-- The group after a branch is in its slot, and its strands stand where the branch sends them. -/
theorem Group.branch_spec (ht : t ∈ g.strands) : (g.branch t taken pc target next join now).1.gs = g.gs ∧
    t.Branched taken target next (g.branch t taken pc target next join now).1.strands := by
  obtain ⟨sp, ss, hbranch, hlanes⟩ := Group.branch_eq (pc := pc) (join := join) (now := now) (taken := taken)
    (target := target) (next := next) ht
  rw [hbranch]
  exact ⟨rfl, Strand.Branched.merge hlanes⟩

end

end Sys2Proof.Machine

namespace Sys2Proof.Machine

/-! ### Control instructions of one strand (R173, R174, R181) -/

@[simp] theorem oneBundle_core (o : One) : (oneBundle o).core = o.core := rfl

@[simp] theorem oneBundle_next (o : One) : (oneBundle o).next = o.next := rfl

theorem Issue.only_of_sel {i : Issue} {p : Group × Strand} (h : i.sel = [p]) : i.only = some p := by
  rw [Issue.only, h]
  rfl

section
variable {s : State} {o : One} {dst src : List Nat} {i : Issue} {lf : Leaf} {z : Nat} {g : Group} {x : Strand}

/-- The strand of a control instruction stands in its group, which is on the core. -/
theorem State.picked_one (h : s.issues (oneBundle o) dst src .control i lf z) (hsel : i.sel = [(g, x)]) :
    (s.core o.core.val).group g.gs = some g ∧ x ∈ g.strands := by
  have hpick := State.picked (p := (g, x)) h.1.1 (by rw [hsel]; exact List.mem_singleton_self _)
  exact ⟨hpick.1, Group.mem_of_strandAt hpick.2⟩

/-- A count changes no core and no memory. -/
theorem State.counted_eq (v : State) (c : Bool) (b : Block) (k off n : Nat) :
    ∃ t, (if c then v.addCount b k off n else v) = t ∧ t.cores = v.cores ∧ t.mem = v.mem := by
  cases c
  · exact ⟨v, rfl, rfl, rfl⟩
  · exact ⟨v.addCount b k off n, rfl, rfl, rfl⟩

theorem exec_branch_of_issues {p : Option BranchPred} {target join : VAddr}
    (h : s.issues (oneBundle o) [] (p.toList.map (fun q => predNum q.p)) .control i lf z) (hsel : i.sel = [(g, x)]) :
    ∃ t h, exec (.branch o p target join) s = .next t ∧ (t.core o.core.val).group g.gs = some h ∧
      (∀ l, l < 32 → x.mask.getLsbD l = true → ∃ y ∈ h.strands, y.mask.getLsbD l = true ∧
        y.pc = if (takenOf (s.core o.core.val) g.gs x.mask p).getLsbD l then target.toNat else o.next.toNat) ∧
      (t.core o.core.val).regs = (s.core o.core.val).regs ∧ t.mem = s.mem := by
  obtain ⟨hgroup, hstrand⟩ := State.picked_one h hsel
  obtain ⟨u, hbench, hexec⟩ := exec_of_issues h (ins := .branch o p target join) rfl
  simp only [Issue.only_of_sel hsel, State.core_of_bench hbench] at hexec
  obtain ⟨hslot, hlanes⟩ := Group.branch_spec (taken := takenOf (s.core o.core.val) g.gs x.mask p) (pc := o.pc.toNat)
    (target := target.toNat) (next := o.next.toNat) (join := join.toNat) (now := u.now) hstrand
  generalize g.branch x (takenOf (s.core o.core.val) g.gs x.mask p) o.pc.toNat target.toNat o.next.toNat join.toNat u.now =
    r at hexec hslot hlanes
  obtain ⟨t, ht, hcores, hmem⟩ := State.counted_eq
    (u.setCore o.core.val (((s.core o.core.val).accept onControl u.now 1).setGroup r.1)) r.2 .core o.core.val 0x808 1
  rw [ht] at hexec
  have hcore : t.core o.core.val = ((s.core o.core.val).accept onControl u.now 1).setGroup r.1 := by
    rw [State.core, hcores]
    exact State.core_setCore_same u _ _
  refine ⟨t, r.1, hexec, ?_, fun l _ hl => hlanes l hl, by rw [hcore]; rfl,
    hmem.trans ((State.setCore_mem ..).trans (State.mem_of_bench hbench))⟩
  rw [hcore]
  exact Core.group_setGroup (c := (s.core o.core.val).accept onControl u.now 1) hgroup hslot

theorem execYieldEnd_of {k : CoreId} {gs : GroupSlot} {pc : VAddr} (hgroup : (s.core k.val).group gs.val = some g)
    (hfind : g.strands.find? (fun t => t.pc = pc.toNat && g.yieldOver s.now t) = some x) :
    ∃ t h, exec (.yieldEnd k gs pc) s = .next t ∧ (t.core k.val).group gs.val = some h ∧
      (∃ y ∈ h.strands, y.mask &&& x.mask = x.mask ∧ y.pc = x.pc ∧ y.wait = .run) ∧
      (t.core k.val).regs = (s.core k.val).regs ∧ t.mem = s.mem := by
  have hslot := Core.gs_of_group hgroup
  have hexec : exec (.yieldEnd k gs pc) s = .next (s.setCore k.val ((s.core k.val).setGroup (Group.merge { g with
      strands := g.strands.map (fun y => if y.mask = x.mask then { y with wait := .run } else y) }))) := by
    refine congrArg Host.Outcome.next ?_
    simp only [hgroup, hfind]
  have hrun : { x with wait := .run } ∈ g.strands.map (fun y => if y.mask = x.mask then { y with wait := .run } else y) :=
    List.mem_map.2 ⟨x, List.mem_of_find?_eq_some hfind, if_pos rfl⟩
  obtain ⟨y, hy, hlanes, hpc, hwait⟩ := Group.exists_holds_merge (g := { g with
    strands := g.strands.map (fun y => if y.mask = x.mask then { y with wait := .run } else y) }) hrun
  refine ⟨_, _, hexec, ?_, ⟨y, hy, ?_, hpc, hwait⟩, by rw [State.core_setCore_same]; rfl, rfl⟩
  · rw [State.core_setCore_same]
    exact Core.group_setGroup hgroup hslot
  · refine BitVec.eq_of_getLsbD_eq fun l _ => ?_
    rw [BitVec.getLsbD_and]
    cases hl : x.mask.getLsbD l with
    | true => rw [hlanes l hl, Bool.and_true]
    | false => rw [Bool.and_false]

theorem execJoin_of {k : CoreId} {gs : GroupSlot} {w : Work} {l : Launch} {r : Split} (hrun : s.running k.val = some (w, l))
    (hgroup : (s.core k.val).group gs.val = some g) (hfind : g.splits.find? g.complete = some r)
    (hissue : g.mayIssue s.now = true) (hclear : (s.core k.val).clearTo ≤ s.now)
    (hport : (s.core k.val).ports.free .control s.now = true) (hrank : s.outranked k.val l 0 g = false) :
    ∃ t h, exec (.join k gs) s = .next t ∧ (t.core k.val).group gs.val = some h ∧ h.splits = g.splits.erase r ∧
      h.issued = s.now + 1 ∧ (t.core k.val).regs = (s.core k.val).regs ∧ t.mem = s.mem := by
  have hslot := Core.gs_of_group hgroup
  have hexec : exec (.join k gs) s = .next (s.setCore k.val (((s.core k.val).accept onControl s.now 1).setGroup
      (Group.merge { g with splits := g.splits.erase r, issued := s.now + 1 }))) := by
    refine congrArg Host.Outcome.next ?_
    simp only [hrun, hgroup, State.joinGroup, hissue, hclear, hport, hrank, hfind]
    rfl
  refine ⟨_, Group.merge { g with splits := g.splits.erase r, issued := s.now + 1 }, hexec, ?_, rfl, rfl,
    by rw [State.core_setCore_same]; rfl, rfl⟩
  rw [State.core_setCore_same]
  exact Core.group_setGroup (c := (s.core k.val).accept onControl s.now 1) hgroup hslot

end

end Sys2Proof.Machine

namespace Sys2Proof.Proofs.CoresThreadGroups
open Sys2Proof Sys2Proof.Machine

/-- Settles O26: the lanes of a branch stand where it sends them whether or not its strands merge again, a strand that has
waited long enough runs, and a join closes its record. -/
theorem divergence : Obligations.Divergence := by
  unfold Obligations.Divergence
  exact ⟨fun o p target join s i lf z g x h hsel => exec_branch_of_issues h hsel,
    fun k gs pc s g x hgroup hfind => execYieldEnd_of hgroup hfind,
    fun k gs s w l g r hrun hgroup hfind hissue hclear hport hrank =>
      execJoin_of hrun hgroup hfind hissue hclear hport hrank⟩

end Sys2Proof.Proofs.CoresThreadGroups

namespace Sys2Proof.Machine

/-!
## Barriers, exits and special values (R161, R165, R176, R177)
-/

section
variable {s : State} {o : One} {dst src : List Nat} {i : Issue} {lf : Leaf} {z : Nat} {g : Group} {x : Strand}

/-- What a barrier instruction does to its core. -/
theorem State.barrier_of_issues {id : Nat} {park : Bool} (h : s.issues (oneBundle o) [] [] .control i lf z)
    (hsel : i.sel = [(g, x)]) : ∃ t, s.barrier o id park = t ∧ t.mem = s.mem ∧
      t.core o.core.val = ((((s.core o.core.val).accept onControl s.now 1).setGroup (g.replace x
        [{ x with pc := o.next.toNat, wait := if park then .parked id else .run, held := none, issued := s.now + 1 }]
        s.now)).arrive g.bslot id ((lanesOf x.mask).map (fun l => 32 * g.gi + l)) park).settleBarrier g.bslot id := by
  obtain ⟨u, hbench, hissue⟩ := State.issue_of_issues h (fun u t =>
    match u.only with
    | none => t
    | some (g, x) =>
      let y : Strand := { x with
        pc := o.next.toNat, wait := if park then .parked id else .run, held := none, issued := t.now + 1 }
      let c := ((t.core o.core.val).accept onControl t.now 1).setGroup (g.replace x [y] t.now)
      t.setCore o.core.val ((c.arrive g.bslot id ((lanesOf x.mask).map (fun l => 32 * g.gi + l)) park).settleBarrier
        g.bslot id))
  simp only [Issue.only_of_sel hsel, State.core_of_bench hbench, State.now_of_bench hbench] at hissue
  exact ⟨_, hissue, by rw [State.setCore_mem, State.mem_of_bench hbench], State.core_setCore_same _ _ _⟩

end

theorem Core.block_setBlock {c : Core} {b b' : Blk} {slot : Nat} (hb : c.block slot = some b) (hslot : b'.slot = slot) :
    (c.setBlock b').block slot = some b' := by
  have hsame : ((fun k : Blk => decide (k.slot = slot)) ∘ fun k => if k.slot = b'.slot then b' else k) =
      fun k => decide (k.slot = slot) := by
    funext k
    by_cases hk : k.slot = slot <;> simp [hk, hslot]
  have hbslot : b.slot = slot := by simpa using List.find?_some hb
  rw [Core.block] at hb
  rw [Core.block, Core.setBlock, List.find?_map, hsame, hb, Option.map_some, if_pos (hbslot.trans hslot.symm)]

/-- An arrival is counted for each thread, and a thread that parks waits for it (R176, R177). -/
theorem Core.arrive_spec {c : Core} {b : Blk} {id th : Nat} {ths : List Nat} {park : Bool} (hb : c.block b.slot = some b)
    (hth : th ∈ ths) : ∃ b', (c.arrive b.slot id ths park).block b.slot = some b' ∧
      b'.count id th = b.count id th + 1 ∧ (park = true → (id, th, b.count id th + 1) ∈ b'.parked) := by
  have harrive : c.arrive b.slot id ths park = c.setBlock { b with
      arrived := ths.foldl (fun a t => Tab.set 0 a (arrKey id t) (b.count id t + 1)) b.arrived
      parked := if park then b.parked ++ ths.map (fun t => (id, t, b.count id t + 1)) else b.parked } := by
    simp only [Core.arrive, hb]
  refine ⟨_, by rw [harrive]; exact Core.block_setBlock hb rfl, ?_, fun hpark => ?_⟩
  · refine foldl_establishes (P := fun a : Tab Nat => Tab.get 0 a (arrKey id th) = b.count id th + 1) hth
      (fun a => Tab.get_set_same _ _ _ _) (fun t _ a ha => ?_) _
    rw [Tab.get_set]
    split
    next hkey =>
      have hsame : t = th := Nat.add_left_cancel hkey
      rw [hsame]
    next => exact ha
  · rw [if_pos hpark]
    exact List.mem_append_right _ (List.mem_map_of_mem hth)

/-! ### What completions leave (R165, R176) -/

/-- A core keeps its registers and the slots of its groups. -/
def Core.Keeps (c d : Core) : Prop := d.regs = c.regs ∧ d.groups.map (·.gs) = c.groups.map (·.gs)

section
variable {c d e : Core}

theorem Core.Keeps.refl (c : Core) : c.Keeps c := ⟨rfl, rfl⟩

theorem Core.Keeps.trans (h : c.Keeps d) (h' : d.Keeps e) : c.Keeps e := ⟨h'.1.trans h.1, h'.2.trans h.2⟩

theorem Core.group_eq_none {gs : Nat} : c.group gs = none ↔ gs ∉ c.groups.map (·.gs) := by
  simp [Core.group, List.find?_eq_none]

theorem Core.Keeps.group_none (h : c.Keeps d) {gs : Nat} (hnone : c.group gs = none) : d.group gs = none := by
  rw [Core.group_eq_none] at hnone ⊢
  rwa [h.2]

theorem Core.completeOnce_keeps (c : Core) (b : Blk) (id : Nat) : c.Keeps (c.completeOnce b id) := by
  refine ⟨rfl, ?_⟩
  have hslots : ∀ (f : Group → Group) (gs : List Group), (∀ g, (f g).gs = g.gs) →
      (gs.map f).map (·.gs) = gs.map (·.gs) := fun f gs hf => by rw [List.map_map]; exact List.map_congr_left fun g _ => hf g
  refine hslots _ c.groups fun g => ?_
  split <;> rfl

theorem Core.complete_keeps (n : Nat) (c : Core) (bslot id : Nat) : c.Keeps (Core.complete n c bslot id) := by
  induction n generalizing c with
  | zero => exact .refl c
  | succ n ih =>
    rw [Core.complete]
    split
    · exact .refl c
    · split
      · exact (Core.completeOnce_keeps c _ id).trans (ih _)
      · exact .refl c

theorem Core.settleBarrier_keeps (c : Core) (bslot id : Nat) : c.Keeps (c.settleBarrier bslot id) := by
  unfold Core.settleBarrier
  split
  · exact .refl c
  · exact Core.complete_keeps _ c bslot id

/-- A strand that exits leaves the registers; a group of it alone is gone (R165). -/
theorem Core.exitStrand_spec (c : Core) (g : Group) (x : Strand) (now : Nat) :
    (c.exitStrand g x now).regs = c.regs ∧ (g.strands = [x] → (c.exitStrand g x now).group g.gs = none) := by
  have hsettle : ∀ d : Core, d.Keeps ((List.range 16).foldl (fun q id => q.settleBarrier g.bslot id) d) := fun d =>
    foldl_keeps (fun e : Core => d.Keeps e) _ (fun e id he => he.trans (Core.settleBarrier_keeps e _ id)) _ d (.refl d)
  unfold Core.exitStrand
  refine ⟨(hsettle _).1.trans ?_, fun hlast => (hsettle _).group_none ?_⟩
  · dsimp only
    split <;> rfl
  · have hnone : ((g.replace x [] now).detach x.mask).strands = [] := by
      simp [Group.detach, Group.replace, Group.merge, hlast]
    rw [if_pos hnone]
    refine Core.group_eq_none.2 fun hmem => ?_
    obtain ⟨h, hh, hgs⟩ := List.mem_map.1 hmem
    exact of_decide_eq_true (List.mem_filter.1 hh).2 hgs

end

section
variable {s : State} {o : One} {dst src : List Nat} {i : Issue} {lf : Leaf} {z : Nat} {g : Group} {x : Strand}

theorem exec_exit_of_issues (h : s.issues (oneBundle o) [] [] .control i lf z) (hsel : i.sel = [(g, x)]) :
    ∃ t, exec (.exit o) s = .next t ∧ (g.strands = [x] → (t.core o.core.val).group g.gs = none) ∧
      (t.core o.core.val).regs = (s.core o.core.val).regs ∧ t.mem = s.mem := by
  obtain ⟨u, hbench, hexec⟩ := exec_of_issues h (ins := .exit o) rfl
  simp only [Issue.only_of_sel hsel, State.core_of_bench hbench] at hexec
  obtain ⟨hregs, hgone⟩ := Core.exitStrand_spec ((s.core o.core.val).accept onControl u.now 1) g x u.now
  refine ⟨_, hexec, ?_, ?_, by rw [State.setCore_mem, State.mem_of_bench hbench]⟩
  · rw [State.core_setCore_same]
    exact hgone
  · rw [State.core_setCore_same]
    exact hregs

theorem exec_specialValueRead_of_issues {v : SpecialVal} {d : VReg} {b : Blk}
    (h : s.issues (oneBundle o) [d.val] [] .control i lf z) (hsel : i.sel = [(g, x)])
    (hb : (s.core o.core.val).block g.bslot = some b) :
    ∃ t, exec (.specialValueRead o v d) s = .next t ∧ t.mem = s.mem ∧
      ∀ l, l ∈ lanesOf x.mask → (t.core o.core.val).reg (thrOf g.gs l) d.val = s.specialVal i.l o.core.val b g l v := by
  obtain ⟨u, hbench, hexec⟩ := exec_of_issues h (ins := .specialValueRead o v d) rfl
  simp only [Issue.only_of_sel hsel, State.core_of_bench hbench, hb] at hexec
  have hval : ∀ l, u.specialVal i.l o.core.val b g l v = s.specialVal i.l o.core.val b g l v := fun l => by
    simp only [State.specialVal, State.fr_of_bench hbench]
  have hthr : (lanesOf x.mask).map (thrOf g.gs) = i.threads := by simp [Issue.threads, hsel]
  simp only [hval] at hexec
  refine ⟨_, hexec, by rw [State.bundleDone_mem, State.mem_of_bench hbench], ?_⟩
  exact (State.bundleDone_setReg (b := oneBundle o) (val := fun _ l => s.specialVal i.l o.core.val b g l v) hbench hthr
    (State.nodup_threads h.1.1) d.isLt rfl (fun _ _ _ _ => rfl)).1

/-- GROUP_PROMOTE (R171). -/
theorem execGroupPromote_of {k : CoreId} {gs : GroupSlot} {w : Work} {l : Launch} {h : Group}
    (hrun : s.running k.val = some (w, l)) (hnext : (s.core k.val).nextPending (fun x =>
      (s.core k.val).heldCause l (bit (s.cfg .array k.val 0x100) 1) s.now s.govLevel x = 0) s.now = some h)
    (hmay : (s.core k.val).mayDemote gs.val = true) (hne : h.gs ≠ gs.val) (hprom : (s.core k.val).promoted ≤ s.now) :
    ∃ t, exec (.groupPromote k gs) s = .next t ∧
      (∀ g ∈ (t.core k.val).groups, g.gs = h.gs → g.active = true ∧ g.promoted = s.now + 2) ∧
      (∀ g ∈ (t.core k.val).groups, g.gs = gs.val → g.active = false) ∧
      (t.core k.val).regs = (s.core k.val).regs ∧ t.mem = s.mem := by
  have hexec : exec (.groupPromote k gs) s = .next (s.setCore k.val { s.core k.val with
      promoted := s.now + 1
      groups := (s.core k.val).groups.map (fun g =>
        if g.gs = h.gs then { g with active := true, promoted := s.now + 2 }
        else if g.gs = gs.val && g.active then { g with active := false, waiting := s.now }
        else g) }) := by
    refine congrArg Host.Outcome.next ?_
    simp only [hrun, hnext]
    exact if_pos (by simp [hmay, hne, hprom])
  refine ⟨_, hexec, ?_, ?_, by rw [State.core_setCore_same], rfl⟩
  · rw [State.core_setCore_same]
    intro g hg hgs
    obtain ⟨q, -, rfl⟩ := List.mem_map.1 hg
    by_cases hq : q.gs = h.gs
    · rw [if_pos hq]
      exact ⟨rfl, rfl⟩
    · rw [if_neg hq] at hgs
      split at hgs <;> exact absurd hgs hq
  · rw [State.core_setCore_same]
    intro g hg hgs
    obtain ⟨q, -, rfl⟩ := List.mem_map.1 hg
    by_cases hq : q.gs = h.gs
    · rw [if_pos hq] at hgs
      exact absurd (hq.symm.trans hgs) hne
    · rw [if_neg hq] at hgs ⊢
      split
      next => rfl
      next hstays =>
        rw [if_neg hstays] at hgs
        simpa [hgs] using hstays

end

end Sys2Proof.Machine

namespace Sys2Proof.Machine

/-!
## Status registers beside the first (R152, R187)

Memory traffic, the end of work and a context's fault latch the status registers at offset 0x800 of their instances, and
no other: CORE.FAULT, which stands at 0x804, keeps what the core's fault has latched. `f_sideStatus` says so of an
operation `f`.
-/

/-- The status registers that do not stand at offset 0x800. -/
def State.sideStatus (s : State) (k : Nat) : Word := if k % 4096 = 0x800 then 0 else Tab.get 0 s.regs.status k

section
variable {s t : State}

theorem State.sq_of_sideStatus (h : t.sideStatus = s.sideStatus) (b : Block) (i : Nat) :
    t.sq b i 0x804 = s.sq b i 0x804 := by
  have hoff : ¬regKey b i 0x804 % 4096 = 0x800 := by
    unfold regKey
    omega
  have hkey := congrFun h (regKey b i 0x804)
  rwa [State.sideStatus, State.sideStatus, if_neg hoff, if_neg hoff] at hkey

/-- A fold of operations that each leave these registers leaves them. -/
theorem foldl_sideStatus {α : Type} {f : State → α → State} (h : ∀ s a, (f s a).sideStatus = s.sideStatus)
    (l : List α) (s : State) : (l.foldl f s).sideStatus = s.sideStatus :=
  foldl_keeps (fun t : State => t.sideStatus = s.sideStatus) f (fun t a ht => (h t a).trans ht) l s rfl

@[simp] theorem State.sideStatus_ite (c : Prop) [Decidable c] (a b : State) :
    (if c then a else b).sideStatus = if c then a.sideStatus else b.sideStatus := apply_ite State.sideStatus c a b

end

section
variable (s : State)

@[simp] theorem State.latch_sideStatus (b : Block) (i : Nat) (f : Word → Word) :
    (s.latch b i 0x800 f).sideStatus = s.sideStatus := by
  funext k
  unfold State.sideStatus
  split
  · rfl
  next hk => exact Tab.get_set_ne 0 0 _ _ (fun h => hk (by rw [← h, regKey]; omega))

@[simp] theorem State.addCount_sideStatus (b : Block) (i off n : Nat) :
    (s.addCount b i off n).sideStatus = s.sideStatus := rfl

@[simp] theorem State.setCore_sideStatus (k : Nat) (v : Core) : (s.setCore k v).sideStatus = s.sideStatus := rfl

@[simp] theorem State.setSg_sideStatus (g : Nat) (v : Sg) : (s.setSg g v).sideStatus = s.sideStatus := rfl

@[simp] theorem State.dropWork_sideStatus (id : Nat) : (s.dropWork id).sideStatus = s.sideStatus := rfl

@[simp] theorem State.unreserve_sideStatus (c : Nat) (f : FrameNo) (n : Nat) :
    (s.unreserve c f n).sideStatus = s.sideStatus := rfl

@[simp] theorem State.putLine_sideStatus (l : LLine) : (s.putLine l).sideStatus = s.sideStatus := rfl

@[simp] theorem State.dropLine_sideStatus (line : Nat) : (s.dropLine line).sideStatus = s.sideStatus := rfl

@[simp] theorem State.touchLine_sideStatus (l : LLine) : (s.touchLine l).sideStatus = s.sideStatus := rfl

@[simp] theorem State.countServed_sideStatus (line : Nat) (r : Bool) :
    (s.countServed line r).sideStatus = s.sideStatus := rfl

theorem State.withHbm_sideStatus (h : HbmState) : ({ s with hbm := h } : State).sideStatus = s.sideStatus := rfl

theorem State.withSlowUncorr_sideStatus (u : Tab Nat) : ({ s with slowUncorr := u } : State).sideStatus = s.sideStatus :=
  rfl

@[simp] theorem State.sendMsix_sideStatus (f v : Nat) (why : Option Nat) :
    (s.sendMsix f v why).sideStatus = s.sideStatus := by
  obtain ⟨p, o, h⟩ := State.sendMsix_eq s f v why
  rw [h]
  rfl

@[simp] theorem State.raise_sideStatus (b : Block) (i : Nat) (code : BitVec 16) :
    (s.raise b i code).sideStatus = s.sideStatus := by
  obtain ⟨p, o, h⟩ := State.raise_eq s b i code
  rw [h]
  rfl

/-! ### Reads and writes of a stack -/

theorem State.correction_sideStatus (a : Nat) : (s.correction a).sideStatus = s.sideStatus := by
  have hlatched : ∀ x : HbmState, ({ (s.addCount (eccAt a).1 (eccAt a).2 0x804 1).latch (eccAt a).1 (eccAt a).2 0x800
      (· ||| flag true 22) with hbm := x } : State).sideStatus = s.sideStatus := fun x =>
    (State.withHbm_sideStatus _ x).trans (State.latch_sideStatus _ _ _ _)
  simp only [State.correction, State.sideStatus_ite, State.raise_sideStatus, hlatched, ite_self]

theorem State.reportUncorr_sideStatus (a : Nat) : (s.reportUncorr a).sideStatus = s.sideStatus := by
  simp only [State.reportUncorr]
  split
  · exact (State.withHbm_sideStatus _ _).trans (by simp)
  · exact (State.withSlowUncorr_sideStatus _ _).trans (by simp)

theorem State.burst_sideStatus (line : Nat) (m : BitVec 4) (w : Bool) :
    (s.burst line m w).sideStatus = s.sideStatus := by
  simp only [State.burst]
  split <;> rfl

theorem State.readSector_sideStatus (n : Nat) : (s.readSector n).sideStatus = s.sideStatus := by
  have hfix : ((s.setUpset n 0).correction (32 * n)).sideStatus = s.sideStatus := State.correction_sideStatus _ _
  simp only [State.readSector]
  split
  · exact State.reportUncorr_sideStatus s _
  · split
    · rfl
    · split
      · exact (State.burst_sideStatus _ _ _ _).trans hfix
      · exact hfix

@[simp] theorem State.hbmFetch_sideStatus (line : Nat) (m : BitVec 4) :
    (s.hbmFetch line m).sideStatus = s.sideStatus := by
  simp only [State.hbmFetch]
  split
  · rfl
  · refine (foldl_sideStatus (fun t i => ?_) _ _).trans (State.burst_sideStatus s _ _ _)
    split
    · exact State.readSector_sideStatus t _
    · rfl

@[simp] theorem State.hbmPut_sideStatus (line : Nat) (m : BitVec 4) (d : List Byte) (g : Bool) :
    (s.hbmPut line m d g).sideStatus = s.sideStatus := by
  have hwrite : (s.hbmWrite line m d).sideStatus = s.sideStatus := by
    refine foldl_sideStatus (fun t i => ?_) _ s
    split <;> rfl
  simp only [State.hbmPut]
  split
  · rfl
  · exact hwrite

@[simp] theorem State.hbmAsk_sideStatus (line : Nat) (m : BitVec 4) (g : Bool) :
    (s.hbmAsk line m g).sideStatus = s.sideStatus := by
  simp only [State.hbmAsk]
  split <;> rfl

/-! ### A write at a home slice -/

theorem recallOne_sideStatus (q : State × LLine) (k : Nat) : (recallOne q k).1.sideStatus = q.1.sideStatus := by
  simp only [recallOne]
  split
  · rfl
  · split
    · rfl
    · rfl
    · rfl
    · split <;> rfl

@[simp] theorem State.recall_sideStatus (l : LLine) : (s.recall l).1.sideStatus = s.sideStatus :=
  foldl_keeps (fun q : State × LLine => q.1.sideStatus = s.sideStatus) recallOne
    (fun q k hq => (recallOne_sideStatus q k).trans hq) _ _ rfl

@[simp] theorem State.resolve_sideStatus (l : LLine) : (s.resolve l).1.sideStatus = s.sideStatus :=
  (State.hbmFetch_sideStatus _ _ _).trans (State.recall_sideStatus s l)

theorem State.evict_sideStatus (l : LLine) : (s.evict l).sideStatus = s.sideStatus := by
  unfold State.evict
  by_cases hr : l.st = .red <;> simp [hr]

theorem State.takeWay_sideStatus {free : Nat → Bool} {line w : Nat} {t : State} (e : s.takeWay free line = some (t, w)) :
    t.sideStatus = s.sideStatus := by
  simp only [State.takeWay] at e
  split at e
  · cases e
  · split at e
    · cases e; rfl
    · cases e; rfl
    · split at e
      · cases e
      · split at e
        · cases e; exact State.evict_sideStatus s _
        · cases e

@[simp] theorem State.awrValue_sideStatus (who : Agent × Option Nat) (l : LLine) (bs : List (Nat × Byte)) :
    (s.awrValue who l bs).sideStatus = s.sideStatus := by
  simp only [State.awrValue]
  split
  · simp [State.fillNow]
  · simp

@[simp] theorem State.awrLater_sideStatus (who : Agent × Option Nat) (line : Nat) (bs : List (Nat × Byte)) :
    (s.awrLater who line bs).sideStatus = s.sideStatus := by
  simp only [State.awrLater]
  split
  · rfl
  · split
    · rfl
    · split
      · rfl
      · split
        · rfl
        · split
          · exact State.awrValue_sideStatus s _ _ _
          · split
            · exact State.awrValue_sideStatus s _ _ _
            · refine (State.putLine_sideStatus _ _).trans (foldl_sideStatus (fun t k => ?_) _ s)
              rfl

theorem State.awrLine_sideStatus (who : Agent × Option Nat) (line : Nat) (bs : List (Nat × Byte)) :
    (s.awrLine who line bs).sideStatus = s.sideStatus := by
  simp only [State.awrLine]
  split
  · exact State.awrLater_sideStatus s _ _ _
  · split
    · split
      · exact State.awrLater_sideStatus s _ _ _
      next e => exact (State.awrValue_sideStatus _ _ _ _).trans (State.takeWay_sideStatus s e)
    · split <;> simp

theorem State.cohWrite_sideStatus (who : Agent × Option Nat) (a : Nat) (bs : List Byte) :
    (s.cohWrite who a bs).sideStatus = s.sideStatus := by
  unfold State.cohWrite
  split
  · refine foldl_sideStatus (fun t k => ?_) _ (s.memWrite a bs)
    rfl
  · exact foldl_sideStatus (fun t x => State.awrLine_sideStatus t _ _ _) _ s

/-! ### The end of a context's work -/

@[simp] theorem State.ringWrite_sideStatus (c slot off : Nat) (bs : List Byte) :
    (s.ringWrite c slot off bs).sideStatus = s.sideStatus := by
  simp only [State.ringWrite]
  split
  · rfl
  · exact State.cohWrite_sideStatus s _ _ _

@[simp] theorem State.writeEnd_sideStatus (c slot : Nat) (status : Byte) (irq : Bool) :
    (s.writeEnd c slot status irq).sideStatus = s.sideStatus := by
  simp [State.writeEnd, State.ctxIrq]

theorem State.dropEntries_sideStatus (job : Nat) : (s.dropEntries job).sideStatus = s.sideStatus := by
  refine foldl_sideStatus (fun t d => ?_) _ s
  dsimp only
  split <;> rfl

theorem State.stopWork_sideStatus (w : Work) : (s.stopWork w).sideStatus = s.sideStatus := by
  unfold State.stopWork
  split
  · refine (State.dropEntries_sideStatus _ _).trans ((foldl_sideStatus (fun t k => ?_) _ _).trans ?_)
    · split
      · refine (State.setCore_sideStatus _ _ _).trans (foldl_sideStatus (fun u e => ?_) _ t)
        rfl
      · rfl
    · simp [State.countOverdraw]
  · exact State.dropEntries_sideStatus s w.id
  · rfl
  · rfl
  · rfl

theorem State.kUncommitted_sideStatus (p g : Nat) (j : NarogJob) : (s.kUncommitted p g j).sideStatus = s.sideStatus := by
  simp only [State.kUncommitted, State.kAbandon]
  split
  · split <;> rfl
  · rfl

theorem State.narogEnded_sideStatus (w : Work) (j : NarogJob) : (s.narogEnded w j).sideStatus = s.sideStatus := by
  simp [State.narogEnded, State.kUncommitted_sideStatus]

theorem State.endWork_sideStatus (w : Work) (status : Byte) : (s.endWork w status).sideStatus = s.sideStatus := by
  unfold State.endWork
  extract_lets t
  have ht : t.sideStatus = s.sideStatus := by
    simp only [t]
    split
    · exact State.narogEnded_sideStatus _ _ _
    all_goals rfl
  split
  · exact ht
  next c _ =>
    extract_lets v u
    have hv : v.sideStatus = t.sideStatus := by
      simp only [v]
      split
      · exact State.ringWrite_sideStatus _ _ _ _ _
      all_goals rfl
    have hu : u.sideStatus = s.sideStatus := (State.writeEnd_sideStatus _ _ _ _ _).trans (hv.trans ht)
    split
    · exact (State.unreserve_sideStatus _ _ _ _).trans hu
    · exact hu

theorem State.endCtxWork_sideStatus (runStatus : Byte) (w : Work) :
    (State.endCtxWork runStatus s w).sideStatus = s.sideStatus := by
  rw [State.endCtxWork]
  split
  · exact (State.endWork_sideStatus _ _ _).trans (State.stopWork_sideStatus s w)
  · exact State.endWork_sideStatus s w _

theorem State.stopCtxWork_sideStatus (c : Nat) (runStatus : Byte) : (s.stopCtxWork c runStatus).sideStatus = s.sideStatus :=
  foldl_sideStatus (fun t w => State.endCtxWork_sideStatus t runStatus w) _ s

@[simp] theorem State.setCtx_sideStatus (c : Nat) (v : Ctx) : (s.setCtx c v).sideStatus = s.sideStatus := rfl

@[simp] theorem State.noteFallen_sideStatus (c : Nat) : (s.noteFallen c).sideStatus = s.sideStatus := rfl

theorem State.reportCtxFault_sideStatus (c : Nat) (code : BitVec 16) :
    (s.reportCtxFault c code).sideStatus = s.sideStatus := by
  simp [State.reportCtxFault]

variable {s} in
/-- A fault of an ACTIVE context leaves CORE.FAULT as its core has latched it (R152, R187). -/
theorem State.ctxFault_sideStatus {c : Nat} {code : BitVec 16} (h : (s.ctx c).st = .active) :
    (s.ctxFault c code).sideStatus = s.sideStatus := by
  rw [State.ctxFault_of_active h, State.stopCtxWork_sideStatus, State.noteFallen_sideStatus, State.setCtx_sideStatus,
    State.reportCtxFault_sideStatus]

end

/-! ### A fault that a core detects (R178, R187) -/

section
variable {s : State}

/-- A fault is latched in CORE.FAULT, and stops the context of the core's launch. -/
theorem State.coreFault_of_active {k c : Nat} (bslot barrier : Nat) (code : BitVec 16) (hctx : s.coreCtx k = some c)
    (h : (s.ctx c).st = .active) :
    ((s.coreFault k bslot barrier code).ctx c).st = .stopped ∧
      ∃ o, (s.coreFault k bslot barrier code).sq .core k 0x804 = (o &&& flag true 23) |||
        flag (s.latchedBefore .core k 0x804) 23 ||| (place bslot 18 ||| place barrier 14 ||| place (code.toNat % 4096) 0) := by
  set t := s.latchLast .core k 0x804 23 (place bslot 18 ||| place barrier 14 ||| place (code.toNat % 4096) 0) with ht
  have hfault : s.coreFault k bslot barrier code = t.ctxFault c code := by
    simp only [State.coreFault, hctx, ht]
  have hactive : (t.ctx c).st = .active := h
  rw [hfault]
  refine ⟨?_, _,
    (State.sq_of_sideStatus (State.ctxFault_sideStatus hactive) .core k).trans (State.sq_latch_same _ _ _ _ _)⟩
  rw [State.ctxFault_of_active hactive]
  obtain ⟨r, hr⟩ := State.stopCtxWork_ctx (((t.reportCtxFault c code).setCtx c { t.ctx c with
    st := .stopped, fetched := none, atsWait := none }).noteFallen c) c stFaulted c
  rw [hr, State.ctx_noteFallen, State.ctx_setCtx_same]

end

end Sys2Proof.Machine

namespace Sys2Proof.Machine

/-! ### CORE.FAULT (R187) -/

theorem field_or (a b : Word) (hi lo : Nat) : field (a ||| b) hi lo = field a hi lo ||| field b hi lo := by
  simp only [field, BitVec.toNat_or, ← Nat.shiftRight_eq_div_pow, Nat.shiftRight_or_distrib, Nat.or_mod_two_pow]

theorem field_and (a b : Word) (hi lo : Nat) : field (a &&& b) hi lo = field a hi lo &&& field b hi lo := by
  simp only [field, BitVec.toNat_and, ← Nat.shiftRight_eq_div_pow, Nat.shiftRight_and_distrib, Nat.and_mod_two_pow]

/-- The MULTI bit lies above the fields of the last event. -/
theorem field_latchLast {o v : Word} {m : Bool} {hi lo : Nat} (h : field (flag true 23) hi lo = 0) :
    field ((o &&& flag true 23) ||| flag m 23 ||| v) hi lo = field v hi lo := by
  have hmulti : field (flag m 23) hi lo = 0 := by
    cases m
    · simp [flag, field]
    · exact h
  rw [field_or, field_or, field_and, h, hmulti, Nat.and_zero, Nat.or_zero, Nat.zero_or]

theorem field_place (n lo' hi lo : Nat) :
    field (place n lo') hi lo = n * 2 ^ lo' % 2 ^ 32 / 2 ^ lo % 2 ^ (hi + 1 - lo) := by
  rw [field, place, BitVec.toNat_ofNat]

/-- The fields of CORE.FAULT: block slot, barrier and code. -/
theorem field_coreFault {slot barrier code : Nat} (hs : slot < 32) (hb : barrier < 16) (hc : code < 4096) :
    field (place slot 18 ||| place barrier 14 ||| place code 0) 22 18 = slot ∧
      field (place slot 18 ||| place barrier 14 ||| place code 0) 17 14 = barrier ∧
      field (place slot 18 ||| place barrier 14 ||| place code 0) 11 0 = code := by
  simp only [field_or, field_place, Nat.reducePow, Nat.reduceAdd, Nat.reduceSub, Nat.mul_one, Nat.div_one]
  refine ⟨?_, ?_, ?_⟩
  · rw [show slot * 262144 % 4294967296 / 262144 % 32 = slot by omega,
      show barrier * 16384 % 4294967296 / 262144 % 32 = 0 by omega, show code % 4294967296 / 262144 % 32 = 0 by omega,
      Nat.or_zero, Nat.or_zero]
  · rw [show slot * 262144 % 4294967296 / 16384 % 16 = 0 by omega,
      show barrier * 16384 % 4294967296 / 16384 % 16 = barrier by omega,
      show code % 4294967296 / 16384 % 16 = 0 by omega, Nat.zero_or, Nat.or_zero]
  · rw [show slot * 262144 % 4294967296 % 4096 = 0 by omega, show barrier * 16384 % 4294967296 % 4096 = 0 by omega,
      show code % 4294967296 % 4096 = code by omega, Nat.zero_or, Nat.zero_or]

/-- BARRIER_MISMATCH (R178). -/
theorem execBarrierMismatch_of {s : State} {k : CoreId} {slot : Fin 32} {id : Fin 16} {b : Blk} {c : Nat}
    (hb : (s.core k.val).block slot.val = some b) (hm : (s.core k.val).mismatch b id.val = true)
    (hctx : s.coreCtx k.val = some c) (hactive : (s.ctx c).st = .active) :
    ∃ t, exec (.barrierMismatch k slot id) s = .next t ∧ (t.ctx c).st = .stopped ∧
      field (t.sq .core k.val 0x804) 22 18 = slot.val ∧ field (t.sq .core k.val 0x804) 17 14 = id.val ∧
      field (t.sq .core k.val 0x804) 11 0 = 1 := by
  have hlaunch : (s.core k.val).launch.isSome = true := by
    obtain ⟨j, hj, -⟩ := Option.bind_eq_some_iff.1 hctx
    rw [hj]
    rfl
  have hexec : exec (.barrierMismatch k slot id) s = .next (s.coreFault k.val slot.val id.val 0x3001) := by
    refine congrArg Host.Outcome.next ((State.orGhost_of_launch hlaunch).trans ?_)
    simp only [hb, hm, if_true]
  obtain ⟨hstopped, o, hfault⟩ := State.coreFault_of_active slot.val id.val 0x3001 hctx hactive
  obtain ⟨hs, hi, hc⟩ := field_coreFault slot.isLt id.isLt (show (0x3001 : BitVec 16).toNat % 4096 < 4096 by decide)
  refine ⟨_, hexec, hstopped, ?_, ?_, ?_⟩
  · rw [hfault, field_latchLast (by decide), hs]
  · rw [hfault, field_latchLast (by decide), hi]
  · rw [hfault, field_latchLast (by decide), hc]
    rfl

end Sys2Proof.Machine

namespace Sys2Proof.Proofs.CoresThreadGroups
open Sys2Proof Sys2Proof.Machine

/-- Settles O27: each arrival is counted before the barrier settles, a mismatch stops the context with CORE.FAULT naming it,
completions leave registers and the slots of groups, and a promotion touches two groups alone. -/
theorem barriersAndControl : Obligations.BarriersAndControl := by
  unfold Obligations.BarriersAndControl
  refine ⟨fun o id s i lf z g x h hsel => ?_, fun o id s i lf z g x h hsel => ?_,
    fun c b id ths park th hb _ _ hth => Core.arrive_spec hb hth,
    fun k slot id s b c hb hm hctx hactive => execBarrierMismatch_of hb hm hctx hactive,
    fun o s i lf z g x h hsel => exec_exit_of_issues h hsel, fun o v d s i lf z g x b h hsel hb => ?_,
    fun k gs s w l h hrun hnext hmay hne hprom => execGroupPromote_of hrun hnext hmay hne hprom⟩
  · obtain ⟨t, hbarrier, hmem, hcore⟩ := State.barrier_of_issues (id := id.val) (park := true) h hsel
    exact ⟨t, congrArg Host.Outcome.next hbarrier, hmem, hcore⟩
  · obtain ⟨t, hbarrier, hmem, hcore⟩ := State.barrier_of_issues (id := id.val) (park := false) h hsel
    exact ⟨t, congrArg Host.Outcome.next hbarrier, hmem, hcore⟩
  · obtain ⟨t, hexec, hmem, hval⟩ := exec_specialValueRead_of_issues (v := v) h hsel hb
    refine ⟨t, hexec, hmem, fun l hl => (hval l hl).trans ?_⟩
    cases v <;> rfl

end Sys2Proof.Proofs.CoresThreadGroups

namespace Sys2Proof.Machine

/-!
## Scratch (R164, R170, R194)
-/

/-! ### Bytes of scratch -/

/-- Little-endian bytes spell their number again. -/
theorem leBytes_leNat (bs : List Byte) : leBytes bs.length (leNat bs) = bs := by
  induction bs with
  | nil => rfl
  | cons b bs ih =>
    have hb : b.toNat < 256 := b.isLt
    have hlow : BitVec.ofNat 8 (b.toNat + 256 * leNat bs) = b := by
      apply BitVec.eq_of_toNat_eq
      rw [BitVec.toNat_ofNat]
      omega
    have hrest : (b.toNat + 256 * leNat bs) / 256 = leNat bs := by omega
    rw [List.length_cons, leNat, leBytes, hlow, hrest, ih]

theorem bytesAt_zero (bs : List Byte) {n : Nat} (h : bs.length = n) : bytesAt bs 0 n = bs := by
  subst h
  simp [bytesAt]

/-- Four bytes, read as a word, spell themselves. -/
theorem leBytes_word (bs : List Byte) (h : bs.length = 4) :
    leBytes 4 (BitVec.ofNat 32 (leAt bs 0 4) : Word).toNat = bs := by
  have hlt : leAt bs 0 4 < 2 ^ 32 := leAt_lt bs 0 4
  rw [BitVec.toNat_ofNat, Nat.mod_eq_of_lt hlt, leAt, bytesAt_zero bs h]
  exact h ▸ leBytes_leNat bs

section
variable (c : Core)

@[simp] theorem Core.length_scrRead (a n : Nat) : (c.scrRead a n).length = n := by simp [Core.scrRead]

theorem Core.scrRead_congr {c d : Core} (h : c.scratch = d.scratch) (a n : Nat) : c.scrRead a n = d.scrRead a n := by
  rw [Core.scrRead, h, Core.scrRead]

/-- Scratch takes bytes as memory does. -/
theorem Core.scratch_scrWrite (a : Nat) (bs : List Byte) : (c.scrWrite a bs).scratch = Memory.write c.scratch a bs := by
  have hfold : ∀ (bs : List Byte) (n : Nat) (m : Tab Byte),
      (bs.zipIdx n).foldl (fun m p => Tab.set 0 m (a + p.2) p.1) m = Memory.write m (a + n) bs := by
    intro bs
    induction bs with
    | nil => exact fun n m => rfl
    | cons b bs ih => exact fun n m => ih (n + 1) _
  exact hfold bs 0 c.scratch

theorem Core.scrRead_scrWrite_same (a : Nat) (bs : List Byte) : (c.scrWrite a bs).scrRead a bs.length = bs := by
  refine List.ext_getElem (by simp) fun i h _ => ?_
  have hi : i < bs.length := by simpa using h
  simp only [Core.scrRead, Core.scratch_scrWrite, List.getElem_map, List.getElem_range]
  exact Memory.get_write_at bs c.scratch a i hi

theorem Core.scrRead_scrWrite_out {a q : Nat} {bs : List Byte} (h : q < a ∨ a + bs.length ≤ q) :
    (c.scrWrite a bs).scrRead q 1 = c.scrRead q 1 := by
  have hbyte : Tab.get 0 (Memory.write c.scratch a bs) q = Tab.get 0 c.scratch q :=
    h.elim (Memory.get_write_below bs c.scratch) (Memory.get_write_above bs c.scratch)
  simpa [Core.scrRead, Core.scratch_scrWrite] using hbyte

end

/-! ### What a scratch instruction does -/

/-- Slots that passes have released change the array alone. -/
theorem Core.released_eq (c : Core) (l : Launch) (now : Nat) : ∃ arr, c.released l now = { c with arr := arr } := by
  refine foldl_keeps (fun d : Core => ∃ arr, d = { c with arr := arr }) _ (fun d e hd => ?_) c.arr.queue c ⟨_, rfl⟩
  obtain ⟨arr, rfl⟩ := hd
  unfold Core.releaseEntry
  split
  · split
    · exact ⟨_, rfl⟩
    · exact ⟨arr, rfl⟩
  · exact ⟨arr, rfl⟩

/-- A core as a scratch instruction finds it: releases that are due are done, and what earlier loads have still to bring
to the destination is lost. -/
def State.scrReady (s : State) (b : Bundle) (i : Issue) (dst : List Nat) : Core :=
  ((s.core b.core.val).released i.l s.now).overwrite i.threads dst

/-- The accesses of a scratch instruction are in range, no slot refuses them, and the port is free (R164, R194). -/
def State.scrGranted (s : State) (b : Bundle) (i : Issue) (region write : Bool) (a n : Nat)
    (as : List (Nat × Nat)) : Prop :=
  let c := (s.core b.core.val).released i.l s.now
  c.scrAccess i.l i.bslot region write (i.threads.map (fun x => (x, c.scrOff x a n))) = .ok as ∧ s.portWins c = false

section
variable (s : State) (b : Bundle) (i : Issue) (dst : List Nat)

theorem State.scrReady_eq : ∃ ops arr, s.scrReady b i dst = { s.core b.core.val with ops := ops, arr := arr } := by
  obtain ⟨arr, hrel⟩ := Core.released_eq (s.core b.core.val) i.l s.now
  obtain ⟨ops, arr', hover⟩ := Core.overwrite_eq ((s.core b.core.val).released i.l s.now) i.threads dst
  exact ⟨ops, arr', by rw [State.scrReady, hover, hrel]⟩

theorem State.regs_scrReady : (s.scrReady b i dst).regs = (s.core b.core.val).regs := by
  obtain ⟨ops, arr, h⟩ := State.scrReady_eq s b i dst
  rw [h]

theorem State.scratch_scrReady : (s.scrReady b i dst).scratch = (s.core b.core.val).scratch := by
  obtain ⟨ops, arr, h⟩ := State.scrReady_eq s b i dst
  rw [h]

theorem State.nextOp_scrReady : (s.scrReady b i dst).nextOp = (s.core b.core.val).nextOp := by
  obtain ⟨ops, arr, h⟩ := State.scrReady_eq s b i dst
  rw [h]

theorem State.reg_scrReady (x r : Nat) : (s.scrReady b i dst).reg x r = (s.core b.core.val).reg x r := by
  rw [Core.reg, State.regs_scrReady, Core.reg]

theorem State.scrRead_scrReady (p n : Nat) : (s.scrReady b i dst).scrRead p n = (s.core b.core.val).scrRead p n :=
  Core.scrRead_congr (State.scratch_scrReady s b i dst) p n

end

/-- One thread's step of a scratch instruction, in the core and the values so far. -/
def scrStep (f : Core → Nat → Nat → Core × Option (Nat × Nat × Word)) (q : Core × List (Nat × Nat × Word))
    (p : Nat × Nat) : Core × List (Nat × Nat × Word) := ((f q.1 p.1 p.2).1, q.2 ++ (f q.1 p.1 p.2).2.toList)

/-- The values a scratch instruction returns, if any, wait as one operation. -/
def Core.withResult (d : Core) (i : Issue) (vals : List (Nat × Nat × Word)) : Core :=
  if vals = [] then d else d.pushOps i.bslot [(i.threads, .result vals)]

@[simp] theorem Core.withResult_regs (d : Core) (i : Issue) (vals : List (Nat × Nat × Word)) :
    (d.withResult i vals).regs = d.regs := by
  unfold Core.withResult
  split <;> rfl

@[simp] theorem Core.withResult_scratch (d : Core) (i : Issue) (vals : List (Nat × Nat × Word)) :
    (d.withResult i vals).scratch = d.scratch := by
  unfold Core.withResult
  split <;> rfl

theorem Core.withResult_ops (d : Core) (i : Issue) {vals : List (Nat × Nat × Word)} (h : vals ≠ []) :
    (d.withResult i vals).ops =
      d.ops ++ [{ id := d.nextOp, ins := d.nextOp, bslot := i.bslot, thr := i.threads, kind := .result vals }] := by
  rw [Core.withResult, if_neg h]
  rfl

theorem State.lsuDone_core (v : State) (b : Bundle) (i : Issue) (n : Nat) :
    ((v.lsuDone b i n).core b.core.val).regs = (v.core b.core.val).regs ∧
      ((v.lsuDone b i n).core b.core.val).scratch = (v.core b.core.val).scratch ∧
      ((v.lsuDone b i n).core b.core.val).ops = (v.core b.core.val).ops := by
  obtain ⟨gs, h⟩ := State.bundleDone_core v b i onLsu n 0 [] id
  rw [State.lsuDone, h, State.claimed, Core.overwrite_nil]
  exact ⟨rfl, rfl, rfl⟩

section
variable {s u : State} {b : Bundle} {i : Issue} {region write : Bool} {dst src : List Nat} {kind : IssueKind}
  {lf : Leaf} {z a n : Nat} {extra : List Nat → Nat} {f : Core → Nat → Nat → Core × Option (Nat × Nat × Word)}
  {as : List (Nat × Nat)}

/-- What a scratch instruction leaves whose accesses are all in range and find the port free. -/
theorem State.scrInstr_ok (hbench : u.bench = s.bench) (hok : s.scrGranted b i region write a n as) :
    let q := as.foldl (scrStep f) (s.scrReady b i dst, [])
    let t := u.scrInstr b i region write dst a n extra f
    t.mem = s.mem ∧ (t.core b.core.val).regs = q.1.regs ∧ (t.core b.core.val).scratch = q.1.scratch ∧
      (t.core b.core.val).ops = (q.1.withResult i q.2).ops := by
  intro q t
  obtain ⟨hacc, hport⟩ := hok
  have hwins : u.portWins ((s.core b.core.val).released i.l s.now) = false := by
    rw [State.portWins, State.now_of_bench hbench, State.freeWord_of_bench hbench]
    exact hport
  obtain ⟨m, ht⟩ : ∃ m, t = ((u.useFree 1).setCore b.core.val (q.1.withResult i q.2)).lsuDone b i m := by
    simp only [t, State.scrInstr, State.core_of_bench hbench, State.now_of_bench hbench, hacc, hwins]
    exact ⟨_, rfl⟩
  obtain ⟨hregs, hscr, hops⟩ := State.lsuDone_core ((u.useFree 1).setCore b.core.val (q.1.withResult i q.2)) b i m
  rw [State.core_setCore_same] at hregs hscr hops
  rw [ht]
  refine ⟨?_, hregs.trans (Core.withResult_regs ..), hscr.trans (Core.withResult_scratch ..), hops⟩
  rw [State.lsuDone, State.bundleDone_mem, State.setCore_mem]
  exact (State.useFree_mem u 1).trans (State.mem_of_bench hbench)

/-- A scratch instruction of one access that issues: the core is as its step leaves it, and what the step returns waits. -/
theorem exec_one_of_issues {ins : Instr} {x p : Nat} {d : Core} {o : Option (Nat × Nat × Word)}
    (h : s.issues b dst src kind i lf z) (hexec : exec ins s = .next (s.issue b dst src kind (fun v t =>
      t.scrInstr b v region write dst a n extra f)))
    (hok : s.scrGranted b i region write a n [(x, p)]) (hf : f (s.scrReady b i dst) x p = (d, o)) :
    ∃ t, exec ins s = .next t ∧ t.mem = s.mem ∧ (t.core b.core.val).regs = d.regs ∧
      (∀ q m, (t.core b.core.val).scrRead q m = d.scrRead q m) ∧
      ∀ v, o = some v → ((t.core b.core.val).ops.map (·.kind)).getLast? = some (.result [v]) := by
  obtain ⟨u, hbench, hnext⟩ := exec_of_issues h hexec
  have hfold : [(x, p)].foldl (scrStep f) (s.scrReady b i dst, []) = (d, o.toList) := by
    simp [scrStep, hf]
  obtain ⟨hmem, hregs, hscr, hops⟩ := State.scrInstr_ok (extra := extra) (f := f) (dst := dst) hbench hok
  rw [hfold] at hregs hscr hops
  refine ⟨_, hnext, hmem, hregs, fun q m => Core.scrRead_congr hscr q m, ?_⟩
  rintro v rfl
  rw [hops.trans (Core.withResult_ops d i (List.cons_ne_nil v []))]
  simp

/-- A scratch instruction of one access that writes bytes there. -/
theorem exec_writes_of_issues {ins : Instr} {x p m : Nat} {bs : List Byte} {o : Option (Nat × Nat × Word)}
    (h : s.issues b dst src kind i lf z) (hexec : exec ins s = .next (s.issue b dst src kind (fun v t =>
      t.scrInstr b v region write dst a n extra f)))
    (hok : s.scrGranted b i region write a n [(x, p)])
    (hf : f (s.scrReady b i dst) x p = ((s.scrReady b i dst).scrWrite p bs, o)) (hlen : bs.length = m) :
    ∃ t, exec ins s = .next t ∧ t.mem = s.mem ∧
      (∀ q, q < p ∨ p + m ≤ q → (t.core b.core.val).scrRead q 1 = (s.core b.core.val).scrRead q 1) ∧
      (t.core b.core.val).regs = (s.core b.core.val).regs ∧ (t.core b.core.val).scrRead p m = bs ∧
      ∀ v, o = some v → ((t.core b.core.val).ops.map (·.kind)).getLast? = some (.result [v]) := by
  subst hlen
  obtain ⟨t, hnext, hmem, hregs, hscr, hops⟩ := exec_one_of_issues h hexec hok hf
  refine ⟨t, hnext, hmem, fun q hq => ?_, hregs.trans (State.regs_scrReady s b i dst), ?_, hops⟩
  · rw [hscr, Core.scrRead_scrWrite_out _ hq, State.scrRead_scrReady]
  · rw [hscr, Core.scrRead_scrWrite_same]

end

/-! ### The instructions -/

/-- What a load takes from scratch for one thread. -/
def loadStep (size : MemSize) (sext : Bool) (d : Nat) (c : Core) (x p : Nat) : Core × Option (Nat × Nat × Word) :=
  (c, some (d, x, loadWord size sext (c.scrRead p 4)))

/-- What a store puts in scratch for one thread. -/
def storeStep (size : MemSize) (v : Nat) (c : Core) (x p : Nat) : Core × Option (Nat × Nat × Word) :=
  (c.scrWrite p (leBytes (MemSize.bytes size) (c.reg x v).toNat), none)

section
variable {s : State} {b : Bundle} {i : Issue} {lf : Leaf} {z : Nat} {size : MemSize} {sext : Bool} {v d a : VReg}

theorem exec_load_scratch (rg : Bool) : exec (.load b (if rg then .region else .scratch) size sext d a) s =
    .next (s.issue b [d.val] [a.val] .memory (fun u t =>
      t.scrInstr b u rg false [d.val] a.val (MemSize.bytes size) (fun _ => 0) (loadStep size sext d.val))) := by
  cases rg with
  | false => rfl
  | true => rfl

theorem exec_store_scratch (rg : Bool) : exec (.store b (if rg then .region else .scratch) size v a) s =
    .next (s.issue b [] [v.val, a.val] .memory (fun u t =>
      t.scrInstr b u rg true [] a.val (MemSize.bytes size) (fun _ => 0) (storeStep size v.val))) := by
  cases rg with
  | false => rfl
  | true => rfl

/-- A load's threads return one value each, and change nothing of the core. -/
theorem foldl_scrStep_load (r : Nat) (c : Core) (as : List (Nat × Nat)) (vals : List (Nat × Nat × Word)) :
    as.foldl (scrStep (loadStep size sext r)) (c, vals) =
      (c, vals ++ as.map (fun p => (r, p.1, loadWord size sext (c.scrRead p.2 4)))) := by
  induction as generalizing vals with
  | nil => rw [List.foldl_nil, List.map_nil, List.append_nil]
  | cons p as ih =>
    rw [List.foldl_cons, scrStep, loadStep, Option.toList_some, ih, List.append_assoc, List.map_cons,
      List.singleton_append]

/-- LOAD from scratch: the values wait as one operation. -/
theorem exec_load_of_issues {rg : Bool} {as : List (Nat × Nat)} (h : s.issues b [d.val] [a.val] .memory i lf z)
    (hne : as ≠ []) (hok : s.scrGranted b i rg false a.val (MemSize.bytes size) as) :
    ∃ t, exec (.load b (if rg then .region else .scratch) size sext d a) s = .next t ∧
      (t.core b.core.val).ops = (s.scrReady b i [d.val]).ops ++ [{
        id := (s.core b.core.val).nextOp, ins := (s.core b.core.val).nextOp, bslot := i.bslot, thr := i.threads
        kind := .result (as.map (fun p =>
          (d.val, p.1, loadWord size sext ((s.core b.core.val).scrRead p.2 4)))) }] ∧
      (t.core b.core.val).scratch = (s.core b.core.val).scratch ∧ t.mem = s.mem := by
  obtain ⟨u, hbench, hexec⟩ := exec_of_issues h (exec_load_scratch (size := size) (sext := sext) rg)
  obtain ⟨hmem, -, hscr, hops⟩ := State.scrInstr_ok (extra := fun _ => 0) (f := loadStep size sext d.val)
    (dst := [d.val]) hbench hok
  rw [foldl_scrStep_load] at hscr hops
  refine ⟨_, hexec, ?_, hscr.trans (State.scratch_scrReady ..), hmem⟩
  rw [hops, List.nil_append, Core.withResult_ops _ _ (by simpa using hne), State.nextOp_scrReady]
  simp only [State.scrRead_scrReady]

/-- LOAD_RETURN of one value. -/
theorem execLoadReturn_of {k : CoreId} {id d x : Nat} {o : MemOp} {v : Word}
    (hfind : (s.core k.val).ops.find? (·.id = id) = some o) (hkind : o.kind = .result [(d, x, v)]) :
    execLoadReturn k id s = .next (s.setCore k.val (((s.core k.val).setReg x d v).dropOp id)) := by
  simp only [execLoadReturn, hfind, hkind, List.foldl_cons, List.foldl_nil]

end

end Sys2Proof.Machine

namespace Sys2Proof.Proofs.CoresThreadGroups
open Sys2Proof Sys2Proof.Machine

/-- Settles O28: each access of an instruction acts on the core that its bundle has made ready, and what returns waits as
an operation until LOAD_RETURN. -/
theorem scratchAccesses : Obligations.ScratchAccesses := by
  refine ⟨fun b size sext d a s i lf z rg as h hne hacc hport => exec_load_of_issues h hne ⟨hacc, hport⟩,
    fun k id s o d x v hfind hkind hd => ⟨_, execLoadReturn_of hfind hkind, ?_⟩,
    fun b size v a s i lf z x p rg h hacc hport => ?_,
    fun b sp d a cmp new s i lf z x p h hacc hport => ?_,
    fun b sp d a v s i lf z x p h hacc hport => ?_,
    fun b sp ty a v s i lf z x p h hacc hport => ?_⟩
  · rw [State.core_setCore_same]
    refine ⟨Core.reg_setReg_same .., fun y r hr hne => Core.reg_setReg_ne _ _ hd hr hne, fun q hq => ?_,
      State.setCore_mem ..⟩
    simpa using (List.mem_filter.1 hq).2
  · obtain ⟨t, hnext, hmem, hout, -, hin, -⟩ := exec_writes_of_issues h (exec_store_scratch rg) ⟨hacc, hport⟩ rfl
      (length_leBytes _ _)
    rw [State.reg_scrReady] at hin
    exact ⟨t, hnext, hin, hout, hmem⟩
  · intro old
    have hold : BitVec.ofNat 32 (leAt ((s.scrReady b i [d.val]).scrRead p 4) 0 4) = old := by
      rw [State.scrRead_scrReady]
    have hcmp : ∀ r, (s.scrReady b i [d.val]).reg x r = (s.core b.core.val).reg x r :=
      State.reg_scrReady s b i [d.val] x
    by_cases heq : old = (s.core b.core.val).reg x cmp.val
    · obtain ⟨t, hnext, hmem, hout, hregs, hin, hops⟩ := exec_writes_of_issues (ins := .scrCas b sp d a cmp new)
        (bs := leBytes 4 ((s.core b.core.val).reg x new.val).toNat) (o := some (d.val, x, old)) h rfl ⟨hacc, hport⟩
        (by simp only [hold, hcmp, heq, if_true]) (length_leBytes _ _)
      rw [if_pos heq]
      exact ⟨t, hnext, hmem, hout, hregs, hin, hops _ rfl⟩
    · obtain ⟨t, hnext, hmem, hregs, hscr, hops⟩ := exec_one_of_issues (ins := .scrCas b sp d a cmp new)
        (d := s.scrReady b i [d.val]) (o := some (d.val, x, old)) h rfl ⟨hacc, hport⟩
        (by simp only [hold, hcmp, heq, if_false])
      have hread : ∀ q m, (t.core b.core.val).scrRead q m = (s.core b.core.val).scrRead q m := fun q m =>
        (hscr q m).trans (State.scrRead_scrReady s b i _ q m)
      rw [if_neg heq]
      exact ⟨t, hnext, hmem, fun q _ => hread q 1, hregs.trans (State.regs_scrReady ..),
        (hread p 4).trans (leBytes_word _ (Core.length_scrRead _ p 4)).symm, hops _ rfl⟩
  · obtain ⟨t, hnext, hmem, hout, hregs, hin, hops⟩ := exec_writes_of_issues (ins := .scrExch b sp d a v) h rfl
      ⟨hacc, hport⟩ rfl (length_leBytes _ _)
    rw [State.reg_scrReady] at hin
    rw [← State.scrRead_scrReady s b i [d.val]]
    exact ⟨t, hnext, hmem, hout, hregs, hin, hops _ rfl⟩
  · obtain ⟨t, hnext, hmem, hout, hregs, hin, -⟩ := exec_writes_of_issues (ins := .scrAdd b sp ty a v) h rfl
      ⟨hacc, hport⟩ rfl (length_leBytes _ _)
    rw [State.reg_scrReady, State.scrRead_scrReady] at hin
    exact ⟨t, hnext, hmem, hout, hregs, hin⟩

end Sys2Proof.Proofs.CoresThreadGroups

namespace Sys2Proof.Machine

/-!
## What no fault of a context changes (R68, R71, R152, R517)

The array reads configuration registers, the clock and the governor's level; a page that is in hold takes no instruction.
Memory traffic, the walks of page tables and the end of a context's work change none of these: `f_setup` says so of an
operation `f`.
-/

/-- What the issue of an instruction reads of the module beside its core and its work. -/
structure Setup where
  now : Nat
  govLevel : Nat
  cfg : Tab Word
  found : Tab Bool

/-- What a state shows of it. -/
def State.setup (s : State) : Setup :=
  { now := s.now, govLevel := s.govLevel, cfg := s.regs.cfg, found := s.regs.found }

section
variable {s t : State}

theorem State.now_of_setup (h : t.setup = s.setup) : t.now = s.now := congrArg Setup.now h

theorem State.govLevel_of_setup (h : t.setup = s.setup) : t.govLevel = s.govLevel := congrArg Setup.govLevel h

theorem State.cfg_of_setup (h : t.setup = s.setup) (b : Block) (i off : Nat) : t.cfg b i off = s.cfg b i off := by
  have hcfg : t.regs.cfg = s.regs.cfg := congrArg Setup.cfg h
  rw [State.cfg, hcfg, State.cfg]

theorem State.inHold_of_setup (h : t.setup = s.setup) (b : Block) (i : Nat) : t.inHold b i = s.inHold b i := by
  have hfound : t.regs.found = s.regs.found := congrArg Setup.found h
  rw [State.inHold, State.pageHold, hfound, State.inHold, State.pageHold]

/-- A fold of operations that each leave the setup leaves it. -/
theorem foldl_setup {α : Type} {f : State → α → State} (h : ∀ s a, (f s a).setup = s.setup) (l : List α) (s : State) :
    (l.foldl f s).setup = s.setup :=
  foldl_keeps (fun t : State => t.setup = s.setup) f (fun t a ht => (h t a).trans ht) l s rfl

theorem State.setup_ite {c : Prop} [Decidable c] {a b : State} (ha : a.setup = s.setup) (hb : b.setup = s.setup) :
    (if c then a else b).setup = s.setup := by
  split
  · exact ha
  · exact hb

end

section
variable (s : State)

@[simp] theorem State.setCore_setup (k : Nat) (v : Core) : (s.setCore k v).setup = s.setup := rfl

@[simp] theorem State.addCount_setup (b : Block) (i off n : Nat) : (s.addCount b i off n).setup = s.setup := rfl

@[simp] theorem State.latch_setup (b : Block) (i off : Nat) (f : Word → Word) : (s.latch b i off f).setup = s.setup := rfl

theorem State.withHbm_setup (h : HbmState) : ({ s with hbm := h } : State).setup = s.setup := rfl

theorem State.withSlowUncorr_setup (u : Tab Nat) : ({ s with slowUncorr := u } : State).setup = s.setup := rfl

theorem State.sendMsix_setup (f v : Nat) (why : Option Nat) : (s.sendMsix f v why).setup = s.setup := by
  obtain ⟨p, o, h⟩ := State.sendMsix_eq s f v why
  rw [h]
  rfl

@[simp] theorem State.raise_setup (b : Block) (i : Nat) (code : BitVec 16) : (s.raise b i code).setup = s.setup := by
  obtain ⟨p, o, h⟩ := State.raise_eq s b i code
  rw [h]
  rfl

/-! ### Reads and writes of a stack -/

theorem State.correction_setup (a : Nat) : (s.correction a).setup = s.setup := by
  simp only [State.correction]
  exact State.setup_ite (State.raise_setup _ _ _ _) rfl

theorem State.reportUncorr_setup (a : Nat) : (s.reportUncorr a).setup = s.setup := by
  simp only [State.reportUncorr]
  split
  · exact (State.withHbm_setup _ _).trans (by simp)
  · exact (State.withSlowUncorr_setup _ _).trans (by simp)

theorem State.burst_setup (line : Nat) (m : BitVec 4) (w : Bool) : (s.burst line m w).setup = s.setup := by
  simp only [State.burst]
  split <;> rfl

theorem State.readSector_setup (n : Nat) : (s.readSector n).setup = s.setup := by
  have hfix : ((s.setUpset n 0).correction (32 * n)).setup = s.setup := State.correction_setup _ _
  simp only [State.readSector]
  exact State.setup_ite (State.reportUncorr_setup s _)
    (State.setup_ite rfl (State.setup_ite ((State.burst_setup _ _ _ _).trans hfix) hfix))

@[simp] theorem State.hbmFetch_setup (line : Nat) (m : BitVec 4) : (s.hbmFetch line m).setup = s.setup := by
  simp only [State.hbmFetch]
  refine State.setup_ite rfl ((foldl_setup (fun t i => ?_) _ _).trans (State.burst_setup s line m false))
  exact State.setup_ite (State.readSector_setup t _) rfl

@[simp] theorem State.hbmPut_setup (line : Nat) (m : BitVec 4) (d : List Byte) (g : Bool) :
    (s.hbmPut line m d g).setup = s.setup := by
  have hwrite : (s.hbmWrite line m d).setup = s.setup := by
    refine foldl_setup (fun t i => ?_) _ s
    split <;> rfl
  simp only [State.hbmPut]
  exact State.setup_ite rfl hwrite

theorem State.hbmAsk_setup (line : Nat) (m : BitVec 4) (g : Bool) : (s.hbmAsk line m g).setup = s.setup := by
  simp only [State.hbmAsk]
  split <;> rfl

/-! ### Page tables (R149, R150) -/

theorem State.deadRead_setup (line : Nat) (fault : Bool) : (s.deadRead line fault).setup = s.setup := by
  simp only [State.deadRead]
  exact State.setup_ite (State.raise_setup _ _ _ _) rfl

theorem State.readTable_setup (ea : Nat) : (s.readTable ea).setup = s.setup := by
  have hdead : (s.noteFault ea 8 0x300B).setup = s.setup :=
    foldl_setup (fun t l => State.setup_ite (State.deadRead_setup t _ _) rfl) _ s
  exact State.setup_ite hdead (State.setup_ite rfl (State.hbmFetch_setup s _ _))

theorem State.holdTlb_setup (c va : Nat) (l : Leaf) : (s.holdTlb c va l).setup = s.setup := by
  have hwalk : (s.walkReads c va).setup = s.setup := by
    simp only [State.walkReads]
    split
    · rfl
    · exact foldl_setup State.readTable_setup _ s
  exact hwalk

/-! ### A write at a home slice -/

theorem recallOne_setup (q : State × LLine) (k : Nat) : (recallOne q k).1.setup = q.1.setup := by
  simp only [recallOne]
  split
  · rfl
  · split
    · rfl
    · rfl
    · rfl
    · split <;> rfl

@[simp] theorem State.recall_setup (l : LLine) : (s.recall l).1.setup = s.setup :=
  foldl_keeps (fun q : State × LLine => q.1.setup = s.setup) recallOne (fun q k hq => (recallOne_setup q k).trans hq) _ _
    rfl

@[simp] theorem State.resolve_setup (l : LLine) : (s.resolve l).1.setup = s.setup :=
  (State.hbmFetch_setup _ _ _).trans (State.recall_setup s l)

theorem State.evict_setup (l : LLine) : (s.evict l).setup = s.setup := by
  unfold State.evict
  by_cases hr : l.st = .red
  · simp only [hr, if_true]
    exact State.setup_ite ((State.hbmPut_setup _ _ _ _ _).trans (State.resolve_setup s l)) (State.resolve_setup s l)
  · simp only [hr, if_false]
    exact State.setup_ite ((State.hbmPut_setup _ _ _ _ _).trans (State.recall_setup s l)) (State.recall_setup s l)

theorem State.takeWay_setup {free : Nat → Bool} {line w : Nat} {t : State} (e : s.takeWay free line = some (t, w)) :
    t.setup = s.setup := by
  simp only [State.takeWay] at e
  split at e
  · cases e
  · split at e
    · cases e; rfl
    · cases e; rfl
    · split at e
      · cases e
      · split at e
        · cases e; exact State.evict_setup s _
        · cases e

theorem State.awrValue_setup (who : Agent × Option Nat) (l : LLine) (bs : List (Nat × Byte)) :
    (s.awrValue who l bs).setup = s.setup := by
  simp only [State.awrValue]
  split
  · exact State.hbmFetch_setup s _ _
  · exact State.hbmAsk_setup _ _ _ _

theorem State.awrLater_setup (who : Agent × Option Nat) (line : Nat) (bs : List (Nat × Byte)) :
    (s.awrLater who line bs).setup = s.setup := by
  simp only [State.awrLater]
  refine State.setup_ite rfl ?_
  split
  · rfl
  · refine State.setup_ite rfl (State.setup_ite rfl (State.setup_ite (State.awrValue_setup s _ _ _)
      (State.setup_ite (State.awrValue_setup s _ _ _) ?_)))
    refine Eq.trans (b := State.setup (List.foldl _ s _)) rfl (foldl_setup (fun t k => ?_) _ s)
    rfl

theorem State.awrLine_setup (who : Agent × Option Nat) (line : Nat) (bs : List (Nat × Byte)) :
    (s.awrLine who line bs).setup = s.setup := by
  simp only [State.awrLine]
  refine State.setup_ite (State.awrLater_setup s _ _ _) ?_
  split
  · split
    · exact State.awrLater_setup s _ _ _
    next e => exact (State.awrValue_setup _ _ _ _).trans (State.takeWay_setup s e)
  next l _ =>
    split
    · exact (State.awrValue_setup _ _ _ _).trans (State.recall_setup s l)
    · exact (State.awrValue_setup _ _ _ _).trans (State.recall_setup s l)
    · exact (State.awrValue_setup _ _ _ _).trans (State.recall_setup s l)
    · exact (State.awrValue_setup _ _ _ _).trans (State.resolve_setup s l)
    · exact State.awrValue_setup s _ _ _
    · exact State.awrLater_setup s _ _ _

/-! ### The end of a context's work (R96, R147, R152) -/

theorem State.ringWrite_setup (c slot off : Nat) (bs : List Byte) : (s.ringWrite c slot off bs).setup = s.setup := by
  have hslow : ∀ a, (s.slowWrite a bs).setup = s.setup := fun a => by
    refine foldl_setup (fun t k => ?_) _ (s.memWrite a bs)
    rfl
  have hcoh : ∀ (who : Agent × Option Nat) (a : Nat), (s.cohWrite who a bs).setup = s.setup := fun who a =>
    State.setup_ite (hslow a) (foldl_setup (fun t x => State.awrLine_setup t _ _ _) _ s)
  exact State.setup_ite rfl (hcoh _ _)

theorem State.writeEnd_setup (c slot : Nat) (status : Byte) (irq : Bool) :
    (s.writeEnd c slot status irq).setup = s.setup := by
  have hring := State.ringWrite_setup s c slot 49 [status]
  exact State.setup_ite ((State.sendMsix_setup _ _ _ _).trans hring) hring

theorem State.dropEntries_setup (job : Nat) : (s.dropEntries job).setup = s.setup := by
  refine foldl_setup (fun t d => ?_) _ s
  dsimp only
  split <;> rfl

theorem State.stopWork_setup (w : Work) : (s.stopWork w).setup = s.setup := by
  unfold State.stopWork
  split
  · refine (State.dropEntries_setup _ _).trans ((foldl_setup (fun t k => State.setup_ite ?_ rfl) _ _).trans ?_)
    · refine (State.setCore_setup _ _ _).trans (foldl_setup (fun u e => ?_) _ t)
      rfl
    · exact State.setup_ite rfl (State.setup_ite rfl rfl)
  · exact State.dropEntries_setup s w.id
  · rfl
  · rfl
  · rfl

theorem State.narogEnded_setup (w : Work) (j : NarogJob) : (s.narogEnded w j).setup = s.setup := by
  have hkite : ∀ t : State, (t.kUncommitted w.part j.sg j).setup = t.setup := fun t => by
    simp only [State.kUncommitted, State.kAbandon]
    refine State.setup_ite ?_ rfl
    split <;> rfl
  exact State.setup_ite ((hkite _).trans (State.raise_setup _ _ _ _)) rfl

theorem State.endWork_setup (w : Work) (status : Byte) : (s.endWork w status).setup = s.setup := by
  unfold State.endWork
  extract_lets t
  have ht : t.setup = s.setup := by
    simp only [t]
    split
    · exact State.narogEnded_setup _ _ _
    all_goals rfl
  split
  · exact ht
  next c _ =>
    extract_lets v u
    have hv : v.setup = t.setup := by
      simp only [v]
      split
      · exact State.ringWrite_setup _ _ _ _ _
      all_goals rfl
    have hu : u.setup = s.setup := (State.writeEnd_setup _ _ _ _ _).trans (hv.trans ht)
    exact State.setup_ite hu hu

theorem State.stopCtxWork_setup (c : Nat) (runStatus : Byte) : (s.stopCtxWork c runStatus).setup = s.setup :=
  foldl_setup (fun t w => State.setup_ite ((State.endWork_setup _ _ _).trans (State.stopWork_setup t w))
    (State.endWork_setup t w _)) _ s

theorem State.setCtx_setup (c : Nat) (v : Ctx) : (s.setCtx c v).setup = s.setup := rfl

theorem State.noteFallen_setup (c : Nat) : (s.noteFallen c).setup = s.setup := rfl

theorem State.ctxFault_setup (c : Nat) (code : BitVec 16) : (s.ctxFault c code).setup = s.setup := by
  have hreport : (s.reportCtxFault c code).setup = s.setup := by
    rw [State.reportCtxFault, State.raise_setup, State.latch_setup]
  cases hst : (s.ctx c).st with
  | active =>
    rw [State.ctxFault_of_active hst, State.stopCtxWork_setup, State.noteFallen_setup, State.setCtx_setup, hreport]
  | destroying => rw [State.ctxFault_of_destroying hst, State.stopCtxWork_setup, State.noteFallen_setup, hreport]
  | stopped => simp only [State.ctxFault, hst]
  | free => simp only [State.ctxFault, hst]
  | clearing => simp only [State.ctxFault, hst]

@[simp] theorem State.coreFault_setup (k bslot barrier : Nat) (code : BitVec 16) :
    (s.coreFault k bslot barrier code).setup = s.setup := by
  simp only [State.coreFault]
  split
  · rw [State.ctxFault_setup, State.latchLast, State.latch_setup]
  · rfl

/-! ### What becomes due in an array (R215, R218, R281, R288) -/

theorem State.doChk_setup (k pid : Nat) : (s.doChk k pid).setup = s.setup := by
  have hevent : ∀ t : State, (t.mispredictEvent k).setup = t.setup := fun t => by
    simp only [State.mispredictEvent]
    split
    · rw [State.raise_setup, State.latch_setup, State.setCore_setup]
    · rfl
  simp only [State.doChk]
  split
  · rfl
  · split
    · rfl
    · rw [hevent, State.addCount_setup, State.addCount_setup, State.addCount_setup, State.setCore_setup]
      rfl

theorem State.takeEffect_setup (k : Nat) (l : Launch) (e : ArrEntry) : (s.takeEffect k l e).setup = s.setup := by
  simp only [State.takeEffect]
  split
  case h_7 => exact State.doChk_setup _ _ _
  all_goals rfl

theorem State.cmpFault_setup (k : Nat) (e : ArrEntry) : (s.cmpFault k e).setup = s.setup := by
  simp only [State.cmpFault]
  split
  · exact State.coreFault_setup _ _ _ _ _
  · rfl

theorem State.arrStep_setup {k : Nat} {l : Launch} {t : State} (h : s.arrStep k l = some t) : t.setup = s.setup := by
  simp only [State.arrStep] at h
  split at h
  · cases h
    exact State.cmpFault_setup s _ _
  · split at h
    · cases h
      exact State.takeEffect_setup s _ _ _
    · obtain ⟨p, -, rfl⟩ := Option.map_eq_some_iff.1 h
      rfl

theorem State.arrPump_setup (n k : Nat) (l : Launch) : (State.arrPump n s k l).setup = s.setup := by
  induction n generalizing s with
  | zero => rfl
  | succ n ih =>
    simp only [State.arrPump]
    split
    · rfl
    next t h => exact (ih t).trans (State.arrStep_setup s h)

@[simp] theorem State.arrSettle_setup (k : Nat) : (s.arrSettle k).setup = s.setup := by
  simp only [State.arrSettle]
  split
  · rfl
  · exact State.arrPump_setup _ _ _ _

end

end Sys2Proof.Machine

namespace Sys2Proof.Machine

/-!
## What an array or sparsity instruction does that issues (R202, R215, R216, R224, R285)
-/

section
variable {s : State} {b : Bundle} {i : Issue} {dst src : List Nat} {kind : IssueKind} {lf : Leaf} {z : Nat}

/-- A bundle that issues takes effect in the state whose translation of the fetch is held. -/
theorem State.issue_eq_of_issues (h : s.issues b dst src kind i lf z) (f : Issue → State → State) :
    s.issue b dst src kind f = f i (s.holdTlb i.ctx b.pc.toNat lf) := by
  obtain ⟨⟨hb, hx, hr, hp, hport, hrank, hmem⟩, hmark⟩ := h
  have hpower := State.power_of_bench (State.holdTlb_bench s i.ctx b.pc.toNat lf)
  have hdoubt := State.doubt_of_unmarked (s := s.holdTlb i.ctx b.pc.toNat lf) (k := b.core.val) (ts := i.threads)
    (src := src) (by rw [hpower]; exact hmark)
  rw [State.issue_of_bundleOf hb]
  simp only [Bool.and_eq_false_iff, Bool.or_eq_false_iff, decide_eq_false_iff_not] at hmem
  simp only [State.issueNow, hb, hx, hr, hp, hport, hrank]
  rcases hmem with hk | ⟨hfence, hfull⟩
  · simp [hk, hdoubt]
  · simp [hfence, hfull, hdoubt]

end

theorem Core.nextId_overwrite (c : Core) (ts dst : List Nat) : (c.overwrite ts dst).arr.nextId = c.arr.nextId := by
  unfold Core.overwrite
  split <;> rfl

section
variable {s : State} {o : One} {dst src : List Nat} {kind : IssueKind} {off : Bool} {i : Issue} {lf : Leaf} {z : Nat}

/-- An instruction joins the queue of the settled array, in a state that only its fetch has changed. -/
theorem State.queues_enqueue {t : State} {a : ArrAct} {rs : BitVec 14} {engine : BitVec 5}
    (ht : t.bench = (s.arrSettle o.core.val).bench) :
    s.queues ((t.bundleDone (oneBundle o) i engine 1 0 dst (fun d => d.enqueue i.bslot t.now a rs)).arrSettle o.core.val)
      o i dst a rs := by
  set u := t.bundleDone (oneBundle o) i engine 1 0 dst (fun d => d.enqueue i.bslot t.now a rs) with hu
  obtain ⟨gs, hcore⟩ := State.bundleDone_core t (oneBundle o) i engine 1 0 dst (fun d => d.enqueue i.bslot t.now a rs)
  have hk : t.core o.core.val = (s.arrSettle o.core.val).core o.core.val := State.core_of_bench ht _
  have hnow : t.now = (s.arrSettle o.core.val).now := State.now_of_bench ht
  obtain ⟨ops, arr, hover⟩ := Core.overwrite_eq ((s.arrSettle o.core.val).core o.core.val) i.threads dst
  rw [State.claimed, ← hu] at hcore
  simp only [oneBundle, hk, hnow] at hcore
  refine ⟨u, rfl, ?_, ?_, ?_, ?_, fun j hj => ?_, ?_, ?_, hnow⟩
  · rw [hcore]
    simp only [Core.accept, Core.enqueue, Core.delay, queuedAt, Core.nextId_overwrite]
  · rw [hcore]
    exact (congrArg Core.sp hover :)
  · rw [hcore]
    exact (congrArg Core.regs hover :)
  · rw [hcore]
    exact (congrArg Core.scratch hover :)
  · exact (State.core_bundleDone_ne _ _ _ _ _ _ _ _ hj).trans (State.core_of_bench ht j)
  · exact (State.bundleDone_works ..).trans (State.works_of_bench ht)
  · exact (State.bundleDone_mem ..).trans (State.mem_of_bench ht)

/-- An instruction that passes its checks joins the queue. -/
theorem State.arrIssue_queues {a : ArrAct} {rs : BitVec 14} {try_ : ArrTry} {chk : Issue → Core → ArrChk}
    (h : s.arrIssues o dst src kind off i lf z) (hchk : chk i ((s.arrSettle o.core.val).core o.core.val) = .ok a rs) :
    s.queues (s.arrIssue o kind dst src off try_ chk) o i dst a rs := by
  obtain ⟨hissues, hhold, hoff, hroom⟩ := h
  have hbench := State.holdTlb_bench (s.arrSettle o.core.val) i.ctx (oneBundle o).pc.toNat lf
  have hsetup := State.holdTlb_setup (s.arrSettle o.core.val) i.ctx (oneBundle o).pc.toNat lf
  simp only [State.arrIssue, State.issue_eq_of_issues hissues, State.inHold_of_setup hsetup, State.cfg_of_setup hsetup,
    State.core_of_bench hbench, hhold, hoff, hchk, if_neg (Nat.not_le.2 hroom), Bool.false_eq_true, if_false]
  exact State.queues_enqueue hbench

/-- The same of one whose operands decide its checks, which read the state as the array has left it. -/
theorem State.tryIssue_queues {a : ArrAct} {rs : BitVec 14} {try_ : ArrTry} (h : s.arrIssues o [] [] kind off i lf z)
    (hchk : let p := s.arrSettle o.core.val
      try_.check (p.core o.core.val) i.l (bit (p.cfg .array o.core.val 0x100) 1) p.now p.govLevel = .ok a rs) :
    s.queues (s.tryIssue o kind off try_) o i [] a rs := by
  have hsetup := State.arrSettle_setup s o.core.val
  refine State.arrIssue_queues h ?_
  rw [← State.cfg_of_setup hsetup, ← State.now_of_setup hsetup, ← State.govLevel_of_setup hsetup]
  exact hchk

end

end Sys2Proof.Machine

namespace Sys2Proof.Machine

/-!
## The queue of the array with one entry (R215, R216, R218)
-/

section
variable {c : Core} {e n : ArrEntry}

theorem Core.setEntry_of_queue (h : c.arr.queue = [e]) (hid : n.id = e.id) :
    c.setEntry n = { c with arr := { c.arr with queue := [n] } } := by
  simp only [Core.setEntry, h, List.map_cons, List.map_nil, hid, if_true]

theorem Core.dropEntry_of_queue (h : c.arr.queue = [e]) :
    c.dropEntry e = { c with arr := { c.arr with queue := [] } } := by
  simp [Core.dropEntry, h]

theorem splitAt_single {f : ArrEntry → Bool} (h : f e = true) : splitAt f [e] = some ([], e) := if_pos h

end

/-- Nothing becomes due in the array now: its queue is empty, or its one entry has begun, its effect is not due, and if it
is a pass, it is whole and its last row has not entered. -/
def Core.arrRests (c : Core) (now : Nat) : Prop :=
  c.arr.queue = [] ∨ ∃ e t, c.arr.queue = [e] ∧ e.started = some t ∧ (∀ f, e.fin = some f → now < f) ∧
    ∀ o, e.act = .mm o → e.broken = false ∧ now < t + e.fed

section
variable {s : State} {k : Nat} {l : Launch} {e : ArrEntry}

/-- No release is due of an entry that is no pass, or whose last row has not entered. -/
theorem Core.released_of_queue {c : Core} {now : Nat} (h : c.arr.queue = [e])
    (hmm : ∀ o t, e.act = .mm o → e.started = some t → now < t + e.fed) : c.released l now = c := by
  rw [Core.released, h, List.foldl_cons, List.foldl_nil, Core.releaseEntry]
  split
  next o t hact hstarted =>
    have hlater : ¬ t + e.fed ≤ now := Nat.not_le.2 (hmm o t hact hstarted)
    simp [hlater]
  next => rfl

theorem Core.released_of_empty {c : Core} {now : Nat} (h : c.arr.queue = []) : c.released l now = c := by
  rw [Core.released, h, List.foldl_nil]

theorem Core.released_of_rests {c : Core} {now : Nat} (h : c.arrRests now) : c.released l now = c := by
  obtain hq | ⟨e, t, hq, hstarted, -, hmm⟩ := h
  · exact Core.released_of_empty hq
  · refine Core.released_of_queue hq fun o u hact hu => ?_
    cases hstarted.symm.trans hu
    exact (hmm o hact).2

/-- An array at rest does nothing more; an entry that a compressed tile could not break leaves the state as it is. -/
theorem State.arrStep_of_rests (h : (s.core k).arrRests s.now) {t : State} (ht : s.arrStep k l = some t) : t = s := by
  obtain hq | ⟨e, b, hq, hstarted, hfin, hmm⟩ := h
  · simp [State.arrStep, hq, Core.nextStart] at ht
  · by_cases hbroken : (e.broken && e.started.any (· + e.fed ≤ s.now)) = true
    · have hstep : s.arrStep k l = some (s.cmpFault k e) := by
        simp only [State.arrStep, hq, List.find?_cons, hbroken]
      cases hstep.symm.trans ht
      unfold State.cmpFault
      split
      next o hact => simp [(hmm o hact).1] at hbroken
      next => rfl
    · have hdue : e.fin.any (fun f => decide (f ≤ s.now)) = false := by
        cases hf : e.fin with
        | none => rfl
        | some f => simpa using hfin f hf
      have hwaits : e.waits = false := by rw [ArrEntry.waits, hstarted]; rfl
      simp [State.arrStep, hq, hbroken, hdue, hwaits, Core.nextStart] at ht

theorem State.arrPump_of_rests (n : Nat) (h : (s.core k).arrRests s.now) : State.arrPump n s k l = s := by
  induction n with
  | zero => rfl
  | succ n ih =>
    rw [State.arrPump]
    split
    · rfl
    next t ht =>
      cases State.arrStep_of_rests h ht
      exact ih

/-- What `State.arrSettle` leaves of a state whose array is at rest. -/
theorem State.arrSettle_of_rests (h : (s.core k).arrRests s.now) :
    (s.arrSettle k).core k = s.core k ∧ (s.arrSettle k).mem = s.mem ∧ (s.arrSettle k).regs = s.regs := by
  unfold State.arrSettle
  split
  · exact ⟨rfl, rfl, rfl⟩
  · rw [Core.released_of_rests h, State.arrPump_of_rests _ (by rwa [State.core_setCore_same])]
    exact ⟨State.core_setCore_same _ _ _, rfl, rfl⟩

/-- One entry alone becomes due, and the array is at rest behind it. -/
theorem State.arrSettle_of_step {w : Work} {t : State} (hrun : s.running k = some (w, l))
    (hrel : (s.core k).released l s.now = s.core k) (hstep : (s.setCore k (s.core k)).arrStep k l = some t)
    (hrest : (t.core k).arrRests t.now) : s.arrSettle k = t := by
  have hpump : State.arrPump 17 (s.setCore k (s.core k)) k l = State.arrPump 16 t k l := by
    rw [State.arrPump, hstep]
  simp only [State.arrSettle, hrun, hrel, hpump, State.arrPump_of_rests _ hrest]

/-- An entry that is alone and has not begun starts when what it waits for is over. -/
theorem State.arrStep_of_start {f : Nat} (hq : (s.core k).arr.queue = [e]) (hstarted : e.started = none)
    (hfin : e.fin = none) (hstart : (s.core k).startAt l s.now (field (s.cfg .sparse k 0x100) 1 0) [] e = some f) :
    s.arrStep k l =
      some (s.setCore k ((s.core k).begin l s.now (field (s.cfg .sparse k 0x100) 1 0) e f)) := by
  simp [State.arrStep, hq, hstarted, hfin, ArrEntry.waits, Core.nextStart, hstart]

/-- An entry that is alone takes effect when its cycle has come. -/
theorem State.arrStep_of_due {f : Nat} (hq : (s.core k).arr.queue = [e]) (hbroken : e.broken = false)
    (hfin : e.fin = some f) (hf : f ≤ s.now) : s.arrStep k l = some (s.takeEffect k l e) := by
  simp [State.arrStep, hq, hbroken, hfin, hf]

end

/-! ### Entries that start by themselves (R215, R218, R285) -/

section
variable (c : Core) (l : Launch) (now lim : Nat) {e : ArrEntry}

theorem Core.startAt_ready {m : BitVec 14} (h : e.act = .ready m) :
    c.startAt l now lim [] e = if e.issued + 1 ≤ now then some (now + 3) else none := by
  simp [Core.startAt, h, noChange]

theorem Core.startAt_unready {m : BitVec 14} (h : e.act = .unready m) :
    c.startAt l now lim [] e = if e.issued + 1 ≤ now then some (now + 1) else none := by
  simp [Core.startAt, h, noChange, noReader]

theorem Core.startAt_lds {slot src n : Nat} (h : e.act = .lds slot src n) :
    c.startAt l now lim [] e = if e.issued + 8 ≤ now then some (now + (n + 255) / 256 + 3) else none := by
  simp [Core.startAt, h, noChange, noReader, ceilDiv]

theorem Core.startAt_stat {d : Nat} {ts : List Nat} {v : Word} (h : e.act = .stat d ts (some v)) :
    c.startAt l now lim [] e = if e.issued + 2 ≤ now then some now else none := by
  simp [Core.startAt, h]

/-- No pass starts by itself. -/
theorem Core.act_ne_mm_of_startAt {c : Core} {l : Launch} {now lim f : Nat} {before : List ArrEntry}
    (h : c.startAt l now lim before e = some f) (o : MmOp) : e.act ≠ .mm o := by
  intro hact
  simp [Core.startAt, hact] at h

/-- An sp.est changes the sparsity unit alone. -/
theorem Core.doEst_eq (pid slot rows : Nat) (add : Bool) : ∃ sp, c.doEst l lim pid slot rows add = { c with sp := sp } := by
  unfold Core.doEst
  extract_lets sp
  split
  · exact ⟨_, rfl⟩
  · exact ⟨_, rfl⟩

/-- A start changes the entry, the scale companions and the sparsity unit alone. -/
theorem Core.begin_of_queue {fin : Nat} (h : c.arr.queue = [e]) :
    ∃ comp sp, c.begin l now lim e fin = { c with
      arr := { c.arr with queue := [{ e with started := some now, fin := some fin }], comp := comp }, sp := sp } := by
  simp only [Core.begin, Core.setEntry_of_queue h (n := { e with started := some now, fin := some fin }) rfl]
  split
  · exact ⟨_, _, rfl⟩
  · obtain ⟨sp, hest⟩ := Core.doEst_eq { c with
      arr := { c.arr with queue := [{ e with started := some now, fin := some fin }] } } l lim _ _ _ _
    exact ⟨_, sp, hest⟩
  · exact ⟨_, _, rfl⟩

/-- Scale bytes are in their companion from the start of their load (R215). -/
theorem Core.companion_begin_lds {slot src n fin : Nat} (hact : e.act = .lds slot src n) (hn : n ≤ 2048) :
    bytesAt ((c.begin l now lim e fin).companion slot) 0 n = c.scrRead src n := by
  have hcomp : ∀ j, Tab.get 0 (c.begin l now lim e fin).arr.comp j =
      Tab.get 0 (Memory.write c.arr.comp (2048 * slot) (c.scrRead src n)) j := fun j => by
    rw [← Core.scratch_scrWrite { c with scratch := c.arr.comp }]
    simp only [Core.begin, hact]
    rfl
  refine List.ext_getElem (by rw [length_bytesAt, Core.length_scrRead]) fun i hi hi' => ?_
  rw [length_bytesAt] at hi
  rw [getElem_bytesAt, Nat.zero_add, List.getD_eq_getElem _ _ (by simp [Core.companion]; omega)]
  simp only [Core.companion, List.getElem_map, List.getElem_range, hcomp]
  exact Memory.get_write_at _ _ _ i hi'

end

/-! ### Entries that take effect by themselves (R215, R218) -/

section
variable {s : State} {k : Nat} {l : Launch} {e : ArrEntry}

theorem State.takeEffect_ready {m : BitVec 14} (hq : (s.core k).arr.queue = [e]) (h : e.act = .ready m) :
    ((s.takeEffect k l e).core k).arr =
      { (s.core k).arr with queue := [], tr := (s.core k).arr.tr ||| m } := by
  simp only [State.takeEffect, h, Core.dropEntry_of_queue hq, State.core_setCore_same]

theorem State.takeEffect_unready {m : BitVec 14} (hq : (s.core k).arr.queue = [e]) (h : e.act = .unready m) :
    ((s.takeEffect k l e).core k).arr =
      { (s.core k).arr with queue := [], tr := (s.core k).arr.tr &&& ~~~m, sv := (s.core k).arr.sv &&& ~~~m } := by
  simp only [State.takeEffect, h, Core.dropEntry_of_queue hq, State.core_setCore_same, Core.untile]

theorem State.takeEffect_lds {slot src n : Nat} (hq : (s.core k).arr.queue = [e]) (h : e.act = .lds slot src n) :
    ((s.takeEffect k l e).core k).arr =
      { (s.core k).arr with queue := [], sv := (s.core k).arr.sv ||| slotBit slot } := by
  simp only [State.takeEffect, h, Core.dropEntry_of_queue hq, State.core_setCore_same]

/-- Threads that write one register change the register file alone: theirs get the value. -/
theorem Core.forThreads_setReg (c : Core) (ts : List Nat) {d : Nat} (v : Word) (hd : d < 256) :
    ∃ regs, c.forThreads ts (fun x q => q.setReg x d v) = { c with regs := regs } ∧
      (∀ x ∈ ts, ({ c with regs := regs } : Core).reg x d = v) ∧
      ∀ x r, r < 256 → x ∉ ts ∨ r ≠ d → ({ c with regs := regs } : Core).reg x r = c.reg x r := by
  induction ts generalizing c with
  | nil => exact ⟨c.regs, rfl, fun x hx => absurd hx List.not_mem_nil, fun _ _ _ _ => rfl⟩
  | cons y ts ih =>
    obtain ⟨regs, heq, hin, hout⟩ := ih (c.setReg y d v)
    refine ⟨regs, heq, fun x hx => ?_, fun x r hr hne => ?_⟩
    · by_cases hts : x ∈ ts
      · exact hin x hts
      · rcases List.mem_cons.1 hx with rfl | hx
        · exact (hout x d hd (.inl hts)).trans (Core.reg_setReg_same c x d v)
        · exact absurd hx hts
    · have hkeep : x ∉ ts ∨ r ≠ d := hne.imp_left fun h hx => h (List.mem_cons_of_mem _ hx)
      have hother : x ≠ y ∨ r ≠ d := hne.imp_left fun h hx => h (hx ▸ List.mem_cons_self)
      exact (hout x r hr hkeep).trans (Core.reg_setReg_ne c v hd hr hother)

theorem State.takeEffect_stat {d : Nat} {ts : List Nat} {v : Word} (hq : (s.core k).arr.queue = [e])
    (h : e.act = .stat d ts (some v)) (hd : d < 256) :
    ((s.takeEffect k l e).core k).arr = { (s.core k).arr with queue := [] } ∧
      (∀ x, x ∈ ts → ((s.takeEffect k l e).core k).reg x d = v) ∧
      (∀ x r, r < 256 → x ∉ ts ∨ r ≠ d → ((s.takeEffect k l e).core k).reg x r = (s.core k).reg x r) := by
  obtain ⟨regs, heq, hin, hout⟩ :=
    Core.forThreads_setReg { s.core k with arr := { (s.core k).arr with queue := [] } } ts v hd
  have hcore : (s.takeEffect k l e).core k = { s.core k with arr := { (s.core k).arr with queue := [] }, regs := regs } := by
    simp only [State.takeEffect, h, Core.dropEntry_of_queue hq, State.core_setCore_same, Option.getD_some]
    exact heq
  rw [hcore]
  exact ⟨rfl, hin, hout⟩

end

section
variable {s : State} {k : Nat} {w : Work} {l : Launch} {e : ArrEntry}

/-- What is left where an entry alone starts by itself. -/
theorem State.arrSettle_of_start {f : Nat} (hrun : s.running k = some (w, l)) (hq : (s.core k).arr.queue = [e])
    (hstarted : e.started = none) (hfin : e.fin = none) (hf : s.now < f)
    (hstart : (s.core k).startAt l s.now (field (s.cfg .sparse k 0x100) 1 0) [] e = some f) :
    (s.arrSettle k).core k = (s.core k).begin l s.now (field (s.cfg .sparse k 0x100) 1 0) e f := by
  have hcore : (s.setCore k (s.core k)).core k = s.core k := State.core_setCore_same _ _ _
  have hrel : (s.core k).released l s.now = s.core k :=
    Core.released_of_queue hq fun o t _ ht => absurd (hstarted.symm.trans ht) (by simp)
  have hstep := State.arrStep_of_start (s := s.setCore k (s.core k)) (k := k) (l := l) (e := e) (f := f)
    (by rwa [hcore]) hstarted hfin (by rw [hcore]; exact hstart)
  rw [hcore] at hstep
  obtain ⟨comp, sp, hbegin⟩ := Core.begin_of_queue (s.core k) l s.now (field (s.cfg .sparse k 0x100) 1 0) (fin := f) hq
  rw [State.arrSettle_of_step hrun hrel hstep (.inr ⟨{ e with started := some s.now, fin := some f }, s.now, ?_, rfl, ?_, ?_⟩)]
  · exact State.core_setCore_same _ _ _
  · rw [State.core_setCore_same]
    exact congrArg (·.arr.queue) hbegin
  · rintro _ ⟨⟩
    exact hf
  · exact fun o hact => absurd hact (Core.act_ne_mm_of_startAt hstart o)

/-- What is left where an entry alone takes effect by itself and leaves the queue. -/
theorem State.arrSettle_of_due {f : Nat} (hrun : s.running k = some (w, l)) (hq : (s.core k).arr.queue = [e])
    (hmm : ∀ o, e.act ≠ .mm o) (hbroken : e.broken = false) (hfin : e.fin = some f) (hf : f ≤ s.now)
    (hempty : (((s.setCore k (s.core k)).takeEffect k l e).core k).arr.queue = []) :
    s.arrSettle k = (s.setCore k (s.core k)).takeEffect k l e :=
  State.arrSettle_of_step hrun (Core.released_of_queue hq fun o _ hact => absurd hact (hmm o))
    (State.arrStep_of_due (by rwa [State.core_setCore_same]) hbroken hfin hf) (.inl hempty)

end

end Sys2Proof.Machine

namespace Sys2Proof.Proofs.MatrixArray
open Sys2Proof Sys2Proof.Machine

/-- Settles O37: an instruction that passes its checks joins the queue of the state that the array has settled to, and an
entry alone there starts, and takes effect, in its cycle. -/
theorem arrayIssue : Obligations.ArrayIssue := by
  refine ⟨fun o m s i lf z h hout => ⟨⟨_, rfl, State.arrIssue_queues h ?_⟩, ⟨_, rfl, State.arrIssue_queues h ?_⟩⟩,
    fun o slot src n s i lf z h hn hpos hmax hslot ha hend => ⟨_, rfl, State.arrIssue_queues h ?_⟩,
    fun o slot fmt col rel a s i lf z h hchk => ⟨_, rfl, State.tryIssue_queues h hchk⟩,
    fun o f a s i lf z h hchk hgov => ⟨_, rfl, State.tryIssue_queues h ?_⟩, fun s k n hn => ?_,
    fun o bank dst ofmt mode a m s i lf z h hchk => ⟨_, rfl, State.tryIssue_queues h hchk⟩,
    fun o d s i lf z h => ⟨_, rfl, State.arrIssue_queues h rfl⟩,
    fun s k w l e f hrun hq hstarted hfin hf hstart => ?_,
    fun s k w l e b f hrun hq hstarted hbroken hfin hf => ?_,
    fun c l now lim e => ⟨fun m h => c.startAt_ready l now lim h, fun m h => c.startAt_unready l now lim h,
      fun slot src n h => c.startAt_lds l now lim h, fun d ts v h => c.startAt_stat l now lim h⟩⟩
  · exact if_neg (by rw [hout]; decide)
  · exact if_neg (by rw [hout]; decide)
  · set a := (((s.arrSettle o.core.val).core o.core.val).reg i.lead src.val).toNat
    have hlegal : ¬(decide (n % 64 ≠ 0) || decide (2048 < n) || decide (n = 0)) = true := by
      simp only [Bool.or_eq_true, decide_eq_true_eq]
      omega
    have hinside : ¬(decide (i.l.slots ≤ slot.val) || decide (a % 64 ≠ 0) || decide (1024 * i.l.sliceKib < a + n)) = true := by
      simp only [Bool.or_eq_true, decide_eq_true_eq]
      omega
    exact (if_neg hlegal).trans (if_neg hinside)
  · simp only [ArrTry.check]
    rw [hchk]
    exact if_pos (by rw [hgov]; rfl)
  · rw [State.noteMm, if_pos hn, State.core_setCore_same]
  · have hsettled := State.arrSettle_of_start hrun hq hstarted hfin hf hstart
    obtain ⟨comp, sp, hbegin⟩ := Core.begin_of_queue (s.core k) l s.now (field (s.cfg .sparse k 0x100) 1 0) (fin := f) hq
    refine ⟨_, hsettled, ?_, ?_, ?_, ?_, fun slot src n hact _ hn => Core.companion_begin_lds _ _ _ _ hact hn⟩
    all_goals rw [hbegin]
  · have hcore : (s.setCore k (s.core k)).core k = s.core k := State.core_setCore_same _ _ _
    have hq' : ((s.setCore k (s.core k)).core k).arr.queue = [e] := by rwa [hcore]
    refine ⟨fun m hact => ?_, fun m hact => ?_, fun slot src n hact => ?_, fun d ts v hact hd => ?_⟩
    · have h := State.takeEffect_ready (l := l) hq' hact
      rw [State.arrSettle_of_due hrun hq (by simp [hact]) hbroken hfin hf (congrArg (·.queue) h), h, hcore]
    · have h := State.takeEffect_unready (l := l) hq' hact
      rw [State.arrSettle_of_due hrun hq (by simp [hact]) hbroken hfin hf (congrArg (·.queue) h), h, hcore]
    · have h := State.takeEffect_lds (l := l) hq' hact
      rw [State.arrSettle_of_due hrun hq (by simp [hact]) hbroken hfin hf (congrArg (·.queue) h), h, hcore]
    · have h := State.takeEffect_stat (l := l) hq' hact hd
      rw [State.arrSettle_of_due hrun hq (by simp [hact]) hbroken hfin hf (congrArg (·.queue) h.1)]
      rwa [hcore] at h

end Sys2Proof.Proofs.MatrixArray

namespace Sys2Proof.Machine

/-!
## Loads, passes and drains (R204 to R207, R213, R214, R218, R228)
-/

section
variable {s : State} {k : CoreId} {w : Work} {l : Launch} {e : ArrEntry}

/-- What becomes due behind a change of a core that leaves its array at rest. -/
theorem State.arrSettle_setCore (t : State) {j : Nat} {c : Core} (h : c.arrRests t.now) :
    ((t.setCore j c).arrSettle j).core j = c ∧ ((t.setCore j c).arrSettle j).mem = t.mem ∧
      ((t.setCore j c).arrSettle j).regs = t.regs := by
  obtain ⟨hcore, hmem, hregs⟩ := State.arrSettle_of_rests (s := t.setCore j c) (k := j)
    (by rw [State.core_setCore_same]; exact h)
  exact ⟨hcore.trans (State.core_setCore_same _ _ _), hmem, hregs⟩

/-- A tile that is ready may be read where nothing stands in front (R200, R216). -/
theorem tileReady_nil {c : Core} {slot : Nat} {scales : Bool} (htr : c.arr.tr.getLsbD slot = true)
    (hsv : scales = true → c.arr.sv.getLsbD slot = true) : tileReady c l [] slot scales = true := by
  cases scales with
  | false => simp [tileReady, noChange, htr]
  | true => simp [tileReady, noChange, htr, hsv rfl]

/-! ### Loads of a set (R204, R218) -/

theorem execArrLdshStart_of {slot : Nat} {f : Fmt} {col rel : Bool} (hrun : s.running k.val = some (w, l))
    (hq : (s.core k.val).arr.queue = [e]) (hact : e.act = .ldsh slot f col rel) (hstarted : e.started = none)
    (hissued : e.issued + 8 ≤ s.now) (htr : (s.core k.val).arr.tr.getLsbD slot = true)
    (hsv : scaled f = true → (s.core k.val).arr.sv.getLsbD slot = true) :
    ∃ d, execArrLdshStart k s = .next (s.setCore k.val d) ∧ d.arr = { (s.core k.val).arr with
      queue := [{ e with started := some s.now }], shadow := some ((s.core k.val).tileOf l slot f), loading := true } := by
  have hfirst : splitAt (fun e => e.path = .load && e.waits) (s.core k.val).arr.queue = some ([], e) := by
    rw [hq]
    exact splitAt_single (by simp [ArrEntry.path, ArrEntry.waits, hact, hstarted])
  have hdue : ldshDue s.now (s.core k.val) l [] e slot f col = true := by
    simp [ldshDue, hissued, tileReady_nil htr hsv]
  set d := (s.core k.val).setEntry { e with started := some s.now } with hd
  rw [Core.setEntry_of_queue hq (n := { e with started := some s.now }) rfl] at hd
  refine ⟨{ d with arr := { d.arr with shadow := some ((s.core k.val).tileOf l slot f), loading := true } }, ?_, by rw [hd]⟩
  simp only [execArrLdshStart, hrun, hfirst]
  split
  next slot' f' col' rel' hact' =>
    obtain ⟨rfl, rfl, rfl, rfl⟩ := ArrAct.ldsh.inj (hact.symm.trans hact')
    rw [if_pos hdue]
  next hne => exact absurd hact (hne _ _ _ _)

theorem execArrLdshComplete_of {slot l0 : Nat} {f : Fmt} {col rel : Bool} (hrun : s.running k.val = some (w, l))
    (hq : (s.core k.val).arr.queue = [e]) (hact : e.act = .ldsh slot f col rel) (hstarted : e.started = some l0)
    (hend : l0 + 128 ≤ s.now) :
    ∃ d, execArrLdshComplete k none s = .next ((s.setCore k.val d).arrSettle k.val) ∧ d.arr = { (s.core k.val).arr with
      queue := [], loading := false
      tr := if rel then (s.core k.val).arr.tr &&& ~~~(slotBit slot) else (s.core k.val).arr.tr
      sv := if rel then (s.core k.val).arr.sv &&& ~~~(slotBit slot) else (s.core k.val).arr.sv } := by
  have hover : (s.core k.val).arr.queue.find? (fun e => e.path = .load && e.started.any (· + 128 ≤ s.now)) = some e := by
    rw [hq]
    exact List.find?_cons_of_pos (by simp [ArrEntry.path, hact, hstarted, hend])
  rw [execArrLdshComplete, State.orGhost_of_launch (State.isSome_launch_of_running hrun)]
  cases rel with
  | false =>
    simp only [hover, hact, State.arrayBad, Bool.false_eq_true, if_false, Core.dropEntry_of_queue hq]
    exact ⟨_, rfl, rfl⟩
  | true =>
    have hdrop := Core.dropEntry_of_queue (c := (s.core k.val).untile (slotBit slot)) (e := e) hq
    simp only [hover, hact, State.arrayBad, if_true, hdrop]
    exact ⟨_, rfl, rfl⟩

/-! ### Rows into a bank (R206, R207) -/

/-- One output of a row into a bank, with the count of saturations. -/
def Bank.feedOutput (op pred : Nat) (int col : Bool) (set : TileSet) (m : Nat) (xs : List Sys2Proof.Num)
    (q : Bank × Nat) (o : Nat) : Bank × Nat :=
  let i := outsOf set.fmt col * m + o
  let r := accumulate op pred int (q.1.at i) xs (set.feeds col o)
  ({ q.1 with acc := Tab.set q.1.init q.1.acc i r.1 }, q.2 + (if r.2 then 1 else 0))

theorem Bank.feed_eq (b : Bank) (op pred : Nat) (int col : Bool) (set : TileSet) (m : Nat) (xs : List Sys2Proof.Num) :
    b.feed op pred int col set m xs =
      (List.range (outsOf set.fmt col)).foldl (Bank.feedOutput op pred int col set m xs) (b, 0) := rfl

theorem Bank.at_feedOutput (op pred : Nat) (int col : Bool) (set : TileSet) (m : Nat) (xs : List Sys2Proof.Num)
    (q : Bank × Nat) (o i : Nat) :
    (Bank.feedOutput op pred int col set m xs q o).1.at i = if outsOf set.fmt col * m + o = i
      then (accumulate op pred int (q.1.at i) xs (set.feeds col o)).1 else q.1.at i := by
  rw [Bank.at, Bank.feedOutput, Tab.get_set]
  split
  next h => rw [h]
  next => rfl

/-- The outputs below n have been fed from what the bank held before; all else is as it was. -/
theorem Bank.at_foldl_feedOutput (op pred : Nat) (int col : Bool) (set : TileSet) (m : Nat) (xs : List Sys2Proof.Num)
    (b : Bank) (n i : Nat) :
    ((List.range n).foldl (Bank.feedOutput op pred int col set m xs) (b, 0)).1.at i =
      if outsOf set.fmt col * m ≤ i ∧ i < outsOf set.fmt col * m + n
      then (accumulate op pred int (b.at i) xs (set.feeds col (i - outsOf set.fmt col * m))).1 else b.at i := by
  induction n with
  | zero => exact (if_neg (by omega)).symm
  | succ n ih =>
    rw [List.range_succ, List.foldl_append, List.foldl_cons, List.foldl_nil, Bank.at_feedOutput, ih]
    by_cases hlast : outsOf set.fmt col * m + n = i
    · rw [if_pos hlast, if_neg (by omega), if_pos (by omega), ← hlast, Nat.add_sub_cancel_left]
    · rw [if_neg hlast]
      exact if_congr (by omega) rfl rfl

theorem Bank.at_feed (b : Bank) (op pred : Nat) (int col : Bool) (set : TileSet) (m : Nat) (xs : List Sys2Proof.Num)
    (i : Nat) :
    (b.feed op pred int col set m xs).1.at i =
      if outsOf set.fmt col * m ≤ i ∧ i < outsOf set.fmt col * m + outsOf set.fmt col
      then (accumulate op pred int (b.at i) xs (set.feeds col (i - outsOf set.fmt col * m))).1 else b.at i := by
  rw [Bank.feed_eq, Bank.at_foldl_feedOutput]

/-! ### Passes (R205 to R207, R213, R218, R228) -/

/-- The bank of a pass after its rows. -/
def passBank (c : Core) (l : Launch) (o : MmOp) (set : TileSet) : Bank :=
  (passRows c l o set).foldl (fun b r => (b.feed o.op.toNat o.pred.toNat o.fmt.isInt o.col set r.1 r.2).1) (startBank c o)

theorem length_passRows_of_dense {c : Core} {o : MmOp} (set : TileSet) (h : o.sparse = false) :
    (passRows c l o set).length = o.rows := by
  simp [passRows, h]

/-- Rows fed one after the other, with a number for each. -/
theorem foldl_fst_length {α β γ : Type} (f : β → α → β × γ) (rows : List α) (b : β) (ns : List γ) :
    (rows.foldl (fun q r => ((f q.1 r).1, q.2 ++ [(f q.1 r).2])) (b, ns)).1 = rows.foldl (fun b r => (f b r).1) b ∧
      (rows.foldl (fun q r => ((f q.1 r).1, q.2 ++ [(f q.1 r).2])) (b, ns)).2.length = ns.length + rows.length := by
  induction rows generalizing b ns with
  | nil => exact ⟨rfl, rfl⟩
  | cons r rows ih =>
    obtain ⟨hfst, hlen⟩ := ih (f b r).1 (ns ++ [(f b r).2])
    refine ⟨hfst, hlen.trans ?_⟩
    rw [List.length_append, List.length_cons, List.length_cons, List.length_nil]
    omega

/-- Rattle changes its register and its sample alone (R413). -/
theorem State.rattlePass_core (s : State) (j : Nat) (w : Work) (o : MmOp) (set : TileSet)
    (rows : List (Nat × List Sys2Proof.Num)) :
    ∃ r x, (s.rattlePass j w o set rows).core j = { s.core j with lfsr := r, sample := x } := by
  have hsample : ∀ {r : Option Word} (t : State) (_ : t.core j = { s.core j with lfsr := r }) (x : Option Sample),
      (t.setCore j { t.core j with sample := x }).core j = { s.core j with lfsr := r, sample := x } := fun t ht x => by
    rw [State.core_setCore_same, ht]
  unfold State.rattlePass
  split
  · exact ⟨_, _, rfl⟩
  · extract_lets a hit b c t u m
    have ht : t.core j = { s.core j with lfsr := some b } := State.core_setCore_same _ _ _
    have hu : u.core j = { s.core j with lfsr := some b } := ht
    split
    · exact ⟨_, _, ht⟩
    · split
      · exact ⟨_, _, hu⟩
      · split
        · exact ⟨_, _, hu⟩
        · exact ⟨_, _, hsample _ hu _⟩

theorem State.rattlePass_now (s : State) (j : Nat) (w : Work) (o : MmOp) (set : TileSet)
    (rows : List (Nat × List Sys2Proof.Num)) : (s.rattlePass j w o set rows).now = s.now := by
  simp only [State.rattlePass]
  (repeat' split) <;> rfl

theorem ArrState.bankOf_setBankOf_same (a : ArrState) (b : Nat) (v : Bank) : (a.setBankOf b v).bankOf b = v := by
  unfold ArrState.setBankOf ArrState.bankOf
  split <;> rfl

theorem ArrState.tr_setBankOf (a : ArrState) (b : Nat) (v : Bank) : (a.setBankOf b v).tr = a.tr := by
  unfold ArrState.setBankOf
  split <;> rfl

theorem ArrState.queue_setBankOf (a : ArrState) (b : Nat) (v : Bank) : (a.setBankOf b v).queue = a.queue := by
  unfold ArrState.setBankOf
  split <;> rfl

/-- The saturations that each row of a pass gives. -/
def passSats (c : Core) (l : Launch) (o : MmOp) (set : TileSet) : List Nat :=
  ((passRows c l o set).foldl (fun q r =>
    let f := q.1.feed o.op.toNat o.pred.toNat o.fmt.isInt o.col set r.1 r.2
    (f.1, q.2 ++ [f.2])) (startBank c o, [])).2

theorem foldl_feed_eq (c : Core) (l : Launch) (o : MmOp) (set : TileSet) :
    (passRows c l o set).foldl (fun q r =>
      let f := q.1.feed o.op.toNat o.pred.toNat o.fmt.isInt o.col set r.1 r.2
      (f.1, q.2 ++ [f.2])) (startBank c o, []) = (passBank c l o set, passSats c l o set) :=
  Prod.ext (foldl_fst_length (fun (b : Bank) (r : Nat × List Sys2Proof.Num) =>
    b.feed o.op.toNat o.pred.toNat o.fmt.isInt o.col set r.1 r.2) _ _ _).1 rfl

theorem length_passSats_of_dense {c : Core} {o : MmOp} (set : TileSet) (h : o.sparse = false) :
    (passSats c l o set).length = o.rows :=
  (foldl_fst_length (fun (b : Bank) (r : Nat × List Sys2Proof.Num) =>
    b.feed o.op.toNat o.pred.toNat o.fmt.isInt o.col set r.1 r.2) _ _ _).2.trans
    ((Nat.zero_add _).trans (length_passRows_of_dense set h))

/-- A core on which a pass over a dense tile has started. -/
def Core.passed (c : Core) (l : Launch) (now : Nat) (e : ArrEntry) (o : MmOp) (set : TileSet) : Core :=
  { c with arr := c.arr.setBankOf o.bank (passBank c l o set) }.setEntry
    { e with started := some now, fed := o.rows, sats := passSats c l o set, broken := false }

/-- A pass over a dense tile without a swap feeds every row of the tile into its bank. -/
theorem State.runPass_of_dense {s : State} {j : Nat} {o : MmOp} {set : TileSet} (hsparse : o.sparse = false)
    (hsw : o.sw = false) (hset : (s.core j).arr.active = some set) :
    s.runPass j w l e o = (((s.setCore j ((s.core j).passed l s.now e o set)).addCount .array j 0xF02 0).addCount .sparse j
      0x800 0).rattlePass j w o set (passRows (s.core j) l o set) := by
  unfold State.runPass
  extract_lets c a stop
  have ha : a = c.arr := if_neg (by rw [hsw]; decide)
  split
  next hnone => exact absurd ((congrArg ArrState.active ha).symm.trans hnone) (by rw [hset]; simp)
  next set' hset' =>
    obtain rfl : set' = set := Option.some.inj (hset'.symm.trans ((congrArg ArrState.active ha).trans hset))
    extract_lets rows fed
    have hstop : stop = none := by simp only [stop, brokenRow, hsparse]; rfl
    have hrows : rows = passRows (s.core j) l o set' := by simp only [rows, hstop]; simp [c]
    have hfold := foldl_feed_eq c l o set'
    rw [hrows]
    split
    next b sats hfold' =>
      obtain ⟨rfl, rfl⟩ := Prod.mk.inj (hfold'.symm.trans hfold)
      extract_lets h d f t
      have hh : h = (passBank c l o set').hold := by simp [h, hsparse]
      have hfed : fed.length = o.rows := by
        rw [List.length_map, hrows, length_passRows_of_dense set' hsparse]
      have hskip : skippedRows c l o fed = 0 := by simp [skippedRows, hsparse]
      have hf : f = (s.core j).passed l s.now e o set' := by
        simp only [f, d, hh, hfed, hstop, ha]
        rfl
      simp only [t, hf, hskip, hsw, Bool.false_eq_true, if_false]

/-- What a pass that starts leaves of its core, but for Rattle. -/
theorem Core.arr_passed {c : Core} {now : Nat} {o : MmOp} {set : TileSet} (hq : c.arr.queue = [e]) :
    (c.passed l now e o set).arr = { c.arr.setBankOf o.bank (passBank c l o set) with
      queue := [{ e with started := some now, fed := o.rows, sats := passSats c l o set, broken := false }] } := by
  have hq' : ({ c with arr := c.arr.setBankOf o.bank (passBank c l o set) } : Core).arr.queue = [e] := by
    rw [← hq]
    exact ArrState.queue_setBankOf _ _ _
  rw [Core.passed, Core.setEntry_of_queue hq' (n := { e with
    started := some now, fed := o.rows, sats := passSats c l o set, broken := false }) rfl]

/-- A pass over a dense tile that is ready starts, and the array is at rest behind it. -/
theorem execArrPassStart_of {o : MmOp} {set : TileSet} (hrun : s.running k.val = some (w, l))
    (hq : (s.core k.val).arr.queue = [e]) (hact : e.act = .mm o) (hfin : e.fin = none) (hstarted : e.started = none)
    (hissued : e.issued + 8 ≤ s.now) (hsparse : o.sparse = false) (hsw : o.sw = false) (hrows : 0 < o.rows)
    (htr : (s.core k.val).arr.tr.getLsbD o.slot = true)
    (hsv : scaled o.fmt = true → (s.core k.val).arr.sv.getLsbD o.slot = true)
    (hset : (s.core k.val).arr.active = some set) :
    ∃ t r x, execArrPassStart k none s = .next t ∧ t.mem = s.mem ∧
      t.core k.val = { (s.core k.val).passed l s.now e o set with lfsr := r, sample := x } := by
  have hfirst : splitAt (fun e => e.path = .feed && e.waits) (s.core k.val).arr.queue = some ([], e) := by
    rw [hq]
    exact splitAt_single (by simp [ArrEntry.path, ArrEntry.waits, hact, hstarted])
  have hmm : e.mm? = some o := by simp only [ArrEntry.mm?, hact]
  have hdue : passDue s.now (s.core k.val) l [] e o = true := by
    simp [passDue, hsparse, hissued, tileReady_nil htr hsv]
  have hexec : execArrPassStart k none s = .next ((s.runPass k.val w l e o).arrSettle k.val) := by
    rw [execArrPassStart, State.orGhost_of_launch (State.isSome_launch_of_running hrun)]
    simp only [hrun, hfirst, hmm, hdue, if_true, State.arrayBad]
  have hrunPass := State.runPass_of_dense (w := w) (l := l) (e := e) hsparse hsw hset
  set u := ((s.setCore k.val ((s.core k.val).passed l s.now e o set)).addCount .array k.val 0xF02 0).addCount .sparse k.val
    0x800 0 with hu
  have hucore : u.core k.val = (s.core k.val).passed l s.now e o set := State.core_setCore_same _ _ _
  obtain ⟨r, x, hcore⟩ := State.rattlePass_core u k.val w o set (passRows (s.core k.val) l o set)
  have hnow := State.rattlePass_now u k.val w o set (passRows (s.core k.val) l o set)
  rw [hucore, ← hrunPass] at hcore
  rw [← hrunPass] at hnow
  have hrest : ((s.runPass k.val w l e o).core k.val).arrRests (s.runPass k.val w l e o).now := by
    refine .inr ⟨{ e with started := some s.now, fed := o.rows, sats := passSats (s.core k.val) l o set, broken := false },
      s.now, ?_, rfl, fun f hf => absurd (hfin.symm.trans hf) (by simp), fun p hp => ⟨rfl, ?_⟩⟩
    · rw [hcore]
      exact congrArg (·.queue) (Core.arr_passed hq)
    · rw [hnow]
      exact Nat.lt_add_of_pos_right hrows
  obtain ⟨hsettled, hmem, -⟩ := State.arrSettle_of_rests hrest
  refine ⟨_, r, x, hexec, hmem.trans ?_, hsettled.trans hcore⟩
  rw [hrunPass, State.rattlePass_mem]
  rfl

/-- A pass that is over leaves the queue, counts its rows, and releases its slots with REL. -/
theorem execArrPassComplete_of {o : MmOp} {t0 : Nat} (hrun : s.running k.val = some (w, l))
    (hq : (s.core k.val).arr.queue = [e]) (hact : e.act = .mm o) (hstarted : e.started = some t0)
    (hbroken : e.broken = false) (hend : t0 + e.fed + 131 ≤ s.now) :
    ∃ d, execArrPassComplete k none s = .next (((s.notePass k.val e).setCore k.val d).arrSettle k.val) ∧
      d.arr = { (s.core k.val).arr with
        queue := []
        tr := if o.rel then (s.core k.val).arr.tr &&& ~~~((s.core k.val).passSlots l o) else (s.core k.val).arr.tr
        sv := if o.rel then (s.core k.val).arr.sv &&& ~~~((s.core k.val).passSlots l o)
          else (s.core k.val).arr.sv } := by
  have hover : (s.core k.val).arr.queue.find?
      (fun e => e.path = .feed && !e.broken && e.started.any (· + e.fed + 131 ≤ s.now)) = some e := by
    rw [hq]
    exact List.find?_cons_of_pos (by simp [ArrEntry.path, hact, hbroken, hstarted, hend])
  have hmm : e.mm? = some o := by simp only [ArrEntry.mm?, hact]
  rw [execArrPassComplete, State.orGhost_of_launch (State.isSome_launch_of_running hrun)]
  cases hrel : o.rel with
  | false =>
    simp only [hrun, hover, hmm, State.arrayBad, hrel, Bool.false_eq_true, if_false, Core.dropEntry_of_queue hq]
    exact ⟨_, rfl, rfl⟩
  | true =>
    have hdrop := Core.dropEntry_of_queue (c := (s.core k.val).untile ((s.core k.val).passSlots l o)) (e := e) hq
    simp only [hrun, hover, hmm, State.arrayBad, hrel, if_true, hdrop]
    exact ⟨_, rfl, rfl⟩

/-- All rows of a pass that is over have entered (R228). -/
theorem State.counter_notePass {j t0 : Nat} (hstarted : e.started = some t0) (hend : t0 + e.fed ≤ s.now) :
    (s.notePass j e).counter .array j 0xF01 = s.counter .array j 0xF01 + e.fed := by
  have hrows : e.rowsIn s.now = e.fed := by
    simp only [ArrEntry.rowsIn, hstarted]
    omega
  have hkey : regKey .array j 0x808 ≠ regKey .array j 0xF01 := by
    unfold regKey
    omega
  rw [State.notePass, State.counter_addCount_ne _ _ hkey, State.counter_addCount_same, hrows]

/-! ### Drains (R214, R290) -/

theorem execArrDrainStart_of {bank dst mode : Nat} {f : Fmt} {int32 : Bool} (hrun : s.running k.val = some (w, l))
    (hq : (s.core k.val).arr.queue = [e]) (hact : e.act = .drain bank dst f int32 mode) (hstarted : e.started = none) :
    execArrDrainStart k s = .next ((s.runDrain k.val e bank f int32 mode).arrSettle k.val) := by
  have hfirst : splitAt (fun e => e.path = .drain && e.waits) (s.core k.val).arr.queue = some ([], e) := by
    rw [hq]
    exact splitAt_single (by simp [ArrEntry.path, ArrEntry.waits, hact, hstarted])
  have hdue : ∀ m, drainDue s.now (s.core k.val) l [] bank m = true := fun m => rfl
  rw [execArrDrainStart, State.orGhost_of_launch (State.isSome_launch_of_running hrun)]
  simp only [hrun, hfirst]
  split
  next bank' dst' f' int' mode' hact' =>
    obtain ⟨rfl, rfl, rfl, rfl, rfl⟩ := ArrAct.drain.inj (hact.symm.trans hact')
    rw [if_pos (hdue _)]
  next hne => exact absurd hact (hne _ _ _ _ _)

/-- A drain with DISCARD leaves the queue, and its bank is free. -/
theorem execArrDrainStart_discard {bank dst : Nat} {f : Fmt} {int32 : Bool} {h : BankHold}
    (hrun : s.running k.val = some (w, l)) (hq : (s.core k.val).arr.queue = [e])
    (hact : e.act = .drain bank dst f int32 2) (hstarted : e.started = none)
    (hhold : ((s.core k.val).arr.bankOf bank).hold = some h) :
    ∃ d, execArrDrainStart k s = .next ((s.setCore k.val d).arrSettle k.val) ∧ d.arr.queue = [] ∧
      d.arr.bankOf bank = {} ∧ d.sp = (s.core k.val).sp.closeRound h.pid := by
  have hrunDrain : s.runDrain k.val e bank f int32 2 = s.setCore k.val { s.core k.val with
      arr := { (s.core k.val).arr with queue := [] }.setBankOf bank {}, sp := (s.core k.val).sp.closeRound h.pid } := by
    simp only [State.runDrain, hhold, if_true, Core.dropEntry_of_queue hq]
  rw [execArrDrainStart_of hrun hq hact hstarted, hrunDrain]
  exact ⟨_, rfl, ArrState.queue_setBankOf _ _ _, ArrState.bankOf_setBankOf_same _ _ _, rfl⟩

/-- A drain that no make-up pass holds up reads its bank, which is free behind it with RELEASE. -/
theorem execArrDrainStart_begins {bank dst mode : Nat} {f : Fmt} {int32 : Bool} {h : BankHold}
    (hrun : s.running k.val = some (w, l)) (hq : (s.core k.val).arr.queue = [e])
    (hact : e.act = .drain bank dst f int32 mode) (hstarted : e.started = none) (hfin : e.fin = none)
    (hhold : ((s.core k.val).arr.bankOf bank).hold = some h) (hmode : mode ≠ 2)
    (hmakeup : makeupPending (s.core k.val).sp h = false) :
    ∃ d, execArrDrainStart k s = .next ((s.setCore k.val d).arrSettle k.val) ∧ d.arrRests s.now ∧
      d.arr.bankOf bank = (if mode = 0 then {} else (s.core k.val).arr.bankOf bank) ∧
      d.arr.queue = [{ e with
        started := some s.now, vals := ((s.core k.val).arr.bankOf bank).drained f int32 }] ∧
      d.sp = ((s.core k.val).sp.learn ((s.core k.val).arr.bankOf bank) h).closeRound h.pid ∧
      d.scratch = (s.core k.val).scratch := by
  set n : ArrEntry := { e with started := some s.now, vals := ((s.core k.val).arr.bankOf bank).drained f int32 } with hn
  set c := (s.core k.val).setEntry n with hc
  set b : Bank := if mode = 0 then {} else (s.core k.val).arr.bankOf bank with hb
  have hqueue : (c.arr.setBankOf bank b).queue = [n] := by
    rw [ArrState.queue_setBankOf, hc, Core.setEntry_of_queue (n := n) hq rfl]
  have hrunDrain : s.runDrain k.val e bank f int32 mode = s.setCore k.val { c with
      arr := c.arr.setBankOf bank b, sp := (c.sp.learn ((s.core k.val).arr.bankOf bank) h).closeRound h.pid } := by
    simp only [State.runDrain, hhold, if_neg hmode, hmakeup, Bool.false_eq_true, if_false]
    rfl
  rw [execArrDrainStart_of hrun hq hact hstarted, hrunDrain]
  refine ⟨_, rfl, .inr ⟨n, s.now, hqueue, rfl, ?_, ?_⟩, ArrState.bankOf_setBankOf_same _ _ _, hqueue, rfl, rfl⟩
  · exact fun g hg => absurd (hfin.symm.trans hg) (by simp)
  · exact fun o hmm => absurd (hact.symm.trans hmm) (by simp)

theorem execArrDrainComplete_of {bank dst mode t0 : Nat} {f : Fmt} {int32 : Bool} (hrun : s.running k.val = some (w, l))
    (hq : (s.core k.val).arr.queue = [e]) (hact : e.act = .drain bank dst f int32 mode) (hstarted : e.started = some t0)
    (hend : t0 + 136 ≤ s.now) :
    ∃ d, execArrDrainComplete k s = .next ((s.setCore k.val d).arrSettle k.val) ∧
      d.scratch = ((s.core k.val).scrWrite (l.regionBase + 32768 * dst) e.vals).scratch ∧
      d.arr = { (s.core k.val).arr with
        queue := [], tr := (s.core k.val).arr.tr ||| drainSlots dst f int32
        rs := (s.core k.val).arr.rs &&& ~~~(drainSlots dst f int32) } := by
  have hover : (s.core k.val).arr.queue.find? (fun e => e.path = .drain && e.started.any (· + 136 ≤ s.now)) = some e := by
    rw [hq]
    exact List.find?_cons_of_pos (by simp [ArrEntry.path, hact, hstarted, hend])
  have hrel : (s.core k.val).released l s.now = s.core k.val :=
    Core.released_of_queue hq fun o t hmm => absurd (hact.symm.trans hmm) (by simp)
  set d := ((s.core k.val).scrWrite (l.regionBase + 32768 * dst) e.vals).dropEntry e with hd
  rw [Core.dropEntry_of_queue (c := (s.core k.val).scrWrite (l.regionBase + 32768 * dst) e.vals) hq] at hd
  refine ⟨{ d with arr := { d.arr with
    tr := d.arr.tr ||| drainSlots dst f int32, rs := d.arr.rs &&& ~~~(drainSlots dst f int32) } }, ?_, by rw [hd], ?_⟩
  · simp only [execArrDrainComplete, hrun, hover, hrel]
    split
    next bank' dst' f' int' mode' hact' =>
      obtain ⟨rfl, rfl, rfl, rfl, rfl⟩ := ArrAct.drain.inj (hact.symm.trans hact')
      rfl
    next hne => exact absurd hact (hne _ _ _ _ _)
  · rw [hd]
    rfl

end

end Sys2Proof.Machine

namespace Sys2Proof.Proofs.MatrixArray
open Sys2Proof Sys2Proof.Machine

/-- Settles O38: the entry is the first of its path, nothing stands in front of it, and behind each start and each end the
array is at rest. -/
theorem arrayRuns : Obligations.ArrayRuns := by
  refine ⟨fun k s w l e slot f col rel hrun hq hact => ⟨fun hstarted hissued htr hsv => ?_, fun l0 hstarted hend => ?_⟩,
    fun k s w l e o set hrun hq hact hfin =>
      ⟨fun hstarted hissued hsparse hsw hrows htr hsv hset => ?_, fun t0 hstarted hbroken hend => ?_⟩,
    fun b op pred int col set m xs j => ⟨fun hj => ?_, fun hj => ?_⟩,
    fun k s w l e bank dst mode f int32 h hrun hq hact hstarted hhold =>
      ⟨fun hmode => ?_, fun hmode hfin hmakeup => ?_⟩,
    fun k s w l e bank dst mode t0 f int32 hrun hq hact hstarted hend => ?_⟩
  · obtain ⟨d, hexec, harr⟩ := execArrLdshStart_of hrun hq hact hstarted hissued htr hsv
    exact ⟨_, hexec, rfl, by rw [State.core_setCore_same, harr]⟩
  · obtain ⟨d, hexec, harr⟩ := execArrLdshComplete_of hrun hq hact hstarted hend
    obtain ⟨hcore, hmem, -⟩ := State.arrSettle_setCore s (j := k.val) (.inl (congrArg (·.queue) harr))
    exact ⟨_, hexec, hmem, (congrArg Core.arr hcore).trans harr⟩
  · obtain ⟨t, r, x, hexec, hmem, hcore⟩ :=
      execArrPassStart_of hrun hq hact hfin hstarted hissued hsparse hsw hrows htr hsv hset
    have harr := (congrArg Core.arr hcore).trans (Core.arr_passed hq)
    refine ⟨t, passSats (s.core k.val) l o set, hexec, hmem, length_passSats_of_dense set hsparse, congrArg (·.queue) harr,
      fun n => ?_, ?_, by rw [hcore]; rfl⟩
    · rw [harr]
      exact congrArg (Bank.at · n) (ArrState.bankOf_setBankOf_same _ _ _)
    · rw [harr]
      exact ArrState.tr_setBankOf _ _ _
  · obtain ⟨d, hexec, harr⟩ := execArrPassComplete_of hrun hq hact hstarted hbroken hend
    obtain ⟨hcore, hmem, hregs⟩ :=
      State.arrSettle_setCore (s.notePass k.val e) (j := k.val) (.inl (congrArg (·.queue) harr))
    refine ⟨_, hexec, hmem, ?_, (congrArg Core.arr hcore).trans harr⟩
    rw [State.counter, hregs]
    exact State.counter_notePass hstarted (by omega)
  · rw [Bank.at_feed, if_pos ⟨by omega, by omega⟩, Nat.add_sub_cancel_left]
  · rw [Bank.at_feed, if_neg (by omega)]
  · subst hmode
    obtain ⟨d, hexec, hqueue, hbank, hsp⟩ := execArrDrainStart_discard hrun hq hact hstarted hhold
    obtain ⟨hcore, hmem, -⟩ := State.arrSettle_setCore s (j := k.val) (.inl hqueue)
    exact ⟨_, hexec, hmem, by rw [hcore, hqueue], by rw [hcore, hbank], by rw [hcore, hsp]⟩
  · obtain ⟨d, hexec, hrest, hbank, hqueue, hsp, hscratch⟩ :=
      execArrDrainStart_begins hrun hq hact hstarted hfin hhold hmode hmakeup
    obtain ⟨hcore, hmem, -⟩ := State.arrSettle_setCore s (j := k.val) hrest
    exact ⟨_, hexec, hmem, by rw [hcore, hbank], by rw [hcore, hqueue], by rw [hcore, hsp], by rw [hcore, hscratch]⟩
  · obtain ⟨d, hexec, hscratch, harr⟩ := execArrDrainComplete_of hrun hq hact hstarted hend
    obtain ⟨hcore, hmem, -⟩ := State.arrSettle_setCore s (j := k.val) (c := d) (.inl (congrArg (·.queue) harr))
    refine ⟨_, hexec, hmem, ?_, fun a ha => ?_, (congrArg Core.arr hcore).trans harr⟩
    · rw [hcore, Core.scrRead_congr hscratch]
      exact Core.scrRead_scrWrite_same _ _ _
    · rw [hcore, Core.scrRead_congr hscratch]
      exact Core.scrRead_scrWrite_out _ ha

end Sys2Proof.Proofs.MatrixArray

namespace Sys2Proof.Machine

/-!
## The sparsity unit (R284 to R288, R293)
-/

/-- Updates at different keys, one after the other: each acts on what stood there before. -/
theorem Tab.get_foldl_update {key : Nat → Nat} (hkey : Function.Injective key) (g : Nat → Nat) {ms : List Nat}
    (hnodup : ms.Nodup) (t : Tab Nat) (m : Nat) :
    Tab.get 0 (ms.foldl (fun t m => Tab.set 0 t (key m) (g (Tab.get 0 t (key m)))) t) (key m) =
      if m ∈ ms then g (Tab.get 0 t (key m)) else Tab.get 0 t (key m) := by
  induction ms generalizing t with
  | nil => rfl
  | cons x ms ih =>
    obtain ⟨hx, hnodup⟩ := List.nodup_cons.1 hnodup
    rw [List.foldl_cons, ih hnodup]
    by_cases hm : m = x
    · subst hm
      simp [hx]
    · rw [Tab.get_set_ne _ _ _ _ fun h => hm (hkey h).symm]
      simp [hm]

/-! ### Estimates (R287) -/

/-- Steps that each change the accumulators alone. -/
theorem SpState.foldl_accumulates {α : Type} {f : SpState → α → SpState}
    (h : ∀ q a, ∃ est bound, f q a = { q with est := est, bound := bound }) (as : List α) (p : SpState) :
    ∃ est bound, as.foldl f p = { p with est := est, bound := bound } := by
  refine foldl_keeps (fun q : SpState => ∃ est bound, q = { p with est := est, bound := bound }) f (fun q a hq => ?_) as p
    ⟨p.est, p.bound, rfl⟩
  obtain ⟨est, bound, rfl⟩ := hq
  exact h _ a

/-- The estimates of rows change the accumulators alone. -/
theorem SpState.foldl_estRow (x w : TileSet) (ms : List Nat) (p : SpState) :
    ∃ est bound, ms.foldl (fun q m => q.estRow x w m) p = { p with est := est, bound := bound } := by
  refine SpState.foldl_accumulates (fun q m => ?_) ms p
  unfold SpState.estRow
  exact SpState.foldl_accumulates (fun _ _ => ⟨_, _, rfl⟩) _ q

/-- An sp.est that adds to no round opens one, over the rows predicted inactive. -/
theorem Core.doEst_opens (c : Core) (l : Launch) (lim pid slot rows : Nat) :
    ∃ est bound, c.doEst l lim pid slot rows false = { c with sp := { c.sp with
      rounds := { pid := pid, rows := rows, pred := c.predicted lim pid rows, ests := 1 } ::
        c.sp.rounds.filter (·.pid ≠ pid)
      open_ := some pid, est := est, bound := bound } } := by
  unfold Core.doEst
  extract_lets _ opened
  split
  next w _ =>
    obtain ⟨est, bound, h⟩ := SpState.foldl_estRow (c.tileOf l slot .e2m1) w (c.estimated lim pid rows false) opened
    exact ⟨est, bound, by rw [h]; rfl⟩
  next => exact ⟨[], [], rfl⟩

/-! ### Entries that take effect (R285) -/

section
variable {s : State} {k : Nat} {l : Launch} {e : ArrEntry}

theorem State.sp_takeEffect_filt {pid : Nat} {mode : FiltMode} (h : e.act = .filt pid mode) :
    ((s.takeEffect k l e).core k).sp = { (s.core k).sp with filtPid := pid, filt := mode } := by
  simp only [State.takeEffect, h, State.core_setCore_same]
  rfl

theorem State.sp_takeEffect_ldw {slot : Nat} (h : e.act = .ldw slot) :
    ((s.takeEffect k l e).core k).sp = { (s.core k).sp with estTile := some ((s.core k).tileOf l slot .e2m1) } := by
  simp only [State.takeEffect, h, State.core_setCore_same]
  rfl

/-- An sp.stat shows the mispredictions up to its own cycle. -/
theorem State.takeEffect_mispStat {d : Nat} {ts : List Nat} (h : e.act = .stat d ts none) (hd : d < 256) :
    ((s.takeEffect k l e).core k).sp = (s.core k).sp ∧
      (∀ x, x ∈ ts → ((s.takeEffect k l e).core k).reg x d = BitVec.ofNat 32 (min 0xFFFFFFFF (s.core k).sp.misp)) ∧
      (∀ x r, r < 256 → x ∉ ts ∨ r ≠ d → ((s.takeEffect k l e).core k).reg x r = (s.core k).reg x r) := by
  obtain ⟨regs, heq, hin, hout⟩ := Core.forThreads_setReg ((s.core k).dropEntry e) ts
    (BitVec.ofNat 32 (min 0xFFFFFFFF (s.core k).sp.misp)) hd
  have hcore : (s.takeEffect k l e).core k = { (s.core k).dropEntry e with regs := regs } := by
    simp only [State.takeEffect, h, State.core_setCore_same, Option.getD_none]
    exact heq
  rw [hcore]
  exact ⟨rfl, hin, hout⟩

end

/-! ### Checks (R288, R293) -/

/-- The sparsity unit after a check that certifies the rows `good` of a round and finds the rows `bad` active. -/
def SpState.judged (p : SpState) (pid : Nat) (good bad : List Nat) : SpState :=
  { p with
    cnt := bad.foldl (fun t m => Tab.set 0 t (128 * pid + m) 0)
      (good.foldl (fun t m => Tab.set 0 t (128 * pid + m) (min 3 (Tab.get 0 t (128 * pid + m) + 1))) p.cnt)
    est := if p.open_ = some pid then [] else p.est, bound := if p.open_ = some pid then [] else p.bound
    open_ := if p.open_ = some pid then none else p.open_
    misp := p.misp + bad.length
    rounds := p.rounds.map (fun x =>
      if x.pid = pid then { x with checked := true, makeup := (x.makeup ++ bad).dedup } else x) }

/-- The event of a misprediction leaves the sparsity unit. -/
theorem State.sp_mispredictEvent (s : State) (k : Nat) : ((s.mispredictEvent k).core k).sp = (s.core k).sp := by
  have hnoted : ∀ n, ((s.setCore k { s.core k with mispTick := n }).core k).sp = (s.core k).sp := fun n => by
    rw [State.core_setCore_same]
  simp only [State.mispredictEvent]
  split
  · rw [State.core_of_bench (State.raise_bench _ _ _ _)]
    exact hnoted _
  · exact hnoted _

theorem State.sp_doChk {s : State} {k pid : Nat} {r : Round} (h : (s.core k).sp.rounds.find? (·.pid = pid) = some r) :
    ((s.doChk k pid).core k).sp =
      (s.core k).sp.judged pid (r.pred.filter (s.certifies k pid)) (r.pred.filter (fun m => !(s.certifies k pid m))) := by
  have hdone : ∀ (t : State) (c : Core) (b b' b'' : Block) (o o' o'' n n' n'' : Nat),
      ((((t.setCore k c).addCount b k o n).addCount b' k o' n').addCount b'' k o'' n'').core k = c :=
    fun t c _ _ _ _ _ _ _ _ _ => State.core_setCore_same t k c
  simp only [State.doChk, h]
  split
  · rw [hdone]
    rfl
  · rw [State.sp_mispredictEvent, hdone]
    rfl

section
variable {p : SpState} {pid m : Nat} {pred : List Nat} {cert : Nat → Bool}

/-- A certified row's counter rises, up to 3, and that of a row found active is 0 again. -/
theorem SpState.cnt_judged (hnodup : pred.Nodup) (hm : m ∈ pred) :
    Tab.get 0 (p.judged pid (pred.filter cert) (pred.filter (fun m => !(cert m)))).cnt (128 * pid + m) =
      if cert m then min 3 (Tab.get 0 p.cnt (128 * pid + m) + 1) else 0 := by
  have hkey : Function.Injective (128 * pid + ·) := fun _ _ h => Nat.add_left_cancel h
  have hbad := Tab.get_foldl_update hkey (fun _ => 0) (hnodup.filter (fun m => !(cert m)))
  have hgood := Tab.get_foldl_update hkey (fun n => min 3 (n + 1)) (hnodup.filter cert)
  simp only [SpState.judged, hbad, hgood, List.mem_filter, hm, true_and]
  cases cert m <;> simp

/-- The round that was checked says so, and its rows found active wait for make-up. -/
theorem SpState.exists_round_judged {r : Round} {good bad : List Nat} (h : p.rounds.find? (·.pid = pid) = some r) :
    ∃ y ∈ (p.judged pid good bad).rounds, y.pid = pid ∧ y.checked = true ∧ y.makeup = (r.makeup ++ bad).dedup := by
  have hpid : r.pid = pid := by simpa using List.find?_some h
  refine ⟨_, List.mem_map_of_mem (List.mem_of_find?_eq_some h), ?_⟩
  rw [if_pos hpid]
  exact ⟨hpid, rfl, rfl⟩

end

end Sys2Proof.Machine

namespace Sys2Proof.Proofs.ActivationSparsity
open Sys2Proof Sys2Proof.Machine

/-- Settles O39: an instruction that passes its checks joins the queue; a check judges each row of its round by what
`State.certifies` says of it. -/
theorem sparsityIssue : Obligations.SparsityIssue := by
  refine ⟨fun o pid mode s i lf z h hpid hmode => ⟨_, rfl, State.arrIssue_queues h ?_⟩,
    fun o slot s i lf z h hslot htr hsv => ⟨_, rfl, State.tryIssue_queues h ?_⟩,
    fun o pid slot rows add a s i lf z h hchk => ⟨_, rfl, State.tryIssue_queues h hchk⟩,
    fun o pid s i lf z h hpid hround => ⟨_, rfl, State.arrIssue_queues h ?_⟩,
    fun o d s i lf z h => ⟨_, rfl, State.arrIssue_queues h rfl⟩,
    fun c l lim pid slot rows _ => ?_, fun s k l e => ⟨fun pid mode hact => ?_,
      fun slot hact => ?_, fun d ts hact hd => ?_⟩,
    fun s k pid r hround hnodup => ⟨fun hopen => ⟨?_, fun m => ?_⟩, fun m hm => ?_, ?_, State.doChk_mem .., ?_⟩⟩
  · exact if_neg (by simpa using ⟨hpid, hmode⟩)
  · simp [ArrTry.check, Proj.ldwCheck, htr, hsv, Nat.not_le.2 hslot]
  · exact if_neg (by rw [hround]; simpa using hpid)
  · obtain ⟨est, bound, h⟩ := c.doEst_opens l lim pid slot rows
    rw [h]
    exact ⟨rfl, rfl, rfl, rfl⟩
  · exact State.sp_takeEffect_filt hact
  · exact State.sp_takeEffect_ldw hact
  · exact State.takeEffect_mispStat hact hd
  · rw [State.sp_doChk hround]
    exact if_pos hopen
  · rw [State.certifies, if_pos hopen]
  · rw [State.sp_doChk hround]
    exact SpState.cnt_judged hnodup hm
  · rw [State.sp_doChk hround]
    rfl
  · rw [State.sp_doChk hround]
    exact SpState.exists_round_judged hround

end Sys2Proof.Proofs.ActivationSparsity

namespace Sys2Proof.Machine

/-!
## Entries of a slice (R319, R323)
-/

section
variable (x : Slice) (l : LLine)

theorem Slice.find_put_same : (x.put l).find l.line = some l := by
  unfold Slice.put
  split
  next hany =>
    have hsame : ((fun m : LLine => decide (m.line = l.line)) ∘ fun m => if m.line = l.line then l else m) =
        fun m => decide (m.line = l.line) := by
      funext m
      by_cases hm : m.line = l.line <;> simp [hm]
    obtain ⟨m, hm⟩ := Option.isSome_iff_exists.1 ((List.find?_isSome (p := fun m : LLine => decide (m.line = l.line))).2
      (List.any_eq_true.1 hany))
    have hline : m.line = l.line := by simpa using List.find?_some hm
    rw [Slice.find, List.find?_map, hsame, hm, Option.map_some, if_pos hline]
  next => exact List.find?_cons_of_pos (by simp)

theorem Slice.find_put_ne {n : Nat} (h : n ≠ l.line) : (x.put l).find n = x.find n := by
  unfold Slice.put
  split
  next =>
    have hsame : ((fun m : LLine => decide (m.line = n)) ∘ fun m => if m.line = l.line then l else m) =
        fun m => decide (m.line = n) := by
      funext m
      by_cases hm : m.line = l.line <;> simp [hm]
    rw [Slice.find, List.find?_map, hsame, ← Slice.find]
    cases hfind : x.find n with
    | none => rfl
    | some m =>
      have hline : m.line = n := by simpa using List.find?_some hfind
      rw [Option.map_some, if_neg (hline ▸ h)]
  next => exact List.find?_cons_of_neg (by simpa using h.symm)

end

section
variable (s : State) (l : LLine)

@[simp] theorem State.lline_putLine_same : (s.putLine l).lline l.line = some l := by
  rw [State.lline, State.putLine, State.slice_setSlice_same, Slice.find_put_same]

theorem State.lline_putLine_ne {n : Nat} (h : n ≠ l.line) : (s.putLine l).lline n = s.lline n := by
  rw [State.lline, State.putLine, State.slice_setSlice]
  split
  next hd => rw [Slice.find_put_ne _ _ h, hd, State.lline]
  next => rfl

end


theorem State.lline_bumpClock (s : State) (d n : Nat) : (s.bumpClock d).lline n = s.lline n := by
  rw [State.lline, State.bumpClock, State.slice_setSlice]
  split
  next hd => subst hd; rfl
  next => rfl

theorem State.waitq_putLine (s : State) (l : LLine) (d : Nat) :
    ((s.putLine l).slice d).waitq = (s.slice d).waitq := by
  have hput : ∀ x : Slice, (x.put l).waitq = x.waitq := fun x => by
    unfold Slice.put
    split <;> rfl
  rw [State.putLine, State.slice_setSlice]
  split
  next hd => rw [hput, hd]
  next => rfl

theorem State.waitq_bumpClock (s : State) (e d : Nat) : ((s.bumpClock e).slice d).waitq = (s.slice d).waitq := by
  rw [State.bumpClock, State.slice_setSlice]
  split
  next hd => subst hd; rfl
  next => rfl

/-! ### An add to a RED line on which nothing is in progress (R325) -/

section
variable {s : State} {l : LLine}

theorem State.giveWays_of_no_wait {d : Nat} (h : (s.slice d).waitq = []) (n set : Nat) : s.giveWays n d set = s := by
  cases n with
  | zero => rfl
  | succ n =>
    simp only [State.giveWays, h, List.find?_nil]
    cases (s.slice d).openWay set <;> rfl

/-- Nothing follows where no request waits at the line or at its slice (R323). -/
theorem State.settleLine_of_free (hline : s.lline l.line = some l) (hop : l.op = none) (hqueue : l.queue = [])
    (hwait : (s.slice (homeDie l.line)).waitq = []) : s.settleLine l.line = s := by
  have hdrain : State.drainLine (l.queue.length + 1) s l.line = s := by
    simp only [State.drainLine, hline, hop, hqueue]
  simp only [State.settleLine, hline, hdrain]
  exact State.giveWays_of_no_wait hwait _ _

/-- The line after an add that its slice performs in its turn `n`. -/
def LLine.added (l : LLine) (es : List (Nat × Word)) (n : Nat) : LLine :=
  { l with used := n, sect := l.sect ||| elemSectors l.dt es, data := addElems l.dt l.data es }

/-- A request that finds its line at rest enters it twice, with its turn and as it leaves it; no other line changes. -/
def State.turnLine (s : State) (l m : LLine) : State := ((s.bumpClock (homeDie l.line)).putLine l).putLine m

/-- The slices alone change. -/
theorem State.turnLine_eq (s : State) (l m : LLine) : ∃ x, s.turnLine l m = { s with slices := x } := by
  have hput : ∀ (t : State) (n : LLine), ∃ x, t.putLine n = { t with slices := x } := fun _ _ => ⟨_, rfl⟩
  obtain ⟨x, hx⟩ := hput (s.bumpClock (homeDie l.line)) l
  obtain ⟨y, hy⟩ := hput ((s.bumpClock (homeDie l.line)).putLine l) m
  exact ⟨y, by rw [State.turnLine, hy, hx]; rfl⟩

theorem State.lline_turnLine_same (s : State) (l m : LLine) : (s.turnLine l m).lline m.line = some m :=
  State.lline_putLine_same _ m

theorem State.lline_turnLine_ne (s : State) {l m : LLine} (h : m.line = l.line) {n : Nat} (hn : n ≠ l.line) :
    (s.turnLine l m).lline n = s.lline n := by
  rw [State.turnLine, State.lline_putLine_ne _ m (by rwa [h]), State.lline_putLine_ne _ l hn, State.lline_bumpClock]

theorem State.waitq_turnLine (s : State) (l m : LLine) (d : Nat) :
    ((s.turnLine l m).slice d).waitq = (s.slice d).waitq := by
  rw [State.turnLine, State.waitq_putLine, State.waitq_putLine, State.waitq_bumpClock]

theorem State.lline_congr {s t : State} (h : t.slices = s.slices) (n : Nat) : t.lline n = s.lline n := by
  simp only [State.lline, State.slice, h]

/-- A line is calm where its slice is the same. -/
theorem State.calm_congr {s t : State} (h : t.slices = s.slices) {l : LLine} : t.calm l ↔ s.calm l := by
  simp only [State.calm, State.freeSlice, State.lline_congr h, State.slice, h]

theorem State.nextUse_congr {s t : State} (h : t.slices = s.slices) (n : Nat) : t.nextUse n = s.nextUse n := by
  simp only [State.nextUse, State.slice, h]

theorem State.perform_aadd_of_red (hred : l.st = .red) (who : Agent) (es : List (Nat × Word)) :
    s.perform l (.aadd who l.dt es) = ((s.turnLine { l with used := s.nextUse l.line }
      (l.added es (s.nextUse l.line))).llcCount l.line 0x810).llcCount l.line 0x804 := by
  have hclock : ((s.bumpClock (homeDie l.line)).slice (homeDie l.line)).clock = s.nextUse l.line := by
    rw [State.bumpClock, State.slice_setSlice_same]
  unfold State.perform
  simp only [hclock]
  split
  case h_4 => exact if_pos rfl
  all_goals next h => cases hred.symm.trans h

/-- A count at a slice is none of a marble run's emissions. -/
theorem State.counter_llcCount (s : State) (line d : Nat) {off : Nat} (h : off % 4096 ≠ 0x80C) :
    (s.llcCount line off).counter .marble d 0x80C = s.counter .marble d 0x80C := by
  refine State.counter_addCount_ne _ _ ?_
  unfold regKey
  omega

/-- The slice performs the add at once, and counts it. -/
theorem State.arrive_aadd_of_red (hcalm : s.calm l) (hred : l.st = .red) (who : Agent) (es : List (Nat × Word)) :
    ∃ t, s.arrive l.line (.aadd who l.dt es) = t ∧ s.actsAt t l.line ∧ t.marbles = s.marbles ∧
      (∀ d, t.counter .marble d 0x80C = s.counter .marble d 0x80C) ∧
      t.lline l.line = some (l.added es (s.nextUse l.line)) := by
  obtain ⟨hline, hop, hqueue, -, hwait, -⟩ := hcalm
  have hperform := State.perform_aadd_of_red (s := s) hred who es
  have hsame := s.lline_turnLine_same { l with used := s.nextUse l.line } (l.added es (s.nextUse l.line))
  have hother := fun n => s.lline_turnLine_ne (l := { l with used := s.nextUse l.line })
    (m := l.added es (s.nextUse l.line)) rfl (n := n)
  have hwaitq := s.waitq_turnLine { l with used := s.nextUse l.line } (l.added es (s.nextUse l.line)) (homeDie l.line)
  obtain ⟨x, hx⟩ := s.turnLine_eq { l with used := s.nextUse l.line } (l.added es (s.nextUse l.line))
  generalize s.turnLine { l with used := s.nextUse l.line } (l.added es (s.nextUse l.line)) = u at *
  refine ⟨(u.llcCount l.line 0x810).llcCount l.line 0x804, ?_, ⟨hother, (congrArg State.mem hx :),
    (congrArg State.cores hx :)⟩, (congrArg State.marbles hx :), fun d => ?_, hsame⟩
  · simp only [State.arrive, hline, State.atEntry, hop, hperform]
    exact State.settleLine_of_free (s := (u.llcCount l.line 0x810).llcCount l.line 0x804)
      (l := l.added es (s.nextUse l.line)) hsame hop hqueue (hwaitq.trans hwait)
  · rw [State.counter_llcCount _ _ _ (by decide), State.counter_llcCount _ _ _ (by decide), hx]
    rfl

end

end Sys2Proof.Machine

namespace Sys2Proof.Machine

/-!
## Marble runs: windows that close and are emitted (R297, R300, R302, R303)
-/

/-- The add of a window that holds one entry. -/
def MEntry.add (e : MEntry) : WindowAdd :=
  { line := e.addr / 128, t := e.t, elems := [(e.addr % 128 / DType.bytes e.t, e.v)], of := [e] }

theorem windowAdds_singleton (e : MEntry) : windowAdds [e] = [e.add] := by
  simp [windowAdds, MEntry.add, sumDups]

section
variable {s : State} {die : DieId} {e : MEntry}

/-- The filling window of a run closes, with the cycle. -/
def State.closeFill (s : State) (d : Nat) : State :=
  s.setMarble d { s.marble d with
    fill := [], closed := (s.marble d).closed ++ [(s.now, (s.marble d).fill)] }

theorem State.closeFill_spec (s : State) (d : Nat) :
    s.closeFill d = { s with marbles := (s.closeFill d).marbles } ∧ ((s.closeFill d).marble d).fill = [] ∧
      ((s.closeFill d).marble d).closed = (s.marble d).closed ++ [(s.now, (s.marble d).fill)] ∧
      ∀ j, j ≠ d → (s.closeFill d).marble j = s.marble j := by
  have hself : (s.closeFill d).marble d = { s.marble d with
      fill := [], closed := (s.marble d).closed ++ [(s.now, (s.marble d).fill)] } := State.marble_setMarble_same _ _ _
  exact ⟨rfl, by rw [hself], by rw [hself], fun j hj => (State.marble_setMarble _ _ _ _).trans (if_neg hj.symm)⟩

theorem execMarbleWindowTimeout_of (hfill : (s.marble die.val).fill ≠ []) (hroom : (s.marble die.val).closed.length ≤ 1)
    (hold : 8192 ≤ 3 * (s.now - (s.marble die.val).first)) :
    exec (.marbleWindowTimeout die) s = .next (s.closeFill die.val) :=
  congrArg Host.Outcome.next (if_pos (by simp [hfill, hroom, hold]))

theorem execMarbleJobInputEnd_of {id : Nat} {w : Work} {l : Launch} (hwork : s.work id = some w) (hjob : w.job = .launch l)
    (hputs : l.puts = true) (hended : l.ended.length = l.list.length)
    (hentry : ∃ e ∈ (s.marble die.val).fill, e.job = id) (hroom : (s.marble die.val).closed.length ≤ 1) :
    exec (.marbleJobInputEnd die id) s = .next (s.closeFill die.val) := by
  have hinput : w.job.inputEnded = true := by
    rw [hjob, Job.inputEnded, hputs, hended]
    simp
  have hany : (s.marble die.val).fill.any (·.job = id) = true := by simpa using hentry
  have hclose : s.closeFor die.val id = s.closeFill die.val := if_pos (by rw [hany]; simpa using hroom)
  refine congrArg Host.Outcome.next ?_
  simp only [hwork, hjob]
  rw [← hjob, if_pos hinput, hclose]

theorem execMarbleJobEnd_of {id : Nat} {w : Work} (hwork : s.work id = some w) (hinput : w.job.inputEnded = true)
    (hgone : s.noEntries id = true) : exec (.marbleJobEnd id) s = .next (s.endWork w stEnded) := by
  refine congrArg Host.Outcome.next ?_
  simp only [hwork, hinput, hgone]
  rfl

/-! ### Emission (R300, R302) -/

/-- An entry's add has no slot of the span, or its slice does not take it. -/
theorem State.emitAdd_of_held {d : Nat} {waiting : List Nat} (left : List MEntry)
    (h : slotsLeft 256 (s.marbleWeight d) (s.marble d).sent waiting e.part = 0 ∨ s.accepts (e.addr / 128) = false) :
    State.emitAdd d waiting (s, left) e.add = (s, left ++ [e]) :=
  if_pos (by
    rw [Bool.or_eq_true, decide_eq_true_eq, Bool.not_eq_true']
    exact h)

/-- A run at the span in progress. -/
def State.turned (s : State) (d : Nat) : State := s.setMarble d ((s.marble d).turn s.now)

/-- A partition has one more slot of the span, for an add of one entry. -/
def State.takeSlot (s : State) (d p : Nat) : State :=
  ((s.setMarble d { s.marble d with sent := Tab.set 0 (s.marble d).sent p (Tab.get 0 (s.marble d).sent p + 1) }).addCount
    .marble d 0x80C 1).addCount .marble d 0x808 0

/-- An entry's add takes a slot and reaches its slice. -/
theorem State.emitAdd_of_slot {d : Nat} {waiting : List Nat} (left : List MEntry)
    (hslot : slotsLeft 256 (s.marbleWeight d) (s.marble d).sent waiting e.part ≠ 0)
    (haccepts : s.accepts (e.addr / 128) = true) :
    State.emitAdd d waiting (s, left) e.add =
      ((s.takeSlot d e.part).arrive e.add.line (.aadd .marble e.add.t e.add.elems), left) :=
  if_neg (by
    rw [Bool.or_eq_true, decide_eq_true_eq, Bool.not_eq_true', not_or, Bool.not_eq_false]
    exact ⟨hslot, haccepts⟩)

section
variable (s : State) (d p : Nat)

@[simp] theorem State.takeSlot_slices : (s.takeSlot d p).slices = s.slices := by simp [State.takeSlot]
@[simp] theorem State.takeSlot_mem : (s.takeSlot d p).mem = s.mem := by simp [State.takeSlot]
@[simp] theorem State.takeSlot_cores : (s.takeSlot d p).cores = s.cores := by simp [State.takeSlot]
@[simp] theorem State.turned_slices : (s.turned d).slices = s.slices := rfl
@[simp] theorem State.turned_mem : (s.turned d).mem = s.mem := rfl
@[simp] theorem State.turned_cores : (s.turned d).cores = s.cores := rfl

@[simp] theorem State.marble_turned : (s.turned d).marble d = (s.marble d).turn s.now := State.marble_setMarble_same _ _ _

end

theorem State.marble_takeSlot (s : State) (d p : Nat) : (s.takeSlot d p).marble d = { s.marble d with
    sent := Tab.set 0 (s.marble d).sent p (Tab.get 0 (s.marble d).sent p + 1) } := State.marble_setMarble_same _ _ _

theorem State.counter_takeSlot (s : State) (d p : Nat) :
    (s.takeSlot d p).counter .marble d 0x80C = s.counter .marble d 0x80C + 1 := by
  have hkey : regKey .marble d 0x808 ≠ regKey .marble d 0x80C := by
    unfold regKey
    omega
  rw [State.takeSlot, State.counter_addCount_ne _ _ hkey, State.counter_addCount_same]
  rfl

/-- The one closed window of a run, with one entry, is emitted from its cycle on. -/
theorem execMarbleWindowEmit_of_one {at_ : Nat} (hclosed : (s.marble die.val).closed = [(at_, [e])])
    (hdue : 256 ≤ 3 * (s.now - at_)) (hhold : s.inHold .marble die.val = false) {u : State} {left : List MEntry}
    (hemit : State.emitAdd die.val [e.part] (s.turned die.val, []) e.add = (u, left)) :
    exec (.marbleWindowEmit die) s = .next (u.setMarble die.val { u.marble die.val with
      closed := if left = [] then [] else [(at_, left)] }) := by
  have hnone : ¬3 * (s.now - at_) < 256 := Nat.not_lt.2 hdue
  have hdone : execMarbleWindowEmit die s = .next (u.setMarble die.val { u.marble die.val with
      closed := if left = [] then [] else [(at_, left)] }) := by
    rw [State.turned] at hemit
    simp [execMarbleWindowEmit, hclosed, hdue, hhold, hnone, State.emitWindow, windowAdds_singleton, hemit]
  exact hdone

/-- The add of a window's one entry reaches a RED line of its type on which nothing is in progress. -/
theorem execMarbleWindowEmit_of_red {at_ : Nat} {l : LLine} (hclosed : (s.marble die.val).closed = [(at_, [e])])
    (hdue : 256 ≤ 3 * (s.now - at_)) (hhold : s.inHold .marble die.val = false)
    (hslot : slotsLeft 256 (s.marbleWeight die.val) ((s.marble die.val).turn s.now).sent [e.part] e.part ≠ 0)
    (haccepts : s.accepts (e.addr / 128) = true) (hline : l.line = e.addr / 128) (hcalm : s.calm l) (hred : l.st = .red)
    (hdt : l.dt = e.t) :
    ∃ t, exec (.marbleWindowEmit die) s = .next t ∧ s.actsAt t (e.addr / 128) ∧ (t.marble die.val).closed = [] ∧
      t.counter .marble die.val 0x80C = s.counter .marble die.val 0x80C + 1 ∧
      Tab.get 0 (t.marble die.val).sent e.part = Tab.get 0 ((s.marble die.val).turn s.now).sent e.part + 1 ∧
      t.lline (e.addr / 128) = some (l.added e.add.elems (s.nextUse (e.addr / 128))) := by
  rw [← State.marble_turned] at hslot ⊢
  have hemit := State.emitAdd_of_slot (s := s.turned die.val) [] hslot haccepts
  set v := (s.turned die.val).takeSlot die.val e.part with hv
  have hslices : v.slices = s.slices := by simp [hv]
  obtain ⟨t, harrive, ⟨hother, hmem, hcores⟩, hmarbles, hcount, hsame⟩ :=
    State.arrive_aadd_of_red ((State.calm_congr hslices).2 hcalm) hred .marble e.add.elems
  rw [hline] at harrive hother hsame
  rw [hdt] at harrive
  rw [State.nextUse_congr hslices] at hsame
  have hmarble : t.marble die.val = v.marble die.val := by rw [State.marble, hmarbles, State.marble]
  refine ⟨_, execMarbleWindowEmit_of_one hclosed hdue hhold (hemit.trans (congrArg (·, []) harrive)),
    ⟨fun n hn => (hother n hn).trans (State.lline_congr hslices n), hmem.trans (by simp [hv]),
      hcores.trans (by simp [hv])⟩, ?_, ?_, ?_, hsame⟩
  · rw [State.marble_setMarble_same, if_pos rfl]
  · exact (hcount die.val).trans (State.counter_takeSlot _ _ _)
  · simp only [State.marble_setMarble_same, hmarble, hv, State.marble_takeSlot, Tab.get_set_same]

end

end Sys2Proof.Machine

namespace Sys2Proof.Proofs.ActivationSparsity
open Sys2Proof Sys2Proof.Machine

/-- Settles O42: a window that is due closes, and its one add takes a slot of the span and is performed at once on a RED
line on which nothing is in progress; without a slot, or room at the slice, the window keeps its entry. -/
theorem marbleWindows : Obligations.MarbleWindows := by
  refine ⟨fun d s hfill hroom hold => ?_, fun d id s w l hwork hjob hputs hended hentry hroom => ?_,
    fun d s at_ e l hclosed hdue hhold hslot haccepts hline hcalm hred hdt => ?_,
    fun d s at_ e hclosed hdue hhold hheld => ?_, fun id s w hwork hinput hgone => ?_⟩
  · exact ⟨_, execMarbleWindowTimeout_of hfill hroom hold, s.closeFill_spec d.val⟩
  · obtain ⟨heq, hfill, hclosed, -⟩ := s.closeFill_spec d.val
    exact ⟨_, execMarbleJobInputEnd_of hwork hjob hputs hended hentry hroom, heq, hfill, hclosed⟩
  · obtain ⟨t, hexec, hrest⟩ := execMarbleWindowEmit_of_red hclosed hdue hhold hslot haccepts hline hcalm hred hdt
    have hadded : l.added e.add.elems (s.nextUse (e.addr / 128)) = { l with
        sect := l.sect ||| elemSectors e.t [(e.addr % 128 / DType.bytes e.t, e.v)]
        data := addElems e.t l.data [(e.addr % 128 / DType.bytes e.t, e.v)], used := s.nextUse (e.addr / 128) } := by
      simp only [LLine.added, MEntry.add, hdt]
    rw [← hadded]
    exact ⟨t, hexec, hrest⟩
  · have hemit : State.emitAdd d.val [e.part] (s.turned d.val, []) e.add = (s.turned d.val, [e]) :=
      State.emitAdd_of_held [] (by rw [State.marble_turned]; exact hheld)
    refine ⟨_, execMarbleWindowEmit_of_one hclosed hdue hhold hemit, rfl, ?_⟩
    rw [State.marble_setMarble_same, if_neg (List.cons_ne_nil _ _)]
  · refine ⟨_, execMarbleJobEnd_of hwork hinput hgone, fun v hv => ?_⟩
    rw [State.endWork_works] at hv
    simpa using (List.mem_filter.1 hv).2

end Sys2Proof.Proofs.ActivationSparsity

namespace Sys2Proof.Machine

/-!
## What an agent's reads leave of the cores (R316 to R318, R325)

A read at a home slice may take a core's copy of a line, or make it shared; the core keeps everything else.
-/

/-- A core but for its L1. -/
def State.sansL1 (s : State) (k : Nat) : Core := { s.core k with l1 := [] }

section
variable {s t : State}

theorem State.sansL1_of_cores (h : t.cores = s.cores) : t.sansL1 = s.sansL1 := by
  funext k
  simp only [State.sansL1, State.core, h]

theorem State.sansL1_of_bench (h : t.bench = s.bench) : t.sansL1 = s.sansL1 :=
  State.sansL1_of_cores (congrArg State.cores h :)

theorem State.regs_of_sansL1 (h : t.sansL1 = s.sansL1) (k : Nat) : (t.core k).regs = (s.core k).regs :=
  (congrArg (fun f : Nat → Core => (f k).regs) h :)

theorem State.scratch_of_sansL1 (h : t.sansL1 = s.sansL1) (k : Nat) : (t.core k).scratch = (s.core k).scratch :=
  (congrArg (fun f : Nat → Core => (f k).scratch) h :)

theorem State.sansL1_ite {c : Prop} [Decidable c] {a b : State} (ha : a.sansL1 = s.sansL1) (hb : b.sansL1 = s.sansL1) :
    (if c then a else b).sansL1 = s.sansL1 := by
  split
  · exact ha
  · exact hb

theorem State.addCount_sansL1 (s : State) (b : Block) (i off n : Nat) : (s.addCount b i off n).sansL1 = s.sansL1 :=
  State.sansL1_of_cores rfl

theorem State.touchLine_sansL1 (s : State) (l : LLine) : (s.touchLine l).sansL1 = s.sansL1 :=
  State.sansL1_of_cores rfl

theorem State.dropLine_sansL1 (s : State) (line : Nat) : (s.dropLine line).sansL1 = s.sansL1 :=
  State.sansL1_of_cores rfl

theorem State.countServed_sansL1 (s : State) (line : Nat) (r : Bool) : (s.countServed line r).sansL1 = s.sansL1 :=
  State.sansL1_of_cores rfl

/-- A core whose L1 changes. -/
theorem State.sansL1_setCore (k : Nat) (x : List L1Line) : (s.setCore k { s.core k with l1 := x }).sansL1 = s.sansL1 := by
  funext j
  rw [State.sansL1, State.core_setCore]
  split
  next hk => rw [State.sansL1, ← hk]
  next => rfl

theorem recallOne_sansL1 (q : State × LLine) (k : Nat) : (recallOne q k).1.sansL1 = q.1.sansL1 := by
  have hdrop : ∀ n, (q.1.setCore k ((q.1.core k).l1Drop n)).sansL1 = q.1.sansL1 := fun n => State.sansL1_setCore k _
  simp only [recallOne]
  split
  · rfl
  · split
    · exact hdrop _
    · exact hdrop _
    · exact hdrop _
    · split
      · exact hdrop _
      · rfl

theorem shareOne_sansL1 (q : State × LLine) (k : Nat) : (shareOne q k).1.sansL1 = q.1.sansL1 := by
  have hput : ∀ n, (q.1.setCore k ((q.1.core k).l1Put n)).sansL1 = q.1.sansL1 := fun n => by
    unfold Core.l1Put
    split <;> exact State.sansL1_setCore k _
  simp only [shareOne]
  split
  · rfl
  · split
    · rfl
    · exact hput _
    · exact hput _
    · rfl

/-- A walk over holders each of which keeps all but its L1. -/
theorem State.snoopAll_sansL1 (s : State) (l : LLine) {f : State × LLine → Nat → State × LLine}
    (h : ∀ (q : State × LLine) (k : Nat), (f q k).1.sansL1 = q.1.sansL1) : (s.snoopAll l f).1.sansL1 = s.sansL1 :=
  foldl_keeps (fun q : State × LLine => q.1.sansL1 = s.sansL1) f (fun q k hq => (h q k).trans hq) _ _ rfl

theorem State.hbmFetch_sansL1 (s : State) (line : Nat) (m : BitVec 4) : (s.hbmFetch line m).sansL1 = s.sansL1 :=
  State.sansL1_of_bench (State.hbmFetch_bench s line m)

theorem State.hbmPut_sansL1 (s : State) (line : Nat) (m : BitVec 4) (d : List Byte) (g : Bool) :
    (s.hbmPut line m d g).sansL1 = s.sansL1 := by
  refine State.sansL1_of_cores ?_
  have hwrite : (s.hbmWrite line m d).cores = s.cores :=
    foldl_keeps (fun t : State => t.cores = s.cores) _ (fun t i ht => by split <;> exact ht) _ s rfl
  unfold State.hbmPut
  split
  · rfl
  · exact hwrite

theorem State.resolve_sansL1 (s : State) (l : LLine) : (s.resolve l).1.sansL1 = s.sansL1 :=
  (State.hbmFetch_sansL1 _ _ _).trans (State.snoopAll_sansL1 s l recallOne_sansL1)

theorem State.evict_sansL1 (s : State) (l : LLine) : (s.evict l).sansL1 = s.sansL1 := by
  have hback : (if l.st = .red then s.resolve l else s.recall l).1.sansL1 = s.sansL1 := by
    split
    · exact State.resolve_sansL1 s l
    · exact State.snoopAll_sansL1 s l recallOne_sansL1
  have hcount := (State.addCount_sansL1 _ .llc (homeDie l.line) 0x818 l.targets.length).trans hback
  refine (State.dropLine_sansL1 _ l.line).trans (State.sansL1_ite ?_ hcount)
  exact (State.hbmPut_sansL1 _ _ _ _ _).trans hcount

theorem State.takeWay_sansL1 {free : Nat → Bool} {line w : Nat} (e : s.takeWay free line = some (t, w)) :
    t.sansL1 = s.sansL1 := by
  simp only [State.takeWay] at e
  split at e
  · cases e
  · split at e
    · cases e; rfl
    · cases e; rfl
    · split at e
      · cases e
      · split at e
        · cases e; exact State.evict_sansL1 s _
        · cases e

theorem State.ardValue_sansL1 {free : Nat → Bool} {l : LLine} {m : BitVec 4} (e : s.ardValue free l m = some t) :
    t.sansL1 = s.sansL1 := by
  simp only [State.ardValue] at e
  split at e
  · cases e
  · cases e
    exact (State.countServed_sansL1 _ _ _).trans ((State.touchLine_sansL1 _ _).trans (State.hbmFetch_sansL1 s _ _))

theorem State.ardLine_sansL1 {free : Nat → Bool} {ctx : Bool} {line : Nat} {m : BitVec 4}
    (e : s.ardLine free ctx line m = some t) : t.sansL1 = s.sansL1 := by
  have hdead : ∀ n f, (s.deadRead n f).sansL1 = s.sansL1 := fun n f => State.sansL1_of_bench (State.deadRead_bench s n f)
  simp only [State.ardLine] at e
  split at e
  · cases e
  · split at e
    · obtain ⟨⟨u, w⟩, hway, hval⟩ := Option.bind_eq_some_iff.1 e
      exact (State.ardValue_sansL1 hval).trans (State.takeWay_sansL1 hway)
    · split at e
      · exact State.ardValue_sansL1 e
      · exact (State.ardValue_sansL1 e).trans (State.snoopAll_sansL1 s _ shareOne_sansL1)
      · exact (State.ardValue_sansL1 e).trans (State.snoopAll_sansL1 s _ shareOne_sansL1)
      · exact (State.ardValue_sansL1 e).trans (State.resolve_sansL1 s _)
      · split at e
        · cases e
          exact hdead _ _
        · exact (State.ardValue_sansL1 e).trans (hdead _ _)
      · cases e

/-- Steps that may have to wait, one after the other. -/
theorem foldl_bind_sansL1 {α : Type} {f : State → α → Option State}
    (h : ∀ (s t : State) (a : α), f s a = some t → t.sansL1 = s.sansL1) (l : List α)
    (e : l.foldl (fun o a => o.bind (fun t => f t a)) (some s) = some t) : t.sansL1 = s.sansL1 := by
  refine foldl_keeps (fun o : Option State => ∀ t, o = some t → t.sansL1 = s.sansL1) _ (fun o a ho t ht => ?_) l (some s)
    (fun t ht => ?_) t e
  · obtain ⟨u, hu, hstep⟩ := Option.bind_eq_some_iff.1 ht
    exact (h u t a hstep).trans (ho u hu)
  · cases ht
    rfl

theorem State.readRange_sansL1 {free : Nat → Bool} {ctx : Bool} {a n : Nat} (e : s.readRange free ctx a n = some t) :
    t.sansL1 = s.sansL1 := by
  simp only [State.readRange] at e
  split at e
  · exact foldl_bind_sansL1 (fun _ _ _ h => State.ardLine_sansL1 h) _ e
  · cases e
    exact State.sansL1_of_bench (State.bench_ite rfl (foldl_bench State.readSector_bench _ s))
  · cases e
    rfl

theorem State.agentReads_sansL1 {ctx : Bool} {ps : List (Nat × Nat)} (e : s.agentReads ctx ps = some t) :
    t.sansL1 = s.sansL1 := foldl_bind_sansL1 (fun _ _ _ h => State.readRange_sansL1 h) ps e

end

end Sys2Proof.Machine

namespace Sys2Proof.Machine

/-!
## Memory instructions that read before they act (R283, R295, R296)
-/

section
variable {s t : State}

theorem State.marble_of_bench (h : t.bench = s.bench) (d : Nat) : t.marble d = s.marble d := by
  have hmarbles : t.marbles = s.marbles := (congrArg State.marbles h :)
  rw [State.marble, hmarbles, State.marble]

theorem State.kparts_of_bench (h : t.bench = s.bench) : t.kparts = s.kparts := (congrArg State.kparts h :)

theorem State.work_of_works (h : t.works = s.works) (id : Nat) : t.work id = s.work id := by
  rw [State.work, h, State.work]

/-- Work that stands in the list takes its new form there. -/
theorem State.work_setWork_same {w v : Work} (h : s.work v.id = some w) : (s.setWork v).work v.id = some v := by
  have hsame : ((fun x : Work => decide (x.id = v.id)) ∘ fun x => if x.id = v.id then v else x) =
      fun x => decide (x.id = v.id) := by
    funext x
    by_cases hx : x.id = v.id <;> simp [hx]
  have hid : w.id = v.id := by simpa using List.find?_some h
  rw [State.work] at h
  rw [State.work, State.setWork, List.find?_map, hsame, h, Option.map_some, if_pos hid]

theorem State.holdAll_bench (s : State) (c : Nat) (as : List (Nat × Nat)) : (s.holdAll c as).bench = s.bench := by
  refine foldl_bench (fun t p => ?_) as s
  split
  · exact State.holdTlb_bench t _ _ _
  · rfl

end

section
variable {s : State} {b : Bundle} {i : Issue} {dst src : List Nat} {kind : IssueKind} {lf : Leaf} {z : Nat}

/-- The work of a bundle that issues is admitted. -/
theorem State.work_of_issues (h : s.issues b dst src kind i lf z) : s.work i.work.id = some i.work := by
  obtain ⟨j, -, hbind⟩ := Option.bind_eq_some_iff.1 (State.bundleOf_spec h.1.1).1
  obtain ⟨w, hw, hmap⟩ := Option.bind_eq_some_iff.1 hbind
  obtain ⟨l, -, heq⟩ := Option.map_eq_some_iff.1 hmap
  obtain ⟨rfl, -⟩ := Prod.mk.inj heq
  have hid : i.work.id = j := by simpa using List.find?_some hw
  rwa [hid]

/-- What an instruction that issues does, in the state that holds its fetch's translation. -/
theorem exec_eq_of_issues {ins : Instr} {f : Issue → State → State} (h : s.issues b dst src kind i lf z)
    (hexec : exec ins s = .next (s.issue b dst src kind f)) :
    exec ins s = .next (f i (s.holdTlb i.ctx b.pc.toNat lf)) := by
  rw [hexec, State.issue_eq_of_issues h]

end

section
variable {s q u : State} {b : Bundle} {i : Issue} {α : Type} {r : SrcRes α} {v : α} {ps : List SrcPart}

/-- The state in which a memory instruction acts that has read: the reads are done at the home slices, and the
translations are held. -/
def State.haveRead (u : State) (i : Issue) (ps : List SrcPart) : State :=
  u.holdAll i.ctx (ps.map (fun p => (0, p.va)))

theorem State.whenRead_ok (hr : r = .ok v ps) (ha : q.agentReads true (ps.map (fun p => (p.addr, p.len))) = some u)
    (f : α → State → State) : q.whenRead b i r f =
      (f v (u.haveRead i ps)).lsuDone b i (bankCycles 8 (ps.flatMap (fun p => linesOf p.addr p.len))) := by
  subst hr
  simp only [State.whenRead, ha]
  rfl

/-- A fault that no line of memory reports. -/
theorem State.whenRead_fault (hr : r = .fault 0x300A ps) (f : α → State → State) :
    q.whenRead b i r f = (q.walkParts i ps).coreFault b.core.val i.bslot 0 0x300A := by
  subst hr
  have hnote : ps.foldl (fun t p => t.noteFault p.addr p.len 0x300A) (q.walkParts i ps) = q.walkParts i ps :=
    foldl_keeps (fun t : State => t = q.walkParts i ps) _ (fun t p ht => ht) ps _ rfl
  simp only [State.whenRead, hnote]

/-- What reads leave: works, and registers and scratch of the cores. -/
theorem State.haveRead_keeps (hbench : q.bench = s.bench)
    (ha : q.agentReads true (ps.map (fun p => (p.addr, p.len))) = some u) :
    (u.haveRead i ps).mem = u.mem ∧ (u.haveRead i ps).works = s.works ∧ ∀ k,
      ((u.haveRead i ps).core k).regs = (s.core k).regs ∧ ((u.haveRead i ps).core k).scratch = (s.core k).scratch := by
  have hhold : (u.haveRead i ps).bench = u.bench := State.holdAll_bench u _ _
  have hcores : (u.haveRead i ps).sansL1 = s.sansL1 :=
    (State.sansL1_of_bench hhold).trans ((State.agentReads_sansL1 ha).trans (State.sansL1_of_bench hbench))
  have hworks : u.works = s.works :=
    (State.works_of_plan (State.agentReads_traffic ha).plan).trans (State.works_of_bench hbench)
  exact ⟨State.mem_of_bench hhold, (State.works_of_bench hhold).trans hworks,
    fun k => ⟨State.regs_of_sansL1 hcores k, State.scratch_of_sansL1 hcores k⟩⟩

/-- Values that an instruction has under way, and nothing else: memory, works, registers and scratch stay. -/
theorem State.lsuDone_results (x : State) (b : Bundle) (i : Issue) (dst : List Nat) (vals : List (Nat × Nat × Word))
    (n : Nat) : let t := (x.results b i dst vals).lsuDone b i n
    ((t.core b.core.val).ops.map (·.kind)).getLast? = some (.result vals) ∧
      (t.core b.core.val).regs = (x.core b.core.val).regs ∧ (t.core b.core.val).scratch = (x.core b.core.val).scratch ∧
      t.works = x.works ∧ t.mem = x.mem := by
  intro t
  obtain ⟨ops, arr, hover⟩ := Core.overwrite_eq (x.core b.core.val) i.threads dst
  have hcore : (x.results b i dst vals).core b.core.val =
      ((x.core b.core.val).overwrite i.threads dst).pushOps i.bslot [(i.threads, .result vals)] := by
    rw [State.results, State.core_setCore_same, State.claim, State.core_setCore_same]
  obtain ⟨hregs, hscratch, hops⟩ := State.lsuDone_core (x.results b i dst vals) b i n
  rw [hcore, hover] at hregs hscratch hops
  have hworks : (x.results b i dst vals).works = x.works := by rw [State.results, State.setCore_works, State.claim,
    State.setCore_works]
  have hmem : (x.results b i dst vals).mem = x.mem := by rw [State.results, State.setCore_mem, State.claim_mem]
  exact ⟨by rw [hops]; simp [Core.pushOps], hregs, hscratch, (State.bundleDone_works ..).trans hworks,
    (State.lsuDone_mem ..).trans hmem⟩

/-- Free values may be taken before or after. -/
theorem State.results_useFree (x : State) (b : Bundle) (i : Issue) (dst : List Nat) (vals : List (Nat × Nat × Word))
    (n : Nat) : (x.results b i dst vals).useFree n = (x.useFree n).results b i dst vals := rfl

end

end Sys2Proof.Machine

namespace Sys2Proof.Machine

/-! ### ld.cmp (R275, R283) -/

section
variable {s q u : State} {b : Bundle} {i : Issue} {lf : Leaf} {z : Nat}

theorem exec_ldCmp_of_issues {sp : MemSpace} {nz : Bool} {f : Fmt} {d j tl row blk : VReg}
    {vals : List (Nat × Nat × Word)} {ps : List SrcPart}
    (h : s.issues b [d.val, j.val] ([tl.val, row.val, blk.val] ++ (if sp = .device then [tl.val + 1] else [])) .memory
      i lf z) (hf : f ≠ .fp32) (hq : q = s.holdTlb i.ctx b.pc.toNat lf)
    (hr : eachStrand (q.cmpStrand b.core.val i sp nz f d.val j.val tl.val row.val blk.val) i.sel = .ok vals ps)
    (ha : q.agentReads true (ps.map (fun p => (p.addr, p.len))) = some u) :
    ∃ t, exec (.ldCmp b sp nz f d j tl row blk) s = .next t ∧
      ((t.core b.core.val).ops.map (·.kind)).getLast? = some (.result vals) ∧
      (t.core b.core.val).scratch = (s.core b.core.val).scratch ∧
      (t.core b.core.val).regs = (s.core b.core.val).regs ∧ t.mem = u.mem ∧ (ps = [] → t.mem = s.mem) := by
  subst hq
  have hbench := State.holdTlb_bench s i.ctx b.pc.toNat lf
  have hexec := exec_eq_of_issues (ins := .ldCmp b sp nz f d j tl row blk) h rfl
  simp only [if_neg hf, State.whenRead_ok hr ha] at hexec
  obtain ⟨hmem, -, hcore⟩ := State.haveRead_keeps hbench ha
  obtain ⟨hops, hregs, hscratch, -, hrmem⟩ := State.lsuDone_results (u.haveRead i ps) b i [d.val, j.val] vals _
  refine ⟨_, hexec, ?_⟩
  rw [State.core_useFree, State.useFree_mem]
  refine ⟨hops, hscratch.trans (hcore _).2, hregs.trans (hcore _).1, hrmem.trans hmem,
    fun hps => (hrmem.trans hmem).trans ?_⟩
  subst hps
  cases ha
  exact State.mem_of_bench hbench

/-- Lanes of a block under EXP: a present element's code, by its rank in the row, and 0 for an absent one. -/
theorem CmpRow.lanes_exp (r : CmpRow) (f : Fmt) (blk : Nat) (v : List Byte) {l : Nat} (hl : l < 32) :
    (r.lanes f false blk v).getD l (0, 0) =
      if 32 * blk + l ∈ r.present then (BitVec.ofNat 32 (elemAt f v (r.present.idxOf (32 * blk + l))), 1) else (0, 0) := by
  have hblk : (32 * blk + l) / 32 = blk := by omega
  simp [CmpRow.lanes, hl, hblk]

/-! ### sp.segset (R295, R296) -/

/-- A lane takes its place in the launch. -/
theorem State.work_setLane {x : State} (h : x.work i.work.id = some i.work) (n : Nat) (y : SegLane) :
    (x.setLane i n y).work i.work.id =
      some { i.work with job := .launch { i.l with lanes := Tab.set none i.l.lanes n (some y) } } :=
  State.work_setWork_same (v := { i.work with job := .launch { i.l with lanes := Tab.set none i.l.lanes n (some y) } }) h

theorem SrcRes.andThen_of_ok {α β : Type} {r : SrcRes α} {f : α → SrcRes β} {v : α} {w : β} {ps qs : List SrcPart}
    (h : r = .ok v ps) (hf : f v = .ok w qs) : r.andThen f = .ok w (ps ++ qs) := by
  simp only [SrcRes.andThen, h, hf]

theorem SrcRes.andThen_of_fault {α β : Type} {r : SrcRes α} {f : α → SrcRes β} {v : α} {e : BitVec 16}
    {ps qs : List SrcPart} (h : r = .ok v ps) (hf : f v = .fault e qs) : r.andThen f = .fault e (ps ++ qs) := by
  simp only [SrcRes.andThen, h, hf]

/-- The check of sp.segset: what the two entries that bound a lane's rows say. -/
def State.segBounds (q : State) (k : Nat) (i : Issue) (a lo hi : Nat) : SrcRes Bool :=
  (q.devSrc k i (a + 4 * lo) 4).andThen fun x => (q.devSrc k i (a + 4 * hi) 4).andThen fun y =>
    if hi = lo + 1 && leAt y 0 4 < leAt x 0 4 then .fault 0x300A [] else .ok true []

theorem State.segBounds_eq {k a lo hi : Nat} {v w : List Byte} {ps qs : List SrcPart}
    (hv : q.devSrc k i (a + 4 * lo) 4 = .ok v ps) (hw : q.devSrc k i (a + 4 * hi) 4 = .ok w qs) :
    q.segBounds k i a lo hi =
      if hi = lo + 1 ∧ leAt w 0 4 < leAt v 0 4 then .fault 0x300A (ps ++ qs) else .ok true (ps ++ qs) := by
  by_cases hbad : hi = lo + 1 ∧ leAt w 0 4 < leAt v 0 4
  · rw [if_pos hbad, ← List.append_nil qs]
    exact SrcRes.andThen_of_fault hv (SrcRes.andThen_of_fault hw (if_pos (by simpa using hbad)))
  · rw [if_neg hbad, ← List.append_nil qs]
    exact SrcRes.andThen_of_ok hv (SrcRes.andThen_of_ok hw (if_neg (by simpa using hbad)))

theorem exec_spSegset_of_issues {base rows : VReg} {x r : Nat} {g : Group × Strand}
    (h : s.issues b [] [base.val, base.val + 1, rows.val] .memory i lf z) (hq : q = s.holdTlb i.ctx b.pc.toNat lf)
    (hlane : Tab.get none i.l.lanes (i.l.localOf b.core.val) = none) (hsel : i.sel = [g]) (hlead : leadOf g = x)
    (hr : ((s.core b.core.val).reg x rows.val).toNat = r) :
    let n := i.l.localOf b.core.val
    let a := (s.core b.core.val).reg64 x base.val % 2 ^ 48
    let lo := n * r / i.l.list.length
    let hi := (n + 1) * r / i.l.list.length
    exec (.spSegset b base rows) s = .next (q.whenRead b i (q.segBounds b.core.val i a lo hi)
      (fun _ x => x.setLane i n { base := a, lo := lo, hi := hi })) := by
  subst hq hlead hr
  rw [exec_eq_of_issues (ins := .spSegset b base rows) h rfl]
  simp only [hlane, hsel, State.core_of_bench (State.holdTlb_bench s i.ctx b.pc.toNat lf)]
  rfl

/-! ### sp.take (R294 to R296) -/

/-- The same numbers to every thread. -/
theorem segVals_const (i : Issue) (d p n : Nat) (r q c : Word) :
    segVals i d p n (fun _ => r) (fun _ => q) (fun _ => c) =
      i.threads.flatMap (fun y => [(d, y, r), (p, y, q), (n, y, c)]) := by
  conv_rhs => rw [← List.zipIdx_map_fst 0 i.threads, List.flatMap_map]
  rfl

/-- The count of a segment that is not there. -/
theorem segVals_count {d p n : Nat} {r q : Nat → Word} {e : Nat × Nat × Word} (hd : n ≠ d) (hp : n ≠ p)
    (he : e ∈ segVals i d p n r q (fun _ => 0)) (hn : e.1 = n) : e.2.2 = 0 := by
  obtain ⟨t, -, ht⟩ := List.mem_flatMap.1 he
  rcases List.mem_cons.1 ht with rfl | ht
  · exact absurd hn.symm hd
  rcases List.mem_cons.1 ht with rfl | ht
  · exact absurd hn.symm hp
  · rw [List.mem_singleton.1 ht]

/-- Of a row that is not its last a lane takes the segments in their order. -/
theorem State.segFront_of_left {k first n f : Nat} {ps : List SrcPart} {p : SegLane} (hrows : p.lo + 1 < p.hi)
    (hrow : s.rowNonzeros k i p.base p.lo = .ok (first, n) ps) (hleft : p.taken < ceilDiv n 256) :
    ∃ qs, s.segFront k i (f + 1) p = .ok (some (segOf p.lo first n p.taken), { p with taken := p.taken + 1 }) qs := by
  have hsome : ¬p.hi ≤ p.lo := by omega
  have hlast : ¬p.lo + 1 = p.hi := by omega
  have htake : p.taken < segments n - 0 := hleft
  refine ⟨ps ++ [], (if_neg hsome).trans (SrcRes.andThen_of_ok hrow ?_)⟩
  simp only [if_neg hlast, if_pos htake]

section
variable {d p n : VReg} {lane : SegLane} {ps : List SrcPart}
  (h : s.issues b [d.val, p.val, n.val] [] .memory i lf z) (hq : q = s.holdTlb i.ctx b.pc.toNat lf)
  (hlane : Tab.get none i.l.lanes (i.l.localOf b.core.val) = some lane)
  (ha : q.agentReads true (ps.map (fun p => (p.addr, p.len))) = some u)
include h hq hlane ha

/-- A lane gets a segment: the lane that gives it up goes on behind it, and its numbers are under way to every thread. -/
theorem exec_spTake_some {v row pos cnt : Nat} {y : SegLane}
    (hr : q.takeSeg b.core.val i lane = .ok (some (v, (row, pos, cnt), y)) ps) :
    ∃ t, exec (.spTake b d p n) s = .next t ∧
      t.work i.work.id = some { i.work with job := .launch { i.l with lanes := Tab.set none i.l.lanes v (some y) } } ∧
      ((t.core b.core.val).ops.map (·.kind)).getLast? = some (.result (segVals i d.val p.val n.val
        (fun _ => BitVec.ofNat 32 row) (fun _ => BitVec.ofNat 32 pos) (fun _ => BitVec.ofNat 32 cnt))) := by
  subst hq
  obtain ⟨-, hworks, -⟩ := State.haveRead_keeps (State.holdTlb_bench s i.ctx b.pc.toNat lf) ha
  have hlaned := State.work_setLane ((State.work_of_works hworks _).trans (State.work_of_issues h)) v y
  have hexec := exec_eq_of_issues (ins := .spTake b d p n) h rfl
  simp only [hlane] at hexec
  simp only [State.whenRead_ok hr ha] at hexec
  obtain ⟨hops, -, -, hdone, -⟩ := State.lsuDone_results (((u.haveRead i ps).setLane i v y).addCount .sparse b.core.val
    (if v = i.l.localOf b.core.val then 0x80C else 0x810) 1) b i [d.val, p.val, n.val] (segVals i d.val p.val n.val
      (fun _ => BitVec.ofNat 32 row) (fun _ => BitVec.ofNat 32 pos) (fun _ => BitVec.ofNat 32 cnt))
    (bankCycles 8 (ps.flatMap (fun p => linesOf p.addr p.len)))
  exact ⟨_, hexec, (State.work_of_works hdone _).trans hlaned, hops⟩

/-- No lane has a segment left: every thread gets count 0. -/
theorem exec_spTake_none (hr : q.takeSeg b.core.val i lane = .ok none ps) :
    ∃ t vals, exec (.spTake b d p n) s = .next t ∧ t.works = s.works ∧
      ((t.core b.core.val).ops.map (·.kind)).getLast? = some (.result vals) ∧
      (n ≠ d → n ≠ p → ∀ e ∈ vals, e.1 = n.val → e.2.2 = 0) := by
  subst hq
  obtain ⟨-, hworks, -⟩ := State.haveRead_keeps (State.holdTlb_bench s i.ctx b.pc.toNat lf) ha
  have hexec := exec_eq_of_issues (ins := .spTake b d p n) h rfl
  simp only [hlane, State.whenRead_ok hr ha, State.results_useFree] at hexec
  obtain ⟨hops, -, -, hdone, -⟩ := State.lsuDone_results ((u.haveRead i ps).useFree (2 * i.threads.length)) b i
    [d.val, p.val, n.val] (segVals i d.val p.val n.val (fun t => Config.freeWord ((u.haveRead i ps).free + 2 * t))
      (fun t => Config.freeWord ((u.haveRead i ps).free + 2 * t + 1)) (fun _ => 0))
    (bankCycles 8 (ps.flatMap (fun p => linesOf p.addr p.len)))
  exact ⟨_, _, hexec, hdone.trans hworks, hops, fun hd hp e he hn =>
    segVals_count (fun h => hd (Fin.ext h)) (fun h => hp (Fin.ext h)) he hn⟩

end

end

end Sys2Proof.Machine

namespace Sys2Proof.Machine

/-!
## Entries of mr.put (R298, R300, R302)
-/

section
variable {s : State} {e : MEntry}

/-- An entry that does not fill its window joins it. -/
theorem Marble.take_of_room {m : Marble} {now : Nat} (h : m.fill.length + 1 < 65536) :
    (m.take e now).fill = m.fill ++ [e] ∧ (m.take e now).closed = m.closed := by
  have hroom : ¬windowSize ≤ (m.fill ++ [e]).length := by
    rw [List.length_append, List.length_singleton, windowSize]
    omega
  simp only [Marble.take, if_neg hroom, and_self]

theorem Marble.turn_keeps (m : Marble) (now : Nat) : (m.turn now).fill = m.fill ∧ (m.turn now).closed = m.closed := by
  unfold Marble.turn
  split <;> exact ⟨rfl, rfl⟩

/-- An entry takes the slots it still lacks and enters the run of its die. -/
def State.enter (s : State) (p : Nat) (e : MEntry) : State :=
  let v := s.setMarble (dieOf e) ((s.marble (dieOf e)).spend p 1)
  (v.setMarble (dieOf e) ((v.marble (dieOf e)).take e v.now)).addCount .marble (dieOf e) 0xF01 1

theorem filter_dieOf_singleton (he : dieOf e < 4) :
    (List.range 4).filter (fun d => decide (([e].filter (fun x => dieOf x = d)).length ≠ 0)) = [dieOf e] := by
  have hmem : ∀ d, decide (([e].filter (fun x => dieOf x = d)).length ≠ 0) = decide (dieOf e = d) := fun d => by
    by_cases hd : dieOf e = d <;> simp [hd]
  simp only [hmem]
  generalize dieOf e = d at he
  revert d
  decide

/-- One entry enters the run of its die, or waits there with the slots it has got. -/
theorem State.putEntries_singleton (s : State) (p : Nat) (he : dieOf e < 4) :
    ∃ accepted : Bool, ∃ left, s.putEntries p [e] =
      if accepted then ((s.turned (dieOf e)).enter p e, true)
      else ((s.turned (dieOf e)).setMarble (dieOf e) (((s.turned (dieOf e)).marble (dieOf e)).hold p left), false) := by
  have hone : ([e].filter (fun x => dieOf x = dieOf e)).length = 1 := by simp
  simp only [State.putEntries, filter_dieOf_singleton he, List.foldl_cons, List.foldl_nil, hone]
  exact ⟨_, _, rfl⟩

theorem State.enter_works (s : State) (p : Nat) (e : MEntry) : (s.enter p e).works = s.works := by simp [State.enter]

theorem State.enter_mem (s : State) (p : Nat) (e : MEntry) : (s.enter p e).mem = s.mem := by simp [State.enter]

theorem State.marble_enter (s : State) (p : Nat) (e : MEntry) :
    (s.enter p e).marble (dieOf e) = ((s.marble (dieOf e)).spend p 1).take e s.now := by
  have hcount : ∀ (t : State) (d j off n : Nat), (t.addCount .marble d off n).marble j = t.marble j :=
    fun _ _ _ _ _ => rfl
  rw [State.enter, hcount, State.marble_setMarble_same, State.marble_setMarble_same, State.setMarble_now]

theorem State.marble_enter_ne (s : State) (p : Nat) {j : Nat} (h : j ≠ dieOf e) : (s.enter p e).marble j = s.marble j :=
  (State.marble_setMarble _ _ _ _).trans ((if_neg h.symm).trans ((State.marble_setMarble _ _ _ _).trans (if_neg h.symm)))

theorem State.marble_turned_ne (s : State) {d j : Nat} (h : j ≠ d) : (s.turned d).marble j = s.marble j :=
  (State.marble_setMarble _ _ _ _).trans (if_neg h.symm)

section
variable {p : Nat}

/-- An entry that is accepted stands in the filling window of its die, and nothing else of the runs changes but slots. -/
theorem State.putEntries_accepted (he : dieOf e < 4) (hput : (s.putEntries p [e]).2 = true)
    (hroom : (s.marble (dieOf e)).fill.length + 1 < 65536) : ∃ r, s.putEntries p [e] = (r, true) ∧
      (r.marble (dieOf e)).fill = (s.marble (dieOf e)).fill ++ [e] ∧
      (r.marble (dieOf e)).closed = (s.marble (dieOf e)).closed ∧ (∀ d, d ≠ dieOf e → r.marble d = s.marble d) ∧
      r.works = s.works ∧ r.mem = s.mem := by
  obtain ⟨accepted, left, heq⟩ := State.putEntries_singleton s p he
  cases accepted with
  | false => rw [heq] at hput; cases hput
  | true =>
    obtain ⟨hfill, hclosed⟩ := Marble.turn_keeps (s.marble (dieOf e)) s.now
    obtain ⟨htake, hkeep⟩ := Marble.take_of_room (e := e) (m := ((s.marble (dieOf e)).turn s.now).spend p 1)
      (now := s.now) (by rwa [Marble.spend, hfill])
    have hself := State.marble_enter (s.turned (dieOf e)) p e
    rw [State.marble_turned] at hself
    refine ⟨_, heq, ?_, ?_, fun d hd => ?_, ?_, ?_⟩
    · rw [hself]
      exact htake.trans (congrArg (· ++ [e]) hfill)
    · rw [hself]
      exact hkeep.trans hclosed
    · rw [State.marble_enter_ne _ p hd, State.marble_turned_ne s hd]
    · rw [State.enter_works]
      rfl
    · rw [State.enter_mem, State.turned_mem]

/-- An entry that must wait leaves the windows of every run. -/
theorem State.putEntries_refused (he : dieOf e < 4) (hput : (s.putEntries p [e]).2 = false) :
    ∃ r, s.putEntries p [e] = (r, false) ∧ r.works = s.works ∧ r.mem = s.mem ∧
      ∀ d, (r.marble d).fill = (s.marble d).fill ∧ (r.marble d).closed = (s.marble d).closed := by
  obtain ⟨accepted, left, heq⟩ := State.putEntries_singleton s p he
  cases accepted with
  | true => rw [heq] at hput; cases hput
  | false =>
    refine ⟨_, heq, rfl, rfl, fun d => ?_⟩
    rw [State.marble_setMarble]
    split
    next hd =>
      subst hd
      rw [State.marble_turned]
      exact Marble.turn_keeps _ _
    next hd =>
      rw [State.marble_turned_ne s (Ne.symm hd)]
      exact ⟨rfl, rfl⟩

end

end

/-! ### mr.put (R298, R303) -/

theorem dieOf_entryOf (w : Work) (t : DType) (a : Nat) (v : Word) : dieOf (entryOf w t a v) = homeDie (a / 128) := rfl

section
variable {s q : State} {b : Bundle} {i : Issue} {lf l : Leaf} {z x p y : Nat} {ty : DType} {base j v : VReg}
  (h : s.issues b [] [base.val, base.val + 1, j.val, v.val] .memory i lf z) (hq : q = s.holdTlb i.ctx b.pc.toNat lf)
  (haddrs : (s.core b.core.val).putAddrs i ty base.val j.val = [(x, y)])
  (hxlate : q.xlateAll i.ctx .write [(x, y)] = .ok [(x, p, l)])
include h hq haddrs hxlate

/-- The put of one thread. -/
theorem exec_mrPut_of_issues : exec (.mrPut b ty base j v) s = .next
    (match (q.holdAll i.ctx [(x, y)]).putEntries i.work.part [entryOf i.work ty p ((s.core b.core.val).reg x v.val)] with
    | (r, false) => r.turnAway b i .memory (.cause 7 (nextSpan r.now))
    | (r, true) => (r.setWork { i.work with job := .launch { i.l with puts := true } }).lsuDone b i
        (bankCycles 8 [p / 128])) := by
  subst hq
  rw [exec_eq_of_issues (ins := .mrPut b ty base j v) h rfl]
  simp only [State.core_of_bench (State.holdTlb_bench s i.ctx b.pc.toNat lf), haddrs, hxlate]
  rfl

/-- The run accepts the entry: it stands in the filling window of the line's die, and its launch has put. -/
theorem exec_mrPut_accepted (he : homeDie (p / 128) < 4) (hput : ((q.holdAll i.ctx [(x, y)]).putEntries i.work.part
      [entryOf i.work ty p ((s.core b.core.val).reg x v.val)]).2 = true)
    (hroom : (s.marble (homeDie (p / 128))).fill.length + 1 < 65536) :
    ∃ t, exec (.mrPut b ty base j v) s = .next t ∧
      (t.marble (homeDie (p / 128))).fill =
        (s.marble (homeDie (p / 128))).fill ++ [entryOf i.work ty p ((s.core b.core.val).reg x v.val)] ∧
      (t.marble (homeDie (p / 128))).closed = (s.marble (homeDie (p / 128))).closed ∧
      (∀ d, d ≠ homeDie (p / 128) → t.marble d = s.marble d) ∧
      t.work i.work.id = some { i.work with job := .launch { i.l with puts := true } } ∧ t.mem = s.mem := by
  have hexec := exec_mrPut_of_issues h hq haddrs hxlate
  subst hq
  have hbench := (State.holdAll_bench _ i.ctx [(x, y)]).trans (State.holdTlb_bench s i.ctx b.pc.toNat lf)
  generalize (s.holdTlb i.ctx b.pc.toNat lf).holdAll i.ctx [(x, y)] = u at *
  have hmarble := State.marble_of_bench hbench
  rw [← dieOf_entryOf i.work ty p ((s.core b.core.val).reg x v.val)] at he hroom ⊢
  generalize entryOf i.work ty p ((s.core b.core.val).reg x v.val) = e at *
  obtain ⟨r, heq, hfill, hclosed, hother, hworks, hmem⟩ := State.putEntries_accepted he hput (by rwa [hmarble])
  rw [heq] at hexec
  refine ⟨_, hexec, ?_, ?_, fun d hd => ?_, ?_, ?_⟩
  · exact hfill.trans (by rw [hmarble])
  · exact hclosed.trans (by rw [hmarble])
  · exact (hother d hd).trans (hmarble d)
  · exact (State.work_of_works (State.bundleDone_works ..) _).trans (State.work_setWork_same
      (v := { i.work with job := .launch { i.l with puts := true } })
      ((State.work_of_works (hworks.trans (State.works_of_bench hbench)) _).trans (State.work_of_issues h)))
  · exact (State.lsuDone_mem ..).trans (hmem.trans (State.mem_of_bench hbench))

/-- The run does not accept the entry: the instruction is tried again, and no window changes. -/
theorem exec_mrPut_refused (he : homeDie (p / 128) < 4) (hput : ((q.holdAll i.ctx [(x, y)]).putEntries i.work.part
      [entryOf i.work ty p ((s.core b.core.val).reg x v.val)]).2 = false) :
    ∃ t, exec (.mrPut b ty base j v) s = .next t ∧ t.works = s.works ∧ t.mem = s.mem ∧
      ∀ d, (t.marble d).fill = (s.marble d).fill ∧ (t.marble d).closed = (s.marble d).closed := by
  have hexec := exec_mrPut_of_issues h hq haddrs hxlate
  subst hq
  have hbench := (State.holdAll_bench _ i.ctx [(x, y)]).trans (State.holdTlb_bench s i.ctx b.pc.toNat lf)
  generalize (s.holdTlb i.ctx b.pc.toNat lf).holdAll i.ctx [(x, y)] = u at *
  rw [← dieOf_entryOf i.work ty p ((s.core b.core.val).reg x v.val)] at he
  generalize entryOf i.work ty p ((s.core b.core.val).reg x v.val) = e at *
  obtain ⟨r, heq, hworks, hmem, hmarbles⟩ := State.putEntries_refused he hput
  rw [heq] at hexec
  refine ⟨_, hexec, hworks.trans (State.works_of_bench hbench),
    (State.turnAway_mem ..).trans (hmem.trans (State.mem_of_bench hbench)), fun d => ?_⟩
  rw [← State.marble_of_bench hbench]
  exact hmarbles d

end

/-! ### Draws (R479, R480) -/

section
variable {s : State} {b : Bundle} {i : Issue} {lf : Leaf} {z : Nat} {d tl e : VReg} {st : Fin 4}

theorem State.bundleDone_kparts (q : State) (b : Bundle) (i : Issue) (engine : BitVec 5) (n lat : Nat) (dst : List Nat)
    (F : Core → Core) : (q.bundleDone b i engine n lat dst F).kparts = q.kparts := rfl

theorem State.kpart_bundleDone (q : State) (b : Bundle) (i : Issue) (engine : BitVec 5) (n lat : Nat) (dst : List Nat)
    (F : Core → Core) (p : Nat) : (q.bundleDone b i engine n lat dst F).kpart p = q.kpart p := by
  rw [State.kpart, State.bundleDone_kparts, State.kpart]

/-- rng.str where streams are not on. -/
theorem exec_rngStr_off (h : s.issues b [d.val] [] .memory i lf z)
    (hmode : bit (s.cfg .rng i.work.part 0x100) 0 = false) :
    exec (.rngStr b d st) s = .next ((s.holdTlb i.ctx b.pc.toNat lf).coreFault b.core.val i.bslot 0 0x3002) := by
  rw [exec_eq_of_issues (ins := .rngStr b d st) h rfl]
  simp only [State.cfg_of_setup (State.holdTlb_setup s i.ctx b.pc.toNat lf), hmode, Bool.not_false, if_true]

/-- rng.ctr: each thread draws by its own counter. -/
theorem exec_rngCtr_of_issues (h : s.issues b [d.val] [tl.val, e.val] .vector i lf z)
    (hhold : s.inHold .rng i.work.part = false) :
    ∃ t, exec (.rngCtr b d tl e) s = .next t ∧
      (∀ x, x ∈ i.threads → (t.core b.core.val).reg x d.val = ctrDraw (s.kpart i.work.part).seed
          (s.stepOf i.work.part s.fr.no) ((s.core b.core.val).reg x e.val) ((s.core b.core.val).reg x tl.val) ∧
        Tab.get 0 (t.core b.core.val).usable (depKey x d.val) = s.now + 12) ∧
      (∀ x r, r < 256 → x ∉ i.threads ∨ r ≠ d.val →
        (t.core b.core.val).reg x r = (s.core b.core.val).reg x r) ∧ t.mem = s.mem ∧ t.kparts = s.kparts := by
  have hexec := exec_eq_of_issues (ins := .rngCtr b d tl e) h rfl
  have hbench := State.holdTlb_bench s i.ctx b.pc.toNat lf
  have hsetup := State.holdTlb_setup s i.ctx b.pc.toNat lf
  generalize s.holdTlb i.ctx b.pc.toNat lf = q at hexec hbench hsetup
  have hstep : q.stepOf i.work.part q.fr.no = s.stepOf i.work.part s.fr.no := by
    have hparts : q.parts = s.parts := (congrArg State.parts hbench :)
    unfold State.stepOf State.stepMode State.fbFrames State.part
    rw [State.cfg_of_setup hsetup, hparts, State.fr_of_bench hbench]
  have hkpart : q.kpart i.work.part = s.kpart i.work.part := by
    rw [State.kpart, State.kparts_of_bench hbench, State.kpart]
  simp only [State.inHold_of_setup hsetup, hhold, Bool.false_eq_true, if_false, hstep, hkpart] at hexec
  obtain ⟨hin, hout, hmem⟩ := State.bundleDone_setReg (b := b) (i := i) (engine := onVector) (n := 1) (lat := 12)
    (dst := [d.val]) (thr := id)
    (val := fun c x => ctrDraw (s.kpart i.work.part).seed (s.stepOf i.work.part s.fr.no) (c.reg x e.val) (c.reg x tl.val))
    (F := fun c => c.forThreads i.threads (fun x c => c.setReg x d.val (ctrDraw (s.kpart i.work.part).seed
      (s.stepOf i.work.part s.fr.no) (c.reg x e.val) (c.reg x tl.val))))
    hbench (List.map_id _) (State.nodup_threads h.1.1) d.isLt rfl
    (fun x c c' hsame => congrArg₂ (ctrDraw _ _) (hsame.reg e.isLt) (hsame.reg tl.isLt))
  have hfold : ∀ c : Core, (c.forThreads i.threads (fun x c => c.setReg x d.val (ctrDraw (s.kpart i.work.part).seed
      (s.stepOf i.work.part s.fr.no) (c.reg x e.val) (c.reg x tl.val)))).usable = c.usable := fun c =>
    foldl_keeps (fun c' : Core => c'.usable = c.usable)
      (fun c' x => c'.setReg x d.val (ctrDraw (s.kpart i.work.part).seed (s.stepOf i.work.part s.fr.no) (c'.reg x e.val)
        (c'.reg x tl.val))) (fun _ _ h' => h') _ c rfl
  refine ⟨_, hexec, fun x hx => ⟨hin x hx, ?_⟩, hout, hmem,
    (State.bundleDone_kparts ..).trans (State.kparts_of_bench hbench)⟩
  rw [State.usable_bundleDone, hfold, State.claimed, Core.usable_delay _ hx (List.mem_singleton_self _),
    State.now_of_bench hbench]

/-- rng.str: the draws go to the threads in their order, and the stream moves on. -/
theorem exec_rngStr_of_issues (h : s.issues b [d.val] [] .memory i lf z)
    (hmode : bit (s.cfg .rng i.work.part 0x100) 0 = true) (hhold : s.inHold .rng i.work.part = false)
    (hlen : (s.kpart i.work.part).pos.length = 4) :
    ∃ t, exec (.rngStr b d st) s = .next t ∧
      (t.kpart i.work.part).pos.getD st.val 0 =
        (s.kpart i.work.part).pos.getD st.val 0 + BitVec.ofNat 64 i.threads.length ∧
      (∀ j, j ≠ st.val → (t.kpart i.work.part).pos.getD j 0 = (s.kpart i.work.part).pos.getD j 0) ∧
      (∀ x ∈ i.threads.zipIdx, (t.core b.core.val).reg x.1 d.val = strDraw (s.kpart i.work.part).seed st.val
        ((s.kpart i.work.part).pos.getD st.val 0 + BitVec.ofNat 64 x.2)) ∧
      (∀ x r, r < 256 → x ∉ i.threads ∨ r ≠ d.val →
        (t.core b.core.val).reg x r = (s.core b.core.val).reg x r) ∧ t.mem = s.mem := by
  have hexec := exec_eq_of_issues (ins := .rngStr b d st) h rfl
  have hbench := State.holdTlb_bench s i.ctx b.pc.toNat lf
  have hsetup := State.holdTlb_setup s i.ctx b.pc.toNat lf
  generalize s.holdTlb i.ctx b.pc.toNat lf = q at hexec hbench hsetup
  have hkpart : q.kpart i.work.part = s.kpart i.work.part := by
    rw [State.kpart, State.kparts_of_bench hbench, State.kpart]
  simp only [State.cfg_of_setup hsetup, hmode, State.inHold_of_setup hsetup, hhold, hkpart, Bool.not_true,
    Bool.false_eq_true, if_false] at hexec
  obtain ⟨hin, hout, hmem⟩ := State.bundleDone_setReg (s := q.setKpart i.work.part _) (b := b) (i := i) (engine := onLsu)
    (n := 1) (lat := 300) (dst := [d.val]) (thr := Prod.fst)
    (val := fun _ x => strDraw (s.kpart i.work.part).seed st.val
      ((s.kpart i.work.part).pos.getD st.val 0 + BitVec.ofNat 64 x.2))
    (F := fun c => i.threads.zipIdx.foldl (fun e x => e.setReg x.1 d.val (strDraw (s.kpart i.work.part).seed st.val
      ((s.kpart i.work.part).pos.getD st.val 0 + BitVec.ofNat 64 x.2))) c)
    rfl (List.zipIdx_map_fst 0 i.threads) (State.nodup_threads h.1.1) d.isLt rfl (fun _ _ _ _ => rfl)
  refine ⟨_, hexec, ?_, fun j hj => ?_, fun x hx => hin x hx, fun x r hr hx => ?_, ?_⟩
  · rw [State.kpart_bundleDone, State.kpart_setKpart_same, List.getD_eq_getElem?_getD,
      List.getElem?_set_self (st.isLt.trans_eq hlen.symm), Option.getD_some]
  · rw [State.kpart_bundleDone, State.kpart_setKpart_same, List.getD_eq_getElem?_getD,
      List.getElem?_set_ne (Ne.symm hj), List.getD_eq_getElem?_getD]
  · exact (hout x r hr hx).trans (congrArg (Core.reg · x r) (State.core_of_bench hbench b.core.val))
  · exact hmem.trans ((State.setKpart_mem ..).trans (State.mem_of_bench hbench))

end

end Sys2Proof.Machine

namespace Sys2Proof.Machine

section
variable {s q u : State} {b : Bundle} {i : Issue} {lf : Leaf} {z : Nat} {base rows : VReg} {x r a lo hi : Nat}
  {v w : List Byte} {ps qs : List SrcPart}

/-- A lane whose two entries pass their check stands in its launch. -/
theorem State.whenRead_segBounds (h : s.issues b [] [base.val, base.val + 1, rows.val] .memory i lf z)
    (hv : (s.holdTlb i.ctx b.pc.toNat lf).devSrc b.core.val i (a + 4 * lo) 4 = .ok v ps)
    (hw : (s.holdTlb i.ctx b.pc.toNat lf).devSrc b.core.val i (a + 4 * hi) 4 = .ok w qs)
    (hgood : ¬(hi = lo + 1 ∧ leAt w 0 4 < leAt v 0 4))
    (ha : (s.holdTlb i.ctx b.pc.toNat lf).agentReads true ((ps ++ qs).map (fun p => (p.addr, p.len))) = some u)
    (n : Nat) (y : SegLane) :
    let t := (s.holdTlb i.ctx b.pc.toNat lf).whenRead b i
      ((s.holdTlb i.ctx b.pc.toNat lf).segBounds b.core.val i a lo hi) (fun _ x => x.setLane i n y)
    t.work i.work.id =
        some { i.work with job := .launch { i.l with lanes := Tab.set none i.l.lanes n (some y) } } ∧
      (t.core b.core.val).regs = (s.core b.core.val).regs := by
  intro t
  obtain ⟨-, hworks, hcore⟩ := State.haveRead_keeps (i := i) (State.holdTlb_bench s i.ctx b.pc.toNat lf) ha
  have hlaned := State.work_setLane ((State.work_of_works hworks _).trans (State.work_of_issues h)) n y
  have ht : t = _ := State.whenRead_ok ((State.segBounds_eq hv hw).trans (if_neg hgood)) ha _
  rw [ht]
  refine ⟨(State.work_of_works (State.bundleDone_works ..) _).trans hlaned, ?_⟩
  obtain ⟨hregs, -, -⟩ := State.lsuDone_core ((u.haveRead i (ps ++ qs)).setLane i n y) b i
    (bankCycles 8 ((ps ++ qs).flatMap (fun p => linesOf p.addr p.len)))
  exact hregs.trans (hcore _).1

end

end Sys2Proof.Machine

namespace Sys2Proof.Proofs.ActivationSparsity

open Sys2Proof Sys2Proof.Machine

/-- Settles O30: each instruction that issues acts on the state that holds its fetch's translation; those that read
first act where `State.haveRead` says. -/
theorem sparseAndRandomInstructions : Obligations.SparseAndRandomInstructions := by
  refine ⟨fun b sp nz f d j tl row blk s q i lf z vals ps u h hf hq hr ha => exec_ldCmp_of_issues h hf hq hr ha,
    fun r f blk l v hl => ⟨fun hin => (r.lanes_exp f blk v hl).trans (if_pos hin),
      fun hout => (r.lanes_exp f blk v hl).trans (if_neg hout)⟩,
    fun b ty base j v s q i lf l z x p y h hq haddrs hxlate he => ⟨exec_mrPut_accepted h hq haddrs hxlate he,
      exec_mrPut_refused h hq haddrs hxlate he⟩,
    fun b base rows s q i lf z x r g v w ps qs => ?_,
    fun b d p n s q i lf z lane ps h hq hlane ha => ?_,
    fun s k first n i ps f p hrows hrow hleft => State.segFront_of_left hrows hrow hleft,
    fun b d tl e s i lf z h hhold => exec_rngCtr_of_issues h hhold,
    fun b d st s i lf z h => ⟨exec_rngStr_off h, exec_rngStr_of_issues h⟩⟩
  · intro k n a lo hi h hq hlane hsel hlead hr hv hw
    have hexec := exec_spSegset_of_issues h hq hlane hsel hlead hr
    refine ⟨fun hone hless => hexec.trans (congrArg Host.Outcome.next (State.whenRead_fault
      ((State.segBounds_eq hv hw).trans (if_pos ⟨hone, hless⟩)) _)), fun hgood hsome => ?_⟩
    obtain ⟨u, ha⟩ := Option.isSome_iff_exists.1 hsome
    subst hq
    exact ⟨_, hexec, State.whenRead_segBounds h hv hw hgood ha n _⟩
  · obtain ⟨u, ha⟩ := Option.isSome_iff_exists.1 ha
    refine ⟨fun v row pos cnt y hr => ?_, exec_spTake_none h hq hlane ha⟩
    rw [← segVals_const]
    exact exec_spTake_some h hq hlane ha hr

end Sys2Proof.Proofs.ActivationSparsity

namespace Sys2Proof.Machine

/-!
## Deltas (R314)
-/

theorem DType.bytes_dvd (t : DType) : DType.bytes t ∣ 128 := by cases t <;> decide

theorem leNat_leBytes (n v : Nat) : leNat (leBytes n v) = v % 256 ^ n := by
  induction n generalizing v with
  | zero => simp [leBytes, leNat, Nat.mod_one]
  | succ n ih => rw [leBytes, leNat, ih, BitVec.toNat_ofNat, Nat.pow_succ' (n := n), Nat.mod_mul]

/-- Piece `e` of a list that is put together of pieces of `n`. -/
theorem bytesAt_flatMap_range {f : Nat → List Byte} {n : Nat} (hlen : ∀ i, (f i).length = n) {k e : Nat} (he : e < k) :
    bytesAt ((List.range k).flatMap f) (n * e) n = f e := by
  have hsum : ∀ l : List Nat, (l.flatMap f).length = n * l.length := fun l => by
    induction l with
    | nil => rfl
    | cons a l ih => rw [List.flatMap_cons, List.length_append, hlen, ih, List.length_cons, Nat.mul_succ, Nat.add_comm]
  have hsplit : List.range k = List.range e ++ e :: (List.range' (e + 1) (k - e - 1)) := by
    rw [← List.range'_succ, List.range_eq_range', List.range_eq_range']
    have := List.range'_append (s := 0) (m := e) (n := k - e) (step := 1)
    simpa [show k - e - 1 + 1 = k - e by omega, show e + (k - e) = k by omega] using this.symm
  rw [hsplit, List.flatMap_append, List.flatMap_cons]
  have hdrop : ((List.range e).flatMap f).length = n * e := by rw [hsum, List.length_range]
  simp only [bytesAt, ← hdrop, List.drop_left]
  rw [List.take_left' (hlen e)]
  simp [hlen]

/-- Element `e` of a line after a delta is added. -/
def deltaElem (t : DType) (mask : BitVec 4) (old delta : List Byte) (e : Nat) : List Byte :=
  let n := DType.bytes t
  let o := bytesAt old (n * e) n
  if mask.getLsbD (n * e / 32) then
    leBytes n (addElem t (BitVec.ofNat 32 (leNat o)) (BitVec.ofNat 32 (leAt delta (n * e) n))).toNat
  else o

theorem addDelta_eq (t : DType) (mask : BitVec 4) (old delta : List Byte) :
    addDelta t mask old delta = (List.range (128 / DType.bytes t)).flatMap (deltaElem t mask old delta) := rfl

theorem length_deltaElem (t : DType) (mask : BitVec 4) (old delta : List Byte) (e : Nat) :
    (deltaElem t mask old delta e).length = DType.bytes t := by
  simp only [deltaElem]
  split
  · exact length_leBytes _ _
  · exact length_bytesAt _ _ _

theorem length_addDelta (t : DType) (mask : BitVec 4) (old delta : List Byte) :
    (addDelta t mask old delta).length = 128 := by
  rw [addDelta_eq, List.length_flatMap, List.map_congr_left (fun e _ => length_deltaElem t mask old delta e)]
  simp only [List.map_const', List.sum_replicate, List.length_range, smul_eq_mul]
  exact Nat.div_mul_cancel (DType.bytes_dvd t)

theorem leAt_addDelta (t : DType) (mask : BitVec 4) (old delta : List Byte) {e : Nat} (he : DType.bytes t * e < 128) :
    leAt (addDelta t mask old delta) (DType.bytes t * e) (DType.bytes t) = leNat (deltaElem t mask old delta e) := by
  have hlt : e < 128 / DType.bytes t := by
    rw [Nat.lt_div_iff_mul_lt' (DType.bytes_dvd t)]
    exact he
  rw [leAt, addDelta_eq, bytesAt_flatMap_range (length_deltaElem t mask old delta) hlt]

end Sys2Proof.Machine

namespace Sys2Proof.Proofs.L1ScratchLlc
open Sys2Proof Sys2Proof.Machine

/-- Settles O35: a delta is added to a line element by element, and element `e` of the sum is that of its own bytes. -/
theorem deltaAddsByElement : Obligations.DeltaAddsByElement := by
  unfold Obligations.DeltaAddsByElement
  refine fun t m old delta e he _ => ⟨length_addDelta t m old delta, ?_⟩
  rw [leAt_addDelta t m old delta he]
  simp only [deltaElem]
  split
  · rw [leNat_leBytes, pow_mul]
    rfl
  · rfl

end Sys2Proof.Proofs.L1ScratchLlc

namespace Sys2Proof

/-! ## Writing a table twice -/

theorem Tab.put_put {α : Type} (t : Tab α) (k : Nat) (v w : α) : Tab.put k w (Tab.put k v t) = Tab.put k w t := by
  induction t with
  | nil => simp [Tab.put]
  | cons p t ih =>
    obtain ⟨i, u⟩ := p
    by_cases heq : k = i
    · simp [Tab.put, heq]
    · by_cases hlt : k < i
      · simp [Tab.put, heq, hlt]
      · simp [Tab.put, heq, hlt, ih]

theorem Tab.del_put {α : Type} (t : Tab α) (k : Nat) (v : α) : Tab.del k (Tab.put k v t) = Tab.del k t := by
  induction t with
  | nil => simp [Tab.put, Tab.del]
  | cons p t ih =>
    obtain ⟨i, u⟩ := p
    by_cases heq : k = i
    · simp [Tab.put, Tab.del, heq]
    · by_cases hlt : k < i
      · simp [Tab.put, Tab.del, heq, hlt]
      · simp [Tab.put, Tab.del, heq, hlt, Ne.symm heq, ih]

/-- A value that is not the default is overwritten as if it had not been written. -/
theorem Tab.set_set {α : Type} [DecidableEq α] (d : α) (t : Tab α) (k : Nat) {v : α} (w : α) (hv : v ≠ d) :
    Tab.set d (Tab.set d t k v) k w = Tab.set d t k w := by
  simp only [Tab.set, if_neg hv, Tab.put_put, Tab.del_put]

end Sys2Proof

namespace Sys2Proof.Machine

/-!
## A request at an entry on which nothing is in progress (R322 to R325)

The slice performs it in its turn: the clock of the slice goes on, and the line is entered with its turn, once or several
times. The last entry counts (`State.inTurn`); where then nothing waits, nothing follows (`State.arrive_of_calm`).
-/

section
variable (s : State)

theorem Slice.put_put (x : Slice) {l m : LLine} (h : m.line = l.line) : (x.put l).put m = x.put m := by
  unfold Slice.put
  by_cases hany : x.lines.any (·.line = l.line) = true
  · have hmap : (x.lines.map fun n => if n.line = l.line then l else n).any (·.line = l.line) = true := by
      simp only [List.any_map, List.any_eq_true] at hany ⊢
      obtain ⟨n, hn, hline⟩ := hany
      exact ⟨n, hn, by simp_all⟩
    simp only [h, hany, hmap, if_true, List.map_map]
    congr 1
    refine List.map_congr_left fun n _ => ?_
    by_cases hn : n.line = l.line <;> simp [hn]
  · have hnone : (x.lines.map fun n => if n.line = l.line then m else n) = x.lines := by
      refine (List.map_congr_left fun n hn => if_neg fun hline => hany ?_).trans (List.map_id _)
      exact List.any_eq_true.2 ⟨n, hn, by simpa using hline⟩
    simp [h, hany, hnone]

theorem Slice.put_ne_default (x : Slice) (l : LLine) : x.put l ≠ {} := fun h => by
  have hfind := Slice.find_put_same x l
  rw [h] at hfind
  cases hfind

theorem State.putLine_putLine {l m : LLine} (h : m.line = l.line) : (s.putLine l).putLine m = s.putLine m := by
  have hslice : (s.putLine l).slice (homeDie l.line) = (s.slice (homeDie l.line)).put l := State.slice_setSlice_same _ _ _
  have hset : ∀ (d : Nat) (x y : Slice), x ≠ {} → (s.setSlice d x).setSlice d y = s.setSlice d y := fun d x y hx => by
    simp only [State.setSlice, Tab.set_set _ _ _ _ hx]
  rw [State.putLine, h, hslice, Slice.put_put _ h, State.putLine, hset _ _ _ (Slice.put_ne_default _ _), State.putLine, h]

/-- The slice has performed a request in its turn, and the line is entered as `m`. -/
def State.inTurn (m : LLine) : State := (s.bumpClock (homeDie m.line)).putLine { m with used := s.nextUse m.line }

theorem State.putLine_inTurn {l m : LLine} (h : m.line = l.line) (hused : m.used = s.nextUse l.line) :
    (s.inTurn l).putLine m = s.inTurn m := by
  have hself : { m with used := s.nextUse m.line } = m := by rw [show s.nextUse m.line = m.used by rw [h, hused]]
  rw [State.inTurn, State.putLine_putLine _ (by exact h), State.inTurn, hself, h]

theorem State.lline_inTurn_ne {m : LLine} {n : Nat} (h : n ≠ m.line) : (s.inTurn m).lline n = s.lline n := by
  rw [State.inTurn, State.lline_putLine_ne _ _ (by exact h), State.lline_bumpClock]

theorem State.waitq_inTurn (m : LLine) (d : Nat) : ((s.inTurn m).slice d).waitq = (s.slice d).waitq := by
  rw [State.inTurn, State.waitq_putLine, State.waitq_bumpClock]

theorem State.late_putLine (l : LLine) (d : Nat) : ((s.putLine l).slice d).late = (s.slice d).late := by
  have hput : ∀ x : Slice, (x.put l).late = x.late := fun x => by
    unfold Slice.put
    split <;> rfl
  rw [State.putLine, State.slice_setSlice]
  split
  next hd => rw [hput, hd]
  next => rfl

end

section
variable {s t : State} {l m : LLine} {r : LReq}

/-- An entry behind which no request can be taken up: an operation is in progress on it, or none waits. -/
def LLine.Rests (m : LLine) : Prop := m.op ≠ none ∨ m.queue = []

/-- Nothing follows where no request waits at a line or at its slice (R323). -/
theorem State.settleLine_of_rest {n : Nat} (hrest : ∀ m, s.lline n = some m → m.Rests)
    (hwait : (s.slice (homeDie n)).waitq = []) : s.settleLine n = s := by
  have hdrain : ∀ k, State.drainLine k s n = s := fun k => by
    cases k with
    | zero => rfl
    | succ k =>
      unfold State.drainLine
      split
      next => rfl
      next m hm =>
        split
        next hop hqueue => rcases hrest m hm with h | h <;> simp_all
        all_goals rfl
  simp only [State.settleLine, hdrain]
  exact State.giveWays_of_no_wait hwait _ _

theorem State.slice_congr (h : t.slices = s.slices) (d : Nat) : t.slice d = s.slice d := by
  rw [State.slice, h, State.slice]

/-- `t` is `s` but for the slices and the counters, and among the entries of lines that of `l` alone is another: `e`, or
none. -/
structure State.Serves (s t : State) (l : LLine) (e : Option LLine) : Prop where
  rest : ∃ x y, t = { s with slices := x, regs := y }
  others : ∀ n, n ≠ l.line → t.lline n = s.lline n
  line : t.lline l.line = e
  waitq : ∀ d, (t.slice d).waitq = (s.slice d).waitq
  late : ∀ d, (t.slice d).late = (s.slice d).late

theorem State.late_inTurn (m : LLine) (d : Nat) : ((s.inTurn m).slice d).late = (s.slice d).late := by
  rw [State.inTurn, State.late_putLine, State.bumpClock, State.slice_setSlice]
  split
  next hd => rw [hd]
  next => rfl

/-- A line is entered. -/
theorem State.serves_putLine (hm : m.line = l.line) : s.Serves (s.putLine m) l (some m) where
  rest := ⟨_, _, rfl⟩
  others n hn := State.lline_putLine_ne _ _ (by rwa [hm])
  line := hm ▸ State.lline_putLine_same _ _
  waitq := State.waitq_putLine _ _
  late := State.late_putLine _ _

/-- The slice performs a request in its turn and enters the line last as `m`. -/
theorem State.serves_inTurn {l₀ : LLine} (hl₀ : l₀.line = l.line) (hm : m.line = l.line) :
    s.Serves ((s.inTurn l₀).putLine m) l (some m) where
  rest := ⟨_, _, rfl⟩
  others n hn := by rw [State.lline_putLine_ne _ _ (by rwa [hm]), State.lline_inTurn_ne _ (by rwa [hl₀])]
  line := hm ▸ State.lline_putLine_same _ _
  waitq d := by rw [State.waitq_putLine, State.waitq_inTurn]
  late d := by rw [State.late_putLine, State.late_inTurn]

section
variable {u : State} {e : Option LLine} (h : s.Serves u l e)
include h

theorem State.Serves.llcCount (line off : Nat) : s.Serves (u.llcCount line off) l e := by
  obtain ⟨⟨x, y, rfl⟩, hothers, hline, hwaitq, hlate⟩ := h
  exact ⟨⟨x, _, rfl⟩, hothers, hline, hwaitq, hlate⟩

theorem State.Serves.countServed (line : Nat) (read : Bool) : s.Serves (u.countServed line read) l e := h.llcCount _ _

theorem State.Serves.mem : u.mem = s.mem := by obtain ⟨x, y, rfl⟩ := h.rest; rfl
theorem State.Serves.cores : u.cores = s.cores := by obtain ⟨x, y, rfl⟩ := h.rest; rfl
theorem State.Serves.up : u.up = s.up := by obtain ⟨x, y, rfl⟩ := h.rest; rfl
theorem State.Serves.dn : u.dn = s.dn := by obtain ⟨x, y, rfl⟩ := h.rest; rfl
theorem State.Serves.hbm : u.hbm = s.hbm := by obtain ⟨x, y, rfl⟩ := h.rest; rfl
theorem State.Serves.out : u.out = s.out := by obtain ⟨x, y, rfl⟩ := h.rest; rfl
theorem State.Serves.now : u.now = s.now := by obtain ⟨x, y, rfl⟩ := h.rest; rfl

theorem State.Serves.actsAt : s.actsAt u l.line := ⟨h.others, h.mem, h.cores⟩

/-- Messages and requests of memory beside, the same holds of what the slice's step makes of the state. -/
theorem State.Serves.actsAt_of (hslices : t.slices = u.slices) (hmem : t.mem = u.mem) (hcores : t.cores = u.cores) :
    s.actsAt t l.line :=
  ⟨fun n hn => (State.lline_congr hslices n).trans (h.others n hn), hmem.trans h.mem, hcores.trans h.cores⟩

theorem State.Serves.settleLine (hslices : t.slices = u.slices) (hwait : (s.slice (homeDie l.line)).waitq = [])
    (hrest : ∀ m, e = some m → m.Rests) : t.settleLine l.line = t := by
  refine State.settleLine_of_rest (fun n hn => hrest n ?_) ?_
  · exact ((State.lline_congr hslices _).trans h.line).symm.trans hn
  · rw [State.slice_congr hslices, h.waitq, hwait]

theorem State.Serves.ended (hslices : t.slices = u.slices) (hwait : (s.slice (homeDie l.line)).waitq = [])
    (hlate : (s.slice (homeDie l.line)).late = []) (hrest : ∀ m, e = some m → m.Rests) : t.ended l.line = t := by
  have hnone : (t.slice (homeDie l.line)).late = [] := by rw [State.slice_congr hslices, h.late, hlate]
  simp only [State.ended, h.settleLine hslices hwait hrest, State.admitLate, hnone]

end

/-- A request that is performed at a line on which nothing is in progress, at a slice where nothing waits. -/
theorem State.arrive_of_calm {u : State} (hcalm : s.calm l) (hperform : s.perform l r = t) (hserves : s.Serves u l (some m))
    (hslices : t.slices = u.slices) (hrest : m.Rests) : s.arrive l.line r = t := by
  obtain ⟨hline, hop, -, -, hwait, -⟩ := hcalm
  simp only [State.arrive, hline, State.atEntry, hop, hperform]
  exact hserves.settleLine hslices hwait fun n hn => Option.some.inj hn ▸ hrest

/-- Snoops are over, and the line holds the sectors that the request needs (R325). -/
theorem State.llcAdvance_of_here {line : Nat} (hline : s.lline line = some l) (hop : l.op = some { req := r, phase := .snoop })
    (hneed : r.fills l.sect = 0) : s.llcAdvance line =
      (if r.isVict || r.isWb then s else s.countServed line l.resolved).finishValue { l with resolved := false } r := by
  simp [State.llcAdvance, hline, hop, hneed]

/-- Snoops are over, and HBM is asked for the sectors that the line lacks (R325). -/
theorem State.llcAdvance_of_lacking {line : Nat} (hline : s.lline line = some l)
    (hop : l.op = some { req := r, phase := .snoop }) (hneed : r.fills l.sect ≠ 0) : s.llcAdvance line =
      ((s.countServed line true).putLine { l with
        resolved := false, op := some { req := r, phase := .fill [r] } }).hbmAsk line (r.fills l.sect) false := by
  simp only [State.llcAdvance, hline, hop]
  exact (if_neg (not_not.2 rfl)).trans (if_neg hneed)

/-- The line while an operation on it waits for no core (R323). -/
def LLine.busyWith (l : LLine) (r : LReq) (p : OpPhase) : LLine := { l with op := some { req := r, phase := p } }

/-- An operation that snoops no core goes on at once. -/
theorem State.opSnoop_nil (b : DnBody) (hvict : r.isVict = false) :
    s.opSnoop l r [] b = (s.putLine (l.busyWith r .snoop)).llcAdvance l.line := by
  simp only [State.opSnoop, State.startOp, List.foldl_nil, hvict]
  rfl

/-- Requests that snoop the holders of a value line, and that a line without holders takes at once (R325). -/
def LReq.snoops : LReq → Bool
  | .rd _ _ _ => true | .own _ => true | .ownFull _ => true | .ard _ _ _ => true | .awr _ _ _ => true
  | .dead _ _ => true | .vict => true | .wb _ => true
  | .join _ _ => false | .wbd _ _ => false | .wbr _ _ _ _ => false | .aadd _ _ _ => false

theorem LLine.targets_of_idle (h : l.idleS) : l.targets = [] := by
  obtain ⟨-, hptr, hholders⟩ := h
  simp [LLine.targets, hptr, hholders]

theorem LLine.noHolders_of_idle (h : l.idleS) : l.noHolders = true := by
  obtain ⟨-, hptr, hholders⟩ := h
  simp [LLine.noHolders, hptr, hholders]

theorem LLine.owned_of_idle (h : l.idleS) : l.owned = false := by
  simp [LLine.owned, h.1]

theorem State.performValue_of_idle (hidle : l.idleS) (hsnoops : r.snoops = true) :
    ∃ b, s.performValue l r = s.opSnoop l r [] b := by
  have htargets := LLine.targets_of_idle hidle
  have howned := LLine.owned_of_idle hidle
  cases r with
  | wb inv => cases inv <;> exact ⟨_, by simp only [State.performValue, htargets, howned]; rfl⟩
  | join | wbd | wbr | aadd => cases hsnoops
  | _ => exact ⟨_, by simp only [State.performValue, htargets, howned]; rfl⟩

/-- The line as its request finds it: used in the slice's turn. -/
def LLine.usedAt (l : LLine) (n : Nat) : LLine := { l with used := n }

theorem State.clock_bumpClock (d : Nat) : ((s.bumpClock d).slice d).clock = (s.slice d).clock + 1 := by
  rw [State.bumpClock, State.slice_setSlice_same]

theorem State.perform_of_value (hst : l.st = .s ∨ l.st = .e ∨ l.st = .m) :
    s.perform l r = (s.inTurn l).performValue (l.usedAt (s.nextUse l.line)) r := by
  unfold State.perform
  simp only [State.clock_bumpClock]
  split
  case h_1 | h_2 | h_3 => rfl
  all_goals next h => simp [h] at hst

theorem State.perform_of_red (hst : l.st = .red) :
    s.perform l r = (s.inTurn l).performRed (l.usedAt (s.nextUse l.line)) r := by
  unfold State.perform
  simp only [State.clock_bumpClock]
  split
  case h_4 => rfl
  all_goals next h => cases hst.symm.trans h

/-- The line while a request that has performed its snoops goes on. -/
def LLine.going (l : LLine) (r : LReq) (n : Nat) : LLine := (l.usedAt n).busyWith r .snoop

theorem State.perform_of_idle (hidle : l.idleS) (hsnoops : r.snoops = true) (hvict : r.isVict = false) :
    s.perform l r = (s.inTurn (l.going r (s.nextUse l.line))).llcAdvance l.line := by
  obtain ⟨b, hb⟩ := State.performValue_of_idle (s := s.inTurn l) (l := l.usedAt (s.nextUse l.line)) hidle hsnoops
  rw [State.perform_of_value (.inl hidle.1), hb, State.opSnoop_nil b hvict]
  exact congrArg (fun u : State => u.llcAdvance l.line) (State.putLine_inTurn s rfl rfl)

theorem State.lline_inTurn_going (n : Nat) : (s.inTurn (l.going r n)).lline l.line =
    some (l.going r (s.nextUse l.line)) := State.lline_putLine_same _ _

/-- The line holds every sector that the request needs. -/
theorem State.perform_of_here (hidle : l.idleS) (hresolved : l.resolved = false) (hsnoops : r.snoops = true)
    (hvict : r.isVict = false) (hwb : r.isWb = false) (hneed : r.fills l.sect = 0) :
    s.perform l r = ((s.inTurn (l.going r (s.nextUse l.line))).countServed l.line false).finishValue
      (l.going r (s.nextUse l.line)) r := by
  have hself : { l.going r (s.nextUse l.line) with resolved := false } = l.going r (s.nextUse l.line) := by
    rw [LLine.going, LLine.busyWith, LLine.usedAt, hresolved]
  have hgoing : (l.going r (s.nextUse l.line)).resolved = false := hresolved
  rw [State.perform_of_idle hidle hsnoops hvict, State.llcAdvance_of_here (State.lline_inTurn_going _) rfl hneed, hself,
    hvict, hwb, hgoing]
  rfl

/-- The line lacks sectors that the request needs. -/
theorem State.perform_of_lacking (hidle : l.idleS) (hresolved : l.resolved = false) (hsnoops : r.snoops = true)
    (hvict : r.isVict = false) (hneed : r.fills l.sect ≠ 0) :
    s.perform l r = (((s.inTurn (l.going r (s.nextUse l.line))).countServed l.line true).putLine
      ((l.usedAt (s.nextUse l.line)).busyWith r (.fill [r]))).hbmAsk l.line (r.fills l.sect) false := by
  rw [State.perform_of_idle hidle hsnoops hvict, State.llcAdvance_of_lacking (State.lline_inTurn_going _) rfl hneed]
  have hself : { l.going r (s.nextUse l.line) with
      resolved := false, op := some { req := r, phase := .fill [r] } } =
        (l.usedAt (s.nextUse l.line)).busyWith r (.fill [r]) := by
    rw [LLine.going, LLine.busyWith, LLine.usedAt, LLine.busyWith, hresolved]
  rw [hself]
  rfl

/-! ### What each row makes of the line (R325) -/

/-- The line with one holder, who may write it where `st` is E or M. -/
def LLine.heldBy (l : LLine) (st : LSt) (k : Nat) : LLine := { l with st := st, ptr := true, holders := k, op := none }

end

/-! ### Reads of HBM that are asked for (R347, R348) -/

theorem askedSectors_of_no_read {line : Nat} {rs : List NReq} (h : rs.any (fun r => r.line = line && !r.write) = false) :
    askedSectors line 0 rs = 0 := by
  induction rs with
  | nil => rfl
  | cons r rs ih =>
    simp only [List.any_cons, Bool.or_eq_false_iff] at h
    obtain ⟨hr, hrs⟩ := h
    rw [askedSectors]
    by_cases hline : r.line = line
    · have hwrite : r.write = true := by simpa [hline] using hr
      simpa [hline, hwrite] using ih hrs
    · simpa [hline] using ih hrs

theorem State.hbmAsk_of_free {s : State} {line : Nat} {sect : BitVec 4} (merge : Bool) (hbusy : s.hbmBusy line = false)
    (hsect : sect ≠ 0) : s.hbmAsk line sect merge = { s with hbm := { s.hbm with nreq := s.hbm.nreq ++
      [{ line := line, sect := sect, write := false, merge := merge, since := s.now }] } } := by
  have hasked : sect &&& ~~~(askedSectors line 0 s.hbm.nreq) = sect := by
    rw [askedSectors_of_no_read hbusy]
    exact BitVec.and_allOnes
  simp only [State.hbmAsk, hasked]
  exact if_neg hsect

theorem State.hbmAsk_eq (s : State) (line : Nat) (sect : BitVec 4) (merge : Bool) :
    ∃ x, s.hbmAsk line sect merge = { s with hbm := x } := by
  simp only [State.hbmAsk]
  split
  · exact ⟨_, rfl⟩
  · exact ⟨_, rfl⟩

/-- Sectors that a line lacks none of are all there. -/
theorem and_eq_self_of_lacks_none {m v : BitVec 4} (h : m &&& ~~~v = 0) : m &&& v = m := by
  have hsplit : m &&& v ||| m &&& ~~~v = m := by
    rw [← BitVec.and_or_distrib_left, BitVec.or_not_self, BitVec.and_allOnes]
  rw [h] at hsplit
  simpa using hsplit

end Sys2Proof.Machine

namespace Sys2Proof.Machine

/-!
## The rows of a core's requests on a line that nothing holds up (R325 to R327)
-/

section
variable {s : State} {l : LLine}

/-- The one reader of a line without holders owns it. -/
theorem State.serveReads_alone (k : Nat) (sect : BitVec 4) (c : Option Nat) (h : l.noHolders = true) :
    s.serveReads l [.rd k sect c] =
      (s.putLine (l.heldBy .e k)).dnSend k l.line (.fill .e (sect &&& l.sect) l.data) := by
  have hadd : { l with st := .s, op := none }.addHolder k = l.heldBy .s k := if_pos h
  have hks : readCores [.rd k sect c] = [k] := rfl
  simp only [State.serveReads, hks, List.foldl_cons, List.foldl_nil, hadd, h]
  rfl

theorem LLine.heldBy_going (hop : l.op = none) (r : LReq) (n : Nat) (st : LSt) (k : Nat) :
    (l.going r n).heldBy st k = { l with st := st, ptr := true, holders := k, used := n } := by
  simp [LLine.heldBy, LLine.going, LLine.usedAt, LLine.busyWith, hop]

theorem State.putLine_countServed (m : LLine) (line : Nat) (read : Bool) :
    (s.countServed line read).putLine m = (s.putLine m).countServed line read := rfl

/-- The line as a grant leaves it: what OWN, OWN_FULL and the first RD make of it (R325). -/
def State.granted (s : State) (l : LLine) (r : LReq) (st : LSt) (k : Nat) : State :=
  ((s.inTurn (l.going r (s.nextUse l.line))).putLine ((l.going r (s.nextUse l.line)).heldBy st k)).countServed l.line false

/-- A grant to a core, from a line on which nothing is in progress. -/
structure State.Grants (s t : State) (l : LLine) (st : LSt) (k : Nat) (b : DnBody) : Prop where
  acts : s.actsAt t l.line
  up : t.up = s.up
  hbm : t.hbm = s.hbm
  dn : t.dn = s.dn ++ [⟨k, l.line, b⟩]
  line : t.lline l.line = some { l with st := st, ptr := true, holders := k, used := s.nextUse l.line }

theorem State.arrive_grants (hcalm : s.calm l) {r : LReq} {st : LSt} {k : Nat} {b : DnBody}
    (hperform : s.perform l r = (s.granted l r st k).dnSend k l.line b) : s.Grants (s.arrive l.line r) l st k b := by
  have hu : s.Serves (s.granted l r st k) l
      (some { l with st := st, ptr := true, holders := k, used := s.nextUse l.line }) := by
    rw [State.granted, LLine.heldBy_going hcalm.2.1]
    exact (State.serves_inTurn (by rfl) (by rfl)).countServed _ _
  generalize s.granted l r st k = u at hperform hu
  rw [State.arrive_of_calm hcalm hperform hu rfl (.inr hcalm.2.2.1)]
  exact ⟨hu.actsAt_of rfl rfl rfl, hu.up, hu.hbm, congrArg (· ++ _) hu.dn, hu.line⟩

theorem State.arrive_rd_of_here (hcalm : s.calm l) (hidle : l.idleS) {m : BitVec 4} (hsect : m &&& ~~~l.sect = 0)
    (k : Nat) (c : Option Nat) : s.Grants (s.arrive l.line (.rd k m c)) l .e k (.fill .e m l.data) := by
  refine State.arrive_grants hcalm ?_
  rw [State.perform_of_here (r := .rd k m c) hidle hcalm.2.2.2.1 rfl rfl rfl hsect]
  refine (State.serveReads_alone k m c (by exact LLine.noHolders_of_idle hidle)).trans ?_
  rw [show m &&& (l.going (.rd k m c) (s.nextUse l.line)).sect = m from and_eq_self_of_lacks_none hsect,
    State.putLine_countServed]
  rfl

theorem State.arrive_own_of_here (hcalm : s.calm l) (hidle : l.idleS) (hsect : l.sect = 0xF) (k : Nat) :
    s.Grants (s.arrive l.line (.own k)) l .m k (.fill .m 0xF l.data) := by
  refine State.arrive_grants hcalm ?_
  rw [State.perform_of_here (r := .own k) hidle hcalm.2.2.2.1 rfl rfl rfl (by rw [LReq.fills, hsect]; rfl)]
  rfl

theorem State.arrive_ownFull (hcalm : s.calm l) (hidle : l.idleS) (k : Nat) :
    s.Grants (s.arrive l.line (.ownFull k)) l .m k (.fill .m 0xF l.data) := by
  refine State.arrive_grants hcalm ?_
  rw [State.perform_of_here (r := .ownFull k) hidle hcalm.2.2.2.1 rfl rfl rfl rfl]
  rfl

/-- A read of sectors that the line lacks asks HBM for them. -/
theorem State.arrive_rd_of_lacking (hcalm : s.calm l) (hidle : l.idleS) {m : BitVec 4} (hsect : m &&& ~~~l.sect ≠ 0)
    (hbusy : s.hbmBusy l.line = false) (k : Nat) (c : Option Nat) : ∃ t, s.arrive l.line (.rd k m c) = t ∧
      s.actsAt t l.line ∧ t.dn = s.dn ∧ t.lline l.line = some { l with
        used := s.nextUse l.line, op := some { req := .rd k m c, phase := .fill [.rd k m c], wait := [] } } ∧
      t.hbm.nreq = s.hbm.nreq ++
        [{ line := l.line, sect := m &&& ~~~l.sect, write := false, merge := false, since := s.now }] := by
  have hperform := State.perform_of_lacking (s := s) (r := .rd k m c) hidle hcalm.2.2.2.1 rfl rfl hsect
  rw [State.putLine_countServed] at hperform
  have hu := (State.serves_inTurn (s := s) (l := l) (l₀ := l.going (.rd k m c) (s.nextUse l.line))
    (m := (l.usedAt (s.nextUse l.line)).busyWith (.rd k m c) (.fill [.rd k m c])) rfl rfl).countServed l.line true
  generalize ((s.inTurn (l.going (.rd k m c) (s.nextUse l.line))).putLine _).countServed l.line true = u at hperform hu
  have hfree : u.hbmBusy l.line = false := by rw [State.hbmBusy, hu.hbm]; exact hbusy
  rw [State.hbmAsk_of_free (sect := (LReq.rd k m c).fills l.sect) false hfree hsect] at hperform
  refine ⟨_, State.arrive_of_calm hcalm hperform hu rfl (.inl (Option.some_ne_none _)), hu.actsAt_of rfl rfl rfl, hu.dn,
    hu.line, ?_⟩
  rw [← hu.hbm, ← hu.now]
  rfl

/-- A RED line must be resolved for a reader first (R327). -/
theorem State.arrive_rd_of_red (hcalm : s.calm l) (hred : l.st = .red) (k : Nat) (m : BitVec 4) (c : Option Nat) :
    ∃ t, s.arrive l.line (.rd k m c) = t ∧ s.actsAt t l.line ∧ t.dn = s.dn ∧ t.lline l.line = some { l with
      used := s.nextUse l.line, op := some { req := .rd k m c, phase := .mergeWait } } := by
  have hperform : s.perform l (.rd k m c) =
      (s.inTurn l).putLine ((l.usedAt (s.nextUse l.line)).busyWith (.rd k m c) .mergeWait) := State.perform_of_red hred
  have hu := State.serves_inTurn (s := s) (l := l) (l₀ := l)
    (m := (l.usedAt (s.nextUse l.line)).busyWith (.rd k m c) .mergeWait) rfl rfl
  exact ⟨_, State.arrive_of_calm hcalm hperform hu rfl (.inl (Option.some_ne_none _)), hu.actsAt, hu.dn, hu.line⟩

theorem LLine.addHolder_usedAt (l : LLine) (n k : Nat) : (l.usedAt n).addHolder k = (l.addHolder k).usedAt n := by
  unfold LLine.addHolder LLine.noHolders LLine.usedAt
  split_ifs <;> rfl

@[simp] theorem LLine.addHolder_line (l : LLine) (k : Nat) : (l.addHolder k).line = l.line := by
  unfold LLine.addHolder
  split_ifs <;> rfl

@[simp] theorem LLine.addHolder_queue (l : LLine) (k : Nat) : (l.addHolder k).queue = l.queue := by
  unfold LLine.addHolder
  split_ifs <;> rfl

/-- A core joins a RED line of its type. -/
theorem State.arrive_join_of_red (hcalm : s.calm l) (hred : l.st = .red) (k : Nat) : ∃ t,
    s.arrive l.line (.join k l.dt) = t ∧ s.actsAt t l.line ∧
      t.lline l.line = some { (l.addHolder k) with used := s.nextUse l.line } ∧
      t.dn = s.dn ++ [⟨k, l.line, .joinAck⟩] := by
  have hperform : s.perform l (.join k l.dt) = (((s.inTurn l).putLine ((l.addHolder k).usedAt (s.nextUse l.line))).llcCount
      l.line 0x804).dnSend k l.line .joinAck := by
    rw [State.perform_of_red hred, ← LLine.addHolder_usedAt]
    exact if_pos rfl
  have hu := (State.serves_inTurn (s := s) (l := l) (l₀ := l) (m := (l.addHolder k).usedAt (s.nextUse l.line)) rfl
    (LLine.addHolder_line l k)).llcCount l.line 0x804
  generalize ((s.inTurn l).putLine _).llcCount l.line 0x804 = u at hperform hu
  exact ⟨_, State.arrive_of_calm hcalm hperform hu rfl (.inr ((LLine.addHolder_queue l k).trans hcalm.2.2.1)),
    hu.actsAt_of rfl rfl rfl, hu.line, congrArg (· ++ _) hu.dn⟩

/-- The owner of a line gives it back (R324). -/
theorem State.arrive_wbd_of_owner (hcalm : s.calm l) (hst : l.st = .e ∨ l.st = .m) (hptr : l.ptr = true) (d : List Byte) :
    ∃ t, s.arrive l.line (.wbd l.holders d) = t ∧ s.actsAt t l.line ∧ t.dn = s.dn ∧ t.lline l.line = some { l with
      st := .s, ptr := false, holders := 0, dirty := true, sect := 0xF, data := d, used := s.nextUse l.line } := by
  have howned : (l.owned && l.owner = some l.holders) = true := by
    rcases hst with h | h <;> simp [LLine.owned, LLine.owner, h, hptr]
  have hperform : s.perform l (.wbd l.holders d) = ((s.inTurn l).putLine { (l.usedAt (s.nextUse l.line)).noOne with
      st := .s, dirty := true, sect := 0xF, data := d }).llcCount l.line 0x804 := by
    rw [State.perform_of_value (.inr hst)]
    exact if_pos howned
  have hu := (State.serves_inTurn (s := s) (l := l) (l₀ := l) (m := { (l.usedAt (s.nextUse l.line)).noOne with
    st := .s, dirty := true, sect := 0xF, data := d }) rfl rfl).llcCount l.line 0x804
  exact ⟨_, State.arrive_of_calm hcalm hperform hu rfl (.inr hcalm.2.2.1), hu.actsAt, hu.dn, hu.line⟩

/-- A holder of a RED line gives its delta back and leaves (R324, R327). -/
theorem State.arrive_wbr_of_holder (hcalm : s.calm l) (hred : l.st = .red) (hptr : l.ptr = true) (m : BitVec 4)
    (d : List Byte) : ∃ t, s.arrive l.line (.wbr l.holders l.dt m d) = t ∧ s.actsAt t l.line ∧ t.dn = s.dn ∧
      t.lline l.line = some { l with ptr := false, holders := 0, sect := l.sect ||| m, data := addDelta l.dt m l.data d,
                                     used := s.nextUse l.line } := by
  have howner : ((l.usedAt (s.nextUse l.line)).absorb l.dt m d).owner = some l.holders := if_pos hptr
  have hperform : s.perform l (.wbr l.holders l.dt m d) = (((s.inTurn l).putLine
      ((l.usedAt (s.nextUse l.line)).absorb l.dt m d).noOne).llcCount l.line 0x810).llcCount l.line 0x804 := by
    rw [State.perform_of_red hred]
    refine (if_pos rfl).trans ?_
    simp only [howner, if_true]
    rfl
  have hu := ((State.serves_inTurn (s := s) (l := l) (l₀ := l)
    (m := ((l.usedAt (s.nextUse l.line)).absorb l.dt m d).noOne) rfl rfl).llcCount l.line 0x810).llcCount l.line 0x804
  exact ⟨_, State.arrive_of_calm hcalm hperform hu rfl (.inr hcalm.2.2.1), hu.actsAt, hu.dn, hu.line⟩

/-- A line without holders is DEAD at once (R332). -/
theorem State.arrive_dead (hcalm : s.calm l) (hidle : l.idleS) (k : Nat) (chk : Bool) : ∃ t,
    s.arrive l.line (.dead k chk) = t ∧ s.actsAt t l.line ∧ t.dn = s.dn ∧
      t.lline l.line = some { l.fresh with st := .dead, chk := chk, used := s.nextUse l.line } := by
  have hfresh : { (l.going (.dead k chk) (s.nextUse l.line)).fresh with st := .dead, chk := chk, op := none } =
      { l.fresh with st := .dead, chk := chk, used := s.nextUse l.line } := by
    simp [LLine.fresh, LLine.noOne, LLine.going, LLine.usedAt, LLine.busyWith, hcalm.2.1]
  have hperform := State.perform_of_here (s := s) (r := .dead k chk) hidle hcalm.2.2.2.1 rfl rfl rfl rfl
  rw [State.finishValue, hfresh, State.putLine_countServed] at hperform
  have hu := (State.serves_inTurn (s := s) (l := l) (l₀ := l.going (.dead k chk) (s.nextUse l.line))
    (m := { l.fresh with st := .dead, chk := chk, used := s.nextUse l.line }) rfl rfl).countServed l.line false
  exact ⟨_, State.arrive_of_calm hcalm hperform hu rfl (.inr hcalm.2.2.1), hu.actsAt, hu.dn, hu.line⟩

end

/-! ### The message that a slice takes (R323) -/

section
variable {s : State} {k : CoreId} {n : Line}

theorem State.onUp_of {k n : Nat} {m : UpMsg} {f : UpMsg → Option State} {t : State} (h : s.upFirst k n = some m)
    (hf : f m = some t) : s.onUp k n f = t := by
  simp only [State.onUp, h, hf, Option.getD_some]

/-- The state in which the slice has taken a message of a core. -/
abbrev State.taken (s : State) (k : CoreId) (n : Line) (b : UpBody) : State := s.upTake ⟨k.val, n.toNat, b⟩

theorem exec_rd_of_sends {m : BitVec 4} {c : Option Nat} (h : s.sends k.val n.toNat (.rd m c)) :
    exec (.rd k n) s = .next ((s.taken k n (.rd m c)).arrive n.toNat (.rd k.val m c)) :=
  congrArg Host.Outcome.next (State.onUp_of h.1 (if_pos h.2))

theorem exec_own_of_sends (h : s.sends k.val n.toNat .own) :
    exec (.own k n) s = .next ((s.taken k n .own).arrive n.toNat (.own k.val)) :=
  congrArg Host.Outcome.next (State.onUp_of h.1 (if_pos h.2))

theorem exec_ownFull_of_sends (h : s.sends k.val n.toNat .ownFull) :
    exec (.ownFull k n) s = .next ((s.taken k n .ownFull).arrive n.toNat (.ownFull k.val)) :=
  congrArg Host.Outcome.next (State.onUp_of h.1 (if_pos h.2))

theorem exec_joinRequest_of_sends {t : DType} (h : s.sends k.val n.toNat (.join t)) :
    exec (.joinRequest k n) s = .next ((s.taken k n (.join t)).arrive n.toNat (.join k.val t)) :=
  congrArg Host.Outcome.next (State.onUp_of h.1 (if_pos h.2))

theorem exec_wbd_of_first {d : List Byte} (h : s.upFirst k.val n.toNat = some ⟨k.val, n.toNat, .wbd d⟩) :
    exec (.wbd k n) s = .next ((s.taken k n (.wbd d)).arrive n.toNat (.wbd k.val d)) :=
  congrArg Host.Outcome.next (State.onUp_of h rfl)

theorem exec_wbr_of_first {t : DType} {m : BitVec 4} {d : List Byte}
    (h : s.upFirst k.val n.toNat = some ⟨k.val, n.toNat, .wbr t m d⟩) :
    exec (.wbr k n) s = .next ((s.taken k n (.wbr t m d)).arrive n.toNat (.wbr k.val t m d)) :=
  congrArg Host.Outcome.next (State.onUp_of h rfl)

theorem exec_deadRequest_of_sends {chk : Bool} (h : s.sends k.val n.toNat (.dead chk)) :
    exec (.deadRequest k n) s = .next (((s.taken k n (.dead chk)).setCore k.val
      ((s.core k.val).deadAccepted n.toNat)).arrive n.toNat (.dead k.val chk)) :=
  congrArg Host.Outcome.next (State.onUp_of h.1 (if_pos h.2))

/-! ### An acknowledged JOIN (R315) -/

theorem MemOp.acked_cases {o p : MemOp} {line : Nat} (h : o.acked line = some p) :
    p.id = o.id ∧ p.thr = o.thr ∧ p.kind ≠ .join line 0 ∧ (o.lines = [] → p.lines = []) ∨
      p = o ∧ o.kind ≠ .join line 0 := by
  obtain ⟨id, ins, bslot, thr, kind, lost⟩ := o
  cases kind with
  | join j acks =>
    simp only [MemOp.acked] at h
    split at h
    next hline =>
      split at h
      next => cases h
      next hacks =>
        cases h
        refine .inl ⟨rfl, rfl, fun hkind => ?_, fun _ => rfl⟩
        injection hkind with _ hzero
        omega
    next hline =>
      cases h
      exact .inr ⟨rfl, fun hkind => hline (MemKind.join.inj hkind).1⟩
  | load | store | add | dead | result =>
    cases h
    exact .inr ⟨rfl, fun hkind => by cases hkind⟩

theorem MemOp.acked_isSome {o : MemOp} {line : Nat} (hone : o.kind ≠ .join line 1) (hzero : o.kind ≠ .join line 0) :
    ∃ p, o.acked line = some p ∧ p.id = o.id ∧ p.thr = o.thr := by
  obtain ⟨id, ins, bslot, thr, kind, lost⟩ := o
  cases kind with
  | join j acks =>
    simp only [MemOp.acked]
    split
    next hline =>
      subst hline
      rw [if_neg fun hacks => ?_]
      · exact ⟨_, rfl, rfl, rfl⟩
      · interval_cases acks
        · exact hzero rfl
        · exact hone rfl
    next => exact ⟨_, rfl, rfl, rfl⟩
  | load | store | add | dead | result => exact ⟨_, rfl, rfl, rfl⟩

/-- A core none of whose operations waits for a line has none to try again (R169). -/
theorem State.pumpStalled_of_no_lines {j : Nat} (h : ∀ o ∈ (s.core j).ops, o.lines = []) : s.pumpStalled j = s := by
  rw [State.pumpStalled, List.flatMap_eq_nil_iff.2 h]
  rfl

theorem Core.joinsOf_joined (c : Core) (line : Nat) : (c.joined line).joinsOf line = c.joinsOf line - 1 := by
  simp [Core.joined, Core.joinsOf]

theorem exec_joinAck_of_first {m : DnMsg} (hfirst : s.dnFirst k.val n.toNat = some m) (hbody : m.body = .joinAck)
    (hlines : ∀ o ∈ (s.core k.val).ops, o.lines = []) : exec (.joinAck k n) s = .next ((s.dnTake m).setCore k.val
      ((s.core k.val).joined n.toNat)) := by
  have hstalled : ((s.dnTake m).setCore k.val ((s.core k.val).joined n.toNat)).pumpStalled k.val =
      (s.dnTake m).setCore k.val ((s.core k.val).joined n.toNat) := by
    refine State.pumpStalled_of_no_lines fun p hp => ?_
    rw [State.core_setCore_same] at hp
    obtain ⟨o, ho, hacked⟩ := List.mem_filterMap.1 hp
    rcases MemOp.acked_cases hacked with ⟨-, -, -, hkeeps⟩ | ⟨rfl, -⟩
    · exact hkeeps (hlines o ho)
    · exact hlines p ho
  refine congrArg Host.Outcome.next ?_
  simp only [hfirst, hbody]
  exact hstalled

end

end Sys2Proof.Machine

namespace Sys2Proof.Proofs.L1ScratchLlc
open Sys2Proof Sys2Proof.Machine

/-- Settles O31: a calm line takes each request in its turn, by its row of the transition table, and nothing follows; an
acknowledged JOIN ends the adds that waited for it alone. -/
theorem coreRequests : Obligations.CoreRequests := by
  unfold Obligations.CoreRequests
  refine ⟨fun k n s l m c hsends hline hcalm => ?_, fun k n s l hsends hline hcalm hidle hsect => ?_,
    fun k n s l hsends hline hcalm hidle => ?_, fun k n s l ty hsends hline hcalm hred hdt => ?_,
    fun k n s m hfirst hbody hlines => ?_, fun k n s l d hfirst hline hcalm hst hptr hholders => ?_,
    fun k n s l ty m d hfirst hline hcalm hred hdt hptr hholders => ?_,
    fun k n s l chk hsends hline hcalm hidle => ?_⟩
  · have hexec := exec_rd_of_sends hsends
    rw [← hline] at hexec ⊢
    refine ⟨fun hidle hsect => ?_, fun hidle hsect hbusy => ?_, fun hred => ?_⟩
    · have hg := State.arrive_rd_of_here (s := s.taken k n (.rd m c)) hcalm hidle hsect k.val c
      refine ⟨_, hexec, hg.acts, ?_, hg.line, hg.dn⟩
      rw [hg.up, hline]
      rfl
    · obtain ⟨t, harrive, hrest⟩ :=
        State.arrive_rd_of_lacking (s := s.taken k n (.rd m c)) hcalm hidle hsect hbusy k.val c
      exact ⟨t, hexec.trans (congrArg _ harrive), hrest.1, hrest.2.1, hrest.2.2⟩
    · obtain ⟨t, harrive, hrest⟩ := State.arrive_rd_of_red (s := s.taken k n (.rd m c)) hcalm hred k.val m c
      exact ⟨t, hexec.trans (congrArg _ harrive), hrest⟩
  · have hexec := exec_own_of_sends hsends
    have hg := State.arrive_own_of_here (s := s.taken k n .own) hcalm hidle hsect k.val
    rw [hline] at hg
    exact ⟨_, hexec, hline ▸ hg.acts, hline ▸ hg.line, hline ▸ hg.dn⟩
  · have hexec := exec_ownFull_of_sends hsends
    rw [← hline] at hexec ⊢
    have hg := State.arrive_ownFull (s := s.taken k n .ownFull) hcalm hidle k.val
    exact ⟨_, hexec, hg.acts, hg.hbm, hg.line, hg.dn⟩
  · have hexec := exec_joinRequest_of_sends hsends
    rw [← hline, ← hdt] at hexec
    rw [← hline]
    obtain ⟨t, harrive, hrest⟩ := State.arrive_join_of_red (s := s.taken k n (.join l.dt)) hcalm hred k.val
    exact ⟨t, hexec.trans (congrArg _ harrive), hrest⟩
  · refine ⟨_, exec_joinAck_of_first hfirst hbody hlines, rfl, ?_, fun p hp => ?_, fun o ho hone hzero => ?_, ?_, rfl⟩
    · rw [State.core_setCore_same, Core.joinsOf_joined]
    · rw [State.core_setCore_same] at hp
      obtain ⟨o, -, hacked⟩ := List.mem_filterMap.1 hp
      rcases MemOp.acked_cases hacked with ⟨-, -, hkind, -⟩ | ⟨rfl, hkind⟩
      · exact hkind
      · exact hkind
    · obtain ⟨p, hacked, hid, hthr⟩ := MemOp.acked_isSome hone hzero
      rw [State.core_setCore_same]
      exact ⟨p, List.mem_filterMap.2 ⟨o, ho, hacked⟩, hid, hthr⟩
    · rw [State.core_setCore_same]
      rfl
  · have hexec := exec_wbd_of_first hfirst
    rw [← hline, ← hholders] at hexec
    rw [← hline]
    obtain ⟨t, harrive, hrest⟩ := State.arrive_wbd_of_owner (s := s.taken k n (.wbd d)) hcalm hst hptr d
    exact ⟨t, hexec.trans (congrArg _ harrive), hrest⟩
  · have hexec := exec_wbr_of_first hfirst
    subst hdt
    rw [← hline, ← hholders] at hexec
    rw [← hline]
    obtain ⟨t, harrive, hrest⟩ := State.arrive_wbr_of_holder (s := s.taken k n (.wbr l.dt m d)) hcalm hred hptr m d
    exact ⟨t, hexec.trans (congrArg _ harrive), hrest⟩
  · have hexec := exec_deadRequest_of_sends hsends
    obtain ⟨t, harrive, ⟨-, hmem, hcores⟩, hdn, ht⟩ := State.arrive_dead
      (s := (s.taken k n (.dead chk)).setCore k.val ((s.core k.val).deadAccepted n.toNat)) hcalm hidle k.val chk
    rw [hline] at harrive
    refine ⟨t, hexec.trans (congrArg _ harrive), hdn, hmem, hline ▸ ht, ?_⟩
    rw [State.core, hcores]
    exact State.core_setCore_same _ _ _

end Sys2Proof.Proofs.L1ScratchLlc

namespace Sys2Proof.Machine

/-!
## What a slice writes to HBM, and lines that leave (R317, R325, R329)
-/

section
variable (s : State) (line : Nat) (m : BitVec 4) (d : List Byte)

/-- One sector of a write of a line. -/
def State.sectorWrite (t : State) (i : Nat) : State :=
  if m.getLsbD i then
    (t.memWrite (128 * line + 32 * i) (bytesAt d (32 * i) 32)).setUpset (4 * line + i) 0
  else t

theorem State.hbmWrite_eq_foldl : s.hbmWrite line m d = (List.range 4).foldl (State.sectorWrite line m d) s := rfl

theorem State.memRead_congr {s t : State} (h : t.mem = s.mem) (a n : Nat) : t.memRead a n = s.memRead a n := by
  simp only [State.memRead, State.memByte, h]

theorem State.memRead_memWrite_out {a n b : Nat} {bs : List Byte} (h : a + n ≤ b ∨ b + bs.length ≤ a) :
    (s.memWrite b bs).memRead a n = s.memRead a n := by
  refine List.map_congr_left fun i hi => State.memByte_memWrite_out s b bs ?_
  have := List.mem_range.1 hi
  omega

theorem State.memRead_sectorWrite_same (i : Nat) : (s.sectorWrite line m d i).memRead (128 * line + 32 * i) 32 =
    if m.getLsbD i then bytesAt d (32 * i) 32 else s.memRead (128 * line + 32 * i) 32 := by
  unfold State.sectorWrite
  split
  · have hread := s.memRead_memWrite (128 * line + 32 * i) (bytesAt d (32 * i) 32)
    rw [length_bytesAt] at hread
    exact (State.memRead_congr (by rfl) _ _).trans hread
  · rfl

theorem State.memRead_sectorWrite_other {i j : Nat} (h : i ≠ j) :
    (s.sectorWrite line m d j).memRead (128 * line + 32 * i) 32 = s.memRead (128 * line + 32 * i) 32 := by
  unfold State.sectorWrite
  split
  · refine (State.memRead_congr (by rfl) _ _).trans (s.memRead_memWrite_out ?_)
    rw [length_bytesAt]
    omega
  · rfl

theorem State.memRead_foldl_sectorWrite (k i : Nat) :
    ((List.range k).foldl (State.sectorWrite line m d) s).memRead (128 * line + 32 * i) 32 =
      if i < k ∧ m.getLsbD i then bytesAt d (32 * i) 32 else s.memRead (128 * line + 32 * i) 32 := by
  induction k with
  | zero => simp
  | succ k ih =>
    rw [List.range_succ, List.foldl_append, List.foldl_cons, List.foldl_nil]
    by_cases h : i = k
    · subst h
      rw [State.memRead_sectorWrite_same, ih]
      simp
    · have hlt : i < k + 1 ↔ i < k := by omega
      simp only [State.memRead_sectorWrite_other _ _ _ _ h, ih, hlt]

theorem State.memRead_hbmWrite {i : Nat} (hi : i < 4) : (s.hbmWrite line m d).memRead (128 * line + 32 * i) 32 =
    if m.getLsbD i then bytesAt d (32 * i) 32 else s.memRead (128 * line + 32 * i) 32 := by
  rw [State.hbmWrite_eq_foldl, State.memRead_foldl_sectorWrite]
  simp [hi]

theorem State.hbmWrite_eq : ∃ x y, s.hbmWrite line m d = { s with mem := x, hbm := y } := by
  refine foldl_keeps (fun t : State => ∃ x y, t = { s with mem := x, hbm := y }) (State.sectorWrite line m d)
    (fun t i ht => ?_) _ s ⟨_, _, rfl⟩
  obtain ⟨x, y, rfl⟩ := ht
  unfold State.sectorWrite
  split
  · exact ⟨_, _, rfl⟩
  · exact ⟨_, _, rfl⟩

/-- What a write of a line makes of memory, memory alone decides. -/
theorem State.hbmWrite_mem_congr {s t : State} (h : t.mem = s.mem) (line : Nat) (m : BitVec 4) (d : List Byte) :
    (t.hbmWrite line m d).mem = (s.hbmWrite line m d).mem := by
  refine List.foldl_rel (r := fun a b : State => a.mem = b.mem) h fun i _ a b hab => ?_
  split
  · exact congrArg (fun x => Memory.write x (128 * line + 32 * i) (bytesAt d (32 * i) 32)) hab
  · exact hab

theorem State.hbmWrite_zero : s.hbmWrite line 0 d = s := by
  have hstep : State.sectorWrite line 0 d = fun t _ => t := by
    funext t i
    exact if_neg (by simp)
  rw [State.hbmWrite_eq_foldl, hstep, List.foldl_fixed]

theorem State.hbmPut_eq (merge : Bool) : ∃ x y, s.hbmPut line m d merge = { s with mem := x, hbm := y } := by
  unfold State.hbmPut
  split
  · exact ⟨_, _, rfl⟩
  · obtain ⟨x, y, h⟩ := s.hbmWrite_eq line m d
    simp only [h]
    exact ⟨_, _, rfl⟩

theorem State.hbmPut_mem (merge : Bool) : (s.hbmPut line m d merge).mem = (s.hbmWrite line m d).mem := by
  unfold State.hbmPut
  split
  next h => rw [h, State.hbmWrite_zero]
  next => rfl

/-- HBM has taken what the LLC holds of a line beyond it (R325). -/
def State.wroteBack (l : LLine) : State := if l.dirty then s.hbmPut l.line l.sect l.data false else s

theorem State.wroteBack_eq (l : LLine) : ∃ x y, s.wroteBack l = { s with mem := x, hbm := y } := by
  unfold State.wroteBack
  split
  · exact s.hbmPut_eq _ _ _ _
  · exact ⟨_, _, rfl⟩

theorem State.wroteBack_mem {s t : State} {l l' : LLine} (h : t.mem = s.mem) (hline : l'.line = l.line)
    (hdirty : l'.dirty = l.dirty) (hsect : l'.sect = l.sect) (hdata : l'.data = l.data) :
    (t.wroteBack l').mem = if l.dirty then (s.hbmWrite l.line l.sect l.data).mem else s.mem := by
  rw [State.wroteBack, hline, hdirty, hsect, hdata]
  split
  · rw [State.hbmPut_mem, State.hbmWrite_mem_congr h]
  · exact h

end

section
variable {s t : State} {l m : LLine}

theorem State.putLine_slices_congr (h : t.slices = s.slices) (l : LLine) : (t.putLine l).slices = (s.putLine l).slices := by
  simp only [State.putLine, State.setSlice, State.slice, h]

theorem Slice.find_drop_same (x : Slice) (n : Nat) : (x.drop n).find n = none := by
  simp [Slice.drop, Slice.find]

theorem Slice.find_drop_ne (x : Slice) {n k : Nat} (h : n ≠ k) : (x.drop k).find n = x.find n := by
  simp only [Slice.drop, Slice.find, List.find?_filter]
  congr 1
  funext l
  by_cases hl : l.line = n <;> simp [hl, h]

theorem State.freeLine_slice (s : State) (l : LLine) : ∃ q, (s.freeLine l).slice (homeDie l.line) =
    { (s.slice (homeDie l.line)).drop l.line with waitq := q } ∧
      ((s.slice (homeDie l.line)).waitq = [] → l.queue = [] → q = []) := by
  have hdrop : (s.dropLine l.line).slice (homeDie l.line) = (s.slice (homeDie l.line)).drop l.line :=
    State.slice_setSlice_same _ _ _
  simp only [State.freeLine, State.slice_setSlice_same, hdrop]
  refine ⟨_, rfl, fun hwait hqueue => ?_⟩
  have hnone : ((s.slice (homeDie l.line)).drop l.line).waitq = [] := hwait
  simp only [hnone, hqueue]
  rfl

theorem State.freeLine_eq (s : State) (l : LLine) : ∃ x, s.freeLine l = { s with slices := x } := ⟨_, rfl⟩

theorem State.inTurn_eq (s : State) (m : LLine) : ∃ x, s.inTurn m = { s with slices := x } := ⟨_, rfl⟩

theorem State.freeLine_slice_ne (s : State) (l : LLine) {d : Nat} (h : d ≠ homeDie l.line) :
    (s.freeLine l).slice d = s.slice d := by
  rw [State.freeLine, State.slice_setSlice, if_neg h.symm, State.dropLine, State.slice_setSlice, if_neg h.symm]

theorem State.lline_freeLine_same (s : State) (l : LLine) : (s.freeLine l).lline l.line = none := by
  obtain ⟨q, hq, -⟩ := s.freeLine_slice l
  rw [State.lline, hq]
  exact Slice.find_drop_same _ _

theorem State.lline_freeLine_ne (s : State) (l : LLine) {n : Nat} (h : n ≠ l.line) :
    (s.freeLine l).lline n = s.lline n := by
  by_cases hd : homeDie n = homeDie l.line
  · obtain ⟨q, hq, -⟩ := s.freeLine_slice l
    rw [State.lline, hd, hq, State.lline, hd]
    exact Slice.find_drop_ne _ h
  · rw [State.lline, State.freeLine_slice_ne s l hd, State.lline]

theorem State.freeLine_slices_congr (h : t.slices = s.slices) (l : LLine) :
    (t.freeLine l).slices = (s.freeLine l).slices := by
  simp only [State.freeLine, State.dropLine, State.setSlice, State.slice, h]

/-- The slice performs a request in its turn, and the entry leaves; nothing waited for it. -/
theorem State.serves_freeLine {l₀ : LLine} (hl₀ : l₀.line = l.line) (hm : m.line = l.line)
    (hwait : (s.slice (homeDie l.line)).waitq = []) (hqueue : m.queue = []) :
    s.Serves ((s.inTurn l₀).freeLine m) l none := by
  obtain ⟨q, hq, hnone⟩ := (s.inTurn l₀).freeLine_slice m
  have hslice : ∀ d, ((s.inTurn l₀).freeLine m).slice d = (s.inTurn l₀).slice d ∨ d = homeDie l.line ∧
      ((s.inTurn l₀).freeLine m).slice d = { ((s.inTurn l₀).slice d).drop m.line with waitq := q } := fun d => by
    by_cases hd : d = homeDie m.line
    · exact .inr ⟨hm ▸ hd, hd ▸ hq⟩
    · exact .inl (State.freeLine_slice_ne _ _ hd)
  have hwaitq : ((s.inTurn l₀).slice (homeDie m.line)).waitq = [] := by rw [State.waitq_inTurn, hm, hwait]
  obtain ⟨x, hx⟩ := s.inTurn_eq l₀
  obtain ⟨y, hy⟩ := (s.inTurn l₀).freeLine_eq m
  refine ⟨⟨y, s.regs, by rw [hy, hx]⟩, fun n hn => ?_, hm ▸ State.lline_freeLine_same _ _, fun d => ?_, fun d => ?_⟩
  · rw [State.lline_freeLine_ne _ _ (by rwa [hm]), State.lline_inTurn_ne _ (by rwa [hl₀])]
  · rcases hslice d with h | ⟨hd, h⟩
    · rw [h, State.waitq_inTurn]
    · rw [h, hnone hwaitq hqueue, hd, hwait]
  · rcases hslice d with h | ⟨-, h⟩
    · rw [h, State.late_inTurn]
    · rw [h]
      exact State.late_inTurn l₀ d

end

/-!
## The rows of agents on a line that nothing holds up (R318, R325)
-/

section
variable {s : State} {l : LLine} {n : Line}

/-- What an agent of kind ARD leaves of a line that holds the sectors it names. -/
theorem State.serveReads_agent (a : Agent) (sect : BitVec 4) (c : Option Nat) (hst : l.st = .s) :
    s.serveReads l [.ard a sect c] = (s.putLine { l with op := none }).supply { l with op := none } a sect := by
  have hself : { l with st := .s, op := none } = { l with op := none } := by rw [← hst]
  have halone : (l.noHolders && decide ((readCores [.ard a sect c]).length = 1)) = false := by
    rw [Bool.and_eq_false_iff]
    exact .inr rfl
  simp only [State.serveReads, List.foldl_cons, List.foldl_nil, halone]
  exact congrArg (fun m : LLine => (s.putLine m).supply m a sect) hself

theorem State.arrive_ard_of_here (hcalm : s.calm l) (hidle : l.idleS) {m : BitVec 4} (hsect : m &&& ~~~l.sect = 0)
    (a : Agent) (c : Option Nat) : ∃ t, s.arrive l.line (.ard a m c) = t ∧ s.actsAt t l.line ∧ t.dn = s.dn ∧
      t.out = .agentData a l.line (mergeSectors m l.data (List.replicate 128 0)) :: s.out ∧
      t.lline l.line = some { l with used := s.nextUse l.line } := by
  have hself : { l.going (.ard a m c) (s.nextUse l.line) with op := none } = l.usedAt (s.nextUse l.line) := by
    rw [LLine.going, LLine.busyWith, LLine.usedAt, hcalm.2.1]
  have hperform := State.perform_of_here (s := s) (r := .ard a m c) hidle hcalm.2.2.2.1 rfl rfl rfl hsect
  rw [State.finishValue, State.serveReads_agent a m c (by exact hidle.1), hself, State.putLine_countServed, State.supply,
    show m &&& (l.usedAt (s.nextUse l.line)).sect = m from and_eq_self_of_lacks_none hsect] at hperform
  have hu := (State.serves_inTurn (s := s) (l := l) (l₀ := l.going (.ard a m c) (s.nextUse l.line))
    (m := l.usedAt (s.nextUse l.line)) rfl rfl).countServed l.line false
  generalize ((s.inTurn (l.going (.ard a m c) (s.nextUse l.line))).putLine _).countServed l.line false = u at hperform hu
  exact ⟨_, State.arrive_of_calm hcalm hperform hu rfl (.inr hcalm.2.2.1), hu.actsAt_of rfl rfl rfl, hu.dn,
    congrArg (_ :: ·) hu.out, hu.line⟩

theorem getLsbD_sectorsOf_foldl {a i : Nat} (as : List Nat) (m : BitVec 4)
    (h : m.getLsbD i = true ∨ a ∈ as ∧ a % 128 / 32 = i) :
    (as.foldl (fun m a => m ||| BitVec.ofNat 4 (2 ^ (a % 128 / 32))) m).getLsbD i = true := by
  induction as generalizing m with
  | nil => exact h.resolve_right fun hmem => by cases hmem.1
  | cons b as ih =>
    refine ih _ ?_
    rcases h with h | ⟨hmem, hi⟩
    · exact .inl (by simp [h])
    · rcases List.mem_cons.1 hmem with rfl | hmem
      · have hlt : i < 4 := by omega
        exact .inl (by rw [BitVec.getLsbD_or, hi, BitVec.getLsbD_ofNat, Nat.testBit_two_pow_self]; simp [hlt])
      · exact .inr ⟨hmem, hi⟩

/-- A sector that an address lies in is among those that the addresses touch. -/
theorem getLsbD_sectorsOf {a : Nat} {as : List Nat} (h : a ∈ as) : (sectorsOf as).getLsbD (a % 128 / 32) = true :=
  getLsbD_sectorsOf_foldl as 0 (.inr ⟨h, rfl⟩)

/-- Bytes entered one by one, from an offset on, overwrite what stood there. -/
theorem foldl_setAt_placed (off : Nat) (bs : List Byte) {d : List Byte} (h : off + bs.length ≤ d.length) :
    (placed off bs).foldl (fun d p => setAt d p.1 p.2) d = overlay d off bs := by
  induction bs generalizing off d with
  | nil => simp [placed, overlay]
  | cons b bs ih =>
    rw [List.length_cons] at h
    have hrest : placed off (b :: bs) = (off, b) :: placed (off + 1) bs := by
      simp only [placed, List.zipIdx_cons', List.map_cons, List.map_map]
      refine congrArg _ (List.map_congr_left fun x _ => ?_)
      simp [Prod.map]
      omega
    rw [hrest, List.foldl_cons, ih (off + 1) (by simp [setAt]; omega)]
    have htake : (d.set off b).take (off + 1) = d.take off ++ [b] := by
      rw [List.take_add_one, List.take_set, List.getElem?_set_self (by omega), List.set_eq_of_length_le (by simp)]
      rfl
    have hdrop : (d.set off b).drop (off + 1 + bs.length) = d.drop (off + 1 + bs.length) :=
      List.drop_set_of_lt (by omega)
    rw [overlay, overlay, setAt, htake, hdrop, List.length_cons]
    simp [Nat.add_comm, Nat.add_assoc]

theorem mem_placed {off : Nat} {bs : List Byte} {p : Nat × Byte} (h : p ∈ placed off bs) : p.1 < off + bs.length := by
  obtain ⟨x, hx, rfl⟩ := List.mem_map.1 h
  have := List.snd_lt_of_mem_zipIdx hx
  simp only
  omega

/-- Every byte of a write reaches a line all of whose sectors are there. -/
theorem LLine.written_of_whole {off : Nat} {bs : List Byte} (hsect : l.sect = 0xF) (hlen : l.data.length = 128)
    (hoff : off + bs.length ≤ 128) : l.written (placed off bs) = { l.noOne with
      st := .s, dirty := true, chk := false, data := overlay l.data off bs } := by
  have hall : (placed off bs).filter (fun p =>
      (wholeSectors (placed off bs) ||| (writtenSectors (placed off bs) &&& l.sect)).getLsbD (p.1 / 32)) =
        placed off bs := by
    refine List.filter_eq_self.2 fun p hp => ?_
    have hlt := mem_placed hp
    have hsector : (writtenSectors (placed off bs)).getLsbD (p.1 / 32) = true := by
      have := getLsbD_sectorsOf (a := p.1) (as := (placed off bs).map (·.1)) (List.mem_map.2 ⟨p, hp, rfl⟩)
      rwa [Nat.mod_eq_of_lt (by omega)] at this
    have hvalid : (0xF : BitVec 4).getLsbD (p.1 / 32) = true := by
      have : p.1 / 32 < 4 := by omega
      interval_cases p.1 / 32 <;> rfl
    rw [hsect, BitVec.getLsbD_or, BitVec.getLsbD_and, hsector, hvalid]
    simp
  have hwhole : ∀ x : BitVec 4, 0xF ||| x = 0xF := by decide
  simp only [LLine.written, hall, foldl_setAt_placed off bs (hoff.trans hlen.ge)]
  rw [hsect, hwhole, ← hsect]
  rfl

theorem State.arrive_awr_of_whole (hcalm : s.calm l) (hidle : l.idleS) (hsect : l.sect = 0xF) (hlen : l.data.length = 128)
    {off : Nat} {bs : List Byte} (hoff : off + bs.length ≤ 128) (a : Agent) (c : Option Nat) : ∃ t,
      s.arrive l.line (.awr a c (Machine.placed off bs)) = t ∧ s.actsAt t l.line ∧ t.dn = s.dn ∧
      t.lline l.line = some { l with
        dirty := true, chk := false, data := overlay l.data off bs, used := s.nextUse l.line } := by
  have hneed : (LReq.awr a c (Machine.placed off bs)).fills l.sect = 0 := by
    rw [LReq.fills, hsect]
    exact BitVec.and_zero
  have hwritten : { l.going (.awr a c (Machine.placed off bs)) (s.nextUse l.line) with op := none }.written (Machine.placed off bs) =
      { l with dirty := true, chk := false, data := overlay l.data off bs, used := s.nextUse l.line } := by
    obtain ⟨hst, hptr, hholders⟩ := hidle
    rw [LLine.written_of_whole (by exact hsect) (by exact hlen) hoff]
    simp [LLine.noOne, LLine.going, LLine.busyWith, LLine.usedAt, hcalm.2.1, hst, hptr, hholders]
  have hperform := State.perform_of_here (s := s) hidle hcalm.2.2.2.1 rfl rfl rfl hneed
  rw [State.finishValue, hwritten, State.putLine_countServed] at hperform
  have hu := (State.serves_inTurn (s := s) (l := l) (l₀ := l.going (.awr a c (Machine.placed off bs)) (s.nextUse l.line))
    (m := { l with dirty := true, chk := false, data := overlay l.data off bs, used := s.nextUse l.line })
    rfl rfl).countServed l.line false
  exact ⟨_, State.arrive_of_calm hcalm hperform hu rfl (.inr hcalm.2.2.1), hu.actsAt, hu.dn, hu.line⟩

/-- A clean line that no core holds becomes RED at once (R326). -/
theorem State.arrive_aadd_of_clean (hcalm : s.calm l) (hidle : l.idleS) (hclean : l.dirty = false) (a : Agent) (ty : DType)
    (es : List (Nat × Word)) : ∃ t, s.arrive l.line (.aadd a ty es) = t ∧ s.actsAt t l.line ∧ t.lline l.line = some { l with
        st := .red, dirty := false, chk := false, dt := ty, sect := elemSectors ty es
        data := addElems ty (List.replicate 128 0) es, used := s.nextUse l.line } := by
  have hperform : s.perform l (.aadd a ty es) = (((s.inTurn l).putLine { (l.usedAt (s.nextUse l.line)).fresh with
      st := .red, op := none, dt := ty, sect := elemSectors ty es
      data := addElems ty (List.replicate 128 0) es }).countServed l.line l.resolved).llcCount l.line 0x810 := by
    rw [State.perform_of_value (.inl hidle.1)]
    refine (if_pos ?_).trans rfl
    rw [show (l.usedAt (s.nextUse l.line)).targets = [] from LLine.targets_of_idle hidle,
      show (l.usedAt (s.nextUse l.line)).dirty = false from hclean]
    rfl
  have hu := ((State.serves_inTurn (s := s) (l := l) (l₀ := l) (m := { (l.usedAt (s.nextUse l.line)).fresh with
    st := .red, op := none, dt := ty, sect := elemSectors ty es
    data := addElems ty (List.replicate 128 0) es }) rfl rfl).countServed l.line l.resolved).llcCount l.line 0x810
  refine ⟨_, State.arrive_of_calm hcalm hperform hu rfl (.inr hcalm.2.2.1), hu.actsAt, hu.line.trans ?_⟩
  obtain ⟨-, hop, -, hresolved, -⟩ := hcalm
  obtain ⟨-, hptr, hholders⟩ := hidle
  simp [LLine.fresh, LLine.noOne, LLine.usedAt, hop, hresolved, hptr, hholders]

theorem State.agentReq_of (h : s.homed n.toNat = true) (ha : s.accepts n.toNat = true) (r : LReq) :
    s.agentReq n.toNat r = s.arrive n.toNat r := if_pos (by rw [h, ha]; rfl)

/-! ### Victims (R329) -/

/-- A victim without holders leaves. -/
theorem State.perform_vict_of_idle (hidle : l.idleS) : s.perform l .vict =
    (((s.inTurn (l.going .vict (s.nextUse l.line))).addCount .llc (homeDie l.line) 0x818 0).wroteBack
      (l.going .vict (s.nextUse l.line))).freeLine
        { l.going .vict (s.nextUse l.line) with resolved := false, op := none } := by
  have htargets : (l.usedAt (s.nextUse l.line)).targets = [] := LLine.targets_of_idle hidle
  have hput : (((s.inTurn l).addCount .llc (homeDie l.line) 0x818 0).putLine (l.going .vict (s.nextUse l.line))) =
      (s.inTurn (l.going .vict (s.nextUse l.line))).addCount .llc (homeDie l.line) 0x818 0 :=
    congrArg (fun u : State => u.addCount .llc (homeDie l.line) 0x818 0)
      (State.putLine_inTurn s (l := l) (m := l.going .vict (s.nextUse l.line)) rfl rfl)
  have hsnoop : s.perform l .vict =
      ((s.inTurn (l.going .vict (s.nextUse l.line))).addCount .llc (homeDie l.line) 0x818 0).llcAdvance l.line := by
    rw [State.perform_of_value (.inl hidle.1), ← hput, State.performValue, htargets]
    rfl
  rw [hsnoop, State.llcAdvance_of_here (by exact State.lline_inTurn_going _) rfl rfl]
  rfl

theorem State.perform_vict_spec (hidle : l.idleS) : (s.perform l .vict).lline l.line = none ∧
    (s.perform l .vict).mem = (if l.dirty then (s.hbmWrite l.line l.sect l.data).mem else s.mem) ∧
    (s.perform l .vict).dn = s.dn := by
  have hmem := State.wroteBack_mem (s := s) (l := l) (l' := l.going .vict (s.nextUse l.line))
    (t := (s.inTurn (l.going .vict (s.nextUse l.line))).addCount .llc (homeDie l.line) 0x818 0) rfl rfl rfl rfl rfl
  obtain ⟨x, y, hx⟩ := ((s.inTurn (l.going .vict (s.nextUse l.line))).addCount .llc (homeDie l.line) 0x818 0).wroteBack_eq
    (l.going .vict (s.nextUse l.line))
  rw [State.perform_vict_of_idle hidle]
  refine ⟨State.lline_freeLine_same _ { l.going .vict (s.nextUse l.line) with resolved := false, op := none }, hmem, ?_⟩
  rw [hx]
  rfl

theorem exec_vict_of_one {d : DieId} {set : Fin 32768} {line : Nat} {r : LReq}
    (hwait : (s.slice d.val).waitq = [(line, r)]) (hset : llcSet line = set.val)
    (hvictim : (s.slice d.val).victim set.val = some l) (hidle : ∀ x ∈ (s.slice d.val).lines, x.op = none) :
    exec (.vict d set) s = .next ((s.perform l .vict).ended l.line) := by
  refine congrArg Host.Outcome.next ?_
  simp only [hwait, hvictim]
  refine if_pos (lt_of_eq_of_lt (List.length_eq_zero_iff.2 (List.filter_eq_nil_iff.2 fun x hx => ?_)) ?_)
  · simp [hidle x hx]
  · simp [hset]

end

end Sys2Proof.Machine

namespace Sys2Proof.Proofs.L1ScratchLlc
open Sys2Proof Sys2Proof.Machine

/-- Settles O32: an agent's request is performed in its turn on a line that nothing holds up; a victim leaves with its
dirty sectors in HBM, sector by sector. -/
theorem agentRequests : Obligations.AgentRequests := by
  unfold Obligations.AgentRequests
  refine ⟨fun a c n m s l hhomed haccepts hline hcalm hidle hsect => ?_,
    fun a n off bs s l hhomed haccepts hline hcalm hidle hsect hlen hoff => ?_,
    fun a n ty es s l hhomed haccepts hline hcalm hes => ?_,
    fun d set s l line r hwait hset hvictim hops => exec_vict_of_one hwait hset hvictim hops,
    fun s l _ hidle _ => State.perform_vict_spec hidle, fun s line i m d hi => ⟨fun hm => ?_, fun hm => ?_⟩⟩
  · have hexec : exec (.ard a c n m) s = .next (s.arrive n.toNat (.ard a m (c.map (·.val)))) :=
      congrArg Host.Outcome.next (State.agentReq_of hhomed haccepts _)
    rw [← hline] at hexec ⊢
    obtain ⟨t, harrive, hrest⟩ := State.arrive_ard_of_here hcalm hidle hsect a (c.map (·.val))
    exact ⟨t, hexec.trans (congrArg _ harrive), hrest⟩
  · have hexec : exec (.awr a n off bs) s =
        .next (s.arrive n.toNat (.awr a.agent (a.ctx.map (·.val)) (placed off.val (bs.take (128 - off.val))))) :=
      congrArg Host.Outcome.next (State.agentReq_of hhomed haccepts _)
    rw [List.take_of_length_le (by omega), ← hline] at hexec
    rw [← hline]
    obtain ⟨t, harrive, hrest⟩ := State.arrive_awr_of_whole hcalm hidle hsect hlen hoff a.agent (a.ctx.map (·.val))
    exact ⟨t, hexec.trans (congrArg _ harrive), hrest⟩
  · have hexec : exec (.aadd a n ty es) s = .next (s.arrive n.toNat (.aadd a ty
        ((es.filter (fun e => DType.bytes ty * e.1.val < 128)).map (fun e => (e.1.val, e.2))))) :=
      congrArg Host.Outcome.next (State.agentReq_of hhomed haccepts _)
    rw [List.filter_eq_self.2 fun e he => decide_eq_true (hes e he), ← hline] at hexec
    rw [← hline]
    refine ⟨fun hred hdt => ?_, fun hidle hclean => ?_⟩
    · subst hdt
      obtain ⟨t, harrive, hacts, -, -, ht⟩ :=
        State.arrive_aadd_of_red hcalm hred a (es.map (fun e => (e.1.val, e.2)))
      exact ⟨t, hexec.trans (congrArg _ harrive), hacts, ht⟩
    · obtain ⟨t, harrive, hrest⟩ :=
        State.arrive_aadd_of_clean hcalm hidle hclean a ty (es.map (fun e => (e.1.val, e.2)))
      exact ⟨t, hexec.trans (congrArg _ harrive), hrest⟩
  · rw [State.memRead_hbmWrite _ _ _ _ hi, if_pos hm]
  · rw [State.memRead_hbmWrite _ _ _ _ hi, if_neg (by rw [hm]; decide)]

end Sys2Proof.Proofs.L1ScratchLlc

namespace Sys2Proof.Machine

/-!
## Answers of a core and of its slice (R316, R324)
-/

/-! ### The L1 of a core -/

section
variable (c : Core) (l : L1Line)

theorem Core.l1Put_eq (c : Core) (l : L1Line) : ∃ x, c.l1Put l = { c with l1 := x } := by
  unfold Core.l1Put
  split
  · exact ⟨_, rfl⟩
  · exact ⟨_, rfl⟩

@[simp] theorem Core.ops_l1Put : (c.l1Put l).ops = c.ops := by
  obtain ⟨x, hx⟩ := Core.l1Put_eq c l
  rw [hx]

@[simp] theorem Core.regs_l1Put : (c.l1Put l).regs = c.regs := by
  obtain ⟨x, hx⟩ := Core.l1Put_eq c l
  rw [hx]

theorem Core.l1Find_l1Put : (c.l1Put l).l1Find l.line = some l := by
  unfold Core.l1Put
  split
  next hany =>
    have hsame : ((fun m : L1Line => decide (m.line = l.line)) ∘ fun m => if m.line = l.line then l else m) =
        fun m => decide (m.line = l.line) := by
      funext m
      by_cases hm : m.line = l.line <;> simp [hm]
    obtain ⟨m, hm⟩ := Option.isSome_iff_exists.1 ((List.find?_isSome (p := fun m : L1Line => decide (m.line = l.line))).2
      (List.any_eq_true.1 hany))
    have hline : m.line = l.line := by simpa using List.find?_some hm
    rw [Core.l1Find, List.find?_map, hsame, hm, Option.map_some, if_pos hline]
  next => exact List.find?_cons_of_pos (by simp)

theorem Core.l1Find_l1Drop (line : Nat) : (c.l1Drop line).l1Find line = none := by
  simp [Core.l1Drop, Core.l1Find]

end

section
variable {s : State} {k : CoreId} {n : Line} {m : DnMsg}

theorem exec_snoopShare_of_first (hfirst : s.dnFirst k.val n.toNat = some m) (hbody : m.body = .share) :
    exec (.snoopShare k n) s = .next (s.snooped k.val n.toNat m ((s.core k.val).answerShare n.toNat)) :=
  congrArg Host.Outcome.next (by simp only [hfirst, hbody])

theorem exec_snoopInval_of_first (hfirst : s.dnFirst k.val n.toNat = some m) (hbody : m.body = .inval) :
    exec (.snoopInval k n) s = .next (s.snooped k.val n.toNat m ((s.core k.val).answerInval n.toNat)) :=
  congrArg Host.Outcome.next (by simp only [hfirst, hbody])

theorem exec_snoopDiscard_of_first (hfirst : s.dnFirst k.val n.toNat = some m) (hbody : m.body = .discard) :
    exec (.snoopDiscard k n) s = .next (s.snooped k.val n.toNat m ((s.core k.val).answerDiscard n.toNat)) :=
  congrArg Host.Outcome.next (by simp only [hfirst, hbody])

theorem State.core_snooped (k line : Nat) (m : DnMsg) (r : UpBody × Core) : (s.snooped k line m r).core k = r.2 :=
  State.core_setCore_same _ _ _

/-- A copy that may be read stays as a shared one. -/
theorem Core.answerShare_of {c : Core} {line : Nat} {l : L1Line} (hfind : c.l1Find line = some l) (hline : l.line = line)
    (hred : l.st ≠ .red) : (c.answerShare line).1 = (if l.st = .m then .answer l.data else .empty) ∧
      (c.answerShare line).2.l1Find line = some { l with st := .s } := by
  subst hline
  have hput := c.l1Find_l1Put { l with st := .s }
  simp only [Core.answerShare, hfind]
  cases hst : l.st with
  | s => exact ⟨rfl, hfind.trans (by rw [← hst])⟩
  | e => exact ⟨rfl, hput⟩
  | m => exact ⟨rfl, hput⟩
  | red => exact absurd hst hred

/-- A copy goes, with what its core wrote or added. -/
theorem Core.answerInval_of {c : Core} {line : Nat} {l : L1Line} (hfind : c.l1Find line = some l) :
    (c.answerInval line).1 = (if l.st = .m then .answer l.data
      else if l.st = .red then .delta l.dt l.valid l.data else .empty) ∧
      (c.answerInval line).2.l1Find line = none := by
  have hdrop := c.l1Find_l1Drop line
  simp only [Core.answerInval, hfind]
  cases l.st <;> exact ⟨rfl, hdrop⟩

/-! ### A fill at a core (R312) -/

theorem Core.pump_of_no_lines {j line : Nat} (h : ∀ o ∈ (s.core j).ops, o.lines = []) : s.pump j line = s := by
  have hwaits : ∀ o : MemOp, o.lines = [] → o.waitsOn line = false := fun o ho => by
    obtain ⟨id, ins, bslot, thr, kind, lost⟩ := o
    cases kind with
    | load d size sext need got =>
      have hnone : need = [] := by simpa [MemOp.lines] using ho
      simp [MemOp.waitsOn, hnone]
    | dead j chk sent =>
      cases sent with
      | false => cases ho
      | true => simp [MemOp.waitsOn]
    | join | result => rfl
    | store | add => cases ho
  have hfind : (s.core j).ops.find? (·.waitsOn line) = none :=
    List.find?_eq_none.2 fun o ho => by simp [hwaits o (h o ho)]
  unfold State.pump State.pumpLine
  split
  · rfl
  · simp only [hfind]

theorem Core.install_of {c : Core} {x : Miss} {st : L1St} {sect : BitVec 4} {data : List Byte} (hkind : x.kind ≠ .ownFull)
    (hsect : sect ≠ 0) (hway : wayIn c.split x.way = false) : ∃ y, c.install x st sect data =
      { c with l1 := y, miss := c.miss.erase x } ∧ (c.install x st sect data).l1Find x.line =
        some { line := x.line, way := x.way, st := st, valid := sect, data := data } := by
  have hinstall : c.install x st sect data = ({ (c.l1Drop x.line) with miss := c.miss.erase x } : Core).l1Put
      { line := x.line, way := x.way, st := st, valid := sect, data := data } := if_pos (by
    rw [hway, decide_eq_true hsect, decide_eq_true hkind]
    rfl)
  obtain ⟨y, hy⟩ := Core.l1Put_eq { (c.l1Drop x.line) with miss := c.miss.erase x }
    { line := x.line, way := x.way, st := st, valid := sect, data := data }
  refine ⟨y, hinstall.trans (hy.trans rfl), ?_⟩
  rw [hinstall]
  exact Core.l1Find_l1Put _ { line := x.line, way := x.way, st := st, valid := sect, data := data }

theorem exec_fillDeliver_of_first {st : L1St} {sect : BitVec 4} {data : List Byte} {x : Miss}
    (hfirst : s.dnFirst k.val n.toNat = some ⟨k.val, n.toNat, .fill st sect data⟩)
    (hmiss : (s.core k.val).miss.find? (·.line = n.toNat) = some x)
    (hlines : ∀ o ∈ ((s.core k.val).install x st sect data).ops, o.lines = []) : exec (.fillDeliver k n) s =
      .next ((s.dnTake ⟨k.val, n.toNat, .fill st sect data⟩).setCore k.val
        ((s.core k.val).install x st sect data)) := by
  have hmiss' : ((s.dnTake ⟨k.val, n.toNat, .fill st sect data⟩).core k.val).miss.find? (·.line = n.toNat) = some x := hmiss
  refine congrArg Host.Outcome.next ?_
  simp only [hfirst, hmiss']
  change (State.pump ((s.dnTake _).setCore k.val ((s.core k.val).install x st sect data)) k.val n.toNat).pumpStalled k.val = _
  have hops : ∀ o ∈ (((s.dnTake ⟨k.val, n.toNat, .fill st sect data⟩).setCore k.val
      ((s.core k.val).install x st sect data)).core k.val).ops, o.lines = [] := by
    rwa [State.core_setCore_same]
  rw [Core.pump_of_no_lines hops, State.pumpStalled_of_no_lines hops]

end

/-! ### An answer, or a fill, ends an operation (R324, R325, R330) -/

section
variable {s : State} {l : LLine}

/-- The line of an OWN once the last core that it snooped has answered with data. -/
def LLine.ownAnswered (l : LLine) (j : Nat) (d : List Byte) : LLine :=
  { l with op := some { req := .own j, phase := .snoop }, dirty := true, sect := 0xF, data := d }

/-- An answer with data ends an OWN that waited for it. -/
theorem State.takeAnswer_of_own {j k : Nat} (hop : s.inOp l (.own j) .snoop [k]) (d : List Byte) : ∃ t,
    s.takeAnswer ⟨k, l.line, .answer d⟩ = t ∧ s.actsAt t l.line ∧
      t.lline l.line = some { l with st := .m, ptr := true, holders := j, dirty := true, sect := 0xF, data := d
                                     op := none } ∧
      t.dn = s.dn ++ [⟨j, l.line, .fill .m 0xF d⟩] := by
  obtain ⟨hline, hop, hqueue, hresolved, hwait, hlate⟩ := hop
  obtain ⟨v, hv⟩ : ∃ v, s.upTake ⟨k, l.line, .answer d⟩ = v := ⟨_, rfl⟩
  have hvslices : v.slices = s.slices := by rw [← hv]; rfl
  let m := l.ownAnswered j d
  have hanswered : l.answered { req := .own j, phase := .snoop, wait := [k] } k (.answer d) = m := by
    simp only [LLine.answered, List.erase_cons_head]
    rfl
  have hadvance : (v.putLine m).llcAdvance l.line = ((v.putLine { l with
      st := .m, ptr := true, holders := j, dirty := true, sect := 0xF, data := d, op := none }).countServed l.line
        false).dnSend j l.line (.fill .m 0xF d) := by
    rw [State.llcAdvance_of_here (line := l.line) (l := m) (r := .own j) (v.lline_putLine_same m) rfl
      (by change ~~~(0xF : BitVec 4) = 0; decide)]
    refine Eq.trans ?_ (congrArg (fun u : State => (u.countServed l.line false).dnSend j l.line (.fill .m 0xF d))
      (v.putLine_putLine (l := m) (m := { l with
        st := .m, ptr := true, holders := j, dirty := true, sect := 0xF, data := d, op := none }) rfl))
    rw [show m.resolved = false from hresolved, ← hresolved]
    rfl
  have hu := (State.serves_putLine (s := v) (l := l) (m := { l with
      st := .m, ptr := true, holders := j, dirty := true, sect := 0xF, data := d, op := none }) rfl).countServed l.line false
  have htake : s.takeAnswer ⟨k, l.line, .answer d⟩ = ((v.putLine m).llcAdvance l.line).ended l.line := by
    have hvline : v.lline l.line = some l := (State.lline_congr hvslices _).trans hline
    simp only [State.takeAnswer, hv, hvline, hop, hanswered]
    rfl
  rw [hadvance] at htake
  generalize (v.putLine _).countServed l.line false = u at htake hu
  rw [hu.ended (t := u.dnSend j l.line (.fill .m 0xF d)) rfl (by rwa [State.slice_congr hvslices])
    (by rwa [State.slice_congr hvslices]) fun n hn => Option.some.inj hn ▸ .inr hqueue] at htake
  subst hv
  exact ⟨_, htake, hu.actsAt_of rfl rfl rfl, hu.line, congrArg (· ++ _) hu.dn⟩

theorem sectors_with_missing (v m : BitVec 4) : v ||| (m &&& ~~~v) = v ||| m := by
  refine BitVec.eq_of_getLsbD_eq fun i hi => ?_
  simp only [BitVec.getLsbD_or, BitVec.getLsbD_and, BitVec.getLsbD_not, hi, decide_true, Bool.true_and]
  cases v.getLsbD i <;> simp

/-- A fill without errors leaves no reader without its sectors. -/
theorem State.fillFaults_none (s : State) (line : Nat) (rs : List LReq) (valid : BitVec 4) :
    s.fillFaults line rs valid 0 = s := by
  rw [State.fillFaults, List.filter_eq_nil_iff.2 fun r _ => ?_]
  · rfl
  · simp

/-- A line with the sectors that a fill has brought. -/
def LLine.filled (l : LLine) (m : BitVec 4) (data : List Byte) : LLine := { l with sect := l.sect ||| m, data := data }

/-- A fill without errors serves the one reader that waited for it. -/
theorem State.fillArrive_of_rd {k : Nat} {m : BitVec 4} {c : Option Nat}
    (hop : s.inOp l (.rd k m c) (.fill [.rd k m c]) []) (hnone : l.noHolders = true) (hbusy : s.hbmBusy l.line = false)
    (hbad : s.badSectors l.line = 0) :
    let data := mergeSectors (m &&& ~~~l.sect) (s.hbmLine l.line) l.data
    ∃ t, s.fillArrive l.line = t ∧ s.actsAt t l.line ∧
      t.lline l.line = some { l with st := .e, ptr := true, holders := k, sect := l.sect ||| m, data := data, op := none } ∧
      t.dn = s.dn ++ [⟨k, l.line, .fill .e m data⟩] := by
  intro data
  obtain ⟨hline, hop, hqueue, hresolved, hwait, hlate⟩ := hop
  let n := l.filled m data
  have hneed : fillNeeds [.rd k m c] l.sect = m &&& ~~~l.sect := BitVec.zero_or
  have hnobad : ∀ x : BitVec 4, x &&& s.badSectors l.line = 0 := fun x => by rw [hbad]; exact BitVec.and_zero
  have hall : ∀ x : BitVec 4, x &&& ~~~(0 : BitVec 4) = x := fun x => BitVec.and_allOnes
  have hserved : s.serveReads n [.rd k m c] =
      (s.putLine (n.heldBy .e k)).dnSend k l.line (.fill .e m data) := by
    rw [State.serveReads_alone k m c (by exact hnone), show m &&& n.sect = m by
      rw [BitVec.and_comm]; exact BitVec.eq_of_getLsbD_eq fun i hi => by simp [n, LLine.filled]; tauto]
    rfl
  have harrive : s.fillArrive l.line =
      ((s.putLine (n.heldBy .e k)).dnSend k l.line (.fill .e m data)).ended l.line := by
    rw [← hserved]
    simp only [State.fillArrive, hline, hop, hbusy, hneed, hnobad, hall, sectors_with_missing, State.fillFaults_none]
    rfl
  have hu := State.serves_putLine (s := s) (l := l) (m := n.heldBy .e k) rfl
  generalize s.putLine (n.heldBy .e k) = u at harrive hu
  rw [hu.ended (t := u.dnSend k l.line (.fill .e m data)) rfl hwait hlate
    fun n hn => Option.some.inj hn ▸ .inr hqueue] at harrive
  exact ⟨_, harrive, hu.actsAt_of rfl rfl rfl, hu.line, congrArg (· ++ _) hu.dn⟩

end

end Sys2Proof.Machine

namespace Sys2Proof.Proofs.L1ScratchLlc
open Sys2Proof Sys2Proof.Machine

/-- Settles O33: a core answers a snoop by the state of its copy; an answer with data ends an OWN, and a fill serves its
reader and reaches the L1. -/
theorem snoopsAndFills : Obligations.SnoopsAndFills := by
  unfold Obligations.SnoopsAndFills
  refine ⟨fun k n s m l hfirst hbody hfind hline hred => ?_, fun k n s m l hfirst hbody hfind => ?_,
    fun k n s m hfirst hbody => ?_, fun k n s l j d hfirst hline hop => ?_,
    fun n s l k m c hline hop hptr hholders hbusy hbad => ?_,
    fun k n s st sect data x hfirst hmiss hkind hsect hway hlines => ?_⟩
  · obtain ⟨hbodyup, hcopy⟩ := Core.answerShare_of hfind hline hred
    refine ⟨_, exec_snoopShare_of_first hfirst hbody, rfl, rfl, rfl, ?_, ?_⟩
    · rw [State.core_snooped]
      exact hcopy
    · rw [← hbodyup]
      rfl
  · obtain ⟨hbodyup, hcopy⟩ := Core.answerInval_of hfind
    refine ⟨_, exec_snoopInval_of_first hfirst hbody, rfl, rfl, rfl, ?_, ?_⟩
    · rw [State.core_snooped]
      exact hcopy
    · rw [← hbodyup]
      rfl
  · intro stays
    have hstays : (((s.core k.val).l1Find n.toNat).any (fun l => l.st = .red) && (s.core k.val).joinOut n.toNat) = true ↔
        stays := Bool.and_eq_true_iff
    refine ⟨_, exec_snoopDiscard_of_first hfirst hbody, rfl, rfl, rfl, fun hgoes => ?_, fun hkeeps => ?_, rfl⟩
    · rw [State.core_snooped, Core.answerDiscard, if_neg (hstays.not.2 hgoes)]
      exact Core.l1Find_l1Drop _ _
    · rw [State.core_snooped, Core.answerDiscard, if_pos (hstays.2 hkeeps)]
  · have hexec : exec (.snoopAnswer k n) s = .next (s.takeAnswer ⟨k.val, n.toNat, .answer d⟩) :=
      congrArg Host.Outcome.next (State.onUp_of hfirst rfl)
    rw [← hline] at hexec ⊢
    obtain ⟨t, htake, hrest⟩ := State.takeAnswer_of_own hop d
    exact ⟨t, hexec.trans (congrArg _ htake), hrest⟩
  · have hexec : exec (.fillArrive n) s = .next (s.fillArrive n.toNat) := rfl
    rw [← hline] at hexec hbusy hbad ⊢
    obtain ⟨t, harrive, hrest⟩ := State.fillArrive_of_rd hop (by simp [LLine.noHolders, hptr, hholders]) hbusy hbad
    exact ⟨t, hexec.trans (congrArg _ harrive), hrest⟩
  · obtain ⟨y, hcore, hfind⟩ := Core.install_of (st := st) (data := data) hkind hsect hway
    have hx : x.line = n.toNat := by simpa using List.find?_some hmiss
    refine ⟨_, exec_fillDeliver_of_first hfirst hmiss (by rw [hcore]; exact hlines), rfl, ?_, ?_, rfl, rfl⟩
    · rw [State.core_setCore_same, ← hx]
      exact hfind
    · rw [State.core_setCore_same, hcore]

end Sys2Proof.Proofs.L1ScratchLlc

namespace Sys2Proof.Machine

/-!
## Conversions, merges and write-backs (R326 to R328, R339)
-/

section
variable {s : State} {l : LLine}

/-- The line as a conversion to RED leaves it for the core that joins it. -/
def LLine.joinedBy (l : LLine) (k : Nat) (ty : DType) : LLine :=
  { l.fresh with st := .red, op := none, dt := ty, ptr := true, holders := k }

theorem State.conversionDone_of_join {k : Nat} {ty : DType} (hop : s.inOp l (.join k ty) .conv []) : ∃ t,
    s.conversionDone l.line = t ∧
      t.lline l.line = some { l with st := .red, ptr := true, holders := k, dirty := false, chk := false, dt := ty
                                     sect := 0, data := List.replicate 128 0, op := none } ∧
      t.mem = (if l.dirty then (s.hbmWrite l.line l.sect l.data).mem else s.mem) ∧
      t.dn = s.dn ++ [⟨k, l.line, .joinAck⟩] := by
  obtain ⟨hline, hop, hqueue, hresolved, hwait, hlate⟩ := hop
  have hmem := State.wroteBack_mem (s := s) (t := s) (l := l) (l' := l) rfl rfl rfl rfl rfl
  have hdone : s.conversionDone l.line = ((((s.wroteBack l).putLine (l.joinedBy k ty)).countServed l.line
      l.resolved).dnSend k l.line .joinAck).ended l.line := by
    simp only [State.conversionDone, hline, hop]
    rfl
  obtain ⟨x, y, hx⟩ := s.wroteBack_eq l
  have hu := (State.serves_putLine (s := s) (l := l) (m := l.joinedBy k ty) rfl).countServed l.line l.resolved
  have hslices : (((s.wroteBack l).putLine (l.joinedBy k ty)).countServed l.line l.resolved).slices =
      ((s.putLine (l.joinedBy k ty)).countServed l.line l.resolved).slices :=
    State.putLine_slices_congr (by rw [hx]) _
  have hjoined : l.joinedBy k ty = { l with st := .red, ptr := true, holders := k, dirty := false, chk := false, dt := ty
                                            sect := 0, data := List.replicate 128 0, op := none } := by
    simp [LLine.joinedBy, LLine.fresh, LLine.noOne, hresolved]
  have hdn : (((s.wroteBack l).putLine (l.joinedBy k ty)).countServed l.line l.resolved).dn = s.dn := by
    rw [hx]
    rfl
  replace hmem : (((s.wroteBack l).putLine (l.joinedBy k ty)).countServed l.line l.resolved).mem = _ := hmem
  generalize ((s.wroteBack l).putLine (l.joinedBy k ty)).countServed l.line l.resolved = v at *
  rw [hu.ended (t := v.dnSend k l.line .joinAck) hslices hwait hlate
    fun n hn => Option.some.inj hn ▸ .inr hqueue] at hdone
  exact ⟨_, hdone, (State.lline_congr hslices _).trans (hu.line.trans (congrArg some hjoined)), hmem,
    congrArg (· ++ _) hdn⟩

/-! ### The start of a merge -/

/-- Snoops that an operation sends: messages to cores, and counts. -/
theorem foldl_dnSend_eq (ks : List Nat) (line : Nat) (b : DnBody) (s : State) : ∃ y,
    ks.foldl (fun t k => (t.dnSend k line b).addCount .dir (homeDie line) 0x808 1) s =
      { s with regs := y, dn := s.dn ++ ks.map (fun k => ⟨k, line, b⟩) } := by
  induction ks generalizing s with
  | nil => exact ⟨s.regs, by simp⟩
  | cons k ks ih =>
    obtain ⟨y, hy⟩ := ih ((s.dnSend k line b).addCount .dir (homeDie line) 0x808 1)
    refine ⟨y, ?_⟩
    rw [List.foldl_cons, hy]
    simp [State.dnSend, State.addCount]

theorem State.startOp_eq (s : State) (l : LLine) (r : LReq) (phase : OpPhase) (ks : List Nat) (b : DnBody) : ∃ y,
    s.startOp l r phase ks b = { s.putLine { l with op := some { req := r, phase := phase, wait := ks } } with
      regs := y, dn := s.dn ++ ks.map (fun k => ⟨k, l.line, b⟩) } := by
  obtain ⟨y, hy⟩ := foldl_dnSend_eq ks l.line b s
  simp only [State.startOp, hy]
  split
  · exact ⟨_, rfl⟩
  · exact ⟨_, rfl⟩

/-- The slice has the line in its list of merges. -/
def State.withMerge (s : State) (line : Nat) : State :=
  s.setSlice (homeDie line) { s.slice (homeDie line) with merges := (s.slice (homeDie line)).merges ++ [line] }

/-- The line while it merges. -/
def LLine.merging (l : LLine) (r : LReq) (order : Nat) : LLine :=
  { l with st := .merging, op := some { req := r, phase := .merging order, wait := l.targets } }

theorem Slice.merges_put (x : Slice) (l : LLine) : (x.put l).merges = x.merges := by
  unfold Slice.put
  split <;> rfl

/-- A setting of a slice that keeps its lines keeps every entry. -/
theorem State.lline_setSlice {d : Nat} {x : Slice} (h : x.lines = (s.slice d).lines) (n : Nat) :
    (s.setSlice d x).lline n = s.lline n := by
  rw [State.lline, State.slice_setSlice]
  split
  next hd => rw [Slice.find, h, hd]; rfl
  next => rfl

theorem State.mergeStart_of {r : LReq} (hline : s.lline l.line = some l) (hop : l.op = some { req := r, phase := .mergeWait })
    (hroom : (s.slice (homeDie l.line)).merges.length < 64) : ∃ t, s.mergeStart l.line = t ∧ s.actsAt t l.line ∧
      t.lline l.line = some (l.merging r (s.slice (homeDie l.line)).merges.length) ∧
      (t.slice (homeDie l.line)).merges = (s.slice (homeDie l.line)).merges ++ [l.line] ∧
      t.dn = s.dn ++ l.targets.map (fun k => ⟨k, l.line, .inval⟩) ∧
      (s.hbmBusy l.line = false → l.sect ≠ 0 → t.hbm.nreq = s.hbm.nreq ++
        [{ line := l.line, sect := l.sect, write := false, merge := true, since := s.now }]) := by
  let m := l.merging r (s.slice (homeDie l.line)).merges.length
  obtain ⟨y, hy⟩ := (s.withMerge l.line).startOp_eq { l with st := .merging } r
    (.merging (s.slice (homeDie l.line)).merges.length) l.targets .inval
  have hstart : s.mergeStart l.line = (({ (s.withMerge l.line).putLine m with
      regs := y, dn := s.dn ++ l.targets.map (fun k => ⟨k, l.line, .inval⟩) } : State)).hbmAsk l.line l.sect true := by
    refine Eq.trans ?_ (congrArg (fun u : State => u.hbmAsk l.line l.sect true) hy)
    simp only [State.mergeStart, hline, hop, decide_true, Bool.true_and, hroom, if_true]
    rfl
  have hother : ∀ n, n ≠ l.line → ((s.withMerge l.line).putLine m).lline n = s.lline n := fun n hn => by
    refine (State.lline_putLine_ne (s.withMerge l.line) m (n := n) hn).trans ?_
    rw [State.withMerge]
    exact State.lline_setSlice (by rfl) n
  have hsame : ((s.withMerge l.line).putLine m).lline l.line = some m := State.lline_putLine_same _ m
  have hmerges : (((s.withMerge l.line).putLine m).slice (homeDie l.line)).merges =
      (s.slice (homeDie l.line)).merges ++ [l.line] := by
    rw [State.putLine, show m.line = l.line from rfl, State.slice_setSlice_same, Slice.merges_put, State.withMerge,
      State.slice_setSlice_same]
  have hrest : ∃ x, (s.withMerge l.line).putLine m = { s with slices := x } := ⟨_, rfl⟩
  generalize (s.withMerge l.line).putLine m = u at *
  obtain ⟨x, rfl⟩ := hrest
  refine ⟨_, hstart, ?_⟩
  obtain ⟨h, hh⟩ := ({ s with
    slices := x, regs := y, dn := s.dn ++ l.targets.map (fun k => ⟨k, l.line, .inval⟩) } : State).hbmAsk_eq l.line l.sect true
  refine ⟨?_, ?_, ?_, ?_, fun hbusy hsect => ?_⟩
  · rw [hh]
    exact ⟨hother, rfl, rfl⟩
  · rw [hh]
    exact hsame
  · rw [hh]
    exact hmerges
  · rw [hh]
  · rw [State.hbmAsk_of_free true (by exact hbusy) hsect]

/-! ### The end of a merge for a write-back -/

/-- The slice has taken the line that merges first out of its list. -/
def State.lessMerge (s : State) (line : Nat) : State :=
  s.setSlice (homeDie line) { s.slice (homeDie line) with merges := (s.slice (homeDie line)).merges.drop 1 }

/-- The line as a write-back's merge leaves it. -/
def LLine.merged (l : LLine) (v : List Byte) : LLine :=
  { l with st := .s, ptr := false, holders := 0, dirty := false, chk := false, data := v, op := none }

theorem State.mergeDone_of_wb {i : Nat} (hop : s.inOp l (.wb false) (.merging i) [])
    (hfirst : (s.slice (homeDie l.line)).merges.head? = some l.line) (hbusy : s.hbmBusy l.line = false)
    (hbad : s.badSectors l.line = 0) :
    let v := addDelta l.dt l.sect (s.hbmLine l.line) l.data
    ∃ t, s.mergeDone l.line = t ∧ t.dn = s.dn ∧ t.mem = (s.hbmWrite l.line l.sect v).mem ∧
      t.lline l.line = some { l with st := .s, ptr := false, holders := 0, dirty := false, chk := false, data := v
                                     op := none } ∧
      (t.slice (homeDie l.line)).merges = (s.slice (homeDie l.line)).merges.drop 1 := by
  intro v
  obtain ⟨hline, hop, hqueue, hresolved, hwait, hlate⟩ := hop
  let m := l.merged v
  have hresult : s.mergeResult l = (l.sect, v) := by
    rw [State.mergeResult, hbad, show ~~~(0 : BitVec 4) = BitVec.allOnes 4 from rfl, BitVec.and_allOnes]
  have hm : { ({ l.fresh with op := none, queue := l.queue } : LLine) with sect := l.sect, data := v } = m := by
    simp [m, LLine.merged, LLine.fresh, LLine.noOne, hresolved]
  obtain ⟨w, hw⟩ : ∃ w, (s.lessMerge l.line).llcCount l.line 0x814 = w := ⟨_, rfl⟩
  obtain ⟨x, y, hx⟩ := w.hbmPut_eq l.line l.sect v true
  have hmem := w.hbmPut_mem l.line l.sect v true
  rw [State.hbmWrite_mem_congr (s := s) (by rw [← hw]; rfl)] at hmem
  have hdone : s.mergeDone l.line = ((w.hbmPut l.line l.sect v true).putLine m).ended l.line := by
    rw [← hm, ← hw]
    simp only [State.mergeDone, hline, hop, hfirst, hbusy, hresult]
    rfl
  have hu := State.serves_putLine (s := w) (l := l) (m := m) rfl
  have hslices : ((w.hbmPut l.line l.sect v true).putLine m).slices = (w.putLine m).slices :=
    State.putLine_slices_congr (by rw [hx]) _
  have hwslice : w.slice (homeDie l.line) =
      { s.slice (homeDie l.line) with merges := (s.slice (homeDie l.line)).merges.drop 1 } := by
    rw [← hw]
    exact State.slice_setSlice_same _ _ _
  have hmerges : (((w.hbmPut l.line l.sect v true).putLine m).slice (homeDie l.line)).merges =
      (s.slice (homeDie l.line)).merges.drop 1 := by
    rw [State.slice_congr hslices, State.putLine, show m.line = l.line from rfl, State.slice_setSlice_same,
      Slice.merges_put, hwslice]
  rw [hu.ended hslices (by rw [hwslice]; exact hwait) (by rw [hwslice]; exact hlate)
    fun n hn => Option.some.inj hn ▸ .inr hqueue] at hdone
  refine ⟨_, hdone, ?_, hmem, (State.lline_congr hslices _).trans hu.line, hmerges⟩
  rw [hx, ← hw]
  rfl

/-! ### A visit of the write-back scan (R339) -/

/-- The slice of a die with its scan at the next entry. -/
def State.scannedTo (s : State) (d b n pos : Nat) (inv : Bool) : State :=
  s.setSlice d { s.slice d with wb := some (b, n, inv, pos) }

theorem Slice.wb_put (x : Slice) (l : LLine) : (x.put l).wb = x.wb := by
  unfold Slice.put
  split <;> rfl

theorem State.wb_putLine (s : State) (m : LLine) (d : Nat) : ((s.putLine m).slice d).wb = (s.slice d).wb := by
  rw [State.putLine, State.slice_setSlice]
  split
  next hd => rw [Slice.wb_put, hd]
  next => rfl

theorem State.wb_inTurn (s : State) (m : LLine) (d : Nat) : ((s.inTurn m).slice d).wb = (s.slice d).wb := by
  rw [State.inTurn, State.wb_putLine, State.bumpClock, State.slice_setSlice]
  split
  next hd => rw [hd]
  next => rfl

theorem State.wb_freeLine (s : State) (m : LLine) (d : Nat) : ((s.freeLine m).slice d).wb = (s.slice d).wb := by
  by_cases hd : d = homeDie m.line
  · obtain ⟨q, hq, -⟩ := s.freeLine_slice m
    rw [hd, hq]
    rfl
  · rw [State.freeLine_slice_ne _ _ hd]

/-- The line while its write-back ends. -/
def LLine.cleaned (l : LLine) (n : Nat) : LLine := { l with st := .s, dirty := false, op := none, used := n }

/-- A write-back of a line without holders: HBM takes what it lacks, and the line is clean or leaves (R325). -/
theorem State.perform_wb_of_idle (hidle : l.idleS) (hresolved : l.resolved = false) (inv : Bool) :
    s.perform l (.wb inv) = if inv
      then ((s.inTurn (l.going (.wb inv) (s.nextUse l.line))).wroteBack (l.going (.wb inv) (s.nextUse l.line))).freeLine
        { l.usedAt (s.nextUse l.line) with op := none }
      else ((s.inTurn (l.going (.wb inv) (s.nextUse l.line))).wroteBack (l.going (.wb inv) (s.nextUse l.line))).putLine
        (l.cleaned (s.nextUse l.line)) := by
  have hself : { l.going (.wb inv) (s.nextUse l.line) with resolved := false } = l.going (.wb inv) (s.nextUse l.line) := by
    rw [LLine.going, LLine.busyWith, LLine.usedAt, hresolved]
  rw [State.perform_of_idle hidle rfl rfl, State.llcAdvance_of_here (State.lline_inTurn_going _) rfl rfl, hself]
  rfl

theorem State.visited_of_idle {t : State} (hcalm : t.calm l) (hidle : l.idleS) (inv : Bool) :
    ∃ u, (t.perform l (.wb inv)).ended l.line = u ∧
      u.lline l.line = (if inv then none else some { l with dirty := false, used := t.nextUse l.line }) ∧
      u.mem = (if l.dirty then (t.hbmWrite l.line l.sect l.data).mem else t.mem) ∧
      ∀ d, (u.slice d).wb = (t.slice d).wb := by
  obtain ⟨hline, hop, hqueue, hresolved, hwait, hlate⟩ := hcalm
  let g := l.going (.wb inv) (t.nextUse l.line)
  obtain ⟨w, hw⟩ : ∃ w, (t.inTurn g).wroteBack g = w := ⟨_, rfl⟩
  have hmem : w.mem = if l.dirty then (t.hbmWrite l.line l.sect l.data).mem else t.mem := by
    rw [← hw]
    exact State.wroteBack_mem (s := t) (l := l) (t := t.inTurn g) rfl rfl rfl rfl rfl
  have hslices : w.slices = (t.inTurn g).slices := by
    obtain ⟨x, y, hx⟩ := (t.inTurn g).wroteBack_eq g
    rw [← hw, hx]
  have hperform : t.perform l (.wb inv) = if inv then w.freeLine { l.usedAt (t.nextUse l.line) with op := none }
      else w.putLine (l.cleaned (t.nextUse l.line)) := by
    rw [State.perform_wb_of_idle hidle hresolved inv, ← hw]
  rw [hperform]
  cases inv with
  | true =>
    rw [if_pos rfl]
    have hu := State.serves_freeLine (s := t) (l := l) (l₀ := g) (m := { l.usedAt (t.nextUse l.line) with op := none }) rfl
      rfl hwait hqueue
    have hfree := State.freeLine_slices_congr hslices { l.usedAt (t.nextUse l.line) with op := none }
    refine ⟨_, hu.ended hfree hwait hlate fun n hn => (Option.some_ne_none _ hn.symm).elim,
      (State.lline_congr hfree _).trans hu.line, hmem, fun d => ?_⟩
    rw [State.slice_congr hfree, State.wb_freeLine, State.wb_inTurn]
  | false =>
    rw [if_neg Bool.false_ne_true]
    have hu := State.serves_inTurn (s := t) (l := l) (l₀ := g) (m := l.cleaned (t.nextUse l.line)) rfl rfl
    have hput := State.putLine_slices_congr hslices (l.cleaned (t.nextUse l.line))
    have hclean : l.cleaned (t.nextUse l.line) = { l with dirty := false, used := t.nextUse l.line } := by
      rw [LLine.cleaned, ← hidle.1, ← hop]
    refine ⟨_, hu.ended hput hwait hlate fun n hn => Option.some.inj hn ▸ .inr hqueue,
      (State.lline_congr hput _).trans (hu.line.trans (congrArg some hclean)), hmem, fun d => ?_⟩
    rw [State.slice_congr hput, State.wb_putLine, State.wb_inTurn]

theorem State.calm_scannedTo {d b n pos : Nat} {inv : Bool} (h : s.calm l) : (s.scannedTo d b n pos inv).calm l := by
  obtain ⟨hline, hop, hqueue, hresolved, hwait, hlate⟩ := h
  have hslice : ((s.scannedTo d b n pos inv).slice (homeDie l.line)).waitq = (s.slice (homeDie l.line)).waitq ∧
      ((s.scannedTo d b n pos inv).slice (homeDie l.line)).late = (s.slice (homeDie l.line)).late := by
    rw [State.scannedTo, State.slice_setSlice]
    split
    next hd => subst hd; exact ⟨rfl, rfl⟩
    next => exact ⟨rfl, rfl⟩
  have hkept : (s.scannedTo d b n pos inv).lline l.line = some l := by
    rw [State.scannedTo]
    exact (State.lline_setSlice (by rfl) _).trans hline
  exact ⟨hkept, hop, hqueue, hresolved, hslice.1.trans hwait, hslice.2.trans hlate⟩

theorem exec_wbVisit_of_idle {d : DieId} {b n pos : Nat} {inv : Bool} (hwb : (s.slice d.val).wb = some (b, n, inv, pos))
    (hnext : (s.slice d.val).scanNext b n pos = some l) (hhome : homeDie l.line = d.val) (hcalm : s.calm l)
    (hidle : l.idleS) : ∃ t, exec (.wbVisit d) s = .next t ∧ (t.slice d.val).wb = some (b, n, inv, l.entryNo + 1) ∧
      t.lline l.line = (if inv then none else some { l with dirty := false, used := s.nextUse l.line }) ∧
      t.mem = (if l.dirty then (s.hbmWrite l.line l.sect l.data).mem else s.mem) := by
  obtain ⟨t, hvisit, hline, hmem, hscan⟩ := State.visited_of_idle
    (State.calm_scannedTo (d := d.val) (b := b) (n := n) (pos := l.entryNo + 1) (inv := inv) hcalm) hidle inv
  have hslice : (s.scannedTo d.val b n (l.entryNo + 1) inv).slice d.val =
      { s.slice d.val with wb := some (b, n, inv, l.entryNo + 1) } := State.slice_setSlice_same _ _ _
  have hused : (s.scannedTo d.val b n (l.entryNo + 1) inv).nextUse l.line = s.nextUse l.line := by
    rw [State.nextUse, hhome, hslice, State.nextUse, hhome]
  rw [hused] at hline
  have hexec : exec (.wbVisit d) s =
      .next (((s.scannedTo d.val b n (l.entryNo + 1) inv).perform l (.wb inv)).ended l.line) := by
    refine congrArg Host.Outcome.next ?_
    simp only [hwb, hnext, hcalm.2.1]
    rfl
  refine ⟨t, hexec.trans (congrArg _ hvisit), ?_, hline, ?_⟩
  · rw [hscan, hslice]
  · rw [hmem, State.hbmWrite_mem_congr (s := s) (by rfl)]
    rfl

end

/-! ### Items of LLC and DIR (R340, R341) -/

section
variable {s : State} {r : MbxReq} {k : Nat} {ws : List Word}

theorem exec_wbArg_of_asks (h : s.asks r .llc (wrItem 1 4) k true ws) : exec (.wbArg r) s =
    .next (if natOf (ws.take 2) % 128 ≠ 0 ∨ natOf ((ws.drop 2).take 2) % 128 ≠ 0 ∨ natOf ((ws.drop 2).take 2) = 0 ∨
        0x20000000000 < natOf (ws.take 2) + natOf ((ws.drop 2).take 2)
      then s.mbxBegin r .llc 1 errBadCmd [] else (s.setArg r.req .llc 1 k ws).mbxBegin r .llc 1 errDone []) := by
  refine congrArg Host.Outcome.next ((State.mbxRun_asks h).trans ?_)
  simp only [Bool.or_eq_true, decide_eq_true_eq, or_assoc]
  split
  · rfl
  · rfl

theorem exec_wbStart_of_asks (h : s.asks r .llc (wrItem 2 1) k true ws) : exec (.wbStart r) s =
    .next (if (s.slice k).wb ≠ none ∨ s.arg r.req .llc 1 k = [] then s.mbxBegin r .llc 2 errBadCmd []
      else (s.setSlice k { s.slice k with wb := some (natOf ((s.arg r.req .llc 1 k).take 2),
        natOf (((s.arg r.req .llc 1 k).drop 2).take 2), bit (ws.headD 0) 0, 0) }).mbxBegin r .llc 2 errDone []) := by
  refine congrArg Host.Outcome.next ((State.mbxRun_asks h).trans ?_)
  simp only [Bool.or_eq_true, decide_eq_true_eq, Option.isSome_iff_ne_none]
  split
  · rfl
  · rfl

theorem exec_lookupArg_of_asks (h : s.asks r .dir (wrItem 1 2) k true ws) : exec (.lookupArg r) s =
    .next (if isStack s.variant (natOf ws) = true ∧ homeDie (natOf ws / 128) = k
      then (s.setArg r.req .dir 1 k (wordsOf 2 (natOf ws / 128 * 128))).mbxBegin r .dir 1 errDone []
      else s.mbxBegin r .dir 1 errBadCmd []) := by
  refine congrArg Host.Outcome.next ((State.mbxRun_asks h).trans ?_)
  simp only [Bool.and_eq_true, decide_eq_true_eq]
  split
  · rfl
  · rfl

theorem exec_lookup_of_asks (h : s.asks r .dir (rdItem 2 4) k false ws) : exec (.lookup r) s =
    .next (if s.arg r.req .dir 1 k = [] then s.mbxBegin r .dir 2 errBadCmd []
      else s.mbxBegin r .dir 2 errDone ((s.lline (natOf (s.arg r.req .dir 1 k) / 128)).elim
        (wordsOf 2 0 ++ wordsOf 2 (natOf (s.arg r.req .dir 1 k)))
        (fun l => wordsOf 2 l.entry ++ wordsOf 2 (natOf (s.arg r.req .dir 1 k) + 2 ^ 63)))) := by
  refine congrArg Host.Outcome.next ((State.mbxRun_asks h).trans ?_)
  simp only
  split
  · rfl
  · cases s.lline (natOf (s.arg r.req .dir 1 k) / 128) <;> rfl

theorem State.result_mbxBegin (s : State) (r : MbxReq) (b : Block) (item : Nat) (e : BitVec 2) (ws : List Word) :
    ((s.mbxBegin r b item e ws).copyOf r.req r.win b).result = (e, ws) := by
  rw [State.copyOf_mbxBegin]

end

theorem exec_wbVisit_of_none {s : State} {d : DieId} {b n pos : Nat} {inv : Bool}
    (hwb : (s.slice d.val).wb = some (b, n, inv, pos)) (hnext : (s.slice d.val).scanNext b n pos = none) :
    exec (.wbVisit d) s = .next (s.setSlice d.val { s.slice d.val with wb := some (b, n, inv, sliceEntries) }) :=
  congrArg Host.Outcome.next (by simp only [hwb, hnext])

theorem exec_wbScanComplete_of_none {s : State} {d : DieId} {b n pos : Nat} {inv : Bool}
    (hwb : (s.slice d.val).wb = some (b, n, inv, pos)) (hnext : (s.slice d.val).scanNext b n pos = none)
    (hops : ∀ l ∈ (s.slice d.val).lines, l.op = none) :
    exec (.wbScanComplete d) s = .next (s.setSlice d.val { s.slice d.val with wb := none }) := by
  refine congrArg Host.Outcome.next ?_
  simp only [hwb, hnext]
  refine if_pos ?_
  rw [Option.isNone_none, Bool.true_and, List.all_eq_true]
  exact fun l hl => by simp [hops l hl]

end Sys2Proof.Machine

namespace Sys2Proof.Proofs.L1ScratchLlc
open Sys2Proof Sys2Proof.Machine

/-- Settles O34: a conversion ends with a RED line of zeros, HBM having taken what it lacked; a merge invalidates every
holder and, for a write-back, ends with the delta added into HBM. -/
theorem conversionAndMerge : Obligations.ConversionAndMerge := by
  unfold Obligations.ConversionAndMerge
  refine ⟨fun n s l k ty hline hop => ?_, fun n s l r hline hentry hop hroom => ?_,
    fun n s l i hline hop hfirst hbusy hbad => ?_⟩
  · obtain ⟨t, hdone, hrest⟩ := State.conversionDone_of_join hop
    rw [hline] at hdone hrest
    exact ⟨t, congrArg Host.Outcome.next hdone, hline ▸ hrest⟩
  · rw [← hline] at hentry hroom ⊢
    obtain ⟨t, hstart, hrest⟩ := State.mergeStart_of hentry hop hroom
    exact ⟨t, congrArg Host.Outcome.next (hline ▸ hstart), hrest⟩
  · rw [← hline] at hfirst hbusy hbad ⊢
    obtain ⟨t, hdone, hdn, hmem, hentry, hmerges⟩ := State.mergeDone_of_wb hop hfirst hbusy hbad
    exact ⟨t, congrArg Host.Outcome.next (hline ▸ hdone), hdn, hmem, hentry, hmerges⟩

/-- Settles O36: the items answer by their own rule; the scan visits a line on which nothing is in progress with a
write-back, and ends where it finds no other. -/
theorem llcItems : Obligations.LlcItems := by
  unfold Obligations.LlcItems
  refine ⟨fun r s k ws hasks => ⟨fun hb hn hpos htop => ?_, fun hbad => ?_⟩, fun r s k ws hasks => ?_,
    fun d s l b n pos inv hwb hnext hhome hcalm hidle => exec_wbVisit_of_idle hwb hnext hhome hcalm hidle,
    fun d s b n pos inv hwb hnext => ⟨exec_wbVisit_of_none hwb hnext, exec_wbScanComplete_of_none hwb hnext⟩,
    fun r s k ws hasks => ⟨fun hstack hhome => ?_, fun hbad => ?_⟩,
    fun r s k ws hasks => ⟨fun hnone => ?_, fun hsome hline => ?_, fun l hsome hline => ?_⟩,
    fun r s k ws hasks => congrArg Host.Outcome.next (State.mbxGet_asks hasks)⟩
  · refine ⟨_, (exec_wbArg_of_asks hasks).trans (congrArg _ (if_neg (by omega))), ?_, State.result_mbxBegin _ _ _ _ _ _, rfl⟩
    rw [State.arg_mbxBegin, State.arg_setArg_same]
  · exact (exec_wbArg_of_asks hasks).trans (congrArg _ (if_pos hbad))
  · exact ⟨fun hbad => (exec_wbStart_of_asks hasks).trans (congrArg _ (if_pos hbad)),
      fun hgood => (exec_wbStart_of_asks hasks).trans (congrArg _ (if_neg hgood))⟩
  · refine ⟨_, (exec_lookupArg_of_asks hasks).trans (congrArg _ (if_pos ⟨hstack, hhome⟩)), ?_,
      State.result_mbxBegin _ _ _ _ _ _⟩
    rw [State.arg_mbxBegin, State.arg_setArg_same]
  · refine (exec_lookupArg_of_asks hasks).trans (congrArg _ (if_neg fun hgood => ?_))
    rcases hbad with hstack | hhome
    · exact Bool.false_ne_true (hstack.symm.trans hgood.1)
    · exact hhome hgood.2
  · exact (exec_lookup_of_asks hasks).trans (congrArg _ (if_pos hnone))
  · rw [exec_lookup_of_asks hasks, if_neg hsome, hline, Option.elim_none]
  · rw [exec_lookup_of_asks hasks, if_neg hsome, hline, Option.elim_some]

end Sys2Proof.Proofs.L1ScratchLlc

namespace Sys2Proof.Machine

/-!
## Device accesses (R170, R310, R312, R313, R315, R316, R332, R336)
-/

/-! ### The request sorter (R170) -/

theorem sortIn_perm (m : UpMsg) (n : Nat) (xs : List UpMsg) : (sortIn m n xs).Perm (m :: xs) := by
  induction xs generalizing n with
  | nil => cases n <;> exact .refl _
  | cons x xs ih =>
    cases n with
    | zero => exact .refl _
    | succ n =>
      have hpass : ∀ j, (x :: sortIn m j xs).Perm (m :: x :: xs) := fun j => ((ih j).cons x).trans (.swap m x xs)
      simp only [sortIn]
      split
      · exact hpass _
      · split
        · exact .refl _
        · exact hpass _

/-- A miss passes no message of its core and line: it becomes the newest of them. -/
theorem filter_sortIn {p : UpMsg → Bool} {m : UpMsg} (hm : p m = true)
    (hpass : ∀ x, p x = true → x.core = m.core ∧ x.line = m.line) (n : Nat) (xs : List UpMsg) :
    (sortIn m n xs).filter p = m :: xs.filter p := by
  have hkeep : ∀ ys : List UpMsg, (m :: ys).filter p = m :: ys.filter p := fun ys => List.filter_cons_of_pos hm
  induction xs generalizing n with
  | nil => cases n <;> exact hkeep []
  | cons x xs ih =>
    cases n with
    | zero => exact hkeep _
    | succ n =>
      have hstep : p x = false → ∀ j, (x :: sortIn m j xs).filter p = m :: (x :: xs).filter p := fun hx j => by
        rw [List.filter_cons_of_neg (by simp [hx]), List.filter_cons_of_neg (by simp [hx]), ih]
      simp only [sortIn]
      split
      next hcore => exact hstep (Bool.eq_false_iff.2 fun hx => hcore (hpass x hx).1) _
      next =>
        split
        · exact hkeep _
        next hline => exact hstep (Bool.eq_false_iff.2 fun hx => hline (by simp [(hpass x hx).2])) _

section
variable {s t : State} {k line : Nat}

theorem State.up_sendMiss_perm (s : State) (k line : Nat) (b : UpBody) :
    (s.sendMiss k line b).up.Perm (s.up ++ [⟨k, line, b⟩]) :=
  ((List.reverse_perm _).trans ((sortIn_perm _ _ _).trans ((List.reverse_perm _).cons _))).trans
    (List.perm_append_singleton _ _).symm

theorem State.filter_up_sendMiss (s : State) (k line : Nat) (b : UpBody) :
    (s.sendMiss k line b).up.filter (fun m => m.core = k && m.line = line) =
      s.up.filter (fun m => m.core = k && m.line = line) ++ [⟨k, line, b⟩] := by
  rw [State.sendMiss, List.filter_reverse, filter_sortIn (by simp) (by simp), List.filter_reverse, List.reverse_cons,
    List.reverse_reverse]

theorem State.up_sendMiss_congr (h : t.up = s.up) (k line : Nat) (b : UpBody) :
    (t.sendMiss k line b).up = (s.sendMiss k line b).up := by
  simp only [State.sendMiss, h]

theorem State.core_sendMiss (s : State) (k line : Nat) (b : UpBody) (j : Nat) : (s.sendMiss k line b).core j = s.core j :=
  rfl

theorem State.up_of_bench (h : t.bench = s.bench) : t.up = s.up := (congrArg State.up h :)

theorem State.coreCtx_congr (hcore : (t.core k).launch = (s.core k).launch) (hworks : t.works = s.works) :
    t.coreCtx k = s.coreCtx k := by
  simp only [State.coreCtx, hcore, State.work_of_works hworks]

/-- What the issue of a memory instruction changes of its core at its end. -/
theorem State.core_lsuDone (v : State) (b : Bundle) (i : Issue) (n : Nat) : ∃ u x y gs,
    (v.lsuDone b i n).core b.core.val = { v.core b.core.val with usable := u, ports := x, busy := y, groups := gs } := by
  obtain ⟨gs, h⟩ := State.bundleDone_core v b i onLsu n 0 [] id
  rw [State.lsuDone, h, State.claimed, Core.overwrite_nil]
  exact ⟨_, _, _, _, rfl⟩

/-! ### Operations that an instruction queues, and their start on a line (R310, R335) -/

/-- No operation of the core waits for the line, and no request for it is outstanding. -/
structure Core.Quiet (c : Core) (line : Nat) : Prop where
  ops : ∀ o ∈ c.ops, o.waitsOn line = false
  miss : ∀ m ∈ c.miss, m.line ≠ line

theorem MemOp.waitsOn_overwrite (o : MemOp) (ts dst : List Nat) (line : Nat) :
    (o.overwrite ts dst).waitsOn line = o.waitsOn line := by
  obtain ⟨id, ins, bslot, thr, kind, lost⟩ := o
  cases kind with
  | load d size sext need got =>
    simp only [MemOp.overwrite]
    split <;> rfl
  | result | store | add | dead | join => rfl

theorem Core.Quiet.overwrite {c : Core} (h : c.Quiet line) (ts dst : List Nat) : (c.overwrite ts dst).Quiet line := by
  unfold Core.overwrite
  split
  · exact h
  · refine ⟨fun o ho => ?_, h.miss⟩
    obtain ⟨x, hx, rfl⟩ := List.mem_map.1 ho
    exact (MemOp.waitsOn_overwrite ..).trans (h.ops x hx)

/-- The operation that a core queues next. -/
def Core.fresh (c : Core) (bslot : Nat) (thr : List Nat) (kind : MemKind) : MemOp :=
  { id := c.nextOp, ins := c.nextOp, bslot := bslot, thr := thr, kind := kind }

/-- A core has queued one operation. -/
def State.queued (s : State) (k bslot : Nat) (thr : List Nat) (kind : MemKind) : State :=
  s.setCore k ((s.core k).pushOps bslot [(thr, kind)])

theorem State.core_queued (s : State) (k bslot : Nat) (thr : List Nat) (kind : MemKind) :
    (s.queued k bslot thr kind).core k =
      { s.core k with ops := (s.core k).ops ++ [(s.core k).fresh bslot thr kind], nextOp := (s.core k).nextOp + 2 } := by
  rw [State.queued, State.core_setCore_same]
  rfl

theorem State.exists_queued (s : State) (k bslot : Nat) (thr : List Nat) (kind : MemKind) : ∃ u,
    s.queued k bslot thr kind = u ∧
      u.core k = { s.core k with
        ops := (s.core k).ops ++ [(s.core k).fresh bslot thr kind], nextOp := (s.core k).nextOp + 2 } ∧
      (u.core k).ops = (s.core k).ops ++ [(s.core k).fresh bslot thr kind] ∧ (u.core k).regs = (s.core k).regs ∧
      u.up = s.up := by
  have hcore := s.core_queued k bslot thr kind
  exact ⟨_, rfl, hcore, by rw [hcore], by rw [hcore], rfl⟩

theorem State.pumpLine_of_idle (h : ∀ o ∈ (s.core k).ops, o.waitsOn line = false) (n : Nat) :
    State.pumpLine n s k line = s := by
  have hfind : (s.core k).ops.find? (·.waitsOn line) = none := List.find?_eq_none.2 fun o ho => by simp [h o ho]
  cases n with
  | zero => rfl
  | succ n =>
    simp only [State.pumpLine]
    split
    · rfl
    · simp only [hfind]

section
variable {bslot : Nat} {thr : List Nat} {kind : MemKind}

theorem byBank_singleton (line : Nat) : byBank [line] = [line] := by
  have hbank : line % 8 < 8 := Nat.mod_lt _ (by decide)
  simp only [byBank, List.filter_cons, List.filter_nil]
  generalize line % 8 = m at hbank
  interval_cases m <;> rfl

/-- A core starts what it has queued on one line. -/
theorem State.memStart_eq : s.memStart k bslot [(thr, kind)] [line] =
    State.pumpLine ((s.core k).ops.length + 2) (s.queued k bslot thr kind) k line := by
  rw [State.memStart, byBank_singleton]
  change State.pump (s.queued k bslot thr kind) k line = _
  rw [State.pump, State.core_queued, List.length_append]
  rfl

variable (hquiet : (s.core k).Quiet line) (hwaits : ((s.core k).fresh bslot thr kind).waitsOn line = true)
include hquiet hwaits

/-- The queued operation is the first that waits for its line. -/
theorem State.find_queued : ((s.queued k bslot thr kind).core k).miss.any (·.line = line) = false ∧
    ((s.queued k bslot thr kind).core k).ops.find? (·.waitsOn line) = some ((s.core k).fresh bslot thr kind) := by
  have hnone : (s.core k).ops.find? (·.waitsOn line) = none :=
    List.find?_eq_none.2 fun o ho => by simp [hquiet.ops o ho]
  rw [State.core_queued]
  refine ⟨by simpa using hquiet.miss, ?_⟩
  rw [List.find?_append, hnone, Option.none_or]
  exact List.find?_cons_of_pos (p := fun o : MemOp => o.waitsOn line) hwaits

theorem State.memStart_of_go (hgo : (s.queued k bslot thr kind).pumpOp k line ((s.core k).fresh bslot thr kind) = .go t)
    (hdone : ∀ o ∈ (t.core k).ops, o.waitsOn line = false) : s.memStart k bslot [(thr, kind)] [line] = t := by
  obtain ⟨hmiss, hfind⟩ := State.find_queued hquiet hwaits
  simp only [State.memStart_eq, State.pumpLine, hmiss, hfind, hgo, Bool.false_eq_true, if_false]
  exact State.pumpLine_of_idle (s := t) hdone ((s.core k).ops.length + 1)

theorem State.memStart_of_wait
    (hwait : (s.queued k bslot thr kind).pumpOp k line ((s.core k).fresh bslot thr kind) = .wait (some t)) :
    s.memStart k bslot [(thr, kind)] [line] = t := by
  obtain ⟨hmiss, hfind⟩ := State.find_queued hquiet hwaits
  simp only [State.memStart_eq, State.pumpLine, hmiss, hfind, hwait, Bool.false_eq_true, if_false, Option.getD_some]

end

/-- The last operation of a core takes a form that waits for nothing of the line. -/
theorem Core.waitsOn_setOp {c : Core} {ops : List MemOp} {o p : MemOp} (hops : c.ops = ops ++ [o])
    (hquiet : ∀ x ∈ ops, x.waitsOn line = false) (hid : p.id = o.id) (hp : p.waitsOn line = false) :
    ∀ x ∈ (c.setOp p).ops, x.waitsOn line = false := by
  intro x hx
  rw [Core.setOp, hops] at hx
  obtain ⟨y, hy, rfl⟩ := List.mem_map.1 hx
  split
  · exact hp
  next hne =>
    obtain hy | hy := List.mem_append.1 hy
    · exact hquiet y hy
    · exact absurd ((congrArg MemOp.id (List.mem_singleton.1 hy)).trans hid.symm) hne

theorem Core.mem_setOp {c : Core} {ops : List MemOp} {o p : MemOp} (hops : c.ops = ops ++ [o]) (hid : p.id = o.id) :
    p ∈ (c.setOp p).ops := by
  rw [Core.setOp, hops]
  exact List.mem_map.2 ⟨o, by simp, if_pos hid.symm⟩

theorem Core.waitsOn_dropOp {c : Core} {ops : List MemOp} {o : MemOp} (hops : c.ops = ops ++ [o])
    (hquiet : ∀ x ∈ ops, x.waitsOn line = false) : ∀ x ∈ (c.dropOp o.id).ops, x.waitsOn line = false := by
  intro x hx
  rw [Core.dropOp, hops] at hx
  obtain ⟨hx, hne⟩ := List.mem_filter.1 hx
  obtain hx | hx := List.mem_append.1 hx
  · exact hquiet x hx
  · rw [List.mem_singleton.1 hx] at hne
    simp at hne

end

end Sys2Proof.Machine

namespace Sys2Proof.Machine

/-! ### What an access finds in its L1 (R310, R312, R315, R316) -/

section
variable {s : State} {k line w : Nat} {o : MemOp}

theorem State.l1Ask_of_free (hfind : (s.core k).l1Find line = none) (hway : (s.core k).pickWay line = some (w, none))
    (hroom : (s.core k).miss.length < 256) (kind : MissKind) (who : Asker) : s.l1Ask k line kind who =
      some ((s.setCore k { s.core k with
        miss := (s.core k).miss ++ [{ line := line, way := w, kind := kind, who := who }] }).sendMiss k line
          (missBody who.ctx kind)) := by
  simp only [State.l1Ask, if_neg (Nat.not_le.2 hroom), hfind, hway]

/-- The RED line that adds to an absent line allocate (R315). -/
def redLine (line way : Nat) (t : DType) (es : List (Nat × Word)) (used : Nat) : L1Line :=
  { line := line, way := way, st := .red, dt := t, valid := elemSectors t es
    data := addElems t (List.replicate 128 0) es, used := used }

/-- A core with such a line and its JOIN outstanding. -/
def Core.joining (c : Core) (line way : Nat) (o : MemOp) (t : DType) (es : List (Nat × Word)) (who : Asker) : Core :=
  { (c.l1Put (redLine line way t es o.id)).setOp { o with kind := .join line (c.joinsOf line + 1) } with
    joins := Tab.set [] (c.l1Put (redLine line way t es o.id)).joins line (Tab.get [] c.joins line ++ [who]) }

theorem State.pumpAdd_of_free (hfind : (s.core k).l1Find line = none) (hway : (s.core k).pickWay line = some (w, none))
    (t : DType) (es : List (Nat × Word)) : s.pumpAdd k line o t es =
      .go ((s.setCore k ((s.core k).joining line w o t es (s.askerOf k o))).sendMiss k line (.join t)) := by
  obtain ⟨x, hx⟩ := (s.core k).l1Put_eq (redLine line w t es o.id)
  simp only [State.pumpAdd, hfind, State.allocRed, hway, Core.joining, hx]
  rw [redLine] at hx
  rw [hx]
  rfl

theorem Core.l1Find_joining (c : Core) (line way : Nat) (o : MemOp) (t : DType) (es : List (Nat × Word)) (who : Asker) :
    (c.joining line way o t es who).l1Find line = some (redLine line way t es o.id) :=
  c.l1Find_l1Put (redLine line way t es o.id)

theorem Core.joinsOf_joining (c : Core) (line way : Nat) (o : MemOp) (t : DType) (es : List (Nat × Word)) (who : Asker) :
    (c.joining line way o t es who).joinsOf line = c.joinsOf line + 1 := by
  rw [Core.joinsOf, Core.joining, Tab.get_set_same, List.length_append]
  rfl

/-- A mem.dead of one line (R316, R332). -/
theorem State.pumpDead_leaves (s : State) (k line : Nat) (o : MemOp) (chk : Bool) : ∃ t, s.pumpDead k line o chk = .go t ∧
    t.core k = ((s.core k).l1Drop line).setOp { o with kind := .dead line chk true } ∧
    t.up = s.up ++ [⟨k, line, .dead chk⟩] :=
  ⟨_, rfl, State.core_setCore_same (s.l1Quit k line) _ _, rfl⟩

/-- A load whose sectors its copy holds takes their data (R312). -/
theorem State.pumpLoad_of_hit {n : L1Line} {x p : Nat} (hfind : (s.core k).l1Find (p / 128) = some n) (hred : n.st ≠ .red)
    (hvalid : sectorsOf [p] &&& ~~~n.valid = 0) (d : Nat) (size : MemSize) (sext : Bool) :
    s.pumpLoad k (p / 128) o d size sext [(x, p)] [] =
      .go (s.setCore k (((s.core k).l1Put { n with used := o.id }).setOp
        { o with kind := .load d size sext [] [(x, loadWord size sext (bytesAt n.data (p % 128) 4))] })) := by
  simp [State.pumpLoad, hfind, hred, hvalid]

theorem State.pumpLoad_of_free {x p : Nat} (hfind : (s.core k).l1Find (p / 128) = none) (d : Nat) (size : MemSize)
    (sext : Bool) : s.pumpLoad k (p / 128) o d size sext [(x, p)] [] =
      .wait (s.l1Ask k (p / 128) (.rd (sectorsOf [p])) (s.askerOf k o)) := by
  simp [State.pumpLoad, hfind]

/-- A copy that has taken the bytes of a store. -/
def L1Line.stored (n : L1Line) (bs : List (Nat × Byte)) (used : Nat) : L1Line :=
  { n with st := .m, used := used, data := bs.foldl (fun d p => setAt d p.1 p.2) n.data }

/-- A store whose copy is exclusive and whole writes its bytes there (R312). -/
theorem State.pumpStore_of_hit {n : L1Line} (hfind : (s.core k).l1Find line = some n)
    (hexcl : n.st = .m ∨ (n.st = .e ∧ n.valid = 0xF)) (bs : List (Nat × Byte)) (full : Bool) :
    s.pumpStore k line o bs full = .go (s.setCore k (((s.core k).l1Put (n.stored bs o.id)).dropOp o.id)) := by
  obtain ⟨line', way, st, dt, valid, data, used⟩ := n
  rcases hexcl with hm | ⟨he, hvalid⟩
  · dsimp only at hm
    subst hm
    simp only [State.pumpStore, hfind, L1Line.stored]
  · dsimp only at he hvalid
    subst he hvalid
    simp only [State.pumpStore, hfind, if_true, L1Line.stored]

theorem State.pumpStore_of_free (hfind : (s.core k).l1Find line = none) (bs : List (Nat × Byte)) :
    s.pumpStore k line o bs false = .wait (s.l1Ask k line .own (s.askerOf k o)) := by
  simp only [State.pumpStore, hfind, Bool.false_eq_true, if_false]

/-- No store of one thread covers a line. -/
theorem coversLine_placed {off : Nat} {bs : List Byte} (h : bs.length ≤ 4) : coversLine (placed off bs) = false := by
  have hplace : ∀ y ∈ placed off bs, off ≤ y.1 ∧ y.1 < off + 4 := fun y hy => by
    obtain ⟨z, hz, rfl⟩ := List.mem_map.1 hy
    have hlt := (List.mem_zipIdx hz).2.1
    dsimp only
    omega
  by_contra hcovers
  have hall := List.all_eq_true.1 (Bool.eq_true_of_not_eq_false hcovers)
  obtain ⟨y, hy, hfirst⟩ := List.any_eq_true.1 (hall 0 (by simp))
  obtain ⟨z, hz, hlast⟩ := List.any_eq_true.1 (hall 127 (by simp))
  have hlow := hplace y hy
  have hhigh := hplace z hz
  simp only [decide_eq_true_eq] at hfirst hlast
  omega

theorem length_leBytes_size (size : MemSize) (n : Nat) : (leBytes (MemSize.bytes size) n).length ≤ 4 := by
  rw [length_leBytes]
  cases size <;> decide

end

/-! ### The instructions (R312, R313, R315, R332, R336) -/

section
variable {s q : State} {b : Bundle} {i : Issue} {lf l : Leaf} {z x p : Nat}

theorem Core.not_crowded {c : Core} {line w : Nat} (hway : c.pickWay line = some (w, none)) (hroom : c.miss.length < 256) :
    c.crowded [line] = false := by
  simp [Core.crowded, Core.lineRoom, hway, hroom]

theorem Core.not_crowded_of_hit {c : Core} {line : Nat} {n : L1Line} (hfind : c.l1Find line = some n) :
    c.crowded [line] = false := by
  simp [Core.crowded, Core.lineRoom, hfind]

theorem State.bench_setCore_congr {t : State} (h : t.bench = s.bench) (k : Nat) (c : Core) :
    (t.setCore k c).bench = (s.setCore k c).bench := by
  have hcores : t.cores = s.cores := (congrArg State.cores h :)
  rw [State.setCore, State.setCore, hcores]
  exact congrArg (fun u : State => { u with cores := Tab.set ({} : Core) s.cores k c }) h

theorem exec_stAdd_of_issues {ty : DType} {a v : VReg} (h : s.issues b [] [a.val, a.val + 1, v.val] .memory i lf z)
    (hq : q = s.holdTlb i.ctx b.pc.toNat lf) (hthr : i.threads = [x])
    (hx : q.xlateAll i.ctx .write [(x, (s.core b.core.val).devAddr x a.val (DType.bytes ty))] = .ok [(x, p, l)])
    (hroom : (s.core b.core.val).crowded [p / 128] = false) : ∃ (y : State) (n : Nat), y.bench = s.bench ∧
      exec (.stAdd b ty a v) s = .next ((y.memStart b.core.val i.bslot [([x], .add (p / 128) ty
        [(p % 128 / DType.bytes ty, (s.core b.core.val).reg x v.val)])] [p / 128]).lsuDone b i n) := by
  subst hq
  have hbench := State.holdTlb_bench s i.ctx b.pc.toNat lf
  refine ⟨_, bankCycles 8 [p / 128] + repeats [p], (State.holdAll_bench _ i.ctx
    [(x, (s.core b.core.val).devAddr x a.val (DType.bytes ty))]).trans hbench, ?_⟩
  rw [exec_eq_of_issues (ins := .stAdd b ty a v) h rfl]
  simp [State.core_of_bench hbench, hthr, hx, hroom]

theorem exec_devStore_of_issues {size : MemSize} {v a : VReg} (h : s.issues b [] [v.val, a.val, a.val + 1] .memory i lf z)
    (hq : q = s.holdTlb i.ctx b.pc.toNat lf) (hthr : i.threads = [x])
    (hx : q.xlateAll i.ctx .write [(x, (s.core b.core.val).devAddr x a.val (MemSize.bytes size))] = .ok [(x, p, l)])
    (hroom : (s.core b.core.val).crowded [p / 128] = false) : ∃ (y : State) (n : Nat), y.bench = s.bench ∧
      exec (.store b .device size v a) s = .next ((y.memStart b.core.val i.bslot [([x], .store (p / 128)
        (placed (p % 128) (leBytes (MemSize.bytes size) ((s.core b.core.val).reg x v.val).toNat)) false)]
        [p / 128]).lsuDone b i n) := by
  subst hq
  have hbench := State.holdTlb_bench s i.ctx b.pc.toNat lf
  have hbytes : storeBytes (s.core b.core.val) size v.val (p / 128) [(x, p)] =
      placed (p % 128) (leBytes (MemSize.bytes size) ((s.core b.core.val).reg x v.val).toNat) := by
    simp [storeBytes, placed]
  refine ⟨_, bankCycles 8 [p / 128], (State.holdAll_bench _ i.ctx
    [(x, (s.core b.core.val).devAddr x a.val (MemSize.bytes size))]).trans hbench, ?_⟩
  rw [exec_eq_of_issues (ins := .store b .device size v a) h rfl]
  simp [State.devStore, State.core_of_bench hbench, hthr, hx, hroom, hbytes,
    coversLine_placed (length_leBytes_size size _)]

theorem exec_devLoad_of_issues {size : MemSize} {sext : Bool} {d a : VReg}
    (h : s.issues b [d.val] [a.val, a.val + 1] .memory i lf z) (hq : q = s.holdTlb i.ctx b.pc.toNat lf)
    (hthr : i.threads = [x])
    (hx : q.xlateAll i.ctx .read [(x, (s.core b.core.val).devAddr x a.val (MemSize.bytes size))] = .ok [(x, p, l)])
    (hroom : (s.core b.core.val).crowded [p / 128] = false) : ∃ (y : State) (n : Nat), y.bench = (s.claim b i [d.val]).bench ∧
      exec (.load b .device size sext d a) s = .next ((y.memStart b.core.val i.bslot
        [([x], .load d.val size sext [(x, p)] [])] [p / 128]).lsuDone b i n) := by
  subst hq
  have hbench := State.holdTlb_bench s i.ctx b.pc.toNat lf
  have hclaim : ((s.holdTlb i.ctx b.pc.toNat lf).claim b i [d.val]).bench = (s.claim b i [d.val]).bench := by
    rw [State.claim, State.core_of_bench hbench]
    exact State.bench_setCore_congr hbench _ _
  refine ⟨_, bankCycles 8 [p / 128], (State.holdAll_bench _ i.ctx
    [(x, (s.core b.core.val).devAddr x a.val (MemSize.bytes size))]).trans hclaim, ?_⟩
  rw [exec_eq_of_issues (ins := .load b .device size sext d a) h rfl]
  simp [State.devLoad, State.core_of_bench hbench, hthr, hx, hroom]

theorem Core.deadLines_of_one {c : Core} {a n : Nat} {g : Group × Strand} (hsel : i.sel = [g])
    (hcount : (c.reg (leadOf g) n).toNat = 1) :
    c.deadLines i a n = some [(strandThreads g, c.devAddr (leadOf g) a 128)] := by
  simp [Core.deadLines, hsel, hcount]

theorem exec_memDead_of_issues {a n : VReg} {chk : Bool} {g : Group × Strand}
    (h : s.issues b [] [a.val, a.val + 1, n.val] .memory i lf z) (hq : q = s.holdTlb i.ctx b.pc.toNat lf)
    (hsel : i.sel = [g]) (hstrand : strandThreads g = [x]) (hlead : leadOf g = x)
    (hcount : ((s.core b.core.val).reg x n.val).toNat = 1)
    (hx : q.xlateAll i.ctx .write [(x, (s.core b.core.val).devAddr x a.val 128)] = .ok [(x, p, l)]) :
    ∃ (y : State) (m : Nat), y.bench = s.bench ∧ exec (.memDead b a n chk) s = .next ((y.memStart b.core.val i.bslot
      [([x], .dead (p / 128) chk false)] [p / 128]).lsuDone b i m) := by
  subst hq
  have hbench := State.holdTlb_bench s i.ctx b.pc.toNat lf
  have hlines := Core.deadLines_of_one (c := s.core b.core.val) (a := a.val) (n := n.val) hsel (by rw [hlead]; exact hcount)
  refine ⟨_, bankCycles 8 [p / 128], (State.holdAll_bench _ i.ctx
    [(x, (s.core b.core.val).devAddr x a.val 128)]).trans hbench, ?_⟩
  rw [exec_eq_of_issues (ins := .memDead b a n chk) h rfl]
  simp [State.core_of_bench hbench, hlines, hlead, hstrand, hx]

end

end Sys2Proof.Machine

namespace Sys2Proof.Machine

/-! ### What an instruction of one access leaves (R310, R312, R315, R332) -/

section
variable {s : State} {k line w bslot : Nat} {thr : List Nat} (hquiet : (s.core k).Quiet line)
include hquiet

theorem State.memStart_add_of_free (hfind : (s.core k).l1Find line = none)
    (hway : (s.core k).pickWay line = some (w, none)) (ty : DType) (es : List (Nat × Word)) :
    ∃ t, s.memStart k bslot [(thr, .add line ty es)] [line] = t ∧
      (t.core k).l1Find line = some (redLine line w ty es (s.core k).nextOp) ∧
      (t.core k).joinsOf line = (s.core k).joinsOf line + 1 ∧ t.up = (s.sendMiss k line (.join ty)).up ∧
      (t.core k).regs = (s.core k).regs := by
  obtain ⟨u, hu, hcore, hqops, hqregs, hup⟩ := s.exists_queued k bslot thr (.add line ty es)
  have hgo := State.pumpAdd_of_free (s := u) (k := k) (line := line) (w := w)
    (o := (s.core k).fresh bslot thr (.add line ty es)) (by rw [hcore]; exact hfind) (by rw [hcore]; exact hway) ty es
  generalize hc : (u.core k).joining line w ((s.core k).fresh bslot thr (.add line ty es)) ty es
    (u.askerOf k ((s.core k).fresh bslot thr (.add line ty es))) = c at hgo
  have hred : c.l1Find line = some (redLine line w ty es (s.core k).nextOp) := by
    rw [← hc]
    exact Core.l1Find_joining ..
  have hjoins : c.joinsOf line = (s.core k).joinsOf line + 1 := by
    rw [← hc, Core.joinsOf_joining, hcore]
    rfl
  have hregs : c.regs = (s.core k).regs := by
    rw [← hc]
    exact (Core.regs_l1Put _ _).trans hqregs
  have hdone : ∀ o ∈ c.ops, o.waitsOn line = false := by
    rw [← hc]
    exact Core.waitsOn_setOp ((Core.ops_l1Put _ _).trans hqops) hquiet.ops rfl rfl
  have ht := State.core_setCore_same u k c
  refine ⟨_, State.memStart_of_go hquiet (by simp [Core.fresh, MemOp.waitsOn]) (by rw [hu]; exact hgo) ?_, ?_⟩
  · rw [State.core_sendMiss, ht]
    exact hdone
  · rw [State.core_sendMiss, ht]
    exact ⟨hred, hjoins, State.up_sendMiss_congr hup .., hregs⟩

theorem State.memStart_dead (chk : Bool) : ∃ t, s.memStart k bslot [(thr, .dead line chk false)] [line] = t ∧
    (t.core k).l1Find line = none ∧ t.up = s.up ++ [⟨k, line, .dead chk⟩] ∧
    (∃ o ∈ (t.core k).ops, o.kind = .dead line chk true) ∧ (t.core k).regs = (s.core k).regs := by
  obtain ⟨u, hu, -, hqops, hqregs, hup⟩ := s.exists_queued k bslot thr (.dead line chk false)
  obtain ⟨t, hgo, ht, htup⟩ := u.pumpDead_leaves k line ((s.core k).fresh bslot thr (.dead line chk false)) chk
  have hops : ((u.core k).l1Drop line).ops = (s.core k).ops ++ [(s.core k).fresh bslot thr (.dead line chk false)] :=
    hqops
  refine ⟨t, State.memStart_of_go hquiet (by simp [Core.fresh, MemOp.waitsOn]) (by rw [hu]; exact hgo) ?_, ?_, ?_, ?_, ?_⟩
  · rw [ht]
    exact Core.waitsOn_setOp hops hquiet.ops rfl (by simp [MemOp.waitsOn])
  · rw [ht]
    exact Core.l1Find_l1Drop _ _
  · rw [htup, hup]
  · rw [ht]
    exact ⟨_, Core.mem_setOp hops rfl, rfl⟩
  · rw [ht]
    exact hqregs

theorem State.memStart_store_of_hit {n : L1Line} (hfind : (s.core k).l1Find line = some n)
    (hexcl : n.st = .m ∨ (n.st = .e ∧ n.valid = 0xF)) (bs : List (Nat × Byte)) (full : Bool) :
    ∃ t, s.memStart k bslot [(thr, .store line bs full)] [line] = t ∧ t.up = s.up ∧
      (t.core k).l1Find line = some (n.stored bs (s.core k).nextOp) := by
  obtain ⟨u, hu, hcore, hqops, hqregs, hup⟩ := s.exists_queued k bslot thr (.store line bs full)
  have hgo := State.pumpStore_of_hit (s := u) (k := k) (line := line)
    (o := (s.core k).fresh bslot thr (.store line bs full)) (by rw [hcore]; exact hfind) hexcl bs full
  have hline : n.line = line := by simpa using List.find?_some hfind
  generalize hm : n.stored bs ((s.core k).fresh bslot thr (.store line bs full)).id = m at hgo
  have hmline : m.line = line := by
    rw [← hm]
    exact hline
  have hops : ((u.core k).l1Put m).ops = (s.core k).ops ++ [(s.core k).fresh bslot thr (.store line bs full)] :=
    (Core.ops_l1Put _ _).trans hqops
  have hput := (u.core k).l1Find_l1Put m
  have ht := State.core_setCore_same u k
    (((u.core k).l1Put m).dropOp ((s.core k).fresh bslot thr (.store line bs full)).id)
  refine ⟨_, State.memStart_of_go hquiet (by simp [Core.fresh, MemOp.waitsOn]) (by rw [hu]; exact hgo) ?_, ?_, ?_⟩
  · rw [ht]
    exact Core.waitsOn_dropOp hops hquiet.ops
  · exact hup
  · rw [ht]
    exact (hmline ▸ hput).trans (congrArg some hm.symm)

theorem State.memStart_load_of_hit {n : L1Line} {x p : Nat} (hl : line = p / 128) (hfind : (s.core k).l1Find line = some n)
    (hred : n.st ≠ .red) (hvalid : sectorsOf [p] &&& ~~~n.valid = 0) (d : Nat) (size : MemSize) (sext : Bool) :
    ∃ t, s.memStart k bslot [(thr, .load d size sext [(x, p)] [])] [line] = t ∧ t.up = s.up ∧
      (∃ o ∈ (t.core k).ops, o.thr = thr ∧
        o.kind = .load d size sext [] [(x, loadWord size sext (bytesAt n.data (p % 128) 4))]) ∧
      (t.core k).regs = (s.core k).regs := by
  subst hl
  obtain ⟨u, hu, hcore, hqops, hqregs, hup⟩ := s.exists_queued k bslot thr (.load d size sext [(x, p)] [])
  have hgo := State.pumpLoad_of_hit (s := u) (k := k) (x := x)
    (o := (s.core k).fresh bslot thr (.load d size sext [(x, p)] [])) (by rw [hcore]; exact hfind) hred hvalid d size sext
  generalize ({ n with used := ((s.core k).fresh bslot thr (.load d size sext [(x, p)] [])).id } : L1Line) = m at hgo
  have hops : ((u.core k).l1Put m).ops =
      (s.core k).ops ++ [(s.core k).fresh bslot thr (.load d size sext [(x, p)] [])] :=
    (Core.ops_l1Put _ _).trans hqops
  refine ⟨_, State.memStart_of_go hquiet (by simp [Core.fresh, MemOp.waitsOn]) (by rw [hu]; exact hgo) ?_, ?_, ?_⟩
  · rw [State.core_setCore_same]
    exact Core.waitsOn_setOp hops hquiet.ops rfl rfl
  · exact hup
  · rw [State.core_setCore_same]
    exact ⟨⟨_, Core.mem_setOp hops rfl, rfl, rfl⟩, (Core.regs_l1Put _ _).trans hqregs⟩

/-- An operation whose line is absent sends its request, and the way waits for the answer (R310, R312). -/
theorem State.memStart_of_absent {kind : MemKind} {mk : MissKind} (hfind : (s.core k).l1Find line = none)
    (hway : (s.core k).pickWay line = some (w, none)) (hroom : (s.core k).miss.length < 256)
    (hwaits : ((s.core k).fresh bslot thr kind).waitsOn line = true)
    (hpump : ∀ u : State, (u.core k).l1Find line = none →
      u.pumpOp k line ((s.core k).fresh bslot thr kind) =
        .wait (u.l1Ask k line mk (u.askerOf k ((s.core k).fresh bslot thr kind)))) :
    ∃ t, s.memStart k bslot [(thr, kind)] [line] = t ∧
      t.up = (s.sendMiss k line (missBody (s.coreCtx k) mk)).up ∧
      (t.core k).miss = (s.core k).miss ++ [⟨line, w, mk, { ctx := s.coreCtx k, bslot := bslot }⟩] := by
  have hcore := s.core_queued k bslot thr kind
  have hctx : (s.queued k bslot thr kind).coreCtx k = s.coreCtx k := State.coreCtx_congr (by rw [hcore]) rfl
  have hfind' : ((s.queued k bslot thr kind).core k).l1Find line = none := by rw [hcore]; exact hfind
  have hwait := (hpump (s.queued k bslot thr kind) hfind').trans (congrArg Pump.wait (State.l1Ask_of_free hfind'
    (by rw [hcore]; exact hway) (by rw [hcore]; exact hroom) mk _))
  have ht := State.memStart_of_wait hquiet hwaits hwait
  rw [State.askerOf, hctx] at ht
  refine ⟨_, ht, State.up_sendMiss_congr rfl .., ?_⟩
  rw [State.core_sendMiss, State.core_setCore_same, hcore]
  rfl

end

end Sys2Proof.Machine

namespace Sys2Proof.Machine

section
variable {s y : State} {b : Bundle} {i : Issue} {lf l : Leaf} {z x p w : Nat}

/-- What a memory instruction's end leaves of its core. -/
theorem State.lsuDone_keeps (v : State) (b : Bundle) (i : Issue) (n line : Nat) :
    ((v.lsuDone b i n).core b.core.val).l1Find line = (v.core b.core.val).l1Find line ∧
      ((v.lsuDone b i n).core b.core.val).joinsOf line = (v.core b.core.val).joinsOf line ∧
      ((v.lsuDone b i n).core b.core.val).miss = (v.core b.core.val).miss ∧
      ((v.lsuDone b i n).core b.core.val).fences = (v.core b.core.val).fences := by
  obtain ⟨u, c, e, gs, h⟩ := State.core_lsuDone v b i n
  rw [h]
  exact ⟨rfl, rfl, rfl, rfl⟩

theorem State.lsuDone_up (v : State) (b : Bundle) (i : Issue) (n : Nat) : (v.lsuDone b i n).up = v.up := rfl

theorem State.claim_up (s : State) (b : Bundle) (i : Issue) (dst : List Nat) : (s.claim b i dst).up = s.up := rfl

theorem State.claim_works (s : State) (b : Bundle) (i : Issue) (dst : List Nat) : (s.claim b i dst).works = s.works := rfl

theorem exec_memFence_of_issues {m : Bool} (h : s.issues b [] [] .memory i lf z) : ∃ t, exec (.memFence b m) s = .next t ∧
    (t.core b.core.val).fences.getLast? =
      some { thr := i.threads, module := m, before := (s.core b.core.val).nextOp } ∧
    (t.core b.core.val).ops = (s.core b.core.val).ops ∧ (t.core b.core.val).regs = (s.core b.core.val).regs ∧
    t.mem = s.mem ∧ t.up = s.up := by
  have hbench := State.holdTlb_bench s i.ctx b.pc.toNat lf
  have hcore := State.core_of_bench hbench b.core.val
  obtain ⟨-, -, -, hfences⟩ := State.lsuDone_keeps ((s.holdTlb i.ctx b.pc.toNat lf).setCore b.core.val
    (((s.holdTlb i.ctx b.pc.toNat lf).core b.core.val).addFence i.threads m)) b i 1 0
  refine ⟨_, exec_eq_of_issues (ins := .memFence b m) h rfl, ?_, ?_, ?_, (State.lsuDone_mem ..).trans ?_, (State.lsuDone_up ..).trans ?_⟩
  · rw [hfences, State.core_setCore_same, Core.addFence, List.getLast?_concat, hcore]
  · rw [(State.lsuDone_core ..).2.2, State.core_setCore_same, Core.addFence, hcore]
  · rw [(State.lsuDone_core ..).1, State.core_setCore_same, Core.addFence, hcore]
  · exact (State.setCore_mem ..).trans (State.mem_of_bench hbench)
  · exact (State.up_of_bench hbench :)

end

section
variable {s q : State} {b : Bundle} {i : Issue} {lf l : Leaf} {z x p : Nat}
  (hq : q = s.holdTlb i.ctx b.pc.toNat lf) (hquiet : (s.core b.core.val).Quiet (p / 128))
include hq hquiet

theorem exec_stAdd_of_free {ty : DType} {a v : VReg} {w : Nat} (h : s.issues b [] [a.val, a.val + 1, v.val] .memory i lf z)
    (hthr : i.threads = [x])
    (hx : q.xlateAll i.ctx .write [(x, (s.core b.core.val).devAddr x a.val (DType.bytes ty))] = .ok [(x, p, l)])
    (hfind : (s.core b.core.val).l1Find (p / 128) = none)
    (hway : (s.core b.core.val).pickWay (p / 128) = some (w, none)) (hroom : (s.core b.core.val).miss.length < 256) :
    ∃ t, exec (.stAdd b ty a v) s = .next t ∧ (t.core b.core.val).l1Find (p / 128) = some (redLine (p / 128) w ty
        [(p % 128 / DType.bytes ty, (s.core b.core.val).reg x v.val)] (s.core b.core.val).nextOp) ∧
      (t.core b.core.val).joinsOf (p / 128) = (s.core b.core.val).joinsOf (p / 128) + 1 ∧
      t.up = (s.sendMiss b.core.val (p / 128) (.join ty)).up ∧ t.mem = s.mem ∧
      (t.core b.core.val).regs = (s.core b.core.val).regs := by
  obtain ⟨y, n, hbench, hexec⟩ := exec_stAdd_of_issues h hq hthr hx (Core.not_crowded hway hroom)
  rw [← State.core_of_bench hbench] at hfind hway hquiet ⊢
  obtain ⟨t, hstart, hred, hjoins, hup, hregs⟩ := State.memStart_add_of_free (bslot := i.bslot) (thr := [x]) hquiet hfind
    hway ty [(p % 128 / DType.bytes ty, (y.core b.core.val).reg x v.val)]
  have hmem : t.mem = s.mem := by
    rw [← hstart, State.memStart_mem, State.mem_of_bench hbench]
  rw [← State.core_of_bench hbench, hstart] at hexec
  obtain ⟨hl1, hjoinsOf, -, -⟩ := State.lsuDone_keeps t b i n (p / 128)
  exact ⟨_, hexec, hl1.trans hred, hjoinsOf.trans hjoins,
    hup.trans (State.up_sendMiss_congr (State.up_of_bench hbench) ..), (State.lsuDone_mem ..).trans hmem,
    (State.lsuDone_core t b i n).1.trans hregs⟩

theorem exec_memDead_of_one {a n : VReg} {chk : Bool} {g : Group × Strand}
    (h : s.issues b [] [a.val, a.val + 1, n.val] .memory i lf z) (hsel : i.sel = [g]) (hstrand : strandThreads g = [x])
    (hlead : leadOf g = x) (hcount : ((s.core b.core.val).reg x n.val).toNat = 1)
    (hx : q.xlateAll i.ctx .write [(x, (s.core b.core.val).devAddr x a.val 128)] = .ok [(x, p, l)]) :
    ∃ t, exec (.memDead b a n chk) s = .next t ∧ (t.core b.core.val).l1Find (p / 128) = none ∧
      t.up = s.up ++ [⟨b.core.val, p / 128, .dead chk⟩] ∧
      (∃ o ∈ (t.core b.core.val).ops, o.kind = .dead (p / 128) chk true) ∧ t.mem = s.mem ∧
      (t.core b.core.val).regs = (s.core b.core.val).regs := by
  obtain ⟨y, m, hbench, hexec⟩ := exec_memDead_of_issues (chk := chk) h hq hsel hstrand hlead hcount hx
  rw [← State.core_of_bench hbench] at hquiet ⊢
  obtain ⟨t, hstart, hnone, hup, hop, hregs⟩ := State.memStart_dead (bslot := i.bslot) (thr := [x]) hquiet chk
  have hmem : t.mem = s.mem := by
    rw [← hstart, State.memStart_mem, State.mem_of_bench hbench]
  rw [hstart] at hexec
  obtain ⟨hl1, -, -, -⟩ := State.lsuDone_keeps t b i m (p / 128)
  obtain ⟨hdregs, -, hdops⟩ := State.lsuDone_core t b i m
  refine ⟨_, hexec, hl1.trans hnone, ?_, ?_, (State.lsuDone_mem ..).trans hmem, hdregs.trans hregs⟩
  · rw [State.lsuDone_up, hup, State.up_of_bench hbench]
  · rw [hdops]
    exact hop

theorem exec_devStore_of_hit {size : MemSize} {v a : VReg} {n : L1Line}
    (h : s.issues b [] [v.val, a.val, a.val + 1] .memory i lf z) (hthr : i.threads = [x])
    (hx : q.xlateAll i.ctx .write [(x, (s.core b.core.val).devAddr x a.val (MemSize.bytes size))] = .ok [(x, p, l)])
    (hfind : (s.core b.core.val).l1Find (p / 128) = some n) (hexcl : n.st = .m ∨ (n.st = .e ∧ n.valid = 0xF)) :
    ∃ t used, exec (.store b .device size v a) s = .next t ∧ t.up = s.up ∧ t.mem = s.mem ∧
      (t.core b.core.val).l1Find (p / 128) = some (n.stored
        (placed (p % 128) (leBytes (MemSize.bytes size) ((s.core b.core.val).reg x v.val).toNat)) used) := by
  obtain ⟨y, m, hbench, hexec⟩ := exec_devStore_of_issues h hq hthr hx (Core.not_crowded_of_hit hfind)
  rw [← State.core_of_bench hbench] at hquiet hfind ⊢
  obtain ⟨t, hstart, hup, hline⟩ := State.memStart_store_of_hit (bslot := i.bslot) (thr := [x]) hquiet hfind hexcl
    (placed (p % 128) (leBytes (MemSize.bytes size) ((y.core b.core.val).reg x v.val).toNat)) false
  have hmem : t.mem = s.mem := by
    rw [← hstart, State.memStart_mem, State.mem_of_bench hbench]
  rw [← State.core_of_bench hbench, hstart] at hexec
  obtain ⟨hl1, -, -, -⟩ := State.lsuDone_keeps t b i m (p / 128)
  exact ⟨_, _, hexec, hup.trans (State.up_of_bench hbench), (State.lsuDone_mem ..).trans hmem, hl1.trans hline⟩

theorem exec_devStore_of_free {size : MemSize} {v a : VReg} {w : Nat}
    (h : s.issues b [] [v.val, a.val, a.val + 1] .memory i lf z) (hthr : i.threads = [x])
    (hx : q.xlateAll i.ctx .write [(x, (s.core b.core.val).devAddr x a.val (MemSize.bytes size))] = .ok [(x, p, l)])
    (hfind : (s.core b.core.val).l1Find (p / 128) = none)
    (hway : (s.core b.core.val).pickWay (p / 128) = some (w, none)) (hroom : (s.core b.core.val).miss.length < 256) :
    ∃ t, exec (.store b .device size v a) s = .next t ∧ t.mem = s.mem ∧
      t.up = (s.sendMiss b.core.val (p / 128) .own).up := by
  obtain ⟨y, m, hbench, hexec⟩ := exec_devStore_of_issues h hq hthr hx (Core.not_crowded hway hroom)
  rw [← State.core_of_bench hbench] at hquiet hfind hway hroom
  obtain ⟨t, hstart, hup, -⟩ := State.memStart_of_absent (bslot := i.bslot) (thr := [x]) (mk := .own)
    (kind := .store (p / 128) (placed (p % 128) (leBytes (MemSize.bytes size) ((s.core b.core.val).reg x v.val).toNat))
      false) hquiet hfind hway hroom (by simp [Core.fresh, MemOp.waitsOn]) fun u hu => State.pumpStore_of_free hu _
  have hmem : t.mem = s.mem := by
    rw [← hstart, State.memStart_mem, State.mem_of_bench hbench]
  rw [hstart] at hexec
  exact ⟨_, hexec, (State.lsuDone_mem ..).trans hmem, hup.trans (State.up_sendMiss_congr (State.up_of_bench hbench) ..)⟩

theorem exec_devLoad_of_hit {size : MemSize} {sext : Bool} {d a : VReg} {n : L1Line}
    (h : s.issues b [d.val] [a.val, a.val + 1] .memory i lf z) (hthr : i.threads = [x])
    (hx : q.xlateAll i.ctx .read [(x, (s.core b.core.val).devAddr x a.val (MemSize.bytes size))] = .ok [(x, p, l)])
    (hfind : (s.core b.core.val).l1Find (p / 128) = some n) (hred : n.st ≠ .red)
    (hvalid : sectorsOf [p] &&& ~~~n.valid = 0) :
    ∃ t, exec (.load b .device size sext d a) s = .next t ∧ t.up = s.up ∧ t.mem = s.mem ∧
      (∃ o ∈ (t.core b.core.val).ops, o.thr = [x] ∧
        o.kind = .load d.val size sext [] [(x, loadWord size sext (bytesAt n.data (p % 128) 4))]) ∧
      (t.core b.core.val).regs = (s.core b.core.val).regs := by
  obtain ⟨y, m, hbench, hexec⟩ := exec_devLoad_of_issues (sext := sext) h hq hthr hx (Core.not_crowded_of_hit hfind)
  have hcore : y.core b.core.val = (s.core b.core.val).overwrite i.threads [d.val] :=
    (State.core_of_bench hbench _).trans (State.core_setCore_same _ _ _)
  have hyquiet := hquiet.overwrite i.threads [d.val]
  obtain ⟨ops, arr, hover⟩ := (s.core b.core.val).overwrite_eq i.threads [d.val]
  rw [← hcore] at hyquiet hover
  obtain ⟨t, hstart, hup, hop, hregs⟩ := State.memStart_load_of_hit (bslot := i.bslot) (thr := [x]) (x := x) hyquiet rfl
    (by rw [hover]; exact hfind) hred hvalid d.val size sext
  have hmem : t.mem = s.mem := by
    rw [← hstart, State.memStart_mem, State.mem_of_bench hbench, State.claim_mem]
  rw [hstart] at hexec
  obtain ⟨hdregs, -, hdops⟩ := State.lsuDone_core t b i m
  refine ⟨_, hexec, hup.trans ((State.up_of_bench hbench).trans (State.claim_up ..)),
    (State.lsuDone_mem ..).trans hmem, ?_, ?_⟩
  · rw [hdops]
    exact hop
  · rw [hdregs, hregs, hover]

theorem exec_devLoad_of_free {size : MemSize} {sext : Bool} {d a : VReg} {w : Nat}
    (h : s.issues b [d.val] [a.val, a.val + 1] .memory i lf z) (hthr : i.threads = [x])
    (hx : q.xlateAll i.ctx .read [(x, (s.core b.core.val).devAddr x a.val (MemSize.bytes size))] = .ok [(x, p, l)])
    (hfind : (s.core b.core.val).l1Find (p / 128) = none)
    (hway : (s.core b.core.val).pickWay (p / 128) = some (w, none)) (hroom : (s.core b.core.val).miss.length < 256) :
    ∃ t, exec (.load b .device size sext d a) s = .next t ∧ t.mem = s.mem ∧
      t.up = (s.sendMiss b.core.val (p / 128) (.rd (sectorsOf [p]) (s.coreCtx b.core.val))).up ∧
      (t.core b.core.val).miss = (s.core b.core.val).miss ++
        [⟨p / 128, w, .rd (sectorsOf [p]), { ctx := s.coreCtx b.core.val, bslot := i.bslot }⟩] := by
  obtain ⟨y, m, hbench, hexec⟩ := exec_devLoad_of_issues (sext := sext) h hq hthr hx (Core.not_crowded hway hroom)
  have hcore : y.core b.core.val = (s.core b.core.val).overwrite i.threads [d.val] :=
    (State.core_of_bench hbench _).trans (State.core_setCore_same _ _ _)
  have hyquiet := hquiet.overwrite i.threads [d.val]
  obtain ⟨ops, arr, hover⟩ := (s.core b.core.val).overwrite_eq i.threads [d.val]
  rw [← hcore] at hyquiet hover
  have hctx : y.coreCtx b.core.val = s.coreCtx b.core.val :=
    State.coreCtx_congr (by rw [hover]) ((State.works_of_bench hbench).trans (State.claim_works ..))
  obtain ⟨t, hstart, hup, hmiss⟩ := State.memStart_of_absent (bslot := i.bslot) (thr := [x]) (mk := .rd (sectorsOf [p]))
    (kind := .load d.val size sext [(x, p)] []) hyquiet (by rw [hover]; exact hfind) (by rw [hover]; exact hway)
    (by rw [hover]; exact hroom) (by simp [Core.fresh, MemOp.waitsOn]) fun u hu => State.pumpLoad_of_free hu _ _ _
  have hmem : t.mem = s.mem := by
    rw [← hstart, State.memStart_mem, State.mem_of_bench hbench, State.claim_mem]
  rw [hctx] at hup hmiss
  rw [hstart] at hexec
  obtain ⟨-, -, hdmiss, -⟩ := State.lsuDone_keeps t b i m 0
  refine ⟨_, hexec, (State.lsuDone_mem ..).trans hmem,
    hup.trans (State.up_sendMiss_congr ((State.up_of_bench hbench).trans (State.claim_up ..)) ..), ?_⟩
  rw [hdmiss, hmiss, hover]

end

end Sys2Proof.Machine

namespace Sys2Proof.Proofs.L1ScratchLlc
open Sys2Proof.Machine

/-- Settles O29: an access starts on its line at once, where nothing else waits for it, and does what the line's state
says. -/
theorem deviceAccesses : Obligations.DeviceAccesses := by
  unfold Obligations.DeviceAccesses
  refine ⟨?_, ?_, fun b m s i lf z h => exec_memFence_of_issues h, ?_, ?_,
    fun s k line b => ⟨State.up_sendMiss_perm s k line b, State.filter_up_sendMiss s k line b⟩⟩
  · intro b ty a v s q i lf l z x p w h hq hthr hx hfind hway hroom hops hmiss
    obtain ⟨t, hexec, hred, hrest⟩ := exec_stAdd_of_free hq ⟨hops, hmiss⟩ h hthr hx hfind hway hroom
    exact ⟨t, _, hexec, hred, rfl, rfl, rfl, rfl, rfl, hrest⟩
  · intro b a n chk s q i lf l z x p g h hq hsel hstrand hlead hcount hx hops hmiss
    exact exec_memDead_of_one hq ⟨hops, hmiss⟩ h hsel hstrand hlead hcount hx
  · intro b size sext d a s q i lf l z x p h hq hthr hx hops hmiss
    refine ⟨fun n hfind hred hvalid => ?_, fun w hfind hway hroom => ?_⟩
    · exact exec_devLoad_of_hit hq ⟨hops, hmiss⟩ h hthr hx hfind hred hvalid
    · exact exec_devLoad_of_free hq ⟨hops, hmiss⟩ h hthr hx hfind hway hroom
  · intro b size v a s q i lf l z x p h hq hthr hx hfits hops hmiss
    refine ⟨fun n hfind hexcl hlen => ?_, fun w hfind hway hroom => ?_⟩
    · obtain ⟨t, used, hexec, hup, hmem, hline⟩ := exec_devStore_of_hit hq ⟨hops, hmiss⟩ h hthr hx hfind hexcl
      exact ⟨t, _, hexec, hup, hmem, hline, rfl,
        foldl_setAt_placed _ _ (by rw [length_leBytes, hlen]; exact hfits)⟩
    · exact exec_devStore_of_free hq ⟨hops, hmiss⟩ h hthr hx hfind hway hroom

end Sys2Proof.Proofs.L1ScratchLlc

namespace Sys2Proof.Machine

/-!
## DMA pieces (R345, R355 to R357, R360, R367)
-/

/-! ### The slow tier without errors (R40, R371) -/

section
variable {s : State} (hclean : s.hbm.upset = [])
include hclean

theorem State.setUpset_zero_of_clean (k : Nat) : s.setUpset k 0 = s := by
  rw [State.setUpset, hclean]
  change { s with hbm := { s.hbm with upset := [] } } = s
  rw [← hclean]

theorem State.slowWrite_of_clean (a : Nat) (bs : List Byte) : s.slowWrite a bs = s.memWrite a bs :=
  foldl_keeps (fun t : State => t = s.memWrite a bs) _
    (fun _ k ht => ht ▸ State.setUpset_zero_of_clean (s := s.memWrite a bs) hclean k) _ _ rfl

theorem State.upsetOf_of_clean (k : Nat) : s.upsetOf k = 0 := by
  rw [State.upsetOf, hclean]
  rfl

theorem State.poisoned_of_clean (k : Nat) : s.poisoned k = false := by
  rw [State.poisoned, State.upsetOf_of_clean hclean]
  decide

theorem State.rangePoison_of_clean (a n : Nat) : s.rangePoison a n = false := by
  have hbad : ∀ k, s.badSector k = false := fun k => by
    rw [State.badSector, State.poisoned_of_clean hclean, Bool.false_and]
  simp [State.rangePoison, hbad]

theorem State.readSector_of_clean (k : Nat) : s.readSector k = s := by
  rw [State.readSector, State.poisoned_of_clean hclean, State.upsetOf_of_clean hclean]
  rfl

theorem State.readSlow_of_clean (a n : Nat) : s.readSlow a n = s := by
  rw [State.readSlow]
  split
  · rfl
  · exact foldl_keeps (fun t : State => t = s) _ (fun _ k ht => ht ▸ State.readSector_of_clean hclean k) _ _ rfl

end

theorem addrKind_of_slow {v : Variant} {a : Nat} (h : isSlow v a = true) : addrKind v a = .slow := by
  cases hk : addrKind v a <;> simp [isSlow, hk] at h ⊢

theorem physParts_of_within {a n : Nat} (hn : 0 < n) (h : a % 0x40000000 + n ≤ 0x40000000) :
    physParts a n = [{ host := false, addr := a, len := n }] := by
  have hmin : min n (0x40000000 - a % 0x40000000) = n := by omega
  simp [physParts, hmin, hn.ne']

section
variable {s : State} {w : Work} {e a : Nat} {j : DmaJob} {h : HostData}

/-- A physical command reads bytes of the slow tier as they stand. -/
theorem readPart_of_slow {n : Nat} (hphys : j.phys = true) (hclean : s.hbm.upset = []) (hslow : isSlow s.variant a = true) :
    readPart w e { host := false, addr := a, len := n } s j h = .ok (s.memRead a n) s j h := by
  have hkind := addrKind_of_slow hslow
  have hread : s.agentRead false a n = some s := by
    simp only [State.agentRead, State.agentReads, State.readRange, hkind, State.readSlow_of_clean hclean, List.foldl_cons,
      List.foldl_nil, Option.bind_some]
  simp [readPart, hkind, hphys, State.rangePoison_of_clean hclean, hread, State.devRead]

theorem dmaSrc_of_slow {n : Nat} (hphys : j.phys = true) (hprobe : j.probe = false) (hcache : j.cache = [])
    (hclean : s.hbm.upset = []) (hn : 0 < n) (hgib : a % 0x40000000 + n ≤ 0x40000000)
    (hslow : isSlow s.variant a = true) : dmaSrc w e a n s j h = .ok (s.memRead a n) s j h := by
  simp [dmaSrc, hcache, dmaRead, dmaMap, hphys, physParts_of_within hn hgib, DmaRes.andThen, eachPart,
    readPart_of_slow (w := w) hphys hclean hslow, hprobe]

/-- A physical command writes bytes of the slow tier, and counts them (R40, R367). -/
theorem dmaOut_of_slow {off : Nat} {bs : List Byte} (hslot : j.slot = none) (hphys : j.phys = true)
    (hprobe : j.probe = false) (hclean : s.hbm.upset = []) (hbs : 0 < bs.length)
    (hgib : (j.dst + off) % 0x40000000 + bs.length ≤ 0x40000000) (hslow : isSlow s.variant (j.dst + off) = true) :
    dmaOut w e nothing off bs s j h =
      .ok () ((s.memWrite (j.dst + off) bs).addCount .dma e 0x804 bs.length) j h := by
  have hkind := addrKind_of_slow hslow
  have hnonempty : bs ≠ [] := List.ne_nil_of_length_pos hbs
  have hedge : s.edgePoison (j.dst + off) bs.length = false := by simp [State.edgePoison, isStack, hkind]
  simp [dmaOut, hnonempty, hprobe, hslot, dmaPut, dmaMap, hphys, physParts_of_within hbs hgib, DmaRes.andThen, writeParts,
    writePart, hkind, hedge, State.cohWrite, hslow, State.slowWrite_of_clean hclean, nothing]

/-- What such a write leaves. -/
theorem State.wrote_counted (s : State) (e a : Nat) (bs : List Byte) : ∃ t,
    (s.memWrite a bs).addCount .dma e 0x804 bs.length = t ∧ t = { s with mem := t.mem, regs := t.regs } ∧
    t.memRead a bs.length = bs ∧ (∀ b, b < a ∨ a + bs.length ≤ b → t.memByte b = s.memByte b) ∧
    t.counter .dma e 0x804 = s.counter .dma e 0x804 + bs.length :=
  ⟨_, rfl, rfl, State.memRead_memWrite s a bs, fun _ hb => State.memByte_memWrite_out s a bs hb,
    State.counter_addCount_same (s.memWrite a bs) _ _ _ _⟩

theorem length_fillBytes (pat n : Nat) : (fillBytes pat n).length = n := by simp [fillBytes]

theorem length_memRead (s : State) (a n : Nat) : (s.memRead a n).length = n := by simp [State.memRead]

theorem runPiece_fill_of_slow (hop : j.op = .fill) (hslot : j.slot = none) (hphys : j.phys = true)
    (hprobe : j.probe = false) (hclean : s.hbm.upset = []) (hlt : j.lo < j.hi)
    (hgib : (j.dst + j.lo) % 0x40000000 + (j.hi - j.lo) ≤ 0x40000000) (hslow : isSlow s.variant (j.dst + j.lo) = true) :
    runPiece w e s j h = .ok () ((s.memWrite (j.dst + j.lo) (fillBytes j.src (j.hi - j.lo))).addCount .dma e 0x804
      (fillBytes j.src (j.hi - j.lo)).length) j h := by
  have hlen := length_fillBytes j.src (j.hi - j.lo)
  simp only [runPiece, hop]
  exact dmaOut_of_slow hslot hphys hprobe hclean (by omega) (by omega) hslow

theorem runPiece_copy_of_slow (hop : j.op = .copy) (hslot : j.slot = none) (hphys : j.phys = true)
    (hprobe : j.probe = false) (hcache : j.cache = []) (hclean : s.hbm.upset = []) (hlt : j.lo < j.hi)
    (hgib : (j.dst + j.lo) % 0x40000000 + (j.hi - j.lo) ≤ 0x40000000) (hslow : isSlow s.variant (j.dst + j.lo) = true)
    (hsrcgib : (j.src + j.lo) % 0x40000000 + (j.hi - j.lo) ≤ 0x40000000)
    (hsrc : isSlow s.variant (j.src + j.lo) = true) :
    runPiece w e s j h = .ok () ((s.memWrite (j.dst + j.lo) (s.memRead (j.src + j.lo) (j.hi - j.lo))).addCount .dma e 0x804
      (s.memRead (j.src + j.lo) (j.hi - j.lo)).length) j h := by
  have hlen := length_memRead s (j.src + j.lo) (j.hi - j.lo)
  have hread := dmaSrc_of_slow (w := w) (e := e) (h := h) hphys hprobe hcache hclean (Nat.sub_pos_of_lt hlt) hsrcgib hsrc
  simp only [runPiece, hop, hread, DmaRes.andThen]
  exact dmaOut_of_slow hslot hphys hprobe hclean (by omega) (by omega) hslow

end

/-! ### Pieces that an engine takes and moves (R356, R357) -/

section
variable {s : State} {h : HostData}

/-- A command whose destination is no slot has its piece moved. -/
theorem State.pieceMoved_of_no_slot {w : Work} {k : DmaJob} (p : DmaPiece) (hslot : k.slot = none) : s.pieceMoved w k p =
    (s.setWork { w with job := .dma { k with
      next := p.n + 1, flight := k.flight.filter (·.n ≠ p.n), cache := [] } }).addCount .dma p.engine 0x808 1 := by
  simp only [State.pieceMoved, State.slotsReady, hslot]

theorem State.takePieces_of_idle {e : Nat} (n : Nat) (hidle : bit (s.cfg .dma e 0x100) 0 = false ∨ s.inHold .dma e = true ∨
    s.inReset .dma e = true ∨ field (s.cfg .dma e 0x200) 4 0 ≤ s.engineLoad e ∨ s.waitingPieces (e / 8) h = []) :
    State.takePieces n s e h = (s, h) := by
  cases n with
  | zero => rfl
  | succ n =>
    rw [State.takePieces]
    rcases hidle with hoff | hhold | hreset | hfull | hnone
    · simp [hoff]
    · simp [hhold]
    · simp [hreset]
    · simp [hfull]
    · have hnext : s.nextPiece e [] = none := rfl
      simp [hnone, hnext]

theorem State.takePieces_of_next {e : Nat} {w : Work} {j : DmaJob} (n : Nat) (hon : bit (s.cfg .dma e 0x100) 0 = true)
    (hhold : s.inHold .dma e = false) (hreset : s.inReset .dma e = false)
    (hload : s.engineLoad e < field (s.cfg .dma e 0x200) 4 0)
    (hnext : s.nextPiece e (s.waitingPieces (e / 8) h) = some (w, j)) :
    let q : DmaPiece := { n := j.taken, engine := e }
    let k := { j with taken := j.taken + 1, flight := j.flight ++ [q] }
    let t := (s.serve e ((s.waitingPieces (e / 8) h).map (·.1.part)).dedup w.part).setWork { w with job := .dma k }
    State.takePieces (n + 1) s e h = State.takePieces n (t.readAhead w k q h).1 e (t.readAhead w k q h).2 := by
  intro q k t
  simp only [State.takePieces, hon, hhold, hreset, hnext, decide_eq_false (Nat.not_le.2 hload)]
  rfl

theorem State.readAhead_of_not_free {t : State} {w : Work} {k : DmaJob} {q : DmaPiece} (hfree : bit t.freeWord 0 = false) :
    t.readAhead w k q h = (t.useFree 1, h) := by
  rw [State.readAhead, hfree]
  rfl

theorem exec_dmaPiece_of_taken {t : State} {e : Fin 32} {g : HostData}
    (htake : State.takePieces 16 (s.dmaJobs.foldl (State.planPiece h) s) e.val h = (t, g)) :
    exec (.dmaPiece e h) s = .next (t.movePiece e.val g) := by
  change execDmaPiece e h s = _
  rw [execDmaPiece, htake]

theorem State.movePiece_of_due {t u : State} {e : Nat} {w : Work} {j k : DmaJob} {p : DmaPiece} {g h' : HostData}
    (hdue : t.duePiece e = some (w, j, p)) (hrun : runPiece w e t { j with cache := p.cache } g = .ok () u k h') :
    t.movePiece e g = u.pieceMoved w k p := by
  simp only [State.movePiece, hdue, hrun]

/-! ### The end of a command (R338, R355) -/

theorem exec_dmaCommandEnd_of_work {id : Nat} {w : Work} {j : DmaJob} (hwork : s.work id = some w) (hjob : w.job = .dma j)
    (hrun : w.running = true) (hdone : j.pieces ≤ j.next) : exec (.dmaCommandEnd id) s =
      .next (if s.writesLeft (dmaFor w) = true then s else s.endWork w stEnded) := by
  refine congrArg Host.Outcome.next ?_
  simp only [hwork, hjob, hrun, hdone]
  cases s.writesLeft (dmaFor w) <;> rfl

theorem State.endWork_gone (w : Work) (status : Byte) : ∀ v ∈ (s.endWork w status).works, v.id ≠ w.id := by
  rw [State.endWork_works]
  intro v hv
  simpa using (List.mem_filter.1 hv).2

end

end Sys2Proof.Machine

namespace Sys2Proof.Proofs.L1ScratchLlc
open Sys2Proof.Machine

/-- Settles O44: in the slow tier a piece is one read and one write of its bytes, and a command leaves the list of works
as it ends. -/
theorem dmaPieces : Obligations.DmaPieces := by
  unfold Obligations.DmaPieces
  refine ⟨?_, ?_, ?_, ?_, ?_, ?_, ?_⟩
  · intro e h g h' s t u w j k p htake hdue hrun
    rw [exec_dmaPiece_of_taken htake, State.movePiece_of_due hdue hrun]
  · intro s w v k p hwork hslot d t
    have ht : t = (s.setWork { w with job := .dma d }).addCount .dma p.engine 0x808 1 := State.pieceMoved_of_no_slot p hslot
    rw [ht]
    exact ⟨State.work_setWork_same (v := { w with job := .dma d }) hwork, rfl, rfl,
      State.counter_addCount_same (s.setWork { w with job := .dma d }) _ _ _ _⟩
  · intro n e s h hidle
    exact State.takePieces_of_idle n hidle
  · intro n e s h w j hon hhold hreset hload hnext q k t
    refine ⟨State.takePieces_of_next n hon hhold hreset hload hnext, ?_⟩
    cases hfree : bit t.freeWord 0 with
    | false => exact .inl (State.readAhead_of_not_free hfree)
    | true => exact .inr rfl
  · intro w e s j h hop hslot hphys hprobe hclean hlt hgib hslow
    obtain ⟨t, ht, hrest, hread, hother, hcount⟩ := s.wrote_counted e (j.dst + j.lo) (fillBytes j.src (j.hi - j.lo))
    rw [length_fillBytes] at hread hother hcount
    refine ⟨t, ?_, hrest, hread, fun a ha => hother a (by omega), hcount⟩
    rw [runPiece_fill_of_slow hop hslot hphys hprobe hclean hlt hgib hslow, ht]
  · intro w e s j h hop hslot hphys hprobe hcache hclean hlt hgib hslow hsrcgib hsrc
    obtain ⟨t, ht, hrest, hread, hother, -⟩ :=
      s.wrote_counted e (j.dst + j.lo) (s.memRead (j.src + j.lo) (j.hi - j.lo))
    rw [length_memRead] at hread hother
    refine ⟨t, ?_, hrest, hread, fun a ha => hother a (by omega)⟩
    rw [runPiece_copy_of_slow hop hslot hphys hprobe hcache hclean hlt hgib hslow hsrcgib hsrc, ht]
  · intro id s w j hwork hjob hrun hdone
    have hexec := exec_dmaCommandEnd_of_work hwork hjob hrun hdone
    refine ⟨fun hleft => ⟨_, hexec.trans (congrArg _ (if_neg (by rw [hleft]; decide))), State.endWork_gone w stEnded⟩,
      fun hleft => hexec.trans (congrArg _ (if_pos hleft))⟩

end Sys2Proof.Proofs.L1ScratchLlc

namespace Sys2Proof.Machine

/-!
## A Narog report whose ring lies beyond the address map (R46, R391, R395)

The counters of all blocks stand in one table by `regKey`: block, number within the block, and offset, and the number is not
bounded. A line beyond the address map has a home die far beyond 3, and the LLC counter of that die is a counter of another
block. No hypothesis of O45 keeps a context's ring within the map, so the writes of its completion record count there too.
-/

/-- MISS of the LLC of such a die is ABORTS of Narog. -/
theorem regKey_llc_far : regKey .llc (homeDie (393216 * 3 * 2 ^ 36 / 128)) 0x808 = regKey .narog 0 0x808 := rfl

/-- An UPDATE that has ended NONFINITE_NORM. -/
def abortedUpdate : NarogJob :=
  { cast := false, sg := 0, tlist := 0, tcount := 1, clip := 0, normSq := 0, phase := .ended 1 }

def abortedWork : Work :=
  { id := 1, ctx := some 0, part := 0, frame := 0, slot := 0, irqEnd := false, running := true, job := .narog abortedUpdate }

/-- The reset state but for that work and for its context's ring, on the first line of the die. -/
def farRing : State :=
  { State.reset with works := [abortedWork], ctxs := [(0, { ringBase := 393216 * 3 * 2 ^ 36 })] }

theorem exec_narogReport_of_ended {s : State} {id r : Nat} {w : Work} {j : NarogJob} (hjob : s.narogJob id = some (w, j))
    (hphase : j.phase = .ended r) (hleft : s.writesLeft (.narog, w.ctx) = false) :
    exec (.narogReport id) s = .next (s.endWork w stEnded) := by
  refine congrArg Host.Outcome.next ?_
  simp only [hjob, hphase, hleft]
  rfl

theorem counter_farRing : farRing.counter .narog 0 0x808 = 0 := rfl

/-- The abort is counted once, and the write of END_INFO, which covers no whole sector, once more, as a MISS. -/
theorem counter_endWork_farRing : (farRing.endWork abortedWork stEnded).counter .narog 0 0x808 = 2 := by decide +kernel

end Sys2Proof.Machine

namespace Sys2Proof.Proofs.L1ScratchLlc
open Sys2Proof.Machine

/-- Refutes O45: its last clause says of every state that the report of an UPDATE that did not commit raises ABORTS by one.
In `farRing` ABORTS goes from 0 to 2, since the completion record's write is counted under the same key. -/
theorem not_narogJobs : ¬ Obligations.NarogJobs := by
  unfold Obligations.NarogJobs
  rintro ⟨-, -, -, hreport⟩
  have hjob : farRing.narogJob 1 = some (abortedWork, abortedUpdate) := rfl
  have hleft : farRing.writesLeft (.narog, abortedWork.ctx) = false := rfl
  obtain ⟨-, hends⟩ := hreport 1 1 farRing abortedWork abortedUpdate hjob rfl (by decide)
  obtain ⟨t, hexec, -, -, haborts⟩ := hends hleft
  obtain ⟨-, hcount⟩ := haborts (by decide) rfl
  rw [exec_narogReport_of_ended hjob rfl hleft] at hexec
  rw [← Host.Outcome.next.inj hexec, counter_endWork_farRing, counter_farRing] at hcount
  exact absurd hcount (by decide)

end Sys2Proof.Proofs.L1ScratchLlc
